-- ==== Sys2Proof/Word.lean ====
section
/-! DEFINITION. The word types of the Hexeno H4 (R7, R61, R131) and the sparse table every keyed
store of the machine is held in. -/

namespace Sys2Proof

/-- One byte of memory. -/
abbrev Byte := BitVec 8

/-- A 32-bit register word (R41). -/
abbrev Word := BitVec 32

/-- A 64-bit pair or page-table entry. -/
abbrev DWord := BitVec 64

/-- A word address of code: PC, branch targets, loop bounds (R61). -/
abbrev PC := BitVec 55

/-- A 57-bit virtual or aperture address (R131). -/
abbrev VAddr := BitVec 57

/-- A mode register (R16). -/
abbrev ModeWord := BitVec 16

/-- A register field of an instruction word (R28). -/
abbrev Reg := BitVec 8

/-- A set of slices of a gang, bit s for slice s. -/
abbrev SliceSet := BitVec 8

/-- A set of lanes of a gang, bit l for lane l. -/
abbrev LaneSet := BitVec 32

/-- Sparse data by key: the keys rise strictly, and a key not listed holds the default of the
table. -/
abbrev Cells (α : Type) := List (Nat × α)

end Sys2Proof
end

