-- ==== Sys2Proof/Machine/Cells.lean ====
section
/-! DEFINITION. Reading and writing sparse tables in their one canonical form, and the bit-field,
byte-order and list helpers of the machine. -/

namespace Sys2Proof

/-- The value at key `n`; a key not listed holds `d`. Log 4 (DESIGN CHOICE). -/
def Cells.get {α : Type} (d : α) : Cells α → Nat → α
  | [], _ => d
  | (k, v) :: r, n => if n < k then d else if n = k then v else Cells.get d r n

/-- The value at key `n`, if it is listed. -/
def Cells.find? {α : Type} : Cells α → Nat → Option α
  | [], _ => none
  | (k, v) :: r, n => if n < k then none else if n = k then some v else Cells.find? r n

/-- The table without key `n`. -/
def Cells.erase {α : Type} : Cells α → Nat → Cells α
  | [], _ => []
  | (k, v) :: r, n => if n < k then (k, v) :: r else if n = k then r else (k, v) :: Cells.erase r n

/-- The table with `x` listed at key `n`. -/
def Cells.insert {α : Type} : Cells α → Nat → α → Cells α
  | [], n, x => [(n, x)]
  | (k, v) :: r, n, x =>
    if n < k then (n, x) :: (k, v) :: r
    else if n = k then (n, x) :: r
    else (k, v) :: Cells.insert r n x

/-- The table that holds `x` at key `n`, where `d` is what an unlisted key holds: writing `d`
removes the entry. -/
def Cells.put {α : Type} [DecidableEq α] (d : α) (c : Cells α) (n : Nat) (x : α) : Cells α :=
  if x = d then Cells.erase c n else Cells.insert c n x

/-- The keys of a table rise strictly from `lo`, and no entry is the default. -/
def Cells.wfFrom {α : Type} [DecidableEq α] (d : α) : Nat → Cells α → Bool
  | _, [] => true
  | lo, (k, v) :: r => decide (lo ≤ k) && decide (v ≠ d) && Cells.wfFrom d (k + 1) r

/-- The canonical form of a table. -/
def Cells.wf {α : Type} [DecidableEq α] (d : α) (c : Cells α) : Bool := Cells.wfFrom d 0 c

/-- The canonical form of a memory: addresses rise strictly, and no listed byte is zero, which is what an
unlisted byte reads as (log 4). -/
def Memory.wf (m : Cells Byte) : Bool := Cells.wf 0 m

/-- Bits [lo + n − 1 : lo] of a word, as a number. -/
def fieldNat {w : Nat} (x : BitVec w) (lo n : Nat) : Nat := x.toNat >>> lo % 2 ^ n

/-- The word with bits [lo + n − 1 : lo] replaced by the low bits of `v`. -/
def setField {w : Nat} (x : BitVec w) (lo n v : Nat) : BitVec w :=
  (x &&& ~~~(BitVec.ofNat w ((2 ^ n - 1) <<< lo))) ||| BitVec.ofNat w ((v % 2 ^ n) <<< lo)

/-- The number whose bit i is `f i`, for i below n. -/
def bitsNat (f : Nat → Bool) : Nat → Nat
  | 0 => 0
  | n + 1 => bitsNat f n + if f n then 2 ^ n else 0

/-- The set of the lanes that satisfy `f`. -/
def laneSet (f : Nat → Bool) : LaneSet := BitVec.ofNat 32 (bitsNat f 32)

/-- The set of the slices that satisfy `f`. -/
def sliceSet (f : Nat → Bool) : SliceSet := BitVec.ofNat 8 (bitsNat f 8)

/-- The lanes of a set in increasing order. -/
def lanesOf (m : LaneSet) : List Nat := (List.range 32).filter (fun l => m.getLsbD l)

/-- The slices of a set in increasing order. -/
def slicesOf (m : SliceSet) : List Nat := (List.range 8).filter (fun s => m.getLsbD s)

/-- The lowest member of a set, if it has one. -/
def lowest? (n : Nat) (f : Nat → Bool) : Option Nat := (List.range n).find? f

/-- The bytes of a number, lowest address first (R61). -/
def bytesOf (x : Nat) : Nat → List Byte
  | 0 => []
  | n + 1 => BitVec.ofNat 8 x :: bytesOf (x / 256) n

/-- The number that bytes hold, lowest address first (R61). -/
def natOfBytes : List Byte → Nat
  | [] => 0
  | b :: bs => b.toNat + 256 * natOfBytes bs

/-- A list cut or filled to length n. -/
def fitList {α : Type} (d : α) : Nat → List α → List α
  | 0, _ => []
  | n + 1, [] => d :: fitList d n []
  | n + 1, x :: xs => x :: fitList d n xs

/-- The words of a 64-bit value, low word first (R29). -/
def wordsOf (x : DWord) (n : Nat) : List Word :=
  (List.range n).map (fun i => (x >>> (32 * i)).setWidth 32)

/-- The value of words, low word first (R29). -/
def dwordOf : List Word → DWord
  | [] => 0
  | [a] => a.setWidth 64
  | a :: b :: _ => b ++ a

/-- The number of bytes as a list of words, low word first; a short last word is filled with zeros. -/
def wordsOfBytes : List Byte → List Word
  | a :: b :: c :: d :: r => (d ++ c ++ b ++ a) :: wordsOfBytes r
  | [] => []
  | bs => [BitVec.ofNat 32 (natOfBytes bs)]

/-- The bytes of words, low word first. -/
def bytesOfWords : List Word → List Byte
  | [] => []
  | w :: ws => bytesOf w.toNat 4 ++ bytesOfWords ws

/-- The `n` bytes from address `a`; an unlisted byte holds zero. -/
def Cells.bytes (m : Cells Byte) (a : Nat) : Nat → List Byte
  | 0 => []
  | n + 1 => Cells.get 0 m a :: Cells.bytes m (a + 1) n

/-- The memory with bytes written from address `a` on. -/
def Cells.write (m : Cells Byte) (a : Nat) : List Byte → Cells Byte
  | [] => m
  | b :: bs => Cells.write (Cells.put 0 m a b) (a + 1) bs

/-- A store of words with a range of `n` words from key `a` set to zero. -/
def Cells.clear {α : Type} (c : Cells α) (a n : Nat) : Cells α :=
  c.filter (fun e => decide (e.1 < a) || decide (a + n ≤ e.1))

/-- The entries of a range of `n` keys from `a`, with the keys counted from `a`. -/
def Cells.slice {α : Type} (c : Cells α) (a n : Nat) : Cells α :=
  (c.filter (fun e => decide (a ≤ e.1) && decide (e.1 < a + n))).map (fun e => (e.1 - a, e.2))

/-- The entries of a table inserted into another at an offset. -/
def Cells.paste {α : Type} (c : Cells α) (a : Nat) : Cells α → Cells α
  | [] => c
  | (k, v) :: r => Cells.paste (Cells.insert c (a + k) v) a r

end Sys2Proof
end

