-- ==== Sys2Proof/Syntax.lean ====
section
/-! DEFINITION. The instructions and steps of spec/opcode_table.json, one constructor per row, and
the plain data that a step of the device carries from the place it was posted to the place it
happens. -/

namespace Sys2Proof

/-- One resident gang: its core (die × 96 + cluster × 8 + core), its core gang slot (R162), and the
model's own number of that residence, so that a slot used again is another gang. -/
structure GangRef where
  core : Nat
  slot : Nat
  gid : Nat
  deriving DecidableEq, Repr, Inhabited

/-- Where an access is performed: module memory with the coherence treatment of its page (R241), a
core's banked store (apertures 0x00 to 0x02, R132, R163), chip scratchpad, management registers
(R363), the host window (R374). Memory of another module follows that of this one (R382). -/
inductive Place where
  | mem (pa coh : Nat)
  | store (core off : Nat)
  | cspad (die off : Nat)
  | mgmt (off : Nat)
  | host (session addr : Nat)
  deriving DecidableEq, Repr, Inhabited

/-- The atomic operations of R147 and R148. -/
inductive AtOp where
  | add | min | max | and | or | xor | xchg | cas | qadd
  deriving DecidableEq, Repr, Inhabited

/-- The lanes that receive a value and, for each, the register words that receive it,
lowest-addressed word first, as offsets in words from the gang's window base (R31). Lane 33 + k is a
uniform result that slice k produces, lane 32 the result of a form whose group waits for it. -/
abbrev Dest := List (Nat × List Nat)

/-- What an access does where it is performed: a load, an `ldw` (R142), a store, an atomic, `wb` or
`inv` of a line (R140), the reading or advancing of an object's VERSION (R151, R152), the reading of
a shape record for `bind` or `unbind` (R150), whose further 8-byte pieces lie at `rest`. -/
inductive AccKind where
  | load (dst : Dest)
  | loadw (dst : Dest)
  | store (bytes : List Byte)
  | atomic (op : AtOp) (typ : Nat) (mode : ModeWord) (b c : DWord) (dst : Dest)
  | maint (drop : Bool)
  | version (bump : Bool) (dst : Dest)
  | bind (undo : Bool) (object : VAddr) (rest : List Place) (dst : Dest)
  deriving DecidableEq, Repr, Inhabited

/-- One lane's access on its way to its home (R135, R146), with the lanes it stands for, the address of its sequence
and the gang's count of sequences with it (R230). A uniform access has lane 32. A stale one is translated again before
it is performed (R347). -/
structure Access where
  gang : GangRef
  slices : SliceSet
  lane : Nat
  lanes : LaneSet
  session : Nat
  level : Nat
  va : VAddr
  place : Place
  size : Nat
  pc : PC
  seq : Nat
  kind : AccKind
  stale : Bool
  deriving DecidableEq, Repr, Inhabited

/-- One lane's pending delivery of a long-latency producer (R34), with the register words it writes
as offsets from the gang's window base. Lanes from 32 on are uniform results. -/
structure Delivery where
  gang : GangRef
  lane : Nat
  writes : List (Nat × Word)
  deriving DecidableEq, Repr, Inhabited

/-- One lane's call in a coprocessor queue (R208, R282); `team` is the model's number of the calling
team's residence. -/
structure Call where
  ep : Nat
  gang : GangRef
  team : Nat
  lane : Nat
  tag : Nat
  cap : Nat
  session : Nat
  level : Nat
  die : Nat
  words : List Word
  dst : List Nat
  deriving DecidableEq, Repr, Inhabited

/-- A return record on its way to the calling lane (R209). -/
structure RetRec where
  call : Call
  words : List Word
  deriving DecidableEq, Repr, Inhabited

/-- A fault record (R317). -/
structure FaultRec where
  die : Nat
  cause : BitVec 8
  kind : Nat
  eng : Bool
  unit : Bool
  session : Nat
  fid : Word
  vaddr : VAddr
  place : BitVec 14
  slot : Nat
  detail : Word
  pc : PC
  deriving DecidableEq, Repr, Inhabited

/-- A team launch record (R167). -/
structure TeamRec where
  gangs : Nat
  slices : Nat
  vcount : Nat
  base : Nat
  mode : ModeWord
  entry : PC
  handler : PC
  pbase : VAddr
  psize : Nat
  scratch : Nat
  captab : VAddr
  arg : DWord
  session : Nat
  tilebytes : Nat
  tctl : List Word
  tbase : List Word
  deriving DecidableEq, Repr, Inhabited

/-- One launch the command processor makes: the placement it chose, the record, the crew's part of
R214, and the stage instance it serves (R268). -/
structure Launch where
  die : Nat
  cluster : Nat
  cores : List Nat
  record : TeamRec
  cmcore : Nat
  dbgstart : Bool
  dbgarea : VAddr
  session : Nat
  inst : Nat
  arg : DWord
  isCrew : Bool
  pipe : Option Nat
  stage : Nat
  deriving DecidableEq, Repr, Inhabited

/-- A firmware image as R376 lays it out: public key, security version, body, digest, signature. -/
structure FwImage where
  key : List Byte
  svn : Nat
  body : List Byte
  digest : List Byte
  signature : List Byte
  deriving DecidableEq, Repr, Inhabited

/-- What firmware sets at start-up by R380: the module number, the session-table base, the record
of partition 0, and the partition manager's session and first team. `phase` counts the steps of start-up
taken. -/
structure FwStart where
  phase : Nat
  image : FwImage
  mid : Nat
  mstab : Nat
  part0 : List Word
  session : Nat
  context : List Byte
  team : Launch
  armada : BitVec 16
  deriving DecidableEq, Repr, Inhabited

/-- Who makes an access to MGMT: a gang at its level, or a host function (R364). -/
structure Requester where
  host : Bool
  fn : Nat
  level : Nat
  part : Nat
  deriving DecidableEq, Repr, Inhabited

/-- One rank's call of a collective (R389), with the sources of a rank on another module, whose
memory this model does not run. -/
structure Member where
  module : Nat
  die : Nat
  session : Nat
  sources : List DWord
  deriving DecidableEq, Repr, Inhabited

/-- Who finds an uncorrectable error (R334, R357, R373): the die's scrubber, an access of a gang or of its engine
commands to a virtual address, a unit call at an address, or the completion of a read of the host window that comes
back poisoned. -/
inductive Finder where
  | scrubber
  | access (g : GangRef) (va : VAddr)
  | unit (x : Call) (va : VAddr)
  | completion (g : GangRef) (va : VAddr)
  deriving DecidableEq, Repr, Inhabited

/-- The rows of the opcode table: the instruction words (R62, R74), whose register fields are R28's
and whose other fields are as their rule reads them, and the steps of the device, its units and its
surroundings, which have no encoding and no fields. What a step is about is the event that happens
(`Event`). -/
inductive Instr where
  -- control and mode (04)
  | nop
  | bra (i : BitVec 24)
  | bany (n : BitVec 1) (p : BitVec 3) (i : BitVec 16)
  | ball (n : BitVec 1) (p : BitVec 3) (i : BitVec 16)
  | call (i : BitVec 24)
  | ret (a : Reg)
  | brr (a : Reg)
  | brrL (a : Reg)
  | ifP (n : BitVec 1) (p : BitVec 3) (i : BitVec 16)
  | elseP (i : BitVec 16)
  | endif
  | loop (c : BitVec 8) (i : BitVec 16)
  | loopr (d : Reg) (i : BitVec 16)
  | lbrk
  | regang
  | exit
  | yield
  | mode (i : BitVec 16)
  | mtype (t : BitVec 4)
  | mrnd (r : BitVec 3)
  | mguard (g : BitVec 1) (n : BitVec 1) (p : BitVec 3)
  | mfs (d : Reg) (sr : BitVec 10)
  | mts (d : Reg) (sr : BitVec 10)
  | trap (i : BitVec 16)
  | rti
  | sysKill
  | sysAbort (n : BitVec 8)
  | brk (i : BitVec 16)
  | pause (i : BitVec 16)
  -- integer and logic (05)
  | add (d a b : Reg)
  | sub (d a b : Reg)
  | mul (d a b : Reg)
  | mulhi (d a b : Reg)
  | mad (d a b : Reg)
  | div (d a b : Reg)
  | rem (d a b : Reg)
  | neg (d a : Reg)
  | abs (d a : Reg)
  | min (d a b : Reg)
  | max (d a b : Reg)
  | and (d a b : Reg)
  | or (d a b : Reg)
  | xor (d a b : Reg)
  | not (d a : Reg)
  | andn (d a b : Reg)
  | shl (d a b : Reg)
  | shr (d a b : Reg)
  | sar (d a b : Reg)
  | rol (d a b : Reg)
  | ror (d a b : Reg)
  | popc (d a : Reg)
  | clz (d a : Reg)
  | ctz (d a : Reg)
  | brev (d a : Reg)
  | bfx (d a b : Reg)
  | bfi (d a b : Reg)
  | mov (d b : Reg)
  | movi (d : Reg) (i : BitVec 16)
  | movhi (d : Reg) (i : BitVec 16)
  | addi (d : Reg) (i : BitVec 16)
  -- float (05)
  | fadd (d a b : Reg)
  | fsub (d a b : Reg)
  | fmul (d a b : Reg)
  | fma (d a b : Reg)
  | fms (d a b : Reg)
  | fnma (d a b : Reg)
  | fmin (d a b : Reg)
  | fmax (d a b : Reg)
  | fabs (d a : Reg)
  | fneg (d a : Reg)
  | fcps (d a b : Reg)
  | fdiv (d a b : Reg)
  | rcp (d a : Reg)
  | rsq (d a : Reg)
  | sqrt (d a : Reg)
  | exp2 (d a : Reg)
  | log2 (d a : Reg)
  | sinpi (d a : Reg)
  | cospi (d a : Reg)
  | tanh (d a : Reg)
  | frnd (d a : Reg)
  | fract (d a : Reg)
  | ldexp (d a b : Reg)
  | fclass (d a : Reg)
  | fdot (d a b : Reg)
  -- conversion (05)
  | cvt (d a : Reg) (k : BitVec 3) (t : BitVec 4)
  | cvtfi (d a : Reg) (k : BitVec 3) (t : BitVec 4)
  | cvtif (d a : Reg) (k : BitVec 3) (t : BitVec 4)
  | cvtii (d a : Reg) (k : BitVec 3) (t : BitVec 4)
  | pack (d a b : Reg)
  | unpk (d a : Reg) (h : BitVec 1)
  -- compare, select, lanes (05)
  | cmp (any : BitVec 1) (cc : BitVec 3) (p : BitVec 3) (a b : Reg)
  | fcmp (any : BitVec 1) (cc : BitVec 3) (p : BitVec 3) (a b : Reg)
  | tst (z : BitVec 1) (p : BitVec 3) (a b : Reg)
  | sel (d a b : Reg)
  | plog (f : BitVec 4) (pd pa pb : BitVec 3)
  | pmovGet (d : Reg)
  | pmovSet (a : Reg)
  | clamp (d a b : Reg)
  | fclamp (d a b : Reg)
  | red (d a : Reg) (o : BitVec 3)
  | fred (d a : Reg) (o : BitVec 2)
  | scan (d a : Reg) (x : BitVec 1) (o : BitVec 3)
  | fscan (d a : Reg) (x : BitVec 1) (o : BitVec 2)
  | vote (d : Reg) (n : BitVec 1) (p : BitVec 3)
  | lid (d : Reg)
  -- memory (06)
  | ld8 (d a : Reg) (o : BitVec 8)
  | ld16 (d a : Reg) (o : BitVec 8)
  | ld32 (d a : Reg) (o : BitVec 8)
  | ld64 (d a : Reg) (o : BitVec 8)
  | ld128 (d a : Reg) (o : BitVec 8)
  | st8 (d a : Reg) (o : BitVec 8)
  | st16 (d a : Reg) (o : BitVec 8)
  | st32 (d a : Reg) (o : BitVec 8)
  | st64 (d a : Reg) (o : BitVec 8)
  | st128 (d a : Reg) (o : BitVec 8)
  | ldw (d a : Reg) (o : BitVec 8)
  | chk (i : BitVec 24)
  | ldl (d a : Reg) (o : BitVec 8)
  | stl (d a : Reg) (o : BitVec 8)
  | pfL1 (a : Reg) (o : BitVec 8)
  | pfL2 (a : Reg) (o : BitVec 8)
  | wb (a : Reg) (o : BitVec 8)
  | inv (a : Reg) (o : BitVec 8)
  -- atomics and synchronisation (06, 10)
  | atadd (d a b : Reg)
  | atmin (d a b : Reg)
  | atmax (d a b : Reg)
  | atand (d a b : Reg)
  | ator (d a b : Reg)
  | atxor (d a b : Reg)
  | atxchg (d a b : Reg)
  | atcas (d a b : Reg)
  | atqadd (d a b : Reg)
  | acq (d a : Reg)
  | rel (d a : Reg)
  | bind (d a b : Reg)
  | unbind (d a b : Reg)
  | fence (scope : BitVec 8)
  | bar (id : BitVec 4) (n : BitVec 16)
  | barvArrive (id : BitVec 8) (n : BitVec 8)
  | barvWait (id : BitVec 8)
  | fetake (a : Reg)
  | feput (a b : Reg)
  | fetest (p : BitVec 3) (b : Reg)
  | wshare (a b : Reg)
  | acqw (a b : Reg)
  | cbar (id : BitVec 4)
  | cbarArrive (id : BitVec 4)
  | cbarWait (id : BitVec 4)
  -- matrix and tiles (08)
  | tld (ch : BitVec 2) (t : BitVec 4) (a b : Reg)
  | tsto (ch : BitVec 2) (t : BitVec 4) (a b : Reg)
  | tmma (c : BitVec 2) (a b : BitVec 4)
  | ttr (c : BitVec 2) (a : BitVec 4)
  | tperm (c : BitVec 2) (a : BitVec 4) (b : Reg)
  | tred (c : BitVec 2) (a : BitVec 4)
  | azero (c : BitVec 2)
  | amov (d : Reg) (e : BitVec 6) (c : BitVec 2) (col : BitVec 8)
  | amovt (t : BitVec 4) (c : BitVec 2) (e : BitVec 8)
  | acvt (c : BitVec 2) (f : BitVec 1) (e : BitVec 8)
  | asave (c : BitVec 2)
  | arest (c : BitVec 2)
  | tmvGet (d : Reg) (t : BitVec 4) (row : BitVec 8)
  | tmvPut (d : Reg) (t : BitVec 4) (row : BitVec 8)
  | tfill (t : BitVec 4) (b : Reg)
  -- copies, gather, waiting, queues, channels (08, 06)
  | copy (d a b : Reg)
  | copyf (ch : BitVec 2) (t : BitVec 4) (a b : Reg)
  | gath (d a b : Reg)
  | scat (d a b : Reg)
  | mcast (d a b : Reg)
  | cfill (d a b : Reg)
  | wait (cls : BitVec 3) (n : BitVec 6)
  | cwp (d : Reg) (ch : BitVec 2)
  | qcall (d : Reg) (r : BitVec 5) (n : BitVec 5) (c : BitVec 6)
  | qwait (d : Reg) (r : BitVec 5)
  | qpoll (d : Reg) (c : BitVec 6)
  | send (d : Reg) (c : BitVec 6)
  | recv (d : Reg) (c : BitVec 6)
  | chinfo (d : Reg) (c : BitVec 6)
  -- cluster (10), translation (14), checkpoint and scheduler (12), debug (10, 14), module (15)
  | cluPbc (a : Reg) (id : BitVec 8)
  | cluCstat (a b : Reg)
  | xltInv (a b : Reg)
  | xltProbe (a b : Reg)
  | xltReplay (b : Reg)
  | xltCancel (b : Reg)
  | xltFblk (a b : Reg)
  | xltFmove (a b : Reg)
  | xltFunblk (a b : Reg)
  | ckpPreg (a b : Reg)
  | ckpGreg (a b : Reg)
  | ckpUnreg (a b : Reg)
  | ckpGlaunch (a b : Reg)
  | ckpGstat (a b : Reg)
  | ckpTake (a b : Reg)
  | ckpRoll (a b : Reg)
  | ckpDrain (a b : Reg)
  | ckpRestore (a b : Reg)
  | ckpEpnew (b : Reg)
  | ckpDeadline (a b : Reg)
  | ckpBudget (a b : Reg)
  | dbgAttach (a b : Reg)
  | dbgDetach (b : Reg)
  | dbgWpset (w : BitVec 8) (b : Reg)
  | dbgStop (b : Reg)
  | dbgGo (b : Reg)
  | dbgStep (b : Reg)
  | dbgRd (a b : Reg)
  | dbgWr (a b : Reg)
  | dbgWait (b : Reg)
  | dbgFreeze (b : Reg)
  | dbgThaw (b : Reg)
  | dbgWhy (a b : Reg)
  | dbgVwpset (w : BitVec 8) (b : Reg)
  | modgShare (a b : Reg)
  | modgUnshare (a b : Reg)
  | modgFork (a b : Reg)
  | modgKey (a b : Reg)
  | modgFassign (a b : Reg)
  | modgMigr (a b : Reg)
  | modgMdone (a b : Reg)
  | modgHeal (a b : Reg)
  | modgSopen (a b : Reg)
  | modgSclose (a b : Reg)
  -- steps of the gang and core (04, 05, 06, 07, 08)
  | pauseExpiry
  | resultWrite
  | qcallAppend
  | sendAppend
  | producerDelivery
  | returnRecord
  | unitFaultTrap
  | trapEntry
  | teamLaunch
  | teamExit
  | commandFire
  | commandRetire
  | copyDelivery
  | followOnPush
  | mxReset
  -- steps of the cluster (10, 12, 16)
  | crewLaunch
  | mcastFillLand
  | drainSave
  | drainDeadline
  | timeSliceEnd
  -- steps of the homes (11, 06)
  | accessAtHome
  | leaseRenewal
  | confirmationRequest
  | watchConfirm
  | watchStrike
  | watchTimeout
  | versionReport
  | stopRecords
  | stepWindowClose
  -- steps of the command processor (12)
  | recordReserve
  | recordCommit
  | instanceStart
  | phaseComplete
  | budgetWindow
  | dieTemperature
  | thermtrip
  | cutAttempt
  | cut
  | cutWaitExpiry
  | cutRetry
  | rollback
  -- steps of the units (13)
  | vrOpen
  | vrPrim
  | vrDone
  | vrWaitf
  | vrSlotFinal
  | buOpenf
  | buBin
  | buClose
  | bluOpen
  | bluFrag
  | bluDone
  | bluWaitf
  | bluCommit
  | tfuSample
  | ryuTrace
  | bvoStart
  | bvoStop
  | bvoSubtreeReplace
  | fenOpens
  | fenFrame
  | fenRelease
  | fenCloses
  | unitReset
  -- faults, recovery, errors (14, 15)
  | faultRecordWrite
  | gangUnpark
  | hang
  | uncorrectableError
  | correctableError
  -- management, host, trust (16)
  | pcmdCommit
  | pcmdRelease
  | doorbell
  | attcmdGo
  | attestationDone
  | dbgcmdFreeze
  | dbgcmdThaw
  | dbgdataRead
  | dbgdataWrite
  | errCounterWrite
  | mgmtRegisterWrite
  | priResponse
  | atsTranslationResponse
  | atsInvalidation
  | moduleResetRelease
  -- the fabric (17)
  | flitCheckFail
  | portDown
  | collectiveAllreduce
  | collectiveBroadcast
  | collectiveResult
  -- fetch, reset, host writes, links (03, 14, 16, 17)
  | illegalOpcode
  | sequenceFetch
  | hostPostedWrite
  | moduleReset
  | moduleLeavesArmada
  | portRetrained
  | routesRecomputed
  deriving DecidableEq, Repr, Inhabited

/-- A step of the device with what it is about: the object it happens to and, where it comes from
outside, the values that come with it. -/
inductive Event where
  -- steps of the gang and core (04, 05, 06, 07, 08)
  | pauseExpiry (g : GangRef) (entry : Nat)
  | resultWrite (g : GangRef) (id : Nat)
  | qcallAppend (g : GangRef) (entry : Nat)
  | sendAppend (g : GangRef) (entry : Nat)
  | producerDelivery (x : Delivery)
  | channelDelivery (g : GangRef) (session ep : Nat) (dst : Dest)
  | returnRecord (x : RetRec)
  | unitFaultTrap (g : GangRef)
  | trapEntry (g : GangRef)
  | teamLaunch (x : Launch)
  | teamExit (core team : Nat)
  | commandFire (core queue cmd : Nat)
  | commandRetire (core queue cmd : Nat)
  | copyDelivery (core cmd : Nat)
  | followOnPush (core cmd : Nat)
  | mxReset (core : Nat)
  -- steps of the cluster (10, 12, 16)
  | crewLaunch (x : Launch)
  | mcastFillLand (core cmd member : Nat)
  | drainSave (crew : Nat)
  | drainDeadline (crew : Nat)
  | timeSliceEnd (die : Nat)
  -- steps of the homes (11, 06)
  | accessAtHome (x : Access)
  | leaseRenewal (core line : Nat)
  | confirmationRequest (g : GangRef) (line : Nat) (ver : Word) (stamp : Nat)
  | watchConfirm (g : GangRef) (stamp : Nat)
  | watchStrike (g : GangRef) (stamp : Nat)
  | watchTimeout (g : GangRef) (stamp : Nat)
  | versionReport (g : GangRef) (entry : Nat)
  | stopRecords (crew : Nat)
  | stepWindowClose (crew : Nat)
  -- steps of the command processor (12)
  | recordReserve (x : Call)
  | recordCommit (x : Call)
  | instanceStart (die cluster : Nat) (cores : BitVec 8)
  | phaseComplete (session graph : Nat)
  | budgetWindow (die : Nat)
  | dieTemperature (die temp : Nat)
  | thermtrip (die : Nat)
  | cutAttempt (session : Nat)
  | cut (session : Nat)
  | cutWaitExpiry (session : Nat)
  | cutRetry (session : Nat)
  | rollback (session : Nat)
  -- steps of the units (13)
  | vrOpen (x : Call)
  | vrPrim (x : Call)
  | vrDone (x : Call)
  | vrWaitf (x : Call)
  | vrSlotFinal (die cluster slot : Nat)
  | buOpenf (x : Call)
  | buBin (x : Call)
  | buClose (x : Call)
  | bluOpen (x : Call)
  | bluFrag (x : Call)
  | bluDone (x : Call)
  | bluWaitf (x : Call)
  | bluCommit (die slot : Nat)
  | tfuSample (x : Call)
  | ryuTrace (x : Call)
  | bvoStart (x : Call)
  | bvoStop (x : Call)
  | bvoSubtreeReplace (die : Nat) (base : VAddr) (parent child : Nat) (nodes : List (Nat × List Word))
  | fenOpens (x : Call)
  | fenFrame (x : Call)
  | fenRelease (x : Call)
  | fenCloses (x : Call)
  | unitReset (die typ inst : Nat)
  -- faults, recovery, errors (14, 15)
  | faultRecordWrite (x : FaultRec)
  | reportWrite (part : Nat) (ws : List Word)
  | gangUnpark (g : GangRef)
  | hang (g : GangRef) (entry : Nat)
  | uncorrectableError (pa : Nat) (who : Finder)
  | correctableError (die : Nat)
  -- management, host, trust (16)
  | pcmdCommit (part : Nat) (r : Requester)
  | pcmdRelease (part : Nat) (r : Requester)
  | doorbell (session : Nat) (w : Word) (r : Requester)
  | attcmdGo (fn : Nat) (w : Word)
  | attestationDone (fn : Nat)
  | dbgcmdFreeze (scope die cluster : Nat)
  | dbgcmdThaw (scope die cluster : Nat)
  | dbgdataRead (fn off : Nat)
  | dbgdataWrite (w : Word)
  | errCounterWrite (die idx : Nat) (w : Word)
  | mgmtRegisterWrite (off : Nat) (w : Word) (r : Requester)
  | priResponse (die : Nat) (fid : Word) (code : Nat)
  | atsTranslationResponse (session addr perm : Nat)
  | atsInvalidation (session addr : Nat)
  | moduleResetRelease (x : FwStart)
  -- the fabric (17)
  | flitCheckFail (port : Nat)
  | portDown (port : Nat)
  | collectiveAllreduce (x : Call) (m : Member)
  | collectiveBroadcast (x : Call) (m : Member)
  | collectiveResult (key : DWord) (seq : Word)
  -- fetch, reset, host writes, links (03, 14, 16, 17)
  | sequenceFetch (g : GangRef) (entry : Nat)
  | hostPostedWrite (fn pa : Nat) (bytes : List Byte)
  | moduleReset
  | moduleLeavesArmada (m : Nat)
  | portRetrained (port : Nat)
  | routesRecomputed (reach : BitVec 16)
  deriving DecidableEq, Repr, Inhabited

/-- The row of the opcode table that an event is an occurrence of. -/
def Event.row (e : Event) : Instr :=
  match e with
  | .pauseExpiry .. => .pauseExpiry
  | .resultWrite .. => .resultWrite
  | .qcallAppend .. => .qcallAppend
  | .sendAppend .. => .sendAppend
  | .producerDelivery .. => .producerDelivery
  | .channelDelivery .. => .producerDelivery
  | .returnRecord .. => .returnRecord
  | .unitFaultTrap .. => .unitFaultTrap
  | .trapEntry .. => .trapEntry
  | .teamLaunch .. => .teamLaunch
  | .teamExit .. => .teamExit
  | .commandFire .. => .commandFire
  | .commandRetire .. => .commandRetire
  | .copyDelivery .. => .copyDelivery
  | .followOnPush .. => .followOnPush
  | .mxReset .. => .mxReset
  | .crewLaunch .. => .crewLaunch
  | .mcastFillLand .. => .mcastFillLand
  | .drainSave .. => .drainSave
  | .drainDeadline .. => .drainDeadline
  | .timeSliceEnd .. => .timeSliceEnd
  | .accessAtHome .. => .accessAtHome
  | .leaseRenewal .. => .leaseRenewal
  | .confirmationRequest .. => .confirmationRequest
  | .watchConfirm .. => .watchConfirm
  | .watchStrike .. => .watchStrike
  | .watchTimeout .. => .watchTimeout
  | .versionReport .. => .versionReport
  | .stopRecords .. => .stopRecords
  | .stepWindowClose .. => .stepWindowClose
  | .recordReserve .. => .recordReserve
  | .recordCommit .. => .recordCommit
  | .instanceStart .. => .instanceStart
  | .phaseComplete .. => .phaseComplete
  | .budgetWindow .. => .budgetWindow
  | .dieTemperature .. => .dieTemperature
  | .thermtrip .. => .thermtrip
  | .cutAttempt .. => .cutAttempt
  | .cut .. => .cut
  | .cutWaitExpiry .. => .cutWaitExpiry
  | .cutRetry .. => .cutRetry
  | .rollback .. => .rollback
  | .vrOpen .. => .vrOpen
  | .vrPrim .. => .vrPrim
  | .vrDone .. => .vrDone
  | .vrWaitf .. => .vrWaitf
  | .vrSlotFinal .. => .vrSlotFinal
  | .buOpenf .. => .buOpenf
  | .buBin .. => .buBin
  | .buClose .. => .buClose
  | .bluOpen .. => .bluOpen
  | .bluFrag .. => .bluFrag
  | .bluDone .. => .bluDone
  | .bluWaitf .. => .bluWaitf
  | .bluCommit .. => .bluCommit
  | .tfuSample .. => .tfuSample
  | .ryuTrace .. => .ryuTrace
  | .bvoStart .. => .bvoStart
  | .bvoStop .. => .bvoStop
  | .bvoSubtreeReplace .. => .bvoSubtreeReplace
  | .fenOpens .. => .fenOpens
  | .fenFrame .. => .fenFrame
  | .fenRelease .. => .fenRelease
  | .fenCloses .. => .fenCloses
  | .unitReset .. => .unitReset
  | .faultRecordWrite .. => .faultRecordWrite
  | .reportWrite .. => .faultRecordWrite
  | .gangUnpark .. => .gangUnpark
  | .hang .. => .hang
  | .uncorrectableError .. => .uncorrectableError
  | .correctableError .. => .correctableError
  | .pcmdCommit .. => .pcmdCommit
  | .pcmdRelease .. => .pcmdRelease
  | .doorbell .. => .doorbell
  | .attcmdGo .. => .attcmdGo
  | .attestationDone .. => .attestationDone
  | .dbgcmdFreeze .. => .dbgcmdFreeze
  | .dbgcmdThaw .. => .dbgcmdThaw
  | .dbgdataRead .. => .dbgdataRead
  | .dbgdataWrite .. => .dbgdataWrite
  | .errCounterWrite .. => .errCounterWrite
  | .mgmtRegisterWrite .. => .mgmtRegisterWrite
  | .priResponse .. => .priResponse
  | .atsTranslationResponse .. => .atsTranslationResponse
  | .atsInvalidation .. => .atsInvalidation
  | .moduleResetRelease .. => .moduleResetRelease
  | .flitCheckFail .. => .flitCheckFail
  | .portDown .. => .portDown
  | .collectiveAllreduce .. => .collectiveAllreduce
  | .collectiveBroadcast .. => .collectiveBroadcast
  | .collectiveResult .. => .collectiveResult
  | .sequenceFetch .. => .sequenceFetch
  | .hostPostedWrite .. => .hostPostedWrite
  | .moduleReset => .moduleReset
  | .moduleLeavesArmada .. => .moduleLeavesArmada
  | .portRetrained .. => .portRetrained
  | .routesRecomputed .. => .routesRecomputed

/-- What moves next in the machine, as plain data: an event of the agenda by its place in it, the
issue choice of one core, the test of a waiting group, cycles that pass on a die, a step that comes
from outside or by the time that has passed, or nothing. -/
inductive Turn where
  | idle
  | event (k : Nat)
  | issue (core : Nat)
  | retest (core slot entry : Nat)
  | cycles (die n : Nat)
  | input (e : Event)
  deriving DecidableEq, Repr, Inhabited

end Sys2Proof
end

