-- ==== Sys2Proof/Config.lean ====
section
/-! DEFINITION. What is fixed for the machine (the numbers of R2, R4, R6, R163, R165, R175, R237,
R273, R326, R336) and the free values: opaque functions with no body for everything the manual
leaves open, so that no proof can see which value the device takes. -/

namespace Sys2Proof.Config

/-- Cores of one die, of one cluster, and clusters of a die (R6). -/
def coresPerDie : Nat := 96
def coresPerCluster : Nat := 8
def clustersPerDie : Nat := 12
def dies : Nat := 4

/-- Bytes of the store that team partitions and L1 share (R163), the most that partitions may take
(R165), the share of cluster memory (R163). -/
def partitionTop : Nat := 0x9C000
def partitionMax : Nat := 576 * 1024
def clusterShare : Nat := 0xA0000
def clusterShareBytes : Nat := 128 * 1024

/-- Bytes of module memory of one die (R237). -/
def dieBytes : Nat := 0x1800000000
/-- Where the model counts the memory of the other modules from, by fabric global address (R382). -/
def remoteBase : Nat := 2 ^ 56

/-- The part of a die's memory that its Atoll slice takes (R361). -/
def atollBase : Nat := 0x17C0000000

/-- Depths of the engine queues: copy, matrix, gather, collective, queue call (R175). -/
def queueDepth : List Nat := [64, 16, 32, 16, 32]

/-- Entries of an object table (R253), of an Atoll slice and of its reverse map (R342). -/
def objectTable : Nat := 1024
def atollEntries : Nat := 4194304
def reverseEntries : Nat := 16777216
def refLimit : Nat := 2 ^ 24 - 1

/-- Watchdog limit (R326), array limit (R187), unit limit (R285), watch timeout (R252), in cycles. -/
def watchdogLimit : Nat := 2 ^ 26
def arrayLimit : Nat := 2 ^ 22
def unitLimit : Nat := 2 ^ 24
def watchLimit : Nat := 2 ^ 20

/-- Budget window in cycles, default budget in microjoules, default TLIM in units of 0.125 degrees
(R273), cut interval and wait (R277), cycles of one microsecond (R2). -/
def windowCycles : Nat := 230000
def budgetDefault : Nat := 19000
def tlimDefault : Nat := 800
def cutInterval : Nat := 4600000
def cutWait : Nat := 65536
def cutRetry : Nat := 4096
def cyclesPerUs : Nat := 2300

/-- Pipelines, graphs and endpoints of one die (R280). -/
def maxPipelines : Nat := 512
def maxGraphs : Nat := 1024
def maxEndpoints : Nat := 16384

/-- Slots of the accumulator save area and bytes of one (R336). -/
def accSlotBytes : Nat := 36928

/-- Calls that the queue of a unit of a type holds (R281), and a collective queue (R389). -/
def unitDepth (typ : Nat) : Nat := if typ = 6 then 32 else 64
def collectiveDepth : Nat := 32

/- The free values. Each is applied to the counter `tick` of State, which every use advances, or to
the operands the open value depends on; the log entries name them. -/

/-- Log 2: what moves next. -/
opaque nextTurn : Nat → Turn
/-- Log 9: whether an S load is served from a held copy (R243). -/
opaque servedFromCopy : Nat → Bool
/-- Log 9: whether the held copy numbered by the second argument is evicted at an access. -/
opaque evicts : Nat → Nat → Bool
/-- Log 9: whether a held TLB entry serves a step of a walk, by turn and by lane, level and TLB
(R309, R310). -/
opaque tlbServes : Nat → Nat → Bool
/-- Log 16: which entry of a 64 KiB group that disagrees translates an access (R307). -/
opaque groupEntry : Nat → Nat
/-- Log 17: energy in microjoules that a core uses while cycles pass, by turn, core and cycles (R273). -/
opaque energyUsed : Nat → Nat → Nat → Nat
/-- Log 18: body of a freeze image, and its length in units of 64 bytes (R186). -/
opaque freezeBody : Nat → List Byte
opaque freezeUnits : Nat → Nat
/-- Log 19: a correctly rounded result of R116 that bounds of the model's precision do not decide,
by function number, operand pattern and rounding mode. -/
opaque closeCall : Nat → Nat → Nat → Nat
/-- Log 102: a word of code that a gang fetches from MGMT, by turn and address (R362). -/
opaque mgmtCode : Nat → Nat → Word
/-- Log 21: the bytes of one encoded unit (R303), by the stream's opening, the frames it has been given, whether it is a key frame, the stream's parameters (codec,
depth, width, height, frames and kbit per second) and the rows of its two planes. -/
opaque encodedUnit : Nat → Nat → Bool → List Nat → List Byte → List Byte
/-- Log 22: ML-DSA-44 verification, the public key of a seed and the signature by its private key; the boot ROM's key
digest; the security version and secret fused into a die; the manufacturer's signature; the boot ROM's digest (R376 to
R378). -/
opaque mldsaVerify : List Byte → List Byte → List Byte → Bool
opaque mldsaPublic : List Byte → List Byte
opaque mldsaSign : List Byte → List Byte → List Byte
opaque bootRomKeyDigest : Nat → List Byte
opaque fusedSvn : Nat → Nat
opaque fusedSecret : Nat → List Byte
opaque manufacturerSign : List Byte → List Byte
opaque bootRomDigest : List Byte
/-- Log 37: the place of the ORIGIN bit in a provenance entry of an attestation report (R378). -/
opaque originBit : Nat
/-- Log 24: where the search for an unused handle, endpoint or ticket number begins (R264, R280). -/
opaque newNumber : Nat → Nat
/-- Log 23: the address of the boot placement of a crew: cluster and cores of the next instance
(R215, R268). -/
opaque placement : Nat → Nat × Nat
/-- Log 29: TADDR of an `ldl` or `stl` whose offset traps (R139). -/
opaque openAddr : Nat → VAddr
/-- Log 31: calls that a record port holds beyond the 32 of R207. -/
opaque recordPortExtra : Nat
/-- Log 34: bytes that one delivery of a copy or fill moves, beyond the first (R182, R220). -/
opaque chunk : Nat → Nat
/-- Log 35: element of an accumulator after a command of the other format's family is accumulated into it
(R195). -/
opaque mixedAcc : Nat → Nat → BitVec 36
/-- Log 25: bytes that the manual leaves open where a transfer is cut short (R391, R289). -/
opaque openByte : Nat → Nat → Byte
/-- Log 38: words that the manual leaves open in a return record, by turn and word: b1 and b2 of a miss (R300), the words
of a FRAME that is dropped, the answer of the FEN to a stream that is not open (R303); and the number of a stream's
first frame. -/
opaque openWord : Nat → Nat → Word
opaque frameBase : Nat
/-- Log 39: where the BU puts the entry numbered by the second argument in its arena (R290). -/
opaque arenaAt : Nat → Nat → Nat
/-- Log 40: the order of two pixels of a commit whose addresses meet (R294), by turn and pixel. -/
opaque openOrder : Nat → Nat → Nat
/-- Log 41: whether the y derivative is the major one of footprints of equal length (R298), by the derivatives. -/
opaque majorOnTie : List Word → Bool
/-- Log 42: the entry distance at which a ray enters a box whose slab interval is not a number, if it does (R301), by
the words of the ray and the box. -/
opaque openBox : List Word → Option Word
/-- Log 26: which of the results that R302 permits a TRACE of a BVH written under optimisation returns. -/
opaque traceWhileWritten : Nat → Nat

end Sys2Proof.Config
end

