-- ==== Sys2Proof/Machine/State.lean ====
section
/-! DEFINITION. The state of one Hexeno H4 module as plain data: everything the manual gives it, and
the few fields of the model's own that say what moves next (INVENTORY.md lists both). -/

namespace Sys2Proof.Machine

/-- Why a step stops the machine. -/
inductive Fault where
  /-- Raised by `step` when the board has removed power (R381, THERMTRIP) and no module reset has
  come since: nothing happens in a module without power. Safe: the model stops where the hardware
  stands. -/
  | noPower
  deriving DecidableEq, Repr

/-- Why an instruction has no meaning. -/
inductive Refusal where
  /-- Answered by an arm of `exec` whose instruction is not modelled yet. Safe. -/
  | notModelled (mnemonic : String)
  deriving DecidableEq, Repr

/-- The wait reasons, in the order of the codes of R325; `ready` is NONE. -/
inductive WaitReason where
  | ready | empty | full | regang | yield | pause | watch | acq | fence | barrier | cbar | engine
  | acount | qfull | chanFull | pbfull | sched | cklfull | power | debug | fault | latency | fetch
  | release
  deriving DecidableEq, Repr, Inhabited

/-- Who will fill an empty register copy: a delivery to a lane of a gang (from lane 32 on uniform
results), or the next `feput` (R34, R156). -/
inductive Producer where
  | handoff
  | delivery (g : GangRef) (lane : Nat)
  deriving DecidableEq, Repr, Inhabited

/-- The state of a register copy (R34). -/
inductive CopyState where
  | full
  | empty (by_ : Producer)
  | lost
  deriving DecidableEq, Repr, Inhabited

/-- A reconvergence stack entry (R18). -/
structure RsEntry where
  phase : Bool
  outer : BitVec 4
  alt : BitVec 4
  smode : ModeWord
  deriving DecidableEq, Repr, Inhabited

/-- A loop stack entry (R20). -/
structure LoopEntry where
  start : PC
  stop : PC
  count : Word
  deriving DecidableEq, Repr, Inhabited

/-- What a slice has stopped at: a `regang`, a team or crew barrier with its n (`split` marks an
arrive form), or a barrier that has let it pass and whose sequence completes when it issues again
(R25, R155, R218). -/
inductive Stop where
  | running
  | regang
  | bar (id n : Nat) (split : Bool)
  | cbar (id : Nat) (split : Bool)
  | passed
  deriving DecidableEq, Repr, Inhabited

/-- The state of a slice (R13). Both stacks have their top entry first. -/
structure Slice where
  live : Bool
  pc : PC
  mask : BitVec 4
  mode : ModeWord
  rstack : List RsEntry
  lstack : List LoopEntry
  stop : Stop
  deriving DecidableEq, Repr, Inhabited

/-- What a group holds: split-table entries 0 to 3, then the single slices as groups 4 to 11
(R23, R174, R325, R326). `wake` is what the wait depends on: the die cycle at which a YIELD or PAUSE
ends (R91), the place of the VERSION that an ACQ waits on (R151). `under` is the reason it held before FAULT
(R318); of a group that is `ready` it is the reason whose condition the next issue of its sequence tests (R35, R325).
`cleared` says that the fetch watchpoint that stopped the crew before its sequence lets it issue (R329). -/
structure GroupSt where
  age : Nat
  wait : WaitReason
  dog : Nat
  wake : Nat
  under : WaitReason
  cleared : Bool
  deriving DecidableEq, Repr, Inhabited

/-- One slice as the trap record saves it (R96). The stacks have their top entry first. `stop` is
what it had stopped at, at address `at_`: it stands there again if `rti` resumes it there (R100,
R155 item 8). -/
structure SavedSlice where
  pc : PC
  at_ : PC
  stop : Stop
  live : Bool
  mask : BitVec 4
  mode : ModeWord
  rstack : List RsEntry
  lstack : List LoopEntry
  deriving DecidableEq, Repr, Inhabited

/-- The trap record of a gang (R94, R95, R96), with the bits LOST and RX of GSTAT as they were (R39). -/
structure TrapRec where
  tcause : Word
  tpc : PC
  taddr : VAddr
  tlanes : LaneSet
  tsplit : Word
  tsave : List Word
  tslice : List SavedSlice
  lost : Bool
  rx : Bool
  deriving DecidableEq, Repr, Inhabited

/-- A cause raised in a gang and what its record will hold (R97). `next` is where a sequence that completes
goes on (R99), `cycle` the cycle of the die in which the sequence raised it (R98). -/
structure Raised where
  cause : BitVec 8
  info : BitVec 16
  slices : SliceSet
  addr : PC
  taddr : VAddr
  tlanes : LaneSet
  bu : Bool
  next : Option PC
  cycle : Option Nat
  deriving DecidableEq, Repr, Inhabited

/-- One entry of the watch table that is not free (R141). -/
structure WatchEntry where
  line : Nat
  ver : Word
  own : LaneSet
  stamp : Nat
  since : Nat
  struck : Bool
  deriving DecidableEq, Repr, Inhabited

/-- The sequence that is issuing: its gang, its group, the slices of it, the address of the
sequence, of its instruction word and of the word after it (R69), and its prefixes (R65). -/
structure IssueCtx where
  gang : GangRef
  entry : Nat
  slices : SliceSet
  addr : PC
  iaddr : PC
  next : PC
  routed : Bool
  routeA : BitVec 8
  routeB : BitVec 8
  routeC : BitVec 8
  lit : Option Word
  deriving DecidableEq, Repr, Inhabited

/-- A form that a group has issued and that has not completed: the operands it read at issue, and the register words of
its result, which are empty (R280, R393). -/
structure FormHold where
  cur : IssueCtx
  instr : Instr
  a : DWord
  b : DWord
  dst : Dest
  deriving DecidableEq, Repr, Inhabited

/-- A range of the gang's vector registers mapped onto another gang's (R37, R157). -/
structure Share where
  first : Nat
  count : Nat
  slot : Nat
  pfirst : Nat
  deriving DecidableEq, Repr, Inhabited

/-- One unfinished lane of a parked sequence, or of a fetch (no access) (R138, R312, R318). -/
structure PLane where
  fid : Word
  access : Option Access
  deriving DecidableEq, Repr, Inhabited

/-- A parked sequence. `rerun` sequences have performed nothing and issue again after the replay;
the others complete when no lane is left. `saved` sequences stand in a trap record (R319). `form` is the form that the
sequence is inside. -/
structure Parked where
  cur : IssueCtx
  rerun : Bool
  saved : Bool
  lanes : List PLane
  form : Option FormHold
  deriving DecidableEq, Repr, Inhabited

/-- Results of a sequence that are not yet written (R105): the gang's count of sequences with it, their result
cycle, the slices that issued it with the lowest of them, the register words it writes as offsets in words from the
gang's window base, and the predicates it writes with the lanes written and their new values. -/
structure LatMark where
  id : Nat
  due : Nat
  lead : Nat
  slices : SliceSet
  writes : List (Nat × Word)
  preds : List (Nat × LaneSet × LaneSet)
  deriving DecidableEq, Repr, Inhabited

/-- The latest arrival of the gang at one barrier: its generation, and whether the slices that now
stand at the barrier, or those of the trap record, are those of that arrival (R155 items 6 to 8). -/
structure Arrival where
  gen : Nat
  pending : Bool
  saved : Bool
  deriving DecidableEq, Repr, Inhabited

/-- A `qcall` or `send` that waits for room, to be appended by its own event (R208, R159), with the place at which the
entry's ALLOW is to fall, if it does. The message of a `send` is formed before it waits. -/
inductive HeldOp where
  | qcall (d : Reg) (r n c : Nat) (spend : Option Place)
  | send (m : List Word) (spend : Option Place)
  deriving DecidableEq, Repr, Inhabited

structure HeldSeq where
  cur : IssueCtx
  op : HeldOp
  ep : Nat
  deriving DecidableEq, Repr, Inhabited

/-- A resident gang (R13). `foreign` holds the
accumulators, with the owning session, that held commands of the gang found in another's hands (R213).
`awaits` pairs a group that waits with reason RELEASE or SCHED with the
register word whose delivery ends the wait (R152, R313); `forms` holds the forms that are to be taken up again. `seqs` counts the sequences it issued, `burst` those of
the present cycle, `skid` those of a stop under way (R230). -/
structure Gang where
  gid : Nat
  team : Nat
  num : Nat
  base : Nat
  vcount : Nat
  slices : List Slice
  preds : List LaneSet
  split : List SliceSet
  single : SliceSet
  groups : List GroupSt
  lost : Bool
  rx : Bool
  counters : List Nat
  watch : List WatchEntry
  trap : TrapRec
  raised : Option Raised
  unitFaults : List RetRec
  shares : List Share
  parked : List Parked
  awaits : List (Nat × Nat)
  forms : List FormHold
  latency : List LatMark
  bars : Cells Arrival
  cbars : Cells Arrival
  held : List HeldSeq
  calls : List (Nat × Nat)
  foreign : List (Nat × Nat)
  seqs : Nat
  burst : Nat
  skid : Nat
  deriving DecidableEq, Repr, Inhabited

/-- The matrix commands (R196, R197, R199). `idx` of tperm has one index per lane, none for a lane
that adds a zero row. -/
inductive MxOp where
  | tmma (acc a b : Nat)
  | ttr (acc a : Nat)
  | tperm (acc a : Nat) (idx : List (Option Nat))
  | tred (acc a : Nat)
  | azero (acc : Nat)
  | amov (acc col : Nat) (e : Int) (typ rnd : Nat) (dst : List (Nat × Nat))
  | amovt (tile acc : Nat) (e : Int) (rnd : Nat)
  | acvt (acc : Nat) (q36 : Bool) (e : Int) (rnd : Nat)
  | asave (acc : Nat)
  | arest (acc : Nat)
  | tmvGet (tile row : Nat) (dst : List (Nat × Nat))
  | tmvPut (tile row : Nat) (data : List (Nat × Word))
  | tfill (tile : Nat) (v : Word)
  deriving DecidableEq, Repr, Inhabited

/-- What an engine command does (R175, R200 to R204). -/
inductive CmdOp where
  | copy (dst src : VAddr) (cctl : Word)
  | cfill (dst : VAddr) (v cctl : Word)
  | tld (tile : Nat) (ea : VAddr) (stride : Word)
  | tsto (tile : Nat) (ea : VAddr) (stride : Word)
  | matrix (m : MxOp)
  | gath (base : VAddr) (lanes : List (Nat × VAddr)) (size : Nat)
  | scat (base : VAddr) (lanes : List (Nat × VAddr)) (size : Nat)
  | mcast (off : Nat) (src : VAddr) (len bar : Nat)
  deriving DecidableEq, Repr, Inhabited

/-- A command in a core's queue and its progress (R177, R179, R182, R322): bytes or lanes delivered, for
`mcast` the source bytes read and those landed in each block. `held` marks one that waits for its
accumulator (R213). -/
structure Cmd where
  id : Nat
  gang : GangRef
  team : Nat
  session : Nat
  level : Nat
  pc : PC
  seq : Nat
  op : CmdOp
  ch : Nat
  fired : Bool
  pos : Nat
  landed : List Nat
  stall : Option Word
  stallAt : VAddr
  done : Bool
  held : Bool
  buf : List Byte
  inSlot : Option Nat
  outSlot : Option Nat
  deriving DecidableEq, Repr, Inhabited

/-- An accumulator with ACCSTAT and ACCOWN (R183, R184); element (i, j) has key 256 i + j. -/
structure Acc where
  data : Cells (BitVec 36)
  ext : Nat
  q36 : Bool
  lost : Bool
  nan : Bool
  ovf : Bool
  valid : Bool
  session : Nat
  deriving DecidableEq, Repr, Inhabited

/-- A team barrier (R155): generation, N, the gangs that have arrived, and the arrivals whose older accesses may not
all be performed yet, each with the gang's count of sequences then. -/
structure TeamBar where
  gen : Nat
  n : Nat
  arrived : List Nat
  older : List (GangRef × Nat)
  deriving DecidableEq, Repr, Inhabited

/-- A resident team (R162). `gslots` holds the core gang slots that it keeps until it has exited (R169). `issued` and
`energy` are the sequences that its gangs have issued and its share of its core's energy (R273). -/
structure Team where
  tid : Nat
  session : Nat
  record : TeamRec
  base : Nat
  bytes : Nat
  tctl : List Word
  tbase : List Word
  rdesc : List Word
  rprod : List Nat
  rcons : List Nat
  rin : List Nat
  rout : List Nat
  cwp : List Word
  bars : List TeamBar
  crew : Nat
  rank : Nat
  gslots : List Nat
  issued : Nat
  energy : Nat
  deriving DecidableEq, Repr, Inhabited

/-- The issue ports of a core in the present cycle (R174): the next port to choose, the slots and slices that have
issued, the engine queues pushed into; `busy` holds the cycle from which each port again takes a long operation, then
the one from which it takes a 64-bit division (R105). -/
structure Ports where
  port : Nat
  taken : List (Nat × Nat)
  pushed : List Nat
  busy : List Nat
  deriving DecidableEq, Repr, Inhabited

/-- A core (R162): its store by word offset, the state of register copies by the same offsets, its
accumulators, queues, the follow-on commands of
copies that have not been pushed (R202), teams 0 to 3, gang slots, its issue ports, and the ports as they were before
the sequence at hand, which gives its port back if it does not issue (R35). -/
structure CoreSt where
  store : Cells Word
  fe : Cells CopyState
  accs : List Acc
  queues : List (List Cmd)
  follow : List Cmd
  gangs : List (Nat × Gang)
  teams : List (Nat × Team)
  ports : Ports
  prior : Ports
  mxIdle : Nat
  deriving DecidableEq, Repr, Inhabited

/-- A crew barrier: generation, PBC of each member's core (R219), and arrivals as those of a team barrier. -/
structure CrewBar where
  gen : Nat
  pbc : List Nat
  older : List (GangRef × Nat)
  deriving DecidableEq, Repr, Inhabited

inductive DrainState where
  | running | draining | drained
  deriving DecidableEq, Repr, Inhabited

/-- A watchpoint: WCTL, and a range of cluster memory or of the session's addresses (R229, R328). -/
structure Watchpoint where
  wctl : Word
  virt : Bool
  addr : Nat
  deriving DecidableEq, Repr, Inhabited

/-- The trigger of a stop (R230): its cycle, WHY, watchpoint, gang, the gang's count of sequences with the
triggering one, its address, and the address accessed. -/
structure Trigger where
  cycle : Nat
  why : Nat
  wp : Nat
  gang : Option GangRef
  seq : Option Nat
  pc : PC
  addr : Word
  deriving DecidableEq, Repr, Inhabited

/-- A step window (R233): the gang, the cycle it opened, the slices of each group that issued, and whether a trap has been
taken in it. -/
structure StepWindow where
  gang : GangRef
  rank : Nat
  gnum : Nat
  since : Nat
  issued : List SliceSet
  trapped : Bool
  deriving DecidableEq, Repr, Inhabited

/-- A crew (R215 to R234); `cores` and `teams` are by rank, `cmbase` the block of each rank in its
core's share; `area` is the record area, an address of session `asess` (R227). `energy` is that of its teams that have
exited (R273). -/
structure Crew where
  id : Nat
  die : Nat
  cluster : Nat
  slot : Nat
  session : Nat
  cores : List Nat
  teams : List Nat
  gone : List Bool
  cmcore : Nat
  cmbase : List Nat
  bars : List CrewBar
  drain : DrainState
  drainSince : Nat
  attached : Bool
  stopped : Bool
  area : VAddr
  asess : Nat
  wps : List Watchpoint
  trig : Option Trigger
  window : Option StepWindow
  pipe : Option Nat
  stage : Nat
  inst : Nat
  energy : Nat
  deriving DecidableEq, Repr, Inhabited

/-- A team as a drain, a cut or a debugger's copy holds it: store words and copy states by their
offset from the partition base. -/
structure SavedTeam where
  core : Nat
  team : Team
  gangs : List (Nat × Gang)
  store : Cells Word
  fe : Cells CopyState
  cmds : List (Nat × Cmd)
  deriving DecidableEq, Repr, Inhabited

/-- A crew saved by R223 or by a cut (R277), with its blocks of cluster memory by rank, and the
ticket number of a drain. -/
structure SavedCrew where
  ticket : Nat
  crew : Crew
  members : List SavedTeam
  blocks : List (Cells Word)
  events : List Event
  deriving DecidableEq, Repr, Inhabited

/-- Who holds a copy of a line (R236). -/
inductive Holder where
  | l1 (core : Nat)
  | l2 (die : Nat)
  | stacked (die : Nat)
  deriving DecidableEq, Repr, Inhabited

/-- A cached copy of a line (R239, R242, R243, R341). `bytes` are the copy's own bytes for an S
line; a D copy is coherent with the home. `vlines` are the sessions and virtual lines through which it was
filled (R151, R152; log 63). `privateHome` keeps what the home holds of a lane-private line whose dirty copy
would be dropped when team `team` exits (R139). -/
structure Copy where
  holder : Holder
  line : Nat
  vlines : List (Nat × Nat)
  tag : Nat
  ver : Word
  bytes : Option (List Byte)
  lease : Nat
  dirty : Bool
  privateHome : Option (Nat × List Byte)
  deriving DecidableEq, Repr, Inhabited

/-- A translation held by the L1 TLB of a core or the L2 TLB of a die: the entry of one level
(R309). -/
structure TlbEntry where
  l1 : Bool
  place : Nat
  session : Nat
  level : Nat
  index : Nat
  entry : DWord
  companion : DWord
  deriving DecidableEq, Repr, Inhabited

/-- What the device itself waits for with a fault (R394, R395): an access to a session's accumulator save
area or freeze area (for `asave`, with the accumulator), a form of the group `ckp`, a step of a graph; a
collective that has stalled (R390), or the writing of a VR or BLU slot (R289, R294). -/
inductive DevUse where
  | slot (typ inst n : Nat)
  | collective (key : DWord) (seq : Word)
  | area (acc : Option (Nat × Nat))
  | form (g : GangRef) (entry : Nat)
  | graph
  deriving DecidableEq, Repr, Inhabited

/-- A pending fault (R316): cause and kind (0 read, 1 write, 2 fetch), and the device's own uses. -/
structure Fid where
  fid : Word
  session : Nat
  page : Nat
  cause : BitVec 8
  kind : Nat
  host : Bool
  uses : List DevUse
  deriving DecidableEq, Repr, Inhabited

/-- A blocked frame: where it moved, if it has, and its block queue (R323): accesses, confirmation requests and lease
renewals, and the steps of commands, calls and the device that an access of theirs keeps back (R324; log 126). -/
structure Blocked where
  frame : Nat
  moved : Option Nat
  queue : List Event
  deriving DecidableEq, Repr, Inhabited

/-- What a key slot holds: a session's key or a title group's, the generation count, and the partition whose quota it
counts against (R340, R367, R378). -/
structure KeySlot where
  title : Bool
  owner : Nat
  gen : Nat
  part : Nat
  deriving DecidableEq, Repr, Inhabited

/-- An Atoll entry and a reverse-map record (R342). -/
structure AtollEntry where
  group : Nat
  key : BitVec 128
  frame : Nat
  ref : Nat
  poison : Bool
  deriving DecidableEq, Repr, Inhabited

structure Mapping where
  session : Nat
  page : Nat
  frame : Nat
  deriving DecidableEq, Repr, Inhabited

/-- A sample: ID, depth pattern and token; no token for a cleared sample (R287). -/
structure Sample where
  id : Word
  depth : Word
  token : Option Word
  deriving DecidableEq, Repr, Inhabited

/-- A VR tile slot that is OPEN or FINAL (R288). Samples that keep the cleared value are not
listed. -/
structure VrSlot where
  final : Bool
  session : Nat
  samp : Nat
  dfunc : Nat
  nsrc : Nat
  dones : Nat
  tx : Nat
  ty : Nat
  clear : Word
  vbuf : VAddr
  gang : GangRef
  team : Nat
  level : Nat
  samples : Cells Sample
  deriving DecidableEq, Repr, Inhabited

/-- A BU frame (R290, R291): descriptor fields, the entries of the arena by tile, the tiles resolved with the
samples of each that a primitive holds; a partial resolve under way (`resolving`), and the tiles that CLOSE has
written (`cursor`); and the VR slot that its resolve holds (R288). -/
structure BuFrame where
  session : Nat
  vis : VAddr
  tok : VAddr
  arena : VAddr
  asize : Nat
  wtiles : Nat
  htiles : Nat
  samp : Nat
  dfunc : Nat
  clear : Word
  tq : Nat
  entries : List (Nat × (Word × Word × List Word))
  resolved : List (Nat × List Nat)
  resolving : Bool
  bovf : Nat
  cursor : Nat
  slot : Option Nat
  deriving DecidableEq, Repr, Inhabited

/-- A fragment (R293). -/
structure Fragment where
  pixel : Nat
  token : Word
  color : List Word
  deriving DecidableEq, Repr, Inhabited

/-- A BLU slot that is OPEN or FINAL (R293); `gang` and `team` opened it, at `level`. -/
structure BluSlot where
  final : Bool
  session : Nat
  fp16 : Bool
  overOp : Bool
  nsrc : Nat
  dones : Nat
  base : VAddr
  pitch : Nat
  gang : GangRef
  team : Nat
  level : Nat
  frags : List Fragment
  deriving DecidableEq, Repr, Inhabited

/-- A BVH under optimisation (R302): its pool size, and the sum of the versions of its lines as the BVO's own writes
leave it, which tells whether a program has written it; the triangles it had, with their IDs; and the nodes of replaced
subtrees that are not free yet, with the TRACEs that they wait for. -/
structure Bvh where
  session : Nat
  base : VAddr
  gang : GangRef
  team : Nat
  level : Nat
  nodes : Nat
  vers : Nat
  tris : List (List Word)
  limbo : List Nat
  rays : List Call
  deriving DecidableEq, Repr, Inhabited

/-- An open encoder stream (R303): `born` is the turn of its opening and `served` counts the frames it has been given, on
both of which the free bytes of a unit depend (log 21). -/
structure FenStream where
  session : Nat
  codec : Nat
  depth10 : Bool
  width : Nat
  height : Nat
  fps : Nat
  kbits : Nat
  base : VAddr
  bytes : Nat
  written : Nat
  free : Nat
  frames : Nat
  forceKey : Bool
  born : Nat
  served : Nat
  deriving DecidableEq, Repr, Inhabited

/-- One die. `freezing` holds the clusters whose freeze has been accepted and is not complete, 12 for the whole die
(R331). `throttled` holds while R273 says so, `energyLast` is the energy of the last window, and `hot` holds
in a window after one in which the four dies used too much (R381). `seen` holds the bytes that a unit's calls have
already read or written, by call, kind and address: a stalled call continues after them (R320). `poolWait` holds
the partitions with the classes of engines for which work of theirs waits (R371). -/
structure DieSt where
  cyc : Nat
  frozen : Bool
  frozenClusters : List Nat
  freezing : List Nat
  fidNext : Word
  fids : List Fid
  discarded : List Word
  cspad : Cells Word
  energy : Nat
  winStart : Nat
  budget : Nat
  tlim : Nat
  theta : Nat
  throttled : Bool
  energyLast : Nat
  hot : Bool
  keys : Cells KeySlot
  keyGen : Nat
  atoll : List AtollEntry
  rmap : List Mapping
  engines : List Nat
  lease : List Nat
  errs : List Word
  vr : Cells VrSlot
  bu : Cells BuFrame
  blu : Cells BluSlot
  bvo : List Bvh
  fen : Cells FenStream
  held : List Call
  stuck : List (Word × Call)
  seen : List (Call × Nat × Nat × List Byte)
  unitIdle : Cells Nat
  sliceOf : Option Nat
  sliceEnd : Nat
  poolWait : List (Nat × Nat)
  deriving DecidableEq, Repr, Inhabited

/-- The state of a record of a stage queue (R267): reserved under an identifier by a team, committed, or
taken by the instance with a number. -/
inductive RecState where
  | reserved (rid team : Nat)
  | committed (void : Bool)
  | taken (inst : Nat)
  deriving DecidableEq, Repr, Inhabited

/-- A stage queue (R263, R265): endpoint, ring, and the records that are not free, oldest first. -/
structure StageQueue where
  ep : Nat
  backing : VAddr
  depth : Nat
  rsz : Nat
  nextSeq : Nat
  records : List (Nat × RecState)
  deriving DecidableEq, Repr, Inhabited

/-- A stage (R263) with the launch record read at registration, its energy per record (R273) and the
source instances it still has to start (R268). -/
structure Stage where
  record : TeamRec
  crew : Bool
  members : Nat
  cmcore : Nat
  dbgstart : Bool
  dbgarea : VAddr
  inq : Nat
  outq : Nat
  batch : Nat
  mincores : Nat
  maxinst : Nat
  outneed : Nat
  epr : Nat
  srcLeft : Nat
  srcNext : Nat
  deriving DecidableEq, Repr, Inhabited

/-- A registered pipeline (R263, R264); `phase` names the graph and node it runs for, `nextRid` is the next
reservation identifier. -/
structure Pipeline where
  num : Nat
  die : Nat
  stages : List Stage
  queues : List StageQueue
  phase : Option (Nat × Nat)
  nextRid : Nat
  deriving DecidableEq, Repr, Inhabited

/-- A registered graph (R270, R272). `state` has the codes of R272; `queuedAt` orders the graphs
that wait for one pipeline (R271). -/
structure Graph where
  num : Nat
  entry : Nat
  cspad : Nat
  resbase : VAddr
  argtab : VAddr
  nodes : List (Nat × List Nat × Nat)
  state : Nat
  node : Nat
  stage : Nat
  waitr : Nat
  argsel : Nat
  waiting : Bool
  queuedAt : Nat
  deriving DecidableEq, Repr, Inhabited

/-- A channel endpoint and its messages, oldest first (R158). -/
structure Endpoint where
  num : Nat
  die : Nat
  msgs : List (List Word)
  deriving DecidableEq, Repr, Inhabited

/-- A binding of a fleet's object table: object address and the eight words of the shape record
(R150, R253). -/
structure Binding where
  die : Nat
  object : VAddr
  shape : List Word
  deriving DecidableEq, Repr, Inhabited

/-- A fleet: chip scratchpad of a session on a die (R249, R272). -/
structure Fleet where
  die : Nat
  base : Nat
  units : Nat
  deriving DecidableEq, Repr, Inhabited

/-- The CP state that a cut saves (R277): chip scratchpad by fleet, and the launches that are held. -/
structure CpState where
  pipes : List Pipeline
  graphs : List Graph
  endpoints : List Endpoint
  bindings : List Binding
  fleets : List Fleet
  cspad : List (Cells Word)
  launches : List Event
  deriving DecidableEq, Repr, Inhabited

/-- A cut: CP state and the crews as they stood (R277, R278). -/
structure Cut where
  cp : CpState
  crews : List SavedCrew
  deriving DecidableEq, Repr, Inhabited

/-- The device's own state of a session (R276 to R279, R336). `undo` holds the first old content of
each line of the epoch, newest first, `undoVa` that of the lines of pages shared or unshared in it, by virtual line
(R349, R350), and `rows` the rows of stores and scratchpads logged in it. `attempt` is the cycle a cut attempt began; `crewBars` are the crew-barrier states that a fork has received (R351); `shelf` the fleets of
a session whose crews are all drained, with their chip scratchpad (R249). -/
structure SessDev where
  pipes : List Pipeline
  graphs : List Graph
  endpoints : List Endpoint
  bindings : List Binding
  fleets : List Fleet
  cut : Option Cut
  undo : List (Nat × List Byte)
  undoVa : List (Nat × List Byte)
  rows : List Nat
  accUndo : List (Nat × Nat × Acc)
  attempt : Option Nat
  retryAt : Option Nat
  lastCut : Nat
  deferred : Bool
  renewUntil : List Nat
  crewBars : List (List CrewBar)
  shelf : List (Fleet × Cells Word)
  deriving DecidableEq, Repr, Inhabited

/-- An open collective (R390): the calls that joined, with the place each rank's call came from and its descriptor;
whether every rank has joined, and whether the return records are on their way. -/
structure Collective where
  key : DWord
  seq : Word
  calls : List (Call × Member × List Word)
  broadcast : Bool
  complete : Bool
  returned : Bool
  deriving DecidableEq, Repr, Inhabited

/-- An attestation in progress or done for a function (R378). -/
structure Attest where
  buf : Cells Byte
  busy : Bool
  status : Nat
  cmd : Word
  deriving DecidableEq, Repr, Inhabited

/-- A Sound port (R388). -/
inductive PortState where
  | up | retraining | down
  deriving DecidableEq, Repr, Inhabited

/-- A fatal end as it is reported to system software (R98, R335). -/
structure EndReport where
  core : Nat
  session : Nat
  tcause : Word
  tpc : PC
  taddr : VAddr
  deriving DecidableEq, Repr, Inhabited

/-- What a waiting form waits for: the end of a drain (by crew), a cut or a rollback (by session), the
place for a restored crew (by ticket), the stop of a crew or the end of its step window, the freeze of
a cluster (by die × 16 + cluster), a translation of an invalidated range (by its number). -/
inductive WaitFor where
  | drain (crew : Nat)
  | take (session : Nat)
  | roll (session : Nat)
  | restore (ticket : Nat)
  | stop (crew : Nat)
  | step (crew : Nat)
  | freeze (cluster : Nat)
  | page (session : Nat) (va : VAddr)
  deriving DecidableEq, Repr, Inhabited

/-- A form of the groups `ckp` and `dbg` that has acted and waits: its group, and the uniform registers
its result goes to as word offsets from the window base (R230, R233, R280, R330). -/
structure Waiter where
  what : WaitFor
  gang : GangRef
  entry : Nat
  dst : List Nat
  deriving DecidableEq, Repr, Inhabited

/-- The whole module, and in `mem` the memory of the other modules as this one reaches it, from `Config.remoteBase` on
(R382). `ends` and `stalls` are the reports to system software: fatal ends, and STALLED graphs by session,
number, stage and reason (R98, R269). `hostData` is what the last read of the host returned (R364, R373); `fwDigest` and `fwSvn` are the digest and the security version of the firmware that runs (R376,
R378). -/
structure State where
  powered : Bool
  started : Bool
  fwDigest : List Byte
  fwSvn : Nat
  tick : Nat
  turn : Turn
  agenda : List Event
  cur : IssueCtx
  ev : Event
  nextId : Nat
  mem : Cells Byte
  lineVer : Cells Word
  predictor : Cells Nat
  frameTag : Cells Nat
  copies : List Copy
  tlb : List TlbEntry
  blocked : List Blocked
  cores : Cells CoreSt
  crews : List Crew
  saved : List SavedCrew
  dies : List DieSt
  sess : Cells SessDev
  mid : Nat
  mstab : Nat
  mstate : Nat
  cpool : List (Nat × Nat)
  parts : Cells Word
  pstat : Word
  plast : Word
  attest : Cells Attest
  dbgSel : Word
  dbgAddr : Word
  hostData : Word
  reportNo : Word
  hostMem : Cells Byte
  ats : List (Nat × Nat × Nat)
  ports : List PortState
  joined : BitVec 16
  routed : BitVec 16
  rerouting : Bool
  collectives : List Collective
  waiters : List Waiter
  ends : List EndReport
  stalls : List (Nat × Nat × Nat × Nat)
  deriving DecidableEq, Repr

/-- An accumulator after reset (R183, R184). -/
def Acc.init : Acc :=
  { data := [], ext := 0, q36 := false, lost := false, nan := false, ovf := false, valid := false,
    session := 0 }

/-- The issue ports after reset. -/
def Ports.init : Ports := { port := 0, taken := [], pushed := [], busy := List.replicate 8 0 }

/-- A core after reset: nothing resident, queues empty (R162). -/
def CoreSt.init : CoreSt :=
  { store := [], fe := [], accs := List.replicate 4 Acc.init, queues := List.replicate 5 [], follow := [],
    gangs := [], teams := [], ports := Ports.init, prior := Ports.init, mxIdle := 0 }

/-- A die after reset: cycle count 0 (R94), FID counter 1 (R316), default budget and TLIM (R273),
no engine leased (R363). -/
def DieSt.init : DieSt :=
  { cyc := 0, frozen := false, frozenClusters := [], freezing := [], fidNext := 1, fids := [], discarded := [],
    cspad := [], energy := 0, winStart := 0, budget := Config.budgetDefault,
    tlim := Config.tlimDefault, theta := 0, throttled := false, energyLast := 0, hot := false, keys := [], keyGen := 0,
    atoll := [], rmap := [], engines := List.replicate 16 0xFF, lease := [0, 0, 0],
    errs := [0, 0, 0, 0], vr := [], bu := [], blu := [], bvo := [], fen := [], held := [],
    stuck := [], seen := [], unitIdle := [], sliceOf := none, sliceEnd := 0, poolWait := [] }

/-- The device state of a session that holds nothing. -/
def SessDev.init : SessDev :=
  { pipes := [], graphs := [], endpoints := [], bindings := [], fleets := [], cut := none,
    undo := [], undoVa := [], rows := [], accUndo := [], attempt := none, retryAt := none, lastCut := 0,
    deferred := false, renewUntil := [0, 0, 0, 0], crewBars := [], shelf := [] }

/-- The module right after module reset: power on, firmware not yet started (R380), no team
resident, no partition active, memory with nothing listed. Log 1 says how a program comes to run.
Log 5 (DESIGN CHOICE). -/
def State.reset : State :=
  { powered := true, started := false, fwDigest := [], fwSvn := 0, tick := 0, turn := .idle, agenda := [], cur := default,
    ev := default,
    nextId := 0, mem := [], lineVer := [], predictor := [], frameTag := [], copies := [], tlb := [],
    blocked := [], cores := [], crews := [], saved := [],
    dies := List.replicate 4 DieSt.init, sess := [], mid := 0, mstab := 0, mstate := 0,
    cpool := List.replicate 4 (0, 0), parts := [], pstat := 0, plast := 0, attest := [],
    dbgSel := 0, dbgAddr := 0, hostData := 0, reportNo := 1, hostMem := [], ats := [],
    ports := List.replicate 8 .up, joined := 0, routed := 0, rerouting := false,
    collectives := [], waiters := [], ends := [], stalls := [] }

end Sys2Proof.Machine
end

