-- ==== Sys2Proof/Machine/Access.lean ====
section
/-! DEFINITION. The places of the state by name: dies, cores, gangs, teams, crews, sessions, the
agenda of events on their way, and the registers of a gang in the banked store (R31, R37, R163). -/

namespace Sys2Proof.Machine

/-- The die, the cluster in the die and the core in the cluster of a core index (R6, R95). -/
def dieOf (core : Nat) : Nat := core / 96
def clusterOf (core : Nat) : Nat := core % 96 / 8
def coreOf (core : Nat) : Nat := core % 8

/-- The core index of core k of cluster c of die d. -/
def coreIndex (die cluster k : Nat) : Nat := die * 96 + cluster * 8 + k

/-- Die d. -/
def State.die (s : State) (d : Nat) : DieSt := s.dies.getD d DieSt.init

/-- The state with die d replaced. -/
def State.setDie (s : State) (d : Nat) (x : DieSt) : State := { s with dies := s.dies.set d x }

/-- A core; one that nothing has touched is as after reset. -/
def State.core (s : State) (c : Nat) : CoreSt := Cells.get CoreSt.init s.cores c

/-- The state with a core replaced. -/
def State.setCore (s : State) (c : Nat) (x : CoreSt) : State :=
  { s with cores := Cells.insert s.cores c x }

/-- The device state of a session. -/
def State.ses (s : State) (n : Nat) : SessDev := Cells.get SessDev.init s.sess n

/-- The state with the device state of a session replaced. -/
def State.setSes (s : State) (n : Nat) (x : SessDev) : State :=
  { s with sess := Cells.insert s.sess n x }

/-- The resident gang that a reference names, if it is still resident. -/
def CoreSt.gang? (c : CoreSt) (g : GangRef) : Option Gang :=
  match Cells.find? c.gangs g.slot with
  | some x => if x.gid = g.gid then some x else none
  | none => none

/-- The core with the gang in a slot replaced. -/
def CoreSt.setGang (c : CoreSt) (slot : Nat) (x : Gang) : CoreSt :=
  { c with gangs := Cells.insert c.gangs slot x }

def State.gang? (s : State) (g : GangRef) : Option Gang := (s.core g.core).gang? g

def State.setGang (s : State) (g : GangRef) (x : Gang) : State :=
  s.setCore g.core ((s.core g.core).setGang g.slot x)

/-- The state with a resident gang changed; nothing happens if the gang has ended. -/
def State.updGang (s : State) (g : GangRef) (f : Gang → Gang) : State :=
  match s.gang? g with
  | some x => s.setGang g (f x)
  | none => s

/-- The reference of the gang resident in a slot. -/
def CoreSt.ref (c : CoreSt) (core slot : Nat) : Option GangRef :=
  (Cells.find? c.gangs slot).map (fun x => ⟨core, slot, x.gid⟩)

/-- Every resident gang of a core, by slot. -/
def CoreSt.refs (c : CoreSt) (core : Nat) : List GangRef :=
  c.gangs.map (fun e => ⟨core, e.1, e.2.gid⟩)

/-- The team in a team slot of a core. -/
def CoreSt.team? (c : CoreSt) (t : Nat) : Option Team := Cells.find? c.teams t

def CoreSt.setTeam (c : CoreSt) (t : Nat) (x : Team) : CoreSt :=
  { c with teams := Cells.insert c.teams t x }

def State.team? (s : State) (core t : Nat) : Option Team := (s.core core).team? t

def State.setTeam (s : State) (core t : Nat) (x : Team) : State :=
  s.setCore core ((s.core core).setTeam t x)

def State.updTeam (s : State) (core t : Nat) (f : Team → Team) : State :=
  match s.team? core t with
  | some x => s.setTeam core t (f x)
  | none => s

/-- The launch record of a gang's team. -/
def CoreSt.recordOf (c : CoreSt) (x : Gang) : TeamRec :=
  ((c.team? x.team).map (·.record)).getD default

/-- The session of a gang's team. -/
def CoreSt.sessionOf (c : CoreSt) (x : Gang) : Nat :=
  ((c.team? x.team).map (·.session)).getD 0

/-- The gangs of a team, by slot. -/
def CoreSt.teamGangs (c : CoreSt) (t : Nat) : List (Nat × Gang) :=
  c.gangs.filter (fun e => decide (e.2.team = t))

/-- The crew with a number. -/
def State.crew? (s : State) (id : Nat) : Option Crew := s.crews.find? (fun c => decide (c.id = id))

/-- The state with the crew of a number changed. -/
def State.updCrew (s : State) (id : Nat) (f : Crew → Crew) : State :=
  { s with crews := s.crews.map (fun c => if c.id = id then f c else c) }

/-- The crew of a gang's team. -/
def State.crewOf (s : State) (core : Nat) (x : Gang) : Option Crew :=
  match s.team? core x.team with
  | some t => s.crew? t.crew
  | none => none

/-- An event put on its way. -/
def State.post (s : State) (e : Event) : State := { s with agenda := s.agenda ++ [e] }

/-- An event put on its way unless it is already. -/
def State.postOnce (s : State) (e : Event) : State :=
  if s.agenda.any (fun f => decide (f = e)) then s else s.post e

def State.postAll (s : State) (es : List Event) : State := { s with agenda := s.agenda ++ es }

/-- The agenda without the events that satisfy `p`. -/
def State.drop (s : State) (p : Event → Bool) : State :=
  { s with agenda := s.agenda.filter (fun e => !p e) }

/-- A fresh number for a resident object (log 2). -/
def State.fresh (s : State) : State := { s with nextId := s.nextId + 1 }

/-- A slice that is not live holds nothing. -/
def Slice.dead : Slice :=
  { live := false, pc := 0, mask := 0, mode := 0, rstack := [], lstack := [], stop := .running }

/-- Slice s of a gang. -/
def Gang.slice (x : Gang) (n : Nat) : Slice := x.slices.getD n Slice.dead

def Gang.setSlice (x : Gang) (n : Nat) (v : Slice) : Gang := { x with slices := x.slices.set n v }

def Gang.live (x : Gang) (n : Nat) : Bool := (x.slice n).live

/-- The live slices of a gang (GSTAT.LIVE, R26). -/
def Gang.liveSet (x : Gang) : SliceSet := sliceSet x.live

/-- Issue group e of a gang: split-table entries 0 to 3, then single slices as groups 4 to 11. -/
def Gang.group (x : Gang) (e : Nat) : GroupSt := x.groups.getD e default

def Gang.setGroup (x : Gang) (e : Nat) (v : GroupSt) : Gang := { x with groups := x.groups.set e v }

/-- The live slices of issue group e (R23). -/
def Gang.groupSlices (x : Gang) (e : Nat) : SliceSet :=
  if e < 4 then x.split.getD e 0 &&& x.liveSet
  else if x.single.getLsbD (e - 4) && x.live (e - 4) then BitVec.ofNat 8 (2 ^ (e - 4)) else 0

/-- The issue groups of a gang that hold a live slice. -/
def Gang.groupList (x : Gang) : List Nat :=
  (List.range 12).filter (fun e => decide (x.groupSlices e ≠ 0))

/-- The issue group that holds a slice. -/
def Gang.groupOf (x : Gang) (n : Nat) : Nat :=
  ((List.range 4).find? (fun e => (x.split.getD e 0).getLsbD n)).getD (4 + n)

/-- Predicate p of lane l. -/
def Gang.pred (x : Gang) (p l : Nat) : Bool := (x.preds.getD p 0).getLsbD l

/-- Predicate p with the lanes of `m` set to their bits of `v`. -/
def Gang.setPred (x : Gang) (p : Nat) (m v : LaneSet) : Gang :=
  { x with preds := x.preds.set p ((x.preds.getD p 0 &&& ~~~m) ||| (v &&& m)) }

/-- Lane l of a gang is active under R15 for an instruction of the slices of `g`. -/
def Gang.active (x : Gang) (g : SliceSet) (l : Nat) : Bool :=
  let sl := x.slice (l / 4)
  g.getLsbD (l / 4) && sl.live && sl.mask.getLsbD (l % 4) &&
    (!sl.mode.getLsbD 15 || (x.pred (fieldNat sl.mode 11 3) l != sl.mode.getLsbD 14))

/-- Lane l is in the lane mask of a live slice of `g`, whatever the guard says (R123). -/
def Gang.masked (x : Gang) (g : SliceSet) (l : Nat) : Bool :=
  let sl := x.slice (l / 4)
  g.getLsbD (l / 4) && sl.live && sl.mask.getLsbD (l % 4)

/-- The share that covers vector register n of a gang (R37). -/
def Gang.share? (x : Gang) (n : Nat) : Option Share :=
  x.shares.find? (fun h => decide (h.first ≤ n) && decide (n < h.first + h.count))

/-- Where word `w` of a gang's window lies, as a word offset of the core's store (R31); a shared
register is the partner's copy (R37). -/
def CoreSt.phys (c : CoreSt) (x : Gang) (w : Nat) : Nat :=
  if w < x.vcount * 32 then
    match x.share? (w / 32) with
    | some h =>
      match Cells.find? c.gangs h.slot with
      | some y => y.base / 4 + (h.pfirst + w / 32 - h.first) * 32 + w % 32
      | none => x.base / 4 + w
    | none => x.base / 4 + w
  else x.base / 4 + w

/-- Present contents of a register word (R33). -/
def CoreSt.reg (c : CoreSt) (x : Gang) (w : Nat) : Word := Cells.get 0 c.store (c.phys x w)

/-- The state of a register copy (R34). -/
def CoreSt.copy (c : CoreSt) (x : Gang) (w : Nat) : CopyState := Cells.get .full c.fe (c.phys x w)

/-- A register word written, its copy's state as it was. -/
def CoreSt.poke (c : CoreSt) (x : Gang) (w : Nat) (v : Word) : CoreSt :=
  { c with store := Cells.put 0 c.store (c.phys x w) v }

/-- The state of a register copy set. -/
def CoreSt.setCopy (c : CoreSt) (x : Gang) (w : Nat) (f : CopyState) : CoreSt :=
  { c with fe := Cells.put .full c.fe (c.phys x w) f }

/-- A register word written and its copy full (R34). -/
def CoreSt.setReg (c : CoreSt) (x : Gang) (w : Nat) (v : Word) : CoreSt :=
  (c.poke x w v).setCopy x w .full

def CoreSt.setRegs (c : CoreSt) (x : Gang) : List (Nat × Word) → CoreSt
  | [] => c
  | (w, v) :: r => CoreSt.setRegs (c.setReg x w v) x r

/-- Word of the window that holds register field r in lane l (R28, R31). -/
def regWord (x : Gang) (r l : Nat) : Nat :=
  if r < 0xC0 then r * 32 + l else x.vcount * 32 + (r - 0xC0)

/-- The word of uniform register km. -/
def uniWord (x : Gang) (m : Nat) : Nat := x.vcount * 32 + m

/-- The privilege level of a gang: BASE, and at least PL1 while TCAUSE.ACT is 1 (R83). -/
def CoreSt.level (c : CoreSt) (x : Gang) : Nat :=
  if x.trap.tcause.getLsbD 15 then max (c.recordOf x).base 1 else (c.recordOf x).base

end Sys2Proof.Machine
end

