-- ==== Sys2Proof/Machine/Ops.lean ====
section
/-! DEFINITION. The operations every meaning shares on slices, issue groups and gangs: completing a
sequence (R21, R23, R71), waiting, raising a trap and taking it (R97), fatal ends (R98), the end of
slices and gangs (R38), `regang` (R25), team barriers (R155) and crew barriers (R219). -/

namespace Sys2Proof.Machine

/-- Word address `a` is one of the words of the sequence from `first` up to before `next` (R71). -/
def inSequence (first next a : PC) : Bool := decide ((a - first).toNat < (next - first).toNat)

/-- The next PC and the loop stack after a sequence completes without a transfer (R21, R71, R90):
each top entry whose END the sequence covers counts down; an exhausted one is popped. -/
def loopStep (first next : PC) : List LoopEntry → PC × List LoopEntry
  | [] => (next, [])
  | e :: r =>
    if inSequence first next e.stop then
      if e.count - 1 ≠ 0 then (e.start, { e with count := e.count - 1 } :: r)
      else loopStep first next r
    else (next, e :: r)

/-- A slice after it completes the sequence from `first` up to before `next` without a transfer. -/
def Slice.completed (sl : Slice) (first next : PC) : Slice :=
  { sl with pc := (loopStep first next sl.lstack).1, lstack := (loopStep first next sl.lstack).2 }

/-- The loop stack after a branch to `t`: entries that do not hold the target are popped (R22). -/
def popOutside (t : PC) : List LoopEntry → List LoopEntry
  | [] => []
  | e :: r =>
    if (t - e.start).toNat ≤ (e.stop - e.start).toNat then e :: r else popOutside t r

/-- A slice after a branch to `t` (R22). -/
def Slice.branched (sl : Slice) (t : PC) : Slice :=
  { sl with pc := t, lstack := popOutside t sl.lstack }

/-- Slices put into classes of equal PC and MODE, the classes in the order of their lowest slice
(R23); the slices come in increasing order. -/
def classAdd (x : Gang) (n : Nat) : List (List Nat) → List (List Nat)
  | [] => [[n]]
  | c :: r =>
    match c with
    | [] => c :: classAdd x n r
    | m :: _ =>
      if (x.slice m).pc = (x.slice n).pc ∧ (x.slice m).mode = (x.slice n).mode
      then (c ++ [n]) :: r else c :: classAdd x n r

def classesOf (x : Gang) (l : List Nat) : List (List Nat) :=
  l.foldl (fun acc n => classAdd x n acc) []

/-- The set of a list of slices. -/
def setOfSlices (l : List Nat) : SliceSet := sliceSet (fun n => decide (n ∈ l))

/-- A class given the lowest free split-table entry, or else to single slices (R23 items 3, 4). -/
def Gang.place (x : Gang) (c : List Nat) : Gang :=
  match (List.range 4).find? (fun e => decide (x.split.getD e 0 = 0)) with
  | some e => { x with split := x.split.set e (setOfSlices c), groups := x.groups.set e default }
  | none =>
    { x with
      single := x.single ||| setOfSlices c
      groups := c.foldl (fun gs n => gs.set (4 + n) default) x.groups }

/-- The group `e` of a gang split into the classes of its live slices (R23). A single slice stays
single. -/
def Gang.regroup (x : Gang) (e : Nat) : Gang :=
  if e < 4 then
    match classesOf x (slicesOf (x.groupSlices e)) with
    | [] => { x with split := x.split.set e 0 }
    | c :: r => r.foldl Gang.place { x with split := x.split.set e (setOfSlices c) }
  else x

/-- A gang whose live slices all form entry 0 (R25, R97). -/
def Gang.whole (x : Gang) : Gang :=
  { x with split := [x.liveSet, 0, 0, 0], single := 0, groups := List.replicate 12 default }

/-- One issue group holds every live slice of the gang. -/
def Gang.isWhole (x : Gang) : Bool := decide (x.groupList.length = 1)

/-- Every live slice of `g` changed by `f`. -/
def Gang.mapSlices (x : Gang) (g : SliceSet) (f : Nat → Slice → Slice) : Gang :=
  { x with
    slices := (List.range 8).map fun n =>
      if g.getLsbD n && x.live n then f n (x.slice n) else x.slice n }

/-- The issuing group moves on: its slices change by `f`, it splits if they disagree, and it is
ready again with age and watchdog zero (R23, R174, R326). -/
def Gang.moved (x : Gang) (e : Nat) (g : SliceSet) (f : Nat → Slice → Slice) : Gang :=
  ((x.setGroup e default).mapSlices g f).regroup e

/-- The issuing gang of the present sequence. -/
def State.me? (s : State) : Option Gang := s.gang? s.cur.gang

/-- The present sequence completes, its slices moved by `f`. -/
def State.moved (s : State) (f : Nat → Slice → Slice) : State :=
  s.updGang s.cur.gang (fun x => x.moved s.cur.entry s.cur.slices f)

/-- The present sequence completes without a transfer (R21, R23, R69). -/
def State.retire (s : State) : State :=
  s.moved (fun _ sl => { sl.completed s.cur.addr s.cur.next with stop := .running })

/-- A group of a gang waits with a reason (R325). -/
def Gang.hold (x : Gang) (e : Nat) (r : WaitReason) : Gang :=
  x.setGroup e { x.group e with wait := r, under := .ready }

/-- A sequence of a group counts as not issued: in the gang's counts of sequences, in the skids of a stop and in a
step window (R230, R233, R325). -/
def State.unissueAt (s : State) (g : GangRef) (entry : Nat) : State :=
  match s.gang? g with
  | none => s
  | some x =>
    let k := s.crewOf g.core x
    let sl := x.groupSlices entry
    let skids := k.any (fun k => k.trig.any (fun t => decide (t.cycle ≤ (s.die k.die).cyc)))
    let s1 := (s.setGang g
      { x with seqs := x.seqs - 1, burst := x.burst - 1, skid := if skids then x.skid - 1 else x.skid }).updTeam
      g.core x.team (fun t => { t with issued := t.issued - 1 })
    match k with
    | none => s1
    | some k => s1.updCrew k.id fun k => { k with
        window := k.window.map fun w =>
          if w.gang = g then { w with issued := w.issued.filter (fun m => decide (m ≠ sl)) } else w }

/-- The present sequence counts as not issued, and its issue port is as before it: a waiting group holds no port
(R35). -/
def State.unissue (s : State) : State :=
  let s1 := s.unissueAt s.cur.gang s.cur.entry
  let c := s1.core s.cur.gang.core
  s1.setCore s.cur.gang.core { c with ports := c.prior }

/-- The issuing group waits; its sequence counts as not issued and is tried again (R325). -/
def State.hold (s : State) (r : WaitReason) : State :=
  s.unissue.updGang s.cur.gang (fun x => x.hold s.cur.entry r)

/-- A waiting group tests its condition: its sequence may issue again, and until it does the group holds its reason
(R35, R325). A pause simply ends. -/
def GroupSt.test (gr : GroupSt) : GroupSt :=
  { gr with wait := .ready, under := if gr.wait = .pause then .ready else gr.wait }

/-- Every group of a gang that waits with a reason of `p` tests its condition. -/
def Gang.wake (x : Gang) (p : WaitReason → Bool) : Gang :=
  { x with groups := x.groups.map (fun gr => if p gr.wait then gr.test else gr) }

/-- Reasons that a delivery or a loss of a register copy may end (R35, R91, R156). -/
def wokenByCopy (r : WaitReason) : Bool :=
  match r with
  | .empty | .full | .pause => true
  | _ => false

/-- A group is ready, or will be when the gang is no longer parked (R318). -/
def GroupSt.free (gr : GroupSt) : GroupSt :=
  if gr.wait = .fault then { gr with under := .ready } else { gr with wait := .ready, under := .ready }

/-- A group that waits for the delivery of one register word becomes ready (R152, R313). -/
def Gang.wakeAwait (x : Gang) (w : Nat) : Gang :=
  let es := (x.awaits.filter (fun a => decide (a.2 = w))).map (·.1)
  { x with
    awaits := x.awaits.filter (fun a => decide (a.2 ≠ w))
    groups := es.foldl (fun gs e => gs.set e (gs.getD e default).free) x.groups }

/-- A gang maps a word of the store as a register, in its own window or through a share (R37): as a uniform one, or
as one of a slice that satisfies `p`. -/
def CoreSt.mapsIn (c : CoreSt) (off : Nat) (y : Gang) (p : Nat → Bool) : Bool :=
  (decide (y.base / 4 ≤ off) && decide (off < y.base / 4 + y.vcount * 32) &&
    (y.share? ((off - y.base / 4) / 32)).isNone && p ((off - y.base / 4) % 32 / 4)) ||
  (decide (y.base / 4 + y.vcount * 32 ≤ off) && decide (off < y.base / 4 + y.vcount * 32 + 64)) ||
  y.shares.any fun h =>
    match Cells.find? c.gangs h.slot with
    | some z =>
      decide (z.base / 4 + h.pfirst * 32 ≤ off) &&
        decide (off < z.base / 4 + (h.pfirst + h.count) * 32) && p ((off - z.base / 4) % 32 / 4)
    | none => false

/-- A gang maps a word, and a gang maps it as a register of a live slice (R38). -/
def CoreSt.maps (c : CoreSt) (off : Nat) (y : Gang) : Bool := c.mapsIn off y (fun _ => true)
def CoreSt.mapsLive (c : CoreSt) (off : Nat) (y : Gang) : Bool := c.mapsIn off y y.live

/-- Register copies whose delivery is abandoned (R36, R38): each becomes lost if a live slice still
maps it, GSTAT.LOST is set in every gang that maps it, and groups that wait on it try again. -/
def CoreSt.lose (c : CoreSt) : List Nat → CoreSt
  | [] => c
  | off :: r =>
    let c1 : CoreSt :=
      if c.gangs.any (fun e => c.mapsLive off e.2) then
        { c with
          fe := Cells.put .full c.fe off .lost
          gangs := c.gangs.map fun e =>
            if c.maps off e.2 then (e.1, { e.2.wake wokenByCopy with lost := true }) else e }
      else { c with fe := Cells.put .full c.fe off .full }
    CoreSt.lose c1 r

/-- The copies whose pending producer is a delivery to lane l of a gang with `p l`. -/
def CoreSt.pendingOf (c : CoreSt) (g : GangRef) (p : Nat → Bool) : List Nat :=
  (c.fe.filter fun e =>
    match e.2 with
    | .empty (.delivery h l) => decide (h = g) && p l
    | _ => false).map (·.1)

/-- The gang with some slices no longer live: they leave their groups (R24). -/
def Gang.dropSlices (x : Gang) (dead : SliceSet) : Gang :=
  { x with
    slices := (List.range 8).map fun n =>
      if dead.getLsbD n then { x.slice n with live := false, stop := .running } else x.slice n
    split := x.split.map (fun m => m &&& ~~~dead)
    single := x.single &&& ~~~dead }

/-- A delivery to a lane, or of a uniform result, has its producer in slices of `g`. -/
def inSlices (g : SliceSet) (l : Nat) : Bool :=
  if l < 32 then g.getLsbD (l / 4) else decide (32 < l) && g.getLsbD (l - 33)

/-- Slices of a gang end (R38, R91): their pending deliveries are discarded. -/
def CoreSt.endSlices (c : CoreSt) (g : GangRef) (dead : SliceSet) : CoreSt :=
  match c.gang? g with
  | none => c
  | some x =>
    let c1 := c.setGang g.slot (x.dropSlices dead)
    c1.lose (c1.pendingOf g (inSlices dead))

/-- A handoff-empty copy becomes lost when its sharing ends (R156). -/
def unhand (f : CopyState) : CopyState :=
  match f with
  | .empty .handoff => .lost
  | f => f

/-- The words of a share as pairs: in the window of the gang that holds the share, and in the
store where the partner's copies lie. -/
def CoreSt.shareWords (c : CoreSt) (y : Gang) (h : Share) : List (Nat × Nat) :=
  (List.range (h.count * 32)).map (fun i => (h.first * 32 + i, c.phys y (h.first * 32 + i)))

/-- A share of gang `y` ends and `y` survives: it keeps the registers as its own, in the state they
hold (R37). -/
def CoreSt.keepShare (c : CoreSt) (slot : Nat) (y : Gang) (h : Share) : CoreSt :=
  let ws := c.shareWords y h
  let lost := ws.any (fun p => decide (Cells.get .full c.fe p.2 = .empty .handoff))
  let y1 := { y with shares := y.shares.filter (fun k => decide (k ≠ h)), lost := y.lost || lost }
  let st := ws.foldl (fun st p => Cells.put 0 st (y.base / 4 + p.1) (Cells.get 0 c.store p.2)) c.store
  let fe := ws.foldl
    (fun fe p => Cells.put .full fe (y.base / 4 + p.1) (unhand (Cells.get .full c.fe p.2))) c.fe
  { c with store := st, fe := fe, gangs := Cells.insert c.gangs slot y1 }

/-- A share of gang `x`, which ends: the partner keeps its registers (R37). -/
def CoreSt.dropShare (c : CoreSt) (x : Gang) (h : Share) : CoreSt :=
  let ws := c.shareWords x h
  let lost := ws.any (fun p => decide (Cells.get .full c.fe p.2 = .empty .handoff))
  let fe := ws.foldl
    (fun fe p => Cells.put .full fe p.2 (unhand (Cells.get .full c.fe p.2))) c.fe
  { c with
    fe := fe
    gangs := c.gangs.map fun e =>
      if e.1 = h.slot then (e.1, { e.2 with lost := e.2.lost || lost }) else e }

/-- Every sharing of the gang in a slot ends with the gang (R37, R156). -/
def CoreSt.unshareGang (c : CoreSt) (slot : Nat) (x : Gang) : CoreSt :=
  let c1 := x.shares.foldl (fun c h => c.dropShare x h) c
  c.gangs.foldl
    (fun c2 e =>
      e.2.shares.foldl
        (fun c3 h => if h.slot = slot then
            match Cells.find? c3.gangs e.1 with
            | some y => c3.keepShare e.1 y h
            | none => c3
          else c3) c2) c1

/-- The copies of an ended gang's window are freed: they are full again (R38). -/
def CoreSt.freeWindow (c : CoreSt) (x : Gang) : CoreSt :=
  { c with fe := Cells.clear c.fe (x.base / 4) (x.vcount * 32 + 64) }

/-- The gang in a slot leaves the core. -/
def CoreSt.removeGang (c : CoreSt) (g : GangRef) : CoreSt :=
  match c.gang? g with
  | none => c
  | some x =>
    let c1 := (c.unshareGang g.slot x).freeWindow x
    { c1 with gangs := Cells.erase c1.gangs g.slot }

/-- No gang of the team is resident any more. -/
def CoreSt.teamEnded (c : CoreSt) (t : Nat) : Bool := (c.teamGangs t).isEmpty

/-- An event of the agenda that a gang's accesses of slices of `g` still wait on: they are on their
way to their homes, or their value is on its way back. -/
def pendingEvent (r : GangRef) (g : SliceSet) (e : Event) : Bool :=
  match e with
  | .accessAtHome a => decide (a.gang = r) && decide (a.slices &&& g ≠ 0)
  | .producerDelivery d => decide (d.gang = r) && inSlices g d.lane
  | _ => false

/-- Some access in a block queue satisfies `p` (R323). -/
def State.queuedAccess (s : State) (p : Access → Bool) : Bool :=
  s.blocked.any (fun b => b.queue.any (fun e => match e with
    | .accessAtHome a => p a
    | _ => false))

/-- An access of a gang is not yet performed: on its way, or in a block queue (R135, R323). -/
def State.accessPending (s : State) (r : GangRef) (p : Access → Bool) : Bool :=
  s.agenda.any (fun e => match e with
    | .accessAtHome a => decide (a.gang = r) && p a
    | _ => false) ||
  s.queuedAccess (fun a => decide (a.gang = r) && p a)

/-- Whether group e of a gang is inside a form that has begun effects: it waits for a delivery with
reason RELEASE or SCHED (R152, R313). -/
def Gang.begun (x : Gang) (e : Nat) : Bool := x.awaits.any (fun a => decide (a.1 = e))

/-- The form that group e of a gang is inside, and whether there is one (R280, R393). -/
def Gang.form? (x : Gang) (e : Nat) : Option FormHold := x.forms.find? (fun f => decide (f.cur.entry = e))
def Gang.inForm (x : Gang) (e : Nat) : Bool := (x.form? e).isSome

/-- The sequences that slices of `g` have issued have completed or parked (R39): nothing of them is
on its way, and no group of them is inside a `rel` or a form that waits with reason SCHED. -/
def State.settled (s : State) (r : GangRef) (x : Gang) (g : SliceSet) : Bool :=
  !s.agenda.any (pendingEvent r g) &&
  !s.accessPending r (fun a => decide (a.slices &&& g ≠ 0)) &&
  !x.latency.any (fun m => decide (m.slices &&& g ≠ 0)) &&
  !(x.groupList.any fun e =>
      decide (x.groupSlices e &&& g ≠ 0) && (x.begun e || x.inForm e))

/-- TCAUSE for a cause (R95). -/
def tcauseWord (cause : BitVec 8) (info : BitVec 16) (slice : Nat) (bu act : Bool) : Word :=
  info ++ (BitVec.ofBool act) ++ (0#3 : BitVec 3) ++ BitVec.ofNat 3 slice ++ BitVec.ofBool bu ++ cause

/-- The lowest-numbered live slice of a set (R95). -/
def Gang.lead (x : Gang) (g : SliceSet) : Nat :=
  (lowest? 8 (fun n => g.getLsbD n && x.live n)).getD 0

/-- TSPLIT: byte e is the slice mask of entry e (R94). -/
def Gang.splitWord (x : Gang) : Word :=
  (x.split.getD 3 0) ++ (x.split.getD 2 0) ++ (x.split.getD 1 0) ++ (x.split.getD 0 0)

/-- A slice as trap entry saves it (R96). -/
def Slice.saved (sl : Slice) : SavedSlice :=
  { pc := sl.pc, at_ := sl.pc, stop := sl.stop, live := sl.live, mask := sl.mask, mode := sl.mode,
    rstack := sl.rstack, lstack := sl.lstack }

/-- A slice as the handler finds it (R97). -/
def Slice.entered (sl : Slice) (handler : PC) : Slice :=
  { sl with pc := handler, mask := 0b1111#4, mode := 0, rstack := [], lstack := [], stop := .running }

/-- Taking a trap (R39, R97): every slice, the split table, GSTAT and the cause are saved in the trap record,
TCAUSE.ACT is 1, and every live slice stands at the handler in entry 0 with mask 0b1111, MODE 0 and
both stacks empty. A sequence that waited to append its calls counts as not issued. -/
def Gang.entered (x : Gang) (r : Raised) (handler : PC) : Gang :=
  let x1 : Gang :=
    { x with
      trap :=
        { x.trap with
          tcause := tcauseWord r.cause r.info (x.lead r.slices) r.bu true
          tpc := r.addr
          taddr := r.taddr
          tlanes := r.tlanes
          tsplit := x.splitWord
          tslice := x.slices.map Slice.saved
          lost := x.lost
          rx := x.rx }
      slices := x.slices.map (fun sl => if sl.live then sl.entered handler else sl)
      raised := none
      held := []
      awaits := []
      parked := x.parked.map (fun p => { p with saved := true })
      bars := x.bars.map (fun e => (e.1, { e.2 with pending := false, saved := e.2.pending }))
      cbars := x.cbars.map (fun e => (e.1, { e.2 with pending := false, saved := e.2.pending })) }
  x1.whole

/-- Events that append a waiting `qcall` or `send` of a gang. -/
def appendEvent (g : GangRef) (e : Event) : Bool :=
  match e with
  | .qcallAppend h _ => decide (h = g)
  | .sendAppend h _ => decide (h = g)
  | _ => false

/-- A barrier of a team. -/
def Team.bar (t : Team) (id : Nat) : TeamBar := t.bars.getD id default

/-- Every live slice of a gang stands at team barrier `id`, and it is not yet let pass. -/
def Gang.atBar (x : Gang) (id : Nat) : Bool :=
  decide (x.liveSet ≠ 0) && (slicesOf x.liveSet).all fun n =>
    match (x.slice n).stop with
    | .bar i _ _ => decide (i = id)
    | _ => false

/-- The n that a gang brings to a team barrier: that of its lowest live slice. Log 129 (DESIGN CHOICE). -/
def Gang.barCount (x : Gang) : Nat :=
  match (x.slice (x.lead x.liveSet)).stop with
  | .bar _ n _ => n
  | _ => 0

/-- A group waits in a barrier, or will when the gang is no longer parked. -/
def GroupSt.inBarrier (gr : GroupSt) : Bool :=
  decide (gr.wait = .barrier) || decide (gr.wait = .cbar) || decide (gr.under = .barrier) || decide (gr.under = .cbar)

/-- The slices at a barrier pass: those of arrive forms at the arrival, those of the other forms
when the generation completes; their groups issue again (R155 items 5, 7, 8). -/
def Gang.pass (x : Gang) (p : Stop → Bool) : Gang :=
  let x1 := x.mapSlices x.liveSet (fun _ sl => if p sl.stop then { sl with stop := .passed } else sl)
  { x1 with
    groups := (List.range 12).map fun e =>
      let gr := x1.group e
      if gr.inBarrier && (slicesOf (x1.groupSlices e)).any (fun n => decide ((x1.slice n).stop = .passed))
      then gr.free else gr }

def splitBarStop (id : Nat) (st : Stop) : Bool :=
  match st with
  | .bar i _ sp => decide (i = id) && sp
  | _ => false

def barStop (id : Nat) (st : Stop) : Bool :=
  match st with
  | .bar i _ _ => decide (i = id)
  | _ => false

/-- One gang arrives at a team barrier (R155 items 2, 3, 6, 8): the barrier afterwards and the gang. -/
def arriveBar (g : GangRef) (id : Nat) (b : TeamBar) (x : Gang) : TeamBar × Gang :=
  let pend := match Cells.find? x.bars id with
    | some a => a.pending
    | none => false
  if x.atBar id && !pend && !decide (x.num ∈ b.arrived) then
    let x1 := { x with bars := Cells.insert x.bars id ⟨b.gen, true, false⟩ }
    let x2 := x1.pass (splitBarStop id)
    let waits := (slicesOf x2.liveSet).any (fun n => barStop id (x2.slice n).stop)
    ({ b with
       n := if b.arrived = [] then x.barCount else b.n
       arrived := b.arrived ++ [x.num]
       older := b.older ++ [(g, x.seqs)] },
     { x2 with bars := Cells.insert x2.bars id ⟨b.gen, waits, false⟩ })
  else (b, x)

/-- Every gang of a team that stands at barrier `id` arrives. -/
def arriveAll (core id : Nat) : List (Nat × Gang) → State → TeamBar → State × TeamBar
  | [], s, b => (s, b)
  | (slot, x) :: r, s, b =>
    let g : GangRef := ⟨core, slot, x.gid⟩
    let (b1, x1) := arriveBar g id b x
    arriveAll core id r (s.setGang g x1) b1

/-- What the slices of the trap record had stopped at lets them pass (R155 item 8). -/
def Gang.passSaved (x : Gang) (p : Stop → Bool) : Gang :=
  { x with trap :=
      { x.trap with
        tslice := x.trap.tslice.map (fun v => if p v.stop then { v with stop := .passed } else v) } }

/-- The slices of an arrival whose generation has completed pass: those that stand at the barrier, or
those of the trap record. -/
def Gang.completed (x : Gang) (a : Arrival) (p : Stop → Bool) : Gang :=
  let x1 := if a.pending then x.pass p else x
  if a.saved then x1.passSaved p else x1

/-- Every access that the gangs of some arrivals issued before them has been performed (R155, R219). -/
def State.performed (s : State) (l : List (GangRef × Nat)) : Bool :=
  l.all fun e => !s.accessPending e.1 (fun a => decide (a.seq ≤ e.2))

/-- A gang that waits in a barrier for a generation before `gen` passes (R155 items 5, 7). -/
def Gang.letPass (x : Gang) (arr : Cells Arrival) (id gen : Nat) (p : Stop → Bool) : Option (Gang × Arrival) :=
  match Cells.find? arr id with
  | some a => if a.gen < gen ∧ (a.pending ∨ a.saved) then some (x.completed a p, ⟨a.gen, false, false⟩) else none
  | none => none

/-- The gangs of a team that wait at barrier `id` for a completed generation pass, and the groups that wait in
`barv.wait` look again (R155 items 5, 7). -/
def releaseBar (core id gen : Nat) : List (Nat × Gang) → State → State
  | [], s => s
  | (slot, x) :: r, s =>
    let x1 := match x.letPass x.bars id gen (barStop id) with
      | some (y, a) => { y with bars := Cells.insert x.bars id a }
      | none => x
    releaseBar core id gen r
      (s.setGang ⟨core, slot, x.gid⟩ (x1.wake (fun w => decide (w = WaitReason.barrier))))

/-- Team barrier `id` settles: gangs arrive, and a generation whose arrivals reach the lesser of N
and the live gangs completes, after which gangs that waited to arrive again count; the gangs that wait for a completed
generation pass once the older accesses of the arrivals are performed (R155). Log 11 (DEDUCED). -/
def State.settleBar (s : State) (core t id : Nat) : Nat → State
  | 0 => s
  | fuel + 1 =>
    match s.team? core t with
    | none => s
    | some tm =>
      let (s1, b) := arriveAll core id ((s.core core).teamGangs t) s (tm.bar id)
      let live := ((s1.core core).teamGangs t).length
      let full := decide (b.arrived ≠ []) && decide (min b.n live ≤ b.arrived.length)
      let b1 : TeamBar := if full then ⟨b.gen + 1, 0, [], b.older⟩ else b
      let done := s1.performed b1.older
      let b2 : TeamBar := if done then { b1 with older := [] } else b1
      let s2 := if done then releaseBar core id b2.gen ((s1.core core).teamGangs t) s1 else s1
      let s3 := s2.updTeam core t fun tm => { tm with bars := tm.bars.set id b2 }
      if full then State.settleBar s3 core t id fuel else s3

/-- A barrier of a crew. -/
def Crew.bar (c : Crew) (id : Nat) : CrewBar := c.bars.getD id default

/-- Every live slice of a gang stands at crew barrier `id`. -/
def Gang.atCbar (x : Gang) (id : Nat) : Bool :=
  decide (x.liveSet ≠ 0) && (slicesOf x.liveSet).all fun n =>
    match (x.slice n).stop with
    | .cbar i _ => decide (i = id)
    | _ => false

def splitCbarStop (id : Nat) (st : Stop) : Bool :=
  match st with
  | .cbar i sp => decide (i = id) && sp
  | _ => false

def cbarStop (id : Nat) (st : Stop) : Bool :=
  match st with
  | .cbar i _ => decide (i = id)
  | _ => false

/-- The gang has arrived at the present generation of a crew barrier. -/
def Gang.cbarArrived (x : Gang) (id gen : Nat) : Bool :=
  match Cells.find? x.cbars id with
  | some a => decide (a.gen = gen)
  | none => false

/-- One gang arrives at a crew barrier (R218): the barrier afterwards and the gang. -/
def arriveCbar (g : GangRef) (id : Nat) (b : CrewBar) (x : Gang) : CrewBar × Gang :=
  let pend := match Cells.find? x.cbars id with
    | some a => a.pending
    | none => false
  if x.atCbar id && !pend && !x.cbarArrived id b.gen then
    let x2 := x.pass (splitCbarStop id)
    let waits := (slicesOf x2.liveSet).any (fun n => cbarStop id (x2.slice n).stop)
    ({ b with older := b.older ++ [(g, x.seqs)] }, { x2 with cbars := Cells.insert x2.cbars id ⟨b.gen, waits, false⟩ })
  else (b, x)

/-- The ranks of a crew whose teams are resident, with their cores and team slots. -/
def Crew.residents (c : Crew) : List (Nat × Nat × Nat) :=
  (List.range c.cores.length).filterMap fun r =>
    if c.gone.getD r false then none else some (r, c.cores.getD r 0, c.teams.getD r 0)

/-- The resident gangs of the members of a crew. -/
def State.crewGangs (s : State) (c : Crew) : List (GangRef × Gang) :=
  c.residents.flatMap fun r =>
    ((s.core r.2.1).teamGangs r.2.2).map fun e => (⟨r.2.1, e.1, e.2.gid⟩, e.2)

/-- The S copies in the L1 of a core are discarded (R151, R259). -/
def State.dropL1S (s : State) (core : Nat) (p : Nat → Bool) : State :=
  { s with copies := s.copies.filter fun c =>
      !(decide (c.holder = .l1 core) && c.bytes.isSome && p c.line) }

/-- Every gang of a crew that stands at barrier `id` arrives. -/
def arriveCrew (id : Nat) : List (GangRef × Gang) → State → CrewBar → State × CrewBar
  | [], s, b => (s, b)
  | (g, x) :: r, s, b =>
    let (b1, x1) := arriveCbar g id b x
    arriveCrew id r (s.setGang g x1) b1

/-- The gangs of a crew that wait at barrier `id` for a completed generation pass. -/
def releaseCbar (id gen : Nat) : List (GangRef × Gang) → State → State
  | [], s => s
  | (g, x) :: r, s =>
    let x1 := match x.letPass x.cbars id gen (cbarStop id) with
      | some (y, a) => { y with cbars := Cells.insert x.cbars id a }
      | none => x
    releaseCbar id gen r (s.setGang g (x1.wake (fun w => decide (w = WaitReason.cbar))))

/-- Crew barrier `id` settles: gangs arrive; a generation at which every live gang of the crew has arrived and whose
PBC is zero in every member's core completes; the gangs that wait for a completed generation pass once the older accesses
of the arrivals are performed, as by `fence.crew` (R219). -/
def State.settleCbar (s : State) (crew id : Nat) : Nat → State
  | 0 => s
  | fuel + 1 =>
    match s.crew? crew with
    | none => s
    | some c =>
      let (s1, b) := arriveCrew id (s.crewGangs c) s (c.bar id)
      let gs := s1.crewGangs c
      let full := decide (gs ≠ []) && gs.all (fun p => p.2.cbarArrived id b.gen) && b.pbc.all (fun n => decide (n = 0))
      let b1 : CrewBar := if full then { b with gen := b.gen + 1 } else b
      let done := s1.performed b1.older
      let b2 : CrewBar := if done then { b1 with older := [] } else b1
      let frees := gs.any (fun p => (p.2.letPass p.2.cbars id b2.gen (cbarStop id)).isSome)
      let s2 := if done && frees then c.cores.foldl (fun s' core => s'.dropL1S core (fun _ => true)) s1 else s1
      let s3 := if done then releaseCbar id b2.gen gs s2 else s2
      let s4 := s3.updCrew crew fun c => { c with bars := c.bars.set id b2 }
      if full then State.settleCbar s4 crew id fuel else s4

/-- The barriers of a team and of its crew settle after a gang or slice has ended (R155 item 4,
R219). -/
def State.settleBars (s : State) (core t : Nat) : State :=
  let s1 := (List.range 16).foldl (fun s' id => s'.settleBar core t id 20) s
  match s1.team? core t with
  | some tm => (List.range 16).foldl (fun s' id => s'.settleCbar tm.crew id 4) s1
  | none => s1

/-- A gang none of whose slices is live leaves its core; a team without a gang exits when its last
command has retired (R91, R169). -/
def State.removeGang (s : State) (g : GangRef) (t : Nat) : State :=
  let s1 := s.setCore g.core ((s.core g.core).removeGang g)
  let s2 := s1.drop (appendEvent g)
  let s3 := s2.settleBars g.core t
  if (s3.core g.core).teamEnded t then s3.post (.teamExit g.core t) else s3

/-- The causes whose fatal end starts no rollback: ABORT, KILLED, MX_IMAGE, SESSION_RESET (R278). -/
def noRollback (cause : BitVec 8) : Bool :=
  decide (cause = 0x0A) || decide (cause = 0x0B) || decide (cause = 0x43) || decide (cause = 0xC0)

/-- A fatal end (R98, R335): every live slice of the gang ends, the end is reported with the TCAUSE, TPC and TADDR it
leaves, and the session rolls back unless the cause is one of R278's exceptions. -/
def State.fatal (s : State) (g : GangRef) (cause : BitVec 8) (tcause : Word) (tpc : PC) (taddr : VAddr) : State :=
  match s.gang? g with
  | none => s
  | some x =>
    let n := (s.core g.core).sessionOf x
    let s1 := s.setCore g.core ((s.core g.core).endSlices g x.liveSet)
    let s2 := { s1 with ends := s1.ends ++ [EndReport.mk g.core n tcause tpc taddr] }
    let s3 := s2.removeGang g x.team
    if noRollback cause then s3 else s3.postOnce (.rollback n)

/-- A fatal end by a cause that is no trap of an instruction: HANG, FAULT_CANCELLED, MX_RESET,
MX_IMAGE, DRAIN_DEADLINE, SESSION_RESET. TCAUSE keeps the record of a trap that is being handled. -/
def State.fatalBy (s : State) (g : GangRef) (cause : BitVec 8) (info : BitVec 16) (addr : VAddr := 0) : State :=
  match s.gang? g with
  | none => s
  | some x =>
    if x.trap.tcause.getLsbD 15 then s.fatal g cause x.trap.tcause x.trap.tpc x.trap.taddr
    else s.fatal g cause (tcauseWord cause info (x.lead x.liveSet) false false) 0 addr

/-- The causes of the gang's memory accesses that are fatal (R335, R360, R392): they enter no
handler. -/
def fatalOnly (cause : BitVec 8) : Bool :=
  decide (cause = 0x91) || decide (cause = 0x92) || decide (cause = 0x94) || decide (cause = 0x95) ||
  decide (cause = 0x96) || decide (cause = 0xC8) || decide (cause = 0xF0) || decide (cause = 0xF1)

/-- A raised cause that enters no handler (R97): a trap is being handled, the team has no handler, or its kind
is fatal. -/
def State.raisedFatal (s : State) (g : GangRef) (x : Gang) (r : Raised) : Bool :=
  x.trap.tcause.getLsbD 15 || decide (((s.core g.core).recordOf x).handler = 0) || fatalOnly r.cause

/-- The trap a gang has raised is taken (R97): fatal while a trap is being handled (DOUBLE_TRAP keeps the
first cause and holds the second in INFO), without a handler, or by its kind; otherwise every live slice
enters the handler, whose first sequence issues in no step window that is open (R233). A sequence that completes does so first (R99). -/
def State.enterTrap (s : State) (g : GangRef) : State :=
  match s.gang? g with
  | none => s
  | some x =>
    match x.raised with
    | none => s
    | some r =>
      let tc := x.trap.tcause
      let handler := ((s.core g.core).recordOf x).handler
      if tc.getLsbD 15 then s.fatal g 0x09 (setField tc 16 16 r.cause.toNat) x.trap.tpc x.trap.taddr
      else if handler = 0 ∨ fatalOnly r.cause then
        s.fatal g r.cause (tcauseWord r.cause r.info (x.lead r.slices) r.bu false) r.addr r.taddr
      else
        let x1 :=
          match r.next with
          | some n => x.mapSlices r.slices (fun _ sl => { sl.completed r.addr n with stop := .running })
          | none => x
        let s1 := (s.setGang g (x1.entered r handler)).drop (appendEvent g)
        match s1.crewOf g.core x with
        | some c => s1.updCrew c.id fun k =>
            { k with window := k.window.map (fun w => if w.gang = g then { w with trapped := true } else w) }
        | none => s1

/-- A cause raised in a gang (R97). The trap is taken once the sequences that other groups issued have completed
or parked (R39), at once if there are none; until then no group issues, but for those that issue in the same
cycle. Of two groups that raise in one cycle the one with the lower-numbered slice raises, and the sequence of the
other counts as not issued (R98). Log 7 (DEDUCED). -/
def State.raise (s : State) (g : GangRef) (r : Raised) : State :=
  match s.gang? g with
  | none => s
  | some x =>
    match x.raised with
    | some o =>
      let low := decide (x.lead r.slices < x.lead o.slices)
      let lost := if low then o else r
      (s.setGang g { x with raised := some (if low then r else o) }).unissueAt g
        (x.groupOf (x.lead lost.slices))
    | none =>
      let s1 := s.setGang g { x with raised := some r }
      if (x.isWhole ∨ r.cycle = none) ∧ (s.raisedFatal g x r ∨ s.settled g x (~~~r.slices)) then
        s1.enterTrap g
      else s1.post (.trapEntry g)

/-- A cause raised by the present sequence, which has no other effect. -/
def State.trapNow (s : State) (cause : BitVec 8) (info : BitVec 16) (lanes : LaneSet)
    (addr : VAddr) : State :=
  s.raise s.cur.gang
    { cause := cause, info := info, slices := s.cur.slices, addr := s.cur.addr, taddr := addr,
      tlanes := lanes, bu := false, next := none, cycle := some (s.die (dieOf s.cur.gang.core)).cyc }

/-- ABORT and KILLED: fatal ends that write CAUSE and INFO whatever ACT holds (R98, R101). Log 85 (DEDUCED). -/
def State.endNow (s : State) (cause : BitVec 8) (info : BitVec 16) : State :=
  match s.me? with
  | none => s
  | some x =>
    s.fatal s.cur.gang cause (setField (setField x.trap.tcause 16 16 info.toNat) 0 8 cause.toNat)
      s.cur.addr x.trap.taddr

/-- Every live slice of a gang stands at a `regang`: they rejoin in entry 0, or the gang traps
REGANG_MISMATCH at the `regang` of its lowest slice (R25). -/
def State.settleRegang (s : State) (g : GangRef) : State :=
  match s.gang? g with
  | none => s
  | some x =>
    let ls := slicesOf x.liveSet
    if ls ≠ [] ∧ ls.all (fun n => decide ((x.slice n).stop = .regang)) then
      let lead := x.slice (x.lead x.liveSet)
      if ls.all (fun n => decide ((x.slice n).pc = lead.pc) && decide ((x.slice n).mode = lead.mode)) then
        s.setGang g (x.whole.moved 0 x.liveSet
          (fun _ sl => { sl.completed sl.pc (sl.pc + 1) with stop := .running }))
      else
        s.raise g
          { cause := 0x16, info := 0, slices := x.groupSlices (x.groupOf (x.lead x.liveSet)),
            addr := lead.pc, taddr := 0, tlanes := 0, bu := false, next := none, cycle := none }
    else s

/-- Slices of a gang end by `exit` (R91): the gang ends with its last one, and a rejoin or a barrier
that waited for them settles (R25, R155). -/
def State.exitSlices (s : State) (g : GangRef) (dead : SliceSet) : State :=
  match s.gang? g with
  | none => s
  | some x =>
    let s1 := s.setCore g.core ((s.core g.core).endSlices g dead)
    if x.liveSet &&& ~~~dead = 0 then s1.removeGang g x.team
    else (s1.settleRegang g).settleBars g.core x.team

end Sys2Proof.Machine
end

