-- ==== Sys2Proof/Machine/Flags.lean ====
section
/-! DEFINITION. The status words of the machine and their fields: MODE (R16), GSTAT (R26), LMASK,
PLACE and TCAUSE (R95), the reconvergence and loop stacks as TSLICE shows them (R18, R96), ACNT
(R180), ACCSTAT and ACCOWN (R183, R184). -/

namespace Sys2Proof.Machine

/-- MODE.TYPE. -/
def modeType (m : ModeWord) : Nat := fieldNat m 7 4
/-- MODE.RND. -/
def modeRnd (m : ModeWord) : Nat := fieldNat m 4 3
/-- MODE.SAT. -/
def modeSat (m : ModeWord) : Bool := m.getLsbD 3
/-- MODE.GEN. -/
def modeGen (m : ModeWord) : Bool := m.getLsbD 15
/-- MODE.GPRED. -/
def modeGpred (m : ModeWord) : Nat := fieldNat m 11 3

/-- MODE with its guard fields replaced (R92). -/
def modeGuard (m : ModeWord) (gen neg : Bool) (p : BitVec 3) : ModeWord :=
  BitVec.ofBool gen ++ BitVec.ofBool neg ++ p ++ m.extractLsb' 0 11

/-- The split-table entries in use as GSTAT.NGRP counts them (R26): none while one entry holds every
live slice. Log 28 (DEDUCED). -/
def Gang.ngrp (x : Gang) : Nat :=
  let n := ((List.range 4).filter (fun e => decide (x.groupSlices e ≠ 0))).length
  if n ≤ 1 ∧ x.single &&& x.liveSet = 0 then 0 else n

/-- GSTAT (R26). -/
def Gang.gstat (x : Gang) : Word :=
  (0#8 : BitVec 8) ++ x.liveSet ++ (x.single &&& x.liveSet) ++ BitVec.ofNat 3 x.ngrp ++
    BitVec.ofBool ((slicesOf x.liveSet).any (fun n => decide ((x.slice n).stop = .regang))) ++
    (0#1 : BitVec 1) ++ BitVec.ofBool x.lost ++ (0#1 : BitVec 1) ++ BitVec.ofBool x.rx

/-- LMASK (R95). -/
def Slice.lmask (sl : Slice) : Word :=
  (0#20 : BitVec 20) ++ BitVec.ofNat 3 sl.lstack.length ++ BitVec.ofNat 5 sl.rstack.length ++ sl.mask

/-- PLACE of a core in module `mid` (R95). -/
def placeWord (mid core : Nat) : Word :=
  (0#18 : BitVec 18) ++ BitVec.ofNat 4 mid ++ BitVec.ofNat 2 (dieOf core) ++
    BitVec.ofNat 4 (clusterOf core) ++ (0#1 : BitVec 1) ++ BitVec.ofNat 3 (coreOf core)

/-- A reconvergence stack entry (R18). -/
def RsEntry.word (e : RsEntry) : Word :=
  (0#6 : BitVec 6) ++ BitVec.ofBool e.phase ++ e.outer ++ e.alt ++ (0#1 : BitVec 1) ++ e.smode

/-- Word w of a loop stack entry: STARTLO, STARTHI, ENDLO, ENDHI, COUNT (R96). -/
def LoopEntry.word (e : LoopEntry) (w : Nat) : Word :=
  match w with
  | 0 => e.start.setWidth 32
  | 1 => (e.start >>> 32).setWidth 32
  | 2 => e.stop.setWidth 32
  | 3 => (e.stop >>> 32).setWidth 32
  | _ => e.count

/-- Item i of a saved slice (R96). The stacks are numbered from the bottom. -/
def SavedSlice.item (v : SavedSlice) (i : Nat) : Word :=
  if i = 0 then v.pc.setWidth 32
  else if i = 1 then (v.pc >>> 32).setWidth 32
  else if i = 2 then
    (0#19 : BitVec 19) ++ BitVec.ofBool v.live ++ BitVec.ofNat 3 v.lstack.length ++
      BitVec.ofNat 5 v.rstack.length ++ v.mask
  else if i = 3 then v.mode.setWidth 32
  else if i < 20 then
    match v.rstack.reverse[i - 4]? with
    | some e => e.word
    | none => 0
  else
    match v.lstack.reverse[(i - 20) / 5]? with
    | some e => e.word ((i - 20) % 5)
    | none => 0

/-- A saved slice with one of its writable items replaced (R96). -/
def SavedSlice.setItem (v : SavedSlice) (i : Nat) (w : Word) : SavedSlice :=
  match i with
  | 0 => { v with pc := v.pc.extractLsb' 32 23 ++ w }
  | 1 => { v with pc := w.extractLsb' 0 23 ++ v.pc.extractLsb' 0 32 }
  | 2 => { v with mask := w.setWidth 4 }
  | 3 => { v with mode := w.setWidth 16 }
  | _ => v

/-- ACNT (R180). -/
def Gang.acnt (x : Gang) : Word :=
  (0#2 : BitVec 2) ++ BitVec.ofNat 6 (x.counters.getD 4 0) ++ BitVec.ofNat 6 (x.counters.getD 3 0) ++
    BitVec.ofNat 6 (x.counters.getD 2 0) ++ BitVec.ofNat 6 (x.counters.getD 1 0) ++
    BitVec.ofNat 6 (x.counters.getD 0 0)

/-- ACCSTAT (R183). -/
def Acc.stat (a : Acc) : Word :=
  (0#20 : BitVec 20) ++ BitVec.ofNat 4 a.ext ++ (0#2 : BitVec 2) ++ BitVec.ofBool a.q36 ++
    BitVec.ofBool a.lost ++ (0#2 : BitVec 2) ++ BitVec.ofBool a.nan ++ BitVec.ofBool a.ovf

/-- ACCOWN (R184). -/
def Acc.own (a : Acc) : Word :=
  (0#16 : BitVec 16) ++ BitVec.ofBool a.valid ++ (0#3 : BitVec 3) ++ BitVec.ofNat 12 a.session

/-- CSTAT (R226). -/
def cstatWord (livemask drain : Nat) (stopped attached : Bool) (cmcore members : Nat) : Word :=
  (0#8 : BitVec 8) ++ BitVec.ofNat 8 livemask ++ BitVec.ofNat 2 drain ++ BitVec.ofBool stopped ++
    BitVec.ofBool attached ++ BitVec.ofNat 8 cmcore ++ BitVec.ofNat 4 members

/-- A result word of the `xlt`, `ckp` and `modg` forms: STATUS and value (R280, R313, R348). -/
def statusWord (status value : Nat) : Word := BitVec.ofNat 8 status ++ BitVec.ofNat 24 value

end Sys2Proof.Machine
end

