-- ==== Sys2Proof/Machine/Mem.lean ====
section
/-! DEFINITION. Module memory at its homes: session contexts (R336), the undo log (R276), lines with
their versions, leases and copies (R239 to R248), the performing of a read and of a write (R241,
R255), watch strikes (R143) and the banked store as memory (R33, R163). -/

namespace Sys2Proof.Machine

/-- The number held in `n` bytes of module memory from `pa` (R61). -/
def State.rd (s : State) (pa n : Nat) : Nat := natOfBytes (Cells.bytes s.mem pa n)

/-- The line of module memory that holds a byte. -/
def lineOf (pa : Nat) : Nat := pa / 128

/-- The version of a line at its home (R239). -/
def State.version (s : State) (l : Nat) : Word := Cells.get 0 s.lineVer l

/-- A store of the gang itself to a line advances the VER of its entry on it (R143). -/
def Gang.ownStore (x : Gang) (l : Nat) : Gang :=
  { x with watch := x.watch.map fun e =>
      if e.line = l ∧ !e.struck then { e with ver := e.ver + 1 } else e }

/-- The dirty copy of a line written back: a write at its home, with whose version those of the coherent copies and of
the core's own watch entries on the line advance (R143, R239, R242). Log 127 (DEDUCED). -/
def State.writeBackOne (s : State) (c : Copy) : State :=
  let l := c.line
  let v := s.version l + 1
  let s1 : State :=
    { s with
      lineVer := Cells.put 0 s.lineVer l v
      predictor := Cells.put 0 s.predictor l 0
      copies := s.copies.map fun k =>
        if k.line ≠ l then k
        else
          let k1 := if k.bytes.isNone then { k with ver := v } else k
          if k.holder = c.holder then { k1 with dirty := false, privateHome := none } else k1 }
  match c.holder with
  | .l1 core =>
    let q := s1.core core
    s1.setCore core { q with gangs := q.gangs.map fun e =>
      (e.1, c.vlines.foldl (fun x w => if w.1 = q.sessionOf x then x.ownStore w.2 else x) e.2) }
  | _ => s1

/-- The dirty copies that satisfy `p` written back. -/
def State.writeBack (s : State) (p : Copy → Bool) : State :=
  (s.copies.filter (fun c => c.dirty && p c)).foldl State.writeBackOne s

/-- A coherent copy other than the home's own. -/
def Copy.outer (c : Copy) : Bool :=
  c.bytes.isNone && (match c.holder with
    | .stacked _ => false
    | _ => true)

/-- The device itself writes a line at its home (R239, R244): its D copies are recalled first (R247), its version
advances, and its lease predictor is at the minimum. -/
def State.touch (s : State) (l : Nat) : State :=
  let s1 := s.writeBack (fun c => decide (c.line = l))
  let v := s1.version l + 1
  { s1 with
    lineVer := Cells.put 0 s1.lineVer l v
    predictor := Cells.put 0 s1.predictor l 0
    copies := (s1.copies.filter (fun c => decide (c.line ≠ l) || !c.outer)).map fun c =>
      if c.line = l ∧ c.bytes.isNone then { c with ver := v } else c }

/-- `n` bytes of module memory, which lie in one line, replaced by a number, by the device itself. -/
def State.wr (s : State) (pa n v : Nat) : State :=
  { s.touch (lineOf pa) with mem := Cells.write s.mem pa (bytesOf v n) }

/-- A core lies in a frozen cluster or die (R331). -/
def State.coreFrozen (s : State) (core : Nat) : Bool :=
  let d := s.die (dieOf core)
  d.frozen || decide (clusterOf core ∈ d.frozenClusters)

/-- The context of a session (R336). -/
def State.ctxAt (s : State) (n : Nat) : Nat := s.mstab + 512 * n

def State.ctx (s : State) (n off bytes : Nat) : Nat := s.rd (s.ctxAt n + off) bytes

def State.setCtx (s : State) (n off bytes v : Nat) : State := s.wr (s.ctxAt n + off) bytes v

/-- Word 0x00 of a session context and its fields (R336). -/
def State.ctx0 (s : State) (n : Nat) : Word := BitVec.ofNat 32 (s.ctx n 0 4)
def State.sesState (s : State) (n : Nat) : Nat := fieldNat (s.ctx0 n) 0 3
def State.sesHome (s : State) (n : Nat) : Nat := fieldNat (s.ctx0 n) 4 2
def State.sesMoving (s : State) (n : Nat) : Bool := (s.ctx0 n).getLsbD 6
def State.sesKeySlot (s : State) (n : Nat) : Nat := fieldNat (s.ctx0 n) 8 10
def State.sesOldSlot (s : State) (n : Nat) : Nat := fieldNat (s.ctx0 n) 18 10
def State.sesKeyV (s : State) (n : Nat) : Bool := (s.ctx0 n).getLsbD 28
def State.sesGroup (s : State) (n : Nat) : Nat := s.ctx n 4 2
def State.sesPart (s : State) (n : Nat) : Nat := s.ctx n 6 2 % 32
def State.sesRoot (s : State) (n : Nat) : Nat := s.ctx n 8 8 % 2 ^ 52 / 4096 * 4096

/-- A field of word 0x00 of a session context set. -/
def State.setCtx0 (s : State) (n lo w v : Nat) : State :=
  s.setCtx n 0 4 (setField (s.ctx0 n) lo w v).toNat

/-- A session's STATE set by the device (R336). -/
def State.setSesState (s : State) (n v : Nat) : State := s.setCtx0 n 0 3 v

/-- The partition of a session is ACTIVE and holds the session's number (R367). -/
def State.partActive (s : State) (p : Nat) : Bool := (Cells.get 0 s.parts (64 * p)).getLsbD 4

def State.partHolds (s : State) (p n : Nat) : Bool :=
  let w := Cells.get 0 s.parts (64 * p + 1)
  decide (fieldNat w 0 12 ≤ n) && decide (n < fieldNat w 0 12 + fieldNat w 16 13)

/-- A session that something may launch: its partition is active and holds it (R367). Log 81 (DEDUCED). -/
def State.sesLaunchable (s : State) (n : Nat) : Bool :=
  s.partActive (s.sesPart n) && s.partHolds (s.sesPart n) n

/-- Bytes of the undo log in use (R276). Log 66 (DEDUCED). -/
def SessDev.logUsed (d : SessDev) : Nat :=
  144 * (d.undo.length + d.undoVa.length + d.rows.length) + (d.accUndo.map (fun e => 4608 * e.2.2.ext)).sum

/-- Entries of 144 bytes that the undo log of a session still has room for (R276, R336). -/
def State.logRoom (s : State) (n : Nat) : Nat :=
  (min (s.ctx n 0x28 4) (64 * 1024 * 1024) - (s.ses n).logUsed) / 144

/-- The first write of the epoch to a line logs its old content (R276). Log 53 (DEDUCED). -/
def State.logLine (s : State) (n l : Nat) : State :=
  let d := s.ses n
  if d.undo.any (fun e => decide (e.1 = l)) then s
  else s.setSes n { d with undo := (l, Cells.bytes s.mem (l * 128) 128) :: d.undo }

/-- Row keys of the undo log: rows of banked stores, and of chip scratchpads. -/
def storeRow (core off : Nat) : Nat := core * 8192 + off / 128
def cspadRow (die off : Nat) : Nat := 4194304 + die * 262144 + off / 128

/-- Members of a list that are not in another, each once. -/
def newOnes (old : List Nat) : List Nat → List Nat
  | [] => []
  | a :: r => if a ∈ old then newOnes old r else a :: newOnes (a :: old) r

/-- The first write of the epoch to each row logs its old content (R276). -/
def State.logRows (s : State) (n : Nat) (ks : List Nat) : State :=
  let d := s.ses n
  match newOnes d.rows ks with
  | [] => s
  | new => s.setSes n { d with rows := d.rows ++ new }

/-- The CP is to attempt a cut, because the log of a session has no room (R276). -/
def State.wantCut (s : State) (n : Nat) : State := s.postOnce (.cutAttempt n)

/-- The log has no room: the sequence counts as not issued, and the CP attempts a cut (R276). -/
def State.logFull (s : State) (n : Nat) : State := (s.hold .cklfull).wantCut n

/-- The die that is the home of a byte of module memory (R237). -/
def homeDie (pa : Nat) : Nat := pa / Config.dieBytes

/-- A physical address of module memory, and one that an Atoll slice takes (R237, R361). -/
def inModule (pa : Nat) : Bool := decide (pa < 4 * Config.dieBytes)
def inAtoll (pa : Nat) : Bool := inModule pa && decide (Config.atollBase ≤ pa % Config.dieBytes)

/-- The step at hand is the first of a block queue that is being performed (R323). -/
def Blocked.turn (b : Blocked) (ev : Event) : Bool := b.moved.isSome && decide (b.queue.head? = some ev)

/-- Where an access to a frame is performed: at the frame itself, at the frame it has moved to once the accesses of
its block queue have been performed there or the one at hand is their first, or nowhere yet (R323). A frame may move
more than once. -/
def State.forwardFrom (s : State) : Nat → Nat → Option Nat
  | 0, pa => some pa
  | k + 1, pa =>
    match s.blocked.find? (fun b => decide (b.frame = pa / 4096)) with
    | none => some pa
    | some b =>
      if b.queue = [] ∨ b.turn s.ev then b.moved.bind (fun f => State.forwardFrom s k (f * 4096 + pa % 4096)) else none

def State.forward (s : State) (pa : Nat) : Option Nat := s.forwardFrom s.blocked.length pa

/-- Where the device finds an address now: a blocked frame keeps its bytes. -/
def State.now (s : State) (pa : Nat) : Nat := (s.forward pa).getD pa

/-- The blocked frame at which an access to an address waits. -/
def State.blockFrom (s : State) : Nat → Nat → Option Nat
  | 0, _ => none
  | k + 1, pa =>
    match s.blocked.find? (fun b => decide (b.frame = pa / 4096)) with
    | none => none
    | some b =>
      if b.queue = [] ∨ b.turn s.ev then
        match b.moved with
        | none => some b.frame
        | some f => State.blockFrom s k (f * 4096 + pa % 4096)
      else some b.frame

def State.blockOf (s : State) (pa : Nat) : Option Nat := s.blockFrom s.blocked.length pa

/-- A frame to which another has moved whose queued accesses are not all performed: direct accesses wait (R323). -/
def State.draining (s : State) (pa : Nat) : Bool :=
  s.blocked.any (fun b => decide (b.queue ≠ []) && decide (b.moved = some (pa / 4096)) && !b.turn s.ev)

/-- The step at hand takes its place in the block queue of a frame (R323, R324). -/
def State.joinQueue (s : State) (fr : Nat) : State :=
  if s.ev = default then s
  else
    { s with blocked := s.blocked.map fun b =>
        if b.frame = fr ∧ s.ev ∉ b.queue then { b with queue := b.queue ++ [s.ev] } else b }

/-- The key tag of a line's frame: 0 for PLAIN, else the key slot of the frame's die plus 1 (R339). Log 118 (DEDUCED). -/
def State.tagOf (s : State) (pa : Nat) : Nat := Cells.get 0 s.frameTag (pa / 4096)

/-- A copy of a line held by `h` under the tag of the line's frame, while it may still serve a load (R243, R341). -/
def State.copy? (s : State) (h : Holder) (l : Nat) : Option Copy :=
  s.copies.find? (fun c => decide (c.holder = h) && decide (c.line = l) && decide (c.tag = s.tagOf (l * 128)))

/-- The lease of a copy has not ended in the cycles of the die that holds it; a D copy has none. -/
def State.fresh? (s : State) (die : Nat) (c : Copy) : Bool :=
  c.bytes.isNone || decide ((s.die die).cyc < c.lease)

def State.dropCopies (s : State) (p : Copy → Bool) : State :=
  { s with copies := s.copies.filter (fun c => !p c) }

/-- The lease length that the predictor of a line grants (R244). -/
def State.leaseLen (s : State) (l : Nat) : Nat := 256 * 2 ^ (Cells.get 0 s.predictor l)

/-- What was written to some lines shows in a core from now on: S copies of them in its L1, in its die's L2 and in the
L1s under that are discarded (R227, R236, R257). -/
def State.show (s : State) (core : Nat) (p : Nat → Bool) : State :=
  s.dropCopies fun c => c.bytes.isSome && p c.line && (match c.holder with
    | .l1 k => decide (dieOf k = dieOf core)
    | .l2 d => decide (d = dieOf core)
    | .stacked _ => false)

/-- A copy of a line made or made new (R242, R244), through some mappings. -/
def State.fill (s : State) (h : Holder) (l : Nat) (vls : List (Nat × Nat)) (ver : Word) (bytes : Option (List Byte))
    (lease : Nat) : State :=
  let old := s.copy? h l
  let was := (old.map (·.vlines)).getD []
  { s with
    copies := (s.copies.filter (fun c => !(decide (c.holder = h) && decide (c.line = l)))) ++
      [{ holder := h, line := l, vlines := was ++ vls.filter (fun v => !decide (v ∈ was)), tag := s.tagOf (l * 128),
         ver := ver, bytes := bytes, lease := lease,
         dirty := (old.map (·.dirty)).getD false && bytes.isNone,
         privateHome := old.bind (·.privateHome) }] }

/-- The predictor of a line after a renewal that found its version unchanged (R244). -/
def State.growLease (s : State) (l : Nat) : State :=
  { s with predictor := Cells.put 0 s.predictor l (min 8 (Cells.get 0 s.predictor l + 1)) }

/-- A line is filled from its home into the L1 of a core, and for an S line of another die into the
die's L2 (R241, R244, R245); a line of another module is cached on the reading die alone (R384). A fill that finds the version of a copy it replaces unchanged counts
as a renewal. The line of a frame that has moved is filled from its new place (R323). -/
def State.fillHome (s : State) (core coh l : Nat) (vls : List (Nat × Nat)) : State :=
  let d := dieOf core
  let src := lineOf (s.now (l * 128))
  let v := s.version src
  let atHome (t : State) : State :=
    if inModule (l * 128) then t.fill (.stacked (homeDie (l * 128))) l vls v none 0 else t
  if coh = 0 then
    atHome ((s.fill (.l1 core) l vls v none 0).fill (.l2 d) l vls v none 0)
  else if coh = 1 then
    let same := [Holder.l1 core, .l2 d].any fun h =>
      (s.copy? h l).any (fun c => c.bytes.isSome && decide (c.ver = v))
    let bs := some (Cells.bytes s.mem (src * 128) 128)
    let e := (s.die d).cyc + s.leaseLen src - 64
    let s1 := s.fill (.l1 core) l vls v bs e
    let s2 := if homeDie (l * 128) = d then s1 else s1.fill (.l2 d) l vls v bs e
    let s3 := atHome s2
    if same then s3.growLease src else s3
  else s

/-- The bytes of a copy that hold `n` bytes from `pa`. -/
def Copy.part (c : Copy) (pa n : Nat) : List Byte :=
  ((c.bytes.getD []).drop (pa % 128)).take n

/-- A load through an S mapping that a copy serves, if the device lets it (R243): a copy within its lease, filled
through the same mapping (log 63). -/
def State.served? (s : State) (core coh pa n : Nat) (vl : Nat × Nat) : Option (List Byte × State) :=
  let l := lineOf pa
  let may (c : Copy) : Bool := c.bytes.isSome && s.fresh? (dieOf core) c && decide (vl ∈ c.vlines)
  if coh = 1 ∧ Config.servedFromCopy s.tick then
    match (s.copy? (.l1 core) l).filter may, (s.copy? (.l2 (dieOf core)) l).filter may with
    | some c, _ => some (c.part pa n, s)
    | none, some c => some (c.part pa n, s.fill (.l1 core) l c.vlines c.ver c.bytes c.lease)
    | none, none => none
  else none

/-- A load of module memory by a core (R241, R243, R246, R247): from an S copy within its lease if
the device serves it so, otherwise from the home, which fills copies. What a load through another treatment returns no S
copy that the core may read afterwards precedes (R257). -/
def State.load (s : State) (core coh pa n : Nat) (vl : Nat × Nat) : List Byte × State :=
  match s.served? core coh pa n vl with
  | some r => r
  | none =>
    let l := lineOf pa
    let s1 := if coh = 1 then s else s.show core (fun m => decide (m = l))
    (Cells.bytes s.mem pa n, s1.fillHome core coh l [vl])

/-- The bytes of a copy with some replaced. -/
def patch (old : List Byte) (off : Nat) (bs : List Byte) : List Byte :=
  old.take off ++ bs ++ old.drop (off + bs.length)

/-- Every gang of the module with its core and slot, changed by `f`. -/
def State.mapGangs (s : State) (f : Nat → CoreSt → Gang → Gang) : State :=
  { s with cores := s.cores.map fun e =>
      (e.1, { e.2 with gangs := e.2.gangs.map (fun x => (x.1, f e.1 e.2 x.2)) }) }

/-- Reasons that the end of a pending watch entry may end (R144, R145). -/
def wokenByWatch (r : WaitReason) : Bool :=
  match r with
  | .watch | .release => true
  | _ => false

/-- The PENDING watch entries of a session's gangs on lines that satisfy `p` are struck (R143); a strike waits at the
port of a frozen cluster (R331). Log 116 (DEDUCED). -/
def State.strike (s : State) (n : Nat) (p : Nat → Bool) : State :=
  let late := s.cores.flatMap fun c =>
    if s.coreFrozen c.1 then
      c.2.gangs.flatMap fun e =>
        if c.2.sessionOf e.2 = n then
          (e.2.watch.filter (fun w => p w.line && !w.struck)).map (fun w => Event.watchStrike ⟨c.1, e.1, e.2.gid⟩ w.stamp)
        else []
    else []
  (s.mapGangs fun core c x =>
    if !s.coreFrozen core ∧ c.sessionOf x = n ∧ x.watch.any (fun e => p e.line) then
      let x1 : Gang :=
        { x with watch := x.watch.map (fun e => if p e.line then { e with struck := true } else e) }
      x1.wake (fun r => decide (r = WaitReason.watch))
    else x).postAll late

/-- Groups that wait in `acqw` on a word in a range of module memory are told of its change
(R151). -/
def State.reports (s : State) (pa n : Nat) : List Event :=
  s.cores.flatMap fun c => c.2.gangs.flatMap fun x =>
    ((List.range 12).filter fun e =>
      decide ((x.2.group e).wait = .acq) && decide (pa < (x.2.group e).wake + 4) &&
        decide ((x.2.group e).wake < pa + n)).map
      fun e => .versionReport ⟨c.1, x.1, x.2.gid⟩ e

/-- The lane-private area of a team holds an address (R139). -/
def privateVa (r : TeamRec) (va : Nat) : Bool :=
  decide (r.pbase.toNat ≤ va) && decide (va < r.pbase.toNat + r.gangs * 32 * r.psize)

/-- The copies of a line after a write through a mapping of treatment `coh` by `core` (none: an
engine or another party), the line's version having advanced: D copies are invalidated but for the writer's own under
treatment 0, which holds the line dirty; S copies keep their bytes but for those of the writer, whose version
advances with the home (R239, R241 to R243, R247). -/
def State.writeCopies (s : State) (core : Option Nat) (coh pa : Nat) (bs : List Byte)
    (priv : Option Nat) (vl : Nat × Nat) : State :=
  let l := lineOf pa
  let near (h : Holder) : Bool := match core, h with
    | some c, .l1 k => decide (c = k)
    | some c, .l2 d => decide (dieOf c = d)
    | _, _ => false
  let upd (c : Copy) : Copy := match c.bytes with
    | some b => if near c.holder then { c with bytes := some (patch b (pa % 128) bs), ver := c.ver + 1 } else c
    | none => { c with ver := s.version l }
  let s1 : State :=
    { s with
      copies := (s.copies.filter (fun c => decide (c.line ≠ l) || !c.outer || (decide (coh = 0) && near c.holder))).map
        fun c => if c.line = l then upd c else c }
  match core with
  | none => s1
  | some k =>
    if coh = 0 then
      let old := (s.copy? (.l1 k) l).bind (·.privateHome)
      let held := s1.fillHome k 0 l [vl]
      { held with copies := held.copies.map fun c =>
          if c.holder = .l1 k ∧ c.line = l then
            { c with
              dirty := true
              privateHome := match priv with
                | some t => some (old.getD (t, Cells.bytes s.mem (l * 128) 128))
                | none => old }
          else c }
    else s1

/-- The bits of a byte of a session context that are read only (R336): in word 0x00 all but HOME, and ACCIMG, PARENT and
FORKED. -/
def ctxReadOnly (off : Nat) : Byte :=
  if off = 0 then 0xCF
  else if off < 4 ∨ off = 0x38 ∨ off = 0x48 then 0xFF
  else if off = 0x39 then 0x07
  else if off = 0x49 then 0x8F
  else 0

/-- The bits of a byte of module memory that a write leaves as they are (R8, R336). -/
def State.readOnly (s : State) (a : Nat) : Byte :=
  if s.started ∧ s.mstab ≤ a ∧ a < s.mstab + 512 * 4096 then ctxReadOnly ((a - s.mstab) % 512) else 0

/-- What a write of bytes at an address leaves there. -/
def State.written (s : State) (pa : Nat) (bs : List Byte) : List Byte :=
  bs.mapIdx fun i b => (b &&& ~~~s.readOnly (pa + i)) ||| (Cells.get 0 s.mem (pa + i) &&& s.readOnly (pa + i))

/-- A write performed at its home (R239, R241, R244, R255): its bytes, which lie in one line, the line's
version and lease predictor, the copies, the dirty ones among them written back before it, the writer's own watch
entries, and the reports to `acqw`. `who`
is the writing gang with the virtual address of the write, none for the device. -/
def State.writeHome (s : State) (who : Option (GangRef × Nat)) (core : Option Nat) (session coh pa : Nat)
    (new : List Byte) : State :=
  if new = [] then s else
  let bs := s.written pa new
  let l := lineOf pa
  let priv : Option Nat := match who with
    | some (g, va) => match s.gang? g with
      | some x => if privateVa ((s.core g.core).recordOf x) va then some x.team else none
      | none => none
    | none => none
  let keep (h : Holder) : Bool := decide (coh = 0) && core.any (fun c => decide (h = .l1 c))
  let s0 := s.writeBack (fun c => decide (c.line = l) && !keep c.holder)
  let s1 : State :=
    { s0 with lineVer := Cells.put 0 s0.lineVer l (s0.version l + 1), predictor := Cells.put 0 s0.predictor l 0 }
  let s2 := s1.writeCopies core coh pa bs priv (session, (who.map (fun w => w.2 / 128)).getD 0)
  let s3 : State := { s2 with mem := Cells.write s2.mem pa bs }
  let s4 := match who with
    | some (g, va) => s3.updGang g (fun x => x.ownStore (va / 128))
    | none => s3
  s4.postAll (s4.reports pa bs.length)

/-- A write of a session at its home, whose line's old content the undo log holds (R276). Log 48 (DEDUCED). -/
def State.write (s : State) (who : Option (GangRef × Nat)) (core : Option Nat) (session coh pa : Nat)
    (bs : List Byte) : State :=
  if bs = [] then s else (s.logLine session (lineOf pa)).writeHome who core session coh pa bs

/-- `wb` or `inv` of one lane (R140): a dirty copy of the line in the core's L1 is written back; `inv`
then discards the copy. Nothing happens for U lines (R246). -/
def State.maintain (s : State) (core pa coh : Nat) (drop : Bool) : State :=
  if coh = 2 then s
  else
    let own (c : Copy) : Bool := decide (c.holder = .l1 core) && decide (c.line = lineOf pa)
    let s1 := s.writeBack own
    if drop then s1.dropCopies own else s1

/-- The bytes that an engine or unit writes for a gang of a core are the core's own in the S copies of the core and
of its die (R243, R260). -/
def State.patchOwn (s : State) (core pa : Nat) (bs : List Byte) : State :=
  { s with copies := s.copies.map fun c =>
      if c.line = lineOf pa ∧ (c.holder = .l1 core ∨ c.holder = .l2 (dieOf core)) then
        { c with bytes := c.bytes.map (fun b => patch b (pa % 128) bs) }
      else c }

/-- Bytes cut at the ends of lines: the address of each piece and the piece. -/
def linePieces : Nat → Nat → List Byte → List (Nat × List Byte)
  | 0, _, _ => []
  | _, _, [] => []
  | f + 1, pa, b :: bs =>
    let n := 128 - pa % 128
    (pa, (b :: bs).take n) :: linePieces f (pa + n) ((b :: bs).drop n)

/-- A run of bytes written at its home, line by line. -/
def State.writeRun (s : State) (who : Option (GangRef × Nat)) (core : Option Nat) (session coh pa : Nat)
    (bs : List Byte) : State :=
  (linePieces (bs.length + 1) pa bs).foldl
    (fun s' p => s'.write (who.map (fun w => (w.1, w.2 + (p.1 - pa)))) core session coh p.1 p.2) s

/-- `n` bytes of a banked store from byte offset `off` (R33, R163). -/
def storeBytes (c : Cells Word) (off n : Nat) : List Byte :=
  (List.range n).map fun i => (Cells.get 0 c ((off + i) / 4)).extractLsb' ((off + i) % 4 * 8) 8

/-- One byte of a banked store replaced. -/
def storeByte (c : Cells Word) (off : Nat) (b : Byte) : Cells Word :=
  Cells.put 0 c (off / 4) (setField (Cells.get 0 c (off / 4)) (off % 4 * 8) 8 b.toNat)

def storeWrite (c : Cells Word) (off : Nat) : List Byte → Cells Word
  | [] => c
  | b :: bs => storeWrite (storeByte c off b) (off + 1) bs

/-- The state with the banked store of a core changed. -/
def State.updStore (s : State) (core : Nat) (f : Cells Word → Cells Word) : State :=
  s.setCore core { s.core core with store := f (s.core core).store }

def State.updCspad (s : State) (die : Nat) (f : Cells Word → Cells Word) : State :=
  s.setDie die { s.die die with cspad := f (s.die die).cspad }

/-- The copies of a frame's lines written back and discarded (R341, R323). -/
def State.dropFrame (s : State) (fr : Nat) : State :=
  (s.writeBack (fun c => decide (c.line / 32 = fr))).dropCopies (fun c => decide (c.line / 32 = fr))

/-- The key tag of a frame set, the copies under another discarded (R339, R341). -/
def State.retag (s : State) (fr tag : Nat) : State :=
  if s.tagOf (fr * 4096) = tag then s
  else
    let s1 := s.dropFrame fr
    { s1 with frameTag := Cells.put 0 s1.frameTag fr tag }

/-- The base of a session's free-frame stack (R336, R337). -/
def State.stackBase (s : State) (n : Nat) : Nat := s.ctx n 0x10 8 % 2 ^ 52 / 8 * 8

/-- Frames of module memory for the device: the frame at the top of a session's free-frame stack
(R337), with the state after it is taken and tagged with the session's key. Log 51 (DEDUCED). -/
def State.takeFrame (s : State) (n : Nat) : Option (Nat × State) :=
  let fpn := s.ctx n 0x18 4 % 2 ^ 20
  if fpn = 0 then none
  else
    let fr := s.rd (s.stackBase n + 8 * (fpn - 1)) 8 / 4096
    let s1 := s.setCtx n 0x18 4 (s.ctx n 0x18 4 - 1)
    some (fr, if s.sesKeyV n then s1.retag fr (s.sesKeySlot n + 1) else s1)

/-- A frame pushed back onto a session's free-frame stack. -/
def State.giveFrame (s : State) (n fr : Nat) : State :=
  let fpn := s.ctx n 0x18 4 % 2 ^ 20
  (s.wr (s.stackBase n + 8 * fpn) 8 (fr * 4096)).setCtx n 0x18 4 (s.ctx n 0x18 4 + 1)

/-- A frame taken from the content pool of a die (R342, R363). -/
def State.takePool (s : State) (die : Nat) : Option (Nat × State) :=
  let p := s.cpool.getD die (0, 0)
  if p.2 = 0 then none
  else some (s.rd (p.1 + 8 * (p.2 - 1)) 8 / 4096,
    { s with cpool := s.cpool.set die (p.1, p.2 - 1) })

def State.givePool (s : State) (die fr : Nat) : State :=
  let p := s.cpool.getD die (0, 0)
  { s.wr (p.1 + 8 * p.2) 8 (fr * 4096) with cpool := s.cpool.set die (p.1, p.2 + 1) }

/-- 4,096 bytes copied from frame to frame by the device: bytes and, for `xlt.fmove`, versions. -/
def State.copyFrame (s : State) (src dst : Nat) (versions : Bool) : State :=
  { s with
    mem := Cells.write s.mem (dst * 4096) (Cells.bytes s.mem (src * 4096) 4096)
    lineVer := if versions then
        (List.range 32).foldl
          (fun v i => Cells.put 0 v (dst * 32 + i) (Cells.get 0 s.lineVer (src * 32 + i))) s.lineVer
      else s.lineVer }

/-- The translations of a session's page dropped from every TLB of the module (R344). -/
def State.dropPage (s : State) (n page : Nat) : State :=
  { s with tlb := s.tlb.filter fun e =>
      !(decide (e.session = n) && decide (e.level = 0) &&
        (decide (e.index = page) || (e.entry.getLsbD 7 && decide (e.index / 16 = page / 16)))) }

/-- The Atoll entry that holds a frame, on the frame's die (R342). -/
def State.atollOf (s : State) (fr : Nat) : Option AtollEntry :=
  (s.die (homeDie (fr * 4096))).atoll.find? (fun e => decide (e.frame = fr))

/-- A mapping of a shared frame ends: its reverse-map record goes, REF falls, and an entry whose REF
reaches 0 is removed and its frame returns to the content pool (R346). -/
def State.unmapShared (s : State) (fr session page : Nat) : State :=
  let d := homeDie (fr * 4096)
  let ds := s.die d
  match ds.atoll.find? (fun e => decide (e.frame = fr)) with
  | none => s
  | some e =>
    let rm := ds.rmap.filter (fun m => !(decide (m.session = session) && decide (m.page = page) && decide (m.frame = fr)))
    if e.ref ≤ 1 then
      (s.setDie d { ds with rmap := rm, atoll := ds.atoll.filter (fun a => decide (a.frame ≠ fr)) }).givePool d fr
    else
      s.setDie d
        { ds with
          rmap := rm
          atoll := ds.atoll.map (fun a => if a.frame = fr then { a with ref := a.ref - 1 } else a) }

end Sys2Proof.Machine
end

