-- ==== Sys2Proof/WellFormed.lean ====
section
/-! DEFINITION. The field ranges of the instruction words (R64): what the description of each
instruction allows its fields to hold, whatever MODE, prefixes and privilege are in force. A word
that breaks one traps ILLEGAL_FIELD at step 4 of R72. The steps of the device are no words, so none
of them is well formed. -/

namespace Sys2Proof

/-- A register field names a uniform register (R28). -/
def isUniform (r : Reg) : Bool := decide (0xC0 ≤ r.toNat)

/-- A register field names a vector register (R28). -/
def isVector (r : Reg) : Bool := decide (r.toNat < 0xC0)

/-- A register field names a uniform register no higher than kn. -/
def uniformUpTo (n : Nat) (r : Reg) : Bool := isUniform r && decide (r.toNat ≤ 0xC0 + n)

/-- A rounding code that MODE.RND may hold (R16, R17). -/
def roundingOk (r : Nat) : Bool := decide (r ≤ 4)

/-- A special-register number that R94, R96 and R170 assign. -/
def srAssigned (n : Nat) : Bool :=
  decide (n ≤ 0x009) || (decide (0x010 ≤ n) && decide (n ≤ 0x016)) ||
  (decide (0x018 ≤ n) && decide (n ≤ 0x01B)) ||
  (decide (0x100 ≤ n) && decide (n < 0x300) && decide (n % 64 < 40)) ||
  (decide (0x300 ≤ n) && decide (n ≤ 0x340))

/-- A special register that `mts` may name: MODE, GSTAT, TCAUSE, TSAVE, the items of TSLICE,
TCTL, TBASE, ACCSTAT and the ring registers (R94, R96, R170); writes to the read-only items of TSLICE are ignored (R8). -/
def srWritable (n : Nat) : Bool :=
  decide (n = 0x000) || decide (n = 0x001) || decide (n = 0x010) ||
  (decide (0x018 ≤ n) && decide (n ≤ 0x01B)) ||
  (decide (0x100 ≤ n) && decide (n < 0x300) && decide (n % 64 < 40)) ||
  (decide (0x300 ≤ n) && decide (n ≤ 0x323)) || (decide (0x328 ≤ n) && decide (n ≤ 0x33F))

/-- The one lane-level special register, LANEID (R94). -/
def srLaneLevel (n : Nat) : Bool := decide (n = 0x003)

/-- A word that a `copyf` may name as its follow-on: the op bytes of tmma, ttr, tred, azero and
amovt (R202). -/
def followOnOp (op : Nat) : Bool :=
  decide (op = 0xD2) || decide (op = 0xD3) || decide (op = 0xD5) || decide (op = 0xD6) ||
  decide (op = 0xD8)

/-- The instruction's fields lie in the ranges its description allows. `pmov.set` takes no uniform register, which R122
writes `va`: log 122 (DESIGN CHOICE). -/
def Instr.wellFormed (i : Instr) : Bool :=
  match i with
  | .nop | .bra _ | .bany .. | .ball .. | .call _ | .ret _ | .brr _ | .brrL _ | .ifP .. | .elseP _
  | .endif | .lbrk | .regang | .exit | .yield | .mtype _ | .mguard .. | .trap _ | .rti | .sysKill
  | .sysAbort _ | .brk _ | .pause _ => true
  | .loop _ n => decide (n ≠ 0)
  | .loopr _ n => decide (n ≠ 0)
  | .mode m => roundingOk (m.toNat / 16 % 8)
  | .mrnd r => roundingOk r.toNat
  | .mfs d sr => srAssigned sr.toNat && (!srLaneLevel sr.toNat || isVector d)
  | .mts _ sr => srWritable sr.toNat
  | .add .. | .sub .. | .mul .. | .mulhi .. | .mad .. | .div .. | .rem .. | .neg .. | .abs ..
  | .min .. | .max .. | .and .. | .or .. | .xor .. | .not .. | .andn .. | .shl .. | .shr .. | .sar ..
  | .rol .. | .ror .. | .popc .. | .clz .. | .ctz .. | .brev .. | .bfx .. | .bfi .. | .mov ..
  | .movi .. | .movhi .. | .addi .. => true
  | .fadd .. | .fsub .. | .fmul .. | .fma .. | .fms .. | .fnma .. | .fmin .. | .fmax .. | .fabs ..
  | .fneg .. | .fcps .. | .fdiv .. | .rcp .. | .rsq .. | .sqrt .. | .exp2 .. | .log2 .. | .sinpi ..
  | .cospi .. | .tanh .. | .frnd .. | .fract .. | .ldexp .. | .fclass .. | .fdot .. => true
  | .cvt _ _ _ t | .cvtfi _ _ _ t | .cvtif _ _ _ t | .cvtii _ _ _ t => decide (t.toNat ≤ 10)
  | .pack .. | .unpk .. => true
  | .cmp _ cc _ _ _ => decide (cc.toNat ≤ 5)
  | .fcmp .. | .tst .. | .plog .. | .clamp .. | .fclamp .. | .vote .. => true
  | .sel d _ _ => isVector d
  | .pmovGet d => isVector d
  | .pmovSet a => isVector a
  | .red _ _ o => decide (o.toNat ≤ 5)
  | .fred _ _ o => decide (o.toNat ≤ 2)
  | .scan d _ _ o => isVector d && decide (o.toNat ≤ 5)
  | .fscan d _ _ o => isVector d && decide (o.toNat ≤ 2)
  | .lid d => isVector d
  | .ld8 d a _ | .ld16 d a _ | .ld32 d a _ | .ld64 d a _ | .ld128 d a _ => isVector d || isUniform a
  | .st8 d a _ | .st16 d a _ | .st32 d a _ | .st64 d a _ | .st128 d a _ => isVector d || isUniform a
  | .ldw d _ _ => isVector d
  | .chk _ => true
  | .ldl d _ _ => isVector d
  | .stl d _ _ => isVector d
  | .pfL1 .. | .pfL2 .. | .wb .. | .inv .. => true
  | .atadd d a b | .atmin d a b | .atmax d a b | .atand d a b | .ator d a b | .atxor d a b
  | .atxchg d a b | .atcas d a b | .atqadd d a b => isVector d || (isUniform a && (isUniform b || b = 0))
  | .acq _ a => isUniform a
  | .rel _ a => isUniform a
  | .bind _ a b => isUniform a && (isUniform b || b = 0)
  | .unbind _ a b => isUniform a && (isUniform b || b = 0)
  | .fence scope => decide (scope.toNat ≤ 4)
  | .bar _ n => decide (1 ≤ n.toNat) && decide (n.toNat ≤ 16)
  | .barvArrive id n => decide (id.toNat ≤ 15) && decide (1 ≤ n.toNat) && decide (n.toNat ≤ 16)
  | .barvWait id => decide (id.toNat ≤ 15)
  | .fetake a => isVector a
  | .feput a _ => isVector a
  | .fetest _ b => isVector b
  | .wshare a b => isVector a && (isUniform b || b = 0)
  | .acqw a b => isUniform a && (isUniform b || b = 0)
  | .cbar _ | .cbarArrive _ | .cbarWait _ => true
  | .tld _ _ a b => isUniform a && (isUniform b || b = 0)
  | .tsto _ _ a b => isUniform a && (isUniform b || b = 0)
  | .tmma .. | .ttr .. | .tperm .. | .tred .. | .azero .. | .amovt .. | .acvt .. | .asave .. | .arest .. =>
    true
  | .amov d _ _ _ => isVector d
  | .tmvGet d _ _ => isVector d
  | .tmvPut d _ _ => isVector d
  | .tfill _ b => isUniform b || b = 0
  | .copy d a b => isUniform d && isUniform a && (isUniform b || b = 0)
  | .copyf _ _ a b => isUniform a && uniformUpTo 62 b
  | .gath d a b => isUniform d && isVector a && (isUniform b || b = 0)
  | .scat d a b => isUniform d && isVector a && (isUniform b || b = 0)
  | .mcast d a b => isUniform d && isUniform a && (isUniform b || b = 0)
  | .cfill d a b => isUniform d && isUniform a && (isUniform b || b = 0)
  | .wait cls _ => decide (cls.toNat ≤ 4)
  | .cwp .. => true
  | .qcall d _ _ _ => isVector d
  | .qwait d _ => isVector d
  | .qpoll .. | .send .. | .chinfo .. => true
  | .recv d _ => isVector d
  | .cluPbc a id => isUniform a && decide (id.toNat ≤ 15)
  | .cluCstat a b => isUniform a && isUniform b
  | .xltInv a b => isUniform a && isUniform b
  | .xltProbe a b => isUniform a && uniformUpTo 61 b
  | .xltReplay b | .xltCancel b => isUniform b
  | .xltFblk a b | .xltFmove a b | .xltFunblk a b => isUniform a && isUniform b
  | .ckpPreg a b | .ckpGreg a b | .ckpUnreg a b | .ckpGlaunch a b | .ckpGstat a b | .ckpTake a b
  | .ckpRoll a b | .ckpDrain a b | .ckpRestore a b | .ckpDeadline a b | .ckpBudget a b =>
    isUniform a && isUniform b
  | .ckpEpnew b => isUniform b
  | .dbgAttach a b => isUniform a && isUniform b
  | .dbgDetach b | .dbgStop b | .dbgGo b | .dbgStep b | .dbgWait b | .dbgFreeze b | .dbgThaw b =>
    isUniform b
  | .dbgWpset w b => decide (w.toNat ≤ 3) && uniformUpTo 61 b
  | .dbgRd a b | .dbgWr a b | .dbgWhy a b => isUniform a && uniformUpTo 62 b
  | .dbgVwpset w b => decide (w.toNat ≤ 3) && uniformUpTo 60 b
  | .modgShare a b | .modgHeal a b =>
    isUniform a && uniformUpTo 60 b && decide (b.toNat % 2 = 0)
  | .modgUnshare a b | .modgFork a b | .modgKey a b | .modgFassign a b | .modgMigr a b
  | .modgMdone a b | .modgSopen a b | .modgSclose a b => isUniform a && isUniform b
  | _ => false

end Sys2Proof
end

