-- ==== Sys2Proof/Machine/Operands.lean ====
section
/-! DEFINITION. The operand forms of every instruction word, and the checks a sequence passes when
it issues, in the order of R72: privilege, prefixes (R66), fields (R64, R67, R68), element type
(R75), register numbers (R29, R30), then the result cycles of R105, the routes of R27 and R129, full
and empty by R35, the destinations of R34 and the room of the undo log (R276). -/

namespace Sys2Proof.Machine

/-- Which copies of a register a slot consumes: those of the active lanes; those of the lane mask
(`sel`, R123); the one that lane 4s of each slice reads (R84); the one of the lowest active lane
(`mts`, R93); or a uniform register, once for the issuing group. -/
inductive Reading where
  | lanes
  | masked
  | head
  | first
  | once
  deriving DecidableEq, Repr

/-- A source slot: `words` registers from `reg` on, whose number is a multiple of `align`. `route`
says whether the slot may carry a route when it names a vector register. -/
structure Slot where
  reg : Reg
  words : Nat
  align : Nat
  read : Reading
  route : Bool
  deriving DecidableEq, Repr

/-- A destination: `words` registers from `reg` on. -/
structure Target where
  reg : Reg
  words : Nat
  align : Nat
  deriving DecidableEq, Repr

/-- The operand form of an instruction under a MODE: its privilege level, its source slots, whether
a literal may replace field b and what field b holds then, its destinations, further registers
whose numbers are checked, its fields' ranges, the element types it accepts (none: it ignores the
type) and whether its own source type is one of its set (R119), the predicates it reads and writes.
`perSlice` marks the instructions of R84, and `allLanes` those that write every lane of a slice. `bwords` is the width
of slot B as an operand, and `lat` the cycles from issue to result (R105). -/
structure Shape where
  level : Nat := 0
  a : Option Slot := none
  b : Option Slot := none
  c : Option Slot := none
  litOk : Bool := false
  bfield : Reg := 0
  bwords : Nat := 1
  dst : List Target := []
  named : List Target := []
  fields : Bool := true
  types : Option (List Nat) := none
  sourceType : Bool := true
  preds : List Nat := []
  predDst : List Nat := []
  perSlice : Bool := false
  guarded : Bool := true
  allLanes : Bool := false
  lat : Nat := 2
  deriving DecidableEq, Repr

/-- The integer types INT and the float types FLT (R106, R113). -/
def intTypes : List Nat := [0, 1, 3, 4, 7, 8, 10]
def fltTypes : List Nat := [2, 5, 6]
/-- Every type code that is not reserved (R16). -/
def allTypes : List Nat := [0, 1, 2, 3, 4, 5, 6, 7, 8, 9, 10]
/-- The types a conversion reads or writes besides INT (R119). -/
def cvtTypes : List Nat := [2, 5, 6, 9]

/-- Elements of a 32-bit word, or of a pair, under a type code (R41). A reserved code counts as one element, which the
range check of a conversion at step 4 of R72 sees before step 5 traps the code: log 119 (DESIGN CHOICE). -/
def elemCount (t : Nat) : Nat :=
  if t = 3 ∨ t = 4 ∨ t = 5 ∨ t = 6 then 2 else if t = 7 ∨ t = 8 then 4 else if t = 9 then 5 else 1

/-- Bits of one element (R41). -/
def elemWidth (t : Nat) : Nat :=
  if t = 3 ∨ t = 4 ∨ t = 5 ∨ t = 6 then 16
  else if t = 7 ∨ t = 8 then 8 else if t = 9 then 6 else if t = 10 then 64 else 32

/-- Registers an operand of a type takes (R29). -/
def typeWords (t : Nat) : Nat := if t = 10 then 2 else 1

/-- An ordinary source slot. -/
def src (r : Reg) (w : Nat) : Option Slot := some ⟨r, w, w, .lanes, true⟩

/-- A source slot that is a uniform register read once, with no route. -/
def uni (r : Reg) (w al : Nat) : Option Slot := some ⟨r, w, al, .once, false⟩

/-- A uniform source of an engine instruction or a synchronisation form, read if a lane is active. -/
def uniActive (r : Reg) (w al : Nat) : Option Slot := some ⟨r, w, al, .lanes, false⟩

/-- Field b as a source slot that a literal may replace. -/
def srcB (lit : Bool) (r : Reg) (w : Nat) : Option Slot := if lit then none else src r w
def uniB (lit : Bool) (r : Reg) : Option Slot := if lit then none else uniActive r 1 1

/-- Two sources and a destination, with slot C when `rc` (R103, R104). -/
def shape3 (types : Option (List Nat)) (w : Nat) (rc lit : Bool) (d a b : Reg) : Shape :=
  { a := src a w, b := srcB lit b w, c := if rc then src d w else none, litOk := true, bfield := b, bwords := w,
    dst := [⟨d, w, w⟩], types := types,
    fields := isVector d || (isUniform a && (lit || isUniform b)) }

/-- One source and a destination. -/
def shape2 (types : Option (List Nat)) (w : Nat) (d a : Reg) : Shape :=
  { a := src a w, dst := [⟨d, w, w⟩], types := types, fields := isVector d || isUniform a }

/-- A compare: two sources and a predicate. -/
def shapeCmp (types : Option (List Nat)) (w : Nat) (lit : Bool) (p : BitVec 3) (a b : Reg) : Shape :=
  { a := src a w, b := srcB lit b w, litOk := true, bfield := b, bwords := w, types := types, predDst := [p.toNat] }

/-- The element of the destination of a conversion that step j writes, and the element of the source it takes (R119). -/
def cvtPairs (ns nd k : Nat) : List (Nat × Nat) :=
  let n := min ns nd
  ((List.range n).map fun j => (if n < nd then k * n + j else j, if n < ns then k * n + j else j)).filter
    fun e => decide (e.1 < nd) && decide (e.2 < ns)

/-- A conversion (R119): source type `t`, MODE.TYPE `mt`. -/
def shapeCvt (sources dests : List Nat) (mt : Nat) (d a : Reg) (k t : Nat) : Shape :=
  let ns := elemCount t
  let nd := elemCount mt
  let n := min ns nd
  { a := src a (typeWords t), c := if (cvtPairs ns nd k).length < nd then src d (typeWords mt) else none,
    dst := [⟨d, typeWords mt, typeWords mt⟩], types := some dests,
    sourceType := decide (t ∈ sources), fields := decide (k * n < max ns nd) && (isVector d || isUniform a) }

/-- A load or store of M format: an address pair, and `w` registers. -/
def shapeLoad (d a : Reg) (w : Nat) : Shape := { a := src a 2, dst := [⟨d, w, w⟩] }
def shapeStore (d a : Reg) (w : Nat) : Shape := { a := src a 2, c := src d w }

/-- An atomic (R146). -/
def shapeAtomic (types : List Nat) (w wd : Nat) (rc lit : Bool) (d a b : Reg) : Shape :=
  { a := src a 2, b := srcB lit b w, c := if rc then src d w else none, litOk := true, bfield := b, bwords := w,
    dst := [⟨d, wd, wd⟩], types := some types,
    fields := isVector d || (isUniform a && (lit || isUniform b)) }

/-- A slice-level instruction of R84 with no operands. -/
def shapeSlice : Shape := { perSlice := true, guarded := false }

/-- A form of the groups `clu`, `xlt`, `ckp`, `dbg` and `modg` (R63, R393). -/
def shapeX (level : Nat) (a b : Option Slot) (dst : List Target) : Shape :=
  { level := level, a := a, b := b, dst := dst, perSlice := true, guarded := false }

/-- The operands and results of an instruction word under a MODE, with or without a literal. The registers whose
full/empty state alone `fetake` and `fetest` use are no source slots, so that a prefix for them traps ILLEGAL_PREFIX:
log 120 (DESIGN CHOICE). -/
def operands (i : Instr) (m : ModeWord) (lit : Bool) : Shape :=
  let t := modeType m
  let w := typeWords t
  let int := some intTypes
  let flt := some fltTypes
  match i with
  | .nop | .bra _ | .elseP _ | .endif | .loop .. | .lbrk | .regang | .exit | .yield | .pause _ | .mode _
  | .mtype _ | .mrnd _ | .mguard .. | .trap _ | .brk _ | .sysAbort _ | .chk _ | .fence _ | .bar ..
  | .barvArrive .. | .barvWait _ | .cbar _ | .cbarArrive _ | .cbarWait _ | .wait .. => shapeSlice
  | .rti | .sysKill => { shapeSlice with level := 1 }
  | .bany _ p _ | .ball _ p _ | .ifP _ p _ =>
    { perSlice := true, preds := [p.toNat] }
  | .call _ => { shapeSlice with dst := [⟨0, 2, 2⟩], allLanes := true }
  | .ret a | .brr a => { shapeSlice with a := some ⟨a, 2, 2, .head, true⟩ }
  | .brrL a =>
    { shapeSlice with a := some ⟨a, 2, 2, .head, true⟩, dst := [⟨0, 2, 2⟩], allLanes := true }
  | .loopr d _ => { shapeSlice with c := some ⟨d, 1, 1, .head, true⟩ }
  | .mfs d _ => { dst := [⟨d, 1, 1⟩], perSlice := true }
  | .mts d _ => { c := some ⟨d, 1, 1, .first, true⟩, perSlice := true }
  | .add d a b | .sub d a b | .mul d a b | .mulhi d a b | .min d a b | .max d a b | .shl d a b
  | .shr d a b | .sar d a b | .rol d a b | .ror d a b => shape3 int w false lit d a b
  | .mad d a b | .clamp d a b => shape3 int w true lit d a b
  | .div d a b | .rem d a b => shape3 (some [0, 1, 10]) w false lit d a b
  | .neg d a | .abs d a | .popc d a | .clz d a | .ctz d a | .brev d a => shape2 int w d a
  | .and d a b | .or d a b | .xor d a b | .andn d a b => shape3 none 1 false lit d a b
  | .not d a => shape2 none 1 d a
  | .bfx d a b => shape3 (some [0, 1]) 1 false lit d a b
  | .bfi d a b => shape3 (some [0, 1]) 1 true lit d a b
  | .mov d b =>
    { b := srcB lit b 1, litOk := true, bfield := b, dst := [⟨d, 1, 1⟩],
      fields := isVector d || lit || isUniform b }
  | .movi d _ => { dst := [⟨d, 1, 1⟩] }
  | .movhi d _ => { c := src d 1, dst := [⟨d, 1, 1⟩] }
  | .addi d _ => { c := src d w, dst := [⟨d, w, w⟩], types := some [0, 1, 10] }
  | .fadd d a b | .fsub d a b | .fmul d a b | .fmin d a b | .fmax d a b | .fcps d a b | .fdiv d a b
  | .ldexp d a b => shape3 flt 1 false lit d a b
  | .fma d a b | .fms d a b | .fnma d a b | .fclamp d a b => shape3 flt 1 true lit d a b
  | .fabs d a | .fneg d a | .rcp d a | .rsq d a | .sqrt d a | .exp2 d a | .log2 d a | .sinpi d a
  | .cospi d a | .tanh d a | .frnd d a | .fract d a | .fclass d a => shape2 flt 1 d a
  | .fdot d a b => shape3 (some [5, 6]) 1 true lit d a b
  | .cvt d a k c => shapeCvt cvtTypes cvtTypes t d a k.toNat c.toNat
  | .cvtfi d a k c => shapeCvt fltTypes intTypes t d a k.toNat c.toNat
  | .cvtif d a k c => shapeCvt intTypes cvtTypes t d a k.toNat c.toNat
  | .cvtii d a k c => shapeCvt intTypes intTypes t d a k.toNat c.toNat
  | .pack d a b => shape3 (some [3, 4, 5, 6, 7, 8]) 1 false lit d a b
  | .unpk d a _ => shape2 (some [0, 1, 3, 4]) 1 d a
  | .cmp _ _ p a b => shapeCmp int w lit p a b
  | .fcmp _ _ p a b => shapeCmp flt 1 lit p a b
  | .tst _ p a b => shapeCmp none 1 lit p a b
  | .sel d a b =>
    { a := some ⟨a, 1, 1, .masked, true⟩,
      b := if lit then none else some ⟨b, 1, 1, .masked, true⟩, litOk := true, bfield := b,
      dst := [⟨d, 1, 1⟩] }
  | .plog _ pd pa pb => { preds := [pa.toNat, pb.toNat], predDst := [pd.toNat] }
  | .pmovGet d => { dst := [⟨d, 1, 1⟩], preds := List.range 8 }
  | .pmovSet a => { a := src a 1, predDst := List.range 8 }
  | .red d a _ => { a := src a w, dst := [⟨d, w, w⟩], types := int }
  | .fred d a _ => { a := src a 1, dst := [⟨d, 1, 1⟩], types := flt }
  | .scan d a _ _ => { a := src a w, dst := [⟨d, w, w⟩], types := int }
  | .fscan d a _ _ => { a := src a 1, dst := [⟨d, 1, 1⟩], types := flt }
  | .vote d _ p => { dst := [⟨d, 1, 1⟩], preds := [p.toNat] }
  | .lid d => { dst := [⟨d, 1, 1⟩] }
  | .ld8 d a _ | .ld16 d a _ | .ld32 d a _ | .ldw d a _ => shapeLoad d a 1
  | .ld64 d a _ => shapeLoad d a 2
  | .ld128 d a _ => shapeLoad d a 4
  | .st8 d a _ | .st16 d a _ | .st32 d a _ => shapeStore d a 1
  | .st64 d a _ => shapeStore d a 2
  | .st128 d a _ => shapeStore d a 4
  | .ldl d a _ => { a := src a 1, dst := [⟨d, 1, 1⟩] }
  | .stl d a _ => { a := src a 1, c := src d 1 }
  | .pfL1 a _ | .pfL2 a _ | .wb a _ | .inv a _ => { a := src a 2 }
  | .atadd d a b | .atmin d a b | .atmax d a b => shapeAtomic [0, 1, 2, 10] w w false lit d a b
  | .atand d a b | .ator d a b | .atxor d a b => shapeAtomic [0, 1, 10] w w false lit d a b
  | .atxchg d a b => shapeAtomic allTypes w w false lit d a b
  | .atcas d a b => shapeAtomic allTypes w w true lit d a b
  | .atqadd d a b => shapeAtomic [0, 2, 10] w 2 false lit d a b
  | .acq d a | .rel d a => { a := uniActive a 2 2, dst := [⟨d, 1, 1⟩] }
  | .bind d a b | .unbind d a b =>
    { a := uniActive a 2 2, b := if lit then none else uniActive b 2 2, litOk := true, bfield := b, bwords := 2,
      dst := [⟨d, 1, 1⟩], fields := lit || isUniform b }
  | .fetake a => { named := [⟨a, 1, 1⟩] }
  | .feput a b => { b := srcB lit b 1, litOk := true, bfield := b, named := [⟨a, 1, 1⟩] }
  | .fetest p b => { named := [⟨b, 1, 1⟩], predDst := [p.toNat] }
  | .wshare a b =>
    { b := if lit then none else uni b 1 1, litOk := true, bfield := b, named := [⟨a, 1, 1⟩],
      fields := lit || isUniform b, perSlice := true, guarded := false }
  | .acqw a b =>
    { a := uniActive a 2 2, b := uniB lit b, litOk := true, bfield := b, fields := lit || isUniform b }
  | .tld _ _ a b | .tsto _ _ a b =>
    { a := uniActive a 2 2, b := uniB lit b, litOk := true, bfield := b, fields := lit || isUniform b }
  | .tmma .. | .ttr .. | .tred .. | .azero _ | .amovt .. | .acvt .. => { }
  | .tperm _ _ b => { b := srcB lit b 1, litOk := true, bfield := b }
  | .amov d _ _ _ => { dst := [⟨d, 1, 1⟩], types := some [0, 2] }
  | .asave _ | .arest _ => { level := 1 }
  | .tmvGet d _ _ => { dst := [⟨d, 1, 1⟩] }
  | .tmvPut d _ _ => { c := src d 1 }
  | .tfill _ b => { b := uniB lit b, litOk := true, bfield := b, fields := lit || isUniform b }
  | .copy d a b =>
    { a := uniActive a 2 2, b := uniB lit b, c := uniActive d 2 2, litOk := true, bfield := b,
      fields := lit || isUniform b }
  | .cfill d a b =>
    { a := uniActive a 1 1, b := uniB lit b, c := uniActive d 2 2, litOk := true, bfield := b,
      fields := lit || isUniform b }
  | .copyf _ _ a b =>
    { a := uniActive a 2 2, b := if lit then none else uniActive b 2 1, litOk := true, bfield := b, fields := !lit }
  | .gath d a b | .scat d a b =>
    { a := src a 2, b := uniB lit b, c := uniActive d 2 2, litOk := true, bfield := b,
      fields := lit || isUniform b }
  | .mcast d a b =>
    { a := uniActive a 2 2, b := uniB lit b, c := uniActive d 2 2, litOk := true, bfield := b,
      fields := lit || isUniform b }
  | .cwp d _ => { dst := [⟨d, 1, 1⟩] }
  | .qcall d r n _ =>
    { c := some ⟨d, n.toNat + 1, 1, .lanes, false⟩,
      dst := if r.toNat = 0 then [] else [⟨d, r.toNat, 1⟩] }
  | .qwait d r => { named := [⟨d, r.toNat + 1, 1⟩] }
  | .qpoll d _ => { dst := [⟨d, 1, 1⟩] }
  | .send d _ => { c := src d 1 }
  | .recv d _ | .chinfo d _ => { dst := [⟨d, 1, 1⟩] }
  | .cluPbc a _ => shapeX 1 none none [⟨a, 1, 1⟩]
  | .cluCstat a b => shapeX 1 none (uni b 1 1) [⟨a, 1, 1⟩]
  | .xltInv a b => shapeX 1 (uni a 2 2) (uni b 1 1) []
  | .xltProbe a b => { shapeX 1 (uni a 2 2) (uni b 1 2) [⟨b, 3, 2⟩] with }
  | .xltReplay b | .xltCancel b => shapeX 1 none (uni b 1 1) [⟨b, 1, 1⟩]
  | .xltFblk a b | .xltFunblk a b => shapeX 2 (uni a 2 2) none [⟨b, 1, 1⟩]
  | .xltFmove a b => shapeX 2 (uni a 2 2) (uni b 2 2) [⟨b, 1, 1⟩]
  | .ckpPreg a b | .ckpGreg a b => shapeX 1 (uni a 2 2) none [⟨b, 1, 1⟩]
  | .ckpUnreg a b | .ckpGlaunch a b | .ckpGstat a b | .ckpTake a b | .ckpRoll a b | .ckpDrain a b
  | .ckpRestore a b => shapeX 1 (uni a 1 1) none [⟨b, 1, 1⟩]
  | .ckpEpnew b => shapeX 1 none none [⟨b, 1, 1⟩]
  | .ckpDeadline a b => shapeX 2 (uni a 1 1) none [⟨b, 1, 1⟩]
  | .ckpBudget a b => shapeX 2 (uni a 2 2) none [⟨b, 1, 1⟩]
  | .dbgAttach a b => shapeX 1 (uni a 2 2) (uni b 1 1) []
  | .dbgDetach b | .dbgStop b | .dbgGo b | .dbgStep b | .dbgWait b => shapeX 1 none (uni b 1 1) []
  | .dbgWpset _ b => shapeX 1 none (uni b 3 1) []
  | .dbgRd a b => shapeX 1 none (uni b 2 1) [⟨a, 1, 1⟩]
  | .dbgWr a b => shapeX 1 (uni a 1 1) (uni b 2 1) []
  | .dbgFreeze b | .dbgThaw b => shapeX 2 none (uni b 1 1) []
  | .dbgWhy a b => shapeX 1 none (uni b 2 1) [⟨a, 1, 1⟩]
  | .dbgVwpset _ b => shapeX 1 none (uni b 4 1) []
  | .modgShare a b => shapeX 1 (uni a 2 2) (uni b 1 1) [⟨b, 1, 1⟩, ⟨b + 2, 2, 1⟩]
  | .modgUnshare a b => shapeX 1 (uni a 2 2) (uni b 1 1) [⟨b, 1, 1⟩]
  | .modgFork a b | .modgKey a b | .modgMigr a b | .modgMdone a b | .modgSopen a b | .modgSclose a b =>
    shapeX 2 (uni a 1 1) none [⟨b, 1, 1⟩]
  | .modgFassign a b => shapeX 2 (uni a 2 2) (uni b 1 1) [⟨b, 1, 1⟩]
  | .modgHeal a b => shapeX 2 (uni a 2 2) (uni (b + 2) 2 1) [⟨b, 1, 1⟩]
  | _ => { }

/-- The cycles from the issue of an instruction to its result, routes apart (R105). Log 121 (DESIGN CHOICE): 2 for the
results that the table does not list. -/
def resultCycles (i : Instr) (m : ModeWord) : Nat :=
  match i with
  | .vote .. => 3
  | .mul .. | .mulhi .. | .mad .. | .fadd .. | .fsub .. | .fmul .. | .fma .. | .fms .. | .fnma .. | .fmin .. | .fmax ..
  | .fabs .. | .fneg .. | .fcps .. | .frnd .. | .fract .. | .ldexp .. | .fclass .. | .fcmp .. | .fclamp ..
  | .cvt .. | .cvtfi .. | .cvtif .. | .cvtii .. | .pack .. | .unpk .. => 4
  | .fdot .. => 5
  | .red .. | .fred .. | .qpoll .. => 8
  | .rcp .. | .rsq .. | .exp2 .. | .log2 .. | .sinpi .. | .cospi .. | .tanh .. | .scan .. | .fscan .. => 10
  | .fdiv .. | .sqrt .. => 14
  | .div .. | .rem .. => if modeType m = 10 then 36 else 20
  | _ => 2

/-- The operand form of an instruction word under a MODE, with or without a literal. -/
def shape (i : Instr) (m : ModeWord) (lit : Bool) : Shape :=
  { operands i m lit with lat := resultCycles i m }

/-- What an issuing sequence sees: its core, gang, place, the MODE its slices share, its active
lanes and the lanes of its lane masks, and the rows its session has logged with the entries the log
has room for (R276). -/
structure View where
  core : CoreSt
  gang : Gang
  cur : IssueCtx
  mode : ModeWord
  act : LaneSet
  msk : LaneSet
  logged : List Nat
  room : Nat
  deriving Repr

/-- The view of the present sequence; none if its gang is not resident. -/
def State.view? (s : State) : Option View :=
  match s.me? with
  | none => none
  | some x =>
    some
      { core := s.core s.cur.gang.core
        gang := x
        cur := s.cur
        mode := (x.slice (x.lead s.cur.slices)).mode
        act := laneSet (x.active s.cur.slices)
        msk := laneSet (x.masked s.cur.slices)
        logged := (s.ses ((s.core s.cur.gang.core).sessionOf x)).rows
        room := s.logRoom ((s.core s.cur.gang.core).sessionOf x) }

/-- The lane that lane l reads under a route specification (R68). -/
def View.routeLane (v : View) (spec : BitVec 8) (l : Nat) : Nat :=
  let p := fieldNat spec 0 5
  match fieldNat spec 5 3 with
  | 1 => l / 4 * 4 + (l + p % 4) % 4
  | 2 => (l + p) % 32
  | 3 => p
  | 4 => Nat.xor l p
  | 5 => (v.core.reg v.gang (p * 32 + l)).toNat % 32
  | _ => l

/-- A route specification that R68 defines. -/
def routeOk (spec : BitVec 8) : Bool :=
  match fieldNat spec 5 3 with
  | 0 => decide (fieldNat spec 0 5 = 0)
  | 1 => decide (fieldNat spec 2 3 = 0)
  | 2 | 3 | 4 | 5 => true
  | _ => false

/-- The slot names a vector register and may carry a route. -/
def slotRoutable (o : Option Slot) : Bool :=
  match o with
  | some sl => sl.route && isVector sl.reg
  | none => false

/-- R66: every nonzero route specification is for a slot read as a vector register, and a ROUTE word
stands before an instruction with such a slot; a LIT word stands before one whose field b is a
source slot. -/
def Shape.prefixOk (sh : Shape) (cur : IssueCtx) : Bool :=
  (!cur.routed || slotRoutable sh.a || slotRoutable sh.b || slotRoutable sh.c) &&
  (decide (cur.routeA = 0) || slotRoutable sh.a) &&
  (decide (cur.routeB = 0) || slotRoutable sh.b) &&
  (decide (cur.routeC = 0) || slotRoutable sh.c) &&
  (cur.lit.isNone || sh.litOk)

/-- Step 4 of R72 for the prefixes: the route specifications, and field b zero under a literal. -/
def Shape.prefixFields (sh : Shape) (cur : IssueCtx) : Bool :=
  routeOk cur.routeA && routeOk cur.routeB && routeOk cur.routeC &&
  (cur.lit.isNone || decide (sh.bfield = 0))

/-- A register range lies within the gang's registers and starts at a multiple of `align` (R29,
R30). -/
def rangeOk (vcount : Nat) (r : Reg) (words align : Nat) : Bool :=
  if isVector r then decide (r.toNat % align = 0) && decide (r.toNat + words ≤ vcount)
  else decide ((r.toNat - 0xC0) % align = 0)

def slotRange (vcount : Nat) (o : Option Slot) : Bool :=
  match o with
  | some sl => rangeOk vcount sl.reg sl.words sl.align
  | none => true

/-- A kind-5 index register lies below VCOUNT (R68). -/
def routeRange (vcount : Nat) (spec : BitVec 8) : Bool :=
  decide (fieldNat spec 5 3 ≠ 5) || decide (fieldNat spec 0 5 < vcount)

/-- Step 6 of R72. -/
def Shape.rangesOk (sh : Shape) (vcount : Nat) (cur : IssueCtx) : Bool :=
  slotRange vcount sh.a && slotRange vcount sh.b && slotRange vcount sh.c &&
  sh.dst.all (fun d => rangeOk vcount d.reg d.words d.align) &&
  sh.named.all (fun d => rangeOk vcount d.reg d.words d.align) &&
  routeRange vcount cur.routeA && routeRange vcount cur.routeB && routeRange vcount cur.routeC

/-- Step 5 of R72. -/
def Shape.typeOk (sh : Shape) (m : ModeWord) : Bool :=
  sh.sourceType && match sh.types with
    | some ts => decide (modeType m ∈ ts)
    | none => true

/-- Steps 2 to 6 of R72: the cause of the first check that fails. -/
def staticCause (v : View) (i : Instr) (sh : Shape) : Option (BitVec 8) :=
  if v.core.level v.gang < sh.level then some 0x05
  else if !sh.prefixOk v.cur then some 0x03
  else if !(i.wellFormed && sh.fields && sh.prefixFields v.cur) then some 0x02
  else if !sh.typeOk v.mode then some 0x04
  else if !sh.rangesOk v.gang.vcount v.cur then some 0x12
  else none

/-- The lanes that read a slot. -/
def View.readers (v : View) (r : Reading) : List Nat :=
  match r with
  | .lanes => lanesOf v.act
  | .masked => lanesOf v.msk
  | .head => (slicesOf v.cur.slices).map (· * 4)
  | .first => (lanesOf v.act).take 1
  | .once => []

/-- The set of a list of lanes. -/
def setOfLanes (l : List Nat) : LaneSet := laneSet (fun n => decide (n ∈ l))

/-- A uniform register of a slot is consumed: the slot is read once, or some lane reads it. -/
def View.readsUniform (v : View) (r : Reading) : Bool :=
  match r with
  | .lanes => decide (v.act ≠ 0)
  | .masked => decide (v.msk ≠ 0)
  | .head | .first | .once => true

/-- A register copy that a slot consumes: its word, the lanes that read it, whether R35 checks it, and whether the
slot's empty-read policy traps (R16). -/
structure Consumed where
  word : Nat
  lanes : LaneSet
  checked : Bool
  traps : Bool
  deriving DecidableEq, Repr

/-- The register copies a slot consumes. Copies of inactive lanes are consumed without check, except where one lane reads
for its slice, or for the group (R35, R84). -/
def View.consumed (v : View) (sl : Slot) (spec : BitVec 8) (traps : Bool) : List Consumed :=
  if isUniform sl.reg then
    if v.readsUniform sl.read then
      (List.range sl.words).map fun i =>
        ⟨uniWord v.gang (sl.reg.toNat - 0xC0 + i), setOfLanes (v.readers sl.read), true, traps⟩
    else []
  else
    (v.readers sl.read).flatMap fun l =>
      let l' := v.routeLane spec l
      let me : LaneSet := BitVec.ofNat 32 (2 ^ l)
      let chk := match sl.read with
        | .head | .first => true
        | .masked => v.msk.getLsbD l'
        | _ => v.act.getLsbD l'
      (if fieldNat spec 5 3 = 5 then [⟨fieldNat spec 0 5 * 32 + l, me, true, traps⟩] else []) ++
      (if v.gang.live (l' / 4) then
        (List.range sl.words).map (fun i => ⟨(sl.reg.toNat + i) * 32 + l', me, chk, traps⟩) else [])

/-- A route of the slot names a live lane of another issue group (R27). -/
def View.parted (v : View) (sl : Slot) (spec : BitVec 8) : Bool :=
  isVector sl.reg && (v.readers sl.read).any fun l =>
    let l' := v.routeLane spec l
    v.gang.live (l' / 4) && !v.cur.slices.getLsbD (l' / 4)

/-- A route of the slot reads a lane of a slice that is not live (R27). -/
def View.readsDead (v : View) (sl : Slot) (spec : BitVec 8) : Bool :=
  isVector sl.reg && (v.readers sl.read).any (fun l => !v.gang.live (v.routeLane spec l / 4))

/-- The slots of a sequence with their routes and empty-read policies (R16). -/
def View.slots (v : View) (sh : Shape) : List (Slot × BitVec 8 × Bool) :=
  (match sh.a with | some x => [(x, v.cur.routeA, v.mode.getLsbD 2)] | none => []) ++
  (match sh.b with | some x => [(x, v.cur.routeB, v.mode.getLsbD 1)] | none => []) ++
  (match sh.c with | some x => [(x, v.cur.routeC, v.mode.getLsbD 0)] | none => [])

/-- The register words a destination writes. -/
def View.written (v : View) (sh : Shape) (d : Target) : List Nat :=
  if isUniform d.reg then
    (List.range d.words).map (fun i => uniWord v.gang (d.reg.toNat - 0xC0 + i))
  else
    let lanes := if sh.allLanes then (slicesOf v.cur.slices).flatMap (fun n => [4 * n, 4 * n + 1, 4 * n + 2, 4 * n + 3])
      else match sh.a with
        | some sl => if sl.read = .masked then lanesOf v.msk else lanesOf v.act
        | none => lanesOf v.act
    lanes.flatMap fun l => (List.range d.words).map (fun i => (d.reg.toNat + i) * 32 + l)

/-- The rows of the store that the destinations of a sequence lie in, by their key in the log. -/
def View.rowsWritten (v : View) (sh : Shape) : List Nat :=
  newOnes [] ((sh.dst.flatMap (v.written sh)).map
    (fun w => storeRow v.cur.gang.core (4 * v.core.phys v.gang w)))

/-- The register copies a sequence consumes, and the words that it writes. -/
def View.used (v : View) (sh : Shape) : List Consumed :=
  (v.slots sh).flatMap (fun p => v.consumed p.1 p.2.1 p.2.2)
def View.dsts (v : View) (sh : Shape) : List Nat := sh.dst.flatMap (v.written sh)

/-- A result of R105 that the sequence reads or writes has not been written: it waits with reason LATENCY. The rule
makes a reader wait, and the model a sequence that only writes the destination too: log 6 (DEDUCED). -/
def View.latent (v : View) (sh : Shape) : Bool :=
  let ws := (v.used sh).map (·.word) ++ v.dsts sh
  let ps := sh.preds ++ sh.predDst ++ (if sh.guarded && modeGen v.mode then [modeGpred v.mode] else [])
  v.gang.latency.any fun m =>
    decide (m.slices &&& v.cur.slices ≠ 0) &&
      (m.writes.any (fun e => decide (e.1 ∈ ws)) || m.preds.any (fun e => decide (e.1 ∈ ps)))

/-- A copy is empty. -/
def CopyState.isEmpty (f : CopyState) : Bool :=
  match f with
  | .empty _ => true
  | _ => false

/-- The lanes that read some copies. -/
def readLanes (us : List Consumed) : LaneSet := us.foldl (fun m u => m ||| u.lanes) 0

/-- TLANES of a cause that the sequence raises: its active lanes; none for an instruction that acts
on slices (R94; log 27). -/
def View.tlanes (v : View) (sh : Shape) : LaneSet := if sh.perSlice then 0 else v.act

/-- The outcome of the checks: the sequence issues (`rx` marks a routed read of a lane of a slice
that is not live); it traps, with the lanes that the cause applies to; or its group waits. -/
inductive Verdict where
  | go (rx : Bool)
  | trap (cause : BitVec 8) (lanes : LaneSet)
  | wait (r : WaitReason)
  deriving DecidableEq, Repr

/-- Step 7 of R72 up to the instruction's own checks. PRODUCER_LOST and EMPTY_READ apply to the lanes that read such a
copy, ROUTE_PARTED to the active lanes of the group (R94, R129). -/
def dynamicCheck (v : View) (sh : Shape) : Verdict :=
  let slots := v.slots sh
  let used := (v.used sh).filter (·.checked)
  let lost := used.filter (fun u => decide (v.core.copy v.gang u.word = .lost))
  let empties := used.filter (fun u => (v.core.copy v.gang u.word).isEmpty)
  if v.latent sh then .wait .latency
  else if slots.any (fun p => v.parted p.1 p.2.1) then .trap 0x17 (v.tlanes sh)
  else if lost ≠ [] then .trap 0x11 (readLanes lost)
  else if empties.any (·.traps) then .trap 0x10 (readLanes (empties.filter (·.traps)))
  else if empties ≠ [] then .wait .empty
  else if (v.dsts sh).any (fun w => (v.core.copy v.gang w).isEmpty) then .wait .empty
  else if v.room < (newOnes v.logged (v.rowsWritten sh)).length then .wait .cklfull
  else .go (slots.any (fun p => v.readsDead p.1 p.2.1))

/-- The checks of R72 from step 2 on, up to those the instruction's description states. -/
def checkSeq (v : View) (i : Instr) (sh : Shape) : Verdict :=
  match staticCause v i sh with
  | some c => .trap c (v.tlanes sh)
  | none => dynamicCheck v sh

/-- Word i of a slot as reading lane l finds it. -/
def View.slotWord (v : View) (sl : Slot) (spec : BitVec 8) (l i : Nat) : Word :=
  if isUniform sl.reg then v.core.reg v.gang (uniWord v.gang (sl.reg.toNat - 0xC0 + i))
  else
    let l' := v.routeLane spec l
    if v.gang.live (l' / 4) then v.core.reg v.gang ((sl.reg.toNat + i) * 32 + l') else 0

/-- The words of a slot as reading lane l finds them, low word first. -/
def View.slotWords (v : View) (o : Option Slot) (spec : BitVec 8) (l : Nat) : List Word :=
  match o with
  | some sl => (List.range sl.words).map (v.slotWord sl spec l)
  | none => []

/-- A(l), B(l) and C(l): the values of slots A, B and C that lane l consumes (R103). -/
def View.opA (v : View) (sh : Shape) (l : Nat) : DWord := dwordOf (v.slotWords sh.a v.cur.routeA l)
def View.opC (v : View) (sh : Shape) (l : Nat) : DWord := dwordOf (v.slotWords sh.c v.cur.routeC l)
def View.opB (v : View) (sh : Shape) (l : Nat) : DWord :=
  match v.cur.lit with
  | some w => if sh.litOk then (if sh.bwords = 2 then w.signExtend 64 else w.setWidth 64)
    else dwordOf (v.slotWords sh.b v.cur.routeB l)
  | none => dwordOf (v.slotWords sh.b v.cur.routeB l)

/-- A sequence that has passed its checks takes effect: a routed read of a lane of a slice that is not live sets
GSTAT.RX (R27), and the rows of the store that it will write go into the undo log (R276). -/
def State.takesEffect (s : State) (v : View) (sh : Shape) (rx : Bool) : State :=
  (if rx then s.updGang v.cur.gang (fun x => { x with rx := true }) else s).logRows
    (v.core.sessionOf v.gang) (v.rowsWritten sh)

/-- Issuing a sequence: the checks of R72, then the instruction's own checks and effect `k`, which is given the state
before the sequence takes effect and what makes it take effect. A group that waits or traps leaves everything
else as it was (R11). -/
def State.issueWith (s : State) (i : Instr) (k : View → Shape → State → (State → State) → State) : State :=
  match s.view? with
  | none => s
  | some v =>
    let sh := shape i v.mode v.cur.lit.isSome
    match checkSeq v i sh with
    | .trap c lanes => s.trapNow c 0 lanes 0
    | .wait r => if r = .cklfull then s.logFull (v.core.sessionOf v.gang) else s.hold r
    | .go rx => k v sh s (fun t => t.takesEffect v sh rx)

/-- `issueWith` as the outcome of a step, for an instruction that states checks of its own. -/
def issueChecked (i : Instr) (s : State) (k : View → Shape → State → (State → State) → State) :
    Host.Outcome State Fault Refusal :=
  .next (s.issueWith i k)

/-- The issue of an instruction that states no further check: `k` is its effect. -/
def issue (i : Instr) (s : State) (k : View → Shape → State → State) : Host.Outcome State Fault Refusal :=
  issueChecked i s fun v sh s1 go => k v sh (go s1)

/-- Cycles that a route adds to the result of a sequence (R68). -/
def routeCycles (spec : BitVec 8) : Nat :=
  match fieldNat spec 5 3 with
  | 2 | 3 | 4 => 1
  | 5 => 2
  | _ => 0

/-- The cycles from the issue of the present sequence to its result: those of its instruction and of the greatest
latency class among its slots (R105). -/
def View.cycles (v : View) (sh : Shape) : Nat :=
  sh.lat + max (routeCycles v.cur.routeA) (max (routeCycles v.cur.routeB) (routeCycles v.cur.routeC))

/-- Results that a sequence leaves to be written at their result cycle (R105). -/
def State.result (s : State) (v : View) (sh : Shape) (writes : List (Nat × Word))
    (preds : List (Nat × LaneSet × LaneSet)) : State :=
  if writes = [] ∧ preds = [] then s
  else
    let due := (s.die (dieOf v.cur.gang.core)).cyc + v.cycles sh
    (s.updGang v.cur.gang fun x =>
      { x with
        latency := x.latency ++ [⟨v.gang.seqs, due, v.gang.lead v.cur.slices, v.cur.slices, writes, preds⟩] }).post
      (.resultWrite v.cur.gang v.gang.seqs)

/-- The words of a vector destination for lane l, or of a uniform destination. -/
def dstWords (x : Gang) (d : Reg) (l : Nat) (ws : List Word) : List (Nat × Word) :=
  if isUniform d then ws.mapIdx (fun i w => (uniWord x (d.toNat - 0xC0 + i), w))
  else ws.mapIdx (fun i w => ((d.toNat + i) * 32 + l, w))

/-- A lane-wise result: `f l` in every active lane of a vector destination, or once for a uniform
destination if a lane is active (R103, R104). -/
def View.laneResults (v : View) (d : Reg) (n : Nat) (f : Nat → DWord) : List (Nat × Word) :=
  if isUniform d then
    if v.act = 0 then [] else dstWords v.gang d 0 (wordsOf (f 0) n)
  else (lanesOf v.act).flatMap (fun l => dstWords v.gang d l (wordsOf (f l) n))

/-- An instruction of the arithmetic families: `f` of MODE and the lane's operands is the value of
destination `d`, `n` registers wide. -/
def lanesOp (i : Instr) (d : Reg) (s : State) (f : ModeWord → DWord → DWord → DWord → DWord) :
    Host.Outcome State Fault Refusal :=
  issue i s fun v sh s1 =>
    let n := match sh.dst with
      | t :: _ => t.words
      | [] => 1
    (s1.result v sh (v.laneResults d n (fun l => f v.mode (v.opA sh l) (v.opB sh l) (v.opC sh l))) []).retire

/-- An instruction that writes predicate `p` in every active lane. -/
def predOp (i : Instr) (p : BitVec 3) (s : State) (f : View → Shape → Nat → Bool) :
    Host.Outcome State Fault Refusal :=
  issue i s fun v sh s1 =>
    (s1.result v sh [] (if v.act = 0 then [] else [(p.toNat, v.act, laneSet (f v sh))])).retire

end Sys2Proof.Machine
end

