-- ==== Sys2Proof/Machine/Num.lean ====
section
/-! DEFINITION. Numbers: elements of register words (R41), integers (R42), the IEEE formats and E36
with their roundings (R43 to R47), Q36 (R48), L6 (R49 to R54), the canonical tree (R56), and the
functions of R115 and R116 by exact integer bounds. -/

namespace Sys2Proof.Machine

/-- The element types whose elements are signed (R41). -/
def signedType (t : Nat) : Bool := decide (t = 0 ∨ t = 3 ∨ t = 7 ∨ t = 10)

/-- Element i of an operand under a type, as its bit pattern (R41). -/
def elem (t : Nat) (x : DWord) (i : Nat) : Nat := fieldNat x (elemWidth t * i) (elemWidth t)

/-- The number that a pattern of w bits stands for, signed or not (R42). -/
def intVal (signed : Bool) (w p : Nat) : Int :=
  if signed ∧ 2 ^ (w - 1) ≤ p then (p : Int) - (2 ^ w : Nat) else p

/-- The least and the greatest number of a type (R42). -/
def intMin (signed : Bool) (w : Nat) : Int := if signed then -((2 ^ (w - 1) : Nat) : Int) else 0
def intMax (signed : Bool) (w : Nat) : Int := if signed then ((2 ^ (w - 1) : Nat) : Int) - 1 else ((2 ^ w : Nat) : Int) - 1

def clampInt (lo hi x : Int) : Int := if x < lo then lo else if hi < x then hi else x

/-- The pattern of a number reduced modulo 2^w. -/
def wrapInt (w : Nat) (x : Int) : Nat := (x % ((2 ^ w : Nat) : Int)).toNat

/-- An integer result in its type: wrapped, or clamped under MODE.SAT (R42). -/
def fitInt (sat signed : Bool) (w : Nat) (x : Int) : Nat :=
  wrapInt w (if sat then clampInt (intMin signed w) (intMax signed w) x else x)

/-- Elements put together, element 0 least significant; bits above the last element are 0 (R41). -/
def joinElems (w n : Nat) (f : Nat → Nat) : DWord :=
  BitVec.ofNat 64 (((List.range n).map (fun i => f i % 2 ^ w * 2 ^ (w * i))).sum)

/-- An operation on the elements of three operands under a type. -/
def onElems (t : Nat) (f : Nat → Nat → Nat → Nat) (a b c : DWord) : DWord :=
  joinElems (elemWidth t) (elemCount t) (fun i => f (elem t a i) (elem t b i) (elem t c i))

/-- An integer operation given by its exact value (R106). -/
def onInts (m : ModeWord) (f : Int → Int → Int → Int) (a b c : DWord) : DWord :=
  let t := modeType m
  let w := elemWidth t
  let v := intVal (signedType t) w
  onElems t (fun x y z => fitInt (modeSat m) (signedType t) w (f (v x) (v y) (v z))) a b c

/-- A float format: bits of exponent and fraction (R43, R47). -/
structure Fmt where
  eb : Nat
  fb : Nat
  deriving DecidableEq, Repr

def fp32 : Fmt := ⟨8, 23⟩
def fp16 : Fmt := ⟨5, 10⟩
def bf16 : Fmt := ⟨8, 7⟩
def e36 : Fmt := ⟨8, 27⟩

def Fmt.bits (f : Fmt) : Nat := 1 + f.eb + f.fb
def Fmt.bias (f : Fmt) : Nat := 2 ^ (f.eb - 1) - 1
/-- The pattern of +infinity. -/
def Fmt.inf (f : Fmt) : Nat := (2 ^ f.eb - 1) * 2 ^ f.fb
/-- The canonical NaN (R44). -/
def Fmt.nan (f : Fmt) : Nat := f.inf + 2 ^ (f.fb - 1)
/-- The exponent of the unit in the last place of a subnormal. -/
def Fmt.low (f : Fmt) : Int := 1 - (f.bias : Int) - f.fb

/-- The value of a float: finite values are (−1)^neg × m × 2^e, a zero keeps its sign. -/
inductive FVal where
  | nan
  | inf (neg : Bool)
  | fin (neg : Bool) (m : Nat) (e : Int)
  deriving DecidableEq, Repr

/-- The value of a pattern of a format (R43). -/
def Fmt.value (f : Fmt) (p : Nat) : FVal :=
  let neg := p.testBit (f.eb + f.fb)
  let ex := p / 2 ^ f.fb % 2 ^ f.eb
  let fr := p % 2 ^ f.fb
  if ex = 2 ^ f.eb - 1 then (if fr = 0 then .inf neg else .nan)
  else if ex = 0 then .fin neg fr f.low
  else .fin neg (2 ^ f.fb + fr) (f.low + ex - 1)

/-- A quotient n with remainder r of divisor d rounded to an integer (R45). -/
def roundUp (rnd : Nat) (neg : Bool) (n r d : Nat) : Nat :=
  let up : Bool := match rnd with
    | 1 => false
    | 2 => !neg && decide (r ≠ 0)
    | 3 => neg && decide (r ≠ 0)
    | 4 => decide (d ≤ 2 * r)
    | _ => decide (d < 2 * r) || (decide (2 * r = d) && decide (n % 2 = 1))
  if up then n + 1 else n

/-- m × 2^e rounded to an integer multiple of 2^q, as that multiple (R45). -/
def roundAt (rnd : Nat) (neg : Bool) (m : Nat) (e q : Int) : Nat :=
  if q ≤ e then m * 2 ^ (e - q).toNat
  else
    let d := 2 ^ (q - e).toNat
    roundUp rnd neg (m / d) (m % d) d

/-- What a finite overflow gives (R45), without its sign. -/
def Fmt.overflow (f : Fmt) (rnd : Nat) (neg : Bool) : Nat :=
  match rnd with
  | 1 => f.inf - 1
  | 2 => if neg then f.inf - 1 else f.inf
  | 3 => if neg then f.inf else f.inf - 1
  | _ => f.inf

/-- The sign bit of a format. -/
def Fmt.sign (f : Fmt) (neg : Bool) : Nat := if neg then 2 ^ (f.eb + f.fb) else 0

/-- A value rounded to a format (R44, R45). -/
def Fmt.round (f : Fmt) (rnd : Nat) (v : FVal) : Nat :=
  match v with
  | .nan => f.nan
  | .inf neg => f.sign neg + f.inf
  | .fin neg m e =>
    if m = 0 then f.sign neg
    else
      let q := max (e + Nat.log2 m - f.fb) f.low
      let p := (q - f.low).toNat * 2 ^ f.fb + roundAt rnd neg m e q
      f.sign neg + (if f.inf ≤ p then f.overflow rnd neg else p)

/-- A value negated; a NaN stays NaN. -/
def FVal.neg (v : FVal) : FVal :=
  match v with
  | .nan => .nan
  | .inf s => .inf (!s)
  | .fin s m e => .fin (!s) m e

/-- The exact product; 0 × infinity is NaN (R113). -/
def FVal.mul (a b : FVal) : FVal :=
  match a, b with
  | .nan, _ | _, .nan => .nan
  | .inf s, .inf t => .inf (s != t)
  | .inf s, .fin t m _ => if m = 0 then .nan else .inf (s != t)
  | .fin s m _, .inf t => if m = 0 then .nan else .inf (s != t)
  | .fin s m e, .fin t n f => .fin (s != t) (m * n) (e + f)

/-- The value times 2^k. -/
def FVal.scale (v : FVal) (k : Int) : FVal :=
  match v with
  | .fin s m e => .fin s m (e + k)
  | v => v

def FVal.isNan (v : FVal) : Bool := decide (v = .nan)
def FVal.isInf (v : FVal) (neg : Bool) : Bool := decide (v = .inf neg)

/-- The least exponent of the finite values of a list. -/
def lowExp : List FVal → Option Int
  | [] => none
  | .fin _ _ e :: r =>
    match lowExp r with
    | some k => some (min e k)
    | none => some e
  | _ :: r => lowExp r

/-- A finite value as a multiple of 2^k, k being no greater than its exponent. -/
def FVal.units (v : FVal) (k : Int) : Int :=
  match v with
  | .fin s m e => if s then -((m * 2 ^ (e - k).toNat : Nat) : Int) else ((m * 2 ^ (e - k).toNat : Nat) : Int)
  | _ => 0

/-- The exact sum of values (R45, R113, R118): NaN if one is or if infinities oppose; a zero sum of
zeros of one sign keeps it, any other zero sum is +0, or −0 under RDN. -/
def FVal.sum (rnd : Nat) (vs : List FVal) : FVal :=
  if vs.any FVal.isNan ∨ (vs.any (FVal.isInf · true) ∧ vs.any (FVal.isInf · false)) then .nan
  else if vs.any (FVal.isInf · true) then .inf true
  else if vs.any (FVal.isInf · false) then .inf false
  else
    let k := (lowExp vs).getD 0
    let x := (vs.map (FVal.units · k)).sum
    if x = 0 then
      if vs ≠ [] ∧ vs.all (fun v => match v with | .fin s m _ => s && decide (m = 0) | _ => false) then .fin true 0 0
      else if vs.all (fun v => match v with | .fin s m _ => !s && decide (m = 0) | _ => false) then .fin false 0 0
      else .fin (decide (rnd = 3)) 0 0
    else .fin (decide (x < 0)) x.natAbs k

/-- A quotient of finite magnitudes to more bits than any format keeps: its last bit says whether the
division left a remainder, so it rounds as the exact quotient does. -/
def quotient (m : Nat) (e : Int) (n : Nat) (f : Int) : Nat × Int :=
  let k := 96 + Nat.log2 n
  (2 * (m * 2 ^ k / n) + (if m * 2 ^ k % n = 0 then 0 else 1), e - f - k - 1)

/-- A ÷ B (R113, R115). -/
def FVal.div (a b : FVal) : FVal :=
  match a, b with
  | .nan, _ | _, .nan => .nan
  | .inf _, .inf _ => .nan
  | .inf s, .fin t _ _ => .inf (s != t)
  | .fin s _ _, .inf t => .fin (s != t) 0 0
  | .fin s m e, .fin t n f =>
    if n = 0 then (if m = 0 then .nan else .inf (s != t))
    else
      let q := quotient m e n f
      .fin (s != t) q.1 q.2

/-- The integer square root of n, from the trial of bit k − 1 down, above `r`. -/
def rootBits (n : Nat) : Nat → Nat → Nat
  | 0, r => r
  | k + 1, r => if (r + 2 ^ k) * (r + 2 ^ k) ≤ n then rootBits n k (r + 2 ^ k) else rootBits n k r

/-- The square root of a finite magnitude to more bits than any format keeps, its last bit saying
whether it is exact. -/
def rootOf (m : Nat) (e : Int) : Nat × Int :=
  let odd := e % 2 ≠ 0
  let x := (if odd then 2 * m else m) * 2 ^ 160
  let r := rootBits x 128 0
  (2 * r + (if r * r = x then 0 else 1), (if odd then e - 1 else e) / 2 - 81)

/-- √A (R115). -/
def FVal.sqrt (a : FVal) : FVal :=
  match a with
  | .nan => .nan
  | .inf s => if s then .nan else .inf false
  | .fin s m e => if m = 0 then .fin s 0 0 else if s then .nan else .fin false (rootOf m e).1 (rootOf m e).2

/-- 1/√A (R115): the root of the reciprocal 2^320 / m. -/
def FVal.rsqrt (a : FVal) : FVal :=
  match a with
  | .nan => .nan
  | .inf s => if s then .nan else .fin false 0 0
  | .fin s m e =>
    if m = 0 then .inf s
    else if s then .nan
    else
      let n := if e % 2 ≠ 0 then 2 * m else m
      let f := if e % 2 ≠ 0 then e - 1 else e
      let r := rootBits (2 ^ 320 / n) 161 0
      .fin false (2 * r + (if r * r * n = 2 ^ 320 then 0 else 1)) (-(f / 2) - 161)

/-- A number of 2^-192 units: the fraction bits of the bounds below. -/
def one192 : Nat := 2 ^ 192

/-- floor(π × 2^192) and floor(ln 2 × 2^192). -/
def pi192 : Nat := 0x3243F6A8885A308D313198A2E03707344A4093822299F31D0
def ln2c192 : Nat := 0xB17217F7D1CF79ABC9E3B39803F2F6AF40F343267298B62D

/-- The product of two numbers of units. -/
def mul192 (a b : Nat) : Nat := a * b / one192

/-- Bounds on a computed number of units: its error is below 2^-176 by far, since fewer than 2^8 terms
lose less than one unit each and the constants of the series are below 2^6. -/
def slack : Nat := 2 ^ 16

/-- e^x for 0 ≤ x < 1 in units: the sum of x^k / k! from term `t` of index k on. -/
def expSeries (x : Nat) : Nat → Nat → Nat → Nat
  | 0, _, _ => 0
  | n + 1, k, t => t + expSeries x n (k + 1) (mul192 t x / (k + 1))

def exp192 (x : Nat) : Nat := expSeries x 64 0 one192

/-- sin(√y)/√y in units, y given in units: the alternating sum from term `t` of index k on, as its
positive and its negative part. -/
def sinSeries (y : Nat) : Nat → Nat → Nat → Nat × Nat
  | 0, _, _ => (0, 0)
  | n + 1, k, t =>
    let r := sinSeries y n (k + 1) (mul192 t y / ((2 * k + 2) * (2 * k + 3)))
    (t + r.2, r.1)

/-- sin(πa)/a in units for a of units, 0 ≤ a ≤ 1/2. -/
def sinc192 (a : Nat) : Nat :=
  let x := mul192 pi192 a
  let r := sinSeries (mul192 x x) 40 0 one192
  mul192 pi192 (r.1 - r.2)

/-- The sum of z^(2k+1)/(2k+1) in units from power `p` = z^(2k+1) on. -/
def atanhSeries (z2 : Nat) : Nat → Nat → Nat → Nat
  | 0, _, _ => 0
  | n + 1, k, p => p / (2 * k + 1) + atanhSeries z2 n (k + 1) (mul192 p z2)

/-- ln m in units for m of units, 1 ≤ m < 2. -/
def ln192 (m : Nat) : Nat :=
  let z := (m - one192) * one192 / (m + one192)
  2 * atanhSeries (mul192 z z) 80 0 z

/-- A result between two bounds in units of 2^u, both positive, rounded (R116): where the bounds do not
decide the rounding, the value is left free (log 19). -/
def Fmt.between (f : Fmt) (fn pat rnd : Nat) (neg : Bool) (lo hi : Nat) (u : Int) : Nat :=
  let a := f.round rnd (.fin neg lo u)
  let b := f.round rnd (.fin neg hi u)
  if a = b then a else Config.closeCall fn pat rnd % 2 ^ f.bits

/-- A value that lies just below x × 2^e in magnitude, nearer than any rounding can tell (R116). -/
def FVal.below (neg : Bool) (m : Nat) (e : Int) : FVal := .fin neg (m * 2 ^ 64 - 1) (e - 64)
def FVal.above (neg : Bool) (m : Nat) (e : Int) : FVal := .fin neg (m * 2 ^ 64 + 1) (e - 64)

/-- m × 2^e in units, exact where its last bit is no less than 2^-192. -/
def units192 (m : Nat) (e : Int) : Nat :=
  if 0 ≤ e + 192 then m * 2 ^ (e + 192).toNat else m / 2 ^ (-(e + 192)).toNat

/-- The magnitude m × 2^e is below 2^k. -/
def magBelow (m : Nat) (e k : Int) : Bool := decide (m = 0) || decide (e + Nat.log2 m < k)

/-- 2^A (R116). Outside ±2^12 the result overflows or underflows as at those bounds. -/
def Fmt.exp2 (f : Fmt) (rnd p : Nat) : Nat :=
  match f.value p with
  | .nan => f.nan
  | .inf s => if s then 0 else f.inf
  | .fin s m e =>
    if m = 0 then f.round rnd (.fin false 1 0)
    else if !magBelow m e 12 then f.round rnd (.fin false 1 (if s then -4096 else 4096))
    else if magBelow m e (-64) then f.round rnd (if s then FVal.below false 1 0 else FVal.above false 1 0)
    else
      let x : Int := if s then -(units192 m e : Int) else units192 m e
      let n := x / (one192 : Int)
      let fr := (x % (one192 : Int)).toNat
      if fr = 0 then f.round rnd (.fin false 1 n)
      else
        let g := exp192 (mul192 fr ln2c192)
        f.between 0 p rnd false (g - slack) (g + slack) (n - 192)

/-- log₂A (R116). -/
def Fmt.log2 (f : Fmt) (rnd p : Nat) : Nat :=
  match f.value p with
  | .nan => f.nan
  | .inf s => if s then f.nan else f.inf
  | .fin s m e =>
    if m = 0 then f.sign true + f.inf
    else if s then f.nan
    else
      let l := Nat.log2 m
      let n := e + l
      if m = 2 ^ l then f.round rnd (.fin (decide (n < 0)) n.natAbs 0)
      else
        let g : Int := n * one192 + (ln192 (units192 m (-l)) * one192 / ln2c192 : Nat)
        f.between 1 p rnd (decide (g < 0)) (g.natAbs - slack) (g.natAbs + slack) (-192)

/-- sin(πa) for a magnitude m × 2^e in (0, 1/2), rounded. -/
def Fmt.sinHalf (f : Fmt) (fn pat rnd : Nat) (neg : Bool) (m : Nat) (e : Int) : Nat :=
  let g := sinc192 (units192 m e)
  f.between fn pat rnd neg (m * (g - slack)) (m * (g + slack)) (e - 192)

/-- The remainder of a magnitude modulo 2 in units of 2^k, k ≤ 0 and k ≤ e: a number below 2^(1 − k). -/
def modTwo (m : Nat) (e k : Int) : Nat := m * 2 ^ (e - k).toNat % 2 ^ (1 - k).toNat

/-- sin(πA) (R116). -/
def Fmt.sinpi (f : Fmt) (rnd p : Nat) : Nat :=
  match f.value p with
  | .nan | .inf _ => f.nan
  | .fin s m e =>
    let k := min e 0
    let r := modTwo m e k
    let u := 2 ^ (-k).toNat
    if r % u = 0 then f.sign s
    else
      let neg := s != decide (u ≤ r)
      let a := r % u
      let b := if u < 2 * a then u - a else a
      if 2 * b = u then f.round rnd (.fin neg 1 0) else f.sinHalf 2 p rnd neg b k

/-- cos(πA) (R116). -/
def Fmt.cospi (f : Fmt) (rnd p : Nat) : Nat :=
  match f.value p with
  | .nan | .inf _ => f.nan
  | .fin _ m e =>
    if m ≠ 0 ∧ magBelow m e (-48) then f.round rnd (FVal.below false 1 0)
    else
      let k := min e (-1)
      let r := modTwo m e k
      let u := 2 ^ (-k).toNat
      if r % u = 0 then f.round rnd (.fin (decide (u ≤ r)) 1 0)
      else
        let a := if u < r then 2 * u - r else r
        if 2 * a = u then 0
        else
          let neg := decide (u < 2 * a)
          let b := if neg then u - a else a
          f.sinHalf 3 p rnd neg (u - 2 * b) (k - 1)

/-- tanh A (R116). -/
def Fmt.tanh (f : Fmt) (rnd p : Nat) : Nat :=
  match f.value p with
  | .nan => f.nan
  | .inf s => f.round rnd (.fin s 1 0)
  | .fin s m e =>
    if m = 0 then f.sign s
    else if decide (f = fp32) && !magBelow m e 3 && decide (9 * one192 ≤ units192 m e) then
      f.round rnd (.fin s 1 0)
    else if magBelow m e (-40) then f.round rnd (FVal.below s m e)
    else if !magBelow m e 5 then f.round rnd (FVal.below s 1 0)
    else
      let y := 2 * units192 m e
      let n := y / ln2c192
      let g := one192 * one192 / exp192 (y % ln2c192) / 2 ^ n
      let num := one192 - g
      let den := one192 + g
      f.between 4 p rnd s ((num - slack) * one192 / (den + slack)) ((num + slack) * one192 / (den - slack) + 1) (-192)

/-- A − floor(A) rounded in RTZ (R117). -/
def Fmt.fract (f : Fmt) (p : Nat) : Nat :=
  match f.value p with
  | .nan | .inf _ => f.nan
  | .fin s m e =>
    if 0 ≤ e then 0
    else
      let d := 2 ^ (-e).toNat
      let r := m % d
      if r = 0 then 0 else f.round 1 (.fin false (if s then d - r else r) e)

/-- A rounded to an integral value, with the sign of A (R117). -/
def Fmt.integral (f : Fmt) (rnd p : Nat) : Nat :=
  match f.value p with
  | .nan => f.nan
  | .inf _ => p
  | .fin s m e => f.round rnd (.fin s (roundAt rnd s m e 0) 0)

/-- A × 2^n (R117). Beyond ±2^12 the result is that of ±2^12. -/
def Fmt.ldexp (f : Fmt) (rnd p : Nat) (n : Int) : Nat :=
  f.round rnd ((f.value p).scale (clampInt (-4096) 4096 n))

/-- The class mask of a pattern (R117). -/
def Fmt.class (f : Fmt) (p : Nat) : Nat :=
  let s := p.testBit (f.eb + f.fb)
  let ex := p / 2 ^ f.fb % 2 ^ f.eb
  let fr := p % 2 ^ f.fb
  let k : Nat :=
    if ex = 2 ^ f.eb - 1 then
      if fr = 0 then (if s then 2 else 9) else if fr.testBit (f.fb - 1) then 1 else 0
    else if ex = 0 then
      if fr = 0 then (if s then 5 else 6) else if s then 4 else 7
    else if s then 3 else 8
  2 ^ k

/-- The order of finite and infinite values with −0 below +0, as a number (R113). -/
def Fmt.order (f : Fmt) (p : Nat) : Int :=
  let mag := p % 2 ^ (f.eb + f.fb)
  if p.testBit (f.eb + f.fb) then -(mag : Int) - 1 else mag

/-- `fmin` and `fmax` (R113). -/
def Fmt.least (f : Fmt) (a b : Nat) : Nat :=
  if (f.value a).isNan then (if (f.value b).isNan then f.nan else b)
  else if (f.value b).isNan then a
  else if f.order b < f.order a then b else a

def Fmt.greatest (f : Fmt) (a b : Nat) : Nat :=
  if (f.value a).isNan then (if (f.value b).isNan then f.nan else b)
  else if (f.value b).isNan then a
  else if f.order a < f.order b then b else a

/-- A compares with B: less, equal with −0 = +0, greater; none if unordered (R121). -/
def Fmt.compare (f : Fmt) (a b : Nat) : Option Ordering :=
  if (f.value a).isNan || (f.value b).isNan then none
  else
    let v (p : Nat) : Int :=
      let mag := p % 2 ^ (f.eb + f.fb)
      if p.testBit (f.eb + f.fb) then -(mag : Int) else mag
    some (if v a < v b then .lt else if v a = v b then .eq else .gt)

/-- The format of a float element type (R16). -/
def fmtOf (t : Nat) : Fmt := if t = 5 then fp16 else if t = 6 then bf16 else fp32

/-- A value of an integer as a float value. -/
def FVal.ofInt (x : Int) (e : Int) : FVal := .fin (decide (x < 0)) x.natAbs e

/-- A float value as an integer in a range, rounded and clamped (R55). -/
def FVal.toInt (rnd : Nat) (signed : Bool) (w : Nat) (v : FVal) : Int :=
  match v with
  | .nan => 0
  | .inf s => if s then intMin signed w else intMax signed w
  | .fin s m e =>
    let n : Int := roundAt rnd s m e 0
    clampInt (intMin signed w) (intMax signed w) (if s then -n else n)

/-- The mantissas T of R50, the significands G of R54 and the thresholds' F of R53. -/
def l6T (f : Nat) : Nat := [4096, 4871, 5793, 6889].getD f 0
def l6G (f : Nat) : Nat := [0, 0x183800, 0x350800, 0x574800].getD f 0
def l6F (j : Nat) : Nat := [0x6AC0C7, 0x0B95C2, 0x25FED7, 0x45672A].getD j 0

/-- q of an L6 code (R49), and its integer and fraction parts. -/
def l6Q (c : Nat) : Int := intVal true 5 (c % 32)

/-- τ(q) as an FP32 pattern (R53). -/
def l6Tau (q : Int) : Nat :=
  let j := (q % 4).toNat
  (127 + q / 4 - (if j = 0 then 1 else 0)).toNat * 2 ^ 23 + l6F j

/-- FP32 to L6 (R53). -/
def toL6 (p : Nat) : Nat :=
  let mag := p % 2 ^ 31
  if fp32.inf < mag then 0x30
  else if mag < l6Tau (-15) then 0x10
  else
    let q : Int := ((((List.range 31).map (fun i : Nat => (i : Int) - 15)).filter (fun q => decide (l6Tau q ≤ mag))).getLast?).getD (-15)
    p / 2 ^ 31 * 32 + wrapInt 5 q

/-- L6 to FP32 (R54). -/
def ofL6 (c : Nat) : Nat :=
  if c % 64 = 0x10 then 0
  else if c % 64 = 0x30 then fp32.nan
  else
    let q := l6Q c
    c / 32 % 2 * 2 ^ 31 + (127 + q / 4).toNat * 2 ^ 23 + l6G (q % 4).toNat

/-- The value of an element of a float type or L6. -/
def floatElem (t p : Nat) : FVal := if t = 9 then fp32.value (ofL6 p) else (fmtOf t).value p

/-- A value rounded to an element of a float type or L6 (R53 to R55). -/
def toFloatElem (t rnd : Nat) (v : FVal) : Nat :=
  if t = 9 then toL6 (fp32.round rnd v) else (fmtOf t).round rnd v

/-- Adjacent nodes of the canonical tree combine; a lone child passes up (R56). -/
def treeLevel {α : Type} (op : α → α → α) : List (Option α) → List (Option α)
  | a :: b :: r =>
    (match a, b with
     | some x, some y => some (op x y)
     | some x, none => some x
     | none, y => y) :: treeLevel op r
  | l => l

/-- The root of the canonical pairwise tree over at most 2^n leaves (R56). -/
def treeRoot {α : Type} (op : α → α → α) : Nat → List (Option α) → Option α
  | 0, l => (l.head?).join
  | n + 1, l => treeRoot op n (treeLevel op l)

/-- Q36 values saturate (R48): the value and whether it was out of range. -/
def q36Clamp (x : Int) : Int := clampInt (intMin true 36) (intMax true 36) x

end Sys2Proof.Machine
end

