-- ==== Sys2Proof/Decode.lean ====
section
/-! DEFINITION. The decoder of one instruction word (R61 to R64, R73, R74), total on any word and
refusing by name, and the encoder, written from the formats of R62 and the words of each
instruction's own description. -/

namespace Sys2Proof

/-- What a word decodes to: an instruction; no instruction, since its op byte or sub value is
unassigned (R73); or a word in which a field that its instruction does not use is nonzero (R64). The
last names the instruction whose other fields the word holds: steps 2 and 3 of R72 look at them
before the reserved field is reported. -/
inductive Decoded where
  | ok (i : Instr)
  | unassigned (w : Word)
  | reserved (i : Instr)
  deriving DecidableEq, Repr

/-- The word of an instruction; the steps of the device have none. -/
def encode (i : Instr) : Option Word :=
  match i with
  | .nop => some (0x01#8 ++ 0#24)
  | .bra i => some (0x02#8 ++ i)
  | .bany n p i => some (0x03#8 ++ 0#4 ++ n ++ p ++ i)
  | .ball n p i => some (0x04#8 ++ 0#4 ++ n ++ p ++ i)
  | .call i => some (0x05#8 ++ i)
  | .ret a => some (0x06#8 ++ 0#8 ++ a ++ 0#8)
  | .brr a => some (0x07#8 ++ 0#8 ++ a ++ 0#8)
  | .brrL a => some (0x07#8 ++ 1#8 ++ a ++ 0#8)
  | .ifP n p i => some (0x08#8 ++ 0#4 ++ n ++ p ++ i)
  | .elseP i => some (0x09#8 ++ 0#8 ++ i)
  | .endif => some (0x0A#8 ++ 0#24)
  | .loop c i => some (0x0B#8 ++ c ++ i)
  | .loopr d i => some (0x0C#8 ++ d ++ i)
  | .lbrk => some (0x0D#8 ++ 0#24)
  | .regang => some (0x0E#8 ++ 0#24)
  | .exit => some (0x0F#8 ++ 0#24)
  | .yield => some (0x10#8 ++ 0#24)
  | .mode i => some (0x11#8 ++ 0#8 ++ i)
  | .mtype t => some (0x12#8 ++ 0#20 ++ t)
  | .mrnd r => some (0x13#8 ++ 0#21 ++ r)
  | .mguard g n p => some (0x14#8 ++ 0#19 ++ g ++ n ++ p)
  | .mfs d sr => some (0x15#8 ++ d ++ 0#6 ++ sr)
  | .mts d sr => some (0x16#8 ++ d ++ 0#6 ++ sr)
  | .trap i => some (0x17#8 ++ 0#8 ++ i)
  | .rti => some (0x18#8 ++ 0#24)
  | .sysKill => some (0x19#8 ++ 1#8 ++ 0#16)
  | .sysAbort n => some (0x19#8 ++ 2#8 ++ n ++ 0#8)
  | .brk i => some (0x1A#8 ++ 0#8 ++ i)
  | .pause i => some (0x1B#8 ++ 0#8 ++ i)
  | .add d a b => some (0x20#8 ++ d ++ a ++ b)
  | .sub d a b => some (0x21#8 ++ d ++ a ++ b)
  | .mul d a b => some (0x22#8 ++ d ++ a ++ b)
  | .mulhi d a b => some (0x23#8 ++ d ++ a ++ b)
  | .mad d a b => some (0x24#8 ++ d ++ a ++ b)
  | .div d a b => some (0x25#8 ++ d ++ a ++ b)
  | .rem d a b => some (0x26#8 ++ d ++ a ++ b)
  | .neg d a => some (0x27#8 ++ d ++ a ++ 0#8)
  | .abs d a => some (0x28#8 ++ d ++ a ++ 0#8)
  | .min d a b => some (0x29#8 ++ d ++ a ++ b)
  | .max d a b => some (0x2A#8 ++ d ++ a ++ b)
  | .and d a b => some (0x2B#8 ++ d ++ a ++ b)
  | .or d a b => some (0x2C#8 ++ d ++ a ++ b)
  | .xor d a b => some (0x2D#8 ++ d ++ a ++ b)
  | .not d a => some (0x2E#8 ++ d ++ a ++ 0#8)
  | .andn d a b => some (0x2F#8 ++ d ++ a ++ b)
  | .shl d a b => some (0x30#8 ++ d ++ a ++ b)
  | .shr d a b => some (0x31#8 ++ d ++ a ++ b)
  | .sar d a b => some (0x32#8 ++ d ++ a ++ b)
  | .rol d a b => some (0x33#8 ++ d ++ a ++ b)
  | .ror d a b => some (0x34#8 ++ d ++ a ++ b)
  | .popc d a => some (0x35#8 ++ d ++ a ++ 0#8)
  | .clz d a => some (0x36#8 ++ d ++ a ++ 0#8)
  | .ctz d a => some (0x37#8 ++ d ++ a ++ 0#8)
  | .brev d a => some (0x38#8 ++ d ++ a ++ 0#8)
  | .bfx d a b => some (0x39#8 ++ d ++ a ++ b)
  | .bfi d a b => some (0x3A#8 ++ d ++ a ++ b)
  | .mov d b => some (0x3B#8 ++ d ++ 0#8 ++ b)
  | .movi d i => some (0x3C#8 ++ d ++ i)
  | .movhi d i => some (0x3D#8 ++ d ++ i)
  | .addi d i => some (0x3E#8 ++ d ++ i)
  | .fadd d a b => some (0x60#8 ++ d ++ a ++ b)
  | .fsub d a b => some (0x61#8 ++ d ++ a ++ b)
  | .fmul d a b => some (0x62#8 ++ d ++ a ++ b)
  | .fma d a b => some (0x63#8 ++ d ++ a ++ b)
  | .fms d a b => some (0x64#8 ++ d ++ a ++ b)
  | .fnma d a b => some (0x65#8 ++ d ++ a ++ b)
  | .fmin d a b => some (0x66#8 ++ d ++ a ++ b)
  | .fmax d a b => some (0x67#8 ++ d ++ a ++ b)
  | .fabs d a => some (0x68#8 ++ d ++ a ++ 0#8)
  | .fneg d a => some (0x69#8 ++ d ++ a ++ 0#8)
  | .fcps d a b => some (0x6A#8 ++ d ++ a ++ b)
  | .fdiv d a b => some (0x6B#8 ++ d ++ a ++ b)
  | .rcp d a => some (0x6C#8 ++ d ++ a ++ 0#8)
  | .rsq d a => some (0x6D#8 ++ d ++ a ++ 0#8)
  | .sqrt d a => some (0x6E#8 ++ d ++ a ++ 0#8)
  | .exp2 d a => some (0x6F#8 ++ d ++ a ++ 0#8)
  | .log2 d a => some (0x70#8 ++ d ++ a ++ 0#8)
  | .sinpi d a => some (0x71#8 ++ d ++ a ++ 0#8)
  | .cospi d a => some (0x72#8 ++ d ++ a ++ 0#8)
  | .tanh d a => some (0x73#8 ++ d ++ a ++ 0#8)
  | .frnd d a => some (0x74#8 ++ d ++ a ++ 0#8)
  | .fract d a => some (0x75#8 ++ d ++ a ++ 0#8)
  | .ldexp d a b => some (0x76#8 ++ d ++ a ++ b)
  | .fclass d a => some (0x77#8 ++ d ++ a ++ 0#8)
  | .fdot d a b => some (0x78#8 ++ d ++ a ++ b)
  | .cvt d a k t => some (0x80#8 ++ d ++ a ++ 0#1 ++ k ++ t)
  | .cvtfi d a k t => some (0x81#8 ++ d ++ a ++ 0#1 ++ k ++ t)
  | .cvtif d a k t => some (0x82#8 ++ d ++ a ++ 0#1 ++ k ++ t)
  | .cvtii d a k t => some (0x83#8 ++ d ++ a ++ 0#1 ++ k ++ t)
  | .pack d a b => some (0x84#8 ++ d ++ a ++ b)
  | .unpk d a h => some (0x85#8 ++ d ++ a ++ 0#7 ++ h)
  | .cmp any cc p a b => some (0x90#8 ++ 0#1 ++ any ++ cc ++ p ++ a ++ b)
  | .fcmp any cc p a b => some (0x91#8 ++ 0#1 ++ any ++ cc ++ p ++ a ++ b)
  | .tst z p a b => some (0x92#8 ++ 0#4 ++ z ++ p ++ a ++ b)
  | .sel d a b => some (0x93#8 ++ d ++ a ++ b)
  | .plog f pd pa pb => some (0x94#8 ++ 0#1 ++ f ++ pd ++ 0#5 ++ pa ++ 0#5 ++ pb)
  | .pmovGet d => some (0x95#8 ++ d ++ 0#8 ++ 0#8)
  | .pmovSet a => some (0x95#8 ++ 0#8 ++ a ++ 1#8)
  | .clamp d a b => some (0x96#8 ++ d ++ a ++ b)
  | .fclamp d a b => some (0x97#8 ++ d ++ a ++ b)
  | .red d a o => some (0x98#8 ++ d ++ a ++ 0#5 ++ o)
  | .fred d a o => some (0x99#8 ++ d ++ a ++ 0#6 ++ o)
  | .scan d a x o => some (0x9A#8 ++ d ++ a ++ 0#4 ++ x ++ o)
  | .fscan d a x o => some (0x9B#8 ++ d ++ a ++ 0#4 ++ x ++ 0#1 ++ o)
  | .vote d n p => some (0x9C#8 ++ d ++ 0#4 ++ n ++ p ++ 0#8)
  | .lid d => some (0x9D#8 ++ d ++ 0#16)
  | .ld8 d a o => some (0xA0#8 ++ d ++ a ++ o)
  | .ld16 d a o => some (0xA1#8 ++ d ++ a ++ o)
  | .ld32 d a o => some (0xA2#8 ++ d ++ a ++ o)
  | .ld64 d a o => some (0xA3#8 ++ d ++ a ++ o)
  | .ld128 d a o => some (0xA4#8 ++ d ++ a ++ o)
  | .st8 d a o => some (0xA5#8 ++ d ++ a ++ o)
  | .st16 d a o => some (0xA6#8 ++ d ++ a ++ o)
  | .st32 d a o => some (0xA7#8 ++ d ++ a ++ o)
  | .st64 d a o => some (0xA8#8 ++ d ++ a ++ o)
  | .st128 d a o => some (0xA9#8 ++ d ++ a ++ o)
  | .ldw d a o => some (0xAA#8 ++ d ++ a ++ o)
  | .chk i => some (0xAB#8 ++ i)
  | .ldl d a o => some (0xAC#8 ++ d ++ a ++ o)
  | .stl d a o => some (0xAD#8 ++ d ++ a ++ o)
  | .pfL1 a o => some (0xAE#8 ++ 0#8 ++ a ++ o)
  | .pfL2 a o => some (0xAE#8 ++ 1#8 ++ a ++ o)
  | .wb a o => some (0xAF#8 ++ 0#8 ++ a ++ o)
  | .inv a o => some (0xB0#8 ++ 0#8 ++ a ++ o)
  | .atadd d a b => some (0xC0#8 ++ d ++ a ++ b)
  | .atmin d a b => some (0xC1#8 ++ d ++ a ++ b)
  | .atmax d a b => some (0xC2#8 ++ d ++ a ++ b)
  | .atand d a b => some (0xC3#8 ++ d ++ a ++ b)
  | .ator d a b => some (0xC4#8 ++ d ++ a ++ b)
  | .atxor d a b => some (0xC5#8 ++ d ++ a ++ b)
  | .atxchg d a b => some (0xC6#8 ++ d ++ a ++ b)
  | .atcas d a b => some (0xC7#8 ++ d ++ a ++ b)
  | .atqadd d a b => some (0xC8#8 ++ d ++ a ++ b)
  | .acq d a => some (0xC9#8 ++ d ++ a ++ 0#8)
  | .rel d a => some (0xCA#8 ++ d ++ a ++ 0#8)
  | .bind d a b => some (0xCB#8 ++ d ++ a ++ b)
  | .unbind d a b => some (0xCC#8 ++ d ++ a ++ b)
  | .fence scope => some (0xCD#8 ++ scope ++ 0#16)
  | .bar id n => some (0xCE#8 ++ 0#4 ++ id ++ n)
  | .barvArrive id n => some (0xCF#8 ++ 1#8 ++ id ++ n)
  | .barvWait id => some (0xCF#8 ++ 2#8 ++ id ++ 0#8)
  | .fetake a => some (0xCF#8 ++ 3#8 ++ a ++ 0#8)
  | .feput a b => some (0xCF#8 ++ 4#8 ++ a ++ b)
  | .fetest p b => some (0xCF#8 ++ 5#8 ++ 0#5 ++ p ++ b)
  | .wshare a b => some (0xCF#8 ++ 6#8 ++ a ++ b)
  | .acqw a b => some (0xCF#8 ++ 7#8 ++ a ++ b)
  | .cbar id => some (0xCF#8 ++ 8#8 ++ 0#4 ++ id ++ 0#8)
  | .cbarArrive id => some (0xCF#8 ++ 9#8 ++ 0#4 ++ id ++ 0#8)
  | .cbarWait id => some (0xCF#8 ++ 10#8 ++ 0#4 ++ id ++ 0#8)
  | .tld ch t a b => some (0xD0#8 ++ 0#2 ++ ch ++ t ++ a ++ b)
  | .tsto ch t a b => some (0xD1#8 ++ 0#2 ++ ch ++ t ++ a ++ b)
  | .tmma c a b => some (0xD2#8 ++ 0#6 ++ c ++ 0#4 ++ a ++ 0#4 ++ b)
  | .ttr c a => some (0xD3#8 ++ 0#6 ++ c ++ 0#4 ++ a ++ 0#8)
  | .tperm c a b => some (0xD4#8 ++ 0#6 ++ c ++ 0#4 ++ a ++ b)
  | .tred c a => some (0xD5#8 ++ 0#6 ++ c ++ 0#4 ++ a ++ 0#8)
  | .azero c => some (0xD6#8 ++ 0#6 ++ c ++ 0#16)
  | .amov d e c col => some (0xD7#8 ++ d ++ e ++ c ++ col)
  | .amovt t c e => some (0xD8#8 ++ 0#4 ++ t ++ 0#6 ++ c ++ e)
  | .acvt c f e => some (0xD9#8 ++ 0#6 ++ c ++ 0#7 ++ f ++ e)
  | .asave c => some (0xDA#8 ++ 0#6 ++ c ++ 0#16)
  | .arest c => some (0xDB#8 ++ 0#6 ++ c ++ 0#16)
  | .tmvGet d t row => some (0xDC#8 ++ d ++ 0#1 ++ 0#3 ++ t ++ row)
  | .tmvPut d t row => some (0xDC#8 ++ d ++ 1#1 ++ 0#3 ++ t ++ row)
  | .tfill t b => some (0xDD#8 ++ 0#4 ++ t ++ 0#8 ++ b)
  | .copy d a b => some (0xE0#8 ++ d ++ a ++ b)
  | .copyf ch t a b => some (0xE1#8 ++ 0#2 ++ ch ++ t ++ a ++ b)
  | .gath d a b => some (0xE2#8 ++ d ++ a ++ b)
  | .scat d a b => some (0xE3#8 ++ d ++ a ++ b)
  | .mcast d a b => some (0xE4#8 ++ d ++ a ++ b)
  | .cfill d a b => some (0xE5#8 ++ d ++ a ++ b)
  | .wait cls n => some (0xE6#8 ++ 0#5 ++ cls ++ 0#10 ++ n)
  | .cwp d ch => some (0xE7#8 ++ d ++ 0#14 ++ ch)
  | .qcall d r n c => some (0xE8#8 ++ d ++ r ++ n ++ c)
  | .qwait d r => some (0xE9#8 ++ d ++ 0#11 ++ r)
  | .qpoll d c => some (0xEA#8 ++ d ++ 0#10 ++ c)
  | .send d c => some (0xEB#8 ++ d ++ 0#10 ++ c)
  | .recv d c => some (0xEC#8 ++ d ++ 0#10 ++ c)
  | .chinfo d c => some (0xED#8 ++ d ++ 0#10 ++ c)
  | .cluPbc a id => some (0xF0#8 ++ 1#8 ++ a ++ id)
  | .cluCstat a b => some (0xF0#8 ++ 2#8 ++ a ++ b)
  | .xltInv a b => some (0xF1#8 ++ 1#8 ++ a ++ b)
  | .xltProbe a b => some (0xF1#8 ++ 2#8 ++ a ++ b)
  | .xltReplay b => some (0xF1#8 ++ 3#8 ++ 0#8 ++ b)
  | .xltCancel b => some (0xF1#8 ++ 4#8 ++ 0#8 ++ b)
  | .xltFblk a b => some (0xF1#8 ++ 5#8 ++ a ++ b)
  | .xltFmove a b => some (0xF1#8 ++ 6#8 ++ a ++ b)
  | .xltFunblk a b => some (0xF1#8 ++ 7#8 ++ a ++ b)
  | .ckpPreg a b => some (0xF2#8 ++ 1#8 ++ a ++ b)
  | .ckpGreg a b => some (0xF2#8 ++ 2#8 ++ a ++ b)
  | .ckpUnreg a b => some (0xF2#8 ++ 3#8 ++ a ++ b)
  | .ckpGlaunch a b => some (0xF2#8 ++ 4#8 ++ a ++ b)
  | .ckpGstat a b => some (0xF2#8 ++ 5#8 ++ a ++ b)
  | .ckpTake a b => some (0xF2#8 ++ 6#8 ++ a ++ b)
  | .ckpRoll a b => some (0xF2#8 ++ 7#8 ++ a ++ b)
  | .ckpDrain a b => some (0xF2#8 ++ 8#8 ++ a ++ b)
  | .ckpRestore a b => some (0xF2#8 ++ 9#8 ++ a ++ b)
  | .ckpEpnew b => some (0xF2#8 ++ 10#8 ++ 0#8 ++ b)
  | .ckpDeadline a b => some (0xF2#8 ++ 11#8 ++ a ++ b)
  | .ckpBudget a b => some (0xF2#8 ++ 12#8 ++ a ++ b)
  | .dbgAttach a b => some (0xF3#8 ++ 1#8 ++ a ++ b)
  | .dbgDetach b => some (0xF3#8 ++ 2#8 ++ 0#8 ++ b)
  | .dbgWpset w b => some (0xF3#8 ++ 3#8 ++ w ++ b)
  | .dbgStop b => some (0xF3#8 ++ 4#8 ++ 0#8 ++ b)
  | .dbgGo b => some (0xF3#8 ++ 5#8 ++ 0#8 ++ b)
  | .dbgStep b => some (0xF3#8 ++ 6#8 ++ 0#8 ++ b)
  | .dbgRd a b => some (0xF3#8 ++ 7#8 ++ a ++ b)
  | .dbgWr a b => some (0xF3#8 ++ 8#8 ++ a ++ b)
  | .dbgWait b => some (0xF3#8 ++ 9#8 ++ 0#8 ++ b)
  | .dbgFreeze b => some (0xF3#8 ++ 16#8 ++ 0#8 ++ b)
  | .dbgThaw b => some (0xF3#8 ++ 17#8 ++ 0#8 ++ b)
  | .dbgWhy a b => some (0xF3#8 ++ 18#8 ++ a ++ b)
  | .dbgVwpset w b => some (0xF3#8 ++ 19#8 ++ w ++ b)
  | .modgShare a b => some (0xF4#8 ++ 1#8 ++ a ++ b)
  | .modgUnshare a b => some (0xF4#8 ++ 2#8 ++ a ++ b)
  | .modgFork a b => some (0xF4#8 ++ 3#8 ++ a ++ b)
  | .modgKey a b => some (0xF4#8 ++ 4#8 ++ a ++ b)
  | .modgFassign a b => some (0xF4#8 ++ 5#8 ++ a ++ b)
  | .modgMigr a b => some (0xF4#8 ++ 6#8 ++ a ++ b)
  | .modgMdone a b => some (0xF4#8 ++ 7#8 ++ a ++ b)
  | .modgHeal a b => some (0xF4#8 ++ 8#8 ++ a ++ b)
  | .modgSopen a b => some (0xF4#8 ++ 9#8 ++ a ++ b)
  | .modgSclose a b => some (0xF4#8 ++ 10#8 ++ a ++ b)
  | .pauseExpiry => none
  | .resultWrite => none
  | .qcallAppend => none
  | .sendAppend => none
  | .producerDelivery => none
  | .returnRecord => none
  | .unitFaultTrap => none
  | .trapEntry => none
  | .teamLaunch => none
  | .teamExit => none
  | .commandFire => none
  | .commandRetire => none
  | .copyDelivery => none
  | .followOnPush => none
  | .mxReset => none
  | .crewLaunch => none
  | .mcastFillLand => none
  | .drainSave => none
  | .drainDeadline => none
  | .timeSliceEnd => none
  | .accessAtHome => none
  | .leaseRenewal => none
  | .confirmationRequest => none
  | .watchConfirm => none
  | .watchStrike => none
  | .watchTimeout => none
  | .versionReport => none
  | .stopRecords => none
  | .stepWindowClose => none
  | .recordReserve => none
  | .recordCommit => none
  | .instanceStart => none
  | .phaseComplete => none
  | .budgetWindow => none
  | .dieTemperature => none
  | .thermtrip => none
  | .cutAttempt => none
  | .cut => none
  | .cutWaitExpiry => none
  | .cutRetry => none
  | .rollback => none
  | .vrOpen => none
  | .vrPrim => none
  | .vrDone => none
  | .vrWaitf => none
  | .vrSlotFinal => none
  | .buOpenf => none
  | .buBin => none
  | .buClose => none
  | .bluOpen => none
  | .bluFrag => none
  | .bluDone => none
  | .bluWaitf => none
  | .bluCommit => none
  | .tfuSample => none
  | .ryuTrace => none
  | .bvoStart => none
  | .bvoStop => none
  | .bvoSubtreeReplace => none
  | .fenOpens => none
  | .fenFrame => none
  | .fenRelease => none
  | .fenCloses => none
  | .unitReset => none
  | .faultRecordWrite => none
  | .gangUnpark => none
  | .hang => none
  | .uncorrectableError => none
  | .correctableError => none
  | .pcmdCommit => none
  | .pcmdRelease => none
  | .doorbell => none
  | .attcmdGo => none
  | .attestationDone => none
  | .dbgcmdFreeze => none
  | .dbgcmdThaw => none
  | .dbgdataRead => none
  | .dbgdataWrite => none
  | .errCounterWrite => none
  | .mgmtRegisterWrite => none
  | .priResponse => none
  | .atsTranslationResponse => none
  | .atsInvalidation => none
  | .moduleResetRelease => none
  | .flitCheckFail => none
  | .portDown => none
  | .collectiveAllreduce => none
  | .collectiveBroadcast => none
  | .collectiveResult => none
  | .illegalOpcode => none
  | .sequenceFetch => none
  | .hostPostedWrite => none
  | .moduleReset => none
  | .moduleLeavesArmada => none
  | .portRetrained => none
  | .routesRecomputed => none

/-- `brr` and `brr.l` by bits [23:16] (R86). -/
def decodeBrr (sub : Nat) (w : Word) : Option Instr :=
  match sub with
  | 0x00 => some (.brr (w.extractLsb' 8 8))
  | _ => some (.brrL (w.extractLsb' 8 8))

/-- The `sys` group by its sub value (R101). -/
def decodeSys (sub : Nat) (w : Word) : Option Instr :=
  match sub with
  | 0x01 => some .sysKill
  | 0x02 => some (.sysAbort (w.extractLsb' 8 8))
  | _ => none

/-- `pmov` by bits [7:0]. -/
def decodePmov (sub : Nat) (w : Word) : Option Instr :=
  match sub with
  | 0x00 => some (.pmovGet (w.extractLsb' 16 8))
  | _ => some (.pmovSet (w.extractLsb' 8 8))

/-- `pf` by bits [23:16]. -/
def decodePf (sub : Nat) (w : Word) : Option Instr :=
  match sub with
  | 0x00 => some (.pfL1 (w.extractLsb' 8 8) (w.extractLsb' 0 8))
  | _ => some (.pfL2 (w.extractLsb' 8 8) (w.extractLsb' 0 8))

/-- The group 0xCF by its sub value. -/
def decodeSync (sub : Nat) (w : Word) : Option Instr :=
  match sub with
  | 0x01 => some (.barvArrive (w.extractLsb' 8 8) (w.extractLsb' 0 8))
  | 0x02 => some (.barvWait (w.extractLsb' 8 8))
  | 0x03 => some (.fetake (w.extractLsb' 8 8))
  | 0x04 => some (.feput (w.extractLsb' 8 8) (w.extractLsb' 0 8))
  | 0x05 => some (.fetest (w.extractLsb' 8 3) (w.extractLsb' 0 8))
  | 0x06 => some (.wshare (w.extractLsb' 8 8) (w.extractLsb' 0 8))
  | 0x07 => some (.acqw (w.extractLsb' 8 8) (w.extractLsb' 0 8))
  | 0x08 => some (.cbar (w.extractLsb' 8 4))
  | 0x09 => some (.cbarArrive (w.extractLsb' 8 4))
  | 0x0A => some (.cbarWait (w.extractLsb' 8 4))
  | _ => none

/-- `tmv` by bit 15. -/
def decodeTmv (sub : Nat) (w : Word) : Option Instr :=
  match sub with
  | 0x00 => some (.tmvGet (w.extractLsb' 16 8) (w.extractLsb' 8 4) (w.extractLsb' 0 8))
  | _ => some (.tmvPut (w.extractLsb' 16 8) (w.extractLsb' 8 4) (w.extractLsb' 0 8))

/-- The `clu` group by its sub value. -/
def decodeClu (sub : Nat) (w : Word) : Option Instr :=
  match sub with
  | 0x01 => some (.cluPbc (w.extractLsb' 8 8) (w.extractLsb' 0 8))
  | 0x02 => some (.cluCstat (w.extractLsb' 8 8) (w.extractLsb' 0 8))
  | _ => none

/-- The `xlt` group by its sub value. -/
def decodeXlt (sub : Nat) (w : Word) : Option Instr :=
  match sub with
  | 0x01 => some (.xltInv (w.extractLsb' 8 8) (w.extractLsb' 0 8))
  | 0x02 => some (.xltProbe (w.extractLsb' 8 8) (w.extractLsb' 0 8))
  | 0x03 => some (.xltReplay (w.extractLsb' 0 8))
  | 0x04 => some (.xltCancel (w.extractLsb' 0 8))
  | 0x05 => some (.xltFblk (w.extractLsb' 8 8) (w.extractLsb' 0 8))
  | 0x06 => some (.xltFmove (w.extractLsb' 8 8) (w.extractLsb' 0 8))
  | 0x07 => some (.xltFunblk (w.extractLsb' 8 8) (w.extractLsb' 0 8))
  | _ => none

/-- The `ckp` group by its sub value. -/
def decodeCkp (sub : Nat) (w : Word) : Option Instr :=
  match sub with
  | 0x01 => some (.ckpPreg (w.extractLsb' 8 8) (w.extractLsb' 0 8))
  | 0x02 => some (.ckpGreg (w.extractLsb' 8 8) (w.extractLsb' 0 8))
  | 0x03 => some (.ckpUnreg (w.extractLsb' 8 8) (w.extractLsb' 0 8))
  | 0x04 => some (.ckpGlaunch (w.extractLsb' 8 8) (w.extractLsb' 0 8))
  | 0x05 => some (.ckpGstat (w.extractLsb' 8 8) (w.extractLsb' 0 8))
  | 0x06 => some (.ckpTake (w.extractLsb' 8 8) (w.extractLsb' 0 8))
  | 0x07 => some (.ckpRoll (w.extractLsb' 8 8) (w.extractLsb' 0 8))
  | 0x08 => some (.ckpDrain (w.extractLsb' 8 8) (w.extractLsb' 0 8))
  | 0x09 => some (.ckpRestore (w.extractLsb' 8 8) (w.extractLsb' 0 8))
  | 0x0A => some (.ckpEpnew (w.extractLsb' 0 8))
  | 0x0B => some (.ckpDeadline (w.extractLsb' 8 8) (w.extractLsb' 0 8))
  | 0x0C => some (.ckpBudget (w.extractLsb' 8 8) (w.extractLsb' 0 8))
  | _ => none

/-- The `dbg` group by its sub value. -/
def decodeDbg (sub : Nat) (w : Word) : Option Instr :=
  match sub with
  | 0x01 => some (.dbgAttach (w.extractLsb' 8 8) (w.extractLsb' 0 8))
  | 0x02 => some (.dbgDetach (w.extractLsb' 0 8))
  | 0x03 => some (.dbgWpset (w.extractLsb' 8 8) (w.extractLsb' 0 8))
  | 0x04 => some (.dbgStop (w.extractLsb' 0 8))
  | 0x05 => some (.dbgGo (w.extractLsb' 0 8))
  | 0x06 => some (.dbgStep (w.extractLsb' 0 8))
  | 0x07 => some (.dbgRd (w.extractLsb' 8 8) (w.extractLsb' 0 8))
  | 0x08 => some (.dbgWr (w.extractLsb' 8 8) (w.extractLsb' 0 8))
  | 0x09 => some (.dbgWait (w.extractLsb' 0 8))
  | 0x10 => some (.dbgFreeze (w.extractLsb' 0 8))
  | 0x11 => some (.dbgThaw (w.extractLsb' 0 8))
  | 0x12 => some (.dbgWhy (w.extractLsb' 8 8) (w.extractLsb' 0 8))
  | 0x13 => some (.dbgVwpset (w.extractLsb' 8 8) (w.extractLsb' 0 8))
  | _ => none

/-- The `modg` group by its sub value. -/
def decodeModg (sub : Nat) (w : Word) : Option Instr :=
  match sub with
  | 0x01 => some (.modgShare (w.extractLsb' 8 8) (w.extractLsb' 0 8))
  | 0x02 => some (.modgUnshare (w.extractLsb' 8 8) (w.extractLsb' 0 8))
  | 0x03 => some (.modgFork (w.extractLsb' 8 8) (w.extractLsb' 0 8))
  | 0x04 => some (.modgKey (w.extractLsb' 8 8) (w.extractLsb' 0 8))
  | 0x05 => some (.modgFassign (w.extractLsb' 8 8) (w.extractLsb' 0 8))
  | 0x06 => some (.modgMigr (w.extractLsb' 8 8) (w.extractLsb' 0 8))
  | 0x07 => some (.modgMdone (w.extractLsb' 8 8) (w.extractLsb' 0 8))
  | 0x08 => some (.modgHeal (w.extractLsb' 8 8) (w.extractLsb' 0 8))
  | 0x09 => some (.modgSopen (w.extractLsb' 8 8) (w.extractLsb' 0 8))
  | 0x0A => some (.modgSclose (w.extractLsb' 8 8) (w.extractLsb' 0 8))
  | _ => none

/-- The instruction that an op byte and, for some, the sub value of the word select (R73, R74), with the fields it uses;
reserved fields are not looked at here. -/
def decodeOp (op : Nat) (w : Word) : Option Instr :=
  match op with
  | 0x01 => some .nop
  | 0x02 => some (.bra (w.extractLsb' 0 24))
  | 0x03 => some (.bany (w.extractLsb' 19 1) (w.extractLsb' 16 3) (w.extractLsb' 0 16))
  | 0x04 => some (.ball (w.extractLsb' 19 1) (w.extractLsb' 16 3) (w.extractLsb' 0 16))
  | 0x05 => some (.call (w.extractLsb' 0 24))
  | 0x06 => some (.ret (w.extractLsb' 8 8))
  | 0x07 => decodeBrr (w.extractLsb' 16 8).toNat w
  | 0x08 => some (.ifP (w.extractLsb' 19 1) (w.extractLsb' 16 3) (w.extractLsb' 0 16))
  | 0x09 => some (.elseP (w.extractLsb' 0 16))
  | 0x0A => some .endif
  | 0x0B => some (.loop (w.extractLsb' 16 8) (w.extractLsb' 0 16))
  | 0x0C => some (.loopr (w.extractLsb' 16 8) (w.extractLsb' 0 16))
  | 0x0D => some .lbrk
  | 0x0E => some .regang
  | 0x0F => some .exit
  | 0x10 => some .yield
  | 0x11 => some (.mode (w.extractLsb' 0 16))
  | 0x12 => some (.mtype (w.extractLsb' 0 4))
  | 0x13 => some (.mrnd (w.extractLsb' 0 3))
  | 0x14 => some (.mguard (w.extractLsb' 4 1) (w.extractLsb' 3 1) (w.extractLsb' 0 3))
  | 0x15 => some (.mfs (w.extractLsb' 16 8) (w.extractLsb' 0 10))
  | 0x16 => some (.mts (w.extractLsb' 16 8) (w.extractLsb' 0 10))
  | 0x17 => some (.trap (w.extractLsb' 0 16))
  | 0x18 => some .rti
  | 0x19 => decodeSys (w.extractLsb' 16 8).toNat w
  | 0x1A => some (.brk (w.extractLsb' 0 16))
  | 0x1B => some (.pause (w.extractLsb' 0 16))
  | 0x20 => some (.add (w.extractLsb' 16 8) (w.extractLsb' 8 8) (w.extractLsb' 0 8))
  | 0x21 => some (.sub (w.extractLsb' 16 8) (w.extractLsb' 8 8) (w.extractLsb' 0 8))
  | 0x22 => some (.mul (w.extractLsb' 16 8) (w.extractLsb' 8 8) (w.extractLsb' 0 8))
  | 0x23 => some (.mulhi (w.extractLsb' 16 8) (w.extractLsb' 8 8) (w.extractLsb' 0 8))
  | 0x24 => some (.mad (w.extractLsb' 16 8) (w.extractLsb' 8 8) (w.extractLsb' 0 8))
  | 0x25 => some (.div (w.extractLsb' 16 8) (w.extractLsb' 8 8) (w.extractLsb' 0 8))
  | 0x26 => some (.rem (w.extractLsb' 16 8) (w.extractLsb' 8 8) (w.extractLsb' 0 8))
  | 0x27 => some (.neg (w.extractLsb' 16 8) (w.extractLsb' 8 8))
  | 0x28 => some (.abs (w.extractLsb' 16 8) (w.extractLsb' 8 8))
  | 0x29 => some (.min (w.extractLsb' 16 8) (w.extractLsb' 8 8) (w.extractLsb' 0 8))
  | 0x2A => some (.max (w.extractLsb' 16 8) (w.extractLsb' 8 8) (w.extractLsb' 0 8))
  | 0x2B => some (.and (w.extractLsb' 16 8) (w.extractLsb' 8 8) (w.extractLsb' 0 8))
  | 0x2C => some (.or (w.extractLsb' 16 8) (w.extractLsb' 8 8) (w.extractLsb' 0 8))
  | 0x2D => some (.xor (w.extractLsb' 16 8) (w.extractLsb' 8 8) (w.extractLsb' 0 8))
  | 0x2E => some (.not (w.extractLsb' 16 8) (w.extractLsb' 8 8))
  | 0x2F => some (.andn (w.extractLsb' 16 8) (w.extractLsb' 8 8) (w.extractLsb' 0 8))
  | 0x30 => some (.shl (w.extractLsb' 16 8) (w.extractLsb' 8 8) (w.extractLsb' 0 8))
  | 0x31 => some (.shr (w.extractLsb' 16 8) (w.extractLsb' 8 8) (w.extractLsb' 0 8))
  | 0x32 => some (.sar (w.extractLsb' 16 8) (w.extractLsb' 8 8) (w.extractLsb' 0 8))
  | 0x33 => some (.rol (w.extractLsb' 16 8) (w.extractLsb' 8 8) (w.extractLsb' 0 8))
  | 0x34 => some (.ror (w.extractLsb' 16 8) (w.extractLsb' 8 8) (w.extractLsb' 0 8))
  | 0x35 => some (.popc (w.extractLsb' 16 8) (w.extractLsb' 8 8))
  | 0x36 => some (.clz (w.extractLsb' 16 8) (w.extractLsb' 8 8))
  | 0x37 => some (.ctz (w.extractLsb' 16 8) (w.extractLsb' 8 8))
  | 0x38 => some (.brev (w.extractLsb' 16 8) (w.extractLsb' 8 8))
  | 0x39 => some (.bfx (w.extractLsb' 16 8) (w.extractLsb' 8 8) (w.extractLsb' 0 8))
  | 0x3A => some (.bfi (w.extractLsb' 16 8) (w.extractLsb' 8 8) (w.extractLsb' 0 8))
  | 0x3B => some (.mov (w.extractLsb' 16 8) (w.extractLsb' 0 8))
  | 0x3C => some (.movi (w.extractLsb' 16 8) (w.extractLsb' 0 16))
  | 0x3D => some (.movhi (w.extractLsb' 16 8) (w.extractLsb' 0 16))
  | 0x3E => some (.addi (w.extractLsb' 16 8) (w.extractLsb' 0 16))
  | 0x60 => some (.fadd (w.extractLsb' 16 8) (w.extractLsb' 8 8) (w.extractLsb' 0 8))
  | 0x61 => some (.fsub (w.extractLsb' 16 8) (w.extractLsb' 8 8) (w.extractLsb' 0 8))
  | 0x62 => some (.fmul (w.extractLsb' 16 8) (w.extractLsb' 8 8) (w.extractLsb' 0 8))
  | 0x63 => some (.fma (w.extractLsb' 16 8) (w.extractLsb' 8 8) (w.extractLsb' 0 8))
  | 0x64 => some (.fms (w.extractLsb' 16 8) (w.extractLsb' 8 8) (w.extractLsb' 0 8))
  | 0x65 => some (.fnma (w.extractLsb' 16 8) (w.extractLsb' 8 8) (w.extractLsb' 0 8))
  | 0x66 => some (.fmin (w.extractLsb' 16 8) (w.extractLsb' 8 8) (w.extractLsb' 0 8))
  | 0x67 => some (.fmax (w.extractLsb' 16 8) (w.extractLsb' 8 8) (w.extractLsb' 0 8))
  | 0x68 => some (.fabs (w.extractLsb' 16 8) (w.extractLsb' 8 8))
  | 0x69 => some (.fneg (w.extractLsb' 16 8) (w.extractLsb' 8 8))
  | 0x6A => some (.fcps (w.extractLsb' 16 8) (w.extractLsb' 8 8) (w.extractLsb' 0 8))
  | 0x6B => some (.fdiv (w.extractLsb' 16 8) (w.extractLsb' 8 8) (w.extractLsb' 0 8))
  | 0x6C => some (.rcp (w.extractLsb' 16 8) (w.extractLsb' 8 8))
  | 0x6D => some (.rsq (w.extractLsb' 16 8) (w.extractLsb' 8 8))
  | 0x6E => some (.sqrt (w.extractLsb' 16 8) (w.extractLsb' 8 8))
  | 0x6F => some (.exp2 (w.extractLsb' 16 8) (w.extractLsb' 8 8))
  | 0x70 => some (.log2 (w.extractLsb' 16 8) (w.extractLsb' 8 8))
  | 0x71 => some (.sinpi (w.extractLsb' 16 8) (w.extractLsb' 8 8))
  | 0x72 => some (.cospi (w.extractLsb' 16 8) (w.extractLsb' 8 8))
  | 0x73 => some (.tanh (w.extractLsb' 16 8) (w.extractLsb' 8 8))
  | 0x74 => some (.frnd (w.extractLsb' 16 8) (w.extractLsb' 8 8))
  | 0x75 => some (.fract (w.extractLsb' 16 8) (w.extractLsb' 8 8))
  | 0x76 => some (.ldexp (w.extractLsb' 16 8) (w.extractLsb' 8 8) (w.extractLsb' 0 8))
  | 0x77 => some (.fclass (w.extractLsb' 16 8) (w.extractLsb' 8 8))
  | 0x78 => some (.fdot (w.extractLsb' 16 8) (w.extractLsb' 8 8) (w.extractLsb' 0 8))
  | 0x80 => some (.cvt (w.extractLsb' 16 8) (w.extractLsb' 8 8) (w.extractLsb' 4 3) (w.extractLsb' 0 4))
  | 0x81 => some (.cvtfi (w.extractLsb' 16 8) (w.extractLsb' 8 8) (w.extractLsb' 4 3) (w.extractLsb' 0 4))
  | 0x82 => some (.cvtif (w.extractLsb' 16 8) (w.extractLsb' 8 8) (w.extractLsb' 4 3) (w.extractLsb' 0 4))
  | 0x83 => some (.cvtii (w.extractLsb' 16 8) (w.extractLsb' 8 8) (w.extractLsb' 4 3) (w.extractLsb' 0 4))
  | 0x84 => some (.pack (w.extractLsb' 16 8) (w.extractLsb' 8 8) (w.extractLsb' 0 8))
  | 0x85 => some (.unpk (w.extractLsb' 16 8) (w.extractLsb' 8 8) (w.extractLsb' 0 1))
  | 0x90 => some (.cmp (w.extractLsb' 22 1) (w.extractLsb' 19 3) (w.extractLsb' 16 3) (w.extractLsb' 8 8) (w.extractLsb' 0 8))
  | 0x91 => some (.fcmp (w.extractLsb' 22 1) (w.extractLsb' 19 3) (w.extractLsb' 16 3) (w.extractLsb' 8 8) (w.extractLsb' 0 8))
  | 0x92 => some (.tst (w.extractLsb' 19 1) (w.extractLsb' 16 3) (w.extractLsb' 8 8) (w.extractLsb' 0 8))
  | 0x93 => some (.sel (w.extractLsb' 16 8) (w.extractLsb' 8 8) (w.extractLsb' 0 8))
  | 0x94 => some (.plog (w.extractLsb' 19 4) (w.extractLsb' 16 3) (w.extractLsb' 8 3) (w.extractLsb' 0 3))
  | 0x95 => decodePmov (w.extractLsb' 0 8).toNat w
  | 0x96 => some (.clamp (w.extractLsb' 16 8) (w.extractLsb' 8 8) (w.extractLsb' 0 8))
  | 0x97 => some (.fclamp (w.extractLsb' 16 8) (w.extractLsb' 8 8) (w.extractLsb' 0 8))
  | 0x98 => some (.red (w.extractLsb' 16 8) (w.extractLsb' 8 8) (w.extractLsb' 0 3))
  | 0x99 => some (.fred (w.extractLsb' 16 8) (w.extractLsb' 8 8) (w.extractLsb' 0 2))
  | 0x9A => some (.scan (w.extractLsb' 16 8) (w.extractLsb' 8 8) (w.extractLsb' 3 1) (w.extractLsb' 0 3))
  | 0x9B => some (.fscan (w.extractLsb' 16 8) (w.extractLsb' 8 8) (w.extractLsb' 3 1) (w.extractLsb' 0 2))
  | 0x9C => some (.vote (w.extractLsb' 16 8) (w.extractLsb' 11 1) (w.extractLsb' 8 3))
  | 0x9D => some (.lid (w.extractLsb' 16 8))
  | 0xA0 => some (.ld8 (w.extractLsb' 16 8) (w.extractLsb' 8 8) (w.extractLsb' 0 8))
  | 0xA1 => some (.ld16 (w.extractLsb' 16 8) (w.extractLsb' 8 8) (w.extractLsb' 0 8))
  | 0xA2 => some (.ld32 (w.extractLsb' 16 8) (w.extractLsb' 8 8) (w.extractLsb' 0 8))
  | 0xA3 => some (.ld64 (w.extractLsb' 16 8) (w.extractLsb' 8 8) (w.extractLsb' 0 8))
  | 0xA4 => some (.ld128 (w.extractLsb' 16 8) (w.extractLsb' 8 8) (w.extractLsb' 0 8))
  | 0xA5 => some (.st8 (w.extractLsb' 16 8) (w.extractLsb' 8 8) (w.extractLsb' 0 8))
  | 0xA6 => some (.st16 (w.extractLsb' 16 8) (w.extractLsb' 8 8) (w.extractLsb' 0 8))
  | 0xA7 => some (.st32 (w.extractLsb' 16 8) (w.extractLsb' 8 8) (w.extractLsb' 0 8))
  | 0xA8 => some (.st64 (w.extractLsb' 16 8) (w.extractLsb' 8 8) (w.extractLsb' 0 8))
  | 0xA9 => some (.st128 (w.extractLsb' 16 8) (w.extractLsb' 8 8) (w.extractLsb' 0 8))
  | 0xAA => some (.ldw (w.extractLsb' 16 8) (w.extractLsb' 8 8) (w.extractLsb' 0 8))
  | 0xAB => some (.chk (w.extractLsb' 0 24))
  | 0xAC => some (.ldl (w.extractLsb' 16 8) (w.extractLsb' 8 8) (w.extractLsb' 0 8))
  | 0xAD => some (.stl (w.extractLsb' 16 8) (w.extractLsb' 8 8) (w.extractLsb' 0 8))
  | 0xAE => decodePf (w.extractLsb' 16 8).toNat w
  | 0xAF => some (.wb (w.extractLsb' 8 8) (w.extractLsb' 0 8))
  | 0xB0 => some (.inv (w.extractLsb' 8 8) (w.extractLsb' 0 8))
  | 0xC0 => some (.atadd (w.extractLsb' 16 8) (w.extractLsb' 8 8) (w.extractLsb' 0 8))
  | 0xC1 => some (.atmin (w.extractLsb' 16 8) (w.extractLsb' 8 8) (w.extractLsb' 0 8))
  | 0xC2 => some (.atmax (w.extractLsb' 16 8) (w.extractLsb' 8 8) (w.extractLsb' 0 8))
  | 0xC3 => some (.atand (w.extractLsb' 16 8) (w.extractLsb' 8 8) (w.extractLsb' 0 8))
  | 0xC4 => some (.ator (w.extractLsb' 16 8) (w.extractLsb' 8 8) (w.extractLsb' 0 8))
  | 0xC5 => some (.atxor (w.extractLsb' 16 8) (w.extractLsb' 8 8) (w.extractLsb' 0 8))
  | 0xC6 => some (.atxchg (w.extractLsb' 16 8) (w.extractLsb' 8 8) (w.extractLsb' 0 8))
  | 0xC7 => some (.atcas (w.extractLsb' 16 8) (w.extractLsb' 8 8) (w.extractLsb' 0 8))
  | 0xC8 => some (.atqadd (w.extractLsb' 16 8) (w.extractLsb' 8 8) (w.extractLsb' 0 8))
  | 0xC9 => some (.acq (w.extractLsb' 16 8) (w.extractLsb' 8 8))
  | 0xCA => some (.rel (w.extractLsb' 16 8) (w.extractLsb' 8 8))
  | 0xCB => some (.bind (w.extractLsb' 16 8) (w.extractLsb' 8 8) (w.extractLsb' 0 8))
  | 0xCC => some (.unbind (w.extractLsb' 16 8) (w.extractLsb' 8 8) (w.extractLsb' 0 8))
  | 0xCD => some (.fence (w.extractLsb' 16 8))
  | 0xCE => some (.bar (w.extractLsb' 16 4) (w.extractLsb' 0 16))
  | 0xCF => decodeSync (w.extractLsb' 16 8).toNat w
  | 0xD0 => some (.tld (w.extractLsb' 20 2) (w.extractLsb' 16 4) (w.extractLsb' 8 8) (w.extractLsb' 0 8))
  | 0xD1 => some (.tsto (w.extractLsb' 20 2) (w.extractLsb' 16 4) (w.extractLsb' 8 8) (w.extractLsb' 0 8))
  | 0xD2 => some (.tmma (w.extractLsb' 16 2) (w.extractLsb' 8 4) (w.extractLsb' 0 4))
  | 0xD3 => some (.ttr (w.extractLsb' 16 2) (w.extractLsb' 8 4))
  | 0xD4 => some (.tperm (w.extractLsb' 16 2) (w.extractLsb' 8 4) (w.extractLsb' 0 8))
  | 0xD5 => some (.tred (w.extractLsb' 16 2) (w.extractLsb' 8 4))
  | 0xD6 => some (.azero (w.extractLsb' 16 2))
  | 0xD7 => some (.amov (w.extractLsb' 16 8) (w.extractLsb' 10 6) (w.extractLsb' 8 2) (w.extractLsb' 0 8))
  | 0xD8 => some (.amovt (w.extractLsb' 16 4) (w.extractLsb' 8 2) (w.extractLsb' 0 8))
  | 0xD9 => some (.acvt (w.extractLsb' 16 2) (w.extractLsb' 8 1) (w.extractLsb' 0 8))
  | 0xDA => some (.asave (w.extractLsb' 16 2))
  | 0xDB => some (.arest (w.extractLsb' 16 2))
  | 0xDC => decodeTmv (w.extractLsb' 15 1).toNat w
  | 0xDD => some (.tfill (w.extractLsb' 16 4) (w.extractLsb' 0 8))
  | 0xE0 => some (.copy (w.extractLsb' 16 8) (w.extractLsb' 8 8) (w.extractLsb' 0 8))
  | 0xE1 => some (.copyf (w.extractLsb' 20 2) (w.extractLsb' 16 4) (w.extractLsb' 8 8) (w.extractLsb' 0 8))
  | 0xE2 => some (.gath (w.extractLsb' 16 8) (w.extractLsb' 8 8) (w.extractLsb' 0 8))
  | 0xE3 => some (.scat (w.extractLsb' 16 8) (w.extractLsb' 8 8) (w.extractLsb' 0 8))
  | 0xE4 => some (.mcast (w.extractLsb' 16 8) (w.extractLsb' 8 8) (w.extractLsb' 0 8))
  | 0xE5 => some (.cfill (w.extractLsb' 16 8) (w.extractLsb' 8 8) (w.extractLsb' 0 8))
  | 0xE6 => some (.wait (w.extractLsb' 16 3) (w.extractLsb' 0 6))
  | 0xE7 => some (.cwp (w.extractLsb' 16 8) (w.extractLsb' 0 2))
  | 0xE8 => some (.qcall (w.extractLsb' 16 8) (w.extractLsb' 11 5) (w.extractLsb' 6 5) (w.extractLsb' 0 6))
  | 0xE9 => some (.qwait (w.extractLsb' 16 8) (w.extractLsb' 0 5))
  | 0xEA => some (.qpoll (w.extractLsb' 16 8) (w.extractLsb' 0 6))
  | 0xEB => some (.send (w.extractLsb' 16 8) (w.extractLsb' 0 6))
  | 0xEC => some (.recv (w.extractLsb' 16 8) (w.extractLsb' 0 6))
  | 0xED => some (.chinfo (w.extractLsb' 16 8) (w.extractLsb' 0 6))
  | 0xF0 => decodeClu (w.extractLsb' 16 8).toNat w
  | 0xF1 => decodeXlt (w.extractLsb' 16 8).toNat w
  | 0xF2 => decodeCkp (w.extractLsb' 16 8).toNat w
  | 0xF3 => decodeDbg (w.extractLsb' 16 8).toNat w
  | 0xF4 => decodeModg (w.extractLsb' 16 8).toNat w
  | _ => none

/-- The instruction that a word selects by its op byte, bits [31:24] (R62). -/
def decodeFields (w : Word) : Option Instr := decodeOp (w.extractLsb' 24 8).toNat w

/-- The decoder: the selected instruction, if every reserved field of the word is zero (R64). -/
def decode (w : Word) : Decoded :=
  match decodeFields w with
  | none => .unassigned w
  | some i => if encode i = some w then .ok i else .reserved i

/-- The four bytes of a word as memory holds them, lowest address first (R61). -/
def bytesOfWord (w : Word) : List Byte :=
  [w.extractLsb' 0 8, w.extractLsb' 8 8, w.extractLsb' 16 8, w.extractLsb' 24 8]

/-- The word that four bytes hold, little-endian (R61); a byte that is not there counts as zero. -/
def wordOfBytes : List Byte → Word
  | [] => 0
  | b :: bs => (b.setWidth 32) ||| (wordOfBytes bs <<< 8)

/-- The instruction read from a word numbered as the opcode table numbers it. Every Kryost
instruction of the table is one 32-bit word. -/
def decodeTableWord (nbits w : Nat) : Option Instr :=
  if nbits ≤ 32 then
    match decode (wordOfBytes (bytesOfWord (BitVec.ofNat 32 w))) with
    | .ok i => some i
    | _ => none
  else none

end Sys2Proof
end

