-- ==== Sys2Proof/Machine/Translate.lean ====
section
/-! DEFINITION. Translation: the page-table walk and the TLBs (R305 to R311), where a leaf leads
(R361, R362, R364, R374, R382), copy-on-write breaks (R344 to R346), fault identifiers and fault
records (R316, R317), apertures (R132, R216, R249). -/

namespace Sys2Proof.Machine

/-- Who translates: the core whose L1 TLB serves it (none for an engine, a unit or the device), the
die, session and level, and what it asks for: 0 a read, 1 a write, 2 a fetch (R311, R316). `salt`
tells the lanes of one step apart in the free choices of the TLBs. -/
structure Ask where
  core : Option Nat
  die : Nat
  session : Nat
  level : Nat
  kind : Nat
  engine : Bool
  salt : Nat
  deriving DecidableEq, Repr

/-- An address names an aperture (R131). -/
def isAperture (ea : VAddr) : Bool := ea.getLsbD 56

/-- What keeps a walk from reading an entry: nothing, a block of the table's frame (R323), or the absent key of that
frame (R339). -/
inductive WalkStop where
  | none | blocked | keyAbsent
  deriving DecidableEq, Repr

/-- How a walk ends: at an invalid entry, at a malformed one, or at a leaf; with the level and the
physical address of the last entry (none where a TLB held the leaf), the entry and the companion
word; or at an entry that it cannot read. -/
structure WalkEnd where
  stop : WalkStop
  valid : Bool
  good : Bool
  level : Nat
  addr : Option Nat
  entry : DWord
  companion : DWord
  caddr : Nat
  deriving DecidableEq, Repr

/-- The frame of an entry as a physical address (R306). -/
def pteFrame (e : DWord) : Nat := fieldNat e 12 40 * 4096
def pteV (e : DWord) : Bool := e.getLsbD 0
def pteLeaf (e : DWord) : Bool := e.getLsbD 1
def pteW (e : DWord) : Bool := e.getLsbD 2
def pteX (e : DWord) : Bool := e.getLsbD 3
def pteU (e : DWord) : Bool := e.getLsbD 4
def pteCoh (e : DWord) : Nat := fieldNat e 5 2
def pteC64 (e : DWord) : Bool := e.getLsbD 7
def pteShr (e : DWord) : Bool := e.getLsbD 8

/-- A physical address in the fabric window (R361). -/
def inFabric (pa : Nat) : Bool := decide (0x9000000000000 ≤ pa) && decide (pa < 0xC000000000000)

/-- A valid entry that is malformed at its level (R306, R383). -/
def pteBad (level : Nat) (e : DWord) : Bool :=
  decide (fieldNat e 52 12 ≠ 0) || decide (fieldNat e 9 3 ≠ 0) ||
  (decide (2 ≤ level) && pteLeaf e) ||
  (decide (level = 1) && pteLeaf e && decide (fieldNat e 12 9 ≠ 0)) ||
  (decide (level = 0) && !pteLeaf e) ||
  (pteLeaf e && decide (pteCoh e = 3)) ||
  (pteLeaf e && pteShr e && inFabric (pteFrame e)) ||
  (decide (level ≠ 0) && !pteLeaf e && (!inModule (pteFrame e) || inAtoll (pteFrame e)))

/-- The index of an address at a level (R305). -/
def vaIndex (va level : Nat) : Nat := va / 2 ^ (12 + 9 * level) % 512

/-- The address divided by what an entry of a level governs: the key of a held entry. -/
def vaKey (va level : Nat) : Nat := va / 2 ^ (12 + 9 * level)

/-- A frame whose tag names a key slot that holds no key (R339). -/
def State.keyAbsent (s : State) (pa : Nat) : Bool :=
  let t := s.tagOf pa
  decide (t ≠ 0) && (Cells.find? (s.die (homeDie pa)).keys (t - 1)).isNone

/-- A held entry covers an address at a level: a leaf of 64 KiB may be held as one entry (R307). -/
def TlbEntry.covers (e : TlbEntry) (va level : Nat) : Bool :=
  decide (e.level = level) && (decide (e.index = vaKey va level) ||
    (decide (level = 0) && pteC64 e.entry && decide (e.index / 16 = vaKey va 0 / 16)))

/-- The entries held by the L1 TLB of the core or the L2 TLB of the die for a walk (R309). -/
def State.heldAll (s : State) (a : Ask) (va level : Nat) : List TlbEntry :=
  s.tlb.filter fun e =>
    decide (e.session = a.session) && e.covers va level &&
    (match a.core with
     | some c => (e.l1 && decide (e.place = c)) || (!e.l1 && decide (e.place = a.die))
     | none => !e.l1 && decide (e.place = a.die))

/-- The held entry that the device lets serve the walk, the smaller one of two (R309, R310). -/
def State.held? (s : State) (a : Ask) (va level : Nat) : Option TlbEntry :=
  let all := s.heldAll a va level
  ((all.find? (fun e => !pteC64 e.entry)).orElse (fun _ => all.head?)).filter
    fun _ => Config.tlbServes s.tick (a.salt * 8 + level)

/-- A leaf entry as it translates one address: a group of 64 KiB held as one entry takes the place
of the address in the group (R307). -/
def leafFor (va : Nat) (e : TlbEntry) : DWord :=
  if e.level = 0 ∧ pteC64 e.entry ∧ e.index ≠ vaKey va 0 then
    setField e.entry 12 4 (vaKey va 0)
  else e.entry

/-- A walk from the table at `table` of `level` down, reading each entry from its home, with the
entries to be held (R305, R308): the home of a frame that has moved is its new place (R323). -/
def State.walkFrom (s : State) (va : Nat) : Nat → Nat → WalkEnd × List (Nat × DWord × DWord)
  | 0, table =>
    let p := s.now (table + 8 * vaIndex va 0)
    let e : DWord := BitVec.ofNat 64 (s.rd p 8)
    let q := s.now (table + 8 * vaIndex va 0 + 4096)
    let c : DWord := if pteShr e then BitVec.ofNat 64 (s.rd q 8) else 0
    if (s.blockOf (table + 8 * vaIndex va 0)).isSome || (pteV e && pteShr e && (s.blockOf (table + 8 * vaIndex va 0 + 4096)).isSome)
    then (⟨.blocked, false, true, 0, some p, e, c, q⟩, [])
    else if s.keyAbsent p || (pteV e && pteShr e && s.keyAbsent q) then (⟨.keyAbsent, false, true, 0, some p, e, c, q⟩, [])
    else (⟨.none, pteV e, !pteBad 0 e, 0, some p, e, c, q⟩, if pteV e && !pteBad 0 e then [(0, e, c)] else [])
  | l + 1, table =>
    let p := s.now (table + 8 * vaIndex va (l + 1))
    let e : DWord := BitVec.ofNat 64 (s.rd p 8)
    if (s.blockOf (table + 8 * vaIndex va (l + 1))).isSome then (⟨.blocked, false, true, l + 1, some p, e, 0, 0⟩, [])
    else if s.keyAbsent p then (⟨.keyAbsent, false, true, l + 1, some p, e, 0, 0⟩, [])
    else if !pteV e then (⟨.none, false, true, l + 1, some p, e, 0, 0⟩, [])
    else if pteBad (l + 1) e then (⟨.none, true, false, l + 1, some p, e, 0, 0⟩, [])
    else if pteLeaf e then (⟨.none, true, true, l + 1, some p, e, 0, 0⟩, [(l + 1, e, 0)])
    else
      let r := State.walkFrom s va l (pteFrame e)
      (r.1, (l + 1, e, 0) :: r.2)

/-- A walk of a session's tables in memory alone (R308, R315). -/
def State.walkMem (s : State) (session va : Nat) : WalkEnd :=
  (s.walkFrom va 4 (s.sesRoot session)).1

/-- The lowest held entry that serves a walk: a leaf, or a table to walk on from. -/
def State.walkStart (s : State) (a : Ask) (va : Nat) : Nat → Option (Nat × TlbEntry)
  | 0 => none
  | k + 1 =>
    match s.held? a va (4 - k) with
    | some e => some (4 - k, e)
    | none => State.walkStart s a va k

/-- Entries of a walk put into the L1 TLB of the core and the L2 TLB of the die. -/
def State.hold? (s : State) (a : Ask) (va : Nat) (es : List (Nat × DWord × DWord)) : State :=
  let mk (l1 : Bool) (place : Nat) : List TlbEntry := es.map fun e =>
    { l1 := l1, place := place, session := a.session, level := e.1, index := vaKey va e.1,
      entry := e.2.1, companion := e.2.2 }
  let new := (match a.core with | some c => mk true c | none => []) ++ mk false a.die
  { s with tlb := (s.tlb.filter fun t => !new.any fun n =>
      decide (n.l1 = t.l1) && decide (n.place = t.place) && decide (n.session = t.session) &&
      decide (n.level = t.level) && decide (n.index = t.index)) ++ new }

/-- The 16 entries of a 64 KiB group agree (R307). -/
def State.groupAgrees (s : State) (p : Nat) (e : DWord) : Bool :=
  let p0 := p - p / 8 % 16 * 8
  (List.range 16).all fun i =>
    decide (BitVec.ofNat 64 (s.rd (p0 + 8 * i) 8) = setField e 12 4 i)

/-- The leaf that translates an address through a walk that read it from memory: its own entry, or
any entry of a 64 KiB group that disagrees (R307; log 16). -/
def State.groupLeaf (s : State) (va : Nat) (w : WalkEnd) : DWord :=
  match w.addr with
  | some p =>
    if w.level = 0 ∧ pteC64 w.entry ∧ !s.groupAgrees p w.entry then
      let p0 := p - p / 8 % 16 * 8
      let i := Config.groupEntry s.tick % 16
      let e : DWord := BitVec.ofNat 64 (s.rd (p0 + 8 * i) 8)
      if pteV e ∧ pteC64 e ∧ !pteBad 0 e then setField e 12 4 (vaKey va 0) else w.entry
    else w.entry
  | none => w.entry

/-- The walk of one access with the free choices of the TLBs; larger entries that the TLB of a smaller one holds for the
address are dropped (R309, R310). -/
def State.walk (s : State) (a : Ask) (va : Nat) : WalkEnd × State :=
  match s.held? a va 0 with
  | some e =>
    let s1 : State := { s with tlb := s.tlb.filter fun t =>
      !(decide (t.l1 = e.l1) && decide (t.place = e.place) && decide (t.session = e.session) &&
        ((decide (t.level = 1) && pteLeaf t.entry && decide (t.index = vaKey va 1)) ||
          (!pteC64 e.entry && pteC64 t.entry && t.covers va 0))) }
    (⟨.none, true, true, 0, none, leafFor va e, e.companion, 0⟩, s1)
  | none =>
    match s.walkStart a va 4 with
    | some (l, e) =>
      if pteLeaf e.entry then (⟨.none, true, true, l, none, e.entry, 0, 0⟩, s)
      else
        let r := s.walkFrom va (l - 1) (pteFrame e.entry)
        ({ r.1 with entry := s.groupLeaf va r.1 }, s.hold? a va r.2)
    | none =>
      let r := s.walkFrom va 4 (s.sesRoot a.session)
      ({ r.1 with entry := s.groupLeaf va r.1 }, s.hold? a va r.2)

/-- The outcome of a translation: the place of the access, a fault that is not replayable, a
replayable one (`host` for the host window), or a wait for a host translation (R374) or for a block of a table's
frame (R323). -/
inductive Xlat where
  | ok (p : Place)
  | fatal (cause : BitVec 8)
  | absent (cause : BitVec 8) (host : Bool)
  | ats
  deriving DecidableEq, Repr

/-- The offset of an address in the page of a leaf (R305). -/
def leafAddr (level : Nat) (e : DWord) (va : Nat) : Nat :=
  pteFrame e + va % 2 ^ (12 + 9 * level)

/-- A page of the host window as ATS has it translated for a session: no answer yet, or the
permissions it holds, bit 0 reads and bit 1 writes (R374). -/
def State.atsPerm (s : State) (session page : Nat) : Option Nat :=
  (s.ats.find? (fun e => decide (e.1 = session) && decide (e.2.1 = page))).map (·.2.2)

/-- Where a physical address lies, for an access by `a` through a leaf of treatment `coh` (R361,
R362, R374, R382). Log 102 (DEDUCED). -/
def State.placeOf (s : State) (a : Ask) (coh pa : Nat) : Xlat :=
  if inModule pa then
    if inAtoll pa then .fatal 0x91 else .ok (.mem pa coh)
  else if 0x8000000000000 ≤ pa ∧ pa < 0x8000001000000 then
    if a.engine ∨ a.level < 2 ∨ s.sesPart a.session ≠ 0 then .fatal 0x91
    else .ok (.mgmt (pa - 0x8000000000000))
  else if 0x9000000000000 ≤ pa ∧ pa < 0xA000000000000 then
    let m := pa / 2 ^ 44 % 16
    let x := pa % 2 ^ 44
    if !inModule x ∨ inAtoll x then .fatal 0x91
    else if m = s.mid % 16 then .ok (.mem x coh)
    else if !(s.joined.getLsbD m && s.routed.getLsbD m) then .fatal 0xF0
    else .ok (.mem (Config.remoteBase + m * 2 ^ 52 + x) coh)
  else if 0xC000000000000 ≤ pa ∧ pa < 0xD000000000000 then
    let h := pa - 0xC000000000000
    match s.atsPerm a.session (h / 4096) with
    | none => .ats
    | some p =>
      if p.testBit (if a.kind = 1 then 1 else 0) then .ok (.host a.session h) else .absent 0x90 true
  else .fatal 0x91

/-- The checks of R311 on the leaf of a walk and the place it leads to, with R339 after them: those of a frame of this
module named through the fabric window too (R382). -/
def State.checkLeaf (s : State) (a : Ask) (w : WalkEnd) (pa : Nat) : Xlat :=
  if !pteU w.entry ∧ a.level < 1 then .fatal 0x91
  else
    match s.placeOf a (pteCoh w.entry) pa with
    | .fatal c => .fatal c
    | r =>
      if (a.kind = 2 ∧ !pteX w.entry) ∨ (a.kind = 1 ∧ !pteW w.entry ∧ !pteShr w.entry) then .fatal 0x91
      else
        match r with
        | .ok (.mem x _) =>
          if (s.atollOf (x / 4096)).any (·.poison) then .absent 0x93 false
          else if s.keyAbsent x then .fatal 0xC8
          else r
        | r => r

/-- The frame and byte that a page of a shared leaf reads for an address: the overlay block where
the granule's bit is set (R344). -/
def sharedAddr (e c : DWord) (va : Nat) : Nat :=
  if c.getLsbD (va / 256 % 16) then fieldNat c 16 40 * 4096 + va % 4096 else pteFrame e + va % 4096

/-- The word of a page whose overlay is complete is converted: the leaf maps the overlay block as a
private frame (R346). -/
def State.convertPage (s : State) (session va p q : Nat) (e c : DWord) : State :=
  let fr := fieldNat c 16 40
  let e' := setField (setField (setField e 12 40 fr) 8 1 0) 2 1 1
  let s1 := (s.wr p 8 e'.toNat).wr q 8 0
  s1.unmapShared (pteFrame e / 4096) session (va / 4096)

/-- Accesses on their way to a granule of a page whose sharing breaks, and those in block queues, reach the overlay block
(R345). Log 94 (DEDUCED). -/
def State.shiftAccesses (s : State) (session granule base : Nat) : State :=
  let mv (e : Event) : Event := match e with
    | .accessAtHome a => match a.place with
      | .mem _ coh =>
        if a.session = session ∧ !isAperture a.va ∧ a.va.toNat / 256 = granule then
          .accessAtHome { a with place := .mem (base + a.va.toNat % 4096) coh }
        else e
      | _ => e
    | e => e
  { s with agenda := s.agenda.map mv, blocked := s.blocked.map (fun b => { b with queue := b.queue.map mv }) }

/-- Bytes that the device writes to lines of module memory at their homes (R239), its D copies recalled. -/
def State.putBytes (s : State) (pa : Nat) (bs : List Byte) : State :=
  let s1 := (newOnes [] ((List.range bs.length).map (fun i => lineOf (pa + i)))).foldl State.touch s
  { s1 with mem := Cells.write s1.mem pa bs }

/-- A write to a granule that is still shared breaks the sharing (R345): none if the session's
free-frame stack has no frame. A frame that has moved is read and written at its new place (R323). -/
def State.cowBreak (s : State) (session va p q : Nat) (e c : DWord) : Option State :=
  let g := va / 256 % 16
  match (if fieldNat c 16 40 = 0 then s.takeFrame session else some (fieldNat c 16 40, s)) with
  | none => none
  | some (fr, s1) =>
    let bs := Cells.bytes s1.mem (s1.now (pteFrame e + 256 * g)) 256
    let s2 := s1.putBytes (s1.now (fr * 4096 + 256 * g)) bs
    let l := va / 256 * 2
    let s3 := (s2.strike session (fun k => decide (k = l) || decide (k = l + 1))).dropPage session (va / 4096)
    let c' := setField (setField c 16 40 fr) g 1 1
    let s4 := (s3.wr q 8 c'.toNat).shiftAccesses session (va / 256) (fr * 4096)
    some (if fieldNat c' 0 16 = 0xFFFF then s4.convertPage session va p q e c' else s4)

/-- The overlay block of a page is blocked: a break waits (R323). -/
def State.overlayBlocked (s : State) (c : DWord) : Bool :=
  decide (fieldNat c 16 40 ≠ 0) && (s.blockOf (fieldNat c 16 40 * 4096)).isSome

/-- One access translated (R311, R344, R345). A write to a shared granule is made after the break, on
the leaf as memory then holds it. Log 49 (DEDUCED). -/
def State.translate (s : State) (a : Ask) (va : Nat) : Xlat × State :=
  let (w, s1) := s.walk a va
  if w.stop = .blocked then (.ats, s1)
  else if w.stop = .keyAbsent then (.fatal 0xC8, s1)
  else if !w.valid then (.absent 0x90 false, s1)
  else if !w.good then (.fatal 0x92, s1)
  else if w.level = 0 ∧ pteShr w.entry then
    match s1.checkLeaf a w (sharedAddr w.entry w.companion va) with
    | .ok p =>
      if a.kind = 1 ∧ !w.companion.getLsbD (va / 256 % 16) then
        let m := s1.walkMem a.session va
        match m.addr with
        | some q =>
          if m.stop = .blocked ∨ s1.overlayBlocked m.companion then (.ats, s1)
          else if m.stop = .keyAbsent then (.fatal 0xC8, s1)
          else if m.valid ∧ m.good ∧ m.level = 0 ∧ pteShr m.entry ∧ !m.companion.getLsbD (va / 256 % 16) then
            match s1.cowBreak a.session va q m.caddr m.entry m.companion with
            | none => (.absent 0x90 false, s1)
            | some s2 =>
              let m2 := s2.walkMem a.session va
              (s2.checkLeaf a m2
                (if pteShr m2.entry then sharedAddr m2.entry m2.companion va else leafAddr 0 m2.entry va), s2)
          else if !m.valid then (.absent 0x90 false, s1)
          else if !m.good then (.fatal 0x92, s1)
          else
            (s1.checkLeaf a m
              (if m.level = 0 ∧ pteShr m.entry then sharedAddr m.entry m.companion va
               else leafAddr m.level m.entry va), s1)
        | none => (.ok p, s1)
      else (.ok p, s1)
    | r => (r, s1)
  else (s1.checkLeaf a w (leafAddr w.level w.entry va), s1)

/-- The next FID of a die's counter (R316). -/
def fidAfter (f : Word) : Word := if f = 0xFFFFFFFF then 1 else f + 1

/-- The accessor of a fault, for its record (R317). -/
structure Accessor where
  eng : Bool
  unit : Bool
  core : Option Nat
  slot : Nat
  detail : Word
  pc : PC
  deriving DecidableEq, Repr

/-- A replayable fault joins the pending fault of its session, page, cause and kind on the die, or
creates a new FID and its record (R316). -/
def State.joinFid (s : State) (die session va kind : Nat) (cause : BitVec 8) (host : Bool) (x : Accessor) :
    Word × State :=
  let d := s.die die
  match d.fids.find? (fun f => decide (f.session = session) && decide (f.page = va / 4096) &&
      decide (f.cause = cause) && decide (f.kind = kind)) with
  | some f => (f.fid, s)
  | none =>
    let fid := d.fidNext
    let r : FaultRec :=
      { die := die, cause := cause, kind := kind, eng := x.eng, unit := x.unit, session := session,
        fid := fid, vaddr := BitVec.ofNat 57 va,
        place := match x.core with | some c => (placeWord s.mid c).setWidth 14 | none => 0,
        slot := x.slot, detail := x.detail, pc := x.pc }
    (fid, (s.setDie die
      { d with
        fidNext := fidAfter fid
        fids := d.fids ++ [⟨fid, session, va / 4096, cause, kind, host, []⟩] }).post (.faultRecordWrite r))

/-- The ask of a gang on a core. -/
def askOf (c : CoreSt) (core : Nat) (x : Gang) (kind salt : Nat) : Ask :=
  { core := some core, die := dieOf core, session := c.sessionOf x, level := c.level x, kind := kind,
    engine := false, salt := salt }

/-- The byte offset of the core scratchpad of a team, and of its tile area (R165). -/
def Team.windows (t : Team) : Nat := t.record.gangs * (t.record.vcount * 128 + 256)
def Team.scratchBase (t : Team) : Nat := t.base + t.windows
def Team.tileBase (t : Team) : Nat := t.base + t.windows + t.record.scratch

/-- The place of `n` bytes at an aperture address, for a team on a core (R132, R216, R249); none
where the address lies outside the range of its row. -/
def State.aperture (s : State) (core : Nat) (t : Team) (ea n : Nat) : Option Place :=
  let o := ea % 2 ^ 48
  match ea / 2 ^ 48 % 256 with
  | 0 => if t.base ≤ o ∧ o + n ≤ t.base + t.windows then some (.store core o) else none
  | 1 => if o + n ≤ t.record.scratch then some (.store core (t.scratchBase + o)) else none
  | 2 =>
    match s.crew? t.crew with
    | none => none
    | some c =>
      let b := c.cmcore * 1024
      if o + n ≤ c.cores.length * b ∧ b ≠ 0 then
        match c.cores[o / b]?, c.cmbase[o / b]? with
        | some k, some m => some (.store k (Config.clusterShare + m + o % b))
        | _, _ => none
      else none
  | 3 =>
    match (s.ses t.session).fleets.find? (fun f => decide (f.die = dieOf core)) with
    | some f => if o + n ≤ f.units * 65536 then some (.cspad (dieOf core) (f.base * 65536 + o)) else none
    | none => none
  | _ => none

end Sys2Proof.Machine
end

