-- ==== Sys2Proof/Machine/Issue.lean ====
section
/-! DEFINITION. Issue: fetching a sequence (R65 to R69, R312), which groups may issue and in what
order (R173, R174, R230, R273), parking on a replayable fault (R318), and the issue of the accesses of
a memory instruction (R131 to R138). -/

namespace Sys2Proof.Machine

/-- The reason that a group holds by itself (R325): of one that tests its condition, that condition's. -/
def GroupSt.held (gr : GroupSt) : WaitReason := if gr.wait = .ready then gr.under else gr.wait

/-- Every group of a gang holds wait reason FAULT (R318). Log 101 (DEDUCED). -/
def Gang.faulted (x : Gang) : Gang :=
  { x with groups := x.groups.map (fun gr =>
      { gr with under := if gr.wait = .fault then gr.under else gr.held, wait := .fault }) }

/-- The groups of a gang that is no longer parked hold what they held before (R318). -/
def Gang.unfaulted (x : Gang) : Gang :=
  { x with groups := x.groups.map (fun gr =>
      if gr.wait = .fault then { gr with wait := gr.under, under := .ready } else gr) }

/-- The gang parks the present sequence with its unfinished lanes (R318). Outside a handler the trap
record names the lanes and the lowest faulting address (R138). -/
def State.park (s : State) (p : Parked) (tl : LaneSet) (addr : VAddr) : State :=
  s.updGang p.cur.gang fun x =>
    { x.faulted with
      parked := x.parked ++ [p]
      trap := if x.trap.tcause.getLsbD 15 then x.trap else { x.trap with tlanes := tl, taddr := addr } }

/-- A fault that is not replayable ends the gang (R138, R311): INFO holds the cause and TADDR the
address. -/
def State.fatalFault (s : State) (cause : BitVec 8) (lanes : LaneSet) (addr : VAddr) : State :=
  s.trapNow cause (cause.setWidth 16) lanes addr

/-- The bytes at a place as the device reads them, without any effect on caches. A store place is the words of the banked
store themselves, also at the issuer's own window offset of a register that `wshare` maps away: log 128 (DESIGN CHOICE). -/
def State.readPlace (s : State) (p : Place) (n : Nat) : List Byte :=
  match p with
  | .mem pa _ => match s.forward pa with
    | some q => Cells.bytes s.mem q n
    | none => Cells.bytes s.mem pa n
  | .store core off => storeBytes (s.core core).store off n
  | .cspad die off => storeBytes (s.die die).cspad off n
  | .mgmt _ => List.replicate n 0
  | .host _ a => Cells.bytes s.hostMem a n

/-- One word of code: its translation and the word (R61, R312). What a fetch from MGMT finds is free: log 102 (DEDUCED). -/
def State.fetchWord (s : State) (a : Ask) (pc : PC) : Xlat × Word × State :=
  match s.translate a (pc.toNat * 4) with
  | (.ok (.mgmt o), s1) => (.ok (.mgmt o), Config.mgmtCode s1.tick o, s1)
  | (.ok p, s1) => (.ok p, wordOfBytes (s1.readPlace p 4), s1)
  | (r, s1) => (r, 0, s1)

/-- The outcome of a fetch: a sequence and what its instruction word decodes to (`runOk` is false for
a misplaced run of prefixes, R66), a fault at an address, or a wait for a host translation. -/
inductive Fetched where
  | seq (cur : IssueCtx) (d : Decoded) (runOk : Bool)
  | fault (cause : BitVec 8) (replayable host : Bool) (pc : PC)
  | ats
  deriving Repr

/-- The op byte of a word (R62). -/
def opByte (w : Word) : Nat := fieldNat w 24 8

/-- A word that a LIT with nonzero reserved bits stands before fails at step 4 (R67, R72). -/
def litDecoded (bad : Bool) (d : Decoded) : Decoded :=
  match d with
  | .ok i => if bad then .reserved i else .ok i
  | d => d

/-- A fault outcome of a fetch as `Fetched`. -/
def fetchFault (r : Xlat) (pc : PC) : Fetched :=
  match r with
  | .fatal c => .fault c false false pc
  | .absent c h => .fault c true h pc
  | _ => .ats

/-- The rest of a sequence after an optional ROUTE word: a LIT with its literal, or the instruction
word (R65, R66). -/
def State.fetchBody (s : State) (a : Ask) (cur : IssueCtx) (pc : PC) (w : Word) : Fetched × State :=
  if opByte w = 0xFD then
    match s.fetchWord a (pc + 1) with
    | (.ok _, l, s1) =>
      match s1.fetchWord a (pc + 2) with
      | (.ok _, w2, s2) =>
        (.seq { cur with iaddr := pc + 2, next := pc + 3, lit := some l }
          (litDecoded (decide (fieldNat w 0 24 ≠ 0)) (decode w2))
          (decide (opByte w2 ≠ 0xFC) && decide (opByte w2 ≠ 0xFD)), s2)
      | (r, _, s2) => (fetchFault r (pc + 2), s2)
    | (r, _, s1) => (fetchFault r (pc + 1), s1)
  else
    (.seq { cur with iaddr := pc, next := pc + 1, lit := none } (decode w) (decide (opByte w ≠ 0xFC)), s)

/-- The next sequence of group e of a gang, every word of it translated for fetch before any part
executes (R69, R312). Log 50 (DEDUCED). -/
def State.fetch (s : State) (g : GangRef) (x : Gang) (e : Nat) : Fetched × State :=
  let sl := x.groupSlices e
  let pc := (x.slice (x.lead sl)).pc
  let a := askOf (s.core g.core) g.core x 2 40
  let cur : IssueCtx :=
    { gang := g, entry := e, slices := sl, addr := pc, iaddr := pc, next := pc + 1, routed := false,
      routeA := 0, routeB := 0, routeC := 0, lit := none }
  match s.fetchWord a pc with
  | (.ok _, w, s1) =>
    if opByte w = 0xFC then
      match s1.fetchWord a (pc + 1) with
      | (.ok _, w1, s2) =>
        s2.fetchBody a
          { cur with
            routed := true, routeA := w.extractLsb' 16 8, routeB := w.extractLsb' 8 8,
            routeC := w.extractLsb' 0 8 } (pc + 1) w1
      | (r, _, s2) => (fetchFault r (pc + 1), s2)
    else s1.fetchBody a cur pc w
  | (r, _, s1) => (fetchFault r pc, s1)

/-- The wait reason of a group set (R325). -/
def State.holdGroup (s : State) (g : GangRef) (e : Nat) (r : WaitReason) : State :=
  s.updGang g (fun x => x.hold e r)

/-- A fetch that faults (R312): the gang parks at the sequence, or ends. -/
def State.fetchFails (s : State) (g : GangRef) (x : Gang) (e : Nat) (f : Fetched) : State :=
  let sl := x.groupSlices e
  let pc := (x.slice (x.lead sl)).pc
  let cur : IssueCtx :=
    { gang := g, entry := e, slices := sl, addr := pc, iaddr := pc, next := pc + 1, routed := false,
      routeA := 0, routeB := 0, routeC := 0, lit := none }
  match f with
  | .fault c replayable host at_ =>
    let va := at_.toNat * 4
    let s1 : State := { s with cur := cur }
    if replayable then
      let (fid, s2) := s1.joinFid (dieOf g.core) ((s.core g.core).sessionOf x) va 2 c host
        { eng := false, unit := false, core := some g.core, slot := g.slot, detail := 0, pc := pc }
      s2.park { cur := cur, rerun := true, saved := false, lanes := [⟨fid, none⟩], form := none } 0 (BitVec.ofNat 57 va)
    else s1.fatalFault c 0 (BitVec.ofNat 57 va)
  | .ats => s.holdGroup g e .fetch
  | .seq .. => s

/-- A word with a reserved field nonzero: steps 2 to 4 of R72. -/
def State.reservedTrap (s : State) (i : Instr) : State :=
  match s.view? with
  | none => s
  | some v =>
    let sh := shape i v.mode v.cur.lit.isSome
    if v.core.level v.gang < sh.level then s.trapNow 0x05 0 (v.tlanes sh) 0
    else if !sh.prefixOk v.cur then s.trapNow 0x03 0 (v.tlanes sh) 0
    else s.trapNow 0x02 0 (v.tlanes sh) 0

/-- The class of the queue an instruction pushes into (R175): copy 0, matrix 1, gather 2, collective 3,
queue call 4. -/
def engineClass (i : Instr) : Option Nat :=
  match i with
  | .copy .. | .copyf .. | .cfill .. | .tld .. | .tsto .. => some 0
  | .tmma .. | .ttr .. | .tperm .. | .tred .. | .azero .. | .amov .. | .amovt .. | .acvt .. | .asave ..
  | .arest .. | .tmvGet .. | .tmvPut .. | .tfill .. => some 1
  | .gath .. | .scat .. => some 2
  | .mcast .. => some 3
  | .qcall .. => some 4
  | _ => none

/-- `div`, `rem`, `fdiv` and `sqrt`, which a port issues at most once every 4 cycles (R105). -/
def longOp (i : Instr) : Bool :=
  match i with
  | .div .. | .rem .. | .fdiv .. | .sqrt .. => true
  | _ => false

/-- `div` and `rem` under I64, which a port issues at most once every 8 cycles (R105). -/
def wideDiv (i : Instr) (m : ModeWord) : Bool :=
  match i with
  | .div .. | .rem .. => decide (modeType m = 10)
  | _ => false

/-- The next port's own interval does not yet allow the instruction (R105, R174). -/
def Ports.held (p : Ports) (cyc : Nat) (i : Instr) (m : ModeWord) : Bool :=
  (longOp i && decide (cyc < p.busy.getD p.port 0)) ||
  (wideDiv i m && decide (cyc < p.busy.getD (4 + p.port) 0))

/-- The energy and temperature mode of a die (R273): 0 NORMAL, 1 TIGHT, 2 THROTTLED. -/
def DieSt.mode (d : DieSt) : Nat :=
  if d.throttled || d.hot then 2
  else if d.tlim ≤ d.theta + 16 ∨ d.budget * (d.cyc - d.winStart) < d.energy * Config.windowCycles then 1
  else 0

/-- A stop of the crew forbids gang `x` of rank `r` to issue: it is stopped and no step window is open
for the group of slices `sl`, or its trigger is four cycles past (R230, R233). -/
def Crew.stops (c : Crew) (cyc : Nat) (g : GangRef) (sl : SliceSet) : Bool :=
  match c.window with
  | some w => !(decide (w.gang = g) && !w.trapped && w.issued.all (fun m => decide (m &&& sl = 0)) &&
      decide (cyc < w.since + 64))
  | none => c.stopped || (c.trig.any fun t => decide (t.cycle + 4 ≤ cyc))

/-- Group e of a gang may issue in this cycle as far as its place is concerned: power, freeze, crew,
session and cut leave it free (R223, R230, R273, R277, R278, R331); a form that it is inside goes on whatever stops the
issue of its gang (R39, R280). -/
def State.mayIssue (s : State) (g : GangRef) (x : Gang) (e : Nat) : Bool :=
  let d := s.die (dieOf g.core)
  let n := (s.core g.core).sessionOf x
  !d.frozen && !decide (clusterOf g.core ∈ d.frozenClusters) && !decide (clusterOf g.core ∈ d.freezing) &&
  !decide (12 ∈ d.freezing) &&
  !(decide (d.mode = 2) && decide (d.cyc % 2 = 1)) &&
  (x.inForm e ||
    (x.raised.all (fun r => decide (r.cycle = some d.cyc) && decide (x.groupSlices e &&& r.slices = 0)) &&
     (match s.crewOf g.core x with
      | some c => decide (c.drain = .running) && !c.stops d.cyc g (x.groupSlices e)
      | none => true) &&
     !decide (s.sesState n = 3) && !decide (s.sesState n = 4) && (s.ses n).attempt.isNone))

/-- The next sequence of a group and its instruction: what the issue choice looks at (R173, R174). -/
def State.peek (s : State) (g : GangRef) (x : Gang) (e : Nat) : Option (IssueCtx × Instr) :=
  match s.fetch g x e with
  | (.seq cur (.ok i) true, _) => some (cur, i)
  | _ => none

/-- A group of a core that is ready for the issue choice: slot, entry, its class 0 to 2 in the order of
R174, age, lowest slice. -/
structure Ready where
  slot : Nat
  entry : Nat
  cls : Nat
  age : Nat
  low : Nat
  deriving DecidableEq, Repr

/-- Commands that fill a queue of a core (R175): copies in flight, the unfired commands of another class, and the
`qcall`s that wait to be appended (log 33). -/
def CoreSt.queued (c : CoreSt) (q : Nat) : Nat :=
  if q = 4 then (c.gangs.map fun e => (e.2.held.filter fun h => match h.op with | .qcall .. => true | _ => false).length).sum
  else ((c.queues.getD q []).filter (fun k => if q = 0 then !k.done else !k.fired)).length

/-- A group with a slice that has issued in the present cycle: a group issues once in a cycle, and so does one
that a branch of this cycle split off (R174). -/
def Ports.took (p : Ports) (slot : Nat) (g : SliceSet) : Bool :=
  (slicesOf g).any (fun n => decide ((slot, n) ∈ p.taken))

/-- The code of a wait reason (R325). -/
def WaitReason.code (r : WaitReason) : Nat :=
  match r with
  | .ready => 0 | .empty => 1 | .full => 2 | .regang => 3 | .yield => 4 | .pause => 5 | .watch => 6
  | .acq => 7 | .fence => 8 | .barrier => 9 | .cbar => 10 | .engine => 11 | .acount => 12 | .qfull => 13
  | .chanFull => 14 | .pbfull => 15 | .sched => 16 | .cklfull => 17 | .power => 18 | .debug => 19
  | .fault => 20 | .latency => 21 | .fetch => 22 | .release => 23

/-- Wait reasons that freeze a group's watchdog (R325). -/
def reasonFrozen (r : WaitReason) : Bool :=
  match r with
  | .sched | .cklfull | .power | .debug | .fault => true
  | _ => false

/-- Of two conditions that a group waits on, the one whose reason it holds (R325): a frozen one, then the higher
code. -/
def WaitReason.along (a b : WaitReason) : WaitReason :=
  if reasonFrozen a = reasonFrozen b then (if a.code < b.code then b else a)
  else if reasonFrozen a then a else b

/-- What keeps the next sequence of a group from issuing before its checks (R173): a result it needs, or a full
queue. -/
def State.nextWaits (s : State) (core : Nat) (n : Option (IssueCtx × Instr)) : WaitReason :=
  match n with
  | none => .ready
  | some (cur, i) =>
    match ({ s with cur := cur } : State).view? with
    | none => .ready
    | some v =>
      let full := (engineClass i).any fun k => decide (Config.queueDepth.getD k 0 ≤ (s.core core).queued k)
      (if v.latent (shape i v.mode cur.lit.isSome) then WaitReason.latency else .ready).along
        (if full then .engine else .ready)

/-- The wait reason that group e of a gang holds (R325), NONE if it is ready (R173): of all the conditions it waits on,
a stop of its crew, a throttled die and a session that a cut or the scheduler stops among them. Log 123
(DESIGN CHOICE): SCHED for the last. -/
def State.reason (s : State) (g : GangRef) (x : Gang) (e : Nat) : WaitReason :=
  let own := (x.group e).held
  let n := (s.core g.core).sessionOf x
  let crew := s.crewOf g.core x
  (((own.along (if own = .ready then s.nextWaits g.core (s.peek g x e) else .ready)).along
    (if crew.any (·.stopped) then .debug else .ready)).along
    (if (s.die (dieOf g.core)).mode = 2 then .power else .ready)).along
    (if crew.any (fun c => decide (c.drain ≠ .running)) ∨ s.sesState n = 3 ∨ s.sesState n = 4 ∨ (s.ses n).attempt.isSome
     then .sched else .ready)

/-- The groups of a core that a port may take (R173, R174): those that are ready, and those that test their
condition. -/
def State.readyGroups (s : State) (core : Nat) : List Ready :=
  let c := s.core core
  let p := c.ports
  let cyc := (s.die (dieOf core)).cyc
  c.gangs.flatMap fun sx =>
    let g : GangRef := ⟨core, sx.1, sx.2.gid⟩
    (sx.2.groupList.filter fun e =>
      decide ((sx.2.group e).wait = .ready) && !p.took sx.1 (sx.2.groupSlices e) && s.mayIssue g sx.2 e).filterMap
    fun e =>
      let n := if sx.2.inForm e then none else s.peek g sx.2 e
      let m := (sx.2.slice (sx.2.lead (sx.2.groupSlices e))).mode
      let q := n.bind (fun i => engineClass i.2)
      let skip := (q.any fun k => decide (k ∈ p.pushed)) || (n.any fun i => p.held cyc i.2 m) ||
        decide (s.nextWaits core n ≠ .ready)
      let age := (sx.2.group e).age
      let dep := q.any fun k => decide (Config.queueDepth.getD k 0 ≤ c.queued k + 4)
      if skip then none
      else some ⟨sx.1, e, if age = 64 then 0 else if dep then 2 else 1, age, sx.2.lead (sx.2.groupSlices e)⟩

/-- The order of R174: class, descending age, slot, lowest slice. -/
def Ready.before (a b : Ready) : Bool :=
  if a.cls ≠ b.cls then decide (a.cls < b.cls)
  else if a.age ≠ b.age then decide (b.age < a.age)
  else if a.slot ≠ b.slot then decide (a.slot < b.slot)
  else decide (a.low < b.low)

def bestReady : List Ready → Option Ready
  | [] => none
  | r :: rs =>
    match bestReady rs with
    | some b => if r.before b then some r else some b
    | none => some r

/-- A present group is counted as issued: in the cycle's choice, in its port's interval, in a step
window and in the skids of a stop under way (R105, R174, R230, R233). -/
def State.noteIssue (s : State) (core : Nat) (r : Ready) (i : Option (Instr × ModeWord)) : State :=
  let c := s.core core
  let cyc := (s.die (dieOf core)).cyc
  let long := i.any (fun n => longOp n.1)
  let wide := i.any (fun n => wideDiv n.1 n.2)
  let p := c.ports
  let busy := if long then p.busy.set p.port (cyc + 4) else p.busy
  let c1 : CoreSt :=
    { c with
      prior := p
      ports :=
        { taken := p.taken ++ ((Cells.find? c.gangs r.slot).map
            (fun x => (slicesOf (x.groupSlices r.entry)).map (fun n => (r.slot, n)))).getD []
          pushed := match i.bind (fun n => engineClass n.1) with
            | some q => p.pushed ++ [q]
            | none => p.pushed
          busy := if wide then busy.set (4 + p.port) (cyc + 8) else busy
          port := p.port + 1 } }
  let s1 := s.setCore core c1
  match Cells.find? c.gangs r.slot with
  | none => s1
  | some x =>
    let g : GangRef := ⟨core, r.slot, x.gid⟩
    let k := s.crewOf core x
    let skids := k.any (fun k => k.trig.any (fun t => decide (t.cycle ≤ cyc)))
    let s2 := (s1.updTeam core x.team (fun t => { t with issued := t.issued + 1 })).updGang g fun y =>
      { y with seqs := y.seqs + 1, burst := y.burst + 1, skid := if skids then y.skid + 1 else y.skid }
    match k with
    | none => s2
    | some k => s2.updCrew k.id fun k => { k with
        window := k.window.map (fun w => if w.gang = g then { w with issued := w.issued ++ [x.groupSlices r.entry] } else w) }

/-- The watch range of a watchpoint meets `n` bytes at an address (R229, R328). -/
def Watchpoint.hits (w : Watchpoint) (virt : Bool) (bit addr n : Nat) : Bool :=
  w.wctl.getLsbD 5 && w.wctl.getLsbD bit && decide (w.virt = virt) &&
  decide (addr < w.addr + 2 ^ fieldNat w.wctl 0 2) && decide (w.addr < addr + n)

/-- Watchpoints of a crew match: it is under debug control and neither stopped nor in a step (R229, R233). -/
def Crew.watching (c : Crew) (cyc : Nat) : Bool :=
  c.attached && !c.stopped && c.trig.all (fun t => decide (cyc ≤ t.cycle)) && c.window.isNone

/-- The lowest watchpoint of a crew that an access matches: bit 2 reads, 3 writes, 4 atomics, 6
fetches (R229, R230 item 1). -/
def Crew.watchHit (c : Crew) (cyc : Nat) (virt : Bool) (bit addr n : Nat) : Option Nat :=
  if c.watching cyc then
    (List.range 4).find? (fun i => ((c.wps[i]?).any fun w => w.hits virt bit addr n))
  else none

/-- The rank of a core in a crew. -/
def Crew.rankOf (c : Crew) (core : Nat) : Nat :=
  ((List.range c.cores.length).find? (fun r => decide (c.cores[r]? = some core))).getD 0

/-- What decides between triggers (R230 item 1, R329): cycle; watchpoint by number, `brk`, `dbg.stop`; an access
before a fetch; rank; gang number. -/
def State.triggerKey (s : State) (c : Crew) (t : Trigger) : List Nat :=
  let who := match t.gang with
    | some g => [c.rankOf g.core, ((s.gang? g).map (·.num)).getD 0]
    | none => [0, 0]
  [t.cycle, if t.why = 0 then t.wp else if t.why = 2 then 4 else 5, if t.why = 0 ∧ t.seq = none then 1 else 0] ++ who

/-- One list of numbers is before another, entry by entry. -/
def keyBefore : List Nat → List Nat → Bool
  | a :: r, b :: q => if a = b then keyBefore r q else decide (a < b)
  | _, _ => false

/-- A stop of a crew is triggered (R230): an earlier trigger, or a better one of the same cycle, takes the place of
the present one. The skids of its gangs start with the sequences already issued in cycle T, and the records follow
once its sequences have completed. -/
def State.trigger (s : State) (c : Crew) (t : Trigger) : State :=
  if c.stopped ∨ c.trig.any (fun u => !keyBefore (s.triggerKey c t) (s.triggerKey c u)) then s
  else
    let now := decide ((s.die c.die).cyc = t.cycle)
    let s1 := s.updCrew c.id (fun k => { k with trig := some t })
    let s2 := (s1.crewGangs c).foldl
      (fun s' p => s'.updGang p.1 (fun y => { y with skid := if now then y.burst else 0 })) s1
    if c.trig.isSome then s2 else s2.post (.stopRecords c.id)

/-- The lowest watchpoint that some access of a sequence matches, with the address of the lowest lane that matches it
(R230 item 1, R328). -/
def Crew.watchFirst (c : Crew) (cyc bit : Nat) (eas : List VAddr) (n : Nat) : Option (Nat × VAddr) :=
  (List.range 4).findSome? fun w =>
    (eas.find? fun a => !isAperture a && c.watching cyc && (c.wps[w]?).any (fun p => p.hits true bit a.toNat n)).map
      (fun a => (w, a))

/-- An access of a gang to the session's addresses is matched against the crew's watchpoints at issue
(R328). -/
def State.watchVirtual (s : State) (g : GangRef) (pc : PC) (bit : Nat) (eas : List VAddr) (n : Nat) : State :=
  match s.gang? g with
  | none => s
  | some x =>
    match s.crewOf g.core x with
    | none => s
    | some c =>
      let cyc := (s.die (dieOf g.core)).cyc
      match c.watchFirst cyc bit eas n with
      | none => s
      | some (w, a) =>
        s.trigger c
          { cycle := cyc, why := 0, wp := w, gang := some g, seq := some x.seqs, pc := pc, addr := a.setWidth 32 }

/-- Bit of WCTL that an access kind matches (R229). -/
def kindBit (k : AccKind) : Nat :=
  match k with
  | .load _ | .loadw _ | .bind .. => 2
  | .store _ => 3
  | .atomic .. => 4
  | .version bump _ => if bump then 4 else 2
  | .maint _ => 32

/-- An access kind is a write for translation and copy-on-write (R311, R146): `wb` and `inv` are. -/
def kindWrites (k : AccKind) : Bool :=
  match k with
  | .store _ | .atomic .. | .maint _ => true
  | .version bump _ => bump
  | _ => false

/-- An access kind changes bytes, so that the undo log needs their old content (R276). -/
def kindStores (k : AccKind) : Bool :=
  match k with
  | .store _ | .atomic .. => true
  | .version bump _ => bump
  | _ => false

/-- One access to be issued: its lane (32 for a uniform one), the lanes it stands for, its address and
kind. -/
structure LaneReq where
  lane : Nat
  lanes : LaneSet
  va : VAddr
  kind : AccKind
  deriving DecidableEq, Repr

/-- A request after its address has been resolved: `at_` is the address the outcome is about. -/
structure Resolved where
  req : LaneReq
  out : Xlat
  at_ : VAddr
  deriving DecidableEq, Repr

/-- One address of an access of `size` bytes resolved (R132, R311). An aperture address that R132
refuses has been turned away before. -/
def State.place1 (s : State) (a : Ask) (t : Team) (va : VAddr) (size : Nat) : Xlat × State :=
  if isAperture va then
    match s.aperture (a.core.getD 0) t va.toNat size with
    | some p => (.ok p, s)
    | none => (.fatal 0x40, s)
  else s.translate a va.toNat

/-- The further 8-byte pieces of an access resolved in order: their places, or the first outcome that is
no place with its address. -/
def State.placeRest (s : State) (a : Ask) (t : Team) :
    List VAddr → (List Place × Option (Xlat × VAddr)) × State
  | [] => (([], none), s)
  | va :: r =>
    match s.place1 a t va 8 with
    | (.ok p, s1) =>
      let ((ps, e), s2) := State.placeRest s1 a t r
      ((p :: ps, e), s2)
    | (x, s1) => (([], some (x, va)), s1)

/-- The addresses of an access after its first: those of the other pieces of a shape record (R149). -/
def restAddrs (va : VAddr) (k : AccKind) : List VAddr :=
  match k with
  | .bind .. => [va + 8, va + 16, va + 24]
  | _ => []

/-- One request resolved. -/
def State.resolve1 (s : State) (a : Ask) (t : Team) (size : Nat) (r : LaneReq) : Resolved × State :=
  match s.place1 a t r.va size with
  | (.ok p, s1) =>
    match r.kind with
    | .bind undo object _ dst =>
      match s1.placeRest a t (restAddrs r.va r.kind) with
      | ((ps, none), s2) => (⟨{ r with kind := .bind undo object ps dst }, .ok p, r.va⟩, s2)
      | ((_, some (x, va)), s2) => (⟨r, x, va⟩, s2)
    | _ => (⟨r, .ok p, r.va⟩, s1)
  | (x, s1) => (⟨r, x, r.va⟩, s1)

/-- The ask of a lane's access. -/
def laneAsk (c : CoreSt) (core : Nat) (x : Gang) (r : LaneReq) : Ask :=
  askOf c core x (if kindWrites r.kind then 1 else 0) r.lane

/-- The accesses of one sequence resolved in order, with what the TLBs then hold (R138). -/
def State.resolve (s : State) (v : View) (t : Team) (size : Nat) : List LaneReq → List Resolved × State
  | [] => ([], s)
  | r :: rs =>
    let (o, s1) := s.resolve1 (laneAsk v.core v.cur.gang.core v.gang r) t size r
    let (os, s2) := State.resolve s1 v t size rs
    (o :: os, s2)

/-- The access of a resolved request. -/
def accessOf (v : View) (r : LaneReq) (p : Place) (size : Nat) : Access :=
  { gang := v.cur.gang, slices := v.cur.slices, lane := r.lane, lanes := r.lanes, session := v.core.sessionOf v.gang,
    level := v.core.level v.gang, va := r.va, place := p, size := size, pc := v.cur.addr,
    seq := v.gang.seqs, kind := r.kind, stale := false }

/-- A copy of a line that an `ldw` of a core takes (R142): in its L1, in the die's L2, or in the die's
stacked cache, an S copy only within its lease. -/
def State.localCopy? (s : State) (core l : Nat) : Option Copy :=
  let d := dieOf core
  [Holder.l1 core, .l2 d, .stacked d].findSome? fun h =>
    (s.copy? h l).filter (fun c => s.fresh? d c)

/-- Bytes as the words of a destination: a narrow value is zero-extended (R134). -/
def loadWords (bs : List Byte) : List Word := wordsOfBytes bs

/-- The deliveries of a value to the lanes of a destination (R34). -/
def deliveries (g : GangRef) (d : Dest) (ws : List Word) : List Event :=
  d.map (fun e => .producerDelivery { gang := g, lane := e.1, writes := List.zip e.2 ws })

/-- An access of the gang on its way that the present one must follow: one to the same bytes (R137), or
an `acq` (R151). -/
def State.mustFollow (s : State) (g : GangRef) (pa n : Nat) : Bool :=
  s.accessPending g fun a =>
    (match a.place with
     | .mem b _ => decide (b < pa + n) && decide (pa < b + a.size)
     | _ => false) ||
    (match a.kind with
     | .version bump _ => !bump
     | _ => false)

/-- `ldw` of one lane whose address has been translated (R142): from a local copy with a watch entry, or
as `ld32`, with the table full at the home. Log 45 (DEDUCED). -/
def State.watchLoad (s : State) (a : Access) (dst : Dest) : State :=
  let asLoad := s.post (.accessAtHome { a with kind := .load dst })
  match s.gang? a.gang, a.place with
  | some x, .mem pa _ =>
    match s.localCopy? a.gang.core (lineOf pa) with
    | none => asLoad
    | some c =>
      let line := a.va.toNat / 128
      let lane : LaneSet := BitVec.ofNat 32 (2 ^ a.lane)
      let s1 := s.postAll (deliveries a.gang dst
        (loadWords (if c.bytes.isSome then c.part pa 4 else Cells.bytes s.mem pa 4)))
      if s.mustFollow a.gang pa 4 ∨ (s.forward pa) ≠ some pa then asLoad
      else if x.watch.any (fun e => decide (e.line = line) && !e.struck) then
        s1.setGang a.gang { x with watch := x.watch.map fun e =>
          if e.line = line ∧ !e.struck then { e with own := e.own ||| lane } else e }
      else if x.watch.length < 16 then
        let e : WatchEntry :=
          { line := line, ver := c.ver, own := lane, stamp := s.nextId,
            since := (s.die (dieOf a.gang.core)).cyc, struck := false }
        (s1.fresh.setGang a.gang { x with watch := x.watch ++ [e] }).post
          (.confirmationRequest a.gang (lineOf pa) c.ver s.nextId)
      else s.post (.accessAtHome a)
  | _, _ => asLoad

/-- A translated access sets out: to its home, or to a copy in the core. -/
def State.sendAccess (s : State) (a : Access) : State :=
  match a.kind with
  | .loadw dst => s.watchLoad a dst
  | .maint _ => match a.place with
    | .mem .. => s.post (.accessAtHome a)
    | _ => s
  | _ => s.post (.accessAtHome a)

/-- The rows and lines that a write at a place may have to log (R276). -/
def placeKeys (p : Place) : List Nat × List Nat :=
  match p with
  | .mem pa _ => ([lineOf pa], [])
  | .store core off => ([], [storeRow core off])
  | .cspad die off => ([], [cspadRow die off])
  | _ => ([], [])

/-- The undo log has room for the new entries of these writes (R276). -/
def State.logFits (s : State) (n : Nat) (ps : List Place) : Bool :=
  let d := s.ses n
  let ls := newOnes (d.undo.map (·.1)) (ps.flatMap (fun p => (placeKeys p).1))
  let rs := newOnes d.rows (ps.flatMap (fun p => (placeKeys p).2))
  decide (ls.length + rs.length ≤ s.logRoom n)

/-- The destination copies of a delivery, marked empty until it comes (R34). -/
def CoreSt.expect (c : CoreSt) (g : GangRef) (x : Gang) (d : Dest) : CoreSt :=
  d.foldl (fun c1 lw => lw.2.foldl (fun c2 w => c2.setCopy x w (.empty (.delivery g lw.1))) c1) c

/-- The destinations of an access kind. -/
def kindDest (k : AccKind) : Dest :=
  match k with
  | .load d | .loadw d => d
  | .store _ | .maint _ => []
  | .atomic _ _ _ _ _ d => d
  | .version _ d => d
  | .bind _ _ _ d => d

/-- Registers marked empty by the present sequence. -/
def State.expect (s : State) (d : Dest) : State :=
  match s.me? with
  | some x => s.setCore s.cur.gang.core ((s.core s.cur.gang.core).expect s.cur.gang x d)
  | none => s

/-- The set of lanes of a list of requests. -/
def lanesIn (rs : List LaneReq) : LaneSet := rs.foldl (fun m r => m ||| r.lanes) 0

/-- The requests that a replayable fault stopped, each with its FID, which it joins or makes (R316). -/
def State.joinAll (s : State) (v : View) (un : LaneSet) (size : Nat) : List Resolved → List PLane × State
  | [] => ([], s)
  | r :: rs =>
    match r.out with
    | .absent c host =>
      let (fid, s1) := s.joinFid (dieOf v.cur.gang.core) (v.core.sessionOf v.gang) r.at_.toNat
        (if kindWrites r.req.kind then 1 else 0) c host
        { eng := false, unit := false, core := some v.cur.gang.core, slot := v.cur.gang.slot,
          detail := un, pc := v.cur.addr }
      let (ls, s2) := State.joinAll s1 v un size rs
      (⟨fid, some (accessOf v r.req (.mem 0 0) size)⟩ :: ls, s2)
    | _ => State.joinAll s v un size rs

/-- A 16-byte access is made as its two 8-byte halves (R136). -/
def halves (size : Nat) (r : LaneReq) : List LaneReq :=
  if size = 16 then
    match r.kind with
    | .load d =>
      [{ r with kind := .load (d.map (fun e => (e.1, e.2.take 2))) },
       { r with va := r.va + 8, kind := .load (d.map (fun e => (e.1, e.2.drop 2))) }]
    | .store bs => [{ r with kind := .store (bs.take 8) }, { r with va := r.va + 8, kind := .store (bs.drop 8) }]
    | _ => [r]
  else [r]

/-- The accesses of a memory instruction issue (R131 to R138, R276, R328): alignment, apertures and
translation lane by lane; the lanes that translate are sent to their homes in increasing order, their
destinations empty; a fault that is not replayable ends the gang, and a replayable one parks it.
`go` makes the sequence take effect once no check of its own is left, and `after` follows when every lane is sent. -/
def State.issueAccess (s : State) (go : State → State) (v : View) (size : Nat) (align : Nat) (rs : List LaneReq)
    (after : State → State) : State :=
  let bad := rs.filter (fun r => decide (r.va.toNat % align ≠ 0))
  match bad with
  | b :: _ => s.trapNow 0x20 0 (lanesIn bad) b.va
  | [] =>
    match v.core.team? v.gang.team with
    | none => s
    | some t =>
      let off := rs.filter (fun r => isAperture r.va && (s.aperture v.cur.gang.core t r.va.toNat size).isNone)
      match off with
      | b :: _ => s.trapNow 0x40 0 (lanesIn off) b.va
      | [] =>
        let size1 := if size = 16 then 8 else size
        let (os, s1) := s.resolve v t size1 (rs.flatMap (halves size))
        let n := v.core.sessionOf v.gang
        let okPlaces := os.filterMap (fun o => match o.out with
          | .ok p => if kindStores o.req.kind then some p else none
          | _ => none)
        if os.any (fun o => decide (o.out = .ats)) then s.hold .fetch
        else if !(go s1).logFits n okPlaces then s.logFull n
        else
          let s2 := (go s1).watchVirtual v.cur.gang v.cur.addr
            (match rs with | r :: _ => kindBit r.kind | [] => 2) (rs.map (·.va)) size
          let s3 := s2.expect (rs.flatMap (fun r => kindDest r.kind))
          let s4 := os.foldl (fun s' o => match o.out with
            | .ok p => s'.sendAccess (accessOf v o.req p size1)
            | _ => s') s3
          match os.find? (fun o => match o.out with | .fatal _ => true | _ => false) with
          | some o =>
            s4.fatalFault (match o.out with | .fatal c => c | _ => 0)
              (lanesIn ((os.filter (fun o => match o.out with | .fatal _ => true | _ => false)).map (·.req)))
              o.req.va
          | none =>
            let un := os.filter (fun o => match o.out with | .absent .. => true | _ => false)
            match un with
            | [] => after s4
            | u :: _ =>
              let (ls, s5) := s4.joinAll v (lanesIn (un.map (·.req))) size1 un
              s5.park { cur := v.cur, rerun := false, saved := false, lanes := ls, form := none } (lanesIn (un.map (·.req))) u.req.va

/-- EA of R131 for a lane: the pair of slot A and a signed offset scaled by the access size. -/
def effAddr (a : DWord) (off : BitVec 8) (size : Nat) : VAddr :=
  a.setWidth 57 + (off.signExtend 57) * BitVec.ofNat 57 size

/-- The slice that produces a uniform result (R36): that of the lowest active lane. Log 13 (DEDUCED). -/
def View.producer (v : View) : Nat :=
  match lowest? 32 (fun l => v.act.getLsbD l) with
  | some l => l / 4
  | none => v.gang.lead v.cur.slices

/-- The lanes that a delivery reaches and their register words: each active lane of a vector
destination, or the uniform registers (R34). -/
def View.dest (v : View) (d : Reg) (n : Nat) : Dest :=
  if isUniform d then [(33 + v.producer, (List.range n).map (fun i => uniWord v.gang (d.toNat - 0xC0 + i)))]
  else (lanesOf v.act).map (fun l => (l, (List.range n).map (fun i => (d.toNat + i) * 32 + l)))

/-- The destination words of one lane. -/
def laneDest (d : Reg) (n l : Nat) : Dest := [(l, (List.range n).map (fun i => (d.toNat + i) * 32 + l))]

end Sys2Proof.Machine
end

