-- ==== Sys2Proof/Machine/Sched.lean ====
section
/-! DEFINITION. What a step does around `exec`: the issue choice of a core and the fetch of the chosen
sequence (R72, R173, R174, R210, R329), the test of a waiting group (R325), the order that events on
their way keep (R137, R142, R208, R317), the steps that come from outside, and the passing of cycles
(R2, R91, R174, R187, R252, R273, R277, R326). -/

namespace Sys2Proof.Machine

/-- The trap of a return record with STATUS 0x01, taken at group e's sequence (R210). The records of
one `qcall` that have been delivered raise one trap. -/
def State.unitTrap (s : State) (g : GangRef) (x : Gang) (e : Nat) : State :=
  match x.unitFaults with
  | [] => s
  | r :: _ =>
    let same := x.unitFaults.filter (fun f => decide (f.call.tag = r.call.tag))
    let lanes := laneSet (fun l => same.any (fun f => decide (f.call.lane = l)))
    let low := (lowest? 32 (fun l => lanes.getLsbD l)).getD 0
    let sl := x.groupSlices e
    let first := (same.find? (fun f => decide (f.call.lane = low))).getD r
    (s.setGang g { x with unitFaults := x.unitFaults.filter (fun f => decide (f.call.tag ≠ r.call.tag)) }).raise g
      { cause := ((first.words.getD 0 0) >>> 8).setWidth 8
        info := BitVec.ofNat 16 (r.call.cap % 64 + 256 * low)
        slices := sl
        addr := (x.slice (x.lead sl)).pc
        taddr := 0
        tlanes := lanes
        bu := true
        next := none
        cycle := none }

/-- The trap of a held matrix command whose accumulator another session owns, placed as that of a unit fault
is (R213). -/
def State.foreignTrap (s : State) (g : GangRef) (x : Gang) (e : Nat) : State :=
  match x.foreign with
  | [] => s
  | (k, owner) :: r =>
    let sl := x.groupSlices e
    (s.setGang g { x with foreign := r }).raise g
      { cause := 0x41, info := BitVec.ofNat 16 (k * 16384 + owner), slices := sl,
        addr := (x.slice (x.lead sl)).pc, taddr := 0, tlanes := 0, bu := false, next := none, cycle := none }

/-- A trap of the gang's calls or held commands is to be taken at the next sequence (R210, R213). -/
def Gang.owesTrap (x : Gang) : Bool := decide (x.unitFaults ≠ []) || decide (x.foreign ≠ [])

def State.owedTrap (s : State) (g : GangRef) (x : Gang) (e : Nat) : State :=
  if x.unitFaults ≠ [] then s.unitTrap g x e else s.foreignTrap g x e

/-- What the issue of a chosen group comes to: an instruction to execute on the state with its sequence
set, or nothing more. -/
structure Chosen where
  instr : Option Instr
  state : State

/-- A fetch watchpoint of the gang's crew matches the address of a sequence (R329). -/
def State.watchFetch (s : State) (g : GangRef) (x : Gang) (pc : PC) : Option (Crew × Nat) :=
  match s.crewOf g.core x with
  | none => none
  | some c => (c.watchHit (s.die (dieOf g.core)).cyc true 6 (pc.toNat * 4) 1).map (fun w => (c, w))

/-- Group e of a gang issues: a pending unit fault is taken at its sequence, a fetch watchpoint stops
the crew before it but for the sequence that a stop has already been taken at, a form that it is inside goes on, a fetch fault parks or ends the gang, and the words pass steps 1 to 4 of R72 as far
as they do not need the instruction. -/
def State.issueGroup (s : State) (core : Nat) (r : Ready) (x : Gang) : Chosen :=
  let g : GangRef := ⟨core, r.slot, x.gid⟩
  let e := r.entry
  let pc := (x.slice (x.lead (x.groupSlices e))).pc
  match x.form? e with
  | some f => ⟨some f.instr, { s with cur := f.cur }⟩
  | none =>
  if x.owesTrap ∧ !x.trap.tcause.getLsbD 15 then
    ⟨none, (s.noteIssue core r none).owedTrap g x e⟩
  else
    match if (x.group e).cleared then none else s.watchFetch g x pc with
    | some (c, w) =>
      ⟨none, (s.holdGroup g e .debug).trigger c
        { cycle := (s.die (dieOf core)).cyc, why := 0, wp := w, gang := some g, seq := none,
          pc := pc, addr := 0 }⟩
    | none =>
      match s.fetch g x e with
      | (.seq cur d runOk, s1) =>
        let m := (x.slice (x.lead (x.groupSlices e))).mode
        let s2 : State := { s1 with cur := cur }
        if !runOk then ⟨none, (s2.noteIssue core r none).trapNow 0x03 0 0 0⟩
        else
          match d with
          | .ok i => ⟨some i, s2.noteIssue core r (some (i, m))⟩
          | .reserved i => ⟨none, (s2.noteIssue core r none).reservedTrap i⟩
          | .unassigned _ => ⟨some .illegalOpcode, s2.noteIssue core r none⟩
      | (f, s1) => ⟨none, s1.fetchFails g x e f⟩

/-- The issue choice of a core's next port (R174). A port that finds no group is passed. -/
def State.choose (s : State) (core : Nat) : Chosen :=
  let c := s.core core
  if 4 ≤ c.ports.port then ⟨none, s⟩
  else
    match bestReady (s.readyGroups core) with
    | none => ⟨none, s.setCore core { c with ports := { c.ports with port := c.ports.port + 1 } }⟩
    | some r =>
      match Cells.find? c.gangs r.slot with
      | some x => s.issueGroup core r x
      | none => ⟨none, s⟩

/-- Reasons whose condition a waiting group tests by issuing its sequence again (R325): those that no
delivery or event ends of itself. -/
def retestable (r : WaitReason) : Bool :=
  match r with
  | .empty | .full | .watch | .acq | .fence | .barrier | .cbar | .engine | .acount | .qfull | .chanFull
  | .pbfull | .sched | .cklfull | .power | .debug | .latency | .fetch | .release => true
  | .ready | .regang | .yield | .pause | .fault => false

/-- A group that waits tests its condition (R325): its sequence may issue again, unless it has begun
effects and waits for a delivery or for what a waiter awaits, or a fetch watchpoint matched it and the stop is under
way (R329). -/
def State.retest (s : State) (core slot e : Nat) : State :=
  match Cells.find? (s.core core).gangs slot with
  | none => s
  | some x =>
    let g : GangRef := ⟨core, slot, x.gid⟩
    if retestable (x.group e).wait && !x.begun e && x.raised.isNone &&
        !(x.held.any fun h => decide (h.cur.entry = e)) &&
        !(decide ((x.group e).wait = .debug) && (s.crewOf core x).any (fun c => c.trig.isSome && !c.stopped)) &&
        !(s.waiters.any fun w => decide (w.gang = g) && decide (w.entry = e)) then
      s.setGang g (x.setGroup e (x.group e).test)
    else s

/-- Two accesses of one gang that touch one byte (R137). -/
def samePlace (p q : Place) (n m : Nat) : Bool :=
  let meet (a b : Nat) : Bool := decide (a < b + m) && decide (b < a + n)
  match p, q with
  | .mem a _, .mem b _ => meet a b
  | .store c a, .store d b => decide (c = d) && meet a b
  | .cspad c a, .cspad d b => decide (c = d) && meet a b
  | .mgmt a, .mgmt b => meet a b
  | .host c a, .host d b => decide (c = d) && meet a b
  | _, _ => false

/-- The call of a unit or record port, and its queue: calls of one endpoint are served in order of
arrival (R208, R266). -/
def eventCall (e : Event) : Option Call :=
  match e with
  | .recordReserve x | .recordCommit x | .vrOpen x | .vrPrim x | .vrDone x | .vrWaitf x | .buOpenf x
  | .buBin x | .buClose x | .bluOpen x | .bluFrag x | .bluDone x | .bluWaitf x | .tfuSample x
  | .ryuTrace x | .bvoStart x | .bvoStop x | .fenOpens x | .fenFrame x | .fenRelease x | .fenCloses x =>
    some x
  | .collectiveAllreduce x _ | .collectiveBroadcast x _ => some x
  | _ => none

/-- Two calls are in one queue: unit endpoints are module-wide, other endpoints are those of the session
(R281, R352). -/
def sameQueue (a b : Call) : Bool :=
  decide (a.die = b.die) && decide (a.ep = b.ep) && (decide (0xF0000 ≤ a.ep) || decide (a.session = b.session))

/-- The gang whose watch table an event changes in the order the home decided (R143). -/
def eventWatch (e : Event) : Option GangRef :=
  match e with
  | .watchConfirm g _ | .watchStrike g _ => some g
  | _ => none

/-- The places of an access with their sizes: `wb` and `inv` touch the whole line (R140). -/
def accessPlaces (a : Access) : List (Place × Nat) :=
  match a.kind with
  | .bind _ _ rest _ => (a.place, 8) :: rest.map (fun p => (p, 8))
  | .maint _ => match a.place with
    | .mem pa coh => [(.mem (lineOf pa * 128) coh, 128)]
    | p => [(p, a.size)]
  | _ => [(a.place, a.size)]

/-- An `acq` on its way. -/
def isAcquire (a : Access) : Bool :=
  match a.kind with
  | .version bump _ => !bump
  | _ => false

/-- A `wb` or `inv` on its way: it follows older stores to its line, and orders nothing (R140). -/
def isMaint (a : Access) : Bool :=
  match a.kind with
  | .maint _ => true
  | _ => false

/-- The earlier event holds the later one back. Accesses of one gang to one byte keep their order (R137),
and those that follow an `acq` follow it (R151). -/
def precedes (e f : Event) : Bool :=
  match e, f with
  | .accessAtHome a, .accessAtHome b =>
    decide (a.gang = b.gang) &&
      (isAcquire a ||
        !isMaint a && (accessPlaces a).any (fun p => (accessPlaces b).any (fun q => samePlace p.1 q.1 p.2 q.2)))
  | .channelDelivery g _ _ _, .channelDelivery h _ _ _ => decide (g = h)
  | .faultRecordWrite a, .faultRecordWrite b => decide (a.die = b.die)
  | _, _ =>
    (match eventCall e, eventCall f with
     | some a, some b => sameQueue a b
     | _, _ => false) ||
    (match eventWatch e, eventWatch f with
     | some a, some b => decide (a = b)
     | _, _ => false)

/-- The endpoint that a session's channel instruction names (R158). -/
def State.endpoint? (s : State) (session ep : Nat) : Option Endpoint :=
  (s.ses session).endpoints.find? (fun e => decide (e.num = ep))

/-- A copy of a destination still waits for the delivery to its lane. -/
def CoreSt.awaited (c : CoreSt) (g : GangRef) (x : Gang) (d : Dest) : Bool :=
  d.any fun e => e.2.any fun w => decide (c.copy x w = .empty (.delivery g e.1))

/-- Steps that come from outside the module, or that the device takes when it chooses: their turn
names them with what comes with them. A request of the host names itself. -/
def fromOutside (e : Event) : Bool :=
  match e with
  | .leaseRenewal .. | .instanceStart .. | .sequenceFetch .. | .bvoSubtreeReplace .. | .dieTemperature ..
  | .uncorrectableError .. | .correctableError .. | .attcmdGo .. | .priResponse ..
  | .atsTranslationResponse .. | .atsInvalidation .. | .moduleReset
  | .hostPostedWrite .. | .flitCheckFail .. | .portDown .. | .portRetrained .. | .routesRecomputed ..
  | .moduleLeavesArmada .. | .timeSliceEnd .. => true
  | .moduleResetRelease x => decide (x.phase = 0)
  | .pcmdCommit _ r | .pcmdRelease _ r | .doorbell _ _ r | .mgmtRegisterWrite _ _ r => r.host
  | .collectiveAllreduce _ m | .collectiveBroadcast _ m => decide (m.sources ≠ [])
  | .dbgcmdFreeze .. | .dbgcmdThaw .. | .dbgdataRead .. | .dbgdataWrite .. | .errCounterWrite .. => true
  | _ => false

/-- The calls of this module's gangs that have joined a collective. -/
def Collective.own (k : Collective) : List Call := (k.calls.filter (fun c => decide (c.2.1.sources = []))).map (·.1)

/-- A place on another module. -/
def isRemote (p : Place) : Bool :=
  match p with
  | .mem pa _ => decide (Config.remoteBase ≤ pa)
  | _ => false

/-- Accesses to other modules wait: a port retrains, or routes are recomputed (R388). Log 113 (DEDUCED). -/
def State.linkWait (s : State) : Bool := s.rerouting || s.ports.any (fun p => decide (p = .retraining))

/-- The die, and where it is part of one the cluster, at which a unit works for an event. -/
def eventUnit (e : Event) : Option (Nat × Option Nat) :=
  match e with
  | .vrSlotFinal d k _ => some (d, some k)
  | .bluCommit d _ => some (d, none)
  | .timeSliceEnd d => some (d, none)
  | e =>
    (eventCall e).map fun x =>
      (x.die, if 0xF0000 ≤ x.ep ∧ (x.ep / 256 % 16 = 2 ∨ x.ep / 256 % 16 = 4 ∨ x.ep / 256 % 16 = 5) then some (x.ep % 256) else none)

/-- A place of an access lies in a frozen cluster or behind the ports of a frozen die (R331). -/
def State.placeFrozen (s : State) (p : Place) : Bool :=
  match p with
  | .mem pa _ => (s.die (homeDie pa)).frozen
  | .store k _ => s.coreFrozen k
  | .cspad d _ => (s.die d).frozen
  | _ => false

/-- The session for which an event of a block queue acts. -/
def State.eventSession (s : State) (e : Event) : Option Nat :=
  match e with
  | .accessAtHome a => some a.session
  | .confirmationRequest g .. => (s.gang? g).map (fun x => (s.core g.core).sessionOf x)
  | .copyDelivery core id => (((s.core core).queues.flatten).find? (fun k => decide (k.id = id))).map (·.session)
  | e => (eventCall e).map (·.session)

/-- A session waits on something that stands still in a frozen cluster or die (R331): a crew of it lies there, or an
access or call of it goes there. Log 116 (DEDUCED). -/
def State.waitsOnIce (s : State) (n : Nat) : Bool :=
  s.dies.any (fun d => d.frozen || decide (d.frozenClusters ≠ [])) &&
  (s.crews.any (fun c => decide (c.session = n) && c.cores.any s.coreFrozen) ||
   s.agenda.any (fun e => match e with
     | .accessAtHome a => decide (a.session = n) && (accessPlaces a).any (fun p => s.placeFrozen p.1)
     | e => (eventCall e).any (fun x => decide (x.session = n)) &&
         (eventUnit e).any (fun u => (s.die u.1).frozen || u.2.any (fun k => decide (k ∈ (s.die u.1).frozenClusters)))))

/-- A watchdog of the session's groups does not advance (R326). -/
def State.dogFrozen (s : State) (core : Nat) (n : Nat) : Bool :=
  let d := s.die (dieOf core)
  d.frozen || decide (clusterOf core ∈ d.frozenClusters) || decide (d.mode = 2) ||
  s.crews.any (fun c => decide (c.session = n) && decide (c.drain ≠ .running)) ||
  s.saved.any (fun v => decide (v.crew.session = n)) ||
  s.dies.any (fun d => d.fids.any (fun f => decide (f.session = n))) ||
  s.blocked.any (fun b => b.queue.any (fun e => decide (s.eventSession e = some n))) || s.waitsOnIce n ||
  (s.linkWait && s.agenda.any (fun e => match e with
    | .accessAtHome a => decide (a.session = n) && isRemote a.place
    | _ => false)) ||
  s.collectives.any (fun k => !k.complete && k.own.any (fun x => decide (x.session = n)))

/-- One group after n cycles in which it held a reason: its age while it is ready and not taken, its watchdog while it is
not ready, and the end of a YIELD (R91, R174, R326). -/
def GroupSt.pass (gr : GroupSt) (n cyc : Nat) (why : WaitReason) (took frozen : Bool) : GroupSt :=
  let g : GroupSt :=
    if why = .ready then { gr with age := min 64 (gr.age + if took then n - 1 else n) }
    else { gr with dog := if frozen || reasonFrozen why then gr.dog else gr.dog + n }
  if gr.wait = .yield ∧ gr.wake ≤ cyc then { g with wait := .ready } else g

/-- A core after n cycles of its die: the ports are free again, groups age, and an array that retires
nothing while a command is fired counts (R174, R187). A core of a frozen cluster stands still (R331). -/
def CoreSt.pass (s : State) (core n cyc : Nat) (c : CoreSt) : CoreSt :=
  let d := s.die (dieOf core)
  let frozen := d.frozen || decide (clusterOf core ∈ d.frozenClusters)
  if frozen then c
  else
  { c with
    ports := { c.ports with port := 0, taken := [], pushed := [] }
    mxIdle := if (c.queues.getD 1 []).any (·.fired) && !decide (d.mode = 2) then c.mxIdle + n else c.mxIdle
    gangs := c.gangs.map fun e =>
      let fz := s.dogFrozen core (c.sessionOf e.2) || (s.crewOf core e.2).any (·.stopped)
      let step (k : Nat) : GroupSt :=
        if e.2.groupSlices k = 0 then e.2.group k
        else (e.2.group k).pass n cyc (s.reason ⟨core, e.1, e.2.gid⟩ e.2 k) (c.ports.took e.1 (e.2.groupSlices k)) fz
      (e.1, { e.2 with burst := 0, groups := (List.range 12).map step }) }

/-- What falls due on a core when its die has reached a cycle. -/
def CoreSt.due (c : CoreSt) (core cyc : Nat) : List Event :=
  (if Config.arrayLimit ≤ c.mxIdle then [.mxReset core] else []) ++
  c.gangs.flatMap fun e =>
    let g : GangRef := ⟨core, e.1, e.2.gid⟩
    ((List.range 12).filter fun k => decide (Config.watchdogLimit ≤ (e.2.group k).dog)).map (fun k => .hang g k) ++
    ((List.range 12).filter fun k =>
      decide ((e.2.group k).wait = .pause) && decide ((e.2.group k).wake ≤ cyc)).map (fun k => .pauseExpiry g k) ++
    (e.2.watch.filter fun w => !w.struck && decide (w.since + Config.watchLimit ≤ cyc)).map
      (fun w => .watchTimeout g w.stamp)

/-- The drain deadline of a session's partition in cycles (R224, R365). -/
def State.deadline (s : State) (n : Nat) : Nat :=
  let us := fieldNat (Cells.get 0 s.parts (64 * s.sesPart n + 3)) 0 24
  (if us = 0 then 500 else us) * Config.cyclesPerUs

/-- What falls due on a die (R224, R233, R273, R276, R277, R285, R368). -/
def State.dieDue (s : State) (die cyc : Nat) : List Event :=
  let d := s.die die
  (if d.winStart + Config.windowCycles ≤ cyc then [.budgetWindow die] else []) ++
  (s.crews.filter (fun c => decide (c.die = die))).flatMap (fun c =>
    (if c.drain = .draining ∧ c.drainSince + s.deadline c.session ≤ cyc then [.drainDeadline c.id] else []) ++
    (match c.window with
     | some w => if w.since + 64 ≤ cyc then [.stepWindowClose c.id] else []
     | none => [])) ++
  (s.sess.filter (fun e => decide (s.sesHome e.1 = die))).flatMap (fun e =>
    (if s.sesState e.1 = 2 ∧ e.2.attempt.isNone ∧ e.2.retryAt.isNone ∧
        (e.2.lastCut + Config.cutInterval ≤ cyc ∨ (s.logRoom e.1 = 0 ∧ e.2.logUsed ≠ 0))
      then [.cutAttempt e.1] else []) ++
    (match e.2.attempt with
     | some t => if t + Config.cutWait ≤ cyc then [.cutWaitExpiry e.1] else []
     | none => []) ++
    (match e.2.retryAt with
     | some t => if t ≤ cyc then [.cutRetry e.1] else []
     | none => [])) ++
  (if d.sliceOf.isSome ∧ d.sliceEnd ≤ d.winStart then [.timeSliceEnd die] else []) ++
  (d.unitIdle.filter (fun e => decide (Config.unitLimit ≤ e.2))).map
    (fun e => .unitReset die (e.1 / 65536) (e.1 % 65536))

/-- The cycles for which each unit of a die that holds calls has made no progress, after n more (R285): those of a
throttled die, of a frozen cluster, and of a unit that a fault in service stalls do not count. -/
def State.unitsPass (s : State) (die n : Nat) : Cells Nat :=
  let d := s.die die
  let key (x : Call) : Nat := x.ep / 256 % 16 * 65536 + x.ep % 256
  let mine (x : Call) : Bool := decide (x.die = die) && decide (0xF0000 ≤ x.ep)
  let live := ((s.agenda.filterMap eventCall ++ d.held).filter mine).map key
  let all := live ++ ((d.stuck.map (·.2)).filter mine).map key
  let faulted (k : Nat) : Bool := decide (k ∈ (d.stuck.map (fun p => key p.2))) || d.fids.any (fun f => f.uses.any fun u => match u with
    | .slot t i _ => decide (t * 65536 + i = k)
    | _ => false)
  let stays (k : Nat) : Bool := decide (d.mode = 2) || faulted k ||
    (decide (k / 65536 = 2 ∨ k / 65536 = 4 ∨ k / 65536 = 5) && decide (k % 65536 ∈ d.frozenClusters))
  all.foldl (fun m k => Cells.put 0 m k (Cells.get 0 d.unitIdle k + if stays k then 0 else n)) []

/-- A core's energy shared among its resident teams in proportion to the sequences each has issued (R273; log 17). -/
def CoreSt.shareEnergy (c : CoreSt) (u : Nat) : CoreSt :=
  let total := (c.teams.map (fun t => t.2.issued)).sum
  { c with teams := c.teams.map (fun t => (t.1, { t.2 with energy := t.2.energy + u * t.2.issued / total })) }

/-- n cycles pass on a die that is not frozen (R2, R331). Log 3 (DESIGN CHOICE). -/
def State.pass (s : State) (die n : Nat) : State :=
  let d := s.die die
  if d.frozen ∨ n = 0 then s
  else
    let cyc := d.cyc + n
    let used (k : Nat) : Nat := Config.energyUsed s.tick k n
    let sum := d.energy + ((List.range 96).map (fun k => used (96 * die + k))).sum
    let s1 := s.setDie die
      { d with
        cyc := cyc
        energy := sum
        throttled := d.throttled || decide (d.budget ≤ sum)
        unitIdle := s.unitsPass die n }
    let s2 : State :=
      { s1 with cores := s1.cores.map fun e => if dieOf e.1 = die then (e.1, (e.2.pass s1 e.1 n cyc).shareEnergy (used e.1)) else e }
    let es := (s2.cores.filter (fun e => decide (dieOf e.1 = die))).flatMap (fun e => e.2.due e.1 cyc)
    (es ++ s2.dieDue die cyc).foldl (fun s' e => s'.postOnce e) s2

end Sys2Proof.Machine
end

