-- ==== Sys2Proof/Machine/Launch.lean ====
section
/-! DEFINITION. Resident teams: launch records (R167), the state in which the gangs of a team start
(R165, R168), placing a team on a core and a crew on a cluster (R214 to R216), and the load of one
instruction from outside the machine (log 1). -/

namespace Sys2Proof.Machine

/-- The bytes of a gang's window, and of a team's partition (R165). -/
def TeamBytes (r : TeamRec) : Nat := r.gangs * (r.vcount * 128 + 256) + r.scratch + r.tilebytes

/-- A trap record before any trap (R94, R96, R168). -/
def TrapRec.init : TrapRec :=
  { tcause := 0, tpc := 0, taddr := 0, tlanes := 0, tsplit := 0, tsave := [0, 0, 0, 0], tslice := [],
    lost := false, rx := false }

/-- The uniform registers of a gang at launch: ARG, the instance number, the gang number and the rank,
as words from the start of the uniform area (R168). -/
def launchWords (arg : DWord) (k2 : Word) (num rank : Nat) : List Word :=
  [arg.setWidth 32, (arg >>> 32).setWidth 32, k2, BitVec.ofNat 32 num, BitVec.ofNat 32 rank]

/-- A gang as it starts (R168). -/
def launchGang (r : TeamRec) (gid team num base : Nat) : Gang :=
  let live : SliceSet := BitVec.ofNat 8 (2 ^ r.slices - 1)
  { gid := gid, team := team, num := num, base := base + num * (r.vcount * 128 + 256),
    vcount := r.vcount,
    slices := (List.range 8).map fun n =>
      { live := decide (n < r.slices), pc := r.entry, mask := 0b1111#4, mode := r.mode, rstack := [],
        lstack := [], stop := .running },
    preds := List.replicate 8 0, split := [live, 0, 0, 0], single := 0,
    groups := List.replicate 12 default, lost := false, rx := false,
    counters := [0, 0, 0, 0, 0], watch := [], trap := TrapRec.init, raised := none, unitFaults := [],
    shares := [], parked := [], awaits := [], forms := [], latency := [], bars := [], cbars := [], held := [],
    calls := [], foreign := [], seqs := 0, burst := 0, skid := 0 }

/-- The lowest free core gang slots (R162): a team keeps those of its gangs until it has exited (R169).
Log 15 (DEDUCED). -/
def CoreSt.freeSlots (c : CoreSt) : List Nat :=
  (List.range 16).filter (fun k =>
    (Cells.find? c.gangs k).isNone && !c.teams.any (fun e => decide (k ∈ e.2.gslots)))

/-- The lowest free team slot. -/
def CoreSt.freeTeam (c : CoreSt) : Option Nat :=
  (List.range 4).find? (fun k => (c.team? k).isNone)

/-- The ranges of the store that partitions hold, as base and length. -/
def CoreSt.taken? (c : CoreSt) : List (Nat × Nat) := c.teams.map (fun e => (e.2.base, e.2.bytes))

/-- A range of the store is free (R165, R166). -/
def CoreSt.freeRange (c : CoreSt) (b n : Nat) : Bool :=
  decide (b + n ≤ Config.partitionTop) &&
  c.taken?.all (fun t => decide (b + n ≤ t.1) || decide (t.1 + t.2 ≤ b))

/-- The lowest base at which a partition of `n` bytes fits: 0 or the end of another partition, on a
256-byte boundary (R165). -/
def CoreSt.findBase (c : CoreSt) (n : Nat) : Option Nat :=
  let cands := 0 :: c.taken?.map (fun t => (t.1 + t.2 + 255) / 256 * 256)
  (cands.filter (fun b => c.freeRange b n)).foldl
    (fun o b => match o with | none => some b | some a => some (min a b)) none

/-- A team of a record fits a core: its partition, its gangs, its team slot (R162, R165). -/
def CoreSt.fits (c : CoreSt) (r : TeamRec) : Bool :=
  c.freeTeam.isSome && decide (r.gangs ≤ c.freeSlots.length) && (c.findBase (TeamBytes r)).isSome &&
  decide (TeamBytes r + (c.teams.map (fun e => e.2.bytes)).sum ≤ Config.partitionMax)

/-- The launch of a team on a core that it fits (R165, R166, R168): its partition holds zero but for
the launch registers, and its gangs take the lowest free slots. -/
def CoreSt.launch (c : CoreSt) (r : TeamRec) (tid session crew rank : Nat) (arg : DWord) (k2 : Word)
    (gid : Nat) : CoreSt :=
  match c.freeTeam, c.findBase (TeamBytes r) with
  | some t, some b =>
    let team : Team :=
      { tid := tid, session := session, record := r, base := b, bytes := TeamBytes r,
        tctl := fitList 0 16 r.tctl, tbase := fitList 0 16 r.tbase, rdesc := List.replicate 8 0,
        rprod := List.replicate 8 0, rcons := List.replicate 8 0, rin := List.replicate 8 0,
        rout := List.replicate 8 0, cwp := List.replicate 4 0,
        bars := List.replicate 16 ⟨0, 0, [], []⟩, crew := crew, rank := rank,
        gslots := c.freeSlots.take r.gangs, issued := 0, energy := 0 }
    let st0 := Cells.clear c.store (b / 4) (TeamBytes r / 4)
    let fe0 := Cells.clear c.fe (b / 4) (TeamBytes r / 4)
    let uni (num : Nat) : Nat := (b + num * (r.vcount * 128 + 256)) / 4 + r.vcount * 32
    let st1 := (List.range r.gangs).foldl (fun st num =>
      ((launchWords arg k2 num rank).mapIdx (fun i w => (uni num + i, w))).foldl
        (fun st p => Cells.put 0 st p.1 p.2) st) st0
    { c with
      store := st1
      fe := fe0
      teams := Cells.insert c.teams t team
      gangs := (List.zip (List.range r.gangs) c.freeSlots).foldl
        (fun gs p => Cells.insert gs p.2 (launchGang r (gid + p.1) t p.1 b)) c.gangs }
  | _, _ => c

/-- A crew as it starts (R214, R215). -/
def launchCrew (x : Launch) (id slot : Nat) (teams cmbase : List Nat) : Crew :=
  { id := id, die := x.die, cluster := x.cluster, slot := slot, session := x.session, cores := x.cores,
    teams := teams, gone := x.cores.map (fun _ => false), cmcore := x.cmcore, cmbase := cmbase,
    bars := List.replicate 16 ⟨0, x.cores.map (fun _ => 0), []⟩, drain := .running, drainSince := 0,
    attached := x.dbgstart, stopped := x.dbgstart, area := if x.dbgstart then x.dbgarea else 0, asess := x.session,
    wps := List.replicate 4 ⟨0, false, 0⟩, trig := none, window := none, pipe := x.pipe,
    stage := x.stage, inst := x.inst, energy := 0 }

/-- The lowest crew slot that no crew of the cluster has, drained ones among them (R215, R223). Log 82 (DEDUCED). -/
def State.freeCrewSlot (s : State) (die cluster : Nat) : Option Nat :=
  (List.range 32).find? (fun k =>
    !((s.crews ++ s.saved.map (·.crew)).any fun c =>
      decide (c.die = die) && decide (c.cluster = cluster) && decide (c.slot = k)))

/-- The ranges of a core's cluster-memory share that crews hold. -/
def State.cmTaken (s : State) (core : Nat) : List (Nat × Nat) :=
  s.crews.flatMap fun c => (List.zip c.cores c.cmbase).filterMap fun p =>
    if p.1 = core ∧ c.cmcore ≠ 0 then some (p.2, c.cmcore * 1024) else none

/-- The lowest free block of `n` bytes of a core's share (R163, R215, R216). -/
def State.findBlock (s : State) (core n : Nat) : Option Nat :=
  let tk := s.cmTaken core
  ((0 :: tk.map (fun t => t.1 + t.2)).filter fun b =>
    decide (b + n ≤ Config.clusterShareBytes) &&
      tk.all (fun t => decide (b + n ≤ t.1) || decide (t.1 + t.2 ≤ b))).foldl
    (fun o b => match o with | none => some b | some a => some (min a b)) none

/-- Every member of a launch fits its core (R215). -/
def State.launchFits (s : State) (x : Launch) : Bool :=
  decide (x.cores ≠ []) && (s.freeCrewSlot x.die x.cluster).isSome &&
  x.cores.all fun k =>
    (s.core k).fits x.record && (s.findBlock k (x.cmcore * 1024)).isSome

/-- The lines that L1 holds in the range that a launch takes are written back and discarded (R166). Which lines lie there
is the device's choice (log 9). -/
def State.cleanL1 (s : State) (core : Nat) : State :=
  let gone (c : Copy) : Bool := decide (c.holder = .l1 core) && Config.evicts s.tick c.line
  (s.writeBack gone).dropCopies gone

/-- One member of a crew placed on its core. -/
def State.placeMember (s : State) (x : Launch) (crew rank core cmb : Nat) : State :=
  let k2 : Word := if x.isCrew then BitVec.ofNat 32 (x.inst * x.cores.length + rank) else BitVec.ofNat 32 x.inst
  let c0 := (s.cleanL1 core).core core
  let off := (Config.clusterShare + cmb) / 4
  let c1 := { c0 with store := Cells.clear c0.store off (x.cmcore * 256) }
  let s1 := (s.cleanL1 core).setCore core
    (c1.launch x.record (s.nextId + 1) x.session crew rank x.arg k2 (s.nextId + 2))
  { s1 with nextId := s.nextId + 2 + x.record.gangs }

def State.placeMembers (s : State) (x : Launch) (crew : Nat) : Nat → List Nat → List Nat → State
  | rank, k :: ks, b :: bs => State.placeMembers (s.placeMember x crew rank k b) x crew (rank + 1) ks bs
  | _, _, _ => s

/-- A crew or team launched where it fits (R215, R168). -/
def State.launchNow (s : State) (x : Launch) : State :=
  match s.freeCrewSlot x.die x.cluster with
  | none => s
  | some slot =>
    let teams := x.cores.map (fun k => ((s.core k).freeTeam).getD 0)
    let blocks := x.cores.map (fun k => (s.findBlock k (x.cmcore * 1024)).getD 0)
    let id := s.nextId
    let s1 := { s.fresh with crews := s.crews ++ [launchCrew x id slot teams blocks] }
    s1.placeMembers x id 0 x.cores blocks

/-- The team that an instruction loaded from outside runs in (log 1): one gang of eight slices at PL3
in session 1, whose code page is at virtual address 0x4000. -/
def loadRecord : TeamRec :=
  { gangs := 1, slices := 8, vcount := 64, base := 3, mode := 0, entry := 0x1000, handler := 0,
    pbase := 0, psize := 0, scratch := 4096, captab := 0, arg := 0, session := 1, tilebytes := 4096,
    tctl := [], tbase := [] }

def loadLaunch : Launch :=
  { die := 0, cluster := 0, cores := [0], record := loadRecord, cmcore := 0, dbgstart := false,
    dbgarea := 0, session := 1, inst := 0, arg := 0, isCrew := false, pipe := none, stage := 0 }

/-- The session table, the page tables of session 1 and its code page with `code` at virtual address
0x4000 (R305, R306, R336). -/
def loadMemory (m : Cells Byte) (code : List Byte) : Cells Byte :=
  let m1 := Cells.write m 0x10000 (bytesOf 0x11001 8)
  let m2 := Cells.write m1 0x11000 (bytesOf 0x12001 8)
  let m3 := Cells.write m2 0x12000 (bytesOf 0x13001 8)
  let m4 := Cells.write m3 0x13000 (bytesOf 0x14001 8)
  let m5 := Cells.write m4 0x14020 (bytesOf 0x2001F 8)
  let m6 := Cells.write m5 0x20000 code
  let m7 := Cells.write m6 0x200200 (bytesOf 2 8)
  let m8 := Cells.write m7 0x200208 (bytesOf 0x10000 8)
  let m9 := Cells.write m8 0x200220 (bytesOf 0x1000000 8)
  Cells.write m9 0x200228 (bytesOf 0x4000000 4)

/-- One instruction loaded from outside the machine, so that the next step fetches and runs it
(log 1): firmware has started, partition 0 holds session 1, whose only team is on core 0 with its
program at virtual address 0x4000, and the next turn is core 0's issue choice. -/
def State.loadCode (s : State) (code : List Byte) : State :=
  let d : DieSt :=
    { s.die 0 with frozen := false, frozenClusters := [], freezing := [], throttled := false, hot := false, theta := 0, energy := 0 }
  let s1 : State :=
    { s with
      powered := true, started := true, mstab := 0x200000, mstate := 2, turn := .issue 0,
      mem := loadMemory s.mem code, tlb := s.tlb.filter (fun e => decide (e.session ≠ 1)),
      blocked := s.blocked.filter (fun b => decide (b.frame ≠ 0x20)),
      frameTag := Cells.erase s.frameTag 0x20,
      parts := Cells.insert (Cells.insert (Cells.insert s.parts 0 0x11) 1 0x01000000) 4 0x001,
      cores := Cells.insert s.cores 0 CoreSt.init,
      crews := s.crews.filter (fun c => !decide (0 ∈ c.cores)),
      sess := Cells.erase s.sess 1 }
  (s1.setDie 0 d).launchNow loadLaunch

end Sys2Proof.Machine
end

