-- ==== Sys2Proof/Machine/Float.lean ====
section
/-! DEFINITION. Floating-point arithmetic (R113 to R118) and conversions (R119, R120). -/

namespace Sys2Proof.Machine

/-- A float operation given by its exact value, rounded in MODE.RND element by element (R113). -/
def onFloats (m : ModeWord) (f : Nat → FVal → FVal → FVal → FVal) (a b c : DWord) : DWord :=
  let fm := fmtOf (modeType m)
  onElems (modeType m)
    (fun x y z => fm.round (modeRnd m) (f (modeRnd m) (fm.value x) (fm.value y) (fm.value z))) a b c

/-- A float operation on patterns of the element format. -/
def onFmt (m : ModeWord) (f : Fmt → Nat → Nat → Nat → Nat → Nat) (a b c : DWord) : DWord :=
  onElems (modeType m) (fun x y z => f (fmtOf (modeType m)) (modeRnd m) x y z) a b c

def faddEl (m : ModeWord) (a b : DWord) : DWord := onFloats m (fun r x y _ => FVal.sum r [x, y]) a b 0
def fminEl (m : ModeWord) (a b : DWord) : DWord := onFmt m (fun f _ x y _ => f.least x y) a b 0
def fmaxEl (m : ModeWord) (a b : DWord) : DWord := onFmt m (fun f _ x y _ => f.greatest x y) a b 0

/-- `fadd` (R113). -/
def execFadd (d a b : Reg) (s : State) : Host.Outcome State Fault Refusal :=
  lanesOp (.fadd d a b) d s fun m x y _ => faddEl m x y

/-- `fsub` (R113). -/
def execFsub (d a b : Reg) (s : State) : Host.Outcome State Fault Refusal :=
  lanesOp (.fsub d a b) d s fun m x y _ => onFloats m (fun r p q _ => FVal.sum r [p, q.neg]) x y 0

/-- `fmul` (R113). -/
def execFmul (d a b : Reg) (s : State) : Host.Outcome State Fault Refusal :=
  lanesOp (.fmul d a b) d s fun m x y _ => onFloats m (fun _ p q _ => p.mul q) x y 0

/-- `fma` (R113). -/
def execFma (d a b : Reg) (s : State) : Host.Outcome State Fault Refusal :=
  lanesOp (.fma d a b) d s fun m x y z => onFloats m (fun r p q t => FVal.sum r [p.mul q, t]) x y z

/-- `fms` (R113). -/
def execFms (d a b : Reg) (s : State) : Host.Outcome State Fault Refusal :=
  lanesOp (.fms d a b) d s fun m x y z => onFloats m (fun r p q t => FVal.sum r [p.mul q, t.neg]) x y z

/-- `fnma` (R113). -/
def execFnma (d a b : Reg) (s : State) : Host.Outcome State Fault Refusal :=
  lanesOp (.fnma d a b) d s fun m x y z => onFloats m (fun r p q t => FVal.sum r [t, (p.mul q).neg]) x y z

/-- `fmin` (R113). -/
def execFmin (d a b : Reg) (s : State) : Host.Outcome State Fault Refusal :=
  lanesOp (.fmin d a b) d s fun m x y _ => fminEl m x y

/-- `fmax` (R113). -/
def execFmax (d a b : Reg) (s : State) : Host.Outcome State Fault Refusal :=
  lanesOp (.fmax d a b) d s fun m x y _ => fmaxEl m x y

/-- The sign bit of an element cleared, or replaced (R114). -/
def unsign (f : Fmt) (x : Nat) : Nat := x % 2 ^ (f.eb + f.fb)

/-- `fabs` (R114). -/
def execFabs (d a : Reg) (s : State) : Host.Outcome State Fault Refusal :=
  lanesOp (.fabs d a) d s fun m x _ _ => onFmt m (fun f _ p _ _ => unsign f p) x 0 0

/-- `fneg` (R114). -/
def execFneg (d a : Reg) (s : State) : Host.Outcome State Fault Refusal :=
  lanesOp (.fneg d a) d s fun m x _ _ =>
    onFmt m (fun f _ p _ _ => unsign f p + f.sign (!p.testBit (f.eb + f.fb))) x 0 0

/-- `fcps` (R114). -/
def execFcps (d a b : Reg) (s : State) : Host.Outcome State Fault Refusal :=
  lanesOp (.fcps d a b) d s fun m x y _ =>
    onFmt m (fun f _ p q _ => unsign f p + f.sign (q.testBit (f.eb + f.fb))) x y 0

/-- `fdiv` (R113). -/
def execFdiv (d a b : Reg) (s : State) : Host.Outcome State Fault Refusal :=
  lanesOp (.fdiv d a b) d s fun m x y _ => onFloats m (fun _ p q _ => p.div q) x y 0

/-- `rcp` (R115). -/
def execRcp (d a : Reg) (s : State) : Host.Outcome State Fault Refusal :=
  lanesOp (.rcp d a) d s fun m x _ _ => onFloats m (fun _ p _ _ => FVal.div (.fin false 1 0) p) x 0 0

/-- `rsq` (R115). -/
def execRsq (d a : Reg) (s : State) : Host.Outcome State Fault Refusal :=
  lanesOp (.rsq d a) d s fun m x _ _ => onFloats m (fun _ p _ _ => p.rsqrt) x 0 0

/-- `sqrt` (R115). -/
def execSqrt (d a : Reg) (s : State) : Host.Outcome State Fault Refusal :=
  lanesOp (.sqrt d a) d s fun m x _ _ => onFloats m (fun _ p _ _ => p.sqrt) x 0 0

/-- `exp2` (R116). -/
def execExp2 (d a : Reg) (s : State) : Host.Outcome State Fault Refusal :=
  lanesOp (.exp2 d a) d s fun m x _ _ => onFmt m (fun f r p _ _ => f.exp2 r p) x 0 0

/-- `log2` (R116). -/
def execLog2 (d a : Reg) (s : State) : Host.Outcome State Fault Refusal :=
  lanesOp (.log2 d a) d s fun m x _ _ => onFmt m (fun f r p _ _ => f.log2 r p) x 0 0

/-- `sinpi` (R116). -/
def execSinpi (d a : Reg) (s : State) : Host.Outcome State Fault Refusal :=
  lanesOp (.sinpi d a) d s fun m x _ _ => onFmt m (fun f r p _ _ => f.sinpi r p) x 0 0

/-- `cospi` (R116). -/
def execCospi (d a : Reg) (s : State) : Host.Outcome State Fault Refusal :=
  lanesOp (.cospi d a) d s fun m x _ _ => onFmt m (fun f r p _ _ => f.cospi r p) x 0 0

/-- `tanh` (R116). -/
def execTanh (d a : Reg) (s : State) : Host.Outcome State Fault Refusal :=
  lanesOp (.tanh d a) d s fun m x _ _ => onFmt m (fun f r p _ _ => f.tanh r p) x 0 0

/-- `frnd` (R117). -/
def execFrnd (d a : Reg) (s : State) : Host.Outcome State Fault Refusal :=
  lanesOp (.frnd d a) d s fun m x _ _ => onFmt m (fun f r p _ _ => f.integral r p) x 0 0

/-- `fract` (R117). -/
def execFract (d a : Reg) (s : State) : Host.Outcome State Fault Refusal :=
  lanesOp (.fract d a) d s fun m x _ _ => onFmt m (fun f _ p _ _ => f.fract p) x 0 0

/-- `ldexp` (R117). -/
def execLdexp (d a b : Reg) (s : State) : Host.Outcome State Fault Refusal :=
  lanesOp (.ldexp d a b) d s fun m x y _ =>
    onFmt m (fun f r p q _ => f.ldexp r p (intVal true f.bits q)) x y 0

/-- `fclass` (R117). -/
def execFclass (d a : Reg) (s : State) : Host.Outcome State Fault Refusal :=
  lanesOp (.fclass d a) d s fun m x _ _ => onFmt m (fun f _ p _ _ => f.class p) x 0 0

/-- `fdot` of one lane (R118). -/
def fdotLane (m : ModeWord) (a b c : DWord) : DWord :=
  let f := fmtOf (modeType m)
  let t := modeType m
  BitVec.ofNat 64 (fp32.round (modeRnd m) (FVal.sum (modeRnd m)
    [(f.value (elem t a 0)).mul (f.value (elem t b 0)), (f.value (elem t a 1)).mul (f.value (elem t b 1)),
     fp32.value (fieldNat c 0 32)]))

/-- `fdot` (R118). -/
def execFdot (d a b : Reg) (s : State) : Host.Outcome State Fault Refusal :=
  lanesOp (.fdot d a b) d s fun m x y z => fdotLane m x y z

/-- The elements of a conversion put in their places (R119): `g` converts one element of source type
`st`; elements not written are those of C. -/
def convert (m : ModeWord) (st k : Nat) (g : Nat → Nat) (a c : DWord) : DWord :=
  let dt := modeType m
  joinElems (elemWidth dt) (elemCount dt) fun di =>
    match (cvtPairs (elemCount st) (elemCount dt) k).find? (fun e => decide (e.1 = di)) with
    | some e => g (elem st a e.2)
    | none => elem dt c di

/-- L6 codes pass unchanged from L6 to L6 (R119). -/
def cvtElem (dt rnd st p : Nat) : Nat :=
  if st = 9 ∧ dt = 9 then p else toFloatElem dt rnd (floatElem st p)

/-- `cvt` (R119). -/
def execCvt (d a : Reg) (k : BitVec 3) (t : BitVec 4) (s : State) : Host.Outcome State Fault Refusal :=
  lanesOp (.cvt d a k t) d s fun m x _ z =>
    convert m t.toNat k.toNat (cvtElem (modeType m) (modeRnd m) t.toNat) x z

/-- `cvtfi` (R119). -/
def execCvtfi (d a : Reg) (k : BitVec 3) (t : BitVec 4) (s : State) : Host.Outcome State Fault Refusal :=
  lanesOp (.cvtfi d a k t) d s fun m x _ z =>
    convert m t.toNat k.toNat (fun p =>
      let dt := modeType m
      wrapInt (elemWidth dt) ((floatElem t.toNat p).toInt (modeRnd m) (signedType dt) (elemWidth dt))) x z

/-- `cvtif` (R119). -/
def execCvtif (d a : Reg) (k : BitVec 3) (t : BitVec 4) (s : State) : Host.Outcome State Fault Refusal :=
  lanesOp (.cvtif d a k t) d s fun m x _ z =>
    convert m t.toNat k.toNat (fun p =>
      toFloatElem (modeType m) (modeRnd m)
        (FVal.ofInt (intVal (signedType t.toNat) (elemWidth t.toNat) p) 0)) x z

/-- An integer of type `st` as an element of type `dt` (R55): extended to a wider one, else wrapped or clamped by
MODE.SAT. -/
def cvtInt (dt : Nat) (sat : Bool) (st p : Nat) : Nat :=
  let x := intVal (signedType st) (elemWidth st) p
  if elemWidth st < elemWidth dt then wrapInt (elemWidth dt) x else fitInt sat (signedType dt) (elemWidth dt) x

/-- `cvtii` (R119). -/
def execCvtii (d a : Reg) (k : BitVec 3) (t : BitVec 4) (s : State) : Host.Outcome State Fault Refusal :=
  lanesOp (.cvtii d a k t) d s fun m x _ z =>
    convert m t.toNat k.toNat (cvtInt (modeType m) (modeSat m) t.toNat) x z

/-- `pack` of one lane (R120). -/
def packLane (m : ModeWord) (a b : DWord) : DWord :=
  let t := modeType m
  let sg := signedType t
  let w := elemWidth t
  let n := elemCount t / 2
  let v (i : Nat) : Nat := if i < n then fieldNat a (2 * w * i) (2 * w) else fieldNat b (2 * w * (i - n)) (2 * w)
  joinElems w (elemCount t) fun i =>
    if t = 5 ∨ t = 6 then (fmtOf t).round (modeRnd m) (fp32.value (v i))
    else fitInt (modeSat m) sg w (intVal sg (2 * w) (v i))

/-- `pack` (R120). -/
def execPack (d a b : Reg) (s : State) : Host.Outcome State Fault Refusal :=
  lanesOp (.pack d a b) d s fun m x y _ => packLane m x y

/-- `unpk` of one lane (R120). -/
def unpkLane (m : ModeWord) (h : Nat) (a : DWord) : DWord :=
  let t := modeType m
  let w := elemWidth t / 2
  joinElems (elemWidth t) (elemCount t) fun i =>
    wrapInt (elemWidth t) (intVal (signedType t) w (fieldNat a (16 * h + w * i) w))

/-- `unpk` (R120). -/
def execUnpk (d a : Reg) (h : BitVec 1) (s : State) : Host.Outcome State Fault Refusal :=
  lanesOp (.unpk d a h) d s fun m x _ _ => unpkLane m h.toNat x

end Sys2Proof.Machine
end

