-- ==== Sys2Proof/Machine/Integer.lean ====
section
/-! DEFINITION. Integer arithmetic, shifts, bit fields, logic and moves (R106 to R112). -/

namespace Sys2Proof.Machine

/-- An operation on the low word of each operand, whatever the type (R111). -/
def onWord (f : Word → Word → Word → Word) (a b c : DWord) : DWord :=
  (f (a.setWidth 32) (b.setWidth 32) (c.setWidth 32)).setWidth 64

/-- An operation on the elements of A and B as patterns, with the element width (R108, R109). -/
def onBits (m : ModeWord) (f : Nat → Nat → Nat → Nat) (a b : DWord) : DWord :=
  onElems (modeType m) (fun x y _ => f (elemWidth (modeType m)) x y) a b 0

def addEl (m : ModeWord) (a b : DWord) : DWord := onInts m (fun x y _ => x + y) a b 0
def minEl (m : ModeWord) (a b : DWord) : DWord := onInts m (fun x y _ => min x y) a b 0
def maxEl (m : ModeWord) (a b : DWord) : DWord := onInts m (fun x y _ => max x y) a b 0

/-- The quotient of R107, a zero divisor apart. -/
def divEl (m : ModeWord) (a b : DWord) : DWord :=
  let t := modeType m
  let w := elemWidth t
  onElems t (fun x y _ =>
    let p := intVal (signedType t) w x
    if y = 0 then wrapInt w (if signedType t ∧ p < 0 then intMin true w else intMax (signedType t) w)
    else fitInt (modeSat m) (signedType t) w (p.tdiv (intVal (signedType t) w y))) a b 0

/-- The remainder of R107: that of a zero divisor is A. -/
def remEl (m : ModeWord) (a b : DWord) : DWord :=
  let t := modeType m
  let w := elemWidth t
  onElems t (fun x y _ =>
    if y = 0 then x else wrapInt w ((intVal (signedType t) w x).tmod (intVal (signedType t) w y))) a b 0

/-- The left shift of R109. -/
def shlEl (m : ModeWord) (a b : DWord) : DWord :=
  let t := modeType m
  let w := elemWidth t
  onElems t (fun x n _ =>
    fitInt (modeSat m) (signedType t) w (intVal (signedType t) w x * (2 ^ (min n w) : Nat))) a b 0

/-- Bits set in a number of w bits. -/
def popCount (x : Nat) : Nat → Nat
  | 0 => 0
  | n + 1 => popCount x n + if x.testBit n then 1 else 0

/-- Zero bits above the highest one of w bits; w for zero. -/
def leadZeros (w x : Nat) : Nat := if x = 0 then w else w - 1 - Nat.log2 x

/-- Zero bits below the lowest one of w bits; w for zero. -/
def trailZeros (w x : Nat) : Nat := (lowest? w (fun i => x.testBit i)).getD w

/-- Position and length of the field of `bfx` and `bfi` (R110). -/
def bitField (b : Word) : Nat × Nat :=
  let pos := fieldNat b 0 5
  (pos, min (fieldNat b 8 6) (32 - pos))

def bfxWord (signed : Bool) (a b : Word) : Word :=
  let (pos, n) := bitField b
  if n = 0 then 0 else BitVec.ofInt 32 (intVal signed n (fieldNat a pos n))

def bfiWord (a b c : Word) : Word :=
  let (pos, n) := bitField b
  if n = 0 then c else setField c pos n a.toNat

/-- `add` (R106). -/
def execAdd (d a b : Reg) (s : State) : Host.Outcome State Fault Refusal :=
  lanesOp (.add d a b) d s fun m x y _ => addEl m x y

/-- `sub` (R106). -/
def execSub (d a b : Reg) (s : State) : Host.Outcome State Fault Refusal :=
  lanesOp (.sub d a b) d s fun m x y _ => onInts m (fun p q _ => p - q) x y 0

/-- `mul` (R106). -/
def execMul (d a b : Reg) (s : State) : Host.Outcome State Fault Refusal :=
  lanesOp (.mul d a b) d s fun m x y _ => onInts m (fun p q _ => p * q) x y 0

/-- `mulhi` (R106). -/
def execMulhi (d a b : Reg) (s : State) : Host.Outcome State Fault Refusal :=
  lanesOp (.mulhi d a b) d s fun m x y _ =>
    onInts m (fun p q _ => p * q / (2 ^ elemWidth (modeType m) : Nat)) x y 0

/-- `mad` (R106). -/
def execMad (d a b : Reg) (s : State) : Host.Outcome State Fault Refusal :=
  lanesOp (.mad d a b) d s fun m x y z => onInts m (fun p q r => p * q + r) x y z

/-- `div` (R107). -/
def execDiv (d a b : Reg) (s : State) : Host.Outcome State Fault Refusal :=
  lanesOp (.div d a b) d s fun m x y _ => divEl m x y

/-- `rem` (R107). -/
def execRem (d a b : Reg) (s : State) : Host.Outcome State Fault Refusal :=
  lanesOp (.rem d a b) d s fun m x y _ => remEl m x y

/-- `neg` (R108). -/
def execNeg (d a : Reg) (s : State) : Host.Outcome State Fault Refusal :=
  lanesOp (.neg d a) d s fun m x _ _ => onInts m (fun p _ _ => -p) x 0 0

/-- `abs` (R108). -/
def execAbs (d a : Reg) (s : State) : Host.Outcome State Fault Refusal :=
  lanesOp (.abs d a) d s fun m x _ _ => onInts m (fun p _ _ => (p.natAbs : Int)) x 0 0

/-- `min` (R106). -/
def execMin (d a b : Reg) (s : State) : Host.Outcome State Fault Refusal :=
  lanesOp (.min d a b) d s fun m x y _ => minEl m x y

/-- `max` (R106). -/
def execMax (d a b : Reg) (s : State) : Host.Outcome State Fault Refusal :=
  lanesOp (.max d a b) d s fun m x y _ => maxEl m x y

/-- `and` (R111). -/
def execAnd (d a b : Reg) (s : State) : Host.Outcome State Fault Refusal :=
  lanesOp (.and d a b) d s fun _ x y _ => onWord (fun p q _ => p &&& q) x y 0

/-- `or` (R111). -/
def execOr (d a b : Reg) (s : State) : Host.Outcome State Fault Refusal :=
  lanesOp (.or d a b) d s fun _ x y _ => onWord (fun p q _ => p ||| q) x y 0

/-- `xor` (R111). -/
def execXor (d a b : Reg) (s : State) : Host.Outcome State Fault Refusal :=
  lanesOp (.xor d a b) d s fun _ x y _ => onWord (fun p q _ => p ^^^ q) x y 0

/-- `not` (R111). -/
def execNot (d a : Reg) (s : State) : Host.Outcome State Fault Refusal :=
  lanesOp (.not d a) d s fun _ x _ _ => onWord (fun p _ _ => ~~~p) x 0 0

/-- `andn` (R111). -/
def execAndn (d a b : Reg) (s : State) : Host.Outcome State Fault Refusal :=
  lanesOp (.andn d a b) d s fun _ x y _ => onWord (fun p q _ => p &&& ~~~q) x y 0

/-- `shl` (R109). -/
def execShl (d a b : Reg) (s : State) : Host.Outcome State Fault Refusal :=
  lanesOp (.shl d a b) d s fun m x y _ => shlEl m x y

/-- `shr` (R109). -/
def execShr (d a b : Reg) (s : State) : Host.Outcome State Fault Refusal :=
  lanesOp (.shr d a b) d s fun m x y _ => onBits m (fun w p n => if w ≤ n then 0 else p / 2 ^ n) x y

/-- `sar` (R109). -/
def execSar (d a b : Reg) (s : State) : Host.Outcome State Fault Refusal :=
  lanesOp (.sar d a b) d s fun m x y _ =>
    onBits m (fun w p n => wrapInt w (intVal true w p / (2 ^ (min n w) : Nat))) x y

/-- `rol` (R109). -/
def execRol (d a b : Reg) (s : State) : Host.Outcome State Fault Refusal :=
  lanesOp (.rol d a b) d s fun m x y _ =>
    onBits m (fun w p n => p * 2 ^ (n % w) % 2 ^ w + p / 2 ^ (w - n % w)) x y

/-- `ror` (R109). -/
def execRor (d a b : Reg) (s : State) : Host.Outcome State Fault Refusal :=
  lanesOp (.ror d a b) d s fun m x y _ =>
    onBits m (fun w p n => p / 2 ^ (n % w) + p * 2 ^ (w - n % w) % 2 ^ w) x y

/-- `popc` (R108). -/
def execPopc (d a : Reg) (s : State) : Host.Outcome State Fault Refusal :=
  lanesOp (.popc d a) d s fun m x _ _ => onBits m (fun w p _ => popCount p w) x 0

/-- `clz` (R108). -/
def execClz (d a : Reg) (s : State) : Host.Outcome State Fault Refusal :=
  lanesOp (.clz d a) d s fun m x _ _ => onBits m (fun w p _ => leadZeros w p) x 0

/-- `ctz` (R108). -/
def execCtz (d a : Reg) (s : State) : Host.Outcome State Fault Refusal :=
  lanesOp (.ctz d a) d s fun m x _ _ => onBits m (fun w p _ => trailZeros w p) x 0

/-- `brev` (R108). -/
def execBrev (d a : Reg) (s : State) : Host.Outcome State Fault Refusal :=
  lanesOp (.brev d a) d s fun m x _ _ => onBits m (fun w p _ => bitsNat (fun i => p.testBit (w - 1 - i)) w) x 0

/-- `bfx` (R110). -/
def execBfx (d a b : Reg) (s : State) : Host.Outcome State Fault Refusal :=
  lanesOp (.bfx d a b) d s fun m x y _ =>
    onWord (fun p q _ => bfxWord (decide (modeType m = 0)) p q) x y 0

/-- `bfi` (R110). -/
def execBfi (d a b : Reg) (s : State) : Host.Outcome State Fault Refusal :=
  lanesOp (.bfi d a b) d s fun _ x y z => onWord bfiWord x y z

/-- `mov` (R111). -/
def execMov (d b : Reg) (s : State) : Host.Outcome State Fault Refusal :=
  lanesOp (.mov d b) d s fun _ _ y _ => onWord (fun _ q _ => q) 0 y 0

/-- `movi` (R112). -/
def execMovi (d : Reg) (i : BitVec 16) (s : State) : Host.Outcome State Fault Refusal :=
  lanesOp (.movi d i) d s fun _ _ _ _ => (i.signExtend 32).setWidth 64

/-- `movhi` (R112). -/
def execMovhi (d : Reg) (i : BitVec 16) (s : State) : Host.Outcome State Fault Refusal :=
  lanesOp (.movhi d i) d s fun _ _ _ z => onWord (fun _ _ r => i ++ r.setWidth 16) 0 0 z

/-- `addi` (R112) adds the signed number imm16, also under N32, where it saturates at 0. Log 124 (DESIGN CHOICE). -/
def execAddi (d : Reg) (i : BitVec 16) (s : State) : Host.Outcome State Fault Refusal :=
  lanesOp (.addi d i) d s fun m _ _ z => onInts m (fun p _ _ => p + i.toInt) z 0 0

end Sys2Proof.Machine
end

