-- ==== Sys2Proof/Machine/Lanes.lean ====
section
/-! DEFINITION. Compares, predicates and selection (R121 to R124), cross-lane reductions, scans and
votes (R125 to R128). -/

namespace Sys2Proof.Machine

/-- A condition code on the order of two elements (R121). -/
def condHolds (cc : Nat) (o : Option Ordering) : Bool :=
  match cc, o with
  | 0, some .eq => true
  | 1, some .lt | 1, some .gt | 1, none => true
  | 2, some .lt => true
  | 3, some .lt | 3, some .eq => true
  | 4, some .gt => true
  | 5, some .gt | 5, some .eq => true
  | 6, none => true
  | 7, some _ => true
  | _, _ => false

/-- Some or every element satisfies a condition. -/
def overElems (t : Nat) (any : Bool) (f : Nat → Bool) : Bool :=
  if any then (List.range (elemCount t)).any f else (List.range (elemCount t)).all f

/-- `cmp` (R121). -/
def execCmp (any : BitVec 1) (cc : BitVec 3) (p : BitVec 3) (a b : Reg) (s : State) :
    Host.Outcome State Fault Refusal :=
  predOp (.cmp any cc p a b) p s fun v sh l =>
    let t := modeType v.mode
    let x (o : DWord) (i : Nat) : Int := intVal (signedType t) (elemWidth t) (elem t o i)
    overElems t (any.getLsbD 0)
      (fun i => condHolds cc.toNat (some (compare (x (v.opA sh l) i) (x (v.opB sh l) i))))

/-- `fcmp` (R121). -/
def execFcmp (any : BitVec 1) (cc : BitVec 3) (p : BitVec 3) (a b : Reg) (s : State) :
    Host.Outcome State Fault Refusal :=
  predOp (.fcmp any cc p a b) p s fun v sh l =>
    let t := modeType v.mode
    overElems t (any.getLsbD 0)
      (fun i => condHolds cc.toNat ((fmtOf t).compare (elem t (v.opA sh l) i) (elem t (v.opB sh l) i)))

/-- `tst` (R122). -/
def execTst (z : BitVec 1) (p : BitVec 3) (a b : Reg) (s : State) : Host.Outcome State Fault Refusal :=
  predOp (.tst z p a b) p s fun v sh l =>
    decide ((v.opA sh l).setWidth 32 &&& (v.opB sh l).setWidth 32 ≠ (0 : Word)) != z.getLsbD 0

/-- The selector of `sel` in a lane (R123). -/
def View.selects (v : View) (l : Nat) : Bool :=
  !modeGen v.mode || (v.gang.pred (modeGpred v.mode) l != v.mode.getLsbD 14)

/-- `sel` (R123). -/
def execSel (d a b : Reg) (s : State) : Host.Outcome State Fault Refusal :=
  issue (.sel d a b) s fun v sh s1 =>
    (s1.result v sh ((lanesOf v.msk).flatMap fun l =>
      dstWords v.gang d l [((if v.selects l then v.opA sh l else v.opB sh l).setWidth 32 : Word)]) []).retire

/-- `plog` (R122). -/
def execPlog (f : BitVec 4) (pd pa pb : BitVec 3) (s : State) : Host.Outcome State Fault Refusal :=
  predOp (.plog f pd pa pb) pd s fun v _ l =>
    f.getLsbD ((if v.gang.pred pa.toNat l then 2 else 0) + (if v.gang.pred pb.toNat l then 1 else 0))

/-- `pmov.get` (R122). -/
def execPmovGet (d : Reg) (s : State) : Host.Outcome State Fault Refusal :=
  issue (.pmovGet d) s fun v sh s1 =>
    (s1.result v sh (v.laneResults d 1 (fun l =>
      BitVec.ofNat 64 (bitsNat (fun p => v.gang.pred p l) 8))) []).retire

/-- `pmov.set` (R122). -/
def execPmovSet (a : Reg) (s : State) : Host.Outcome State Fault Refusal :=
  issue (.pmovSet a) s fun v sh s1 =>
    (s1.result v sh [] (if v.act = 0 then [] else
      (List.range 8).map (fun p => (p, v.act, laneSet (fun l => (v.opA sh l).getLsbD p))))).retire

/-- `clamp` (R124). -/
def execClamp (d a b : Reg) (s : State) : Host.Outcome State Fault Refusal :=
  lanesOp (.clamp d a b) d s fun m x y z => minEl m (maxEl m z x) y

/-- `fclamp` (R124). -/
def execFclamp (d a b : Reg) (s : State) : Host.Outcome State Fault Refusal :=
  lanesOp (.fclamp d a b) d s fun m x y z => fminEl m (fmaxEl m z x) y

/-- The operation of a node of an integer or a float tree (R126). -/
def redNode (m : ModeWord) (o : Nat) (a b : DWord) : DWord :=
  match o with
  | 0 => addEl m a b
  | 1 => minEl m a b
  | 2 => maxEl m a b
  | 3 => a &&& b
  | 4 => a ||| b
  | _ => a ^^^ b

def fredNode (m : ModeWord) (o : Nat) (a b : DWord) : DWord :=
  match o with
  | 0 => faddEl m a b
  | 1 => fminEl m a b
  | _ => fmaxEl m a b

/-- The tree over the 32 lanes whose leaves are the active lanes that satisfy `p` (R57, R125). -/
def View.tree (v : View) (sh : Shape) (op : DWord → DWord → DWord) (p : Nat → Bool) : DWord :=
  (treeRoot op 5 ((List.range 32).map (fun l =>
    if v.act.getLsbD l && p l then some (v.opA sh l) else none))).getD 0

/-- The registers of a result under the present type. -/
def View.words (v : View) : Nat := typeWords (modeType v.mode)

/-- `red` (R126). -/
def execRed (d a : Reg) (o : BitVec 3) (s : State) : Host.Outcome State Fault Refusal :=
  issue (.red d a o) s fun v sh s1 =>
    let r := v.tree sh (redNode v.mode o.toNat) (fun _ => true)
    (s1.result v sh (v.laneResults d v.words (fun _ => r)) []).retire

/-- `fred` (R126). -/
def execFred (d a : Reg) (o : BitVec 2) (s : State) : Host.Outcome State Fault Refusal :=
  issue (.fred d a o) s fun v sh s1 =>
    let r := v.tree sh (fredNode v.mode o.toNat) (fun _ => true)
    (s1.result v sh (v.laneResults d 1 (fun _ => r)) []).retire

/-- The leaves of the tree of lane l in a scan (R127). -/
def scanLeaf (x : BitVec 1) (l k : Nat) : Bool := decide (k < l) || (decide (k = l) && !x.getLsbD 0)

/-- `scan` (R127). -/
def execScan (d a : Reg) (x : BitVec 1) (o : BitVec 3) (s : State) : Host.Outcome State Fault Refusal :=
  issue (.scan d a x o) s fun v sh s1 =>
    (s1.result v sh (v.laneResults d v.words (fun l => v.tree sh (redNode v.mode o.toNat) (scanLeaf x l))) []).retire

/-- `fscan` (R127). -/
def execFscan (d a : Reg) (x : BitVec 1) (o : BitVec 2) (s : State) : Host.Outcome State Fault Refusal :=
  issue (.fscan d a x o) s fun v sh s1 =>
    (s1.result v sh (v.laneResults d 1 (fun l => v.tree sh (fredNode v.mode o.toNat) (scanLeaf x l))) []).retire

/-- `vote` (R128). -/
def execVote (d : Reg) (n : BitVec 1) (p : BitVec 3) (s : State) : Host.Outcome State Fault Refusal :=
  issue (.vote d n p) s fun v sh s1 =>
    let r := laneSet (fun l => v.act.getLsbD l && (v.gang.pred p.toNat l != n.getLsbD 0))
    (s1.result v sh (v.laneResults d 1 (fun _ => r.setWidth 64)) []).retire

/-- `lid` (R128). -/
def execLid (d : Reg) (s : State) : Host.Outcome State Fault Refusal :=
  issue (.lid d) s fun v sh s1 =>
    (s1.result v sh (v.laneResults d 1 (fun l => BitVec.ofNat 64 l)) []).retire

end Sys2Proof.Machine
end

