-- ==== Sys2Proof/Machine/Control.lean ====
section
/-! DEFINITION. Control, mode and system instructions (R84 to R101): branches, structured divergence,
loops, rejoining and ending, MODE, the special registers of R94 and R170, traps and `rti`. -/

namespace Sys2Proof.Machine

/-- The sequence completes, and every slice of it changes by `f` after its PC has moved (R21). -/
def State.retireWith (s : State) (f : Slice → Slice) : State :=
  s.moved (fun _ sl => f { sl.completed s.cur.addr s.cur.next with stop := .running })

/-- The sequence completes with a branch in the slices that take it (R21, R22). -/
def State.branch (s : State) (t : PC) (taken : Nat → Bool) : State :=
  s.moved fun n sl =>
    if taken n then { sl.branched t with stop := .running }
    else { sl.completed s.cur.addr s.cur.next with stop := .running }

/-- Slices of the present sequence whose copy in some slice satisfies `p`. -/
def View.anySlice (v : View) (p : Slice → Bool) : Bool :=
  (slicesOf v.cur.slices).any (fun n => p (v.gang.slice n))

/-- Active lane l has predicate p, exclusive-or NEG. -/
def View.holds (v : View) (p : BitVec 3) (n : BitVec 1) (l : Nat) : Bool :=
  v.gang.pred p.toNat l != n.getLsbD 0

/-- The four lanes of a slice. -/
def sliceLanes (n : Nat) : List Nat := [4 * n, 4 * n + 1, 4 * n + 2, 4 * n + 3]

/-- A branch target from a 16-bit displacement (R86). -/
def target16 (cur : IssueCtx) (i : BitVec 16) : PC := cur.iaddr + i.signExtend 55
def target24 (cur : IssueCtx) (i : BitVec 24) : PC := cur.iaddr + i.signExtend 55

/-- `nop` (R91). -/
def execNop (s : State) : Host.Outcome State Fault Refusal :=
  issue .nop s fun _ _ s1 => s1.retire

/-- `bra` (R86). -/
def execBra (i : BitVec 24) (s : State) : Host.Outcome State Fault Refusal :=
  issue (.bra i) s fun v _ s1 => s1.branch (target24 v.cur i) (fun _ => true)

/-- `bany` (R86). -/
def execBany (n : BitVec 1) (p : BitVec 3) (i : BitVec 16) (s : State) : Host.Outcome State Fault Refusal :=
  issue (.bany n p i) s fun v _ s1 =>
    s1.branch (target16 v.cur i) (fun k => (sliceLanes k).any (fun l => v.act.getLsbD l && v.holds p n l))

/-- `ball` (R86). -/
def execBall (n : BitVec 1) (p : BitVec 3) (i : BitVec 16) (s : State) : Host.Outcome State Fault Refusal :=
  issue (.ball n p i) s fun v _ s1 =>
    s1.branch (target16 v.cur i) (fun k => (sliceLanes k).all (fun l => !v.act.getLsbD l || v.holds p n l))

/-- The link written to v0 and v1 in every lane of each slice (R87). -/
def State.writeLink (s : State) (v : View) : State :=
  let link : BitVec 64 := (v.cur.next).setWidth 64
  let ws := (slicesOf v.cur.slices).flatMap fun n => (sliceLanes n).flatMap fun l =>
    [(l, link.setWidth 32), (32 + l, (link >>> 32).setWidth 32)]
  s.setCore v.cur.gang.core ((s.core v.cur.gang.core).setRegs v.gang ws)

/-- Every slice goes to its own target with its loop stack as it is (R22, R87). -/
def State.jump (s : State) (t : Nat → PC) : State :=
  s.moved (fun n sl => { sl with pc := t n, stop := .running })

/-- `call` (R87). -/
def execCall (i : BitVec 24) (s : State) : Host.Outcome State Fault Refusal :=
  issue (.call i) s fun v _ s1 => (s1.writeLink v).jump (fun _ => target24 v.cur i)

/-- The target that slot A gives slice n (R84, R87). -/
def View.link (v : View) (sh : Shape) (n : Nat) : PC := (v.opA sh (4 * n)).setWidth 55

/-- `ret` (R87). -/
def execRet (a : Reg) (s : State) : Host.Outcome State Fault Refusal :=
  issue (.ret a) s fun v sh s1 => s1.jump (v.link sh)

/-- `brr` (R87). -/
def execBrr (a : Reg) (s : State) : Host.Outcome State Fault Refusal :=
  issue (.brr a) s fun v sh s1 =>
    s1.moved (fun n sl => { sl.branched (v.link sh n) with stop := .running })

/-- `brr.l` (R87). -/
def execBrrL (a : Reg) (s : State) : Host.Outcome State Fault Refusal :=
  issue (.brrL a) s fun v sh s1 => (s1.writeLink v).jump (v.link sh)

/-- The lanes of slice n that an `if` keeps (R88). -/
def View.ifMask (v : View) (p : BitVec 3) (n : BitVec 1) (k : Nat) : BitVec 4 :=
  BitVec.ofNat 4 (bitsNat (fun j => v.act.getLsbD (4 * k + j) && v.holds p n (4 * k + j)) 4)

/-- `if` (R88). -/
def execIfP (n : BitVec 1) (p : BitVec 3) (i : BitVec 16) (s : State) : Host.Outcome State Fault Refusal :=
  issueChecked (.ifP n p i) s fun v sh s1 go =>
    if v.anySlice (fun sl => decide (16 ≤ sl.rstack.length)) then s1.trapNow 0x13 0 (v.tlanes sh) 0
    else
      (go s1).moved fun k sl =>
        let new := v.ifMask p n k
        let e : RsEntry := { phase := false, outer := sl.mask, alt := sl.mask &&& ~~~new, smode := sl.mode }
        let sl1 := { sl with rstack := e :: sl.rstack, mask := new, stop := .running }
        if new = 0 then sl1.branched (target16 v.cur i) else sl1.completed v.cur.addr v.cur.next

/-- `else` (R88). -/
def execElseP (i : BitVec 16) (s : State) : Host.Outcome State Fault Refusal :=
  issueChecked (.elseP i) s fun v sh s1 go =>
    if v.anySlice (fun sl => match sl.rstack with | e :: _ => e.phase | [] => true) then
      s1.trapNow 0x14 0 (v.tlanes sh) 0
    else
      (go s1).moved fun _ sl =>
        match sl.rstack with
        | [] => sl
        | e :: r =>
          let sl1 :=
            { sl with rstack := { e with phase := true } :: r, mask := e.alt, mode := e.smode, stop := .running }
          if e.alt = 0 then sl1.branched (target16 v.cur i) else sl1.completed v.cur.addr v.cur.next

/-- `endif` (R88). -/
def execEndif (s : State) : Host.Outcome State Fault Refusal :=
  issueChecked .endif s fun v sh s1 go =>
    if v.anySlice (fun sl => decide (sl.rstack = [])) then s1.trapNow 0x14 0 (v.tlanes sh) 0
    else
      (go s1).moved fun _ sl =>
        match sl.rstack with
        | [] => sl
        | e :: r =>
          Slice.completed { sl with rstack := r, mask := e.outer, mode := e.smode, stop := .running }
            v.cur.addr v.cur.next

/-- Pushing a loop of `n k` passes in slice k, or skipping it (R89). The PC is set as R89 says even where the word stands
at END of the entry on top, whose COUNT stays as it is, and no R22 applies: log 125 (DESIGN CHOICE). -/
def State.pushLoop (s : State) (go : State → State) (v : View) (sh : Shape) (i : BitVec 16) (n : Nat → Word) : State :=
  if v.anySlice (fun sl => decide (4 ≤ sl.lstack.length)) then s.trapNow 0x15 0 (v.tlanes sh) 0
  else
    (go s).moved fun k sl =>
      let e := v.cur.iaddr + i.setWidth 55
      if n k = 0 then { sl with pc := e + 1, stop := .running }
      else
        { sl with
          pc := v.cur.iaddr + 1, stop := .running
          lstack := { start := v.cur.iaddr + 1, stop := e, count := n k } :: sl.lstack }

/-- `loop` (R89). -/
def execLoop (c : BitVec 8) (i : BitVec 16) (s : State) : Host.Outcome State Fault Refusal :=
  issueChecked (.loop c i) s fun v sh s1 go => s1.pushLoop go v sh i (fun _ => c.setWidth 32)

/-- `loopr` (R89). -/
def execLoopr (d : Reg) (i : BitVec 16) (s : State) : Host.Outcome State Fault Refusal :=
  issueChecked (.loopr d i) s fun v sh s1 go =>
    s1.pushLoop go v sh i (fun k => (v.opC sh (4 * k)).setWidth 32)

/-- `lbrk` (R89). -/
def execLbrk (s : State) : Host.Outcome State Fault Refusal :=
  issueChecked .lbrk s fun v sh s1 go =>
    if v.anySlice (fun sl => decide (sl.lstack = [])) then s1.trapNow 0x18 0 (v.tlanes sh) 0
    else
      (go s1).moved fun _ sl =>
        match sl.lstack with
        | [] => sl
        | e :: r => { sl with pc := e.stop + 1, lstack := r, stop := .running }

/-- A stop at a `regang`: the slices stand at it, and the rejoin is resolved once every live slice
does (R25). -/
def execRegang (s : State) : Host.Outcome State Fault Refusal :=
  issue .regang s fun v _ s1 =>
    (s1.updGang v.cur.gang fun x =>
      (x.mapSlices v.cur.slices (fun _ sl => { sl with stop := .regang })).setGroup v.cur.entry
        { (default : GroupSt) with wait := .regang }).settleRegang
      v.cur.gang

/-- `exit` (R91). -/
def execExit (s : State) : Host.Outcome State Fault Refusal :=
  issue .exit s fun v _ s1 => s1.exitSlices v.cur.gang v.cur.slices

/-- Every group that holds a slice of `sl` waits until a cycle (R91). -/
def Gang.holdUntil (x : Gang) (sl : SliceSet) (r : WaitReason) (cyc : Nat) : Gang :=
  x.groupList.foldl
    (fun y e => if y.groupSlices e &&& sl ≠ 0 then y.setGroup e { y.group e with wait := r, age := 0, wake := cyc } else y) x

/-- `yield` (R91). -/
def execYield (s : State) : Host.Outcome State Fault Refusal :=
  issue .yield s fun v _ s1 =>
    s1.retire.updGang v.cur.gang
      (fun x => x.holdUntil v.cur.slices .yield ((s.die (dieOf v.cur.gang.core)).cyc + 2))

/-- `pause` (R91). -/
def execPause (i : BitVec 16) (s : State) : Host.Outcome State Fault Refusal :=
  issue (.pause i) s fun v _ s1 =>
    if i = 0 then s1.retire
    else
      s1.retire.updGang v.cur.gang
        (fun x => x.holdUntil v.cur.slices .pause ((s.die (dieOf v.cur.gang.core)).cyc + i.toNat + 1))

/-- `mode` (R92). -/
def execMode (i : BitVec 16) (s : State) : Host.Outcome State Fault Refusal :=
  issue (.mode i) s fun _ _ s1 => s1.retireWith (fun sl => { sl with mode := i })

/-- `mtype` (R92). -/
def execMtype (t : BitVec 4) (s : State) : Host.Outcome State Fault Refusal :=
  issue (.mtype t) s fun _ _ s1 => s1.retireWith (fun sl => { sl with mode := setField sl.mode 7 4 t.toNat })

/-- `mrnd` (R92). -/
def execMrnd (r : BitVec 3) (s : State) : Host.Outcome State Fault Refusal :=
  issue (.mrnd r) s fun _ _ s1 => s1.retireWith (fun sl => { sl with mode := setField sl.mode 4 3 r.toNat })

/-- `mguard` (R92). -/
def execMguard (g n : BitVec 1) (p : BitVec 3) (s : State) : Host.Outcome State Fault Refusal :=
  issue (.mguard g n p) s fun _ _ s1 =>
    s1.retireWith (fun sl => { sl with mode := modeGuard sl.mode (g.getLsbD 0) (n.getLsbD 0) p })

/-- The lowest level that may read a special register (R94, R170). -/
def srReadLevel (n : Nat) : Nat :=
  if (0x010 ≤ n ∧ n ≤ 0x01B) ∨ (0x100 ≤ n ∧ n < 0x300) ∨ (0x324 ≤ n ∧ n ≤ 0x327) then 1 else 0

/-- The lowest level that may write a special register that can be written. -/
def srWriteLevel (n : Nat) : Nat :=
  if (0x010 ≤ n ∧ n ≤ 0x01B) ∨ (0x100 ≤ n ∧ n < 0x300) then 1 else 0

/-- What a special register reads as for slice k and lane l of a gang (R94 to R96, R170). -/
def State.srRead (s : State) (g : GangRef) (x : Gang) (n k l : Nat) : Word :=
  let c := s.core g.core
  let t := x.trap
  let tm := (c.team? x.team).getD default
  let cyc : BitVec 64 := BitVec.ofNat 64 (s.die (dieOf g.core)).cyc
  if n = 0 then (x.slice k).mode.setWidth 32
  else if n = 1 then x.gstat
  else if n = 2 then (x.slice k).lmask
  else if n = 3 then BitVec.ofNat 32 (l + 32 * (l / 4))
  else if n = 4 then BitVec.ofNat 32 (x.num + 256 * x.vcount)
  else if n = 5 then placeWord s.mid g.core
  else if n = 6 then BitVec.ofNat 32 (c.sessionOf x)
  else if n = 7 then BitVec.ofNat 32 (c.level x + 4 * (c.recordOf x).base)
  else if n = 8 then cyc.setWidth 32
  else if n = 9 then (cyc >>> 32).setWidth 32
  else if n = 0x10 then t.tcause
  else if n = 0x11 then t.tpc.setWidth 32
  else if n = 0x12 then (t.tpc >>> 32).setWidth 32
  else if n = 0x13 then t.taddr.setWidth 32
  else if n = 0x14 then (t.taddr >>> 32).setWidth 32
  else if n = 0x15 then t.tlanes
  else if n = 0x16 then t.tsplit
  else if n < 0x100 then t.tsave.getD (n - 0x18) 0
  else if n < 0x300 then
    match t.tslice[(n - 0x100) / 64]? with
    | some v => v.item (n % 64)
    | none => 0
  else if n < 0x310 then tm.tctl.getD (n - 0x300) 0
  else if n < 0x320 then tm.tbase.getD (n - 0x310) 0
  else if n < 0x324 then (c.accs.getD (n - 0x320) Acc.init).stat
  else if n < 0x328 then (c.accs.getD (n - 0x324) Acc.init).own
  else if n < 0x330 then tm.rdesc.getD (n - 0x328) 0
  else if n < 0x338 then BitVec.ofNat 32 (tm.rprod.getD (n - 0x330) 0)
  else if n < 0x340 then BitVec.ofNat 32 (tm.rcons.getD (n - 0x338) 0)
  else x.acnt

/-- `mfs` (R93). -/
def execMfs (d : Reg) (sr : BitVec 10) (s : State) : Host.Outcome State Fault Refusal :=
  issueChecked (.mfs d sr) s fun v sh s1 go =>
    if v.core.level v.gang < srReadLevel sr.toNat then s1.trapNow 0x05 0 0 0
    else
      let low := v.gang.lead v.cur.slices
      ((go s1).result v sh (v.laneResults d 1 (fun l =>
        (s1.srRead v.cur.gang v.gang sr.toNat (if isUniform d then low else l / 4) l).setWidth 64)) []).retire

/-- The tiles that a matrix command names. -/
def MxOp.tiles (m : MxOp) : List Nat :=
  match m with
  | .tmma _ a b => [a, b]
  | .ttr _ a | .tperm _ a _ | .tred _ a => [a]
  | .amovt t _ _ _ | .tmvGet t _ _ | .tmvPut t _ _ | .tfill t _ => [t]
  | .azero _ | .amov .. | .acvt .. | .asave _ | .arest _ => []

/-- The tiles that a command names (R172). -/
def CmdOp.tiles (o : CmdOp) : List Nat :=
  match o with
  | .tld t _ _ => [t]
  | .tsto t _ _ => [t]
  | .matrix m => m.tiles
  | _ => []

/-- The rings that a command names: input and output (R177, R200). -/
def CmdOp.ringIn (o : CmdOp) : Option Nat :=
  match o with
  | .copy _ _ c => if c.getLsbD 26 then some (fieldNat c 27 3) else none
  | _ => none

def CmdOp.ringOut (o : CmdOp) : Option Nat :=
  match o with
  | .copy _ _ c | .cfill _ _ c => if c.getLsbD 22 then some (fieldNat c 23 3) else none
  | _ => none

/-- The unretired commands of a team of a core, with the follow-on commands to come (R172, R202). -/
def CoreSt.teamCmds (c : CoreSt) (t : Nat) : List Cmd :=
  (c.queues.flatten ++ c.follow).filter (fun k => decide (k.team = t) && !k.done)

/-- Slots of a ring, the filled ones, and the free ones (R176). -/
def Team.slots (t : Team) (n : Nat) : Nat := fieldNat (t.rdesc.getD n 0) 16 8 + 1
def Team.filled (t : Team) (n : Nat) : Nat := (t.rprod.getD n 0 + 65536 - t.rcons.getD n 0) % 65536
def Team.free (t : Team) (n : Nat) : Nat := t.slots n - t.filled n

/-- The lowest level and the checks of an `mts`, then its effect (R26, R93, R96, R172, R178, R183): a
cause, a wait, or the state afterwards. -/
inductive SrWrite where
  | done (s : State)
  | trap (cause : BitVec 8)
  | wait

/-- A store or atomic of the gang to its core scratchpad is not performed yet (R178). -/
def State.scratchPending (s : State) (g : GangRef) (t : Team) : Bool :=
  s.accessPending g fun a => kindWrites a.kind && match a.place with
    | .store k o => decide (k = g.core) && decide (t.scratchBase ≤ o) &&
        decide (o < t.scratchBase + t.record.scratch)
    | _ => false

def State.srWrite (s : State) (v : View) (n : Nat) (w : Word) : SrWrite :=
  let g := v.cur.gang
  let upTeam (f : Team → Team) : SrWrite := .done (s.updTeam g.core v.gang.team f)
  let upTrap (f : TrapRec → TrapRec) : SrWrite := .done (s.updGang g (fun x => { x with trap := f x.trap }))
  match v.core.team? v.gang.team with
  | none => .done s
  | some t =>
    let cmds := v.core.teamCmds v.gang.team
    if n = 0 then
      if !roundingOk (fieldNat w 4 3) then .trap 0x02
      else .done (s.updGang g (fun x => x.mapSlices v.cur.slices (fun _ sl => { sl with mode := w.setWidth 16 })))
    else if n = 1 then
      .done (s.updGang g (fun x => { x with lost := x.lost && !w.getLsbD 2, rx := x.rx && !w.getLsbD 0 }))
    else if n = 0x10 then
      upTrap (fun r => { r with tcause := setField (setField r.tcause 0 8 (fieldNat w 0 8)) 16 16 (fieldNat w 16 16) })
    else if n < 0x100 then upTrap (fun r => { r with tsave := r.tsave.set (n - 0x18) w })
    else if n < 0x300 then
      if v.gang.trap.tcause.getLsbD 15 then
        upTrap (fun r => { r with tslice := r.tslice.modify ((n - 0x100) / 64) (fun x => x.setItem (n % 64) w) })
      else .done s
    else if n < 0x310 then
      if fieldNat w 20 4 ≠ 0 then .trap 0x02
      else if cmds.any (fun k => decide (n - 0x300 ∈ k.op.tiles)) then .wait
      else upTeam (fun t => { t with tctl := t.tctl.set (n - 0x300) w })
    else if n < 0x320 then
      if fieldNat w 20 12 ≠ 0 ∨ fieldNat w 0 4 ≠ 0 then .trap 0x02
      else if cmds.any (fun k => decide (n - 0x310 ∈ k.op.tiles)) then .wait
      else upTeam (fun t => { t with tbase := t.tbase.set (n - 0x310) w })
    else if n < 0x324 then
      .done (s.setCore g.core { s.core g.core with
        accs := (s.core g.core).accs.modify (n - 0x320)
          (fun a => { a with nan := a.nan && !w.getLsbD 1, ovf := a.ovf && !w.getLsbD 0 }) })
    else if n < 0x330 then
      let r := n - 0x328
      if t.filled r ≠ 0 ∨ cmds.any (fun k => decide (k.op.ringIn = some r ∨ k.op.ringOut = some r)) ∨
          t.record.scratch < fieldNat w 0 16 * 256 + (fieldNat w 16 8 + 1) * fieldNat w 24 8 * 128 then .trap 0x45
      else upTeam (fun t => { t with rdesc := t.rdesc.set r w, rprod := t.rprod.set r 0, rcons := t.rcons.set r 0 })
    else if n < 0x338 then
      let r := n - 0x330
      if fieldNat w 16 16 ≠ 0 then .trap 0x02
      else if s.scratchPending g t then .wait
      else if t.free r < (w.toNat + 65536 - t.rprod.getD r 0) % 65536 then .trap 0x45
      else upTeam (fun t => { t with rprod := t.rprod.set r w.toNat })
    else
      let r := n - 0x338
      if fieldNat w 16 16 ≠ 0 then .trap 0x02
      else if t.filled r - t.rin.getD r 0 < (w.toNat + 65536 - t.rcons.getD r 0) % 65536 then .trap 0x45
      else upTeam (fun t => { t with rcons := t.rcons.set r w.toNat })

/-- `mts` (R93). -/
def execMts (d : Reg) (sr : BitVec 10) (s : State) : Host.Outcome State Fault Refusal :=
  issueChecked (.mts d sr) s fun v sh s1 go =>
    if v.core.level v.gang < srWriteLevel sr.toNat then s1.trapNow 0x05 0 0 0
    else if isVector d ∧ v.act = 0 then (go s1).retire
    else
      let l := ((lanesOf v.act).head?).getD 0
      match (go s1).srWrite v sr.toNat ((v.opC sh l).setWidth 32) with
      | .done s2 => s2.retire
      | .trap c => s1.trapNow c 0 0 0
      | .wait => s1.hold .engine

/-- A cause of `trap` or `brk`: the instruction completes, and TPC is its own address (R99). Log 12 (DEDUCED). -/
def State.trapAfter (s : State) (cause : BitVec 8) (info : BitVec 16) : State :=
  s.raise s.cur.gang
    { cause := cause, info := info, slices := s.cur.slices, addr := s.cur.addr, taddr := 0, tlanes := 0,
      bu := false, next := some s.cur.next, cycle := some (s.die (dieOf s.cur.gang.core)).cyc }

/-- `trap` (R99). -/
def execTrap (i : BitVec 16) (s : State) : Host.Outcome State Fault Refusal :=
  issue (.trap i) s fun _ _ s1 => s1.trapAfter 0x06 i

/-- `brk` in a crew under debug control stops the crew with WHY 2 (R99, R230); otherwise it traps. -/
def execBrk (i : BitVec 16) (s : State) : Host.Outcome State Fault Refusal :=
  issue (.brk i) s fun v _ s1 =>
    match s1.crewOf v.cur.gang.core v.gang with
    | some c =>
      if c.attached then
        (s1.trigger c
          { cycle := (s1.die (dieOf v.cur.gang.core)).cyc, why := 2, wp := 0, gang := some v.cur.gang,
            seq := some v.gang.seqs, pc := v.cur.addr, addr := 0 }).retire
      else s1.trapAfter 0x07 i
    | none => s1.trapAfter 0x07 i

/-- `sys.kill` (R101). -/
def execSysKill (s : State) : Host.Outcome State Fault Refusal :=
  issue .sysKill s fun v _ s1 => s1.endNow 0x0B ((v.gang.trap.tcause.setWidth 8).setWidth 16)

/-- `sys.abort` (R101). -/
def execSysAbort (n : BitVec 8) (s : State) : Host.Outcome State Fault Refusal :=
  issue (.sysAbort n) s fun _ _ s1 => s1.endNow 0x0A (n.setWidth 16)

/-- The checks of `rti` on what the trap record holds (R100). -/
def Gang.rtiOk (x : Gang) (sl : SliceSet) : Bool :=
  let sv (n : Nat) : SavedSlice := x.trap.tslice.getD n default
  decide (sl = x.liveSet) &&
  (List.range 4).all (fun e =>
    let m := slicesOf ((x.trap.tsplit.extractLsb' (8 * e) 8) &&& x.liveSet)
    match m with
    | [] => true
    | a :: r => r.all (fun b => decide ((sv b).pc = (sv a).pc) && decide ((sv b).mode = (sv a).mode))) &&
  (slicesOf x.liveSet).all (fun n => roundingOk (modeRnd (sv n).mode))

/-- A slice as `rti` restores it: one that stood at a barrier where it now resumes stands there again
(R100, R155 item 8). -/
def Slice.restored (sl : Slice) (v : SavedSlice) : Slice :=
  { sl with
    pc := v.pc, mask := v.mask, mode := v.mode, rstack := v.rstack, lstack := v.lstack,
    stop := if v.pc = v.at_ ∧ v.stop ≠ .regang then v.stop else .running }

/-- The unfinished destinations of a parked sequence. -/
def Parked.openDests (p : Parked) : Dest :=
  ((p.form.map (·.dst)).getD []) ++ p.lanes.flatMap fun l => match l.access with
    | some a => kindDest a.kind
    | none => []

/-- Destinations that will get no delivery become lost, where they still wait for it (R36, R319). -/
def State.abandonDests (s : State) (g : GangRef) (d : Dest) : State :=
  match s.gang? g with
  | none => s
  | some x =>
    let c := s.core g.core
    s.setCore g.core (c.lose (d.flatMap fun e =>
      (e.2.filter (fun w => decide (c.copy x w = .empty (.delivery g e.1)))).map (c.phys x)))

/-- The state that `rti` restores (R39, R100, R319): slices, split table, GSTAT and level. A parked sequence whose
slices resume at its address stays parked; another is abandoned. Log 131 (DEDUCED). -/
def Gang.returned (x : Gang) : Gang :=
  let sv (n : Nat) : SavedSlice := x.trap.tslice.getD n default
  let sls := (List.range 8).map fun n => if x.live n then (x.slice n).restored (sv n) else x.slice n
  let sp := (List.range 4).map fun e => (x.trap.tsplit.extractLsb' (8 * e) 8) &&& x.liveSet
  let y : Gang :=
    { x with
      slices := sls, split := sp,
      single := x.liveSet &&& ~~~(sp.foldl (· ||| ·) 0),
      groups := List.replicate 12 default,
      lost := x.trap.lost, rx := x.trap.rx,
      trap := { x.trap with tcause := setField x.trap.tcause 15 1 0 },
      bars := x.bars.map (fun e => (e.1,
        { e.2 with pending := e.2.saved && sls.any (fun sl => sl.live && barStop e.1 sl.stop), saved := false })),
      cbars := x.cbars.map (fun e => (e.1,
        { e.2 with pending := e.2.saved && sls.any (fun sl => sl.live && cbarStop e.1 sl.stop), saved := false })) }
  let kept := x.parked.filter fun p =>
    (slicesOf (p.cur.slices &&& y.liveSet)).all (fun n => decide ((y.slice n).pc = p.cur.addr))
  { y with parked := kept.map (fun p => { p with saved := false }) }

/-- `rti` (R100). -/
def execRti (s : State) : Host.Outcome State Fault Refusal :=
  issueChecked .rti s fun v _ s1 go =>
    if !v.gang.trap.tcause.getLsbD 15 ∨ !v.gang.rtiOk v.cur.slices then s1.trapNow 0x08 0 0 0
    else
      let y := v.gang.returned
      let gone := (v.gang.parked.filter (fun p => !decide ({ p with saved := false } ∈ y.parked))).flatMap Parked.openDests
      let s3 := ((go s1).setGang v.cur.gang y).abandonDests v.cur.gang gone
      let s4 := if y.owesTrap then s3.postOnce (.unitFaultTrap v.cur.gang) else s3
      if y.parked = [] then s4
      else (s4.updGang v.cur.gang Gang.faulted).postOnce (.gangUnpark v.cur.gang)

/-- An unassigned opcode byte or sub value (R72 step 1, R73): the cause applies to no lane in particular, so TLANES is 0.
Log 27 (DESIGN CHOICE). -/
def execIllegalOpcode (s : State) : Host.Outcome State Fault Refusal :=
  .next (s.trapNow 0x01 0 0 0)

/-- A PAUSE has run its cycles (R91). -/
def execPauseExpiry (s : State) : Host.Outcome State Fault Refusal :=
  match s.ev with
  | .pauseExpiry g e =>
    .next (s.updGang g fun x =>
      if (x.group e).wait = .pause ∧ (x.group e).wake ≤ (s.die (dieOf g.core)).cyc then
        x.setGroup e { x.group e with wait := .ready }
      else x)
  | _ => .next s

end Sys2Proof.Machine
end

