-- ==== Sys2Proof/Machine/Memory.lean ====
section
/-! DEFINITION. Loads, stores, `ldw` and `chk`, lane-private memory, and the management of cached copies
(R131 to R144), as they issue. -/

namespace Sys2Proof.Machine

/-- The requests of a load: one for each active lane; one for all of them where the address is uniform
(R135). Log 43 (DEDUCED). -/
def View.loadReqs (v : View) (sh : Shape) (d a : Reg) (off : BitVec 8) (size n : Nat) : List LaneReq :=
  if v.act = 0 then []
  else if isUniform a then
    [⟨32, v.act, effAddr (v.opA sh 0) off size, .load (v.dest d n)⟩]
  else (lanesOf v.act).map fun l =>
    ⟨l, BitVec.ofNat 32 (2 ^ l), effAddr (v.opA sh l) off size, .load (laneDest d n l)⟩

/-- A load of `size` bytes into `n` registers. -/
def loadOp (i : Instr) (d a : Reg) (off : BitVec 8) (size n : Nat) (s : State) :
    Host.Outcome State Fault Refusal :=
  issueChecked i s fun v sh s1 go =>
    s1.issueAccess go v size size (v.loadReqs sh d a off size n) State.retire

/-- The requests of a store: one for each active lane, or one for a uniform datum at a uniform address
(R135). -/
def View.storeReqs (v : View) (sh : Shape) (d : Reg) (off : BitVec 8) (size : Nat) : List LaneReq :=
  let bytes (l : Nat) : List Byte := (bytesOfWords (v.slotWords sh.c v.cur.routeC l)).take size
  if v.act = 0 then []
  else if isUniform d then [⟨32, v.act, effAddr (v.opA sh 0) off size, .store (bytes 0)⟩]
  else (lanesOf v.act).map fun l =>
    ⟨l, BitVec.ofNat 32 (2 ^ l), effAddr (v.opA sh l) off size, .store (bytes l)⟩

/-- A store of `size` bytes. -/
def storeOp (i : Instr) (d : Reg) (off : BitVec 8) (size : Nat) (s : State) :
    Host.Outcome State Fault Refusal :=
  issueChecked i s fun v sh s1 go =>
    s1.issueAccess go v size size (v.storeReqs sh d off size) State.retire

/-- `ld8` (R134). -/
def execLd8 (d a : Reg) (o : BitVec 8) (s : State) : Host.Outcome State Fault Refusal :=
  loadOp (.ld8 d a o) d a o 1 1 s

/-- `ld16` (R134). -/
def execLd16 (d a : Reg) (o : BitVec 8) (s : State) : Host.Outcome State Fault Refusal :=
  loadOp (.ld16 d a o) d a o 2 1 s

/-- `ld32` (R134). -/
def execLd32 (d a : Reg) (o : BitVec 8) (s : State) : Host.Outcome State Fault Refusal :=
  loadOp (.ld32 d a o) d a o 4 1 s

/-- `ld64` (R134). -/
def execLd64 (d a : Reg) (o : BitVec 8) (s : State) : Host.Outcome State Fault Refusal :=
  loadOp (.ld64 d a o) d a o 8 2 s

/-- `ld128` (R134). -/
def execLd128 (d a : Reg) (o : BitVec 8) (s : State) : Host.Outcome State Fault Refusal :=
  loadOp (.ld128 d a o) d a o 16 4 s

/-- `st8` (R134). -/
def execSt8 (d a : Reg) (o : BitVec 8) (s : State) : Host.Outcome State Fault Refusal :=
  storeOp (.st8 d a o) d o 1 s

/-- `st16` (R134). -/
def execSt16 (d a : Reg) (o : BitVec 8) (s : State) : Host.Outcome State Fault Refusal :=
  storeOp (.st16 d a o) d o 2 s

/-- `st32` (R134). -/
def execSt32 (d a : Reg) (o : BitVec 8) (s : State) : Host.Outcome State Fault Refusal :=
  storeOp (.st32 d a o) d o 4 s

/-- `st64` (R134). -/
def execSt64 (d a : Reg) (o : BitVec 8) (s : State) : Host.Outcome State Fault Refusal :=
  storeOp (.st64 d a o) d o 8 s

/-- `st128` (R134). -/
def execSt128 (d a : Reg) (o : BitVec 8) (s : State) : Host.Outcome State Fault Refusal :=
  storeOp (.st128 d a o) d o 16 s

/-- `ldw` makes one access for each active lane, in increasing order (R142). -/
def execLdw (d a : Reg) (o : BitVec 8) (s : State) : Host.Outcome State Fault Refusal :=
  issueChecked (.ldw d a o) s fun v sh s1 go =>
    s1.issueAccess go v 4 4
      ((lanesOf v.act).map fun l =>
        ⟨l, BitVec.ofNat 32 (2 ^ l), effAddr (v.opA sh l) o 4, .loadw (laneDest d 1 l)⟩) State.retire

/-- The lanes of the slices of a set. -/
def slicesLanes (g : SliceSet) : LaneSet := laneSet (fun l => g.getLsbD (l / 4))

/-- `chk` (R144): the group waits while an entry of its lanes is PENDING; then it branches if one was
struck, and its lanes leave every entry. -/
def execChk (i : BitVec 24) (s : State) : Host.Outcome State Fault Refusal :=
  issueChecked (.chk i) s fun v _ s1 go =>
    let g := slicesLanes v.cur.slices
    let es := v.gang.watch.filter (fun e => decide (e.own &&& g ≠ 0))
    if es.any (fun e => !e.struck) then s1.hold .watch
    else
      let taken := decide (es ≠ [])
      let left := (v.gang.watch.map (fun e => { e with own := e.own &&& ~~~g })).filter
        (fun e => decide (e.own ≠ 0))
      ((go s1).updGang v.cur.gang (fun x => { x with watch := left })).branch (target24 v.cur i) (fun _ => taken)

/-- The offset of lane-private memory in a lane (R139). -/
def privOffset (a : DWord) (off : BitVec 8) : Word := a.setWidth 32 + off.signExtend 32 * 4

/-- The address of a lane-private word (R139). -/
def View.privAddr (v : View) (l : Nat) (o : Word) : VAddr :=
  let r := v.core.recordOf v.gang
  r.pbase + BitVec.ofNat 57 (v.gang.num * 32 * r.psize + o.toNat / 4 * 128 + l * 4)

/-- The access of `ldl` or `stl` (R139): offsets that are no multiple of 4 trap MISALIGNED, and offsets
from PSIZE on OPERAND_BOUNDS. Log 29 (DESIGN CHOICE). -/
def privateOp (i : Instr) (off : BitVec 8) (k : View → Shape → Nat → AccKind) (s : State) :
    Host.Outcome State Fault Refusal :=
  issueChecked i s fun v sh s1 go =>
    let r := v.core.recordOf v.gang
    let o (l : Nat) : Word := privOffset (v.opA sh l) off
    let odd := (lanesOf v.act).filter (fun l => decide ((o l).toNat % 4 ≠ 0))
    let out := (lanesOf v.act).filter (fun l => decide (r.psize ≤ (o l).toNat))
    if odd ≠ [] then s1.trapNow 0x20 0 (laneSet (fun l => decide (l ∈ odd))) (Config.openAddr s.tick)
    else if out ≠ [] then s1.trapNow 0x40 0 (laneSet (fun l => decide (l ∈ out))) (Config.openAddr s.tick)
    else
      s1.issueAccess go v 4 4
        ((lanesOf v.act).map fun l => ⟨l, BitVec.ofNat 32 (2 ^ l), v.privAddr l (o l), k v sh l⟩) State.retire

/-- `ldl` (R139). -/
def execLdl (d a : Reg) (o : BitVec 8) (s : State) : Host.Outcome State Fault Refusal :=
  privateOp (.ldl d a o) o (fun _ _ l => .load (laneDest d 1 l)) s

/-- `stl` (R139). -/
def execStl (d a : Reg) (o : BitVec 8) (s : State) : Host.Outcome State Fault Refusal :=
  privateOp (.stl d a o) o
    (fun v sh l => .store ((bytesOfWords (v.slotWords sh.c v.cur.routeC l)).take 4)) s

/-- The addresses of `pf`, `wb` and `inv` in the active lanes that name no aperture, with their lanes
(R140). -/
def View.lineAddrs (v : View) (sh : Shape) (a : Reg) (off : BitVec 8) : List (Nat × LaneSet × VAddr) :=
  let all := if isUniform a then (if v.act = 0 then [] else [(32, v.act, effAddr (v.opA sh 0) off 16)])
    else (lanesOf v.act).map (fun l => (l, (BitVec.ofNat 32 (2 ^ l) : LaneSet), effAddr (v.opA sh l) off 16))
  all.filter (fun e => !isAperture e.2.2)

/-- A fill of the line of one address, if it translates; it leaves no copy of a U line (R140, R246). -/
def State.prefetch (s : State) (v : View) (l1 : Bool) (lane : Nat) (va : VAddr) : State :=
  let core := v.cur.gang.core
  match s.translate (askOf v.core core v.gang 0 lane) va.toNat with
  | (.ok (.mem pa coh), s1) =>
    match s1.forward pa with
    | none => s
    | some q =>
      let vl := (v.core.sessionOf v.gang, va.toNat / 128)
      if l1 then s1.fillHome core coh (lineOf q) [vl]
      else
        let s2 := s1.fillHome core coh (lineOf q) [vl]
        { s2 with copies := s2.copies.filter (fun c => !(decide (c.holder = .l1 core) && decide (c.line = lineOf q))) ++
            (s1.copies.filter (fun c => decide (c.holder = .l1 core) && decide (c.line = lineOf q))) }
  | (.ok _, s1) => s1
  | _ => s

/-- `pf` starts a fill for each line and never faults (R140). Log 47 (DEDUCED). -/
def prefetchOp (i : Instr) (l1 : Bool) (a : Reg) (o : BitVec 8) (s : State) : Host.Outcome State Fault Refusal :=
  issue i s fun v sh s1 =>
    ((v.lineAddrs sh a o).foldl (fun s' e => s'.prefetch v l1 e.1 e.2.2) s1).retire

/-- `pf.l1` (R140). -/
def execPfL1 (a : Reg) (o : BitVec 8) (s : State) : Host.Outcome State Fault Refusal :=
  prefetchOp (.pfL1 a o) true a o s

/-- `pf.l2` (R140). -/
def execPfL2 (a : Reg) (o : BitVec 8) (s : State) : Host.Outcome State Fault Refusal :=
  prefetchOp (.pfL2 a o) false a o s

/-- `wb` and `inv` act on each line as their address translates (R140). Log 46 (DEDUCED). -/
def maintOp (i : Instr) (drop : Bool) (a : Reg) (o : BitVec 8) (s : State) : Host.Outcome State Fault Refusal :=
  issueChecked i s fun v sh s1 go =>
    s1.issueAccess go v 1 1 ((v.lineAddrs sh a o).map (fun e => ⟨e.1, e.2.1, e.2.2, .maint drop⟩)) State.retire

/-- `wb` (R140). -/
def execWb (a : Reg) (o : BitVec 8) (s : State) : Host.Outcome State Fault Refusal :=
  maintOp (.wb a o) false a o s

/-- `inv` (R140). -/
def execInv (a : Reg) (o : BitVec 8) (s : State) : Host.Outcome State Fault Refusal :=
  maintOp (.inv a o) true a o s

end Sys2Proof.Machine
end

