-- ==== Sys2Proof/Machine/Sync.lean ====
section
/-! DEFINITION. Atomics (R146 to R148), synchronisation objects (R149 to R153), fences (R154, R259), team
and crew barriers (R155, R218), register handoff (R156) and shared windows (R157), as they issue. -/

namespace Sys2Proof.Machine

/-- The requests of an atomic (R146): one for each active lane, or one in the uniform form. -/
def atomicReqs (op : AtOp) (n : Nat) (d : Reg) (v : View) (sh : Shape) : List LaneReq :=
  let req (l : Nat) (lanes : LaneSet) (dst : Dest) : LaneReq :=
    ⟨l, lanes, (v.opA sh (l % 32)).setWidth 57,
      .atomic op (modeType v.mode) v.mode (v.opB sh (l % 32)) (v.opC sh (l % 32)) dst⟩
  if v.act = 0 then []
  else if isUniform d then [req 32 v.act (v.dest d n)]
  else (lanesOf v.act).map (fun l => req l (BitVec.ofNat 32 (2 ^ l)) (laneDest d n l))

/-- An atomic issues (R146): 8 bytes wide under I64 and for `atqadd`, else 4. -/
def atomicOp (i : Instr) (op : AtOp) (d : Reg) (s : State) : Host.Outcome State Fault Refusal :=
  issueChecked i s fun v sh s1 go =>
    let size := if op = .qadd ∨ modeType v.mode = 10 then 8 else 4
    s1.issueAccess go v size size (atomicReqs op (size / 4) d v sh) State.retire

/-- `atadd` (R147). -/
def execAtadd (d a b : Reg) (s : State) : Host.Outcome State Fault Refusal :=
  atomicOp (.atadd d a b) .add d s

/-- `atmin` (R147). -/
def execAtmin (d a b : Reg) (s : State) : Host.Outcome State Fault Refusal :=
  atomicOp (.atmin d a b) .min d s

/-- `atmax` (R147). -/
def execAtmax (d a b : Reg) (s : State) : Host.Outcome State Fault Refusal :=
  atomicOp (.atmax d a b) .max d s

/-- `atand` (R147). -/
def execAtand (d a b : Reg) (s : State) : Host.Outcome State Fault Refusal :=
  atomicOp (.atand d a b) .and d s

/-- `ator` (R147). -/
def execAtor (d a b : Reg) (s : State) : Host.Outcome State Fault Refusal :=
  atomicOp (.ator d a b) .or d s

/-- `atxor` (R147). -/
def execAtxor (d a b : Reg) (s : State) : Host.Outcome State Fault Refusal :=
  atomicOp (.atxor d a b) .xor d s

/-- `atxchg` (R147). -/
def execAtxchg (d a b : Reg) (s : State) : Host.Outcome State Fault Refusal :=
  atomicOp (.atxchg d a b) .xchg d s

/-- `atcas` (R147). -/
def execAtcas (d a b : Reg) (s : State) : Host.Outcome State Fault Refusal :=
  atomicOp (.atcas d a b) .cas d s

/-- `atqadd` (R148). -/
def execAtqadd (d a b : Reg) (s : State) : Host.Outcome State Fault Refusal :=
  atomicOp (.atqadd d a b) .qadd d s

/-- The units of 2^-32 that an operand contributes to `atqadd` (R148). -/
def qaddUnits (t : Nat) (b : DWord) : Int :=
  if t = 10 then b.toInt
  else if t = 2 then
    let top : Int := 2 ^ 63 - 1
    match (fp32.value (fieldNat b 0 32)).scale 32 with
    | .nan => 0
    | .inf neg => if neg then -top else top
    | .fin neg m e =>
      let x : Int := roundAt 1 neg m e 0
      clampInt (-top) top (if neg then -x else x)
  else (b.setWidth 32).toInt

/-- The new value of memory in an atomic, from its old value m (R147, R148). Under a 32-bit type the
values are words. -/
def atomicNew (op : AtOp) (mode : ModeWord) (m b c : DWord) : DWord :=
  let flt := decide (modeType mode = 2)
  let same := if modeType mode = 10 then decide (m = c) else decide (m.setWidth 32 = (c.setWidth 32 : Word))
  match op with
  | .add => if flt then faddEl mode m b else addEl mode m b
  | .min => if flt then fminEl mode m b else minEl mode m b
  | .max => if flt then fmaxEl mode m b else maxEl mode m b
  | .and => m &&& b
  | .or => m ||| b
  | .xor => m ^^^ b
  | .xchg => b
  | .cas => if same then b else m
  | .qadd => m + BitVec.ofInt 64 (qaddUnits (modeType mode) b)

/-- The request of `acq` or `rel` on the object that slot A addresses. Log 44 (DEDUCED). Log 64 (DEDUCED). -/
def objectReq (bump : Bool) (d : Reg) (v : View) (sh : Shape) : LaneReq :=
  ⟨32, v.act, (v.opA sh 0).setWidth 57, .version bump (v.dest d 1)⟩

/-- `acq` reads VERSION once for a group with an active lane (R151). -/
def execAcq (d a : Reg) (s : State) : Host.Outcome State Fault Refusal :=
  issueChecked (.acq d a) s fun v sh s1 go =>
    if v.act = 0 then (go s1).retire
    else s1.issueAccess go v 8 8 [objectReq false d v sh] State.retire

/-- Some multiple i × st with i < n lies strictly between two bounds. -/
def meetsStride (lo hi : Int) (n : Nat) (st : Int) : Bool :=
  let least (lo hi st : Int) : Bool :=
    let i := max 0 (lo / st + 1)
    decide (i < n) && decide (i * st < hi)
  if st = 0 then decide (0 < n) && decide (lo < 0) && decide (0 < hi)
  else if 0 < st then least lo hi st
  else least (-hi) (-lo) (-st)

/-- Fields of a shape record (R149). -/
def shapeBase (r : List Word) : DWord := dwordOf (r.take 2)
def shapeEsz (r : List Word) : Nat := 2 ^ fieldNat (r.getD 2 0) 0 3
def shapeDims (r : List Word) : Nat := fieldNat (r.getD 2 0) 4 2
def shapeCount (r : List Word) (k : Nat) : Nat :=
  if k = 0 then (r.getD 3 0).toNat else if k < shapeDims r then (r.getD (2 + 2 * k) 0).toNat else 1
def shapeStride (r : List Word) (k : Nat) : Int :=
  if k < shapeDims r then (r.getD (3 + 2 * k) 0).toInt else 0

/-- The least and the greatest offset that a dimension adds. -/
def dimSpan (n : Nat) (st : Int) : Int × Int := (min 0 (((n : Int) - 1) * st), max 0 (((n : Int) - 1) * st))

/-- A shape record is valid (R149). -/
def shapeValid (r : List Word) : Bool :=
  let e := shapeEsz r
  let b : Int := (shapeBase r).toNat
  let s1 := dimSpan (shapeCount r 1) (shapeStride r 1)
  let s2 := dimSpan (shapeCount r 2) (shapeStride r 2)
  decide (fieldNat (shapeBase r) 57 7 = 0) && decide (fieldNat (r.getD 2 0) 0 3 ≤ 4) &&
  decide (1 ≤ shapeDims r) && !(r.getD 2 0).getLsbD 3 && decide (fieldNat (r.getD 2 0) 6 26 = 0) &&
  decide ((shapeBase r).toNat % e = 0) &&
  (List.range 3).all (fun k => decide (shapeCount r k ≠ 0)) &&
  decide (shapeStride r 1 % (e : Int) = 0) && decide (shapeStride r 2 % (e : Int) = 0) &&
  decide (0 ≤ b + s1.1 + s2.1) && decide (b + s1.2 + s2.2 + (shapeCount r 0 * e : Nat) ≤ 2 ^ 56)

/-- A virtual line holds a byte of the region of a shape record (R149). -/
def regionMeets (r : List Word) (line : Nat) : Bool :=
  let row : Int := (shapeCount r 0 * shapeEsz r : Nat)
  let b : Int := (shapeBase r).toNat
  (List.range (shapeCount r 2)).any fun i2 =>
    let base := b + (i2 : Int) * shapeStride r 2
    meetsStride ((line * 128 : Nat) - row - base) ((line * 128 + 128 : Nat) - base) (shapeCount r 1)
      (shapeStride r 1)

/-- A virtual line meets a region bound to an object in the session's fleet on a die (R150, R254). -/
def State.bound (s : State) (session die : Nat) (object : VAddr) (line : Nat) : Bool :=
  (s.ses session).bindings.any fun b =>
    decide (b.die = die) && decide (b.object = object) && regionMeets b.shape line

/-- S copies in the L1 of a core, and those of its die's L2, of the lines of the regions bound to an object
are discarded (R151). A copy filled through other mappings alone serves no load through this one. Log 63 (DEDUCED). -/
def State.acquire (s : State) (core session : Nat) (object : VAddr) : State :=
  let hit (c : Copy) : Bool := (decide (c.holder = .l1 core) || decide (c.holder = .l2 (dieOf core))) && c.bytes.isSome &&
    c.vlines.any (fun v => decide (v.1 = session) && s.bound session (dieOf core) object v.2)
  let ls := (s.copies.filter hit).map (·.line)
  s.show core (fun l => decide (l ∈ ls))

/-- Dirty copies in the L1 of a core of the lines of the regions bound to an object are written back
(R152). -/
def State.publish (s : State) (core session : Nat) (object : VAddr) : State :=
  s.writeBack fun c => decide (c.holder = .l1 core) &&
    c.vlines.any (fun v => decide (v.1 = session) && s.bound session (dieOf core) object v.2)

/-- The groups of a gang that hold slices of a set wait for the delivery of one register word (R152,
R313). -/
def Gang.holdAwait (x : Gang) (sl : SliceSet) (r : WaitReason) (w : Nat) : Gang :=
  x.groupList.foldl
    (fun y e => if y.groupSlices e &&& sl ≠ 0 then { y.hold e r with awaits := y.awaits ++ [(e, w)] } else y) x

/-- The present sequence completes, and its group waits for the delivery of a destination. -/
def State.retireAwaiting (s : State) (r : WaitReason) (w : Nat) : State :=
  s.retire.updGang s.cur.gang (fun x => x.holdAwait s.cur.slices r w)

/-- The first register word of a destination. -/
def destWord (d : Dest) : Nat := ((d.head?).bind (fun e => e.2.head?)).getD 0

/-- The lanes that read through the struck entries of a gang (R145). -/
def Gang.struckLanes (x : Gang) : LaneSet :=
  (x.watch.filter (·.struck)).foldl (fun m e => m ||| e.own) 0

/-- The watch entries older than a `rel` have stamps below this: the next stamp when the `rel` was first tried (R145). -/
def View.relStamp (v : View) (s : State) : Nat :=
  let gr := v.gang.group v.cur.entry
  if gr.under = .release then gr.wake else s.nextId

/-- `rel` (R152): it waits for the older accesses of its group and for the older entries of the watch table, traps on a strike
that no `chk` took, writes back the bound regions and advances VERSION at its home. -/
def execRel (d a : Reg) (s : State) : Host.Outcome State Fault Refusal :=
  issueChecked (.rel d a) s fun v sh s1 go =>
    if v.act = 0 then (go s1).retire
    else if s1.accessPending v.cur.gang (fun q => decide (q.slices &&& v.cur.slices ≠ 0)) ||
        v.gang.watch.any (fun e => !e.struck && decide (e.stamp < v.relStamp s1)) then
      (s1.hold .release).updGang v.cur.gang fun x =>
        x.setGroup v.cur.entry { x.group v.cur.entry with wake := v.relStamp s1 }
    else if v.gang.watch.any (·.struck) then
      (s1.updGang v.cur.gang (fun x => { x with watch := [] })).trapNow 0x21 0 v.gang.struckLanes 0
    else
      let r := objectReq true d v sh
      s1.issueAccess (fun s2 => (go s2).publish v.cur.gang.core (v.core.sessionOf v.gang) r.va) v 8 8 [r]
        (fun s2 => s2.retireAwaiting .release (destWord (kindDest r.kind)))

/-- The request of `bind` or `unbind`: the shape record at slot B (R150). Log 65 (DEDUCED). -/
def bindReq (undo : Bool) (d : Reg) (v : View) (sh : Shape) : LaneReq :=
  ⟨32, v.act, (v.opB sh 0).setWidth 57, .bind undo ((v.opA sh 0).setWidth 57) [] (v.dest d 1)⟩

/-- `bind` (R150). -/
def execBind (d a b : Reg) (s : State) : Host.Outcome State Fault Refusal :=
  issueChecked (.bind d a b) s fun v sh s1 go =>
    if v.act = 0 then (go s1).retire else s1.issueAccess go v 8 8 [bindReq false d v sh] State.retire

/-- `unbind` (R150). -/
def execUnbind (d a b : Reg) (s : State) : Host.Outcome State Fault Refusal :=
  issueChecked (.unbind d a b) s fun v sh s1 go =>
    if v.act = 0 then (go s1).retire else s1.issueAccess go v 8 8 [bindReq true d v sh] State.retire

/-- `bind` and `unbind` on the table of a fleet (R150, R253): the status and the state afterwards. -/
def State.rebind (s : State) (undo : Bool) (session die : Nat) (object : VAddr) (shape : List Word) :
    Nat × State :=
  let d := s.ses session
  let b : Binding := ⟨die, object, shape⟩
  if !shapeValid shape then (2, s)
  else if undo then
    if b ∈ d.bindings then (0, s.setSes session { d with bindings := d.bindings.filter (fun c => decide (c ≠ b)) })
    else (3, s)
  else if b ∈ d.bindings then (4, s)
  else if Config.objectTable ≤ (d.bindings.filter (fun c => decide (c.die = die))).length then (1, s)
  else (0, s.setSes session { d with bindings := d.bindings ++ [b] })

/-- The wait of `acqw` on a VERSION (R151). -/
def versionReached (v b : Word) : Bool := decide ((v - b).toNat < 2 ^ 31)

/-- `acqw` (R151): the group waits with reason ACQ until VERSION has reached slot B; the discard is made
when it goes on. -/
def execAcqw (a b : Reg) (s : State) : Host.Outcome State Fault Refusal :=
  issueChecked (.acqw a b) s fun v sh s1 go =>
    if v.act = 0 then (go s1).retire
    else
      let va : VAddr := (v.opA sh 0).setWidth 57
      let r : LaneReq := ⟨32, v.act, va, .version false []⟩
      if va.toNat % 8 ≠ 0 then s1.trapNow 0x20 0 v.act va
      else
        match v.core.team? v.gang.team with
        | none => s1
        | some t =>
          if isAperture va ∧ (s1.aperture v.cur.gang.core t va.toNat 8).isNone then s1.trapNow 0x40 0 v.act va
          else
            match s1.resolve1 (laneAsk v.core v.cur.gang.core v.gang r) t 8 r with
            | (⟨_, .ok p, _⟩, s2) =>
              let pa := match p with | .mem pa _ => pa | _ => 0
              let ver : Word := BitVec.ofNat 32 (natOfBytes (s2.readPlace p 4))
              let s3 := s2.watchVirtual v.cur.gang v.cur.addr 2 [va] 4
              if s2.accessPending v.cur.gang (fun q => samePlace q.place p q.size 8) ||
                  !versionReached ver ((v.opB sh 0).setWidth 32) then
                (s3.hold .acq).updGang v.cur.gang fun x =>
                  x.setGroup v.cur.entry { x.group v.cur.entry with wake := pa }
              else ((go s3).acquire v.cur.gang.core (v.core.sessionOf v.gang) va).retire
            | (⟨_, .ats, _⟩, s2) => s2.hold .fetch
            | (⟨_, .fatal c, _⟩, s2) => s2.fatalFault c v.act va
            | (⟨_, .absent c host, at_⟩, s2) =>
              let (fid, s3) := s2.joinFid (dieOf v.cur.gang.core) (v.core.sessionOf v.gang) at_.toNat 0 c host
                { eng := false, unit := false, core := some v.cur.gang.core, slot := v.cur.gang.slot,
                  detail := v.act, pc := v.cur.addr }
              s3.park { cur := v.cur, rerun := true, saved := false, lanes := [⟨fid, none⟩], form := none } v.act va

/-- A fence completes on its core (R154, R259): the L1 S copies for the scopes from crew on, the die's L2 S
copies of other homes, with the L1 copies under them, for those from convoy on; dirty L1 copies are written back as far as the scope
requires, which leaves the choice to the device for `fence.team` (log 9). -/
def State.fenced (s : State) (core scope : Nat) : State :=
  let s1 := s.writeBack (fun c => decide (c.holder = .l1 core) && (decide (1 ≤ scope) || Config.evicts s.tick c.line))
  let s2 := if 1 ≤ scope then s1.dropL1S core (fun _ => true) else s1
  if 3 ≤ scope then s2.show core (fun l => decide (homeDie (l * 128) ≠ dieOf core) && (inModule (l * 128) || decide (4 ≤ scope)))
  else s2

/-- `fence` (R154). -/
def execFence (scope : BitVec 8) (s : State) : Host.Outcome State Fault Refusal :=
  issueChecked (.fence scope) s fun v _ s1 go =>
    if s1.accessPending v.cur.gang (fun q => decide (q.slices &&& v.cur.slices ≠ 0)) then s1.hold .fence
    else ((go s1).fenced v.cur.gang.core scope.toNat).retire

/-- Every slice of the present sequence has been let pass by the barrier it stood at. -/
def View.allPassed (v : View) : Bool :=
  (slicesOf v.cur.slices).all (fun n => decide ((v.gang.slice n).stop = .passed))

/-- The slices of the present sequence stand at a barrier, and their group waits: the sequence issues when the barrier
lets it pass. -/
def State.standAt (s : State) (v : View) (st : Stop) (r : WaitReason) : State :=
  (s.hold r).updGang v.cur.gang fun x =>
    x.mapSlices v.cur.slices (fun _ sl => if sl.stop = .passed then sl else { sl with stop := st })

/-- `bar` and `barv.arrive` (R155). -/
def barOp (i : Instr) (id n : Nat) (split : Bool) (s : State) : Host.Outcome State Fault Refusal :=
  issueChecked i s fun v _ s1 go =>
    if v.allPassed then (go s1).retire
    else (s1.standAt v (.bar id n split) .barrier).settleBar v.cur.gang.core v.gang.team id 20

/-- `bar` (R155). -/
def execBar (id : BitVec 4) (n : BitVec 16) (s : State) : Host.Outcome State Fault Refusal :=
  barOp (.bar id n) id.toNat n.toNat false s

/-- `barv.arrive` (R155). -/
def execBarvArrive (id n : BitVec 8) (s : State) : Host.Outcome State Fault Refusal :=
  barOp (.barvArrive id n) id.toNat n.toNat true s

/-- `barv.wait` (R155 item 7): the generation has completed, and the accesses older than the arrivals are performed. -/
def execBarvWait (id : BitVec 8) (s : State) : Host.Outcome State Fault Refusal :=
  issueChecked (.barvWait id) s fun v _ s1 go =>
    match Cells.find? v.gang.bars id.toNat, v.core.team? v.gang.team with
    | some a, some t =>
      let b := t.bar id.toNat
      if b.gen ≤ a.gen ∨ b.older ≠ [] then s1.hold .barrier else (go s1).retire
    | _, _ => (go s1).retire

/-- `cbar` and `cbar.arrive` (R218). -/
def cbarOp (i : Instr) (id : Nat) (split : Bool) (s : State) : Host.Outcome State Fault Refusal :=
  issueChecked i s fun v _ s1 go =>
    if v.allPassed then (go s1).retire
    else
      match v.core.team? v.gang.team with
      | some t => (s1.standAt v (.cbar id split) .cbar).settleCbar t.crew id 4
      | none => s1

/-- `cbar` (R218). -/
def execCbar (id : BitVec 4) (s : State) : Host.Outcome State Fault Refusal :=
  cbarOp (.cbar id) id.toNat false s

/-- `cbar.arrive` (R218). -/
def execCbarArrive (id : BitVec 4) (s : State) : Host.Outcome State Fault Refusal :=
  cbarOp (.cbarArrive id) id.toNat true s

/-- `cbar.wait` (R218): the generation has completed, and the accesses older than the arrivals are performed, as by
`fence.crew` (R219). -/
def execCbarWait (id : BitVec 4) (s : State) : Host.Outcome State Fault Refusal :=
  issueChecked (.cbarWait id) s fun v _ s1 go =>
    match Cells.find? v.gang.cbars id.toNat, s1.crewOf v.cur.gang.core v.gang with
    | some a, some c =>
      let b := c.bar id.toNat
      if b.gen ≤ a.gen ∨ b.older ≠ [] then s1.hold .cbar
      else ((go s1).dropL1S v.cur.gang.core (fun _ => true)).retire
    | _, _ => (go s1).retire

/-- The register words of a handoff form: one in each active lane. -/
def View.handWords (v : View) (r : Reg) : List Nat := (lanesOf v.act).map (fun l => r.toNat * 32 + l)

/-- The active lanes whose copy of a register is lost (R156, R94). -/
def View.lostLanes (v : View) (r : Reg) : LaneSet :=
  laneSet (fun l => v.act.getLsbD l && decide (v.core.copy v.gang (r.toNat * 32 + l) = .lost))

/-- A result of the gang that has not reached its result cycle writes one of the words. -/
def View.unwritten (v : View) (ws : List Nat) : Bool :=
  v.gang.latency.any (fun m => m.writes.any (fun e => decide (e.1 ∈ ws)))

/-- Reasons that a change of a copy's state which is no delivery may end (R35, R156). -/
def wokenByHandoff (r : WaitReason) : Bool :=
  match r with
  | .empty | .full => true
  | _ => false

/-- The states of some register copies have changed: the groups that wait on them try again (R35). -/
def CoreSt.wakeMapping (c : CoreSt) (p : WaitReason → Bool) (offs : List Nat) : CoreSt :=
  { c with gangs := c.gangs.map fun e =>
      if offs.any (fun o => c.mapsLive o e.2) then (e.1, e.2.wake p) else e }

/-- `fetake` (R156), on all active lanes at once or on none. Log 130 (DESIGN CHOICE). -/
def execFetake (a : Reg) (s : State) : Host.Outcome State Fault Refusal :=
  issueChecked (.fetake a) s fun v _ s1 go =>
    let ws := v.handWords a
    let c := v.core
    if v.unwritten ws then s1.hold .latency
    else if v.lostLanes a ≠ 0 then s1.trapNow 0x11 0 (v.lostLanes a) 0
    else if ws.any (fun w => decide (c.copy v.gang w ≠ .full)) then s1.hold .empty
    else
      let s2 := go s1
      let c1 := ws.foldl (fun k w => k.setCopy v.gang w (.empty .handoff)) (s2.core v.cur.gang.core)
      (s2.setCore v.cur.gang.core (c1.wakeMapping wokenByHandoff (ws.map (c.phys v.gang)))).retire

/-- `feput` (R156), on all active lanes at once or on none. Log 130 (DESIGN CHOICE). -/
def execFeput (a b : Reg) (s : State) : Host.Outcome State Fault Refusal :=
  issueChecked (.feput a b) s fun v sh s1 go =>
    let ws := v.handWords a
    let c := v.core
    if v.unwritten ws then s1.hold .latency
    else if v.lostLanes a ≠ 0 then s1.trapNow 0x11 0 (v.lostLanes a) 0
    else if ws.any (fun w => decide (c.copy v.gang w ≠ .empty .handoff)) then s1.hold .full
    else
      let s2 := go s1
      let c1 := (s2.core v.cur.gang.core).setRegs v.gang
        ((lanesOf v.act).map (fun l => (a.toNat * 32 + l, (v.opB sh l).setWidth 32)))
      (s2.setCore v.cur.gang.core (c1.wakeMapping wokenByHandoff (ws.map (c.phys v.gang)))).retire

/-- `fetest` (R156). -/
def execFetest (p : BitVec 3) (b : Reg) (s : State) : Host.Outcome State Fault Refusal :=
  predOp (.fetest p b) p s fun v _ l => decide (v.core.copy v.gang (b.toNat * 32 + l) = .full)

/-- Two runs of registers meet. -/
def runsMeet (a n b m : Nat) : Bool := decide (a < b + m) && decide (b < a + n)

/-- Some register of a run of the gang in a slot is shared: through its own mapping, or through another
gang's onto it (R37, R157). -/
def CoreSt.sharedRun (c : CoreSt) (slot : Nat) (x : Gang) (first n : Nat) : Bool :=
  x.shares.any (fun h => runsMeet h.first h.count first n) ||
  c.gangs.any (fun e => e.2.shares.any (fun h => decide (h.slot = slot) && runsMeet h.pfirst h.count first n))

/-- `wshare` (R157). -/
def execWshare (a b : Reg) (s : State) : Host.Outcome State Fault Refusal :=
  issueChecked (.wshare a b) s fun v sh s1 go =>
    let k : Word := (v.opB sh 0).setWidth 32
    let n := fieldNat k 16 8
    let pf := fieldNat k 8 8
    let va := a.toNat
    let c := v.core
    let partner := (c.teamGangs v.gang.team).find? (fun e => decide (e.2.num = fieldNat k 0 4))
    match partner with
    | none => s1.trapNow 0x24 0 0 0
    | some (slot, y) =>
      if !v.gang.isWhole ∨ fieldNat k 4 4 ≠ 0 ∨ fieldNat k 24 8 ≠ 0 ∨ n = 0 ∨ slot = v.cur.gang.slot ∨
          y.liveSet = 0 ∨ v.gang.vcount < va + n ∨ y.vcount < pf + n ∨
          c.sharedRun v.cur.gang.slot v.gang va n ∨ c.sharedRun slot y pf n then
        s1.trapNow 0x24 0 0 0
      else
        let ws := (List.range (n * 32)).map (fun j => va * 32 + j)
        if v.unwritten ws then s1.hold .latency
        else if ws.any (fun w => match c.copy v.gang w with | .empty _ => true | _ => false) then s1.hold .empty
        else
          let s2 := go s1
          let c1 := ws.foldl (fun k w => k.setCopy v.gang w .full) (s2.core v.cur.gang.core)
          ((s2.setCore v.cur.gang.core c1).updGang v.cur.gang fun x =>
            { x with shares := x.shares ++ [⟨va, n, slot, pf⟩] }).retire

end Sys2Proof.Machine
end

