-- ==== Sys2Proof/Machine/Device.lean ====
section
/-! DEFINITION. What the device itself reads and writes for a session (R394, R395): runs of bytes through
the session's translation, the accumulator save area and the freeze area (R185, R186, R336). -/

namespace Sys2Proof.Machine

/-- Bytes written at a place for a session. The writer's core, if it has one, keeps its own copies (R243,
R260); `log` says whether the undo log holds what was there (R276). -/
def State.devWrite (s : State) (core : Option Nat) (log : Bool) (session : Nat) (p : Place) (bs : List Byte) : State :=
  let rows (s : State) (ks : List Nat) : State := if log then s.logRows session ks else s
  match p with
  | .mem pa coh =>
    match s.forward pa with
    | some q =>
      (linePieces (bs.length + 1) q bs).foldl
        (fun s' x =>
          let s1 := match core with | some k => s'.patchOwn k x.1 x.2 | none => s'
          if log then s1.write none none session coh x.1 x.2 else s1.writeHome none none session coh x.1 x.2) s
    | none => s
  | .store k off =>
    (rows s [storeRow k off, storeRow k (off + bs.length - 1)]).updStore k (fun c => storeWrite c off bs)
  | .cspad d off =>
    (rows s [cspadRow d off, cspadRow d (off + bs.length - 1)]).updCspad d (fun c => storeWrite c off bs)
  | .host _ a => { s with hostMem := Cells.write s.hostMem a bs }
  | .mgmt _ => s

/-- A run of bytes of a session translated line by line: the places of its pieces with their lengths, or the
offset at which a fault stops it, or a wait for a host translation or a blocked frame. -/
inductive Span where
  | ok (ps : List (Place × Nat))
  | fatal (cause : BitVec 8) (off : Nat)
  | absent (cause : BitVec 8) (host : Bool) (off : Nat)
  | wait
  deriving DecidableEq, Repr

/-- The place answers now: its frame is not blocked, and holds no access queued before (R323), and the links to it are
up (R388). -/
def State.openPlace (s : State) (p : Place) : Bool :=
  match p with
  | .mem pa _ => (s.forward pa).isSome && !s.draining pa && !(isRemote p && s.linkWait)
  | _ => true

/-- An access of a command, a call or the device to a place takes its turn at a blocked frame (R323, R324). -/
def State.waitPlace (s : State) (p : Place) : State :=
  match p with
  | .mem pa _ => match s.blockOf pa with
    | some fr => s.joinQueue fr
    | none => s
  | _ => s

/-- `n` bytes from `va` on, `off` bytes after the start of the run. -/
def State.spanFrom (a : Ask) : Nat → State → Nat → Nat → Nat → Span × State
  | 0, s, _, _, _ => (.ok [], s)
  | f + 1, s, va, n, off =>
    if n = 0 then (.ok [], s)
    else
      let k := min n (128 - va % 128)
      match s.translate a va with
      | (.ok p, s1) =>
        if !s1.openPlace p then (.wait, s1.waitPlace p)
        else
          match State.spanFrom a f s1 (va + k) (n - k) (off + k) with
          | (.ok ps, s2) => (.ok ((p, k) :: ps), s2)
          | r => r
      | (.fatal c, s1) => (.fatal c off, s1)
      | (.absent c h, s1) => (.absent c h off, s1)
      | (.ats, s1) => (.wait, s1)

/-- The run of `n` bytes from a virtual address. -/
def State.span (s : State) (a : Ask) (va n : Nat) : Span × State := State.spanFrom a (n / 128 + 2) s va n 0

/-- The bytes of a run. -/
def State.readSpan (s : State) (ps : List (Place × Nat)) : List Byte := ps.flatMap (fun p => s.readPlace p.1 p.2)

/-- A run of bytes written. -/
def State.writeSpan (s : State) (core : Option Nat) (log : Bool) (session : Nat) : List (Place × Nat) → List Byte → State
  | [], _ => s
  | (p, n) :: r, bs => State.writeSpan (s.devWrite core log session p (bs.take n)) core log session r (bs.drop n)

/-- The device acts for a session at PL1 (R394, R395). -/
def devAsk (die session kind : Nat) : Ask :=
  { core := none, die := die, session := session, level := 1, kind := kind, engine := true, salt := 43 }

/-- A replayable fault of the device joins a FID, whose record names the device (R317), and the FID is told
what waits for it. -/
def State.joinDev (s : State) (die session va kind : Nat) (cause : BitVec 8) (host : Bool) (u : DevUse) : State :=
  let (fid, s1) := s.joinFid die session va kind cause host
    { eng := true, unit := false, core := none, slot := 0, detail := 0, pc := 0 }
  let d := s1.die die
  s1.setDie die { d with fids := d.fids.map fun f =>
    if f.fid = fid ∧ !decide (u ∈ f.uses) then { f with uses := f.uses ++ [u] } else f }

/-- How an access of the device ends: with a value, with a wait for a FID or for a frame, or with a fault
that no replay mends. -/
inductive Dev (α : Type) where
  | done (x : α) (s : State)
  | wait (s : State)
  | fail (s : State)

/-- Bytes of a session read by the device. -/
def State.devRead (s : State) (die session va n : Nat) (u : DevUse) : Dev (List Byte) :=
  match s.span (devAsk die session 0) va n with
  | (.ok ps, s1) => .done (s1.readSpan ps) s1
  | (.absent c h off, s1) => .wait (s1.joinDev die session (va + off) 0 c h u)
  | (.fatal _ _, s1) => .fail s1
  | (.wait, s1) => .wait s1

/-- Bytes of a session written by the device. -/
def State.devStore (s : State) (die session va : Nat) (bs : List Byte) (log : Bool) (u : DevUse) : Dev Unit :=
  match s.span (devAsk die session 1) va bs.length with
  | (.ok ps, s1) => .done () (s1.writeSpan none log session ps bs)
  | (.absent c h off, s1) => .wait (s1.joinDev die session (va + off) 1 c h u)
  | (.fatal _ _, s1) => .fail s1
  | (.wait, s1) => .wait s1

/-- Columns of an accumulator in use, and one of its elements (R183, R197). -/
def Acc.cols (a : Acc) : Nat := 32 * a.ext
def Acc.elem (a : Acc) (i j : Nat) : BitVec 36 := if j < a.cols then Cells.get 0 a.data (256 * i + j) else 0

/-- The content of an accumulator as bytes (R183; log 30): blocks of 32 columns, row by row, 36-bit elements
from the low bits on. -/
def Acc.bytes (a : Acc) : List Byte :=
  (List.range a.ext).flatMap fun b => (List.range 32).flatMap fun i =>
    bytesOf (((List.range 32).map (fun j => (a.elem i (32 * b + j)).toNat * 2 ^ (36 * j))).sum) 144

/-- The content that bytes hold for EXT blocks. -/
def accData (ext : Nat) (bs : List Byte) : Cells (BitVec 36) :=
  (List.range 32).foldl (fun m i => (List.range ext).foldl (fun m b =>
    let row := natOfBytes ((bs.drop (4608 * b + 144 * i)).take 144)
    (List.range 32).foldl (fun m j => Cells.put 0 m (256 * i + 32 * b + j) (BitVec.ofNat 36 (row >>> (36 * j)))) m) m) []

/-- An accumulator as an image of ACCSTAT and content sets it, owned by a session. -/
def accOfImage (stat : Word) (bs : List Byte) (session : Nat) : Acc :=
  let ext := min 8 (fieldNat stat 8 4)
  { data := accData ext bs, ext := ext, q36 := stat.getLsbD 5, lost := stat.getLsbD 4, nan := stat.getLsbD 1,
    ovf := stat.getLsbD 0, valid := true, session := session }

/-- Slot q of the accumulator save area of a session (R336). -/
def State.areaAt (s : State) (session core n : Nat) : Nat :=
  s.ctx session 0x30 8 % 2 ^ 57 + Config.accSlotBytes * (4 * core + n)

/-- The number of images a session holds. -/
def State.images (s : State) (session : Nat) : Nat := s.ctx session 0x38 2 % 2 ^ 11

def State.setImages (s : State) (session v : Nat) : State :=
  s.setCtx session 0x38 2 (s.ctx session 0x38 2 / 2 ^ 11 * 2 ^ 11 + v)

/-- The claim of a free accumulator (R185): the image of its slot if one is held, else zero content. -/
def State.claimed (s : State) (session core n : Nat) : Dev Acc :=
  let zero : Acc := { Acc.init with valid := true, session := session }
  if s.images session = 0 then .done zero s
  else
    let die := dieOf core
    let base := s.areaAt session core n
    match s.devRead die session (base + 36864) 8 (.area none) with
    | .wait s1 => .wait s1
    | .fail s1 => .fail s1
    | .done hb s1 =>
      let stat : Word := BitVec.ofNat 32 (natOfBytes (hb.take 4))
      if natOfBytes (hb.drop 4) = 0 then .done zero s1
      else
        match s1.devRead die session base (4608 * min 8 (fieldNat stat 8 4)) (.area none) with
        | .wait s2 => .wait s2
        | .fail s2 => .fail s2
        | .done bs s2 =>
          match s2.devStore die session (base + 36868) (bytesOf 0 4) false (.area none) with
          | .wait s3 => .wait s3
          | .fail s3 => .fail s3
          | .done _ s3 => .done (accOfImage stat bs session) (s3.setImages session (s3.images session - 1))

/-- The image of an accumulator written to its slot in its owner's save area (R185). -/
def State.spill (s : State) (core n : Nat) (a : Acc) : Dev Unit :=
  let die := dieOf core
  let base := s.areaAt a.session core n
  let u : DevUse := .area (some (core, n))
  match s.devStore die a.session base a.bytes false u with
  | .wait s1 => .wait s1
  | .fail s1 => .fail s1
  | .done _ s1 =>
    match s1.devStore die a.session (base + 36864) (bytesOf (a.stat.toNat + 2 ^ 32) 8) false u with
    | .wait s2 => .wait s2
    | .fail s2 => .fail s2
    | .done _ s2 => .done () (s2.setImages a.session (s2.images a.session + 1))

/-- Length in bytes of a freeze image, and the image (R186; log 18). -/
def State.freezeLength (s : State) : Nat := 64 * (1 + Config.freezeUnits s.tick % 256)

def State.freezeImage (s : State) (session : Nat) : List Byte :=
  let n := s.freezeLength
  let head := bytesOf 0x00010001 4 ++ bytesOf n 4 ++ bytesOf (session % 4096) 4 ++ bytesOf 0 4
  let m := head ++ fitList 0 (n - 48) (Config.freezeBody s.tick)
  m ++ sha3 m

def State.freezeAt (s : State) (session : Nat) : Nat := s.ctx session 0x40 8 % 2 ^ 57

/-- The freeze image of a session written. Log 18 (DESIGN CHOICE). -/
def State.writeFreeze (s : State) (die session : Nat) : Dev Unit :=
  s.devStore die session (s.freezeAt session) (s.freezeImage session) false (.area none)

/-- The checks of R186 on a freeze image. -/
def freezeOk (session : Nat) (bs : List Byte) : Bool :=
  let n := bs.length
  decide (natOfBytes (bs.take 4) = 0x00010001) && decide (natOfBytes ((bs.drop 4).take 4) = n) &&
  decide (natOfBytes ((bs.drop 8).take 4) = session % 4096) && decide (bs.drop (n - 32) = sha3 (bs.take (n - 32)))

/-- The freeze image of a session read back and checked (R186). -/
def State.readFreeze (s : State) (die session : Nat) : Dev Bool :=
  match s.devRead die session (s.freezeAt session) 16 (.area none) with
  | .wait s1 => .wait s1
  | .fail s1 => .fail s1
  | .done hb s1 =>
    let n := natOfBytes ((hb.drop 4).take 4)
    if n % 64 ≠ 0 ∨ n < 64 ∨ 16384 < n then .done false s1
    else
      match s1.devRead die session (s1.freezeAt session) n (.area none) with
      | .wait s2 => .wait s2
      | .fail s2 => .fail s2
      | .done bs s2 => .done (freezeOk session bs) s2

end Sys2Proof.Machine
end

