-- ==== Sys2Proof/Machine/Queue.lean ====
section
/-! DEFINITION. Capability entries (R158), channels (R159, R160) and coprocessor queues (R207 to R210): the
instructions, and the steps that append their messages and calls and deliver their records. -/

namespace Sys2Proof.Machine

/-- What an ENDPOINT names for a gang: nothing, a channel endpoint, or a queue on a die that holds a number
of calls (R158, R266, R281, R389). -/
inductive Port where
  | nothing
  | channel (p : Endpoint)
  | queue (die depth : Nat)
  deriving DecidableEq, Repr

/-- A number of R281 that names a unit queue of a die. -/
def unitPort (die ep : Nat) : Bool :=
  let typ := ep / 256 % 16
  let n := ep % 256
  decide (ep = 0xF0000 + die * 4096 + typ * 256 + n) && decide (1 ≤ typ) && decide (typ ≤ 7) &&
  decide (n < if typ = 2 ∨ typ = 4 ∨ typ = 5 then 12 else 1)

/-- The pipeline of a session one of whose queues has an endpoint number. -/
def SessDev.pipeOf (d : SessDev) (ep : Nat) : Option Pipeline :=
  d.pipes.find? (fun p => p.queues.any (fun q => decide (q.ep = ep)))

/-- What an endpoint number names for a gang of a session on a die. -/
def State.port (s : State) (session die ep : Nat) : Port :=
  if unitPort die ep then .queue die (Config.unitDepth (ep / 256 % 16))
  else if 0xE0000 ≤ ep ∧ ep < 0xE0010 then .queue (s.sesHome session) Config.collectiveDepth
  else
    match (s.ses session).pipeOf ep with
    | some p => .queue p.die (32 + Config.recordPortExtra)
    | none =>
      match s.endpoint? session ep with
      | some p => .channel p
      | none => .nothing

/-- Fields of a capability entry (R158). -/
def capEp (e : DWord) : Nat := fieldNat e 12 20
def capAllow (e : DWord) : Nat := fieldNat e 48 16
def capSend (e : DWord) : Bool := e.getLsbD 1
def capRecv (e : DWord) : Bool := e.getLsbD 2

/-- An entry is valid (R158). -/
def capValid (e : DWord) (p : Port) : Bool :=
  e.getLsbD 0 && decide (fieldNat e 3 9 = 0) && decide (fieldNat e 32 16 = 0) && decide (p ≠ .nothing)

/-- The read of capability entry c by the present sequence (R158): the entry as its home holds it, with the address it
was read at and its place; none where the sequence waits, parks or ends instead. -/
def State.capRead (s : State) (v : View) (c : Nat) : Option (DWord × VAddr × Option Place) × State :=
  let g := v.cur.gang
  let va : VAddr := (v.core.recordOf v.gang).captab + BitVec.ofNat 57 (8 * c)
  if (v.core.recordOf v.gang).captab = 0 then (some (0, 0, none), s)
  else
    match v.core.team? v.gang.team with
    | none => (none, s)
    | some t =>
      match s.place1 { askOf v.core g.core v.gang 0 41 with level := 1 } t va 8 with
      | (.ok p, s1) =>
        if s1.accessPending g (fun b => isAcquire b || samePlace b.place p b.size 8) then (none, s1.hold .fetch)
        else
          let s2 := s1.watchVirtual g v.cur.addr 2 [va] 8
          match p with
          | .mem pa coh =>
            match s2.forward pa with
            | none => (none, s1.hold .fetch)
            | some q =>
              (some (BitVec.ofNat 64 (natOfBytes (Cells.bytes s2.mem q 8)), va, some (.mem q coh)),
                s2.fillHome g.core coh (lineOf q) [(v.core.sessionOf v.gang, va.toNat / 128)])
          | p => (some (BitVec.ofNat 64 (natOfBytes (s2.readPlace p 8)), va, some p), s2)
      | (.ats, s1) => (none, s1.hold .fetch)
      | (.fatal c, s1) =>
        (none, if c = 0x40 then s1.trapNow 0x40 0 v.act va else s1.fatalFault c v.act va)
      | (.absent c host, s1) =>
        let (fid, s2) := s1.joinFid (dieOf g.core) (v.core.sessionOf v.gang) va.toNat 0 c host
          { eng := false, unit := false, core := some g.core, slot := g.slot, detail := v.act, pc := v.cur.addr }
        (none, s2.park { cur := v.cur, rerun := true, saved := false, lanes := [⟨fid, none⟩], form := none } v.act va)

/-- The place at which ALLOW is to fall, if it is below 0xFFFF (R158): where a write of the entry at PL1 leads, so that
a shared granule breaks first (R344, R345); where it was read, if its page is not writable. None where the sequence
waits or parks instead. Log 55 (DEDUCED). -/
def State.capClaim (s : State) (v : View) (e : DWord) (va : VAddr) (p : Option Place) : Option (Option Place) × State :=
  let g := v.cur.gang
  if capAllow e = 0xFFFF then (some none, s)
  else
    match v.core.team? v.gang.team with
    | none => (some p, s)
    | some t =>
      match s.place1 { askOf v.core g.core v.gang 1 42 with level := 1 } t va 8 with
      | (.ok q, s1) => (some (some q), s1)
      | (.fatal _, s1) =>
        let shared := p.any fun r => match r with
          | .mem pa _ => (s1.atollOf (pa / 4096)).isSome
          | _ => false
        (some (if shared then none else p), s1)
      | (.ats, s1) => (none, s1.hold .fetch)
      | (.absent c host, s1) =>
        let (fid, s2) := s1.joinFid (dieOf g.core) (v.core.sessionOf v.gang) va.toNat 1 c host
          { eng := false, unit := false, core := some g.core, slot := g.slot, detail := v.act, pc := v.cur.addr }
        (none, s2.park { cur := v.cur, rerun := true, saved := false, lanes := [⟨fid, none⟩], form := none } v.act va)

/-- ALLOW, as the entry then holds it, falls by one while it is below 0xFFFF (R158). -/
def State.capSpend (s : State) (core session : Nat) (p : Option Place) : State :=
  match p with
  | none => s
  | some p =>
    let e : DWord := BitVec.ofNat 64 (natOfBytes (s.readPlace p 8))
    if capAllow e = 0xFFFF then s
    else s.devWrite (some core) true session p (bytesOf (setField e 48 16 (capAllow e - 1)).toNat 8)

/-- The present sequence waits for room, to be appended by its own event (R159, R208). -/
def State.holdOp (s : State) (v : View) (op : HeldOp) (ep : Nat) (r : WaitReason) (e : Event) : State :=
  ((s.hold r).updGang v.cur.gang (fun x => { x with held := x.held ++ [⟨v.cur, op, ep⟩] })).post e

/-- An older `send` or `qcall` of the gang waits for room at the same endpoint. -/
def View.behind (v : View) (ep : Nat) : Bool := v.gang.held.any (fun h => decide (h.ep = ep))

/-- A message appended to an endpoint of a session (R159). -/
def State.appendMsg (s : State) (session ep : Nat) (m : List Word) : State :=
  let d := s.ses session
  s.setSes session { d with endpoints := d.endpoints.map fun p =>
    if p.num = ep then { p with msgs := p.msgs ++ [m] } else p }

/-- The message of a `send` (R159). -/
def View.message (v : View) (sh : Shape) : List Word :=
  (List.range 32).map (fun l => if v.act.getLsbD l then ((v.opC sh l).setWidth 32 : Word) else 0)

/-- A message is appended, and the entry is charged (R159). -/
def State.sends (s : State) (core session ep : Nat) (m : List Word) (w : Option Place) : State :=
  (s.appendMsg session ep m).capSpend core session w

/-- `send` (R159): its checks, then the message, then the wait for room. -/
def execSend (d : Reg) (c : BitVec 6) (s : State) : Host.Outcome State Fault Refusal :=
  issueChecked (.send d c) s fun v sh s0 go =>
    let n := v.core.sessionOf v.gang
    match s0.capRead v c.toNat with
    | (none, s1) => s1
    | (some (e, va, p), s1) =>
      match s1.port n (dieOf v.cur.gang.core) (capEp e) with
      | .channel q =>
        if !capValid e (.channel q) then s1.trapNow 0x22 0 (v.tlanes sh) 0
        else if !capSend e ∨ capAllow e = 0 then s1.trapNow 0x23 0 (v.tlanes sh) 0
        else
          match s1.capClaim v e va p with
          | (none, s2) => s2
          | (some w, s2) =>
            let m := v.message sh
            if 8 ≤ q.msgs.length ∨ v.behind q.num then
              (go s2).holdOp v (.send m w) q.num .chanFull (.sendAppend v.cur.gang v.cur.entry)
            else if !(go s2).logFits n w.toList then s2.logFull n
            else ((go s2).sends v.cur.gang.core n q.num m w).retire
      | _ => s1.trapNow 0x22 0 (v.tlanes sh) 0

/-- The waiting sequence of a group of a gang set to issue again (R159, R208). -/
def State.unhold (s : State) (g : GangRef) (e : Nat) : Option (HeldSeq × State) :=
  match s.gang? g with
  | none => none
  | some x =>
    match x.held.find? (fun h => decide (h.cur.entry = e)) with
    | none => none
    | some h =>
      some (h,
        { s.setGang g { x.setGroup e { x.group e with wait := .ready } with
            held := x.held.filter (fun k => decide (k.cur.entry ≠ e)) } with cur := h.cur })

/-- The entry that a waiting sequence is to charge can be written now: its frame is not blocked (R323), and the undo log
has room (R276). -/
def State.canSpend (s : State) (n : Nat) (w : Option Place) : Bool :=
  w.all s.openPlace && s.logFits n w.toList

/-- The step SEND_APPEND (R159). -/
def execSendAppend (s : State) : Host.Outcome State Fault Refusal :=
  match s.ev with
  | .sendAppend g e =>
    match s.unhold g e with
    | some (⟨_, .send m w, ep⟩, s1) =>
      let n := match s1.gang? g with | some x => (s1.core g.core).sessionOf x | none => 0
      .next (if s1.canSpend n w then (s1.sends g.core n ep m w).retire
        else (if s.logFits n w.toList then s else s.wantCut n).post (.sendAppend g e))
    | _ => .next s
  | _ => .next s

/-- `recv` (R159). -/
def execRecv (d : Reg) (c : BitVec 6) (s : State) : Host.Outcome State Fault Refusal :=
  issueChecked (.recv d c) s fun v sh s1 go =>
    let n := v.core.sessionOf v.gang
    match s1.capRead v c.toNat with
    | (none, s2) => s2
    | (some (e, _, _), s2) =>
      match s2.port n (dieOf v.cur.gang.core) (capEp e) with
      | .channel q =>
        if !capValid e (.channel q) then s2.trapNow 0x22 0 (v.tlanes sh) 0
        else if !capRecv e then s2.trapNow 0x23 0 (v.tlanes sh) 0
        else if v.act = 0 then (go s2).retire
        else
          (((go s2).expect (v.dest d 1)).post (.channelDelivery v.cur.gang n q.num (v.dest d 1))).retire
      | _ => s2.trapNow 0x22 0 (v.tlanes sh) 0

/-- The word of `chinfo` (R160). Log 67 (DEDUCED). -/
def chinfoWord (e : DWord) (p : Port) : Word :=
  if capValid e p then
    let queued := match p with
      | .channel q => if capRecv e then q.msgs.length else 0
      | _ => 0
    BitVec.ofNat 32 (capAllow e * 65536 + queued * 4096 + (if capRecv e then 4 else 0) + (if capSend e then 2 else 0) + 1)
  else 0

/-- `chinfo` (R160). -/
def execChinfo (d : Reg) (c : BitVec 6) (s : State) : Host.Outcome State Fault Refusal :=
  issueChecked (.chinfo d c) s fun v sh s1 go =>
    match s1.capRead v c.toNat with
    | (none, s2) => s2
    | (some (e, _, _), s2) =>
      let p := s2.port (v.core.sessionOf v.gang) (dieOf v.cur.gang.core) (capEp e)
      ((go s2).result v sh (v.laneResults d 1 (fun _ => (chinfoWord e p).setWidth 64)) []).retire

/-- The event in which a call is served, by the type of its queue and its OP (R266, R288, R291, R293, R298,
R300, R302, R303, R389). A call whose OP its type does not list is served, and turned away, as the type's
first operation. -/
def callEvent (x : Call) (mid : Nat) : Event :=
  let op := fieldNat (x.words.getD 1 0) 0 4
  let m : Member := ⟨mid, dieOf x.gang.core, x.session, []⟩
  if 0xF0000 ≤ x.ep then
    match x.ep / 256 % 16, op with
    | 1, 2 => .buBin x
    | 1, 3 => .buClose x
    | 1, _ => .buOpenf x
    | 2, 2 => .vrPrim x
    | 2, 3 => .vrDone x
    | 2, 4 => .vrWaitf x
    | 2, _ => .vrOpen x
    | 3, 2 => .bluFrag x
    | 3, 3 => .bluDone x
    | 3, 4 => .bluWaitf x
    | 3, _ => .bluOpen x
    | 4, _ => .tfuSample x
    | 5, _ => .ryuTrace x
    | 6, 2 => .bvoStop x
    | 6, _ => .bvoStart x
    | _, 2 => .fenFrame x
    | _, 3 => .fenRelease x
    | _, 4 => .fenCloses x
    | _, _ => .fenOpens x
  else if 0xE0000 ≤ x.ep then
    if op = 2 then .collectiveBroadcast x m else .collectiveAllreduce x m
  else if fieldNat (x.words.getD 1 0) 0 2 = 2 then .recordCommit x
  else .recordReserve x

/-- Every call that has entered a queue and has not returned: waiting to be served, held by its unit, or
joined to a collective. Log 31 (DESIGN CHOICE). -/
def State.queuedCalls (s : State) : List Call :=
  s.agenda.filterMap eventCall ++ s.dies.flatMap (fun d => d.held ++ d.stuck.map (·.2)) ++
  (s.collectives.filter (!·.returned)).flatMap Collective.own

/-- Calls whose return record has not been delivered. -/
def State.openCalls (s : State) : List Call :=
  s.queuedCalls ++ s.agenda.filterMap (fun e => match e with | .returnRecord r => some r.call | _ => none)

/-- Free call slots of a queue (R208). -/
def State.freeCalls (s : State) (session die ep depth : Nat) : Nat :=
  depth - (s.queuedCalls.filter fun x =>
    decide (x.die = die) && decide (x.ep = ep) && (decide (0xF0000 ≤ ep) || decide (x.session = session))).length

/-- The calls of one `qcall` (R208). -/
def View.qcalls (v : View) (sh : Shape) (ep die cap r : Nat) (d : Reg) (tag : Nat) : List Call :=
  (lanesOf v.act).map fun l =>
    { ep := ep, gang := v.cur.gang, team := ((v.core.team? v.gang.team).map (·.tid)).getD 0, lane := l, tag := tag,
      cap := cap, session := v.core.sessionOf v.gang, level := v.core.level v.gang, die := die,
      words := v.slotWords sh.c 0 l, dst := (List.range r).map (fun i => (d.toNat + i) * 32 + l) }

/-- A counter of a gang raised by one (R179). -/
def Gang.count (x : Gang) (cls : Nat) : Gang :=
  { x with counters := x.counters.set cls (x.counters.getD cls 0 + 1) }

/-- The calls of a `qcall` enter their queue, its destinations are empty, and the entry is charged (R208). -/
def State.calls (s : State) (v : View) (sh : Shape) (ep die c r : Nat) (d : Reg) (w : Option Place) : State :=
  let xs := v.qcalls sh ep die c r d s.nextId
  let s1 := (s.fresh.expect (xs.map (fun x => (x.lane, x.dst)))).updGang v.cur.gang fun x =>
    { x.count 4 with calls := x.calls ++ [(s.nextId, xs.length)] }
  (s1.postAll (xs.map (fun x => callEvent x s.mid))).capSpend v.cur.gang.core (v.core.sessionOf v.gang) w

/-- `qcall` (R192, R207, R208). -/
def execQcall (d : Reg) (r n : BitVec 5) (c : BitVec 6) (s : State) : Host.Outcome State Fault Refusal :=
  issueChecked (.qcall d r n c) s fun v sh s0 go =>
    let ses := v.core.sessionOf v.gang
    if v.act = 0 then (go s0).retire
    else
      match s0.capRead v c.toNat with
      | (none, s1) => s1
      | (some (e, va, p), s1) =>
        match s1.port ses (dieOf v.cur.gang.core) (capEp e) with
        | .queue die depth =>
          if !capValid e (.queue die depth) then s1.trapNow 0x22 0 (v.tlanes sh) 0
          else if !capSend e ∨ capAllow e = 0 then s1.trapNow 0x23 0 (v.tlanes sh) 0
          else if 63 ≤ v.gang.counters.getD 4 0 then s1.hold .acount
          else if Config.queueDepth.getD 4 0 ≤ v.core.queued 4 then s1.hold .engine
          else
            match s1.capClaim v e va p with
            | (none, s2) => s2
            | (some w, s2) =>
              if s2.freeCalls ses die (capEp e) depth < (lanesOf v.act).length ∨ v.behind (capEp e) then
                s2.holdOp v (.qcall d r.toNat n.toNat c.toNat w) (capEp e) .qfull (.qcallAppend v.cur.gang v.cur.entry)
              else if !(go s2).logFits ses w.toList then s2.logFull ses
              else ((go s2).calls v sh (capEp e) die c.toNat r.toNat d w).retire
        | _ => s1.trapNow 0x22 0 (v.tlanes sh) 0

/-- The step QCALL_APPEND (R208). -/
def execQcallAppend (s : State) : Host.Outcome State Fault Refusal :=
  match s.ev with
  | .qcallAppend g e =>
    match s.unhold g e with
    | some (⟨_, .qcall d r n c w, ep⟩, s1) =>
      match s1.view? with
      | none => .next s
      | some v =>
        let ses := v.core.sessionOf v.gang
        let sh := shape (.qcall d (BitVec.ofNat 5 r) (BitVec.ofNat 5 n) (BitVec.ofNat 6 c)) v.mode false
        let rows := decide ((newOnes v.logged (v.rowsWritten sh)).length ≤ v.room)
        let s2 := s1.takesEffect v sh false
        match s1.port ses (dieOf g.core) ep with
        | .queue die _ =>
          .next (if rows && s2.canSpend ses w then (s2.calls v sh ep die c r d w).retire
            else (if rows && s2.logFits ses w.toList then s else s.wantCut ses).post (.qcallAppend g e))
        | _ => .next (s.post (.qcallAppend g e))
    | _ => .next s
  | _ => .next s

/-- `qwait` (R208): it waits until the return registers of every active lane are full. -/
def execQwait (d : Reg) (r : BitVec 5) (s : State) : Host.Outcome State Fault Refusal :=
  issueChecked (.qwait d r) s fun v _ s1 go =>
    let words (l : Nat) : List Nat := (List.range (r.toNat + 1)).map (fun i => (d.toNat + i) * 32 + l)
    let lost := laneSet fun l => v.act.getLsbD l && (words l).any (fun w => decide (v.core.copy v.gang w = .lost))
    if lost ≠ 0 then s1.trapNow 0x11 0 lost 0
    else if ((lanesOf v.act).flatMap words).any (fun w => decide (v.core.copy v.gang w ≠ .full)) then s1.hold .empty
    else (go s1).retire

/-- `qpoll` (R208). -/
def execQpoll (d : Reg) (c : BitVec 6) (s : State) : Host.Outcome State Fault Refusal :=
  issueChecked (.qpoll d c) s fun v sh s1 go =>
    let n := v.core.sessionOf v.gang
    match s1.capRead v c.toNat with
    | (none, s2) => s2
    | (some (e, _, _), s2) =>
      match s2.port n (dieOf v.cur.gang.core) (capEp e) with
      | .queue die depth =>
        if !capValid e (.queue die depth) then s2.trapNow 0x22 0 (v.tlanes sh) 0
        else
          let w : Word := BitVec.ofNat 32 (depth * 65536 + s2.freeCalls n die (capEp e) depth)
          ((go s2).result v sh (v.laneResults d 1 (fun _ => w.setWidth 64)) []).retire
      | _ => s2.trapNow 0x22 0 (v.tlanes sh) 0

/-- The calls of a gang after one of a `qcall` has returned: its oldest complete ones are no longer counted
(R179). -/
def callDone (tag : Nat) (cs : List (Nat × Nat)) : List (Nat × Nat) :=
  (cs.map (fun p => if p.1 = tag then (p.1, p.2 - 1) else p)).dropWhile (fun p => decide (p.2 = 0))

/-- Words delivered to the register copies of a lane that still wait for them (R34): the others have been
abandoned. -/
def State.deliver (s : State) (g : GangRef) (lane : Nat) (ws : List (Nat × Word)) : State :=
  match s.gang? g with
  | none => s
  | some x =>
    let c := s.core g.core
    let here := ws.filter (fun p => decide (c.copy x p.1 = .empty (.delivery g lane)))
    let c1 := c.setRegs x here
    (s.setCore g.core (c1.wakeMapping wokenByCopy (here.map (fun p => c.phys x p.1)))).updGang g fun y =>
      here.foldl (fun z p => z.wakeAwait p.1) y

/-- A return record reaches its lane (R209): its words come at once, the call is no longer counted, and a
fault inside the unit is to be trapped, or reported where the gang has ended (R210). -/
def execReturnRecord (s : State) : Host.Outcome State Fault Refusal :=
  match s.ev with
  | .returnRecord r =>
    let x := r.call
    let s1 := s.deliver x.gang x.lane (List.zip x.dst (fitList 0 x.dst.length r.words))
    let s2 := s1.updGang x.gang fun y =>
      let cs := callDone x.tag y.calls
      { y with calls := cs, counters := y.counters.set 4 (y.counters.getD 4 0 - (y.calls.length - cs.length)) }
    let w := r.words.getD 0 0
    if fieldNat w 0 8 ≠ 1 then .next s2
    else if (s2.gang? x.gang).isSome then
      .next ((s2.updGang x.gang fun y => { y with unitFaults := y.unitFaults ++ [r] }).postOnce (.unitFaultTrap x.gang))
    else
      let tc := tcauseWord (w.extractLsb' 8 8) (BitVec.ofNat 16 (x.lane * 256 + x.cap)) 0 true false
      .next { s2 with ends := s2.ends ++ [EndReport.mk x.gang.core x.session tc 0 0] }
  | _ => .next s

/-- A wait that the trap of a unit fault does not cut short (R210). -/
def uncut (r : WaitReason) : Bool :=
  match r with
  | .release | .sched | .debug | .fault => true
  | _ => false

/-- The waiting group at whose sequence a pending unit fault is trapped when every group waits (R210): that of
the lowest live slice, of those whose wait may be cut short. -/
def Gang.unitTrapGroup (x : Gang) : Option Nat :=
  if x.groupList.any (fun e => decide ((x.group e).wait = .ready)) then none
  else ((slicesOf x.liveSet).map x.groupOf).find? (fun e => !uncut (x.group e).wait)

/-- A unit fault, or the trap of a held command, is taken at a waiting sequence (R210, R213). -/
def execUnitFaultTrap (s : State) : Host.Outcome State Fault Refusal :=
  match s.ev with
  | .unitFaultTrap g =>
    match s.gang? g with
    | none => .next s
    | some x =>
      if x.trap.tcause.getLsbD 15 ∨ x.raised.isSome ∨ !x.owesTrap then .next s
      else
        match x.unitTrapGroup with
        | some e =>
          let s1 := s.owedTrap g x e
          .next (if (s1.gang? g).any Gang.owesTrap then s1.postOnce (.unitFaultTrap g) else s1)
        | none => .next s
  | _ => .next s

/-- `cwp` (R205). -/
def execCwp (d : Reg) (ch : BitVec 2) (s : State) : Host.Outcome State Fault Refusal :=
  issue (.cwp d ch) s fun v sh s1 =>
    let w := ((v.core.team? v.gang.team).map (fun t => t.cwp.getD ch.toNat 0)).getD 0
    (s1.result v sh (v.laneResults d 1 (fun _ => w.setWidth 64)) []).retire

/-- The held matrix commands of a gang in a handler: a `wait.matrix` there does not wait for what goes on only after the
`rti` (R213). Log 61 (DEDUCED). -/
def View.heldCmds (v : View) (cls : Nat) : Nat :=
  if cls = 1 ∧ v.gang.trap.tcause.getLsbD 15 then
    ((v.core.queues.getD 1 [] ++ v.core.follow).filter (fun k => decide (k.gang = v.cur.gang) && k.held)).length
  else 0

/-- `wait` (R206). -/
def execWait (cls : BitVec 3) (n : BitVec 6) (s : State) : Host.Outcome State Fault Refusal :=
  issueChecked (.wait cls n) s fun v _ s1 go =>
    if v.gang.counters.getD cls.toNat 0 - v.heldCmds cls.toNat ≤ n.toNat then (go s1).retire else s1.hold .acount

end Sys2Proof.Machine
end

