-- ==== Sys2Proof/Machine/Deliver.lean ====
section
/-! DEFINITION. Steps that bring a value or a trap to a gang: result cycles (R105), deliveries (R34, R135,
R159, R393), trap entry (R97), a fetch ahead (R312), the watchdog (R326), and launches (R168, R215). -/

namespace Sys2Proof.Machine

/-- Predicates written in the lanes named. -/
def Gang.setPreds (x : Gang) : List (Nat × LaneSet × LaneSet) → Gang
  | [] => x
  | (p, m, v) :: r => Gang.setPreds (x.setPred p m v) r

/-- A sequence's results are written (R105): its register words, which become full, and its predicates. Log 6
(DEDUCED). -/
def execResultWrite (s : State) : Host.Outcome State Fault Refusal :=
  match s.ev with
  | .resultWrite g n =>
    match s.gang? g with
    | none => .next s
    | some x =>
      match x.latency.find? (fun m => decide (m.id = n)) with
      | none => .next s
      | some m =>
        .next ((s.setCore g.core ((s.core g.core).setRegs x m.writes)).updGang g
          (fun y => { y.setPreds m.preds with latency := y.latency.erase m }))
  | _ => .next s

/-- The oldest message of an endpoint of a session, and the state without it (R159). -/
def State.takeMsg (s : State) (n ep : Nat) : Option (List Word × State) :=
  match s.endpoint? n ep with
  | none => none
  | some p =>
    match p.msgs with
    | [] => none
    | m :: r =>
      let d := s.ses n
      some (m, s.setSes n { d with endpoints := d.endpoints.map (fun q => if q.num = ep then { q with msgs := r } else q) })

/-- A pending delivery of a long-latency producer is made (R34): to the copies of a lane, or of a `recv`'s
lanes from the oldest message, which stays if none of them waits any more (R159). -/
def execProducerDelivery (s : State) : Host.Outcome State Fault Refusal :=
  match s.ev with
  | .producerDelivery d => .next (s.deliver d.gang d.lane d.writes)
  | .channelDelivery g n ep dst =>
    match s.gang? g with
    | none => .next s
    | some x =>
      if !(s.core g.core).awaited g x dst then .next s
      else
        match s.takeMsg n ep with
        | none => .next s
        | some (m, s1) =>
          .next (dst.foldl (fun s' e => s'.deliver g e.1 (e.2.map (fun w => (w, m.getD e.1 0)))) s1)
  | _ => .next s

/-- The trap that a gang has raised is taken (R97). -/
def execTrapEntry (s : State) : Host.Outcome State Fault Refusal :=
  match s.ev with
  | .trapEntry g => .next (s.enterTrap g)
  | _ => .next s

/-- The next sequence of a ready group is fetched before it issues; a fault on it parks or ends the gang
(R312). -/
def execSequenceFetch (s : State) : Host.Outcome State Fault Refusal :=
  match s.ev with
  | .sequenceFetch g e =>
    match s.gang? g with
    | none => .next s
    | some x =>
      if decide (x.groupSlices e ≠ 0) && decide ((x.group e).wait = .ready) && s.mayIssue g x e then
        match s.fetch g x e with
        | (.seq .., s1) => .next s1
        | (f, s1) => .next (s1.fetchFails g x e f)
      else .next s
  | _ => .next s

/-- A watchdog has run out (R326). -/
def execHang (s : State) : Host.Outcome State Fault Refusal :=
  match s.ev with
  | .hang g e =>
    match s.gang? g with
    | none => .next s
    | some x =>
      if Config.watchdogLimit ≤ (x.group e).dog then
        .next (s.fatalBy g 0x96 (BitVec.ofNat 16 (s.reason g x e).code))
      else .next s
  | _ => .next s

/-- A team is launched where it fits (R168); a launch that does not fit is held. -/
def execTeamLaunch (s : State) : Host.Outcome State Fault Refusal :=
  match s.ev with
  | .teamLaunch x => .next (if s.launchFits x then s.launchNow x else s.post (.teamLaunch x))
  | _ => .next s

/-- A crew is launched whole, or its launch is held (R215). -/
def execCrewLaunch (s : State) : Host.Outcome State Fault Refusal :=
  match s.ev with
  | .crewLaunch x => .next (if s.launchFits x then s.launchNow x else s.post (.crewLaunch x))
  | _ => .next s

end Sys2Proof.Machine
end

