-- ==== Sys2Proof/Machine/Save.lean ====
section
/-! DEFINITION. Teams and crews as a drain, a cut or a rollback holds them (R223, R277, R278): saving them,
freeing what they take, and placing them again. -/

namespace Sys2Proof.Machine

/-- References to gangs replaced. -/
def IssueCtx.mapRef (f : GangRef → GangRef) (c : IssueCtx) : IssueCtx := { c with gang := f c.gang }

def CopyState.mapRef (f : GangRef → GangRef) (c : CopyState) : CopyState :=
  match c with
  | .empty (.delivery g l) => .empty (.delivery (f g) l)
  | c => c

def PLane.mapRef (f : GangRef → GangRef) (p : PLane) : PLane :=
  { p with access := p.access.map (fun a => { a with gang := f a.gang }) }

def FormHold.mapRef (f : GangRef → GangRef) (h : FormHold) : FormHold := { h with cur := h.cur.mapRef f }

def Parked.mapRef (f : GangRef → GangRef) (p : Parked) : Parked :=
  { p with cur := p.cur.mapRef f, lanes := p.lanes.map (PLane.mapRef f), form := p.form.map (FormHold.mapRef f) }

def Cmd.mapRef (f : GangRef → GangRef) (t : Nat) (k : Cmd) : Cmd := { k with gang := f k.gang, team := t }

/-- An event about a gang that stays pending while its crew is saved: a `recv` waiting for its message. -/
def savedEvent (p : GangRef → Bool) (e : Event) : Bool :=
  match e with
  | .channelDelivery g .. => p g
  | _ => false

def Event.mapRef (f : GangRef → GangRef) (e : Event) : Event :=
  match e with
  | .channelDelivery g n ep d => .channelDelivery (f g) n ep d
  | e => e

/-- A member team of a crew as it stands (R223 step 4). Commands of the follow-on list count as class 5. -/
def State.savedTeam (s : State) (core t : Nat) (tm : Team) : SavedTeam :=
  let c := s.core core
  { core := core, team := tm, gangs := c.teamGangs t, store := Cells.slice c.store (tm.base / 4) (tm.bytes / 4),
    fe := Cells.slice c.fe (tm.base / 4) (tm.bytes / 4),
    cmds := ((List.range 5).flatMap fun q =>
        ((c.queues.getD q []).filter (fun k => decide (k.team = t) && !k.done)).map (fun k => (q, k))) ++
      (c.follow.filter (fun k => decide (k.team = t))).map (fun k => (5, k)) }

/-- A gang of a crew. -/
def State.inCrew (s : State) (c : Crew) (g : GangRef) : Bool :=
  c.residents.any fun r => decide (r.2.1 = g.core) &&
    ((s.core g.core).gang? g).any (fun x => decide (x.team = r.2.2))

/-- A crew as it stands, with its blocks of cluster memory (R223, R277). -/
def State.savedCrew (s : State) (ticket : Nat) (c : Crew) : SavedCrew :=
  { ticket := ticket, crew := c,
    members := c.residents.filterMap fun r => (s.team? r.2.1 r.2.2).map (fun tm => s.savedTeam r.2.1 r.2.2 tm),
    blocks := (List.range c.cores.length).map fun r =>
      Cells.slice (s.core (c.cores.getD r 0)).store ((Config.clusterShare + c.cmbase.getD r 0) / 4) (c.cmcore * 256),
    events := s.agenda.filter (savedEvent (s.inCrew c)) }

/-- The lane-private lines of a team of a core: dropped with what memory held before their dirty copies,
unless the device had written them back (R139, R166; log 10); or written back. -/
def State.dropPrivate (s : State) (core t : Nat) (drop : Bool) : State :=
  let mine (c : Copy) : Bool := decide (c.holder = .l1 core) && (c.privateHome.any fun p => decide (p.1 = t))
  let s1 := s.writeBack (fun c => mine c && (!drop || Config.evicts s.tick c.line))
  let back := s1.copies.filter (fun c => mine c && c.dirty)
  { s1 with
    mem := back.foldl (fun m c => match c.privateHome with
      | some p => Cells.write m (c.line * 128) p.2
      | none => m) s1.mem
    copies := s1.copies.filter (fun c => !mine c) }

/-- A team leaves its core: its partition, gang slots and commands are freed (R166, R169). -/
def State.freeTeam (s : State) (core t : Nat) (drop : Bool) : State :=
  match s.team? core t with
  | none => s
  | some tm =>
    let s1 := s.dropPrivate core t drop
    let c := s1.core core
    s1.setCore core
      { c with
        fe := Cells.clear c.fe (tm.base / 4) (tm.bytes / 4)
        gangs := c.gangs.filter (fun e => decide (e.2.team ≠ t))
        teams := Cells.erase c.teams t
        queues := c.queues.map (fun q => q.filter (fun k => decide (k.team ≠ t)))
        follow := c.follow.filter (fun k => decide (k.team ≠ t)) }

/-- An event that concerns a gang of which `p` holds, or a command of a team of which `q` holds. -/
def Event.about (p : GangRef → Bool) (q : Nat → Nat → Bool) (e : Event) : Bool :=
  match e with
  | .pauseExpiry g _ | .resultWrite g _ | .qcallAppend g _ | .sendAppend g _ | .unitFaultTrap g | .trapEntry g
  | .confirmationRequest g .. | .watchConfirm g _ | .watchStrike g _ | .watchTimeout g _ | .versionReport g _
  | .gangUnpark g | .hang g _ | .sequenceFetch g _ => p g
  | .channelDelivery g .. => p g
  | .producerDelivery d => p d.gang
  | .accessAtHome a => p a.gang
  | .returnRecord r => p r.call.gang
  | .commandFire c _ k | .commandRetire c _ k => q c k
  | .copyDelivery c k | .followOnPush c k | .mcastFillLand c k _ => q c k
  | e => (eventCall e).any (fun x => p x.gang)

/-- A crew leaves its cluster: its teams, blocks and events are gone. -/
def State.freeCrew (s : State) (c : Crew) : State :=
  let ids := c.residents.flatMap (fun r => ((s.core r.2.1).teamCmds r.2.2).map (fun k => (r.2.1, k.id)))
  let s1 := s.drop (Event.about (s.inCrew c) (fun core k => decide ((core, k) ∈ ids)))
  let s2 := c.residents.foldl (fun s' r => s'.freeTeam r.2.1 r.2.2 false) s1
  { s2 with crews := s2.crews.filter (fun k => decide (k.id ≠ c.id)) }

/-- A saved team fits a core. -/
def CoreSt.fitsSaved (c : CoreSt) (v : SavedTeam) : Bool :=
  c.freeTeam.isSome && decide (v.gangs.length ≤ c.freeSlots.length) && (c.findBase v.team.bytes).isSome &&
  decide (v.team.bytes + (c.teams.map (fun e => e.2.bytes)).sum ≤ Config.partitionMax)

/-- The saved team of a rank. -/
def SavedCrew.rank (v : SavedCrew) (r : Nat) : Option SavedTeam := v.members.find? (fun m => decide (m.team.rank = r))

/-- A member of a saved crew fits a core: its team, if it had not exited, and its block. -/
def State.fitsRank (s : State) (v : SavedCrew) (r core : Nat) : Bool :=
  (match v.rank r with
   | some m => (s.core core).fitsSaved m
   | none => true) && (s.findBlock core (v.crew.cmcore * 1024)).isSome

/-- Distinct cores of a cluster for ranks r on: the lowest that fit, in increasing order (R215). -/
def State.coresFor (s : State) (v : SavedCrew) : Nat → List Nat → List Nat
  | _, [] => []
  | r, k :: ks =>
    if r < v.crew.cores.length then
      if s.fitsRank v r k then k :: State.coresFor s v (r + 1) ks else State.coresFor s v r ks
    else []

/-- The word w of a partition's record (R365). -/
def State.partWord (s : State) (p w : Nat) : Word := Cells.get 0 s.parts (64 * p + w)

/-- MODE of a partition: 0 OFF, 1 FIXED, 2 SLICED; OFF while it is not ACTIVE. -/
def State.partMode (s : State) (p : Nat) : Nat := if s.partActive p then fieldNat (s.partWord p 0) 0 2 else 0

/-- The clusters of a die that a partition owns as FIXED. -/
def State.partMask (s : State) (p die : Nat) : Nat :=
  if s.partMode p = 1 then fieldNat (s.partWord p (4 + 4 * die)) 0 12 else 0

/-- The engines of a class: first number, count, and where a record holds the minimum (R365, R370). -/
def poolClass (k : Nat) : Nat × Nat × Nat :=
  match k with
  | 0 => (0, 8, 0)
  | 1 => (8, 4, 4)
  | _ => (12, 4, 8)

/-- The partition of a session holds an engine of a class on a die (R371). The dispatcher leases none to a partition that
is not ACTIVE, whose work does not wait for one. Log 95 (DEDUCED). -/
def State.engineHeld (s : State) (die n k : Nat) : Bool :=
  !s.partActive (s.sesPart n) ||
  (((s.die die).engines.drop (poolClass k).1).take (poolClass k).2.1).any (fun p => decide (p = s.sesPart n))

/-- Work of a session waits for an engine of a class until the dispatcher leases one (R371). -/
def State.wantEngine (s : State) (die n k : Nat) : State :=
  let d := s.die die
  let w := (s.sesPart n, k)
  if w ∈ d.poolWait then s else s.setDie die { d with poolWait := d.poolWait ++ [w] }

/-- The clusters of a die on which the CP may launch for a session now (R367, R368). -/
def State.allowedClusters (s : State) (n die : Nat) : List Nat :=
  let p := s.sesPart n
  if !s.sesLaunchable n then []
  else if s.partMode p = 1 then (List.range 12).filter (fun c => (s.partMask p die).testBit c)
  else if s.partMode p = 2 ∧ (s.die die).sliceOf = some p then
    (List.range 12).filter (fun c => !(List.range 32).any (fun q => (s.partMask q die).testBit c))
  else []

/-- The crew slot that a saved crew takes in a cluster: a drained crew keeps its own in its own cluster (R215). -/
def State.slotFor (s : State) (v : SavedCrew) (die cluster : Nat) : Option Nat :=
  if v.crew.die = die ∧ v.crew.cluster = cluster ∧ v.crew.drain = .drained then some v.crew.slot
  else s.freeCrewSlot die cluster

/-- Where a saved crew may be placed: its own cores, or cores of any cluster of a die, of those that its session's
partition may use (R223, R278, R367). Log 23 (DESIGN CHOICE). -/
def State.placesFor (s : State) (v : SavedCrew) (die : Nat) : List (List Nat) :=
  let cls := (s.allowedClusters v.crew.session die).filter (fun k => (s.slotFor v die k).isSome)
  let own := if decide (v.crew.die = die) && decide (v.crew.cluster ∈ cls) &&
      (List.range v.crew.cores.length).all (fun r => s.fitsRank v r (v.crew.cores.getD r 0))
    then [v.crew.cores] else []
  own ++ (cls.map (fun cl => s.coresFor v 0 ((List.range 8).map (coreIndex die cl)))).filter
    (fun l => decide (l.length = v.crew.cores.length))

/-- The references of a saved team's gangs after it is placed, by the numbers of their former residence. -/
def newRefs (core gid : Nat) (gangs : List (Nat × Gang)) (slots : List Nat) : List (Nat × GangRef) :=
  (List.zip (List.zip gangs (List.range gangs.length)) slots).map fun p => (p.1.1.2.gid, ⟨core, p.2, gid + p.1.2⟩)

def refOf (m : List (Nat × GangRef)) (g : GangRef) : GangRef :=
  ((m.find? (fun p => decide (p.1 = g.gid))).map (·.2)).getD g

/-- A gang as it is placed again. -/
def Gang.replaced (x : Gang) (f : GangRef → GangRef) (slot : Nat → Nat) (gid team base : Nat) : Gang :=
  { x with
    gid := gid, team := team, base := base
    shares := x.shares.map (fun h => { h with slot := slot h.slot })
    parked := x.parked.map (Parked.mapRef f)
    held := []
    groups := if x.held = [] then x.groups else
      x.held.foldl (fun gs h => gs.set h.cur.entry (gs.getD h.cur.entry default).free) x.groups }

/-- Events by which the placed commands of a core go on. -/
def Cmd.resume (core q : Nat) (k : Cmd) : List Event :=
  if q = 5 then []
  else if !k.fired then [.commandFire core q k.id]
  else if q = 1 then [.commandRetire core q k.id]
  else if k.stall.isSome then [] else [.copyDelivery core k.id]

/-- A saved team placed on a core, with the references of its gangs, which see there what they wrote before (R257). -/
def State.placeTeam (s : State) (v : SavedTeam) (core : Nat) : List (Nat × GangRef) × State :=
  let s0 := (s.cleanL1 core).show core (fun _ => true)
  let c := s0.core core
  match c.freeTeam, c.findBase v.team.bytes with
  | some t, some b =>
    let m := newRefs core s0.nextId v.gangs c.freeSlots
    let f := refOf m
    let slotOf (k : Nat) : Nat := match Cells.find? v.gangs k with
      | some x => (f ⟨core, k, x.gid⟩).slot
      | none => k
    let tm := { v.team with base := b, gslots := c.freeSlots.take v.gangs.length }
    let c1 : CoreSt :=
      { c with
        store := Cells.paste (Cells.clear c.store (b / 4) (v.team.bytes / 4)) (b / 4) v.store
        fe := Cells.paste (Cells.clear c.fe (b / 4) (v.team.bytes / 4)) (b / 4) (v.fe.map (fun e => (e.1, e.2.mapRef f)))
        teams := Cells.insert c.teams t tm
        gangs := v.gangs.foldl (fun gs e =>
          let g := f ⟨core, e.1, e.2.gid⟩
          Cells.insert gs g.slot (e.2.replaced f slotOf g.gid t (e.2.base - v.team.base + b))) c.gangs
        queues := (List.range 5).map (fun q => c.queues.getD q [] ++
          (v.cmds.filter (fun p => decide (p.1 = q))).map (fun p => p.2.mapRef f t))
        follow := c.follow ++ (v.cmds.filter (fun p => decide (p.1 = 5))).map (fun p => p.2.mapRef f t) }
    let s1 := { s0.setCore core c1 with nextId := s0.nextId + v.gangs.length }
    (m, s1.postAll (v.cmds.flatMap (fun p => p.2.resume core p.1) ++
      if v.gangs = [] then [.teamExit core t] else []))
  | _, _ => ([], s)

/-- The members of a saved crew placed on cores by rank. -/
def State.placeRanks (v : SavedCrew) : Nat → List Nat → State → List (Nat × GangRef) × State
  | _, [], s => ([], s)
  | r, k :: ks, s =>
    match v.rank r with
    | none => State.placeRanks v (r + 1) ks s
    | some m =>
      let (a, s1) := s.placeTeam m k
      let (b, s2) := State.placeRanks v (r + 1) ks s1
      (a ++ b, s2)

/-- What a gang placed again waits for goes on: parked sequences whose faults have been replayed, a unit fault,
a cancelled fault. -/
def State.resumeGang (s : State) (g : GangRef) : State :=
  match s.gang? g with
  | none => s
  | some x =>
    match x.raised with
    | some r => (s.setGang g { x with raised := none }).fatalBy g r.cause r.info r.taddr.toNat
    | none =>
      let s1 := if x.parked ≠ [] then s.postOnce (.gangUnpark g) else s
      if x.owesTrap then s1.postOnce (.unitFaultTrap g) else s1

/-- A saved crew placed on cores of one cluster, with the stop state it had (R223, R224, R278). -/
def State.placeCrew (s : State) (v : SavedCrew) (die : Nat) (cores : List Nat) : State :=
  let cluster := clusterOf (cores.getD 0 0)
  let cmb := cores.map (fun k => (s.findBlock k (v.crew.cmcore * 1024)).getD 0)
  let teams := (List.range cores.length).map fun r =>
    if (v.rank r).isSome then ((s.core (cores.getD r 0)).freeTeam).getD 0 else 0
  let c : Crew :=
    { v.crew with
      die := die, cluster := cluster, cores := cores, teams := teams
      slot := (s.slotFor v die cluster).getD 0
      cmbase := cmb, drain := .running, attached := false, area := 0, wps := List.replicate 4 ⟨0, false, 0⟩,
      trig := if v.crew.stopped then v.crew.trig else none, window := none }
  let s1 := { s with crews := s.crews ++ [c] }
  let s2 := (List.range cores.length).foldl (fun s' r =>
    s'.updStore (cores.getD r 0) fun st =>
      let off := (Config.clusterShare + cmb.getD r 0) / 4
      Cells.paste (Cells.clear st off (v.crew.cmcore * 256)) off (v.blocks.getD r [])) s1
  let (m, s3) := State.placeRanks v 0 cores s2
  let s4 := s3.updCrew c.id fun k =>
    { k with trig := k.trig.map (fun t => { t with gang := t.gang.map (refOf m) }) }
  m.foldl (fun s' p => s'.resumeGang p.2) (s4.postAll (v.events.map (Event.mapRef (refOf m))))

/-- A saved crew placed where the device chooses, if it fits anywhere on a die (log 23). -/
def State.placeSaved (s : State) (v : SavedCrew) (die : Nat) : Option State :=
  let ps := s.placesFor v die
  if ps = [] then none
  else some (s.placeCrew v die (ps.getD ((Config.placement s.tick).1 % ps.length) []))

end Sys2Proof.Machine
end

