-- ==== Sys2Proof/Machine/Recovery.lean ====
section
/-! DEFINITION. Checkpoints, rollback and force-reset (R276 to R279, R284, R333, R391), and the answers that
waiting forms get (R280, R393). -/

namespace Sys2Proof.Machine

/-- The word by whose delivery a group waits that waits for no register (R227). -/
def formWord (e : Nat) : Nat := 1048576 + e

/-- A waiting form gets its answer: its registers are delivered, or its group goes on. -/
def State.answer (s : State) (w : Waiter) (ws : List Word) : State :=
  let s1 := { s with waiters := s.waiters.filter (fun v => decide (v ≠ w)) }
  if w.dst = [] then s1.updGang w.gang (fun x => x.wakeAwait (formWord w.entry))
  else s1.post (.producerDelivery ⟨w.gang, 32, List.zip w.dst (fitList 0 w.dst.length ws)⟩)

/-- Every form that waits for something of which `p` holds gets its answer. -/
def State.answerAll (s : State) (p : WaitFor → Bool) (ws : List Word) : State :=
  (s.waiters.filter (fun w => p w.what)).foldl (fun s' w => s'.answer w ws) s

/-- The present form waits for its answer, its registers empty (R393). -/
def State.await (s : State) (what : WaitFor) (r : WaitReason) (dst : List Nat) : State :=
  let s1 := { s with waiters := s.waiters ++ [Waiter.mk what s.cur.gang s.cur.entry dst] }
  if dst = [] then s1.retireAwaiting r (formWord s.cur.entry)
  else (s1.expect [(32, dst)]).retireAwaiting r (dst.headD 0)

/-- The resident crews of a session, and their gangs. -/
def State.sesCrews (s : State) (n : Nat) : List Crew := s.crews.filter (fun c => decide (c.session = n))
def State.sesGangs (s : State) (n : Nat) : List (GangRef × Gang) := (s.sesCrews n).flatMap s.crewGangs

/-- The unretired commands of a session on one core, and on any core. -/
def State.coreCmds (s : State) (core n : Nat) : List Cmd :=
  ((s.core core).queues.flatten ++ (s.core core).follow).filter (fun k => decide (k.session = n) && !k.done)
def State.sesCmds (s : State) (n : Nat) : List Cmd := s.cores.flatMap (fun e => s.coreCmds e.1 n)

/-- A matrix command. -/
def Cmd.isMatrix (k : Cmd) : Bool :=
  match k.op with
  | .matrix _ => true
  | _ => false

/-- UNIT of a return record (R209, R282). -/
def unitOf (ep : Nat) : Nat := if 0xF0000 ≤ ep then ep % 4096 else 0

/-- A return record of a call (R209). -/
def record (x : Call) (status cause : Nat) (ws : List Word) : RetRec :=
  ⟨x, BitVec.ofNat 32 (unitOf x.ep * 65536 + cause * 256 + status) :: ws⟩

/-- The session of this module is a member of a collective: it has joined it, or a descriptor names it (R389). -/
def Collective.member (k : Collective) (mid n : Nat) : Bool :=
  k.calls.any fun c =>
    (decide (c.2.1.module = mid) && decide (c.1.session = n)) ||
    (c.2.2.drop 4).any (fun w => decide (fieldNat w 0 4 = mid % 16) && decide (fieldNat w 12 12 = n))

/-- A collective ends for the calls that remain: they return PEER_LOST (R391). Log 115 (DEDUCED). -/
def State.losePeers (s : State) (p : Collective → Bool) : State :=
  let lost := s.collectives.filter p
  let xs := lost.flatMap Collective.own
  let waiting := (lost.filter (fun k => !k.returned)).flatMap Collective.own
  let agenda := s.agenda.map fun e => match e with
    | .returnRecord r => if r.call ∈ xs then .returnRecord (record r.call 0 0 [2]) else e
    | e => e
  { s with
    collectives := s.collectives.filter (fun k => !p k)
    agenda := agenda ++ waiting.map (fun x => .returnRecord (record x 0 0 [2])) }

/-- The calls of a session leave the queues, and their records are discarded (R181, R278, R391). -/
def State.dropCalls (s : State) (n : Nat) : State :=
  let s1 := s.losePeers (fun k => k.member s.mid n)
  { s1.drop (fun e => match e with
      | .returnRecord r => decide (r.call.session = n)
      | e => (eventCall e).any (fun x => decide (x.session = n))) with
    dies := s1.dies.map fun d =>
      { d with
        held := d.held.filter (fun x => decide (x.session ≠ n))
        stuck := d.stuck.filter (fun x => decide (x.2.session ≠ n))
        seen := d.seen.filter (fun e => decide (e.1.session ≠ n)) } }

/-- The slots and frames that the units hold for a session are released, and the BVO stops on its BVHs (R284). -/
def State.releaseUnits (s : State) (n : Nat) : State :=
  { s with dies := s.dies.map fun d =>
      { d with
        vr := d.vr.filter (fun e => decide (e.2.session ≠ n))
        bu := d.bu.filter (fun e => decide (e.2.session ≠ n))
        blu := d.blu.filter (fun e => decide (e.2.session ≠ n))
        bvo := d.bvo.filter (fun b => decide (b.session ≠ n)) } }

/-- The FIDs of a session are discarded (R333). -/
def State.discardFids (s : State) (n : Nat) : State :=
  { s with dies := s.dies.map fun d =>
      { d with
        fids := d.fids.filter (fun f => decide (f.session ≠ n))
        discarded := d.discarded ++ (d.fids.filter (fun f => decide (f.session = n))).map (·.fid) } }

/-- An event that launches a team or crew of a session. -/
def launchOf (n : Nat) (e : Event) : Bool :=
  match e with
  | .teamLaunch x | .crewLaunch x => decide (x.session = n)
  | _ => false

/-- What a session had going on is gone: calls, faults, unit state, launches (R278, R333). -/
def State.quell (s : State) (n : Nat) : State :=
  (((s.dropCalls n).discardFids n).releaseUnits n).drop (launchOf n)

/-- The crews of a session leave their clusters; its accumulators keep their owner. -/
def State.freeCrews (s : State) (n : Nat) : State := (s.sesCrews n).foldl (fun s' c => s'.freeCrew c) s

/-- The waiting forms that a session's crews concern. -/
def concerns (crews : List Nat) (tickets : List Nat) (n : Nat) (w : WaitFor) : Bool :=
  match w with
  | .drain c | .stop c | .step c => decide (c ∈ crews)
  | .take m | .roll m => decide (m = n)
  | .restore t => decide (t ∈ tickets)
  | _ => false

/-- A pipeline that runs nothing: its queues hold no record. -/
def Pipeline.idle (p : Pipeline) : Pipeline :=
  { p with
    queues := p.queues.map (fun q => { q with nextSeq := 0, records := [] })
    stages := p.stages.map (fun t => { t with srcLeft := 0, srcNext := 0 })
    phase := none }

def Graph.idle (g : Graph) (state : Nat) : Graph := { g with state := state, waiting := false }

/-- A session is force-reset (R279). -/
def State.forceReset (s : State) (n : Nat) : State :=
  let crews := (s.sesCrews n).map (·.id)
  let tickets := (s.saved.filter (fun v => decide (v.crew.session = n))).map (·.ticket)
  let s1 := (s.sesGangs n).foldl (fun s' p => s'.fatalBy p.1 0xC0 0) s
  let s2 := (s1.quell n).freeCrews n
  let d := s2.ses n
  let s3 := ({ s2 with saved := s2.saved.filter (fun v => decide (v.crew.session ≠ n)) }.setSes n
    { d with
      pipes := d.pipes.map Pipeline.idle, graphs := d.graphs.map (Graph.idle · 6), bindings := [], fleets := [], shelf := [],
      cut := none, undo := [], undoVa := [], rows := [], accUndo := [], attempt := none, retryAt := none }).setSesState n 4
  (s3.drop (fun e => match e with | .rollback m => decide (m = n) | _ => false)).answerAll
    (concerns crews tickets n) [statusWord 7 0]

/-- The chip scratchpad that the fleets on a die hold, as base and length in units of 64 KiB (R249). -/
def State.cspadTaken (s : State) (die : Nat) : List (Nat × Nat) :=
  s.sess.flatMap fun e => (e.2.fleets.filter (fun f => decide (f.die = die))).map (fun f => (f.base, f.units))

/-- The lowest free range of `n` units of a die's chip scratchpad; `own` is preferred. -/
def State.findCspad (s : State) (die n own : Nat) : Option Nat :=
  let tk := s.cspadTaken die
  let free (b : Nat) : Bool := decide (b + n ≤ 512) && tk.all (fun t => decide (b + n ≤ t.1) || decide (t.1 + t.2 ≤ b))
  if free own then some own
  else ((0 :: tk.map (fun t => t.1 + t.2)).filter free).foldl
    (fun o b => match o with | none => some b | some a => some (min a b)) none

/-- A fleet of a session with its scratchpad contents (R249, R272). -/
def State.placeFleet (s : State) (n : Nat) (f : Fleet) (own : Nat) (c : Cells Word) : Option State :=
  (s.findCspad f.die f.units own).map fun b =>
    let d := s.ses n
    (s.setSes n { d with fleets := d.fleets ++ [{ f with base := b }] }).updCspad f.die
      (fun st => Cells.paste (Cells.clear st (b * 16384) (f.units * 16384)) (b * 16384) c)

def State.placeFleets (s : State) (n : Nat) : List (Fleet × Cells Word) → Option State
  | [] => some s
  | (f, c) :: r =>
    match s.placeFleet n f f.base c with
    | some s1 => State.placeFleets s1 n r
    | none => none

/-- A session whose crews are all drained gives its chip scratchpad back, saved with it (R249). -/
def State.shelve (s : State) (n : Nat) : State :=
  let d := s.ses n
  if decide (s.sesCrews n ≠ []) || !s.saved.any (fun v => decide (v.crew.session = n)) then s
  else s.setSes n
    { d with
      fleets := []
      shelf := d.shelf ++ d.fleets.map (fun f => (f, Cells.slice (s.die f.die).cspad (f.base * 16384) (f.units * 16384))) }

/-- It takes chip scratchpad again before a crew of it is restored; none where there is no room. -/
def State.unshelve (s : State) (n : Nat) : Option State :=
  let d := s.ses n
  (s.setSes n { d with shelf := [] }).placeFleets n d.shelf

/-- The CP state of a session as a cut saves it (R277). -/
def State.cpState (s : State) (n : Nat) : CpState :=
  let d := s.ses n
  { pipes := d.pipes, graphs := d.graphs, endpoints := d.endpoints, bindings := d.bindings, fleets := d.fleets ++ d.shelf.map (·.1),
    cspad := d.fleets.map (fun f => Cells.slice (s.die f.die).cspad (f.base * 16384) (f.units * 16384)) ++ d.shelf.map (·.2),
    launches := s.agenda.filter (launchOf n) }

/-- The registrations, endpoints, bindings and fleets of a cut restored. What was registered after it stays,
and runs nothing (R278). -/
def State.restoreCp (s : State) (n : Nat) (c : CpState) : Option State :=
  let d := s.ses n
  let s1 := s.setSes n
    { d with
      pipes := c.pipes ++ (d.pipes.filter (fun p => !c.pipes.any (fun q => decide (q.num = p.num)))).map Pipeline.idle
      graphs := c.graphs ++ (d.graphs.filter (fun p => !c.graphs.any (fun q => decide (q.num = p.num)))).map (Graph.idle · 0)
      endpoints := c.endpoints ++
        (d.endpoints.filter (fun p => !c.endpoints.any (fun q => decide (q.num = p.num)))).map (fun p => { p with msgs := [] })
      bindings := c.bindings
      fleets := []
      shelf := [] }
  (s1.placeFleets n (List.zip c.fleets c.cspad)).map (fun s2 => s2.postAll c.launches)

/-- Saved crews placed again, each on cores with room; none if one fits nowhere. -/
def State.placeAll (s : State) : List SavedCrew → Option State
  | [] => some s
  | v :: r =>
    match s.placeSaved v v.crew.die with
    | some s1 => State.placeAll s1 r
    | none => none

/-- The CP state of no cut: what is registered stays, and runs nothing. -/
def SessDev.noCut (d : SessDev) : CpState :=
  { pipes := d.pipes.map Pipeline.idle, graphs := d.graphs.map (Graph.idle · 0),
    endpoints := d.endpoints.map (fun p => { p with msgs := [] }), bindings := [], fleets := [], cspad := [],
    launches := [] }

/-- The lines of the undo log of a session applied, newest entry first (R278 item 2). -/
def State.applyUndo (s : State) (n : Nat) : State :=
  let s1 := (s.ses n).undo.foldl (fun s' e => s'.writeHome none none n 0 (e.1 * 128) e.2) s
  s1.setSes n { s1.ses n with undo := [] }

/-- The logged lines of pages shared or unshared in the epoch, older than those, applied through the translation that
the session then has (R278 item 2, R349, R350). -/
def State.undoVirtual (s : State) (n : Nat) : List (Nat × List Byte) → Dev Unit
  | [] => .done () s
  | (l, bs) :: r =>
    match s.devStore (s.sesHome n) n (l * 128) bs false (.area none) with
    | .done _ s1 => State.undoVirtual (s1.setSes n { s1.ses n with undoVa := r }) n r
    | .wait s1 => .wait s1
    | .fail s1 => .fail s1

/-- The logged accumulators restored: in their place, or as images in the save area (R278 item 2). -/
def State.undoAccs (s : State) (n : Nat) : List (Nat × Nat × Acc) → Dev Unit
  | [] => .done () s
  | (core, k, a) :: r =>
    let c := s.core core
    let now := c.accs.getD k Acc.init
    let rest (t : State) : State := t.setSes n { t.ses n with accUndo := r }
    if now.valid ∧ now.session = n then
      State.undoAccs (rest (s.setCore core { c with accs := c.accs.set k a })) n r
    else
      match s.spill core k a with
      | .done _ s1 => State.undoAccs (rest s1) n r
      | .wait s1 => .wait s1
      | .fail s1 => .fail s1

/-- The cycle of each die until which a session's lines are renewed by version (R245, R278 item 4). -/
def State.renewAll (s : State) : List Nat := s.dies.map (fun d => d.cyc + Config.windowCycles)

/-- A rollback carried out (R278): none while a crew or a fleet of the cut fits nowhere. Log 56 (DEDUCED). -/
def State.rolledBack (s : State) (n : Nat) : Option State :=
  let crews := (s.sesCrews n).map (·.id)
  let s1 := (s.quell n).freeCrews n
  let cut := (s1.ses n).cut
  let cp := match cut with | some c => c.cp | none => (s1.ses n).noCut
  let vs := match cut with | some c => c.crews | none => []
  let gone := (s1.saved.filter (fun v => decide (v.crew.session = n) && !decide (v ∈ vs))).map (·.ticket)
  let s2 : State :=
    { s1 with saved := s1.saved.filter (fun v => decide (v.crew.session ≠ n)) ++ vs.filter (fun v => decide (v.crew.drain = .drained)) }
  match (s2.applyUndo n).restoreCp n cp with
  | none => none
  | some s3 =>
    (s3.placeAll (vs.filter (fun v => decide (v.crew.drain ≠ .drained)))).map fun s4 =>
      let d := s4.ses n
      let s5 := ((s4.setSes n
        { d with undo := [], undoVa := [], rows := [], accUndo := [], attempt := none, retryAt := none, renewUntil := s4.renewAll }).setSesState n 3).shelve n
      ((s5.answerAll (fun w => decide (w = .roll n)) [statusWord 0 0]).answerAll
        (fun w => decide (w = .take n)) [statusWord 8 0]).answerAll
        (fun w => concerns crews gone n w) [statusWord 7 0]

/-- A rollback of a session (R278): its accesses in block queues are performed first (R333), its unretired matrix commands are frozen and their image released (R186),
accumulators and memory return to the cut once the session's partition holds an engine (R370), and the session is HELD. -/
def State.rollBack (s : State) (n : Nat) : State :=
  if s.sesState n = 0 ∨ s.sesState n = 4 then s
  else
    let later (t : State) : State := (t.setSesState n 3).postOnce (.rollback n)
    if s.queuedAccess (fun a => decide (a.session = n)) then later s
    else if !s.engineHeld (s.sesHome n) n 0 then later (s.wantEngine (s.sesHome n) n 0)
    else
      let frozen : Dev Unit := if (s.sesCmds n).any Cmd.isMatrix then s.writeFreeze (s.sesHome n) n else .done () s
      match frozen with
      | .wait s1 => later s1
      | .fail s1 => s1.forceReset n
      | .done _ s1 =>
        match s1.undoAccs n (s1.ses n).accUndo with
        | .wait s2 => later s2
        | .fail s2 => s2.forceReset n
        | .done _ s2 =>
          match (s2.applyUndo n).undoVirtual n (s2.ses n).undoVa with
          | .wait s3 => later s3
          | .fail s3 => s3.forceReset n
          | .done _ s3 => (s3.rolledBack n).getD (later s3)

/-- The step ROLLBACK (R278). -/
def execRollback (s : State) : Host.Outcome State Fault Refusal :=
  match s.ev with
  | .rollback n => .next (s.rollBack n)
  | _ => .next s

/-- A cut of a session is made (R277 step 3). -/
def State.makeCut (s : State) (n : Nat) : State :=
  let crews := (s.sesCrews n).map (s.savedCrew 0) ++ s.saved.filter (fun v => decide (v.crew.session = n))
  let d := s.ses n
  s.setSes n
    { d with
      cut := some ⟨s.cpState n, crews⟩, undo := [], undoVa := [], rows := [], accUndo := [], attempt := none, retryAt := none,
      deferred := false }

/-- A gang has nothing in flight that a cut waits for (R277 step 2). -/
def Gang.still (x : Gang) : Bool :=
  decide (x.parked = []) && x.watch.all (·.struck) && decide (x.latency = []) && decide (x.raised = none) &&
  decide (x.awaits = []) && decide (x.forms = [])

/-- Step 2 of R277: no command or queue call is unretired, no copy waits for a producer but a handoff, no gang
is parked, no watch entry is PENDING, no unit holds an open slot or frame of the session (R284), and no access
is on its way. Log 68 (DEDUCED). -/
def State.cutReady (s : State) (n : Nat) : Bool :=
  decide (s.sesCmds n = []) &&
  !s.openCalls.any (fun x => decide (x.session = n)) &&
  (s.sesGangs n).all (fun p => p.2.still && decide (((s.core p.1.core).pendingOf p.1 (fun _ => true)) = []) &&
    !s.accessPending p.1 (fun _ => true)) &&
  (s.saved.filter (fun v => decide (v.crew.session = n))).all (fun v => v.members.all fun m =>
    decide (m.cmds = []) && m.gangs.all (fun e => e.2.still)) &&
  !s.dies.any (fun d => d.vr.any (fun e => decide (e.2.session = n) && !e.2.final) ||
    d.blu.any (fun e => decide (e.2.session = n) && !e.2.final) || d.bu.any (fun e => decide (e.2.session = n)))

/-- No watch entry of the session is STRUCK (R277 step 3). -/
def State.unstruck (s : State) (n : Nat) : Bool :=
  (s.sesGangs n).all (fun p => decide (p.2.watch = [])) &&
  (s.saved.filter (fun v => decide (v.crew.session = n))).all (fun v => v.members.all fun m =>
    m.gangs.all (fun e => decide (e.2.watch = [])))

end Sys2Proof.Machine
end

