-- ==== Sys2Proof/Machine/Matrix.lean ====
section
/-! DEFINITION. The matrix array: tiles as operands (R171, R193), products and sums (R51, R52, R58, R59), what
each matrix command does when it retires (R194 to R199), the checks of a matrix instruction (R192), claims and
ownership of accumulators (R185, R213, R394), the array's reset (R187), and the matrix instructions. -/

namespace Sys2Proof.Machine

/-- A tile as its controls describe it (R171, R193). -/
structure TileView where
  num : Nat
  rows : Nat
  cols : Nat
  typ : Nat
  scale : Int
  off : Nat
  per : Nat
  pitch : Nat
  rowbytes : Nat
  deriving DecidableEq, Repr

/-- Tile n of a team. -/
def Team.tile (t : Team) (n : Nat) : TileView :=
  let c := t.tctl.getD n 0
  let cols := fieldNat c 8 8 + 1
  let typ := fieldNat c 16 4
  let e := elemCount typ
  let rb := (cols + e - 1) / e * 4
  { num := n, rows := fieldNat c 0 8 + 1, cols := cols, typ := typ, scale := (c.extractLsb' 24 8).toInt,
    off := fieldNat (t.tbase.getD n 0) 0 20, per := e, pitch := (rb + 15) / 16 * 16, rowbytes := rb }

/-- The types that a tile of an engine instruction may have (R171). -/
def tileType (t : Nat) : Bool := decide (t = 2 ∨ t = 5 ∨ t = 6 ∨ t = 7 ∨ t = 9)

/-- The tile lies within the team's tile area. -/
def TileView.inArea (T : TileView) (t : Team) : Bool := decide (T.off + T.rows * T.pitch ≤ t.record.tilebytes)

/-- The byte offset in the store of byte i of row r of a tile. -/
def TileView.at_ (T : TileView) (t : Team) (r i : Nat) : Nat := t.tileBase + T.off + r * T.pitch + i

/-- Word w of row r, and the pattern of element (i, j) (R193). -/
def TileView.word (T : TileView) (t : Team) (c : CoreSt) (r w : Nat) : Word := Cells.get 0 c.store (T.at_ t r (4 * w) / 4)
def TileView.elem (T : TileView) (t : Team) (c : CoreSt) (i j : Nat) : Nat :=
  fieldNat (T.word t c i (j / T.per)) (j % T.per * elemWidth T.typ) (elemWidth T.typ)

/-- A word of a row written. -/
def State.putTile (s : State) (core session : Nat) (t : Team) (T : TileView) (r w : Nat) (x : Word) : State :=
  let o := T.at_ t r (4 * w)
  (s.logRows session [storeRow core o]).updStore core (fun st => Cells.put 0 st (o / 4) x)

/-- A product of two elements: a float value, or a whole number of units with the sticky flags it sets. -/
inductive Prod where
  | flt (v : FVal)
  | int (x : Int) (nan ovf : Bool)
  deriving DecidableEq, Repr

/-- The greatest magnitude of a product in units (R52). -/
def prodMax : Nat := 2 ^ 35 - 1

/-- The product of two L6 codes under the sum of their scales (R52). -/
def l6Product (a b : Nat) (sc : Int) : Prod :=
  if a % 64 = 0x30 ∨ b % 64 = 0x30 then .int 0 true false
  else if a % 64 = 0x10 ∨ b % 64 = 0x10 then .int 0 false false
  else
    let q := l6Q a + l6Q b + 4 * sc
    let i := q / 4 + 8
    let t := l6T (q % 4).toNat
    let m := if 0 ≤ i then t * 2 ^ i.toNat else t / 2 ^ (-i).toNat
    let k := min m prodMax
    .int (if a / 32 % 2 ≠ b / 32 % 2 then -(k : Int) else k) false (decide (prodMax < m))

/-- The product of two I8 elements under the sum of their scales, truncated toward zero (R59). -/
def i8Product (a b : Nat) (sc : Int) : Prod :=
  let p := intVal true 8 a * intVal true 8 b
  let m := if 0 ≤ sc then p.natAbs * 2 ^ sc.toNat else p.natAbs / 2 ^ (-sc).toNat
  let k := min m prodMax
  .int (if p < 0 then -(k : Int) else k) false (decide (prodMax < m))

/-- The product of two elements of a type with their scales (R51, R58, R59). -/
def tileProduct (typ a : Nat) (sa : Int) (b : Nat) (sb : Int) : Prod :=
  if typ = 9 then l6Product a b (sa + sb)
  else if typ = 7 then i8Product a b (sa + sb)
  else .flt ((((fmtOf typ).value a).scale sa).mul (((fmtOf typ).value b).scale sb))

/-- The value 1 in a type (R196). -/
def tileOne (typ : Nat) : Nat :=
  match typ with
  | 2 => 0x3F800000
  | 5 => 0x3C00
  | 6 => 0x3F80
  | 7 => 1
  | _ => 0

/-- The family of a source type: Q36 for I8 and L6 (R195). -/
def familyQ (typ : Nat) : Bool := decide (typ = 7 ∨ typ = 9)

/-- The value of an accumulator element (R197). -/
def Acc.val (a : Acc) (i j : Nat) : FVal :=
  if a.q36 then .ofInt (a.elem i j).toInt 0 else e36.value (a.elem i j).toNat

/-- Products put on an accumulator element in blocks of eight k (R58, R59), with the NaN and overflow flags set
on the way. A block without products leaves it. -/
def sumBlocks (q : Bool) (f : Nat → Option Prod) (kn : Nat) : Nat → Nat → BitVec 36 → BitVec 36 × Bool × Bool
  | 0, _, x => (x, false, false)
  | n + 1, k, x =>
    let ps := ((List.range (min 8 (kn - k))).map (fun i => f (k + i))).filterMap id
    if ps = [] then sumBlocks q f kn n (k + 8) x
    else if q then
      let s := x.toInt + (ps.map (fun p => match p with | .int y _ _ => y | .flt _ => 0)).sum
      let nan := ps.any (fun p => match p with | .int _ b _ => b | .flt _ => false)
      let ov := ps.any (fun p => match p with | .int _ _ b => b | .flt _ => false) || decide (q36Clamp s ≠ s)
      let r := sumBlocks q f kn n (k + 8) (BitVec.ofInt 36 (q36Clamp s))
      (r.1, nan || r.2.1, ov || r.2.2)
    else
      let vs := ps.map (fun p => match p with | .flt v => v | .int _ _ _ => FVal.fin false 0 0)
      sumBlocks q f kn n (k + 8) (BitVec.ofNat 36 (e36.round 0 (FVal.sum 0 (e36.value x.toNat :: vs))))

/-- An accumulating command: dimensions and products (R195, R196). An accumulator that holds the other family's
content at this moment is left with a free value in each element summed (log 35). -/
def Acc.accumulate (a : Acc) (tick : Nat) (typ m kn n : Nat) (f : Nat → Nat → Nat → Option Prod) : Acc :=
  let q := familyQ typ
  let a1 : Acc := if a.ext = 0 then { a with q36 := q, data := [] } else a
  let mixed := decide (a1.q36 ≠ q)
  let a2 := { a1 with ext := min 8 (max a1.ext ((n + 31) / 32)) }
  (List.range m).foldl (fun b i => (List.range n).foldl (fun b j =>
    if mixed then { b with data := Cells.put 0 b.data (256 * i + j) (Config.mixedAcc tick (256 * i + j)) }
    else
      let r := sumBlocks q (f i j) kn ((kn + 7) / 8) 0 (a2.elem i j)
      { b with data := Cells.put 0 b.data (256 * i + j) r.1, nan := b.nan || r.2.1, ovf := b.ovf || r.2.2 }) b) a2

/-- `amov`: the value of row l and column c times 2^e in the MODE type (R197). -/
def amovWord (a : Acc) (l col : Nat) (e : Int) (typ rnd : Nat) : Word :=
  let v := (a.val l col).scale e
  if typ = 0 then BitVec.ofInt 32 (FVal.toInt rnd true 32 v) else BitVec.ofNat 32 (fp32.round rnd v)

/-- A value converted to an element of a tile (R197). -/
def amovtElem (typ rnd : Nat) (v : FVal) : Nat :=
  if typ = 7 then wrapInt 8 (FVal.toInt rnd true 8 v) else toFloatElem typ rnd v

/-- `acvt` of one element: the pattern and the NaN and overflow flags (R197). -/
def acvtElem (toQ : Bool) (e : Int) (rnd : Nat) (v : FVal) : BitVec 36 × Bool × Bool :=
  if toQ then
    match v.scale e with
    | .nan => (0, true, false)
    | .inf s => (BitVec.ofInt 36 (if s then -(prodMax : Int) else prodMax), false, true)
    | .fin s m x =>
      let q : Int := roundAt rnd s m x 0
      let y := if s then -q else q
      if y < -(2 ^ 35) then (BitVec.ofInt 36 (-(prodMax : Int)), false, true)
      else if (prodMax : Int) < y then (BitVec.ofInt 36 prodMax, false, true)
      else (BitVec.ofInt 36 y, false, false)
  else (BitVec.ofNat 36 (e36.round rnd (v.scale e)), false, false)

def Acc.convert (a : Acc) (toQ : Bool) (e : Int) (rnd : Nat) : Acc :=
  let b := { a with data := [], q36 := toQ }
  (List.range 32).foldl (fun b i => (List.range a.cols).foldl (fun b j =>
    let r := acvtElem toQ e rnd (a.val i j)
    { b with data := Cells.put 0 b.data (256 * i + j) r.1, nan := b.nan || r.2.1, ovf := b.ovf || r.2.2 }) b) b

/-- The accumulator a command names, for the check of R185, and whether it writes it (R276). -/
def MxOp.acc (m : MxOp) : Option Nat :=
  match m with
  | .tmma c _ _ | .ttr c _ | .tperm c _ _ | .tred c _ | .azero c | .acvt c _ _ _ | .asave c | .arest c => some c
  | .amov c _ _ _ _ _ | .amovt _ c _ _ => some c
  | .tmvGet .. | .tmvPut .. | .tfill .. => none

def MxOp.writesAcc (m : MxOp) : Bool :=
  match m with
  | .tmma .. | .ttr .. | .tperm .. | .tred .. | .azero _ | .acvt .. => true
  | _ => false

/-- The command's own accumulator check at a restore or a retirement: `asave` makes none (R198). -/
def MxOp.checked (m : MxOp) : Option Nat :=
  match m with
  | .asave _ => none
  | m => m.acc

/-- The products of an accumulating command, with M, K and N (R196). -/
def MxOp.products (m : MxOp) (t : Team) (c : CoreSt) :
    Option (Nat × Nat × Nat × Nat × Nat × (Nat → Nat → Nat → Option Prod)) :=
  match m with
  | .tmma k a b =>
    let A := t.tile a
    let B := t.tile b
    some (k, A.typ, A.rows, A.cols, B.cols,
      fun i j x => some (tileProduct A.typ (A.elem t c i x) A.scale (B.elem t c x j) B.scale))
  | .ttr k a =>
    let A := t.tile a
    some (k, A.typ, A.cols, A.rows, A.rows,
      fun i j x => if x = j then some (tileProduct A.typ (A.elem t c x i) A.scale (tileOne A.typ) 0) else none)
  | .tred k a =>
    let A := t.tile a
    some (k, A.typ, A.rows, A.cols, 1,
      fun i _ x => some (tileProduct A.typ (A.elem t c i x) A.scale (tileOne A.typ) 0))
  | .tperm k a idx =>
    let A := t.tile a
    some (k, A.typ, 32, A.rows, A.cols,
      fun i j x => if idx.getD i none = some x then
        some (tileProduct A.typ (tileOne A.typ) 0 (A.elem t c x j) A.scale) else none)
  | _ => none

/-- The accumulator of a core changed. -/
def State.updAcc (s : State) (core k : Nat) (f : Acc → Acc) : State :=
  s.setCore core { s.core core with accs := (s.core core).accs.modify k f }

/-- The first matrix command of the epoch that writes an accumulator logs it (R276). -/
def State.logAcc (s : State) (session core k : Nat) : State :=
  let d := s.ses session
  if d.accUndo.any (fun e => decide (e.1 = core) && decide (e.2.1 = k)) then s
  else s.setSes session { d with accUndo := (core, k, (s.core core).accs.getD k Acc.init) :: d.accUndo }

/-- What a matrix command does, as if it ran alone (R194 to R199). Log 59 (DEDUCED). -/
def State.runMx (s : State) (core : Nat) (k : Cmd) (t : Team) (m : MxOp) : State :=
  let c := s.core core
  let acc (n : Nat) : Acc := c.accs.getD n Acc.init
  let s0 := match m.acc with
    | some n => if m.writesAcc then s.logAcc k.session core n else s
    | none => s
  match m.products t c with
  | some (n, typ, mm, kk, nn, f) => s0.updAcc core n (fun a => a.accumulate s.tick typ mm kk nn f)
  | none =>
    match m with
    | .azero n => s0.updAcc core n fun a => { a with data := [], ext := 0, q36 := false, ovf := false, nan := false }
    | .acvt n q e rnd => s0.updAcc core n (fun a => a.convert q e rnd)
    | .amov n col e typ rnd dst =>
      dst.foldl (fun s' d => s'.deliver k.gang d.1 [(d.2, amovWord (acc n) d.1 col e typ rnd)]) s0
    | .amovt tn n e rnd =>
      let T := t.tile tn
      (List.range T.rows).foldl (fun s' i => (List.range (T.rowbytes / 4)).foldl (fun s' w =>
        let x := joinElems (elemWidth T.typ) T.per fun b =>
          if w * T.per + b < T.cols then amovtElem T.typ rnd (((acc n).val i (w * T.per + b)).scale e)
          else if T.typ = 9 then 0x10 else 0
        s'.putTile core k.session t T i w (x.setWidth 32)) s') s0
    | .tmvGet tn row dst =>
      let T := t.tile tn
      dst.foldl (fun s' d => s'.deliver k.gang d.1 [(d.2, if 4 * d.1 < T.rowbytes then T.word t c row d.1 else 0)]) s0
    | .tmvPut tn row data =>
      let T := t.tile tn
      data.foldl (fun s' d => if 4 * d.1 < T.rowbytes then s'.putTile core k.session t T row d.1 d.2 else s') s0
    | .tfill tn x =>
      let T := t.tile tn
      (List.range T.rows).foldl (fun s' i => (List.range (T.rowbytes / 4)).foldl (fun s' w =>
        s'.putTile core k.session t T i w x) s') s0
    | _ => s0

/-- How the claim of R185 comes out: the session owns the accumulator, another does, the claim waits, or it has cost
the session its run (R394). -/
inductive Claim where
  | ok (s : State)
  | failed (s : State)
  | foreign (owner : Nat)
  | wait (s : State)

/-- The check of R185 with the claim it may make (R394). Log 54 (DEDUCED). Log 62 (DEDUCED). -/
def State.claim (s : State) (core k session : Nat) : Claim :=
  let a := (s.core core).accs.getD k Acc.init
  if a.valid then (if a.session = session then .ok s else .foreign a.session)
  else
    match s.claimed session core k with
    | .done b s1 => .ok (s1.updAcc core k (fun _ => b))
    | .wait s1 => .wait s1
    | .fail s1 =>
      .failed ((s1.forceReset session).updAcc core k (fun _ => { Acc.init with valid := true, session := session }))

/-- What a matrix instruction comes to: its command, the tiles it names with their shape requirements, the row it
names, and its accumulator with tile A's type where it accumulates (R192). -/
structure MxPlan where
  op : MxOp
  tiles : List (Nat × Bool)
  row : Option Nat
  acc : Option Nat
  family : Option Nat
  deriving DecidableEq, Repr

/-- The signed exponent fields of R197. -/
def mxExp {w : Nat} (e : BitVec w) : Int := e.toInt

/-- The plan of a matrix instruction, from the tile controls and operands at issue. -/
def mxPlan (i : Instr) (v : View) (sh : Shape) (t : Team) : Option MxPlan :=
  let T (n : BitVec 4) : TileView := t.tile n.toNat
  let rnd := modeRnd v.mode
  match i with
  | .tmma c a b =>
    some ⟨.tmma c.toNat a.toNat b.toNat,
      [(a.toNat, decide ((T a).rows ≤ 32)), (b.toNat, decide ((T a).cols = (T b).rows) && decide ((T b).typ = (T a).typ))],
      none, some c.toNat, some a.toNat⟩
  | .ttr c a => some ⟨.ttr c.toNat a.toNat, [(a.toNat, decide ((T a).cols ≤ 32))], none, some c.toNat, some a.toNat⟩
  | .tred c a => some ⟨.tred c.toNat a.toNat, [(a.toNat, decide ((T a).rows ≤ 32))], none, some c.toNat, some a.toNat⟩
  | .tperm c a _ =>
    let idx := (List.range 32).map fun l =>
      if v.act.getLsbD l then
        let x := ((v.opB sh l).setWidth 32 : Word).toNat
        if x < (T a).rows then some x else none
      else none
    some ⟨.tperm c.toNat a.toNat idx, [(a.toNat, true)], none, some c.toNat, some a.toNat⟩
  | .azero c => some ⟨.azero c.toNat, [], none, some c.toNat, none⟩
  | .amov d e c col =>
    some ⟨.amov c.toNat col.toNat (mxExp e) (modeType v.mode) rnd ((lanesOf v.act).map (fun l => (l, d.toNat * 32 + l))),
      [], none, some c.toNat, none⟩
  | .amovt tn c e =>
    some ⟨.amovt tn.toNat c.toNat (mxExp e) rnd, [(tn.toNat, decide ((T tn).rows ≤ 32))], none, some c.toNat, none⟩
  | .acvt c f e => some ⟨.acvt c.toNat (f.getLsbD 0) (mxExp e) rnd, [], none, some c.toNat, none⟩
  | .asave c => some ⟨.asave c.toNat, [], none, none, none⟩
  | .arest c => some ⟨.arest c.toNat, [], none, some c.toNat, none⟩
  | .tmvGet d tn row =>
    some ⟨.tmvGet tn.toNat row.toNat ((lanesOf v.act).map (fun l => (l, d.toNat * 32 + l))), [(tn.toNat, true)],
      some row.toNat, none, none⟩
  | .tmvPut _ tn row =>
    some ⟨.tmvPut tn.toNat row.toNat ((lanesOf v.act).map (fun l => (l, ((v.opC sh l).setWidth 32 : Word)))),
      [(tn.toNat, true)], some row.toNat, none, none⟩
  | .tfill tn _ => some ⟨.tfill tn.toNat ((v.opB sh 0).setWidth 32), [(tn.toNat, true)], none, none, none⟩
  | _ => none

/-- Items 4 and 5 of R192 for the tiles of a plan (R193, R199): cause and INFO of the first that fails. -/
def MxPlan.tileTrap (p : MxPlan) (t : Team) : Option (BitVec 8 × BitVec 16) :=
  match p.tiles.find? (fun e => !(t.tile e.1).inArea t || p.row.any (fun r => decide ((t.tile e.1).rows ≤ r))) with
  | some e => some (0x40, BitVec.ofNat 16 (0x100 + e.1))
  | none =>
    match p.tiles.find? (fun e => !tileType (t.tile e.1).typ || !e.2) with
    | some e => some (0x44, BitVec.ofNat 16 (0x100 + e.1))
    | none => none

/-- The family check of R195 on an accumulator as the claim leaves it. -/
def MxPlan.familyTrap (p : MxPlan) (t : Team) (a : Acc) : Option (BitVec 8 × BitVec 16) :=
  match p.family with
  | some n =>
    if a.ext ≠ 0 ∧ a.q36 ≠ familyQ (t.tile n).typ then some (0x44, BitVec.ofNat 16 (0x100 + n)) else none
  | none => none

/-- How items 4 to 8 of R192 come out: the state with the claim made, a trap, a wait for the claim, or the end of the
session with a claim that failed. -/
inductive MxCheck where
  | go (s : State)
  | dealt (s : State)
  | trap (cause : BitVec 8) (info : BitVec 16) (s : State)
  | wait (s : State)

/-- Items 7 and 8 of R192. -/
def State.checkAcc (s : State) (v : View) (t : Team) (p : MxPlan) : MxCheck :=
  match p.acc with
  | none => .go s
  | some k =>
    match s.claim v.cur.gang.core k (v.core.sessionOf v.gang) with
    | .wait s1 => .wait s1
    | .failed s1 => .dealt s1
    | .foreign o => .trap 0x41 (BitVec.ofNat 16 (k * 16384 + o % 4096)) s
    | .ok s1 =>
      match p.familyTrap t ((s1.core v.cur.gang.core).accs.getD k Acc.init) with
      | some (c, i) => .trap c i s1
      | none => .go s1

/-- A command pushed into a queue of the core by the present sequence, its counter advanced (R175, R179). -/
def State.push (s : State) (v : View) (q : Nat) (op : CmdOp) (ch : Nat) : State :=
  let core := v.cur.gang.core
  let c := s.core core
  let k : Cmd :=
    { id := s.nextId, gang := v.cur.gang, team := v.gang.team, session := v.core.sessionOf v.gang,
      level := v.core.level v.gang, pc := v.cur.addr, seq := v.gang.seqs, op := op, ch := ch, fired := false, pos := 0,
      landed := [], stall := none, stallAt := 0, done := false, held := false, buf := [], inSlot := none, outSlot := none }
  let s1 := s.fresh.setCore core { c with queues := c.queues.modify q (· ++ [k]) }
  (s1.updGang v.cur.gang (fun x => x.count q)).post (.commandFire core q k.id)

/-- The waits before a push (R192): the counter, then the queue. -/
def State.pushWait (s : State) (v : View) (q : Nat) : Option WaitReason :=
  if 63 ≤ v.gang.counters.getD q 0 then some .acount
  else if Config.queueDepth.getD q 0 ≤ (s.core v.cur.gang.core).queued q then some .engine
  else none

/-- A matrix instruction issues (R190, R192). -/
def matrixOp (i : Instr) (dst : MxOp → Dest) (s : State) : Host.Outcome State Fault Refusal :=
  issueChecked i s fun v sh s1 go =>
    if v.act = 0 then (go s1).retire
    else
      match v.core.team? v.gang.team with
      | none => s1
      | some t =>
        match mxPlan i v sh t with
        | none => s1
        | some p =>
          match p.tileTrap t with
          | some (c, info) => s1.trapNow c info (v.tlanes sh) 0
          | none =>
            match s1.checkAcc v t p with
            | .trap c info s2 => s2.trapNow c info (v.tlanes sh) 0
            | .wait s2 => s2.hold .engine
            | .dealt s2 => s2
            | .go s2 =>
              match s2.pushWait v 1 with
              | some r => s2.hold r
              | none => (((go s2).expect (dst p.op)).push v 1 (.matrix p.op) 0).retire

/-- The destination copies of `amov` and `tmv.get`, empty from issue (R34). -/
def MxOp.dests (m : MxOp) : Dest :=
  match m with
  | .amov _ _ _ _ _ d | .tmvGet _ _ d => d.map (fun e => (e.1, [e.2]))
  | _ => []

def noDest (_ : MxOp) : Dest := []

/-- `tmma` (R196). -/
def execTmma (c : BitVec 2) (a b : BitVec 4) (s : State) : Host.Outcome State Fault Refusal :=
  matrixOp (.tmma c a b) noDest s

/-- `ttr` (R196). -/
def execTtr (c : BitVec 2) (a : BitVec 4) (s : State) : Host.Outcome State Fault Refusal :=
  matrixOp (.ttr c a) noDest s

/-- `tperm` (R196). -/
def execTperm (c : BitVec 2) (a : BitVec 4) (b : Reg) (s : State) : Host.Outcome State Fault Refusal :=
  matrixOp (.tperm c a b) noDest s

/-- `tred` (R196). -/
def execTred (c : BitVec 2) (a : BitVec 4) (s : State) : Host.Outcome State Fault Refusal :=
  matrixOp (.tred c a) noDest s

/-- `azero` (R197). -/
def execAzero (c : BitVec 2) (s : State) : Host.Outcome State Fault Refusal :=
  matrixOp (.azero c) noDest s

/-- `amov` (R197). -/
def execAmov (d : Reg) (e : BitVec 6) (c : BitVec 2) (col : BitVec 8) (s : State) :
    Host.Outcome State Fault Refusal :=
  matrixOp (.amov d e c col) MxOp.dests s

/-- `amovt` (R197). -/
def execAmovt (t : BitVec 4) (c : BitVec 2) (e : BitVec 8) (s : State) : Host.Outcome State Fault Refusal :=
  matrixOp (.amovt t c e) noDest s

/-- `acvt` (R197). -/
def execAcvt (c : BitVec 2) (f : BitVec 1) (e : BitVec 8) (s : State) : Host.Outcome State Fault Refusal :=
  matrixOp (.acvt c f e) noDest s

/-- `tmv.get` (R199). -/
def execTmvGet (d : Reg) (t : BitVec 4) (row : BitVec 8) (s : State) : Host.Outcome State Fault Refusal :=
  matrixOp (.tmvGet d t row) MxOp.dests s

/-- `tmv.put` (R199). -/
def execTmvPut (d : Reg) (t : BitVec 4) (row : BitVec 8) (s : State) : Host.Outcome State Fault Refusal :=
  matrixOp (.tmvPut d t row) noDest s

/-- `tfill` (R199). -/
def execTfill (t : BitVec 4) (b : Reg) (s : State) : Host.Outcome State Fault Refusal :=
  matrixOp (.tfill t b) noDest s

/-- `arest` claims the accumulator at once (R198). -/
def execArest (c : BitVec 2) (s : State) : Host.Outcome State Fault Refusal :=
  matrixOp (.arest c) noDest s

/-- An unretired matrix command of a session on a core names accumulator k (R185, R202). -/
def State.accBusy (s : State) (core k session : Nat) : Bool :=
  (s.coreCmds core session).any fun c => match c.op with
    | .matrix m => decide (m.acc = some k) && !c.held
    | _ => false

/-- The accumulator after it has been spilled, or lost to a force-reset (R185, R394). -/
def State.disown (s : State) (core k : Nat) : State := s.updAcc core k (fun a => { a with valid := false })

/-- `asave` (R185, R198): it waits until the owner's commands that name the accumulator have retired, writes the
image of the accumulator to the owner's save area and gives it up. Log 60 (DEDUCED). -/
def execAsave (c : BitVec 2) (s : State) : Host.Outcome State Fault Refusal :=
  issueChecked (.asave c) s fun v _ s1 go =>
    let core := v.cur.gang.core
    let k := c.toNat
    let a := v.core.accs.getD k Acc.init
    let fin (t : State) : State :=
      if (t.gang? v.cur.gang).isNone then t else ((go t).push v 1 (.matrix (.asave k)) 0).retire
    if v.act = 0 then (go s1).retire
    else
      match s1.pushWait v 1 with
      | some r => s1.hold r
      | none =>
        if !a.valid then fin s1
        else if s1.accBusy core k a.session then s1.hold .engine
        else
          match s1.spill core k a with
          | .wait s2 => s2.hold .engine
          | .fail s2 => fin ((s2.forceReset a.session).disown core k)
          | .done _ s2 => fin (s2.disown core k)

/-- A matrix command checked again by R185 before it goes on (R213): it may go on, it waits for its claim, or it
is held and its gang is to trap. Log 61 (DEDUCED). -/
def State.recheck (s : State) (core : Nat) (k : Cmd) (m : MxOp) : Claim :=
  match m.checked with
  | none => .ok s
  | some n =>
    match s.claim core n k.session with
    | .ok s1 => .ok s1
    | .failed s1 => .failed s1
    | .wait s1 => .wait s1
    | .foreign o =>
      let hold (j : Cmd) : Cmd := if j.id = k.id then { j with held := true } else j
      let c := s.core core
      .wait ((s.setCore core { c with queues := c.queues.map (List.map hold), follow := c.follow.map hold }).updGang
        k.gang (fun x => if (n, o) ∈ x.foreign then x else { x with foreign := x.foreign ++ [(n, o)] })
        |>.postOnce (.unitFaultTrap k.gang))

/-- A session has a team resident on a core. -/
def CoreSt.hosts (c : CoreSt) (n : Nat) : Bool := c.teams.any (fun e => decide (e.2.session = n))

/-- The array of a core is reset (R187): matrix commands discarded, their pending deliveries lost, accumulators
given up, every gang of the core's teams ended with MX_RESET, and their sessions rolled back. -/
def execMxReset (s : State) : Host.Outcome State Fault Refusal :=
  match s.ev with
  | .mxReset core =>
    let c := s.core core
    if c.mxIdle < Config.arrayLimit then .next s
    else
      let mine := ((c.queues.getD 1 []) ++ c.follow).filter Cmd.isMatrix
      let lost := mine.flatMap fun k => match k.op with
        | .matrix m => m.dests.flatMap fun e => e.2.filterMap fun w =>
            match c.gang? k.gang with
            | some x => if c.copy x w = .empty (.delivery k.gang e.1) then some (c.phys x w) else none
            | none => none
        | _ => []
      let c1 : CoreSt :=
        { c with
          queues := c.queues.set 1 [], follow := [], mxIdle := 0
          accs := c.accs.map (fun a => { a with valid := false, lost := true }) }
      let s1 := s.setCore core (c1.lose lost)
      let s2 := (c.refs core).foldl (fun s' g => s'.fatalBy g 0x42 0) s1
      .next (c.teams.foldl (fun s' e => s'.postOnce (.rollback e.2.session)) s2)
  | _ => .next s

end Sys2Proof.Machine
end

