-- ==== Sys2Proof/Machine/Pipeline.lean ====
section
/-! DEFINITION. Pipelines, stage queues, instances and task graphs (R263 to R272, R274, R395): the record port,
the start of an instance, the end of a team, the steps of a graph and launch words. -/

namespace Sys2Proof.Machine

/-- An event put back at the front of the agenda: it keeps its place before the later calls of its queue. -/
def State.again (s : State) (e : Event) : State := { s with agenda := e :: s.agenda }

/-- What names a pipeline in a crew or launch: its session and number. -/
def pipeKey (n num : Nat) : Nat := n * 2 ^ 20 + num

def State.pipe? (s : State) (n num : Nat) : Option Pipeline := (s.ses n).pipes.find? (fun p => decide (p.num = num))

def State.graph? (s : State) (n num : Nat) : Option Graph := (s.ses n).graphs.find? (fun g => decide (g.num = num))

def State.updPipe (s : State) (n num : Nat) (f : Pipeline → Pipeline) : State :=
  let d := s.ses n
  s.setSes n { d with pipes := d.pipes.map (fun p => if p.num = num then f p else p) }

def State.updGraph (s : State) (n num : Nat) (f : Graph → Graph) : State :=
  let d := s.ses n
  s.setSes n { d with graphs := d.graphs.map (fun g => if g.num = num then f g else g) }

/-- Queue q of a pipeline changed. -/
def Pipeline.updQueue (p : Pipeline) (q : Nat) (f : StageQueue → StageQueue) : Pipeline :=
  { p with queues := p.queues.mapIdx (fun i x => if i = q then f x else x) }

def Pipeline.updStage (p : Pipeline) (i : Nat) (f : Stage → Stage) : Pipeline :=
  { p with stages := p.stages.mapIdx (fun k x => if k = i then f x else x) }

/-- The state of a record set. -/
def StageQueue.setRec (q : StageQueue) (seq : Nat) (r : RecState) : StageQueue :=
  { q with records := q.records.map (fun e => if e.1 = seq then (seq, r) else e) }

/-- The address of the slot of a record (R265). -/
def StageQueue.slotAt (q : StageQueue) (seq : Nat) : Nat := q.backing.toNat + seq % q.depth * q.rsz

/-- Free slots of a queue (R267 item 1). -/
def StageQueue.free (q : StageQueue) : Nat := q.depth - q.records.length

/-- The next `c` slots in ring order are free (R267 item 1). Log 79 (DEDUCED). -/
def StageQueue.hasRoom (q : StageQueue) (c : Nat) : Bool :=
  decide (c ≤ q.free) && q.records.all (fun e => decide (q.nextSeq + c ≤ e.1 + q.depth))

/-- The header that the CP writes at commit (R265). -/
def headerBytes (void : Bool) (stage seq : Nat) : List Byte :=
  bytesOf ((if void then 1 else 0) + 65536 * stage) 4 ++ bytesOf (seq % 2 ^ 32) 4

/-- Records reserved under an identifier by a team. -/
def StageQueue.reservedBy (q : StageQueue) (p : Nat → Nat → Bool) : List Nat :=
  q.records.filterMap fun e => match e.2 with
    | .reserved r t => if p r t then some e.1 else none
    | _ => none

/-- Records committed one by one, each header first (R267 item 6). -/
def State.commitRecs (n num qi stage : Nat) (void : Bool) : List Nat → State → Dev Unit
  | [], s => .done () s
  | seq :: r, s =>
    match s.pipe? n num with
    | none => .done () s
    | some p =>
      match p.queues[qi]? with
      | none => .done () s
      | some q =>
        match s.devStore p.die n (q.slotAt seq) (headerBytes void stage seq) true .graph with
        | .wait s1 => .wait s1
        | .fail s1 => .fail s1
        | .done _ s1 =>
          State.commitRecs n num qi stage void r
            (s1.updPipe n num (fun p => p.updQueue qi (fun q => q.setRec seq (.committed void))))

/-- The crew that holds a team, by the model's number of the team's residence. -/
def State.crewOfTeam (s : State) (tid : Nat) : Option Crew :=
  s.crews.find? fun c => c.residents.any fun r => (s.team? r.2.1 r.2.2).any (fun t => decide (t.tid = tid))

/-- The stage of a pipeline that a team is an instance of. -/
def State.stageOf (s : State) (tid key : Nat) : Nat :=
  match s.crewOfTeam tid with
  | some c => if c.pipe = some key then c.stage else 0
  | none => 0

/-- The graphs of a session look at their phases again. Log 80 (DEDUCED). -/
def State.graphSteps (s : State) (n : Nat) : State :=
  ((s.ses n).graphs.filter (fun g => decide (g.state = 1 ∨ g.state = 2))).foldl
    (fun s' g => s'.postOnce (.phaseComplete n g.num)) s

/-- A record-port call is malformed (R266). -/
def badRecordCall (ws : List Word) : Bool :=
  let w := ws.getD 1 0
  let op := fieldNat w 0 2
  decide (op = 0) || decide (op = 3) || decide (ws.length < op + 1) ||
  decide (fieldNat w 2 6 ≠ 0) || decide (fieldNat w 16 16 ≠ 0) ||
  (if op = 1 then decide (fieldNat w 8 8 = 0) else decide (fieldNat w 8 8 ≠ 0))

/-- The queue of a session's pipeline that an endpoint number names. -/
def Pipeline.queueOf (p : Pipeline) (ep : Nat) : Option (Nat × StageQueue) :=
  (p.queues.zipIdx.find? (fun e => decide (e.1.ep = ep))).map (fun e => (e.2, e.1))

/-- The pipeline, queue number and queue of a call whose pipeline runs a phase. -/
def State.callQueue (s : State) (x : Call) : Option (Pipeline × Nat × StageQueue) :=
  match (s.ses x.session).pipeOf x.ep with
  | none => none
  | some p => if p.phase = none then none else (p.queueOf x.ep).map (fun e => (p, e.1, e.2))

/-- RESERVE (R266, R267). -/
def execRecordReserve (s : State) : Host.Outcome State Fault Refusal :=
  match s.ev with
  | .recordReserve x =>
    if badRecordCall x.words then .next (s.post (.returnRecord (record x 2 0 [])))
    else
      match s.callQueue x with
      | none => .next (s.post (.returnRecord (record x 0 0 [3])))
      | some (p, qi, q) =>
        let c := fieldNat (x.words.getD 1 0) 8 8
        if !q.hasRoom c then .next (s.post (.returnRecord (record x 0 0 [1])))
        else
          let new := (List.range c).map (fun i => (q.nextSeq + i, RecState.reserved p.nextRid x.team))
          let s1 := s.updPipe x.session p.num fun p =>
            { p.updQueue qi (fun q => { q with nextSeq := q.nextSeq + c, records := q.records ++ new }) with
              nextRid := p.nextRid + 1 }
          .next (s1.post (.returnRecord (record x 0 0 [0, BitVec.ofNat 32 p.nextRid, BitVec.ofNat 32 q.nextSeq])))
  | _ => .next s

/-- COMMIT (R266, R267). -/
def execRecordCommit (s : State) : Host.Outcome State Fault Refusal :=
  match s.ev with
  | .recordCommit x =>
    if badRecordCall x.words then .next (s.post (.returnRecord (record x 2 0 [])))
    else
      match s.callQueue x with
      | none => .next (s.post (.returnRecord (record x 0 0 [3])))
      | some (p, qi, q) =>
        match q.reservedBy (fun r t => decide (BitVec.ofNat 32 r = x.words.getD 2 0) && decide (t = x.team)) with
        | [] => .next (s.post (.returnRecord (record x 0 0 [2])))
        | seqs =>
          match State.commitRecs x.session p.num qi (s.stageOf x.team (pipeKey x.session p.num)) false seqs s with
          | .done _ s1 => .next ((s1.post (.returnRecord (record x 0 0 [0]))).graphSteps x.session)
          | .wait s1 => .next (s1.again (.recordCommit x))
          | .fail s1 => .next (s1.postOnce (.rollback x.session))
  | _ => .next s

/-- Launches of a stage that have been made and stand on the agenda. -/
def pendingLaunch (key stage : Nat) (e : Event) : Bool :=
  match e with
  | .teamLaunch x | .crewLaunch x => decide (x.pipe = some key) && decide (x.stage = stage)
  | _ => false

/-- Running instances of a stage (R268): resident, saved, or about to be launched. -/
def State.running (s : State) (key stage : Nat) : Nat :=
  let mine (c : Crew) : Bool := decide (c.pipe = some key) && decide (c.stage = stage)
  (s.crews.filter mine).length + (s.saved.filter (fun v => mine v.crew)).length +
    (s.agenda.filter (pendingLaunch key stage)).length

/-- No instance of a pipeline runs. -/
def State.pipeEmpty (s : State) (n : Nat) (p : Pipeline) : Bool :=
  (List.range p.stages.length).all (fun i => decide (s.running (pipeKey n p.num) i = 0))

/-- The run of committed records from the first on: to BATCH records, slot DEPTH − 1, or the last before one
that is not committed (R268). -/
def batchRun (depth : Nat) : Nat → List (Nat × RecState) → List Nat
  | 0, _ => []
  | _, [] => []
  | k + 1, e :: r =>
    match e.2 with
    | .committed _ =>
      e.1 :: (if e.1 % depth = depth - 1 then [] else
        match r with
        | [] => []
        | f :: _ => if f.1 = e.1 + 1 then batchRun depth k r else [])
    | _ => []

def RecState.isCommitted (r : RecState) : Bool :=
  match r with
  | .committed _ => true
  | _ => false

def RecState.isReserved (r : RecState) : Bool :=
  match r with
  | .reserved .. => true
  | _ => false

/-- Source instances that a phase still has to start. -/
def Pipeline.sources (p : Pipeline) : Nat := (p.stages.map (·.srcLeft)).sum

/-- The ready batch of a consumer stage (R268): full, or short when nothing more can come. -/
def State.batch? (s : State) (n : Nat) (p : Pipeline) (st : Stage) : Option (List Nat) :=
  match p.queues[st.inq]? with
  | none => none
  | some q =>
    let b := batchRun q.depth st.batch (q.records.dropWhile (fun e => !e.2.isCommitted))
    if b = [] then none
    else if b.length = st.batch then some b
    else if q.records.any (fun e => e.2.isReserved) || decide (p.sources ≠ 0) ||
        (p.stages.zipIdx).any (fun t => decide (t.1.outq = st.inq) && decide (s.running (pipeKey n p.num) t.2 ≠ 0))
      then none
    else some b

/-- Why a stage starts no instance, its room apart (R268, R269). -/
inductive StageWhy where
  | go | started | max | full | empty
  deriving DecidableEq, Repr

def State.stageWhy (s : State) (n : Nat) (p : Pipeline) (i : Nat) (st : Stage) : StageWhy :=
  if st.inq = 31 ∧ st.srcLeft = 0 then .started
  else if st.maxinst ≤ s.running (pipeKey n p.num) i then .max
  else if st.outq ≠ 31 ∧ (p.queues[st.outq]?).any (fun q => decide (q.free < st.outneed)) then .full
  else if st.inq ≠ 31 ∧ s.batch? n p st = none then .empty
  else .go

/-- The launch of a stage's record on cores of a cluster, with no argument yet. -/
def stageLaunch (st : Stage) (key i die cluster : Nat) (cores : List Nat) : Launch :=
  { die := die, cluster := cluster, cores := cores, record := st.record, cmcore := st.cmcore, dbgstart := st.dbgstart,
    dbgarea := st.dbgarea, session := st.record.session, inst := 0, arg := 0, isCrew := st.crew, pipe := some key,
    stage := i }

/-- A cluster has room for one instance of a stage (R165, R215). -/
def State.clusterFits (s : State) (st : Stage) (die cluster : Nat) : Bool :=
  decide (st.members ≤ ((List.range 8).filter (fun k =>
    s.launchFits (stageLaunch st 0 0 die cluster [coreIndex die cluster k]))).length)

/-- A stage that may start an instance now: graph, pipeline, stage, and its key in the order of R274. -/
structure Candidate where
  graph : Nat
  pipe : Pipeline
  idx : Nat
  stage : Stage
  key : List Nat
  deriving DecidableEq, Repr

/-- Input occupancy of a stage in parts of 65,536 (R274). -/
def Pipeline.occupancy (p : Pipeline) (st : Stage) : Nat :=
  match p.queues[st.inq]? with
  | some q => (q.records.filter (fun e => e.2.isCommitted)).length * 65536 / q.depth
  | none => 65536

/-- The order of R274 in the die's mode. -/
def State.stageKey (s : State) (n : Nat) (p : Pipeline) (i : Nat) (st : Stage) (graph : Nat) : List Nat :=
  let few := if s.running (pipeKey n p.num) i < st.mincores then 0 else 1
  let occ := 65536 - p.occupancy st
  if (s.die p.die).mode = 1 then [few, st.epr, occ, i, graph] else [few, occ, i, graph]

def listBefore : List Nat → List Nat → Bool
  | a :: r, b :: t => if a = b then listBefore r t else decide (a < b)
  | _, _ => false

def bestCandidate : List Candidate → Option Candidate
  | [] => none
  | c :: r =>
    match bestCandidate r with
    | some b => if listBefore b.key c.key then some b else some c
    | none => some c

/-- The running graphs of a session whose node has its pipeline's phase. -/
def State.phases (s : State) (n : Nat) : List (Graph × Pipeline) :=
  (s.ses n).graphs.filterMap fun g =>
    if (g.state = 1 ∨ g.state = 2) ∧ !g.waiting then
      match s.pipe? n ((g.nodes.getD g.node default).1) with
      | some p => if p.phase = some (g.num, g.node) then some (g, p) else none
      | none => none
    else none

/-- The stages of a session that are eligible on a die (R268). -/
def State.candidates (s : State) (n die : Nat) : List Candidate :=
  (s.phases n).flatMap fun gp =>
    gp.2.stages.zipIdx.filterMap fun t =>
      if s.stageWhy n gp.2 t.2 t.1 = .go ∧
          (s.allowedClusters t.1.record.session die).any (s.clusterFits t.1 die) then
        some ⟨gp.1.num, gp.2, t.2, t.1, s.stageKey n gp.2 t.2 t.1 gp.1.num⟩
      else none

/-- A session whose instances start (R275, R277, R278, R367). -/
def State.mayStart (s : State) (n die : Nat) : Bool :=
  decide (s.sesHome n = die) && decide (s.sesState n = 2) && s.sesLaunchable n &&
  !s.saved.any (fun v => decide (v.crew.session = n)) && (s.ses n).attempt.isNone

/-- The bytes that an instance needs from session memory: the flags of its batch's last header, or its ARG.
Log 72 (DEDUCED). -/
def State.instanceArg (s : State) (n : Nat) (c : Candidate) (g : Graph) : Dev (List Nat × Nat × DWord) :=
  let die := c.pipe.die
  if c.stage.inq = 31 then
    match s.devRead die n (g.argtab.toNat + 8 * g.argsel) 8 .graph with
    | .wait s1 => .wait s1
    | .fail s1 => .fail s1
    | .done bs s1 => .done ([], c.stage.srcNext, BitVec.ofNat 64 (natOfBytes bs)) s1
  else
    match c.pipe.queues[c.stage.inq]?, s.batch? n c.pipe c.stage with
    | some q, some b =>
      let last := q.slotAt (b.getLastD 0)
      match s.devRead die n last 4 .graph with
      | .wait s1 => .wait s1
      | .fail s1 => .fail s1
      | .done bs s1 =>
        match s1.devStore die n last (bytesOf (setField (BitVec.ofNat 32 (natOfBytes bs)) 1 1 1).toNat 4) true .graph with
        | .wait s2 => .wait s2
        | .fail s2 => .fail s2
        | .done _ s2 => .done (b, b.headD 0 % 2 ^ 32, BitVec.ofNat 64 (q.slotAt (b.headD 0))) s2
    | _, _ => .wait s

/-- An instance of an eligible stage starts on the cores given (R268). -/
def State.startInstance (s : State) (n : Nat) (c : Candidate) (cluster : Nat) (cores : List Nat) : State :=
  let x := stageLaunch c.stage (pipeKey n c.pipe.num) c.idx c.pipe.die cluster cores
  match s.graph? n c.graph with
  | none => s
  | some g =>
    if !s.launchFits x ∨ cores.length ≠ c.stage.members then s
    else
      match s.instanceArg n c g with
      | .wait s1 => s1
      | .fail s1 => s1.postOnce (.rollback n)
      | .done (b, inst, arg) s1 =>
        let s2 := s1.updPipe n c.pipe.num fun p =>
          if c.stage.inq = 31 then
            p.updStage c.idx (fun t => { t with srcLeft := t.srcLeft - 1, srcNext := t.srcNext + 1 })
          else
            p.updQueue c.stage.inq (fun q =>
              { q with records := q.records.map (fun e => if e.1 ∈ b then (e.1, .taken inst) else e) })
        let y := { x with inst := inst, arg := arg }
        (s2.updGraph n c.graph (fun g => { g with state := 1, stage := 0, waitr := 0 })).post
          (if c.stage.crew then .crewLaunch y else .teamLaunch y)

/-- The CP starts an instance (R274): of the first eligible stage of a session that the device chooses, if the
place is one it allows. -/
def execInstanceStart (s : State) : Host.Outcome State Fault Refusal :=
  match s.ev with
  | .instanceStart die cluster mask =>
    if (s.die die).mode = 2 then .next s
    else
      let ns := (s.sess.map (·.1)).filter (fun n => s.mayStart n die && decide (s.candidates n die ≠ []))
      match ns[(Config.placement s.tick).2 % ns.length]? with
      | none => .next s
      | some n =>
        match bestCandidate (s.candidates n die) with
        | none => .next s
        | some c =>
          if cluster ∈ s.allowedClusters c.stage.record.session die then
            .next (s.startInstance n c cluster
              (((List.range 8).filter (fun k => mask.getLsbD k)).map (coreIndex die cluster)))
          else .next s
  | _ => .next s

/-- A session with no running graph and no team ends its fleets, and is IDLE if it ran (R272, R336). Log 73 (DEDUCED). -/
def State.endFleets (s : State) (n : Nat) : State :=
  let d := s.ses n
  if d.graphs.any (fun g => decide (g.state = 1 ∨ g.state = 2)) || decide (s.sesCrews n ≠ []) ||
      s.saved.any (fun v => decide (v.crew.session = n)) || s.agenda.any (launchOf n) then s
  else
    let s1 := s.setSes n { d with fleets := [], shelf := [] }
    if s1.sesState n = 2 then s1.setSesState n 1 else s1

/-- Every store of teams of a session that have exited is performed (R269). -/
def State.storesDone (s : State) (n : Nat) : Bool :=
  let late (a : Access) : Bool := decide (a.session = n) && (s.gang? a.gang).isNone
  !(s.agenda.any (fun e => match e with | .accessAtHome a => late a | _ => false)) &&
  !s.queuedAccess late

/-- The phase of a pipeline is over (R269). -/
def State.phaseOver (s : State) (n : Nat) (p : Pipeline) : Bool :=
  s.pipeEmpty n p && decide (p.sources = 0) &&
  p.queues.all (fun q => q.records.all (fun e => !e.2.isReserved && !e.2.isCommitted))

/-- The graph is STALLED (R269): no instance runs and every stage that counts is held by its queues. It names
the lowest stage and its reason. -/
def State.stalled (s : State) (n : Nat) (p : Pipeline) : Option (Nat × Nat) :=
  let ws := (p.stages.zipIdx.map (fun t => (t.2, s.stageWhy n p t.2 t.1))).filter (fun w => decide (w.2 ≠ .started))
  if s.pipeEmpty n p ∧ ws ≠ [] ∧ ws.all (fun w => decide (w.2 = .full ∨ w.2 = .empty)) then
    ws.head?.map (fun w => (w.1, if w.2 = .empty then 1 else 2))
  else none

/-- A pipeline as its phase for a node starts (R265, R268, R271). -/
def Pipeline.launched (p : Pipeline) (graph node srcs : Nat) : Pipeline :=
  { p with
    queues := p.queues.map (fun q => { q with nextSeq := 0, records := [] })
    stages := p.stages.map (fun t => { t with srcLeft := if t.inq = 31 then srcs else 0, srcNext := 0 })
    phase := some (graph, node) }

/-- A node waits for its pipeline, or starts: its result word becomes 0 and the phase begins (R271). -/
def State.startNode (s : State) (n : Nat) (g : Graph) (e : Event) : State :=
  let nd := g.nodes.getD g.node default
  match s.pipe? n nd.1 with
  | none => s
  | some p =>
    if p.phase ≠ none ∨ (s.ses n).graphs.any (fun h => h.waiting && decide ((h.nodes.getD h.node default).1 = nd.1) &&
        decide (h.queuedAt < g.queuedAt)) then s
    else
      match s.devStore p.die n (g.resbase.toNat + 4 * g.node) (bytesOf 0 4) true .graph with
      | .wait s1 => s1.post e
      | .fail s1 => s1.postOnce (.rollback n)
      | .done _ s1 =>
        ((s1.updPipe n p.num (fun p => p.launched g.num g.node nd.2.2)).updGraph n g.num
          (fun g => { g with waiting := false })).postOnce e

/-- A graph leaves a node with result word R (R271 item 3). -/
def State.leaveNode (s : State) (n : Nat) (g : Graph) (num r : Nat) : State :=
  let s1 := s.updPipe n num Pipeline.idle
  let next := (g.nodes.getD g.node default).2.1.getD (r % 4) 0xFF
  let s2 :=
    if r.testBit 31 then s1.updGraph n g.num (fun g => { g with state := 5, stage := 0, waitr := 0 })
    else if next = 0xFF then s1.updGraph n g.num (fun g => { g with state := 4, stage := 0, waitr := 0 })
    else s1.updGraph n g.num
      (fun g => { g with state := 1, node := next, stage := 0, waitr := 0, waiting := true, queuedAt := s.tick })
  (s2.graphSteps n).endFleets n

/-- A step of a running graph (R269, R271). -/
def State.graphStep (s : State) (n num : Nat) (e : Event) : State :=
  match s.graph? n num with
  | none => s
  | some g =>
    if s.sesState n ≠ 2 ∨ !(decide (g.state = 1 ∨ g.state = 2)) then s
    else if g.waiting then s.startNode n g e
    else
      match s.pipe? n ((g.nodes.getD g.node default).1) with
      | none => s
      | some p =>
        if p.phase ≠ some (num, g.node) then s
        else if s.phaseOver n p then
          if !s.storesDone n then s.post e
          else
            match s.devRead p.die n (g.resbase.toNat + 4 * g.node) 4 .graph with
            | .wait s1 => s1.post e
            | .fail s1 => s1.postOnce (.rollback n)
            | .done bs s1 => s1.leaveNode n g p.num (natOfBytes bs)
        else
          match s.stalled n p with
          | some (i, r) =>
            let s1 := s.updGraph n num (fun g => { g with state := 2, stage := i, waitr := r })
            if g.state = 2 ∧ g.stage = i ∧ g.waitr = r then s1 else { s1 with stalls := s1.stalls ++ [(n, num, i, r)] }
          | none => s.updGraph n num (fun g => { g with state := 1, stage := 0, waitr := 0 })

/-- The step PHASE_COMPLETE (R271). -/
def execPhaseComplete (s : State) : Host.Outcome State Fault Refusal :=
  match s.ev with
  | .phaseComplete n num => .next (s.graphStep n num (.phaseComplete n num))
  | _ => .next s

/-- The instance that a crew was has exited: its batch's slots are free and EPR of its stage moves
(R268, R273; log 17). -/
def State.endInstance (s : State) (c : Crew) : State :=
  match c.pipe with
  | none => s
  | some key =>
    s.updPipe (key / 2 ^ 20) (key % 2 ^ 20) fun p =>
      let mine (e : Nat × RecState) : Bool := decide (e.2 = .taken c.inst)
      match p.stages[c.stage]? with
      | none => p
      | some st =>
        let b := match p.queues[st.inq]? with
          | some q => (q.records.filter mine).length
          | none => 1
        let x := c.energy / max 1 b
        (p.updStage c.stage (fun t => { t with epr := (7 * t.epr + x) / 8 })).updQueue st.inq
          (fun q => { q with records := q.records.filter (fun e => !mine e) })

/-- The rows of a store that a range touches. -/
def rangeRows (core base n : Nat) : List Nat := (List.range (n / 128 + 2)).filterMap fun i =>
  if (base / 128 + i) * 128 < base + n then some (storeRow core ((base / 128 + i) * 128)) else none

/-- Reservations that a team holds, by pipeline and queue of its session (R267 item 5). -/
def State.reservations (s : State) (tid : Nat) : List (Nat × Nat × Nat × List Nat) :=
  s.sess.flatMap fun d => d.2.pipes.flatMap fun p => p.queues.zipIdx.filterMap fun q =>
    match q.1.reservedBy (fun _ t => decide (t = tid)) with
    | [] => none
    | seqs => some (d.1, p.num, q.2, seqs)

def State.voidAll (tid : Nat) : List (Nat × Nat × Nat × List Nat) → State → Dev Unit
  | [], s => .done () s
  | (n, num, qi, seqs) :: r, s =>
    match State.commitRecs n num qi (s.stageOf tid (pipeKey n num)) true seqs s with
    | .done _ s1 => State.voidAll tid r s1
    | .wait s1 => .wait s1
    | .fail s1 => .fail (s1.postOnce (.rollback n))

/-- A crew of which no team is resident any more ends (R215). Log 74 (DEDUCED). -/
def State.endCrew (s : State) (c : Crew) : State :=
  let n := match c.pipe with | some k => k / 2 ^ 20 | none => c.session
  let s1 := { s with crews := s.crews.filter (fun k => decide (k.id ≠ c.id)) }
  let s2 := (s1.endInstance c).answerAll (concerns [c.id] [] 0xFFFFFFFF) [statusWord 7 0]
  (((s2.graphSteps n).endFleets n).endFleets c.session)

/-- A launch word for a session (R272, R278 item 5): the status and the state. Log 76 (DEDUCED). -/
def State.launchWord (s : State) (n : Nat) (w : Word) : Nat × State :=
  match s.graph? n (fieldNat w 0 20) with
  | none => (4, s)
  | some g =>
    if fieldNat w 28 3 ≠ 0 ∨ !s.sesLaunchable n ∨ s.sesState n = 0 then (4, s)
    else if w.getLsbD 31 ∧ s.sesState n = 3 then (0, (s.setSesState n 2).graphSteps n)
    else if g.state = 1 ∨ g.state = 2 then (6, s)
    else
      let die := s.sesHome n
      let fleet := ((s.ses n).fleets ++ (s.ses n).shelf.map (·.1)).find? (fun f => decide (f.die = die))
      let room : Option State := match fleet with
        | some f => if g.cspad ≤ f.units then some s else none
        | none => s.placeFleet n ⟨die, 0, g.cspad⟩ 512 []
      match room with
      | none => (1, s)
      | some s1 =>
        let s2 := s1.updGraph n g.num fun g =>
          { g with
            state := 1, node := g.entry, stage := 0, waitr := 0, argsel := fieldNat w 20 8, waiting := true
            queuedAt := s.tick }
        (0, (if s2.sesState n = 3 then s2 else s2.setSesState n 2).postOnce (.phaseComplete n g.num))

end Sys2Proof.Machine
end

