-- ==== Sys2Proof/Machine/Cp.lean ====
section
/-! DEFINITION. The `ckp` forms (R280), registration (R167, R214, R263, R264, R270), drains, restores and time slices
(R223, R224, R275, R368), cuts (R277), budget windows, temperatures and leases (R273, R371, R381). -/

namespace Sys2Proof.Machine

/-- The result of a form of the groups `ckp`, `xlt`, `dbg` or `modg` that has acted: its registers are empty until
their delivery, for which the group waits (R393). -/
def State.formDone (s : State) (v : View) (b : Reg) (r : WaitReason) (ws : List Word) : State :=
  let d := v.dest b ws.length
  ((s.expect d).postAll (deliveries v.cur.gang d ws)).retireAwaiting r (destWord d)

/-- The uniform register words of a result. -/
def View.dstList (v : View) (b : Reg) (n : Nat) : List Nat := ((v.dest b n).headD (32, [])).2

/-- The present form is not completed: its group waits with a reason, its result's registers empty, and takes it up again
with the operands it read (R280, R393). -/
def State.holdForm (s : State) (f : FormHold) (r : WaitReason) : State :=
  (s.expect f.dst).updGang s.cur.gang (fun x => ({ x with forms := x.forms ++ [f] } : Gang).hold s.cur.entry r)

/-- The present form acts under the name with which its accesses stand in block queues (R324). -/
def State.formTurn (s : State) : State := { s with ev := .sequenceFetch s.cur.gang s.cur.entry }

/-- The issue of a form that may have to wait once it has been issued (R393): `trap` gives the cause of a check of its
own, `dst` the registers of its result, and `k` goes on with the operands read at issue; the flag says whether the form
is taken up again. -/
def issueForm (i : Instr) (s : State) (trap : View → Shape → Option (BitVec 8)) (dst : View → Dest)
    (k : View → FormHold → Bool → State → State) : Host.Outcome State Fault Refusal :=
  match s.view?.bind (fun v => (v.gang.form? v.cur.entry).map (fun f => (v, f))) with
  | some (v, f) =>
    .next (k v f true (s.formTurn.updGang v.cur.gang (fun x => { x with forms := x.forms.filter (fun h => decide (h ≠ f)) })))
  | none => issueChecked i s fun v sh s1 go =>
    match trap v sh with
    | some c => s1.trapNow c 0 (v.tlanes sh) 0
    | none => k v ⟨v.cur, i, v.opA sh 0, v.opB sh 0, dst v⟩ false (go s1).formTurn

/-- What a form's access to session memory comes to: done, a wait, or a byte that cannot be read. -/
inductive Got (α : Type) where
  | ok (x : α) (s : State)
  | wait (s : State)
  | bad (off : Nat) (s : State)

/-- A run of session memory for a form of the present group, whose cancelled FIDs its group remembers (R395). -/
def State.formSpan (s : State) (v : View) (kind va n : Nat) : Got (List (Place × Nat)) :=
  let ses := v.core.sessionOf v.gang
  let die := s.sesHome ses
  match s.span (devAsk die ses kind) va n with
  | (.ok ps, s1) => .ok ps s1
  | (.fatal _ off, s1) => .bad off s1
  | (.wait, s1) => .wait s1
  | (.absent c h off, s1) =>
    if (v.gang.group v.cur.entry).wake = (va + off) / 4096 + 1 then .bad off s1
    else .wait (s1.joinDev die ses (va + off) kind c h (.form v.cur.gang v.cur.entry))

def State.formRead (s : State) (v : View) (va n : Nat) : Got (List Word) :=
  match s.formSpan v 0 va n with
  | .ok ps s1 => .ok (wordsOfBytes (s1.readSpan ps)) s1
  | .wait s1 => .wait s1
  | .bad off s1 => .bad off s1

/-- The first failing field of a list of checks by offset. Log 78 (DEDUCED). -/
def firstBad (l : List (Nat × Bool)) : Option Nat := (l.find? (·.2)).map (·.1)

/-- A team launch record read and checked (R167), for a launcher of a level and session. -/
def parseTeam (ws : List Word) (level session : Nat) : Option TeamRec :=
  let w (o : Nat) : Word := ws.getD (o / 4) 0
  let dw (o : Nat) : Nat := (w o).toNat + 2 ^ 32 * (w (o + 4)).toNat
  let r : TeamRec :=
    { gangs := fieldNat (w 0) 0 5, slices := fieldNat (w 0) 8 4, vcount := fieldNat (w 0) 16 8, base := fieldNat (w 0) 24 2,
      mode := (w 4).setWidth 16, entry := BitVec.ofNat 55 (dw 8), handler := BitVec.ofNat 55 (dw 0x10),
      pbase := BitVec.ofNat 57 (dw 0x18), psize := (w 0x20).toNat, scratch := (w 0x24).toNat,
      captab := BitVec.ofNat 57 (dw 0x28), arg := BitVec.ofNat 64 (dw 0x30),
      session := if 2 ≤ level then fieldNat (w 0x38) 0 12 else session, tilebytes := (w 0x3C).toNat,
      tctl := (ws.drop 16).take 16, tbase := (ws.drop 32).take 16 }
  if fieldNat (w 0) 5 3 = 0 ∧ fieldNat (w 0) 12 4 = 0 ∧ fieldNat (w 0) 26 6 = 0 ∧ fieldNat (w 4) 16 16 = 0 ∧
      dw 8 < 2 ^ 55 ∧ dw 0x10 < 2 ^ 55 ∧ dw 0x18 < 2 ^ 57 ∧ dw 0x28 < 2 ^ 57 ∧ fieldNat (w 0x38) 12 20 = 0 ∧
      1 ≤ r.gangs ∧ r.gangs ≤ 16 ∧ 1 ≤ r.slices ∧ r.slices ≤ 8 ∧ r.vcount % 8 = 0 ∧ 8 ≤ r.vcount ∧ r.vcount ≤ 192 ∧
      r.base ≤ level ∧ fieldNat (w 4) 4 3 < 5 ∧ dw 0x18 % 128 = 0 ∧ r.psize % 4 = 0 ∧ r.scratch % 256 = 0 ∧
      r.tctl.all (fun c => decide (fieldNat c 20 4 = 0)) ∧
      r.tbase.all (fun c => decide (fieldNat c 20 12 = 0) && decide (fieldNat c 0 4 = 0)) ∧
      dw 0x28 % 8 = 0 ∧ r.tilebytes % 256 = 0 ∧ TeamBytes r ≤ Config.partitionMax then some r
  else none

/-- The crew's part of a crew launch record (R214): members, CMCORE, DBGSTART, TEAMREC, DBGAREA. -/
def parseCrew (ws : List Word) : Option (Nat × Nat × Bool × Nat × VAddr) :=
  let w (k : Nat) : Word := ws.getD k 0
  let m := fieldNat (w 0) 0 4
  let cm := fieldNat (w 0) 8 8
  let rec_ := (w 2).toNat + 2 ^ 32 * (w 3).toNat
  let area := (w 4).toNat + 2 ^ 32 * (w 5).toNat
  if 1 ≤ m ∧ m ≤ 8 ∧ cm ≤ 128 ∧ fieldNat (w 0) 4 4 = 0 ∧ fieldNat (w 0) 17 15 = 0 ∧ w 1 = 0 ∧ rec_ < 2 ^ 56 ∧
      rec_ % 64 = 0 ∧ area < 2 ^ 57 ∧ area % 128 = 0 ∧ (ws.drop 6).all (fun x => decide (x = 0)) then
    some (m, cm, (w 0).getLsbD 16, rec_, BitVec.ofNat 57 area)
  else none

/-- A stage entry of a pipeline descriptor (R263): its fields with the address of its record. -/
def stageFields (w : List Word) : Nat × Stage :=
  ((w.getD 0 0).toNat + 2 ^ 32 * (w.getD 1 0).toNat,
   { record := default, crew := (w.getD 2 0).getLsbD 16, members := 1, cmcore := 0, dbgstart := false, dbgarea := 0,
     inq := fieldNat (w.getD 2 0) 0 5, outq := fieldNat (w.getD 2 0) 8 5, batch := fieldNat (w.getD 2 0) 24 8,
     mincores := fieldNat (w.getD 3 0) 0 8, maxinst := fieldNat (w.getD 3 0) 8 8, outneed := fieldNat (w.getD 3 0) 16 16,
     epr := 0, srcLeft := 0, srcNext := 0 })

/-- The checks of a stage entry at offset `o` (R264). -/
def stageChecks (nq : Nat) (before : List Nat) (o : Nat) (w : List Word) : List (Nat × Bool) :=
  let w2 := w.getD 2 0
  let inq := fieldNat w2 0 5
  let outq := fieldNat w2 8 5
  [(o + 4, decide (fieldNat (w.getD 1 0) 25 7 ≠ 0)),
   (o + 8, decide (inq ≠ 31 ∧ nq ≤ inq) || decide (outq ≠ 31 ∧ nq ≤ outq) || decide (inq ≠ 31 ∧ inq ∈ before) ||
      decide (fieldNat w2 5 3 ≠ 0) || decide (fieldNat w2 13 3 ≠ 0) || decide (fieldNat w2 17 7 ≠ 0) ||
      decide (fieldNat w2 24 8 = 0)),
   (o + 12, decide (fieldNat (w.getD 3 0) 8 8 = 0))] ++
  [4, 5, 6, 7].map (fun k => (o + 4 * k, decide (w.getD k 0 ≠ 0)))

/-- A queue entry of a pipeline descriptor (R263). -/
def queueFields (w : List Word) : StageQueue :=
  { ep := 0, backing := BitVec.ofNat 57 ((w.getD 0 0).toNat + 2 ^ 32 * (w.getD 1 0).toNat),
    depth := 2 ^ fieldNat (w.getD 2 0) 0 5, rsz := fieldNat (w.getD 2 0) 8 16, nextSeq := 0, records := [] }

def queueChecks (o : Nat) (w : List Word) : List (Nat × Bool) :=
  let w2 := w.getD 2 0
  let b := (w.getD 0 0).toNat + 2 ^ 32 * (w.getD 1 0).toNat % 2 ^ 57
  let lg := fieldNat w2 0 5
  let rsz := fieldNat w2 8 16
  let badSize := decide (lg < 4) || decide (16 < lg) || decide (rsz % 16 ≠ 0) || decide (rsz < 16) || decide (4096 < rsz)
  [(o, decide (b % 4096 ≠ 0) || (!badSize && decide (2 ^ 56 < b + rsz * 2 ^ lg))),
   (o + 4, decide (fieldNat (w.getD 1 0) 25 7 ≠ 0)),
   (o + 8, badSize || decide (fieldNat w2 5 3 ≠ 0) || decide (fieldNat w2 24 8 ≠ 0)),
   (o + 12, decide (fieldNat (w.getD 3 0) 20 12 ≠ 0))] ++
  [4, 5, 6, 7].map (fun k => (o + 4 * k, decide (w.getD k 0 ≠ 0)))

/-- The words of entry i of a descriptor, `n` words each. -/
def entryWords (ws : List Word) (n i : Nat) : List Word := (ws.drop (n * i)).take n

/-- The first failing field of the entries of a pipeline descriptor. -/
def pipeBad (ns nq : Nat) (ws : List Word) : Option Nat :=
  firstBad (((List.range ns).flatMap fun i =>
    stageChecks nq ((List.range i).map (fun k => fieldNat ((entryWords ws 8 k).getD 2 0) 0 5)) (16 + 32 * i)
      (entryWords ws 8 i)) ++
    (List.range nq).flatMap fun j => queueChecks (16 + 32 * (ns + j)) (entryWords ws 8 (ns + j)))

/-- The launch record of a stage read and checked (R264): none where it is rejected. -/
def State.stageRecord (s : State) (v : View) (st : Stage) (va : Nat) : Got (Option Stage) :=
  let lvl := v.core.level v.gang
  let ses := v.core.sessionOf v.gang
  let team (s : State) (st : Stage) (va : Nat) : Got (Option Stage) :=
    if va % 64 ≠ 0 ∨ 2 ^ 56 ≤ va then .ok none s
    else
      match s.formRead v va 192 with
      | .ok ws s1 => .ok ((parseTeam ws lvl ses).map (fun r => { st with record := r })) s1
      | .wait s1 => .wait s1
      | .bad off s1 => .bad off s1
  if st.crew then
    if va % 64 ≠ 0 ∨ 2 ^ 56 ≤ va then .ok none s
    else
      match s.formRead v va 64 with
      | .ok ws s1 =>
        match parseCrew ws with
        | none => .ok none s1
        | some (m, cm, ds, tr, area) =>
          team s1 { st with members := m, cmcore := cm, dbgstart := ds, dbgarea := area } tr
      | .wait s1 => .wait s1
      | .bad off s1 => .bad off s1
  else team s st va

/-- The launch records of the stages in order: the stages, or the number of the first whose record is rejected. -/
def State.stageRecords (v : View) : Nat → List (Nat × Stage) → State → Got (Except Nat (List Stage))
  | _, [], s => .ok (.ok []) s
  | i, (va, st) :: r, s =>
    match s.stageRecord v st va with
    | .wait s1 => .wait s1
    | .bad off s1 => .bad off s1
    | .ok none s1 => .ok (.error i) s1
    | .ok (some st1) s1 =>
      match State.stageRecords v (i + 1) r s1 with
      | .ok (.ok sts) s2 => .ok (.ok (st1 :: sts)) s2
      | x => x

/-- Numbers that are unused, `k` of them, below a limit (log 24). -/
def unused (start limit k : Nat) (used : List Nat) : List Nat :=
  (((List.range (used.length + k)).map (fun i => (start + i) % limit)).filter (fun a => !decide (a ∈ used))).take k

/-- Endpoint numbers of a session: of channels and of stage queues. -/
def SessDev.endpointNumbers (d : SessDev) : List Nat :=
  d.endpoints.map (·.num) ++ d.pipes.flatMap (fun p => p.queues.map (·.ep))

/-- Sessions whose home is a die, with their device state. Log 57 (DEDUCED). -/
def State.homed (s : State) (die : Nat) : List (Nat × SessDev) := s.sess.filter (fun e => decide (s.sesHome e.1 = die))

/-- `k` further endpoints fit the die and the quota of the partition, which governs the sessions of its range (R280,
R367). -/
def State.endpointsFit (s : State) (n k : Nat) : Bool :=
  let die := s.sesHome n
  let p := s.sesPart n
  let count (l : List (Nat × SessDev)) : Nat := (l.map (fun e => e.2.endpointNumbers.length)).sum
  decide (count (s.homed die) + k ≤ Config.maxEndpoints) &&
  (!s.sesLaunchable n || decide (count ((s.homed die).filter (fun e => decide (s.sesPart e.1 = p) && s.partHolds p e.1)) + k ≤
    fieldNat (s.partWord p (6 + 4 * die)) 0 15))

/-- The endpoint numbers of the new queues written into the descriptor (R263). -/
def State.writeEndpoints (v : View) (va : Nat) : Nat → List Nat → State → Got Unit
  | _, [], s => .ok () s
  | off, ep :: r, s =>
    match s.formSpan v 1 (va + off) 4 with
    | .wait s1 => .wait s1
    | .bad _ s1 => .bad off s1
    | .ok ps s1 =>
      State.writeEndpoints v va (off + 32) r (s1.writeSpan none true (v.core.sessionOf v.gang) ps (bytesOf ep 4))

/-- The words of a descriptor: a header, whose check gives its first failing field, and a body of a length the
header gives. -/
def State.readDescriptor (s : State) (v : View) (va hn : Nat) (bad : List Word → Option Nat) (body : List Word → Nat) :
    Got (Except Nat (List Word × List Word)) :=
  match s.formRead v va hn with
  | .wait s1 => .wait s1
  | .bad off s1 => .bad off s1
  | .ok h s1 =>
    match bad h with
    | some off => .ok (.error off) s1
    | none =>
      match s1.formRead v (va + hn) (body h) with
      | .wait s2 => .wait s2
      | .bad off s2 => .bad (hn + off) s2
      | .ok ws s2 => .ok (.ok (h, ws)) s2

/-- The header checks of a pipeline descriptor. -/
def pipeHeadBad (h : List Word) : Option Nat :=
  firstBad [(0, decide (fieldNat (h.getD 0 0) 4 4 ≠ 0) || decide (fieldNat (h.getD 0 0) 13 19 ≠ 0) ||
      decide (16 < fieldNat (h.getD 0 0) 8 5)),
    (4, decide (h.getD 1 0 ≠ 0)), (8, decide (h.getD 2 0 ≠ 0)), (12, decide (h.getD 3 0 ≠ 0))]

def pipeStages (h : List Word) : Nat := fieldNat (h.getD 0 0) 0 4 + 1
def pipeQueues (h : List Word) : Nat := fieldNat (h.getD 0 0) 8 5

/-- `ckp.preg` of a descriptor (R264): the result word. -/
def State.preg (s : State) (v : View) (va : Nat) : Got Word :=
  let n := v.core.sessionOf v.gang
  if va % 64 ≠ 0 ∨ 2 ^ 56 ≤ va then .ok (statusWord 2 0) s
  else
    match s.readDescriptor v va 16 pipeHeadBad (fun h => 32 * (pipeStages h + pipeQueues h)) with
    | .wait s1 => .wait s1
    | .bad off s1 => .bad off s1
    | .ok (.error off) s1 => .ok (statusWord 2 off) s1
    | .ok (.ok (h, ws)) s1 =>
      let ns := pipeStages h
      let nq := pipeQueues h
      match pipeBad ns nq ws with
      | some off => .ok (statusWord 2 off) s1
      | none =>
        match State.stageRecords v 0 ((List.range ns).map (fun i => stageFields (entryWords ws 8 i))) s1 with
        | .wait s2 => .wait s2
        | .bad off s2 => .bad off s2
        | .ok (.error i) s2 => .ok (statusWord 3 i) s2
        | .ok (.ok sts) s2 =>
          let d := s2.ses n
          let die := s2.sesHome n
          if Config.maxPipelines ≤ ((s2.homed die).map (fun e => e.2.pipes.length)).sum ∨ !s2.endpointsFit n nq then
            .ok (statusWord 1 0) s2
          else
            let eps := unused (Config.newNumber s2.tick) 0xE0000 nq d.endpointNumbers
            match State.writeEndpoints v va (16 + 32 * ns + 12) eps s2 with
            | .wait s3 => .wait s3
            | .bad off s3 => .bad off s3
            | .ok _ s3 =>
              let num := (unused (Config.newNumber s2.tick) 0x100000 1 (d.pipes.map (·.num))).headD 0
              let qs := (List.range nq).map (fun j => { queueFields (entryWords ws 8 (ns + j)) with ep := eps.getD j 0 })
              let e := s3.ses n
              .ok (statusWord 0 (0x100000 + num))
                (s3.setSes n { e with pipes := e.pipes ++ [Pipeline.mk num die sts qs none 1] })

/-- A form of the CP that needs session memory ends, or waits with reason SCHED (R280, R395). -/
def State.formEnd (v : View) (f : FormHold) (b : Reg) (r : Got Word) : State :=
  match r with
  | .ok w s => s.formDone v b .sched [w]
  | .bad off s => s.formDone v b .sched [statusWord 2 off]
  | .wait s => s.holdForm f .sched

/-- `ckp.preg` (R264). -/
def execCkpPreg (a b : Reg) (s : State) : Host.Outcome State Fault Refusal :=
  issueForm (.ckpPreg a b) s (fun _ _ => none) (fun v => v.dest b 1) fun v f _ s1 =>
    State.formEnd v f b (s1.preg v (f.a.toNat % 2 ^ 57))

/-- The checks of a graph descriptor (R270): header, then nodes. -/
def graphHeadBad (h : List Word) : Option Nat :=
  let w (k : Nat) : Word := h.getD k 0
  firstBad [(0, decide (fieldNat (w 0) 6 2 ≠ 0) || decide (fieldNat (w 0) 14 18 ≠ 0) ||
      decide (fieldNat (w 0) 0 6 < fieldNat (w 0) 8 6)),
    (4, decide (512 < (w 1).toNat)), (8, decide ((w 2).toNat % 4 ≠ 0)), (12, decide (fieldNat (w 3) 25 7 ≠ 0)),
    (16, decide ((w 4).toNat % 8 ≠ 0)), (20, decide (fieldNat (w 5) 25 7 ≠ 0)),
    (24, decide (w 6 ≠ 0)), (28, decide (w 7 ≠ 0))]

def graphBad (nn : Nat) (pipes : List Nat) (ws : List Word) : Option Nat :=
  firstBad ((List.range nn).flatMap fun i =>
    let e := entryWords ws 4 i
    let o := 32 + 16 * i
    [(o, !decide ((e.getD 0 0).toNat ∈ pipes)),
     (o + 4, (List.range 4).any (fun k =>
        let c := fieldNat (e.getD 1 0) (8 * k) 8
        decide (c ≠ 0xFF ∧ nn ≤ c))),
     (o + 8, decide (fieldNat (e.getD 2 0) 16 16 ≠ 0) || decide ((e.getD 2 0) = 0)),
     (o + 12, decide (e.getD 3 0 ≠ 0))])

def graphNode (e : List Word) : Nat × List Nat × Nat :=
  ((e.getD 0 0).toNat, (List.range 4).map (fun k => fieldNat (e.getD 1 0) (8 * k) 8), (e.getD 2 0).toNat)

/-- `ckp.greg` of a descriptor (R270): the result word. -/
def State.greg (s : State) (v : View) (va : Nat) : Got Word :=
  let n := v.core.sessionOf v.gang
  if va % 64 ≠ 0 ∨ 2 ^ 56 ≤ va then .ok (statusWord 2 0) s
  else
    match s.readDescriptor v va 32 graphHeadBad (fun h => 16 * (fieldNat (h.getD 0 0) 0 6 + 1)) with
    | .wait s1 => .wait s1
    | .bad off s1 => .bad off s1
    | .ok (.error off) s1 => .ok (statusWord 2 off) s1
    | .ok (.ok (h, ws)) s1 =>
      let d := s1.ses n
      let nn := fieldNat (h.getD 0 0) 0 6 + 1
      match graphBad nn (d.pipes.map (·.num)) ws with
      | some off => .ok (statusWord 2 off) s1
      | none =>
        if Config.maxGraphs ≤ ((s1.homed (s1.sesHome n)).map (fun e => e.2.graphs.length)).sum then
          .ok (statusWord 1 0) s1
        else
          let num := (unused (Config.newNumber s1.tick) 0x100000 1 (d.graphs.map (·.num))).headD 0
          let va57 (k : Nat) : VAddr := BitVec.ofNat 57 ((h.getD k 0).toNat + 2 ^ 32 * (h.getD (k + 1) 0).toNat)
          let g : Graph :=
            { num := num, entry := fieldNat (h.getD 0 0) 8 6, cspad := (h.getD 1 0).toNat, resbase := va57 2,
              argtab := va57 4, nodes := (List.range nn).map (fun i => graphNode (entryWords ws 4 i)), state := 0,
              node := fieldNat (h.getD 0 0) 8 6, stage := 0, waitr := 0, argsel := 0, waiting := false, queuedAt := 0 }
          .ok (statusWord 0 (0x200000 + num)) (s1.setSes n { d with graphs := d.graphs ++ [g] })

/-- `ckp.greg` (R270). -/
def execCkpGreg (a b : Reg) (s : State) : Host.Outcome State Fault Refusal :=
  issueForm (.ckpGreg a b) s (fun _ _ => none) (fun v => v.dest b 1) fun v f _ s1 =>
    State.formEnd v f b (s1.greg v (f.a.toNat % 2 ^ 57))

/-- The word operand in slot A of a form. -/
def View.wordA (v : View) (sh : Shape) : Word := (v.opA sh 0).setWidth 32

/-- `ckp.unreg` of a handle (R280): the status and the state. -/
def State.unreg (s : State) (n : Nat) (h : Word) : Nat × State :=
  let d := s.ses n
  let k := fieldNat h 0 20
  if fieldNat h 24 8 ≠ 0 then (4, s)
  else if fieldNat h 20 4 = 1 then
    match s.pipe? n k with
    | none => (4, s)
    | some p =>
      if p.phase ≠ none ∨ d.graphs.any (fun g => g.nodes.any (fun e => decide (e.1 = k))) then (6, s)
      else (0, s.setSes n { d with pipes := d.pipes.filter (fun q => decide (q.num ≠ k)) })
  else if fieldNat h 20 4 = 2 then
    match s.graph? n k with
    | none => (4, s)
    | some g =>
      if g.state = 1 ∨ g.state = 2 then (6, s)
      else (0, s.setSes n { d with graphs := d.graphs.filter (fun q => decide (q.num ≠ k)) })
  else if fieldNat h 20 4 = 3 ∧ (s.endpoint? n k).isSome then
    (0, s.setSes n { d with endpoints := d.endpoints.filter (fun q => decide (q.num ≠ k)) })
  else (4, s)

/-- `ckp.unreg` (R280). -/
def execCkpUnreg (a b : Reg) (s : State) : Host.Outcome State Fault Refusal :=
  issue (.ckpUnreg a b) s fun v sh s1 =>
    let r := s1.unreg (v.core.sessionOf v.gang) (v.wordA sh)
    r.2.formDone v b .sched [statusWord r.1 0]

/-- `ckp.glaunch` (R272, R280). -/
def execCkpGlaunch (a b : Reg) (s : State) : Host.Outcome State Fault Refusal :=
  issue (.ckpGlaunch a b) s fun v sh s1 =>
    let r := s1.launchWord (v.core.sessionOf v.gang) (v.wordA sh)
    r.2.formDone v b .sched [statusWord r.1 0]

/-- The graph status word (R272); a running graph of a HELD session is HELD. -/
def State.graphWord (s : State) (n num : Nat) : Word :=
  match s.graph? n num with
  | none => BitVec.ofNat 32 (15 * 2 ^ 28)
  | some g =>
    let st := if s.sesState n = 3 ∧ (g.state = 1 ∨ g.state = 2) then 3 else g.state
    BitVec.ofNat 32 (st * 2 ^ 28 + g.node * 2 ^ 22 + g.stage * 256 + g.waitr)

/-- `ckp.gstat` (R272). -/
def execCkpGstat (a b : Reg) (s : State) : Host.Outcome State Fault Refusal :=
  issue (.ckpGstat a b) s fun v sh s1 =>
    s1.formDone v b .sched [s1.graphWord (v.core.sessionOf v.gang) (fieldNat (v.wordA sh) 0 20)]

/-- A session operand is another session's and the issuer below PL2 (R280). -/
def View.denied (v : View) (n : Nat) : Bool :=
  decide (n ≠ v.core.sessionOf v.gang) && decide (v.core.level v.gang < 2)

/-- A cut of a session is attempted (R277): issue stops until it is made or the wait expires. -/
def State.startAttempt (s : State) (n : Nat) (fresh : Bool) : State :=
  let d := s.ses n
  let cyc := (s.die (s.sesHome n)).cyc
  if d.attempt.isSome ∨ s.sesState n = 0 then s
  else
    (s.setSes n { d with attempt := some cyc, retryAt := none, lastCut := if fresh then cyc else d.lastCut }).postOnce
      (.cut n)

/-- An attempt has failed (R277 step 4): it is repeated, or counted DEFERRED at the next interval. -/
def State.failAttempt (s : State) (n : Nat) : State :=
  let d := s.ses n
  let next := (s.die (s.sesHome n)).cyc + Config.cutRetry
  let s1 := s.drop (fun e => decide (e = .cut n))
  if d.lastCut + Config.cutInterval ≤ next then
    (s1.setSes n { d with attempt := none, retryAt := none, deferred := true }).answerAll (fun w => decide (w = .take n))
      [statusWord 8 0]
  else s1.setSes n { d with attempt := none, retryAt := some next }

/-- A cut attempt begins: by time or because the undo log is full (R276, R277). -/
def execCutAttempt (s : State) : Host.Outcome State Fault Refusal :=
  match s.ev with
  | .cutAttempt n => .next (s.startAttempt n true)
  | _ => .next s

/-- The outcome of an attempt whose step 2 holds (R277): the cut, or a failure for a STRUCK entry. -/
def execCut (s : State) : Host.Outcome State Fault Refusal :=
  match s.ev with
  | .cut n =>
    if (s.ses n).attempt = none then .next s
    else if !s.cutReady n then .next (s.post (.cut n))
    else if s.unstruck n then
      .next (((s.makeCut n).answerAll (fun w => decide (w = .take n)) [statusWord 0 0]).graphSteps n)
    else .next (s.failAttempt n)
  | _ => .next s

/-- Step 2 of an attempt has not held in 2^16 cycles (R277). -/
def execCutWaitExpiry (s : State) : Host.Outcome State Fault Refusal :=
  match s.ev with
  | .cutWaitExpiry n =>
    match (s.ses n).attempt with
    | some t => .next (if t + Config.cutWait ≤ (s.die (s.sesHome n)).cyc then s.failAttempt n else s)
    | none => .next s
  | _ => .next s

/-- An attempt is repeated (R277 step 4). -/
def execCutRetry (s : State) : Host.Outcome State Fault Refusal :=
  match s.ev with
  | .cutRetry n =>
    match (s.ses n).retryAt with
    | some t => .next (if t ≤ (s.die (s.sesHome n)).cyc then s.startAttempt n false else s)
    | none => .next s
  | _ => .next s

/-- `ckp.take` (R277). -/
def execCkpTake (a b : Reg) (s : State) : Host.Outcome State Fault Refusal :=
  issue (.ckpTake a b) s fun v sh s1 =>
    let n := fieldNat (v.wordA sh) 0 12
    if v.denied n then s1.formDone v b .sched [statusWord 5 0]
    else if s1.sesState n = 0 then s1.formDone v b .sched [statusWord 4 0]
    else
      let s2 := s1.await (.take n) .sched (v.dstList b 1)
      if (s2.ses n).retryAt.isSome then s2 else s2.startAttempt n true

/-- `ckp.roll` (R278). -/
def execCkpRoll (a b : Reg) (s : State) : Host.Outcome State Fault Refusal :=
  issue (.ckpRoll a b) s fun v sh s1 =>
    let n := fieldNat (v.wordA sh) 0 12
    if v.denied n then s1.formDone v b .sched [statusWord 5 0]
    else if s1.sesState n = 0 then s1.formDone v b .sched [statusWord 4 0]
    else if s1.sesState n = 4 then s1.formDone v b .sched [statusWord 7 0]
    else (s1.await (.roll n) .sched (v.dstList b 1)).postOnce (.rollback n)

/-- A call that a unit holds until a slot or frame is final (R284). -/
def isWaitf (x : Call) : Bool :=
  decide (0xF0000 ≤ x.ep) && decide (x.ep / 256 % 16 = 2 ∨ x.ep / 256 % 16 = 3) && decide (fieldNat (x.words.getD 1 0) 0 4 = 4)

/-- Every WAITF of a crew's gangs that a unit holds returns AGAIN (R284), and so does every call of theirs that waits for
its collective to be complete, which it leaves (R391). -/
def State.giveAgain (s : State) (c : Crew) : State :=
  let mine (x : Call) : Bool := isWaitf x && s.inCrew c x.gang
  let xs := s.dies.flatMap (fun d => d.held.filter mine)
  let joined (k : Call × Member × List Word) : Bool := decide (k.2.1.sources = []) && s.inCrew c k.1.gang
  let ys := (s.collectives.filter (!·.complete)).flatMap (fun k => (k.calls.filter joined).map (·.1))
  let s1 : State :=
    { s with
      dies := s.dies.map (fun d : DieSt => { d with held := d.held.filter (fun x => !mine x) })
      collectives := s.collectives.map (fun k => if k.complete then k else { k with calls := k.calls.filter (fun c => !joined c) }) }
  s1.postAll ((xs ++ ys).map (fun x => .returnRecord (record x 0 0 [3])))

/-- A drain of a crew starts (R223). -/
def State.startDrain (s : State) (c : Crew) : State :=
  if c.drain ≠ .running then s
  else
    ((s.updCrew c.id (fun k => { k with drain := .draining, drainSince := (s.die c.die).cyc })).giveAgain c).postOnce
      (.drainSave c.id)

/-- The crew at a crew selector's place on a die, resident or drained (R223, R228). -/
def State.crewAt (s : State) (die : Nat) (sel : Word) : Option Crew :=
  (s.crews ++ s.saved.map (·.crew)).find? fun c =>
    decide (c.die = die) && decide (c.cluster = fieldNat sel 0 4) && decide (c.slot = fieldNat sel 4 5)

/-- `ckp.drain` (R275). -/
def execCkpDrain (a b : Reg) (s : State) : Host.Outcome State Fault Refusal :=
  issueChecked (.ckpDrain a b) s fun v sh s1 go =>
    let w := v.wordA sh
    if fieldNat w 16 16 ≠ 0 then s1.trapNow 0x02 0 (v.tlanes sh) 0
    else
      let s2 := go s1
      match s2.crewAt (dieOf v.cur.gang.core) w with
      | none => s2.formDone v b .sched [statusWord 4 0]
      | some c =>
        if v.denied c.session then s2.formDone v b .sched [statusWord 5 0]
        else if c.drain ≠ .running then s2.formDone v b .sched [statusWord 6 0]
        else (s2.startDrain c).await (.drain c.id) .sched (v.dstList b 1)

/-- A command lets a drain go on (R223 step 3): a matrix command, one stalled at a faulting offset, or one held
unfired behind such a command. Log 69 (DEDUCED). -/
def CoreSt.drained (c : CoreSt) (t : Nat) (q : Nat) (k : Cmd) : Bool :=
  k.isMatrix || k.stall.isSome ||
  (!k.fired && ((c.queues.getD (if q = 5 then 0 else q) []).any fun j =>
    decide (j.team = t) && j.stall.isSome && decide (j.id < k.id)))

/-- Step 3 of R223 holds, and no stop of the crew is under way (R224, R230). Log 69 (DEDUCED). -/
def State.drainReady (s : State) (c : Crew) : Bool :=
  (c.stopped || c.trig.isNone) && c.bars.all (fun b => b.pbc.all (fun n => decide (n = 0))) &&
  !s.openCalls.any (fun x => s.inCrew c x.gang) &&
  (s.crewGangs c).all (fun p => p.2.watch.all (·.struck) && p.2.raised.isNone && s.settled p.1 p.2 0xFF) &&
  c.residents.all fun r =>
    let k := s.core r.2.1
    (List.range 5).all (fun q => ((k.queues.getD q []).filter (fun j => decide (j.team = r.2.2) && !j.done)).all
      (k.drained r.2.2 q)) &&
    (k.follow.filter (fun j => decide (j.team = r.2.2))).all (k.drained r.2.2 5)

/-- The crew holds unretired matrix commands (R223 step 2). -/
def State.crewMatrix (s : State) (c : Crew) : Bool :=
  c.residents.any fun r => ((s.core r.2.1).teamCmds r.2.2).any Cmd.isMatrix

/-- A drain has missed its deadline (R224). -/
def execDrainDeadline (s : State) : Host.Outcome State Fault Refusal :=
  match s.ev with
  | .drainDeadline id =>
    match s.crew? id with
    | none => .next s
    | some c =>
      if c.drain = .draining ∧ c.drainSince + s.deadline c.session ≤ (s.die c.die).cyc then
        let s1 := s.answerAll (fun w => decide (w = .drain id)) [statusWord 7 0]
        .next ((s1.crewGangs c).foldl (fun s' p => s'.fatalBy p.1 0x72 0) s1)
      else .next s
  | _ => .next s

/-- Unretired matrix commands of a crew are checked again by R185 (R213). -/
def State.recheckAll (s : State) (c : Crew) : State :=
  c.residents.foldl (fun s' r =>
    (((s'.core r.2.1).queues.getD 1 [] ++ (s'.core r.2.1).follow).filter (fun k => decide (k.team = r.2.2) && !k.done)).foldl
      (fun t k => match k.op with
        | .matrix m => match t.recheck r.2.1 k m with
          | .ok t1 | .wait t1 | .failed t1 => t1
          | .foreign _ => t
        | _ => t) s') s

/-- A saved crew had unretired matrix commands. -/
def SavedCrew.hasMatrix (v : SavedCrew) : Bool := v.members.any (fun m => m.cmds.any (fun k => k.2.isMatrix))

/-- A drained crew is restored where it has room (R223, R275), its freeze image checked first (R186): none while it
must wait, with the state then. Log 75 (DEDUCED). -/
def State.restoreCrew (s : State) (v : SavedCrew) : Bool × State :=
  let n := v.crew.session
  if s.sesState n ≠ 2 ∧ s.sesState n ≠ 3 then (false, s)
  else if !s.engineHeld v.crew.die n 0 then (false, s.wantEngine v.crew.die n 0)
  else
    let image : Dev Bool := if v.hasMatrix then s.readFreeze v.crew.die n else .done true s
    match image with
    | .wait s1 => (false, s1)
    | .fail s1 => (true, s1.forceReset n)
    | .done good s1 =>
      match (s1.unshelve n).bind (fun s2 => s2.placeSaved v v.crew.die) with
      | none => (false, s1)
      | some s2 =>
        let s3 := { s2 with saved := s2.saved.filter (fun u => decide (u.ticket ≠ v.ticket)) }
        match s3.crew? v.crew.id with
        | none => (true, s3)
        | some c =>
          if good then (true, (s3.recheckAll c).graphSteps n)
          else (true, ((s3.sesGangs n).foldl (fun s' p => s'.fatalBy p.1 0x43 0) s3).forceReset n)

/-- A form or a time slice that waits to restore a crew is served if it now can be. -/
def State.tryRestore (s : State) (w : Waiter) : State :=
  match w.what with
  | .restore t =>
    match s.saved.find? (fun v => decide (v.ticket = t)) with
    | none => s.answer w [statusWord 4 0]
    | some v =>
      let r := s.restoreCrew v
      if r.1 then r.2.answer w [statusWord (if r.2.sesState v.crew.session = 4 then 7 else 0) 0] else r.2
  | _ => s

def State.serveRestores (s : State) : State := s.waiters.foldl State.tryRestore s

/-- A drain that is ready is carried out (R223 steps 2, 4, 5): the freeze image, the save, and the answer with a
ticket. -/
def State.drainNow (s : State) (c : Crew) : State :=
  let e : Event := .drainSave c.id
  let frozen : Dev Unit := if s.crewMatrix c then s.writeFreeze c.die c.session else .done () s
  match frozen with
  | .wait s1 => s1.post e
  | .fail s1 => s1.forceReset c.session
  | .done _ s1 =>
    let t := (unused (Config.newNumber s1.tick) 0x100000 1 (s1.saved.map (·.ticket))).headD 0
    let v := s1.savedCrew t { c with drain := .drained }
    let s2 := s1.freeCrew c
    let s3 := State.shelve { s2 with saved := s2.saved ++ [v] } c.session
    (s3.answerAll (fun w => decide (w = .drain c.id)) [statusWord 0 (0x400000 + t)]).serveRestores

/-- The step DRAIN_SAVE (R223). -/
def execDrainSave (s : State) : Host.Outcome State Fault Refusal :=
  match s.ev with
  | .drainSave id =>
    match s.crew? id with
    | none => .next s
    | some c =>
      if c.drain ≠ .draining then .next s
      else if !s.drainReady c then .next (s.post (.drainSave id))
      else if !s.engineHeld c.die c.session 0 then .next ((s.wantEngine c.die c.session 0).post (.drainSave id))
      else .next (s.drainNow c)
  | _ => .next s

/-- Accesses of a team's gangs to the lane-private lines of its area are on their way: those lines are dropped at its
exit, after what its gangs have done (R139, R166). -/
def State.teamPending (s : State) (core : Nat) (tm : Team) : Bool :=
  let mine (a : Access) : Bool := decide (a.gang.core = core) && decide (a.gang.slot ∈ tm.gslots)
  s.agenda.any (fun e => match e with | .accessAtHome a => mine a | _ => false) || s.queuedAccess mine

/-- A team exits (R169, R267 item 5, R276): its reservations are committed void, its partition is logged and
freed, and its crew ends with its last team. -/
def State.exitTeam (s : State) (core t : Nat) (e : Event) : State :=
  match s.team? core t with
  | none => s
  | some tm =>
    if !(s.core core).teamEnded t then s
    else if s.teamPending core tm then s.post e
    else
      match State.voidAll tm.tid (s.reservations tm.tid) s with
      | .wait s1 => s1.post e
      | .fail s1 => s1
      | .done _ s1 =>
        let s2 := (s1.logRows tm.session (rangeRows core tm.base tm.bytes)).freeTeam core t true
        let s3 := s2.updCrew tm.crew (fun c => { c with gone := c.gone.set tm.rank true, energy := c.energy + tm.energy })
        let s4 := match s3.crew? tm.crew with
          | some c => if c.residents = [] then s3.endCrew c
              else (List.range 16).foldl (fun s' id => s'.settleCbar c.id id 4) s3
          | none => s3
        s4.serveRestores.graphSteps tm.session

/-- The step TEAM_EXIT (R169). -/
def execTeamExit (s : State) : Host.Outcome State Fault Refusal :=
  match s.ev with
  | .teamExit core t => .next (s.exitTeam core t (.teamExit core t))
  | _ => .next s

/-- `ckp.restore` (R275). -/
def execCkpRestore (a b : Reg) (s : State) : Host.Outcome State Fault Refusal :=
  issue (.ckpRestore a b) s fun v sh s1 =>
    let w := v.wordA sh
    match s1.saved.find? (fun c => decide (c.ticket = fieldNat w 0 20)) with
    | none => s1.formDone v b .sched [statusWord 4 0]
    | some c =>
      if fieldNat w 20 12 ≠ 4 then s1.formDone v b .sched [statusWord 4 0]
      else if v.denied c.crew.session then s1.formDone v b .sched [statusWord 5 0]
      else
        let r := s1.restoreCrew c
        if r.1 then r.2.formDone v b .sched [statusWord (if r.2.sesState c.crew.session = 4 then 7 else 0) 0]
        else r.2.await (.restore c.ticket) .sched (v.dstList b 1)

/-- `ckp.epnew` (R280). -/
def execCkpEpnew (b : Reg) (s : State) : Host.Outcome State Fault Refusal :=
  issue (.ckpEpnew b) s fun v _ s1 =>
    let n := v.core.sessionOf v.gang
    let d := s1.ses n
    if !s1.endpointsFit n 1 then s1.formDone v b .sched [statusWord 1 0]
    else
      let ep := (unused (Config.newNumber s1.tick) 0xE0000 1 d.endpointNumbers).headD 0
      (s1.setSes n { d with endpoints := d.endpoints ++ [⟨ep, s1.sesHome n, []⟩] }).formDone v b .sched
        [statusWord 0 (0x300000 + ep)]

/-- `ckp.deadline` (R280, R365): DEADLINE of a partition's record. -/
def execCkpDeadline (a b : Reg) (s : State) : Host.Outcome State Fault Refusal :=
  issue (.ckpDeadline a b) s fun v sh s1 =>
    let w := v.wordA sh
    if fieldNat w 5 3 ≠ 0 then s1.formDone v b .sched [statusWord 2 0]
    else
      let k := 64 * fieldNat w 0 5 + 3
      let s2 := { s1 with parts := Cells.put 0 s1.parts k (setField (Cells.get 0 s1.parts k) 0 24 (fieldNat w 8 24)) }
      s2.formDone v b .sched [statusWord 0 0]

/-- A die's THROTTLED state after its temperature, its limit or its budget has changed (R273). -/
def DieSt.heated (d : DieSt) : DieSt :=
  { d with throttled :=
      if d.tlim ≤ d.theta then true
      else if d.theta + 16 < d.tlim then decide (d.budget ≤ d.energy) else d.throttled || decide (d.budget ≤ d.energy) }

/-- `ckp.budget` (R273, R280, R381): B and TLIM of the issuing core's die. Log 77 (DEDUCED). -/
def execCkpBudget (a b : Reg) (s : State) : Host.Outcome State Fault Refusal :=
  issue (.ckpBudget a b) s fun v sh s1 =>
    let x := v.opA sh 0
    let bud := fieldNat x 0 24
    let tl := fieldNat x 32 12
    if fieldNat x 24 8 ≠ 0 ∨ 26000 < bud then s1.formDone v b .sched [statusWord 2 0]
    else if fieldNat x 44 20 ≠ 0 then s1.formDone v b .sched [statusWord 2 4]
    else
      let die := dieOf v.cur.gang.core
      let d := s1.die die
      (s1.setDie die (DieSt.heated
        { d with
          budget := if bud = 0 then Config.budgetDefault else bud
          tlim := if tl = 0 then Config.tlimDefault else tl })).formDone v b .sched [statusWord 0 0]

/-- A partition has work on a die: a RUNNING graph or a DRAINED crew of one of its sessions (R368). -/
def State.partWork (s : State) (p die : Nat) : Bool :=
  decide (s.partMode p = 2) &&
  ((s.homed die).any (fun e => decide (s.sesPart e.1 = p) && s.partHolds p e.1 &&
      decide (s.sesState e.1 ≠ 3) && e.2.graphs.any (fun g => decide (g.state = 1))) ||
    s.saved.any (fun v => decide (v.crew.die = die) && decide (s.sesPart v.crew.session = p)))

/-- The next SLICED partition with work after `p`, in increasing number and round again (R368). -/
def State.nextSliced (s : State) (die p : Nat) : Option Nat :=
  ((List.range 32).map (fun i => (p + 1 + i) % 32)).find? (fun q => s.partWork q die)

/-- The length of a partition's slice in cycles: SLICEUS rounded up to windows (R368). -/
def State.sliceLen (s : State) (p : Nat) : Nat :=
  (fieldNat (s.partWord p 2) 0 24 + 99) / 100 * Config.windowCycles

/-- The remainder of a die passes to a partition: its drained crews are restored as they find room (R275, R368).
Log 87 (DEDUCED). -/
def State.giveSlice (s : State) (die p : Nat) : State :=
  let d := s.die die
  let s1 := s.setDie die { d with sliceOf := some p, sliceEnd := d.winStart + s.sliceLen p }
  let ts := (s1.saved.filter (fun v => decide (v.crew.die = die) && decide (s1.sesPart v.crew.session = p))).map (·.ticket)
  let ws := (ts.filter (fun t => !s1.waiters.any (fun w => decide (w.what = .restore t)))).map
    (fun t => Waiter.mk (.restore t) ⟨0, 0, 0⟩ 0 [])
  let s2 : State := { s1 with waiters := s1.waiters ++ ws }
  s2.serveRestores

/-- A time slice ends (R275, R368): the outgoing partition keeps the remainder, or its crews are drained and the next
partition takes it. -/
def execTimeSliceEnd (s : State) : Host.Outcome State Fault Refusal :=
  match s.ev with
  | .timeSliceEnd die =>
    let d := s.die die
    match d.sliceOf with
    | none => .next s
    | some p =>
      if d.winStart < d.sliceEnd then .next s
      else
        match s.nextSliced die p with
        | none => .next (s.setDie die { d with sliceEnd := d.sliceEnd + s.sliceLen p })
        | some q =>
          if q = p then .next (s.setDie die { d with sliceEnd := d.sliceEnd + s.sliceLen p })
          else
            let mine := s.crews.filter (fun c => decide (c.die = die) && decide (s.sesPart c.session = p))
            if mine = [] then .next (s.giveSlice die q)
            else .next (mine.foldl (fun s' c => s'.startDrain c) s)
  | _ => .next s

/-- The energy that a die used in the window that now ends, whether the die has reached its end or not (R381). -/
def DieSt.windowEnergy (d : DieSt) (start : Nat) : Nat := if d.winStart ≤ start then d.energy else d.energyLast

/-- Partitions in turn from after `last`, repeated until `n` engines are granted (R371). -/
def roundRobin (ps : List Nat) (last n : Nat) : List Nat :=
  let order := ps.filter (fun p => decide (last < p)) ++ ps.filter (fun p => decide (p ≤ last))
  if ps = [] then [] else (List.range n).map (fun i => order.getD (i % order.length) 0)

/-- The lease of a class of engines of a die: the engines' holders and the last partition of rule 2 (R371).
Log 95 (DEDUCED). -/
def State.leaseClass (s : State) (die k last : Nat) : List Nat × Nat :=
  let c := poolClass k
  let ps := (List.range 32).filter (fun p => s.partActive p && decide ((p, k) ∈ (s.die die).poolWait))
  let mins := (ps.flatMap (fun p => List.replicate (fieldNat (s.partWord p (7 + 4 * die)) c.2.2 4) p)).take c.2.1
  let rest := roundRobin ps last (c.2.1 - mins.length)
  (fitList 0xFF c.2.1 (mins ++ rest), rest.getLastD last)

/-- A budget window ends and the next begins (R273, R368, R371, R381). Log 17 (DESIGN CHOICE). Log 88 (DEDUCED). -/
def State.newWindow (s : State) (die : Nat) : State :=
  let d := s.die die
  let start := d.winStart
  let total := (s.dies.map (fun e => e.windowEnergy start)).sum
  let l (k : Nat) : List Nat × Nat := s.leaseClass die k (d.lease.getD k 0)
  let hot := decide (76000 < total)
  let d1 : DieSt :=
    { d with
      winStart := start + Config.windowCycles, energyLast := d.energy, energy := 0
      throttled := decide (d.tlim ≤ d.theta), hot := hot
      engines := (l 0).1 ++ (l 1).1 ++ (l 2).1, lease := [(l 0).2, (l 1).2, (l 2).2]
      poolWait := d.poolWait.filter (fun w => !decide (w.1 ∈ (l w.2).1)) }
  let s1 := s.setDie die d1
  let s2 := if hot then { s1 with dies := s1.dies.map (fun e => if start < e.winStart then { e with hot := true } else e) } else s1
  let owner : Option Nat := d.sliceOf.filter (fun p => decide (s.partMode p = 2))
  match owner with
  | some _ => if d.sliceEnd ≤ d1.winStart then s2.postOnce (.timeSliceEnd die) else s2
  | none =>
    match s2.nextSliced die 31 with
    | some p => s2.giveSlice die p
    | none => s2.setDie die { s2.die die with sliceOf := none }

/-- The step BUDGET_WINDOW (R273). -/
def execBudgetWindow (s : State) : Host.Outcome State Fault Refusal :=
  match s.ev with
  | .budgetWindow die =>
    let d := s.die die
    .next (if d.winStart + Config.windowCycles ≤ d.cyc then s.newWindow die else s)
  | _ => .next s

/-- The temperature of a die changes (R273, R381). -/
def execDieTemperature (s : State) : Host.Outcome State Fault Refusal :=
  match s.ev with
  | .dieTemperature die t =>
    let d := s.die die
    let s1 := s.setDie die (DieSt.heated { d with theta := t })
    .next (if 920 ≤ t then s1.postOnce (.thermtrip die) else s1)
  | _ => .next s

/-- THERMTRIP: the board removes power (R381). Log 117 (DEDUCED). -/
def execThermtrip (s : State) : Host.Outcome State Fault Refusal :=
  match s.ev with
  | .thermtrip die => .next (if 920 ≤ (s.die die).theta then { s with powered := false } else s)
  | _ => .next s

end Sys2Proof.Machine
end

