-- ==== Sys2Proof/Machine/Engine.lean ====
section
/-! DEFINITION. The copy engine, its gather unit and the multicast unit (R175 to R179, R182, R190 to R192, R200 to
R204, R220, R322): their instructions, and how their commands, and those of the matrix queue, fire, deliver and
retire. -/

namespace Sys2Proof.Machine

/-- One end of a run of bytes that a command moves: session or aperture addresses, an offset in the store of the
core, or a word repeated. -/
inductive RunEnd where
  | addr (a : VAddr)
  | store (off : Nat)
  | fill (w : Word)
  deriving DecidableEq, Repr

/-- A run of bytes that a command moves. -/
structure Run where
  src : RunEnd
  dst : RunEnd
  len : Nat
  deriving DecidableEq, Repr

/-- The end `i` bytes on. -/
def RunEnd.at_ (e : RunEnd) (i : Nat) : RunEnd :=
  match e with
  | .addr a => .addr (a + BitVec.ofNat 57 i)
  | .store o => .store (o + i)
  | .fill w => .fill (w.rotateRight (8 * (i % 4)))

/-- The slot that a count of a ring names, as an offset in the store (R176). -/
def Team.slotAt (t : Team) (n k : Nat) : Nat :=
  let d := t.rdesc.getD n 0
  t.scratchBase + fieldNat d 0 16 * 256 + k % t.slots n * (fieldNat d 24 8 * 128)

/-- LEN of a control word (R200). -/
def cctlLen (c : Word) : Nat := fieldNat c 0 20

/-- The rows of a tile as runs between the store and memory (R193, R201). -/
def tileRuns (t : Team) (tile : Nat) (ea : VAddr) (stride : Word) (load : Bool) : List Run :=
  let T := t.tile tile
  (List.range T.rows).map fun r =>
    let m := RunEnd.addr (ea + stride.signExtend 57 * BitVec.ofNat 57 r)
    let b := RunEnd.store (T.at_ t r 0)
    if load then ⟨m, b, T.rowbytes⟩ else ⟨b, m, T.rowbytes⟩

/-- The runs of a command, in the order of their delivery (R201, R204). A ring slot takes the place of the operand
that names it (R200). -/
def Cmd.runs (k : Cmd) (t : Team) : List Run :=
  match k.op with
  | .copy dst src c =>
    let a := match k.op.ringIn, k.inSlot with
      | some r, some n => RunEnd.store (t.slotAt r n)
      | _, _ => .addr src
    let b := match k.op.ringOut, k.outSlot with
      | some r, some n => RunEnd.store (t.slotAt r n)
      | _, _ => .addr dst
    [⟨a, b, cctlLen c⟩]
  | .cfill dst w c =>
    let b := match k.op.ringOut, k.outSlot with
      | some r, some n => RunEnd.store (t.slotAt r n)
      | _, _ => .addr dst
    [⟨.fill w, b, cctlLen c / 4 * 4⟩]
  | .tld n ea stride => tileRuns t n ea stride true
  | .tsto n ea stride => tileRuns t n ea stride false
  | .gath base lanes size => lanes.map (fun l => ⟨.addr l.2, .addr (base + BitVec.ofNat 57 (l.1 * size)), size⟩)
  | .scat base lanes size => lanes.map (fun l => ⟨.addr (base + BitVec.ofNat 57 (l.1 * size)), .addr l.2, size⟩)
  | .mcast _ src len _ => [⟨.addr src, .fill 0, len⟩]
  | .matrix _ => []

/-- Bytes that a command delivers. -/
def Cmd.total (k : Cmd) (t : Team) : Nat := ((k.runs t).map (·.len)).sum

/-- What is left of a run at byte `pos` of the command. -/
def runAt : List Run → Nat → Option Run
  | [], _ => none
  | r :: rs, pos =>
    if pos < r.len then some ⟨r.src.at_ pos, r.dst.at_ pos, r.len - pos⟩ else runAt rs (pos - r.len)

/-- The bytes up to the end of a line, or of what one block of cluster memory surely holds. -/
def RunEnd.room (e : RunEnd) : Nat :=
  match e with
  | .addr a => 128 - a.toNat % 128
  | .store o => 128 - o % 128
  | .fill _ => 128

/-- Where `n` bytes at an end lie for a command (R311, R323). -/
def State.endPlace (s : State) (core : Nat) (k : Cmd) (t : Team) (e : RunEnd) (n : Nat) (write : Bool) : Xlat × State :=
  match e with
  | .fill _ => (.ok (.store core 0), s)
  | .store o => (.ok (.store core o), s)
  | .addr a =>
    if isAperture a then
      match s.aperture core t a.toNat n with
      | some p => (.ok p, s)
      | none => (.fatal 0x40, s)
    else
      s.translate
        { core := none, die := dieOf core, session := k.session, level := k.level, kind := if write then 1 else 0,
          engine := true, salt := if write then 45 else 44 } a.toNat

/-- The bytes by which a second place lies behind a first, if the two touch one storage (R201). -/
def placeGap (p q : Place) : Nat :=
  let gap (a b : Nat) : Nat := if a < b then b - a else 2 ^ 64
  match p, q with
  | .mem a _, .mem b _ => gap a b
  | .store c a, .store d b => if c = d then gap a b else 2 ^ 64
  | .cspad c a, .cspad d b => if c = d then gap a b else 2 ^ 64
  | .host c a, .host d b => if c = d then gap a b else 2 ^ 64
  | _, _ => 2 ^ 64

/-- The aperture 0x02 offset of a place in a crew, if it lies in one of the crew's blocks (R216). -/
def Crew.offsetOf (c : Crew) (p : Place) : Option Nat :=
  match p with
  | .store core off =>
    ((List.range c.cores.length).find? fun r =>
      decide (c.cores[r]? = some core) && decide (c.cmcore ≠ 0) &&
      decide (Config.clusterShare + c.cmbase.getD r 0 ≤ off) &&
      decide (off < Config.clusterShare + c.cmbase.getD r 0 + c.cmcore * 1024)).map fun r =>
        r * (c.cmcore * 1024) + (off - Config.clusterShare - c.cmbase.getD r 0)
  | _ => none

/-- An access to cluster memory is matched against the crew's watchpoints where it is performed (R229, R230). -/
def State.watchHome (s : State) (crew : Nat) (g : GangRef) (pc : PC) (seq bit : Nat) (p : Place) (n : Nat) : State :=
  match s.crew? crew with
  | none => s
  | some c =>
    match c.offsetOf p with
    | none => s
    | some o =>
      match c.watchHit (s.die c.die).cyc false bit o n with
      | none => s
      | some w =>
        s.trigger c
          { cycle := (s.die c.die).cyc, why := 0, wp := w, gang := some g, seq := some seq, pc := pc,
            addr := BitVec.ofNat 32 o }

/-- A command of a core changed, in its queue or in the list of follow-on commands. -/
def State.updCmd (s : State) (core id : Nat) (f : Cmd → Cmd) : State :=
  let c := s.core core
  let g (k : Cmd) : Cmd := if k.id = id then f k else k
  s.setCore core { c with queues := c.queues.map (fun q => q.map g), follow := c.follow.map g }

/-- A command of a queue of a core. -/
def CoreSt.cmd? (c : CoreSt) (q id : Nat) : Option Cmd := (c.queues.getD q []).find? (fun k => decide (k.id = id))

/-- The queue of a core that holds a command of the copy, gather or collective class. -/
def CoreSt.queueOf (c : CoreSt) (id : Nat) : Nat :=
  ([0, 2, 3].find? (fun q => (c.cmd? q id).isSome)).getD 0

/-- A command is complete (R179): the gang's counter falls by the oldest complete ones, which leave the queue. A held
command does not keep the `asave` of its handler counted (R213; log 61). -/
def State.finishCmd (s : State) (core q id : Nat) : State :=
  let c := s.core core
  match c.cmd? q id with
  | none => s
  | some k =>
    let qs := (c.queues.getD q []).map (fun j => if j.id = id then { j with done := true } else j)
    let open_ := (qs ++ if q = 1 then c.follow else []).filter (fun j => decide (j.gang = k.gang) && !j.done && !j.held)
    let gone (j : Cmd) : Bool := decide (j.gang = k.gang) && j.done && open_.all (fun o => decide (j.id < o.id))
    let n := (qs.filter gone).length
    (s.setCore core { c with queues := c.queues.set q (qs.filter (fun j => !gone j)) }).updGang k.gang fun x =>
      { x with counters := x.counters.set q (x.counters.getD q 0 - n) }

/-- The ring slots that a command has reserved are released, and its rings advance if it has retired (R177). -/
def Team.release (t : Team) (k : Cmd) (advance : Bool) : Team :=
  let t1 := match k.op.ringIn, k.inSlot with
    | some r, some _ =>
      { t with
        rin := t.rin.set r (t.rin.getD r 0 - 1)
        rcons := if advance then t.rcons.set r ((t.rcons.getD r 0 + 1) % 65536) else t.rcons }
    | _, _ => t
  match k.op.ringOut, k.outSlot with
  | some r, some _ =>
    { t1 with
      rout := t1.rout.set r (t1.rout.getD r 0 - 1)
      rprod := if advance then t1.rprod.set r ((t1.rprod.getD r 0 + 1) % 65536) else t1.rprod }
  | _, _ => t1

/-- PBC of a crew barrier falls in the cores of the ranks for which `f` gives bytes, and the barrier settles (R220). -/
def State.lowerPbc (s : State) (crew bar : Nat) (f : Nat → Nat) : State :=
  (s.updCrew crew fun c =>
    { c with bars := c.bars.modify bar fun b =>
        { b with pbc := b.pbc.mapIdx (fun r n => n - f r) } }).settleCbar crew bar 4

/-- A command is discarded where it stands (R321): its slots, its follow-on command and the bytes it has not
landed are given up. -/
def State.discardCmd (s : State) (core id : Nat) : State :=
  let c := s.core core
  let q := c.queueOf id
  match c.cmd? q id with
  | none => s
  | some k =>
    let s1 := (s.updTeam core k.team (fun t => t.release k false)).finishCmd core q id
    let s2 := match (s1.core core).follow.find? (fun j => decide (j.id = id + 1)) with
      | none => s1
      | some j =>
        let c1 := s1.core core
        (s1.setCore core { c1 with follow := c1.follow.filter (fun f => decide (f.id ≠ id + 1)) }).updGang j.gang fun x =>
          { x with counters := x.counters.set 1 (x.counters.getD 1 0 - 1) }
    match k.op, s2.team? core k.team with
    | .mcast _ _ len bar, some t =>
      (s2.drop (fun e => match e with
        | .mcastFillLand a b _ => decide (a = core) && decide (b = id)
        | _ => false)).lowerPbc t.crew bar (fun r => len - k.landed.getD r 0)
    | _, _ => s2

/-- A command's gang ends by a cause at an address; if it has ended before, its session rolls back (R334, R335). -/
def State.endCmdGang (s : State) (k : Cmd) (cause : BitVec 8) (info : BitVec 16) (addr : VAddr) : State :=
  if (s.gang? k.gang).isSome then s.fatalBy k.gang cause info addr else s.postOnce (.rollback k.session)

/-- A fault stops a command (R322, R311): a replayable one stalls it at its byte offset, any other ends the gang,
if it is live. -/
def State.cmdFault (s : State) (core : Nat) (k : Cmd) (e : RunEnd) (write : Bool) (r : Xlat) : State :=
  let va := match e with | .addr a => a.toNat | _ => 0
  match r with
  | .absent c host =>
    let slot := k.gang.slot
    let (fid, s1) := s.joinFid (dieOf core) k.session va (if write then 1 else 0) c host
      { eng := true, unit := false, core := some core, slot := slot, detail := BitVec.ofNat 32 k.pos, pc := 0 }
    s1.updCmd core k.id (fun j => { j with stall := some fid, stallAt := BitVec.ofNat 57 va })
  | .fatal c => (s.discardCmd core k.id).endCmdGang k c (c.setWidth 16) (BitVec.ofNat 57 va)
  | _ => s.post (.copyDelivery core k.id)

/-- The oldest unfired command of a queue, or of a copy channel of a team, is the command (R175, R177, R182). -/
def CoreSt.nextToFire (c : CoreSt) (q : Nat) (k : Cmd) : Bool :=
  match (c.queues.getD q []).find? (fun j => !j.fired && (decide (q ≠ 0) || (decide (j.team = k.team) && decide (j.ch = k.ch)))) with
  | some j => decide (j.id = k.id)
  | none => false

/-- A command may fire (R177): its turn has come, its rings are ready, and neither a stop nor a drain of the crew
holds it (R223, R230). -/
def State.fireReady (s : State) (core q id : Nat) : Bool :=
  let c := s.core core
  match c.cmd? q id with
  | none => true
  | some k =>
    match s.team? core k.team with
    | none => true
    | some t =>
      c.nextToFire q k &&
      (match k.op.ringIn with
       | some r => decide (t.rin.getD r 0 + 1 ≤ t.filled r)
       | none => true) &&
      (match k.op.ringOut with
       | some r => decide (t.rout.getD r 0 + 1 ≤ t.free r)
       | none => true) &&
      (match s.crew? t.crew with
       | some w => (!w.stopped && w.trig.isNone || decide (w.drain ≠ .running)) && (decide (q ≠ 1) || decide (w.drain = .running))
       | none => true)

/-- A command fires: it reserves its slots (R177) and starts, or retires if it has nothing to deliver. -/
def execCommandFire (s : State) : Host.Outcome State Fault Refusal :=
  match s.ev with
  | .commandFire core q id =>
    match (s.core core).cmd? q id with
    | none => .next s
    | some k =>
      match s.team? core k.team with
      | none => .next s
      | some t =>
        if !s.fireReady core q id then .next (s.post (.commandFire core q id))
        else
          let i := k.op.ringIn.map (fun r => t.rcons.getD r 0 + t.rin.getD r 0)
          let o := k.op.ringOut.map (fun r => t.rprod.getD r 0 + t.rout.getD r 0)
          let bump (l : List Nat) (r : Option Nat) : List Nat := match r with
            | some n => l.set n (l.getD n 0 + 1)
            | none => l
          let k1 := { k with fired := true, inSlot := i, outSlot := o }
          let s1 := (s.updCmd core id (fun _ => k1)).updTeam core k.team
            (fun t => { t with rin := bump t.rin k.op.ringIn, rout := bump t.rout k.op.ringOut })
          .next (s1.post (if q = 1 ∨ k1.total t = 0 then .commandRetire core q id else .copyDelivery core id))
  | _ => .next s

/-- Older commands of its channel, or of its team in its queue, have still to deliver (R182, R322). Log 58 (DEDUCED). -/
def CoreSt.behindOlder (c : CoreSt) (q : Nat) (t : Team) (k : Cmd) : Bool :=
  (c.queues.getD q []).any fun j =>
    decide (j.id < k.id) && decide (j.team = k.team) && decide (j.ch = k.ch) && !j.done &&
    (!j.fired || decide (j.pos < j.total t))

/-- An access of the issuing gang to these bytes is on its way that a command must follow (R203). -/
def State.engineFollows (s : State) (k : Cmd) (p : Place) (n : Nat) (write : Bool) : Bool :=
  s.accessPending k.gang (fun a => (write || kindWrites a.kind) && samePlace a.place p a.size n)

/-- The bytes that an end supplies. -/
def State.endBytes (s : State) (e : RunEnd) (p : Place) (n : Nat) : List Byte :=
  match e with
  | .fill w => (List.range n).map (fun i => (w.rotateRight (8 * (i % 4))).setWidth 8)
  | _ => s.readPlace p n

/-- A delivery of a command waits: for an older command of its channel, for the replay of a fault, or because it is
over. -/
def State.deliveryWaits (s : State) (core id : Nat) : Bool :=
  let c := s.core core
  let q := c.queueOf id
  match c.cmd? q id with
  | none => false
  | some k =>
    match s.team? core k.team with
    | none => false
    | some t => c.behindOlder q t k

/-- The ranks of a crew that have a landing of a command to come are told of it (R220). -/
def State.landAll (s : State) (core id : Nat) (n : Nat) : State :=
  (List.range n).foldl (fun s' r => s'.postOnce (.mcastFillLand core id r)) s

/-- Bytes that the next delivery of a command moves at most: a lane of `gath` or `scat` goes whole (log 34). -/
def State.pieceMax (s : State) (k : Cmd) : Nat :=
  match k.op with
  | .gath .. | .scat .. => 8
  | _ => 1 + Config.chunk s.tick % 128

/-- A place in the host's memory (R374). -/
def isHost (p : Place) : Bool :=
  match p with
  | .host .. => true
  | _ => false

/-- One delivery of a command (R182, R201, R204, R220): the next bytes are read and written, or, for `mcast`, read
to be landed. A transfer of more than 4 KiB through the host window has an engine of the pool (R370). Log 34 (DESIGN CHOICE). -/
def State.deliverPiece (s : State) (core q : Nat) (t : Team) (k : Cmd) : State :=
  let again (s : State) : State := s.post (.copyDelivery core k.id)
  let pooled (s : State) (p d : Place) : Bool := decide (4096 < k.total t) && (isHost p || isHost d) &&
    !s.engineHeld (dieOf core) k.session 0
  match runAt (k.runs t) k.pos with
  | none => s.post (.commandRetire core q k.id)
  | some r =>
    let m := min r.len (min (s.pieceMax k) (min r.src.room r.dst.room))
    match s.endPlace core k t r.src m false with
    | (.ok p, s1) =>
      match s1.endPlace core k t r.dst m true with
      | (.ok d, s2) =>
        let isFill := match r.src with | .fill _ => true | _ => false
        let lands := match r.dst with | .fill _ => true | _ => false
        let n := if isFill || lands then m else min m (placeGap p d)
        if pooled s2 p d then again (s2.wantEngine (dieOf core) k.session 0)
        else if !isFill && !s2.openPlace p then again (s2.waitPlace p)
        else if !lands && !s2.openPlace d then again (s2.waitPlace d)
        else if (!isFill && s2.engineFollows k p n false) ||
            (!lands && s2.engineFollows k d n true) then again s
        else
          let bs := s2.endBytes r.src p n
          let pos := k.pos + n
          let s3 := if isFill then s2 else s2.watchHome t.crew k.gang k.pc k.seq 2 p n
          let s4 :=
            if lands then
              ((s3.updCmd core k.id (fun j => { j with pos := pos, buf := j.buf ++ bs })).landAll core k.id
                (((s3.crew? t.crew).map (fun c => c.cores.length)).getD 0))
            else
              (((s3.devWrite (some core) true k.session d bs).updCmd core k.id (fun j => { j with pos := pos })).updTeam
                core k.team (fun t => if q = 0 then { t with cwp := t.cwp.modify k.ch (· + BitVec.ofNat 32 n) } else t)).watchHome
                t.crew k.gang k.pc k.seq 3 d n
          if pos < k.total t then again s4
          else if lands then s4 else s4.post (.commandRetire core q k.id)
      | (x, s2) => s2.cmdFault core k r.dst true x
    | (x, s1) => s1.cmdFault core k r.src false x

/-- The step COPY_DELIVERY (R182). -/
def execCopyDelivery (s : State) : Host.Outcome State Fault Refusal :=
  match s.ev with
  | .copyDelivery core id =>
    let c := s.core core
    let q := c.queueOf id
    match c.cmd? q id with
    | none => .next s
    | some k =>
      match s.team? core k.team with
      | none => .next s
      | some t =>
        if k.stall.isSome ∨ k.done then .next s
        else if c.behindOlder q t k then .next (s.post (.copyDelivery core id))
        else .next (s.deliverPiece core q t k)
  | _ => .next s

/-- Bytes of an `mcast` land in the block of one member, in increasing order, and count against the barrier's PBC
there (R220). -/
def execMcastFillLand (s : State) : Host.Outcome State Fault Refusal :=
  match s.ev with
  | .mcastFillLand core id rank =>
    match (s.core core).cmd? 3 id with
    | none => .next s
    | some k =>
      match k.op, s.team? core k.team with
      | .mcast off _ len bar, some t =>
        match s.crew? t.crew with
        | none => .next s
        | some c =>
          let at_ := k.landed.getD rank 0
          let o := Config.clusterShare + c.cmbase.getD rank 0 + off + at_
          let n := min (k.pos - at_) (min (1 + Config.chunk s.tick % 128) (128 - o % 128))
          let p := Place.store (c.cores.getD rank 0) o
          if n = 0 then .next s
          else if s.engineFollows k p n true then .next (s.post (.mcastFillLand core id rank))
          else
            let landed := (fitList 0 c.cores.length k.landed).set rank (at_ + n)
            let s1 := (s.devWrite (some core) true k.session p ((k.buf.drop at_).take n)).updCmd core id
              (fun j => { j with landed := landed })
            let s2 := (s1.watchHome t.crew k.gang k.pc k.seq 3 p n).lowerPbc t.crew bar (fun r => if r = rank then n else 0)
            let s3 := if at_ + n < k.pos then s2.post (.mcastFillLand core id rank) else s2
            .next (if landed.all (fun x => decide (x = len)) then s3.post (.commandRetire core 3 id) else s3)
      | _, _ => .next s
  | _ => .next s

/-- The command is an `asave`, which a held command does not hold back (R213; log 61). -/
def Cmd.saves (k : Cmd) : Bool :=
  match k.op with
  | .matrix (.asave _) => true
  | _ => false

/-- Older matrix commands of the queue have retired, but for held ones of other sessions (R194, R213). -/
def CoreSt.mxTurn (c : CoreSt) (k : Cmd) : Bool :=
  !(((c.queues.getD 1 []).takeWhile (fun i => decide (i.id ≠ k.id))).any fun j =>
    !j.done && (!j.held || (decide (j.session = k.session) && !k.saves)))

/-- A held command waits for the trap of its gang and for the handler's `rti` (R213). -/
def State.awaitsRti (s : State) (k : Cmd) : Bool :=
  k.held && (s.gang? k.gang).any (fun x => x.trap.tcause.getLsbD 15 || decide (x.foreign ≠ []))

/-- A matrix command retires (R194): it has been checked again if it was held (R213), and acts. -/
def State.retireMx (s : State) (core : Nat) (k : Cmd) (t : Team) (m : MxOp) : State :=
  let go := match s.crew? t.crew with | some w => decide (w.drain = .running) | none => true
  if !go || !(s.core core).mxTurn k || s.awaitsRti k then s.post (.commandRetire core 1 k.id)
  else
    match s.recheck core k m with
    | .ok s1 =>
      let s2 := (s1.updCmd core k.id (fun j => { j with held := false })).runMx core k t m
      (s2.setCore core { s2.core core with mxIdle := 0 }).finishCmd core 1 k.id
    | .wait s1 => s1.post (.commandRetire core 1 k.id)
    | .failed s1 => s1
    | .foreign _ => s

/-- A command that has delivered everything retires: its rings advance after its writes (R177), and a follow-on
command is pushed next (R202). -/
def execCommandRetire (s : State) : Host.Outcome State Fault Refusal :=
  match s.ev with
  | .commandRetire core q id =>
    match (s.core core).cmd? q id with
    | none => .next s
    | some k =>
      match k.op, s.team? core k.team with
      | _, none => .next s
      | .matrix m, some t => .next (if k.fired then s.retireMx core k t m else s)
      | _, some t =>
        if k.done ∨ !k.fired then .next s
        else if (s.core core).behindOlder q t k then .next (s.post (.commandRetire core q id))
        else
          let s1 := (s.updTeam core k.team (fun t => t.release k true)).finishCmd core q id
          .next (if (s1.core core).follow.any (fun j => decide (j.id = id + 1)) then s1.post (.followOnPush core (id + 1)) else s1)
  | _ => .next s

/-- A follow-on command is pushed into the matrix queue when it has room (R202). -/
def execFollowOnPush (s : State) : Host.Outcome State Fault Refusal :=
  match s.ev with
  | .followOnPush core id =>
    let c := s.core core
    match c.follow.find? (fun k => decide (k.id = id)) with
    | none => .next s
    | some k =>
      if Config.queueDepth.getD 1 0 ≤ c.queued 1 then .next (s.post (.followOnPush core id))
      else
        .next ((s.setCore core
          { c with
            queues := c.queues.modify 1 (· ++ [k])
            follow := c.follow.filter (fun j => decide (j.id ≠ id)) }).post (.commandFire core 1 id))
  | _ => .next s

/-- A range of an operand lies where R132 lets it (R192 item 4): `lo` and `hi` are its bounds in bytes from the
address. Log 71 (DEDUCED). -/
def State.rangeOk (s : State) (core : Nat) (t : Team) (ea : VAddr) (lo hi : Int) : Bool :=
  let a : Int := ea.toNat
  if isAperture ea then
    decide (0 ≤ (ea.toNat % 2 ^ 48 : Nat) + lo) && decide ((ea.toNat % 2 ^ 48 : Nat) + hi ≤ 2 ^ 48) &&
    (s.aperture core t (a + lo).toNat 0).isSome && (s.aperture core t (a + lo).toNat (hi - lo).toNat).isSome
  else decide (0 ≤ a + lo) && decide (a + hi ≤ 2 ^ 56)

/-- What the checks of an engine instruction come to: its command with its channel and the lines and rows it may
write, a trap with lanes and address, or no effect. -/
inductive EngCheck where
  | go (op : CmdOp) (ch lines : Nat)
  | trap (cause : BitVec 8) (info : BitVec 16) (lanes : LaneSet) (addr : VAddr)

/-- The ring checks of R200: a LEN beyond the slot, by INFO. -/
def ringShort (t : Team) (len : Nat) (r : Option Nat) : Option (BitVec 16) :=
  match r with
  | some n => if fieldNat (t.rdesc.getD n 0) 24 8 * 128 < len then some (BitVec.ofNat 16 (0x200 + n)) else none
  | none => none

/-- A named ring is disabled (R178). -/
def ringOff (t : Team) (r : Option Nat) : Bool := r.any (fun n => decide (fieldNat (t.rdesc.getD n 0) 24 8 = 0))

/-- Items 2 to 6 of R192 for `copy` and `cfill`. -/
def copyCheck (s : State) (v : View) (sh : Shape) (t : Team) (fill : Bool) : EngCheck :=
  let core := v.cur.gang.core
  let c : Word := (v.opB sh 0).setWidth 32
  let len := cctlLen c
  let dst : VAddr := (v.opC sh 0).setWidth 57
  let src : VAddr := (v.opA sh 0).setWidth 57
  let op := if fill then CmdOp.cfill dst ((v.opA sh 0).setWidth 32) c else .copy dst src c
  if fieldNat c 30 2 ≠ 0 ∨ (fill ∧ c.getLsbD 26) then .trap 0x02 0 v.act 0
  else if fill ∧ ((op.ringOut.isNone ∧ dst.toNat % 4 ≠ 0) ∨ len % 4 ≠ 0) then .trap 0x20 0 v.act dst
  else if !fill ∧ op.ringIn.isNone ∧ !s.rangeOk core t src 0 len then .trap 0x40 0x300 v.act src
  else if op.ringOut.isNone ∧ !s.rangeOk core t dst 0 len then .trap 0x40 0x302 v.act dst
  else
    match ringShort t len op.ringIn, ringShort t len op.ringOut with
    | some i, _ => .trap 0x40 i v.act 0
    | none, some i => .trap 0x40 i v.act 0
    | none, none =>
      if ringOff t op.ringIn ∨ ringOff t op.ringOut then .trap 0x45 0 v.act 0
      else .go op (fieldNat c 20 2) (len / 128 + 2)

/-- Items 3 to 5 of R192 for `tld`, `tsto` and `copyf`. -/
def tileCheck (s : State) (v : View) (sh : Shape) (t : Team) (tile ch : Nat) (load : Bool) : EngCheck :=
  let ea : VAddr := (v.opA sh 0).setWidth 57
  let stride : Word := (v.opB sh 0).setWidth 32
  let T := t.tile tile
  let far : Int := ((T.rows : Int) - 1) * stride.toInt
  let info : BitVec 16 := BitVec.ofNat 16 (0x100 + tile)
  if ea.toNat % 4 ≠ 0 ∨ stride.toNat % 4 ≠ 0 then .trap 0x20 0 v.act ea
  else if !s.rangeOk v.cur.gang.core t ea (min 0 far) (max 0 far + T.rowbytes) then .trap 0x40 0x300 v.act ea
  else if !T.inArea t then .trap 0x40 info v.act 0
  else if !tileType T.typ then .trap 0x44 info v.act 0
  else .go (if load then .tld tile ea stride else .tsto tile ea stride) ch (T.rows * (T.rowbytes / 128 + 2))

/-- Items 2 to 4 of R192 for `gath` and `scat`. Log 86 (DEDUCED). -/
def gatherCheck (s : State) (v : View) (sh : Shape) (t : Team) (load : Bool) : EngCheck :=
  let core := v.cur.gang.core
  let g : Word := (v.opB sh 0).setWidth 32
  let size : Nat := 2 ^ fieldNat g 0 2
  let base : VAddr := (v.opC sh 0).setWidth 57
  let ls := (lanesOf v.act).map (fun l => (l, ((v.opA sh l).setWidth 57 : VAddr)))
  let bad := ls.filter (fun l => decide (l.2.toNat % size ≠ 0))
  let out := ls.filter (fun l => !s.rangeOk core t l.2 0 size)
  let lanes (xs : List (Nat × VAddr)) : LaneSet := laneSet (fun l => xs.any (fun x => decide (x.1 = l)))
  if fieldNat g 2 30 ≠ 0 then .trap 0x02 0 v.act 0
  else if base.toNat % size ≠ 0 then .trap 0x20 0 v.act base
  else
    match bad, out with
    | b :: _, _ => .trap 0x20 0 (lanes bad) b.2
    | [], b :: _ => .trap 0x40 0x300 (lanes out) b.2
    | [], [] =>
      if ls.any (fun l => !s.rangeOk core t base (l.1 * size : Nat) ((l.1 * size + size : Nat) : Int)) then
        .trap 0x40 0x302 v.act base
      else .go (if load then .gath base ls size else .scat base ls size) 0 (2 * ls.length)

/-- Items 2 and 4 of R192 for `mcast` (R204, R220). -/
def mcastCheck (s : State) (v : View) (sh : Shape) (t : Team) : EngCheck :=
  let m : Word := (v.opB sh 0).setWidth 32
  let len := fieldNat m 0 20
  let src : VAddr := (v.opA sh 0).setWidth 57
  let dst : VAddr := (v.opC sh 0).setWidth 57
  let block := ((s.crew? t.crew).map (fun c => c.cmcore * 1024)).getD 0
  let n := ((s.crew? t.crew).map (fun c => c.cores.length)).getD 0
  if fieldNat m 24 8 ≠ 0 then .trap 0x02 0 v.act 0
  else if !s.rangeOk v.cur.gang.core t src 0 len then .trap 0x40 0x300 v.act src
  else if dst.toNat / 2 ^ 48 ≠ 0x102 ∨ block < dst.toNat % 2 ^ 48 + len then .trap 0x40 0x302 v.act dst
  else .go (.mcast (dst.toNat % 2 ^ 48) src len (fieldNat m 20 4)) 0 (n * (len / 128 + 2))

/-- The undo log has room for what a command may write; one that an empty log could not hold goes on (R276). -/
def State.logHolds (s : State) (n lines : Nat) : Bool :=
  decide (lines ≤ s.logRoom n) || decide ((s.ses n).logUsed = 0)

/-- The session's addresses that a command reads and writes are matched against virtual watchpoints at issue
(R328). -/
def State.watchRuns (s : State) (v : View) (t : Team) (k : Cmd) : State :=
  let addrs (f : Run → RunEnd) : List (VAddr × Nat) := (k.runs t).filterMap fun r => match f r with
    | .addr a => some (a, r.len)
    | _ => none
  let s1 := (addrs (·.src)).foldl (fun s' p => s'.watchVirtual v.cur.gang v.cur.addr 2 [p.1] p.2) s
  (addrs (·.dst)).foldl (fun s' p => s'.watchVirtual v.cur.gang v.cur.addr 3 [p.1] p.2) s1

/-- The command that `push` would push, before it has fired. -/
def View.cmdOf (v : View) (op : CmdOp) (ch : Nat) : Cmd :=
  { id := 0, gang := v.cur.gang, team := v.gang.team, session := v.core.sessionOf v.gang,
    level := v.core.level v.gang, pc := v.cur.addr, seq := v.gang.seqs, op := op, ch := ch, fired := false, pos := 0, landed := [],
    stall := none, stallAt := 0, done := false, held := false, buf := [], inSlot := none, outSlot := none }

/-- A PBC of the crew would pass its 28 bits (R220). -/
def State.pbcFull (s : State) (t : Team) (op : CmdOp) : Bool :=
  match op, s.crew? t.crew with
  | .mcast _ _ len bar, some c => (c.bar bar).pbc.any (fun n => decide (2 ^ 28 - 1 < n + len))
  | _, _ => false

/-- LEN of an `mcast` counts against its barrier in every member's core from issue on (R220). -/
def State.raisePbc (s : State) (t : Team) (op : CmdOp) : State :=
  match op with
  | .mcast _ _ len bar =>
    s.updCrew t.crew fun c =>
      { c with bars := c.bars.modify bar (fun b => { b with pbc := b.pbc.map (· + len) }) }
  | _ => s

/-- An engine instruction of the copy, gather or collective class issues (R190, R192). Log 70 (DEDUCED). -/
def engineOp (i : Instr) (q : Nat) (check : State → View → Shape → Team → EngCheck) (s : State) :
    Host.Outcome State Fault Refusal :=
  issueChecked i s fun v sh s1 go =>
    if v.act = 0 then (go s1).retire
    else
      match v.core.team? v.gang.team with
      | none => s1
      | some t =>
        match check s1 v sh t with
        | .trap c info lanes addr => s1.trapNow c info lanes addr
        | .go op ch lines =>
          match s1.pushWait v q with
          | some r => s1.hold r
          | none =>
            if s1.pbcFull t op then s1.hold .pbfull
            else if !s1.logHolds (v.core.sessionOf v.gang) lines then s1.logFull (v.core.sessionOf v.gang)
            else ((((go s1).watchRuns v t (v.cmdOf op ch)).raisePbc t op).push v q op ch).retire

/-- `copy` (R201). -/
def execCopy (d a b : Reg) (s : State) : Host.Outcome State Fault Refusal :=
  engineOp (.copy d a b) 0 (fun s1 v sh t => copyCheck s1 v sh t false) s

/-- `cfill` (R201). -/
def execCfill (d a b : Reg) (s : State) : Host.Outcome State Fault Refusal :=
  engineOp (.cfill d a b) 0 (fun s1 v sh t => copyCheck s1 v sh t true) s

/-- `tld` (R201). -/
def execTld (ch : BitVec 2) (t : BitVec 4) (a b : Reg) (s : State) : Host.Outcome State Fault Refusal :=
  engineOp (.tld ch t a b) 0 (fun s1 v sh tm => tileCheck s1 v sh tm t.toNat ch.toNat true) s

/-- `tsto` (R201). -/
def execTsto (ch : BitVec 2) (t : BitVec 4) (a b : Reg) (s : State) : Host.Outcome State Fault Refusal :=
  engineOp (.tsto ch t a b) 0 (fun s1 v sh tm => tileCheck s1 v sh tm t.toNat ch.toNat false) s

/-- `gath` (R204). -/
def execGath (d a b : Reg) (s : State) : Host.Outcome State Fault Refusal :=
  engineOp (.gath d a b) 2 (fun s1 v sh t => gatherCheck s1 v sh t true) s

/-- `scat` (R204). -/
def execScat (d a b : Reg) (s : State) : Host.Outcome State Fault Refusal :=
  engineOp (.scat d a b) 2 (fun s1 v sh t => gatherCheck s1 v sh t false) s

/-- `mcast` (R220). -/
def execMcast (d a b : Reg) (s : State) : Host.Outcome State Fault Refusal :=
  engineOp (.mcast d a b) 3 mcastCheck s

/-- The instruction of a follow-on word (R202). -/
def followInstr (w : Word) : Option Instr :=
  match decode w with
  | .ok i => match i with
    | .tmma .. | .ttr .. | .tred .. | .amovt .. | .azero .. => some i
    | _ => none
  | _ => none

/-- The follow-on command joins the list of those to be pushed, counted from the issue of its copy (R179, R202). -/
def State.pushFollow (s : State) (v : View) (op : CmdOp) : State :=
  let core := v.cur.gang.core
  let c := s.core core
  let k := { v.cmdOf op 0 with id := s.nextId }
  (s.fresh.setCore core { c with follow := c.follow ++ [k] }).updGang v.cur.gang (fun x => x.count 1)

/-- `copyf` (R202): a tile load whose follow-on command passes its checks now. -/
def execCopyf (ch : BitVec 2) (t : BitVec 4) (a b : Reg) (s : State) : Host.Outcome State Fault Refusal :=
  issueChecked (.copyf ch t a b) s fun v sh s1 go =>
    let w : Word := ((v.opB sh 0) >>> 32).setWidth 32
    if v.act = 0 then (go s1).retire
    else
      match v.core.team? v.gang.team, followInstr w with
      | none, _ => s1
      | some _, none => s1.trapNow 0x02 0 v.act 0
      | some tm, some j =>
        match tileCheck s1 v sh tm t.toNat ch.toNat true, mxPlan j v sh tm with
        | .trap c info lanes addr, _ => s1.trapNow c info lanes addr
        | .go .., none => s1
        | .go op n lines, some p =>
          match p.tileTrap tm with
          | some (c, info) => s1.trapNow c info v.act 0
          | none =>
            match s1.checkAcc v tm p with
            | .trap c info s2 => s2.trapNow c info v.act 0
            | .wait s2 => s2.hold .engine
            | .dealt s2 => s2
            | .go s2 =>
              match s2.pushWait v 0 with
              | some r => s2.hold r
              | none =>
                if 63 ≤ v.gang.counters.getD 1 0 then s2.hold .acount
                else if !s2.logHolds (v.core.sessionOf v.gang) lines then s2.logFull (v.core.sessionOf v.gang)
                else ((((go s2).watchRuns v tm (v.cmdOf op n)).push v 0 op n).pushFollow v (.matrix p.op)).retire

end Sys2Proof.Machine
end

