-- ==== Sys2Proof/Machine/Debug.lean ====
section
/-! DEFINITION. The `clu` and `dbg` forms (R225 to R235, R327 to R331): stopping and stepping a crew, its records,
watchpoints, and freezing and thawing. -/

namespace Sys2Proof.Machine

/-- A form whose result is delivered later and for which its group does not wait (R393). -/
def State.formResult (s : State) (v : View) (a : Reg) (w : Word) : State :=
  let d := v.dest a 1
  ((s.expect d).postAll (deliveries v.cur.gang d [w])).retire

/-- Word i of the operand in slot B of a form. -/
def View.wordB (v : View) (sh : Shape) (i : Nat) : Word := (v.slotWords sh.b 0 0).getD i 0

/-- `clu.pbc` (R225). -/
def execCluPbc (a : Reg) (id : BitVec 8) (s : State) : Host.Outcome State Fault Refusal :=
  issue (.cluPbc a id) s fun v _ s1 =>
    let w := match s1.crewOf v.cur.gang.core v.gang with
      | some c => BitVec.ofNat 28 ((c.bar id.toNat).pbc.getD (c.rankOf v.cur.gang.core) 0)
      | none => 0
    s1.formResult v a (w.setWidth 32)

/-- CSTAT of a crew, or 0 (R226). -/
def State.cstat (s : State) (o : Option Crew) : Word :=
  match o with
  | none => 0
  | some c =>
    let live : Nat :=
      if c.drain = .drained then
        (s.saved.filter (fun v => decide (v.crew.id = c.id))).foldl
          (fun n v => v.members.foldl (fun m t => if t.gangs = [] then m else m ||| 2 ^ t.team.rank) n) 0
      else (s.crewGangs c).foldl (fun m p => m ||| 2 ^ c.rankOf p.1.core) 0
    let dr := match c.drain with | .running => 0 | .draining => 1 | .drained => 2
    cstatWord live dr c.stopped c.attached c.cmcore c.cores.length

/-- `clu.cstat` (R225). -/
def execCluCstat (a b : Reg) (s : State) : Host.Outcome State Fault Refusal :=
  issueChecked (.cluCstat a b) s fun v sh s1 go =>
    let sel := v.wordB sh 0
    if fieldNat sel 16 16 ≠ 0 then s1.trapNow 0x02 0 (v.tlanes sh) 0
    else (go s1).formResult v a (s1.cstat (s1.crewAt (dieOf v.cur.gang.core) sel))

/-- What a `dbg` form needs of the crew it names: debug control, none of it yet, or nothing; a stop; a rank; a gang
(R228). -/
structure DbgNeed where
  control : Option Bool
  stopped : Bool
  rank : Bool
  gang : Bool

/-- The core and team slot of a rank of a crew whose team is resident. -/
def Crew.member (c : Crew) (r : Nat) : Option (Nat × Nat) :=
  (c.residents.find? (fun e => decide (e.1 = r))).map (fun e => e.2)

/-- The gang of a number of a resident team. -/
def State.gangNum (s : State) (core t num : Nat) : Option (GangRef × Gang) :=
  (((s.core core).teamGangs t).find? (fun e => decide (e.2.num = num))).map (fun e => (⟨core, e.1, e.2.gid⟩, e.2))

/-- The gang that a gang selector names in a crew (R228). -/
def State.selGang (s : State) (c : Crew) (sel : Word) : Option (GangRef × Gang) :=
  match c.member (fieldNat sel 9 3) with
  | some (core, t) => s.gangNum core t (fieldNat sel 12 4)
  | none => none

/-- The member of a drained crew at a rank (R223). -/
def State.savedMember (s : State) (c : Crew) (r : Nat) : Option SavedTeam :=
  (s.saved.find? (fun v => decide (v.crew.id = c.id))).bind (fun v => v.members.find? (fun m => decide (m.team.rank = r)))

/-- The rank, or the gang, that a selector names in a crew is not there (R228 step 1). -/
def State.lacks (s : State) (c : Crew) (sel : Word) (n : DbgNeed) : Bool :=
  let r := fieldNat sel 9 3
  if c.drain = .drained then
    let m := s.savedMember c r
    (n.rank && m.isNone) ||
      (n.gang && !m.any (fun t => t.gangs.any (fun e => decide (e.2.num = fieldNat sel 12 4))))
  else (n.rank && (c.member r).isNone) || (n.gang && (s.selGang c sel).isNone)

/-- The crew a `dbg` form acts on, or the cause and INFO of the first check of R228 that fails. -/
def State.dbgCrew (s : State) (v : View) (sel : Word) (n : DbgNeed) : Except (BitVec 8 × BitVec 16) Crew :=
  match s.crewAt (dieOf v.cur.gang.core) sel with
  | none => .error (0x71, 3)
  | some c =>
    if fieldNat sel 0 4 ≥ 12 ∨ s.lacks c sel n then .error (0x71, 3)
    else if v.denied c.session ∨ s.inCrew c v.cur.gang then .error (0x70, 0)
    else if c.drain ≠ .running then .error (0x71, 6)
    else if n.control = some true ∧ !c.attached then .error (0x71, 1)
    else if n.control = some false ∧ c.attached then .error (0x71, 4)
    else if n.stopped ∧ !c.stopped then .error (0x71, 2)
    else .ok c

/-- A `dbg` form on the crew that its selector names; `k` is given what makes the sequence take effect. -/
def dbgOp (i : Instr) (n : DbgNeed) (s : State) (extra : View → Shape → Bool)
    (k : View → Shape → Crew → State → (State → State) → State) : Host.Outcome State Fault Refusal :=
  issueChecked i s fun v sh s1 go =>
    let sel := v.wordB sh 0
    if fieldNat sel 16 16 ≠ 0 ∨ !extra v sh then s1.trapNow 0x02 0 (v.tlanes sh) 0
    else
      match s1.dbgCrew v sel n with
      | .error (c, info) => s1.trapNow c info (v.tlanes sh) 0
      | .ok c => k v sh c s1 go

/-- DBG_STATE with INFO 5: an operand the form cannot act on (R229, R234). -/
def State.badOperand (s : State) (v : View) (sh : Shape) : State := s.trapNow 0x71 5 (v.tlanes sh) 0

def needControl : DbgNeed := ⟨some true, false, false, false⟩

/-- `dbg.attach` (R227). -/
def execDbgAttach (a b : Reg) (s : State) : Host.Outcome State Fault Refusal :=
  dbgOp (.dbgAttach a b) ⟨some false, false, false, false⟩ s (fun _ _ => true) fun v sh c s1 go =>
    let area : VAddr := (v.opA sh 0).setWidth 57
    if area.toNat % 128 ≠ 0 then s1.badOperand v sh
    else ((go s1).updCrew c.id (fun k => { k with attached := true, area := area, asess := v.core.sessionOf v.gang })).retire

/-- A crew free of watchpoints. -/
def noWatch : List Watchpoint := List.replicate 4 ⟨0, false, 0⟩

/-- The groups that a fetch watchpoint stopped before the sequence at `pc` may issue it (R329). -/
def Gang.clearFetch (x : Gang) (pc : PC) : Gang :=
  { x with groups := (List.range 12).map fun e =>
      if (x.group e).wait = .debug ∧ (x.slice (x.lead (x.groupSlices e))).pc = pc then { x.group e with cleared := true }
      else x.group e }

/-- A stopped crew resumes (R227, R230): the sequence at which a fetch watchpoint stopped it will issue (R329), and a step
still under way is over. -/
def State.resume (s : State) (c : Crew) : State :=
  if c.stopped then
    let s1 := s.updCrew c.id (fun k => { k with stopped := false, trig := none, window := none })
    let s2 := match c.trig with
      | some t => match t.gang with
        | some g => if t.why = 0 ∧ t.seq = none then s1.updGang g (fun x => x.clearFetch t.pc) else s1
        | none => s1
      | none => s1
    s2.answerAll (fun w => decide (w = .step c.id)) []
  else s

/-- `dbg.detach` (R227). -/
def execDbgDetach (b : Reg) (s : State) : Host.Outcome State Fault Refusal :=
  dbgOp (.dbgDetach b) needControl s (fun _ _ => true) fun _ _ c s1 go =>
    let s2 := ((go s1).resume c).updCrew c.id (fun k => { k with attached := false, trig := none, wps := noWatch })
    ((s2.drop (fun e => decide (e = .stopRecords c.id))).answerAll (fun w => decide (w = .stop c.id)) []).retire

/-- `dbg.go` (R227). -/
def execDbgGo (b : Reg) (s : State) : Host.Outcome State Fault Refusal :=
  dbgOp (.dbgGo b) needControl s (fun _ _ => true) fun _ _ c s1 go => ((go s1).resume c).retire

/-- Watchpoint w of a crew written. -/
def State.setWatch (s : State) (c : Crew) (w : Nat) (p : Watchpoint) : State :=
  s.updCrew c.id (fun k => { k with wps := k.wps.set w p })

/-- `dbg.wpset` (R229). -/
def execDbgWpset (w : BitVec 8) (b : Reg) (s : State) : Host.Outcome State Fault Refusal :=
  dbgOp (.dbgWpset w b) needControl s (fun v sh => decide (fieldNat (v.wordB sh 1) 7 25 = 0)) fun v sh c s1 go =>
    let ctl := v.wordB sh 1
    let o := (v.wordB sh 2).toNat
    let n := 2 ^ fieldNat ctl 0 2
    if ctl.getLsbD 6 ∨ o % n ≠ 0 ∨ c.cores.length * c.cmcore * 1024 < o + n then s1.badOperand v sh
    else ((go s1).setWatch c w.toNat ⟨ctl, false, o⟩).retire

/-- `dbg.vwpset` (R328). -/
def execDbgVwpset (w : BitVec 8) (b : Reg) (s : State) : Host.Outcome State Fault Refusal :=
  dbgOp (.dbgVwpset w b) needControl s (fun v sh => decide (fieldNat (v.wordB sh 1) 7 25 = 0)) fun v sh c s1 go =>
    let ctl := v.wordB sh 1
    let va : VAddr := (dwordOf [v.wordB sh 2, v.wordB sh 3]).setWidth 57
    if isAperture va ∨ va.toNat % 2 ^ fieldNat ctl 0 2 ≠ 0 then s1.badOperand v sh
    else ((go s1).setWatch c w.toNat ⟨ctl, true, va.toNat⟩).retire

/-- The address of the record of a gang of a crew (R231). -/
def Crew.recordAt (c : Crew) (rank num : Nat) : Nat := (c.area.toNat + 128 * (16 * rank + num)) % 2 ^ 57

/-- The lines of the records of a crew's live gangs. -/
def State.recordLines (s : State) (c : Crew) : List Nat :=
  (s.crewGangs c).flatMap fun p =>
    match (s.span (devAsk c.die c.asess 0) (c.recordAt (c.rankOf p.1.core) p.2.num) 128).1 with
    | .ok ps => ps.filterMap (fun q => match q.1 with
      | .mem pa _ => some (lineOf pa)
      | _ => none)
    | _ => []

/-- The records of a crew are visible to a gang of a core (R227). -/
def State.showRecords (s : State) (c : Crew) (core : Nat) : State :=
  let ls := s.recordLines c
  s.show core (fun l => decide (l ∈ ls))

/-- The records of a crew are visible to the gangs whose forms wait for them (R227). -/
def State.showWaiters (s : State) (c : Crew) (what : WaitFor) : State :=
  (s.waiters.filter (fun w => decide (w.what = what))).foldl (fun s' w => s'.showRecords c w.gang.core) s

/-- `dbg.stop` (R230): the stop begins two cycles after issue, and the form waits for the records. -/
def execDbgStop (b : Reg) (s : State) : Host.Outcome State Fault Refusal :=
  dbgOp (.dbgStop b) needControl s (fun _ _ => true) fun v _ c s1 go =>
    if c.stopped then ((go s1).showRecords c v.cur.gang.core).retire
    else
      let s2 := (go s1).trigger c
        { cycle := (s1.die (dieOf v.cur.gang.core)).cyc + 2, why := 1, wp := 0, gang := none,
          seq := none, pc := 0, addr := 0 }
      s2.await (.stop c.id) .debug []

/-- `dbg.wait`: it waits until the crew is stopped and its records are written. -/
def execDbgWait (b : Reg) (s : State) : Host.Outcome State Fault Refusal :=
  dbgOp (.dbgWait b) needControl s (fun _ _ => true) fun v _ c s1 go =>
    if c.stopped then ((go s1).showRecords c v.cur.gang.core).retire else s1.hold .debug

/-- `dbg.step` (R233). -/
def execDbgStep (b : Reg) (s : State) : Host.Outcome State Fault Refusal :=
  dbgOp (.dbgStep b) ⟨some true, true, true, true⟩ s (fun _ _ => true) fun v sh c s1 go =>
    if c.window.isSome then s1.hold .debug
    else
      match s1.selGang c (v.wordB sh 0) with
      | none => (go s1).retire
      | some (g, x) =>
        let w : StepWindow :=
          { gang := g, rank := fieldNat (v.wordB sh 0) 9 3, gnum := x.num, since := (s1.die c.die).cyc, issued := [],
            trapped := false }
        (((go s1).updCrew c.id (fun k => { k with window := some w })).postOnce (.stepWindowClose c.id)).await (.step c.id) .debug []

/-- The place of a `dbg.rd` or `dbg.wr` in the store of the core of the named rank (R234). -/
def State.dbgPlace (s : State) (v : View) (sh : Shape) (c : Crew) : Option (Nat × Nat × Nat) :=
  let o := (v.wordB sh 1).toNat
  match c.member (fieldNat (v.wordB sh 0) 9 3) with
  | none => none
  | some (core, t) =>
    match s.team? core t with
    | none => none
    | some tm => if o % 4 = 0 ∧ o < tm.bytes then some (core, tm.base + o, tm.session) else none

/-- `dbg.rd` (R234). -/
def execDbgRd (a b : Reg) (s : State) : Host.Outcome State Fault Refusal :=
  dbgOp (.dbgRd a b) ⟨some true, true, true, false⟩ s (fun _ _ => true) fun v sh c s1 go =>
    match s1.dbgPlace v sh c with
    | none => s1.badOperand v sh
    | some (core, o, _) => (go s1).formResult v a (Cells.get 0 (s1.core core).store (o / 4))

/-- `dbg.wr` (R234). -/
def execDbgWr (a b : Reg) (s : State) : Host.Outcome State Fault Refusal :=
  dbgOp (.dbgWr a b) ⟨some true, true, true, false⟩ s (fun _ _ => true) fun v sh c s1 go =>
    match s1.dbgPlace v sh c with
    | none => s1.badOperand v sh
    | some (core, o, n) =>
      if !s1.logFits n [.store core o] then s1.logFull n
      else
        (((go s1).logRows n [storeRow core o]).updStore core (fun st => Cells.put 0 st (o / 4) (v.wordA sh))).retire

/-- `dbg.why` (R327). -/
def execDbgWhy (a b : Reg) (s : State) : Host.Outcome State Fault Refusal :=
  dbgOp (.dbgWhy a b) ⟨none, false, true, true⟩ s (fun _ _ => true) fun v sh c s1 go =>
    let n := (v.wordB sh 1).toNat
    if 8 ≤ n then s1.badOperand v sh
    else
      match s1.selGang c (v.wordB sh 0) with
      | none => (go s1).retire
      | some (g, x) =>
        let e := x.groupOf n
        let why := if x.live n then (s1.reason g x e).code else 0
        let dog := min 0xFFFF ((x.group e).dog / 1024)
        (go s1).formResult v a (BitVec.ofNat 32 (dog * 65536 + (if e < 4 then e else 0xFF) * 256 + why))

/-- Group e of a gang would not issue if its crew were not stopped (R232): it waits, or its next sequence would.
Log 84 (DEDUCED). -/
def State.groupWaits (s : State) (g : GangRef) (x : Gang) (e : Nat) : Bool :=
  let next := s.fetch g x e
  match (x.group e).held, next with
  | .acount, (.seq _ (.ok (.wait cls n)) _, _) => decide (n.toNat < x.counters.getD cls.toNat 0)
  | .ready, (.seq cur (.ok i) _, _) | .empty, (.seq cur (.ok i) _, _) | .latency, (.seq cur (.ok i) _, _) =>
    match ({ s with cur := cur } : State).view? with
    | some v =>
      match checkSeq v i (shape i v.mode cur.lit.isSome) with
      | .wait _ => true
      | _ => false
    | none => false
  | .ready, (.seq .., _) => false
  | .debug, (.seq _ (.ok i) _, _) => match i with
    | .dbgWait .. | .dbgStop .. | .dbgStep .. | .dbgFreeze .. | .dbgThaw .. => true
    | _ => false
  | _, _ => true

/-- DSTAT (R232). -/
def dstatWord (waiting : Bool) (steps why wp : Nat) (trig : Bool) : Word :=
  BitVec.ofNat 32 ((if waiting then 65536 else 0) + steps * 256 + why * 16 + wp * 4 + (if trig then 2 else 0) + 1)

/-- The words of one slice's state in a record (R231). -/
def Slice.recordWord (sl : Slice) : Word :=
  BitVec.ofNat 32 (sl.mode.toNat + sl.mask.toNat * 2 ^ 16 + sl.rstack.length * 2 ^ 20 + sl.lstack.length * 2 ^ 25 +
    if sl.live then 2 ^ 28 else 0)

/-- Words 8 to 31 of a gang's record (R231). -/
def Gang.recordTail (x : Gang) : List Word :=
  ((List.range 8).flatMap fun n => [(x.slice n).pc.setWidth 32, ((x.slice n).pc >>> 32).setWidth 32]) ++
  (List.range 8).map (fun n => (x.slice n).recordWord)

/-- The record of a gang at a stop (R231). -/
def State.stopRecord (s : State) (g : GangRef) (x : Gang) (t : Trigger) : List Word :=
  let mine := decide (t.gang = some g)
  let waits := x.groupList.any (s.groupWaits g x)
  let after := if mine then x.seqs - t.seq.getD x.seqs else 0
  [dstatWord waits 0 t.why (if t.why = 0 then t.wp else 0) mine, BitVec.ofNat 32 (after * 65536 + x.skid % 65536),
   if mine then t.pc.setWidth 32 else 0, if mine then (t.pc >>> 32).setWidth 32 else 0, x.gstat, x.splitWord,
   if mine then t.addr else 0, BitVec.ofNat 32 t.cycle] ++ x.recordTail

/-- Words written into a gang's record; a write that fails translation is discarded (R231). None while it waits for a
blocked frame. Log 83 (DEDUCED). -/
def State.putRecord (s : State) (c : Crew) (rank num off : Nat) (ws : List Word) : Option State :=
  let va := (c.recordAt rank num + off) % 2 ^ 57
  match s.span (devAsk c.die c.asess 1) va (4 * ws.length) with
  | (.ok ps, s1) => some (s1.writeSpan none true c.asess ps (bytesOfWords ws))
  | (.wait, _) => none
  | (_, s1) => some s1

/-- The records of every live gang of a crew. -/
def State.putRecords (c : Crew) (t : Trigger) : List (GangRef × Gang) → State → Option State
  | [], s => some s
  | (g, x) :: r, s =>
    match s.putRecord c (c.rankOf g.core) x.num 0 (s.stopRecord g x t) with
    | some s1 => State.putRecords c t r s1
    | none => none

/-- The sequences of a crew have completed or parked, and its fired commands have retired or are stalled (R230
item 4). -/
def State.quiet (s : State) (c : Crew) : Bool :=
  (s.crewGangs c).all (fun p => p.2.raised.isNone && s.settled p.1 p.2 0xFF) &&
  c.residents.all (fun r => ((s.core r.2.1).teamCmds r.2.2).all (fun k => !k.fired || k.stall.isSome))

/-- A stop is complete (R230 item 5). -/
def execStopRecords (s : State) : Host.Outcome State Fault Refusal :=
  match s.ev with
  | .stopRecords id =>
    match s.crew? id with
    | none => .next s
    | some c =>
      match c.trig with
      | none => .next s
      | some t =>
        if c.stopped then .next s
        else if (s.die c.die).cyc < t.cycle + 4 ∨ !s.quiet c then .next (s.post (.stopRecords id))
        else
          match State.putRecords c t (s.crewGangs c) s with
          | none => .next (s.post (.stopRecords id))
          | some s1 =>
            .next (((s1.showWaiters c (.stop id)).updCrew id (fun k => { k with stopped := true })).answerAll (fun w => decide (w = .stop id)) [])
  | _ => .next s

/-- A step window closes (R233): by time or because every live group has issued; the record is rewritten and the
step completes. -/
def execStepWindowClose (s : State) : Host.Outcome State Fault Refusal :=
  match s.ev with
  | .stepWindowClose id =>
    match s.crew? id with
    | none => .next s
    | some c =>
      match c.window with
      | none => .next s
      | some w =>
        let fin (t : State) : State :=
          ((t.showWaiters c (.step id)).updCrew id (fun k => { k with window := none })).answerAll (fun u => decide (u = .step id)) []
        match s.gang? w.gang with
        | none => .next (fin s)
        | some x =>
          let closes := decide (w.since + 64 ≤ (s.die c.die).cyc) || w.trapped ||
            x.groupList.all (fun e => w.issued.any (fun m => decide (m &&& x.groupSlices e ≠ 0)))
          if !closes ∨ x.raised.isSome ∨ !s.settled w.gang x 0xFF then .next (s.post (.stepWindowClose id))
          else
            let d := dstatWord (x.groupList.any (s.groupWaits w.gang x)) (min 8 w.issued.length) 3 0
              (c.trig.any (fun t => decide (t.gang = some w.gang)))
            match s.putRecord c w.rank w.gnum 0 [d] with
            | none => .next (s.post (.stepWindowClose id))
            | some s1 =>
              match s1.putRecord c w.rank w.gnum 16 [x.gstat, x.splitWord] with
              | none => .next (s1.post (.stepWindowClose id))
              | some s2 =>
                match s2.putRecord c w.rank w.gnum 32 x.recordTail with
                | none => .next (s2.post (.stepWindowClose id))
                | some s3 => .next (fin s3)
  | _ => .next s

/-- The clusters that a freeze or thaw of a scope names, as die and cluster: 0 a cluster, 1 a die, 2 the module
(R331, R379). -/
def scopeClusters (scope die cluster : Nat) : List (Nat × Nat) :=
  match scope with
  | 0 => [(die, cluster)]
  | 1 => (List.range 12).map (fun c => (die, c))
  | _ => (List.range 4).flatMap (fun d => (List.range 12).map (fun c => (d, c)))

/-- A scope names a place: only that of a cluster looks at the cluster (R379). -/
def scopeOk (scope die cluster : Nat) : Bool := decide (scope < 3) && decide (die < 4) && (decide (scope ≠ 0) || decide (cluster < 12))

/-- A core lies in one of a list of clusters. -/
def coreIn (cs : List (Nat × Nat)) (core : Nat) : Bool := decide ((dieOf core, clusterOf core) ∈ cs)

/-- A die with a freeze accepted, or with it complete, or thawed. -/
def DieSt.setFreezing (d : DieSt) (code : Nat) (on : Bool) : DieSt :=
  { d with freezing := d.freezing.filter (fun c => decide (c ≠ code)) ++ if on then [code] else [] }

def DieSt.setFrozen (d : DieSt) (code : Nat) (on : Bool) : DieSt :=
  if code = 12 then { d with frozen := on }
  else { d with frozenClusters := d.frozenClusters.filter (fun c => decide (c ≠ code)) ++ if on then [code] else [] }

/-- The dies of a scope with what freezes there: a cluster, or 12 for the die. -/
def scopeCodes (scope die cluster : Nat) : List (Nat × Nat) :=
  match scope with
  | 0 => [(die, cluster)]
  | 1 => [(die, 12)]
  | _ => (List.range 4).map (fun d => (d, 12))

def State.mapDies (s : State) (l : List (Nat × Nat)) (f : DieSt → Nat → DieSt) : State :=
  l.foldl (fun s' e => s'.setDie e.1 (f (s'.die e.1) e.2)) s

/-- A place of a scope is frozen. -/
def State.isFrozen (s : State) (e : Nat × Nat) : Bool :=
  if e.2 = 12 then (s.die e.1).frozen else decide (e.2 ∈ (s.die e.1).frozenClusters)

/-- The sessions with an unretired matrix command on the cores of clusters. -/
def State.matrixSessions (s : State) (cs : List (Nat × Nat)) : List Nat :=
  newOnes [] ((s.cores.filter (fun e => coreIn cs e.1)).flatMap fun e =>
    (((e.2.queues.getD 1 []) ++ e.2.follow).filter (fun k => k.isMatrix && !k.done)).map (·.session))

/-- The sequences issued in some clusters have completed or parked (R331). A store to DBGCMD is performed only when
the freeze is complete (R379), and does not hold it up. -/
def State.clustersQuiet (s : State) (cs : List (Nat × Nat)) : Bool :=
  (s.cores.filter (fun e => coreIn cs e.1)).all fun e =>
    (e.2.refs e.1).all fun g =>
      match s.gang? g with
      | some x => x.raised.isNone && decide (x.latency = []) &&
          !s.agenda.any (fun v => match v with
            | .accessAtHome a => decide (a.gang = g) && !decide (a.place = .mgmt 0x200000)
            | _ => false)
      | none => true

/-- Freeze images written for sessions; none while one waits. -/
def State.freezeAll : List Nat → State → Option State
  | [], s => some s
  | n :: r, s =>
    match s.writeFreeze (s.sesHome n) n with
    | .done _ s1 => State.freezeAll r s1
    | .wait _ => none
    | .fail s1 => State.freezeAll r (s1.forceReset n)

/-- A freeze of a scope goes on (R331): accepted, and complete when its sequences are, which the result says. What is
frozen already stays as it is. -/
def State.freezeStep (s : State) (scope die cluster : Nat) : Bool × State :=
  let cs := scopeClusters scope die cluster
  let codes := (scopeCodes scope die cluster).filter (fun e => !s.isFrozen e)
  let s1 := s.mapDies codes (fun d c => d.setFreezing c true)
  let fin (t : State) : State := t.answerAll (fun w => decide (scope = 0 ∧ w = .freeze (die * 16 + cluster))) []
  if codes = [] then (true, fin s)
  else if !s1.clustersQuiet cs then (false, s1)
  else
    match State.freezeAll (s1.matrixSessions cs) s1 with
    | none => (false, s1)
    | some s2 =>
      let here (c : Copy) : Bool := match c.holder with
        | .l1 k => coreIn cs k
        | .l2 d => decide (scope ≠ 0) && decide (scope = 2 ∨ d = die)
        | .stacked _ => false
      let s3 := (s2.writeBack here).dropCopies here
      (true, fin (s3.mapDies codes (fun d c => (d.setFreezing c false).setFrozen c true)))

/-- A freeze of a scope, whose step comes again until it is complete. -/
def State.freezeOn (s : State) (scope die cluster : Nat) : State :=
  match s.freezeStep scope die cluster with
  | (true, s1) => s1
  | (false, s1) => s1.postOnce (.dbgcmdFreeze scope die cluster)

/-- A freeze through the debug port, or the completion of a `dbg.freeze` (R331, R379). -/
def execDbgcmdFreeze (s : State) : Host.Outcome State Fault Refusal :=
  match s.ev with
  | .dbgcmdFreeze scope die cluster => .next (if scopeOk scope die cluster then s.freezeOn scope die cluster else s)
  | _ => .next s

/-- Freeze images read back and checked (R186, R331); none while one waits. -/
def State.thawAll : List Nat → State → Option State
  | [], s => some s
  | n :: r, s =>
    match s.readFreeze (s.sesHome n) n with
    | .done true s1 => State.thawAll r s1
    | .done false s1 => State.thawAll r (((s1.sesGangs n).foldl (fun s' p => s'.fatalBy p.1 0x43 0) s1).forceReset n)
    | .wait _ => none
    | .fail s1 => State.thawAll r (s1.forceReset n)

/-- A thaw of a scope (R331): what is not frozen stays as it is. -/
def State.thawStep (s : State) (scope die cluster : Nat) : State :=
  let codes := (scopeCodes scope die cluster).filter s.isFrozen
  if codes = [] then s
  else
    match State.thawAll (s.matrixSessions (scopeClusters scope die cluster)) s with
    | none => s.postOnce (.dbgcmdThaw scope die cluster)
    | some s1 => s1.mapDies codes (fun d c => d.setFrozen c false)

/-- The step DBGCMD_THAW (R379). -/
def execDbgcmdThaw (s : State) : Host.Outcome State Fault Refusal :=
  match s.ev with
  | .dbgcmdThaw scope die cluster => .next (if scopeOk scope die cluster then s.thawStep scope die cluster else s)
  | _ => .next s

/-- The checks of `dbg.freeze` and `dbg.thaw` (R330), then their effect on a cluster. -/
def freezeOp (i : Instr) (s : State) (k : View → Nat → Nat → State → State) : Host.Outcome State Fault Refusal :=
  issueChecked i s fun v sh s1 go =>
    let w := v.wordB sh 0
    let c := fieldNat w 0 4
    if fieldNat w 4 28 ≠ 0 then s1.trapNow 0x02 0 (v.tlanes sh) 0
    else if 12 ≤ c then s1.trapNow 0x71 3 (v.tlanes sh) 0
    else if c = clusterOf v.cur.gang.core then s1.trapNow 0x71 7 (v.tlanes sh) 0
    else k v (dieOf v.cur.gang.core) c (go s1)

/-- `dbg.freeze` (R330). -/
def execDbgFreeze (b : Reg) (s : State) : Host.Outcome State Fault Refusal :=
  freezeOp (.dbgFreeze b) s fun _ die c s1 =>
    if s1.isFrozen (die, c) then s1.retire
    else
      let s2 := s1.mapDies [(die, c)] (fun d k => d.setFreezing k true)
      (s2.postOnce (.dbgcmdFreeze 0 die c)).await (.freeze (die * 16 + c)) .debug []

/-- `dbg.thaw` (R330). -/
def execDbgThaw (b : Reg) (s : State) : Host.Outcome State Fault Refusal :=
  freezeOp (.dbgThaw b) s fun _ die c s1 => (s1.thawStep 0 die c).retire

end Sys2Proof.Machine
end

