-- ==== Sys2Proof/Machine/Port.lean ====
section
/-! DEFINITION. The debug port (R332, R379): the words of a frozen place, read and written in place. -/

namespace Sys2Proof.Machine

/-- A place that stands still because it is frozen: the word of a store, or a gang with a slice number (R332). -/
inductive DbgPlace where
  | word (core w : Nat)
  | gangRec (g : GangRef) (x : Gang) (i : Nat)
  | special (g : GangRef) (x : Gang) (slice n : Nat)

/-- The frozen place that DBGSEL and DBGADDR select (R379). -/
def State.dbgSelected (s : State) : Option DbgPlace :=
  let w := s.dbgSel
  let core := coreIndex (fieldNat w 2 2) (fieldNat w 4 4) (fieldNat w 8 3)
  let a := s.dbgAddr.toNat
  let gang := (Cells.find? (s.core core).gangs (fieldNat w 12 4)).map (fun x => ((⟨core, fieldNat w 12 4, x.gid⟩ : GangRef), x))
  if 12 ≤ fieldNat w 4 4 ∨ !s.coreFrozen core then none
  else
    match fieldNat w 0 2 with
    | 0 => if a < Config.clusterShare + Config.clusterShareBytes then some (.word core (a / 4)) else none
    | 1 => if a < Config.clusterShareBytes then some (.word core (Config.clusterShare / 4 + a / 4)) else none
    | 2 => if a < 32 then gang.map (fun g => .gangRec g.1 g.2 a) else none
    | _ => if srAssigned a then gang.map (fun g => .special g.1 g.2 (fieldNat w 16 3) a) else none

/-- The gang record of R231 of a frozen gang: with the trigger of its crew while that stands stopped, else with
nothing of a stop. -/
def State.frozenRecord (s : State) (g : GangRef) (x : Gang) : List Word :=
  let none_ : List Word :=
    [if x.groupList.any (s.groupWaits g x) then 0x10000 else 0, 0, 0, 0, x.gstat, x.splitWord, 0, 0] ++ x.recordTail
  match s.crewOf g.core x with
  | some c => if c.stopped then (c.trig.map (s.stopRecord g x)).getD none_ else none_
  | none => none_

/-- DBGDATA as it reads (R332, R379). -/
def State.dbgRead (s : State) : Word :=
  match s.dbgSelected with
  | none => 0
  | some (.word core w) => Cells.get 0 (s.core core).store w
  | some (.gangRec g x i) => (s.frozenRecord g x).getD i 0
  | some (.special g x k n) => s.srRead g x n k (4 * k)

/-- A stack, its top first, brought to a depth: entries leave at the top, and come as zero. -/
def depthTo {α : Type} (z : α) (l : List α) (n : Nat) : List α := List.replicate (n - l.length) z ++ l.drop (l.length - n)

/-- MODE written by the debug port; a reserved rounding code leaves RND as it is. -/
def pokeMode (m : ModeWord) (w : Word) : ModeWord :=
  if roundingOk (fieldNat w 4 3) then w.setWidth 16 else setField (w.setWidth 16) 4 3 (fieldNat m 4 3)

/-- The low and the high word of a program counter or address replaced. -/
def pokeLow {n : Nat} (v : BitVec n) (w : Word) : BitVec n := setField v 0 32 w.toNat
def pokeHigh {n : Nat} (v : BitVec n) (w : Word) : BitVec n := setField v 32 (n - 32) w.toNat

/-- A reconvergence entry from its word (R18). -/
def RsEntry.ofWord (w : Word) : RsEntry :=
  { phase := w.getLsbD 25, outer := w.extractLsb' 21 4, alt := w.extractLsb' 17 4, smode := w.setWidth 16 }

/-- One of the five words of a loop entry replaced (R96). -/
def LoopEntry.poke (e : LoopEntry) (i : Nat) (w : Word) : LoopEntry :=
  match i with
  | 0 => { e with start := pokeLow e.start w }
  | 1 => { e with start := pokeHigh e.start w }
  | 2 => { e with stop := pokeLow e.stop w }
  | 3 => { e with stop := pokeHigh e.stop w }
  | _ => { e with count := w }

/-- An item of a saved slice replaced by the debug port, the stacks and depths with the rest (R96). -/
def SavedSlice.poke (v : SavedSlice) (i : Nat) (w : Word) : SavedSlice :=
  if i = 2 then
    { v with
      mask := w.setWidth 4
      rstack := depthTo default v.rstack (min 16 (fieldNat w 4 5))
      lstack := depthTo default v.lstack (min 4 (fieldNat w 9 3))
      live := w.getLsbD 12 }
  else if i = 3 then { v with mode := pokeMode v.mode w }
  else if i < 4 then v.setItem i w
  else if i < 20 then { v with rstack := (v.rstack.reverse.set (i - 4) (RsEntry.ofWord w)).reverse }
  else { v with lstack := (v.lstack.reverse.modify ((i - 20) / 5) (fun e => e.poke ((i - 20) % 5) w)).reverse }

/-- The depths and lane mask of a slice (LMASK). -/
def Slice.pokeMask (sl : Slice) (mask r l : Nat) : Slice :=
  { sl with mask := BitVec.ofNat 4 mask, rstack := depthTo default sl.rstack (min 16 r), lstack := depthTo default sl.lstack (min 4 l) }

/-- The live slices of a gang set: one that no entry of the split table holds issues singly. -/
def Gang.pokeLive (x : Gang) (m : SliceSet) : Gang :=
  { x with
    slices := (List.range 8).map fun n => { x.slice n with live := m.getLsbD n }
    single := x.single ||| (m &&& ~~~(x.split.foldl (fun a b => a ||| b) 0)) }

/-- The split table set: a slice is in the first entry that names it, and issues singly if none does. -/
def Gang.pokeSplit (x : Gang) (w : Word) : Gang :=
  let e (i : Nat) : SliceSet := w.extractLsb' (8 * i) 8
  let before (i : Nat) : SliceSet := (List.range i).foldl (fun a k => a ||| e k) 0
  { x with
    split := (List.range 4).map (fun i => e i &&& ~~~before i)
    single := x.liveSet &&& ~~~before 4 }

/-- GSTAT set: LIVE, SINGLE, LOST and RX; a slice that no longer issues singly joins split-table entry 0. -/
def Gang.pokeGstat (x : Gang) (w : Word) : Gang :=
  let y := x.pokeLive (w.extractLsb' 16 8)
  let one : SliceSet := w.extractLsb' 8 8 &&& y.liveSet
  let l := y.split.map (fun m => m &&& ~~~one)
  { y with
    single := one
    split := l.modify 0 (fun m => m ||| (y.liveSet &&& ~~~one &&& ~~~(l.foldl (fun a b => a ||| b) 0)))
    lost := w.getLsbD 2
    rx := w.getLsbD 0 }

/-- A word of a trigger as the record of a gang shows it (R231, R232): the triggering gang shows all of it. -/
def Trigger.poke (t : Trigger) (g : GangRef) (x : Gang) (i : Nat) (w : Word) : Trigger :=
  let mine := decide (t.gang = some g)
  match i with
  | 0 => { t with why := fieldNat w 4 4, wp := fieldNat w 2 2, gang := if w.getLsbD 1 then some g else if mine then none else t.gang }
  | 1 => if mine then { t with seq := some (x.seqs - fieldNat w 16 16) } else t
  | 2 => if mine then { t with pc := pokeLow t.pc w } else t
  | 3 => if mine then { t with pc := pokeHigh t.pc w } else t
  | 6 => if mine then { t with addr := w } else t
  | 7 => { t with cycle := t.cycle / 2 ^ 32 * 2 ^ 32 + w.toNat }
  | _ => t

/-- A word of a gang's record written into the state it shows (R231, R332): what describes a stop into the stop its crew
stands in. Log 91 (DEDUCED). -/
def State.setRecord (s : State) (g : GangRef) (x : Gang) (i : Nat) (w : Word) : State :=
  if i = 4 then s.setGang g (x.pokeGstat w)
  else if i = 5 then s.setGang g (x.pokeSplit w)
  else if i < 8 then
    match (s.crewOf g.core x).filter (·.stopped) with
    | none => s
    | some c =>
      let s1 := s.updCrew c.id (fun k => { k with trig := k.trig.map (fun t => t.poke g x i w) })
      if i = 1 then s1.setGang g { x with skid := fieldNat w 0 16 } else s1
  else if i < 24 then
    let n := (i - 8) / 2
    let sl := x.slice n
    s.setGang g (x.setSlice n { sl with pc := if i % 2 = 0 then pokeLow sl.pc w else pokeHigh sl.pc w })
  else
    let n := i - 24
    let live := if w.getLsbD 28 then x.liveSet ||| BitVec.ofNat 8 (2 ^ n) else x.liveSet &&& ~~~BitVec.ofNat 8 (2 ^ n)
    let y := x.pokeLive live
    let sl := y.slice n
    s.setGang g (y.setSlice n { (sl.pokeMask (fieldNat w 16 4) (fieldNat w 20 5) (fieldNat w 25 3)) with mode := pokeMode sl.mode w })

/-- A special register of a frozen gang written by its number (R94, R170, R332), the read-only ones with the rest; what a
number names that no state holds stays. Log 91 (DEDUCED). -/
def State.srPoke (s : State) (g : GangRef) (x : Gang) (k n : Nat) (w : Word) : State :=
  let gang (y : Gang) : State := s.setGang g y
  let slice (f : Slice → Slice) : State := gang (x.setSlice k (f (x.slice k)))
  let trap (f : TrapRec → TrapRec) : State := gang { x with trap := f x.trap }
  let team (f : Team → Team) : State := s.updTeam g.core x.team f
  let acc (i : Nat) (f : Acc → Acc) : State := s.setCore g.core { s.core g.core with accs := (s.core g.core).accs.modify i f }
  let die (f : Nat → Nat) : State := s.setDie (dieOf g.core) { s.die (dieOf g.core) with cyc := f (s.die (dieOf g.core)).cyc }
  if n = 0 then slice (fun sl => { sl with mode := pokeMode sl.mode w })
  else if n = 1 then gang (x.pokeGstat w)
  else if n = 2 then slice (fun sl => sl.pokeMask (fieldNat w 0 4) (fieldNat w 4 5) (fieldNat w 9 3))
  else if n = 4 then gang { x with num := fieldNat w 0 4, vcount := fieldNat w 8 8 }
  else if n = 6 then team (fun t => { t with session := fieldNat w 0 12 })
  else if n = 7 then team (fun t => { t with record := { t.record with base := fieldNat w 2 2 } })
  else if n = 8 then die (fun c => c / 2 ^ 32 * 2 ^ 32 + w.toNat)
  else if n = 9 then die (fun c => c % 2 ^ 32 + w.toNat * 2 ^ 32)
  else if n < 0x10 then s
  else if n = 0x10 then trap (fun t => { t with tcause := w &&& 0xFFFF8FFF })
  else if n = 0x11 then trap (fun t => { t with tpc := pokeLow t.tpc w })
  else if n = 0x12 then trap (fun t => { t with tpc := pokeHigh t.tpc w })
  else if n = 0x13 then trap (fun t => { t with taddr := pokeLow t.taddr w })
  else if n = 0x14 then trap (fun t => { t with taddr := pokeHigh t.taddr w })
  else if n = 0x15 then trap (fun t => { t with tlanes := w })
  else if n = 0x16 then trap (fun t => { t with tsplit := w })
  else if n < 0x100 then trap (fun t => { t with tsave := t.tsave.set (n - 0x18) w })
  else if n < 0x300 then
    trap (fun t => { t with tslice := (fitList default 8 t.tslice).modify ((n - 0x100) / 64) (fun v => v.poke (n % 64) w) })
  else if n < 0x310 then team (fun t => { t with tctl := t.tctl.set (n - 0x300) (w &&& 0xFF0FFFFF) })
  else if n < 0x320 then team (fun t => { t with tbase := t.tbase.set (n - 0x310) (w &&& 0x000FFFF0) })
  else if n < 0x324 then
    acc (n - 0x320) fun a =>
      { a with ext := min 8 (fieldNat w 8 4), q36 := w.getLsbD 5, lost := w.getLsbD 4, nan := w.getLsbD 1, ovf := w.getLsbD 0 }
  else if n < 0x328 then acc (n - 0x324) fun a => { a with valid := w.getLsbD 15, session := fieldNat w 0 12 }
  else if n < 0x330 then team (fun t => { t with rdesc := t.rdesc.set (n - 0x328) w })
  else if n < 0x338 then team (fun t => { t with rprod := t.rprod.set (n - 0x330) (fieldNat w 0 16) })
  else if n < 0x340 then team (fun t => { t with rcons := t.rcons.set (n - 0x338) (fieldNat w 0 16) })
  else gang { x with counters := (List.range 5).map (fun i => fieldNat w (6 * i) 6) }

/-- DBGDATA written: the selected word if it is frozen, else nothing (R332, R379). -/
def State.dbgWrite (s : State) (w : Word) : State :=
  match s.dbgSelected with
  | none => s
  | some (.word core o) => s.updStore core (fun st => Cells.put 0 st o w)
  | some (.gangRec g x i) => s.setRecord g x i w
  | some (.special g x k n) => s.srPoke g x k n w

end Sys2Proof.Machine
end

