-- ==== Sys2Proof/Machine/Mgmt.lean ====
section
/-! DEFINITION. The management registers (R363, R364): partition records and commands (R365, R366), doorbells
(R372), attestation (R378), error counters, and the
boot ROM's check of firmware (R376). -/

namespace Sys2Proof.Machine

/-- The attestation of a function. -/
def Attest.init : Attest := { buf := [], busy := false, status := 0, cmd := 0 }

def State.att (s : State) (fn : Nat) : Attest := Cells.get Attest.init s.attest fn

def State.setAtt (s : State) (fn : Nat) (a : Attest) : State := { s with attest := Cells.insert s.attest fn a }

/-- ATTCMD of a function (R378): a request begins, or its STATUS says why not. -/
def State.attCommand (s : State) (fn : Nat) (w : Word) : State :=
  let a := s.att fn
  let n := fieldNat w 0 12
  if !w.getLsbD 31 then s
  else if a.busy then s.setAtt fn { a with status := 6 }
  else if fn ≠ 0 ∧ w.getLsbD 16 ∧ !(s.partHolds fn n && decide (s.sesPart n = fn)) then s.setAtt fn { a with status := 5 }
  else (s.setAtt fn { a with busy := true, status := 0, cmd := w }).post (.attestationDone fn)

/-- The 64 words of a partition record. -/
def State.recordWords (s : State) (p : Nat) : List Word := (List.range 64).map (s.partWord p)

/-- A provenance entry (R378): die, slot, ORIGIN and the key's generation; ORIGIN 0 where there is no key.
Log 37 (DESIGN CHOICE). Log 100 (DEDUCED). -/
def provenance (die : Nat) (k : Option (Nat × KeySlot)) : List Byte :=
  match k with
  | some (slot, x) => bytesOf (die + slot * 2 ^ 16 + 2 ^ (26 + Config.originBit % 38)) 8 ++ bytesOf x.gen 8
  | none => bytesOf die 8 ++ bytesOf 0 8

/-- The key slot of a die that holds a title group's key. -/
def State.titleSlot (s : State) (die group : Nat) : Option (Nat × KeySlot) :=
  List.find? (fun (e : Nat × KeySlot) => e.2.title && decide (e.2.owner = group)) (s.die die).keys

/-- The seed of a die's identity key pair, its public key, and the certificate that holds it (R377). -/
def identitySeed (die : Nat) : List Byte := sha3 (Config.fusedSecret die)
def identityKey (die : Nat) : List Byte := fitList 0 1312 (Config.mldsaPublic (identitySeed die))
def identityCert (die : Nat) : List Byte := identityKey die ++ Config.manufacturerSign (identityKey die)

/-- The report of an attestation (R378). -/
def State.report (s : State) (fn : Nat) (a : Attest) : List Byte :=
  let n := fieldNat a.cmd 0 12
  let on := a.cmd.getLsbD 16
  let home := s.sesHome n
  let sesKey : Option (Nat × KeySlot) :=
    if s.sesKeyV n then (Cells.find? (s.die home).keys (s.sesKeySlot n)).map (fun k => (s.sesKeySlot n, k)) else none
  let records := (List.range 32).flatMap fun p =>
    bytesOfWords (if s.partActive p then s.recordWords p else List.replicate 64 0)
  let prov := if on then
      provenance home sesKey ++ (List.range 4).flatMap (fun d => provenance d (s.titleSlot d (s.sesGroup n)))
    else List.replicate 80 0
  let body := bytesOf 0x00010001 4 ++ bytesOf 3964 4 ++ Cells.bytes a.buf 8 0 ++ Cells.bytes a.buf 0 32 ++
    bytesOf s.mid 4 ++ fitList 0 32 Config.bootRomDigest ++ fitList 0 32 s.fwDigest ++ bytesOf s.fwSvn 4 ++
    sha3 records ++ bytesOf fn 4 ++ bytesOf (if on then n else 0xFFFFFFFF) 4 ++ prov ++
    identityKey 0
  body ++ fitList 0 2420 (Config.mldsaSign (identitySeed 0) (sha3 body))

/-- A word of MGMT as it reads (R363), for function `fn` (the PF for a gang). -/
def State.mgmtWord (s : State) (fn off : Nat) : Word :=
  let bytes (f : Nat → Byte) : Word := wordOfBytes ((List.range 4).map f)
  if off = 0 then BitVec.ofNat 32 (s.mid % 16)
  else if !s.started then (if off = 0x10 then BitVec.ofNat 32 s.mstate else 0)
  else if off = 8 then BitVec.ofNat 32 s.mstab
  else if off = 0xC then BitVec.ofNat 32 (s.mstab / 2 ^ 32)
  else if off = 0x10 then BitVec.ofNat 32 s.mstate
  else if 0x100 ≤ off ∧ off < 0x140 then
    let p := s.cpool.getD ((off - 0x100) / 16) (0, 0)
    match off % 16 / 4 with
    | 0 => BitVec.ofNat 32 p.1
    | 1 => BitVec.ofNat 32 (p.1 / 2 ^ 32)
    | 2 => BitVec.ofNat 32 p.2
    | _ => 0
  else if off = 0x1004 then s.pstat
  else if off = 0x1008 then s.plast
  else if 0x10000 ≤ off ∧ off < 0x12000 then Cells.get 0 s.parts ((off - 0x10000) / 4)
  else if 0x20000 ≤ off ∧ off < 0x20100 then
    bytes fun i => if off % 64 + i < 16 then
      BitVec.ofNat 8 ((s.die ((off - 0x20000) / 64)).engines.getD (off % 64 + i) 0xFF) else 0
  else if 0x30000 ≤ off ∧ off < 0x30100 then (s.die ((off - 0x30000) / 64)).errs.getD (off % 64 / 4) 0
  else if off = 0x40004 then
    BitVec.ofNat 32 ((s.att fn).status * 2 ^ 24 + if (s.att fn).busy then 1 else 0)
  else if 0x41000 ≤ off ∧ off < 0x42000 then bytes fun i => Cells.get 0 (s.att fn).buf (off - 0x41000 + i)
  else if 0x42000 ≤ off ∧ off < 0x46000 then
    bytes fun i => (identityCert ((off - 0x42000) / 4096)).getD ((off - 0x42000) % 4096 + i) 0
  else if off = 0x200004 then s.dbgSel
  else if off = 0x200008 then s.dbgAddr
  else if off = 0x20000C then s.dbgRead
  else 0

/-- The bits of word w of a partition record that are not reserved (R365). -/
def recordMask (w : Nat) : Word :=
  if w = 0 then 0x13 else if w = 1 then 0x1FFF0FFF else if w = 2 ∨ w = 3 then 0xFFFFFF
  else if w < 20 then
    (match w % 4 with | 0 => 0x3F0FFF | 1 => 0x7FF | 2 => 0x7FFF | _ => 0xFFF)
  else if w = 20 ∨ w = 22 then 0xFFFFFFFF else if w = 21 ∨ w = 23 then 0x1FFFFFF else 0

/-- Word w of a record breaks check 3 of R366: a reserved bit, or a field outside its range or its mode's rule. -/
def recordBad (mode w : Nat) (v : Word) : Bool :=
  let sliced := decide (mode = 2)
  decide (v &&& ~~~recordMask w ≠ 0) ||
  (if w = 0 then decide (fieldNat v 0 2 = 0) || decide (fieldNat v 0 2 = 3)
   else if w = 1 then decide (fieldNat v 16 13 = 0) || decide (4096 < fieldNat v 16 13)
   else if w = 2 then
     if sliced then decide (fieldNat v 0 24 < 100) || decide (10000000 < fieldNat v 0 24) else decide (v ≠ 0)
   else if w = 3 then false
   else if w < 20 then
     match w % 4 with
     | 0 => decide (32 < fieldNat v 16 6) || (sliced && decide (v ≠ 0))
     | 1 => decide (1024 < fieldNat v 0 11)
     | 2 => decide (16384 < fieldNat v 0 15)
     | _ => decide (8 < fieldNat v 0 4) || decide (4 < fieldNat v 4 4) || decide (4 < fieldNat v 8 4) ||
         (sliced && decide (v ≠ 0))
   else if w = 20 ∨ w = 22 then decide (fieldNat v 0 5 ≠ 0)
   else false)

/-- The ACTIVE partitions. -/
def State.activeParts (s : State) : List Nat := (List.range 32).filter s.partActive

/-- Sum of a field over the ACTIVE partitions and one more (R366 check 6). -/
def State.quotaSum (s : State) (p w lo n : Nat) : Nat :=
  ((s.activeParts ++ [p]).map (fun q => fieldNat (s.partWord q w) lo n)).sum

/-- A core of a cluster holds a team of another partition than p (R366 check 7). -/
def State.foreignTeam (s : State) (p die cluster : Nat) : Bool :=
  s.cores.any fun e => decide (dieOf e.1 = die) && decide (clusterOf e.1 = cluster) &&
    e.2.teams.any (fun t => decide (s.sesPart t.2.session ≠ p))

/-- The checks of COMMIT on a partition's record (R366 checks 3 to 7): the status with its value. -/
def State.commitChecks (s : State) (p : Nat) : Nat × Nat :=
  let mode := fieldNat (s.partWord p 0) 0 2
  let base (q : Nat) := fieldNat (s.partWord q 1) 0 12
  let count (q : Nat) := fieldNat (s.partWord q 1) 16 13
  let dies := List.range 4
  match (List.range 64).find? (fun w => recordBad mode w (s.partWord p w)) with
  | some w => (2, 4 * w)
  | none =>
    if 4096 < base p + count p ∨
        s.activeParts.any (fun q => decide (base p < base q + count q) && decide (base q < base p + count p)) then
      (1, 4)
    else
      match dies.find? (fun d => decide (mode = 1) && s.activeParts.any (fun q =>
          decide (s.partMask q d &&& fieldNat (s.partWord p (4 + 4 * d)) 0 12 ≠ 0))) with
      | some d => (1, 0x10 + 16 * d)
      | none =>
        match (dies.flatMap (fun d => [4 + 4 * d, 5 + 4 * d, 6 + 4 * d, 7 + 4 * d])).find? (fun w =>
            match w % 4 with
            | 0 => decide (32 < s.quotaSum p w 16 6)
            | 1 => decide (1024 < s.quotaSum p w 0 11)
            | 2 => decide (16384 < s.quotaSum p w 0 15)
            | _ => decide (8 < s.quotaSum p w 0 4) || decide (4 < s.quotaSum p w 4 4) || decide (4 < s.quotaSum p w 8 4)) with
        | some w => (1, 4 * w)
        | none =>
          match dies.find? (fun d => (List.range 12).any (fun c =>
              (fieldNat (s.partWord p (4 + 4 * d)) 0 12).testBit c && s.foreignTeam p d c)) with
          | some d => (6, 0x10 + 16 * d)
          | none => (0, 0)

/-- COMMIT of a partition (R366): the status with its value, in the order of the checks. -/
def State.commitStatus (s : State) (p : Nat) (allowed : Bool) : Nat × Nat :=
  if p = 0 ∨ !allowed then (5, 0) else if s.partActive p then (6, 0) else s.commitChecks p

/-- The command that PSTAT and PLAST then name (R363, R366). -/
def State.acted (s : State) (p op : Nat) (r : Nat × Nat) : State :=
  { s with
    pstat := statusWord r.1 r.2
    plast := BitVec.ofNat 32 (p + op * 2 ^ 8 + (fieldNat s.plast 16 16 + 1) % 2 ^ 16 * 2 ^ 16) }

/-- ACTIVE of a partition set. -/
def State.setActive (s : State) (p : Nat) (on : Bool) : State :=
  { s with parts := Cells.put 0 s.parts (64 * p) (setField (s.partWord p 0) 4 1 (if on then 1 else 0)) }

/-- COMMIT (R366). -/
def State.commitPart (s : State) (p : Nat) (allowed : Bool) : State :=
  let r := s.commitStatus p allowed
  (if r.1 = 0 then s.setActive p true else s).acted p 1 r

/-- RELEASE (R366): BUSY unless every session of the partition is FREE, IDLE or RESET and it holds no pooled
engine. -/
def State.releasePart (s : State) (p : Nat) : State :=
  let w := s.partWord p 1
  let open_ := (List.range (fieldNat w 16 13)).any fun i =>
    let st := s.sesState (fieldNat w 0 12 + i)
    decide (s.sesPart (fieldNat w 0 12 + i) = p) && !decide (st = 0) && !decide (st = 1) && !decide (st = 4)
  let engine := s.dies.any (fun d => decide (p ∈ d.engines))
  if open_ || engine then s.acted p 2 (6, 0) else (s.setActive p false).acted p 2 (0, 0)

/-- The requester may command partitions (R366 check 1): the physical function, or PL2 in partition 0. -/
def manages (r : Requester) : Bool :=
  if r.host then decide (r.fn = 0) else decide (2 ≤ r.level) && decide (r.part = 0)

/-- A write to PCMD, whose reserved bits are ignored (R8); an OP of 0 or 3 is no command. Log 89 (DEDUCED). -/
def State.partCommand (s : State) (r : Requester) (w : Word) : State :=
  let p := fieldNat w 0 5
  if fieldNat w 8 2 = 1 then s.commitPart p (manages r)
  else if fieldNat w 8 2 = 2 then s.releasePart p
  else s

/-- A doorbell (R372): dropped where the session is not launched by its partition, or a VF's partition does not hold
it. -/
def State.ring (s : State) (r : Requester) (n : Nat) (w : Word) : State :=
  if !s.sesLaunchable n ∨ (r.host ∧ r.fn ≠ 0 ∧ !(s.partHolds r.fn n && decide (s.sesPart n = r.fn))) then s
  else (s.launchWord n w).2

/-- A write to a word of a partition record (R365). -/
def State.writeRecord (s : State) (r : Requester) (p i : Nat) (w : Word) : State :=
  if (p = 0 ∧ r.level < 3) ∨ (s.partActive p ∧ i ≠ 3) then s
  else
    let v := if i = 0 then setField w 4 1 (fieldNat (s.partWord p 0) 4 1) else w
    { s with parts := Cells.put 0 s.parts (64 * p + i) v }

/-- An error counter written: zero clears it (R363). -/
def State.clearErr (s : State) (die i : Nat) (w : Word) : State :=
  if w = 0 then s.setDie die { s.die die with errs := (s.die die).errs.set i 0 } else s

/-- A word of MGMT written (R363, R364); a command is acted on at once. A freeze through DBGCMD is not here: its store
is performed when it is complete. -/
def State.mgmtWrite (s : State) (r : Requester) (off : Nat) (w : Word) : State :=
  if !s.started then s
  else if off = 8 then
    if r.level < 3 then s else { s with mstab := s.mstab / 2 ^ 32 * 2 ^ 32 + fieldNat w 21 11 * 2 ^ 21 }
  else if off = 0xC then
    if r.level < 3 then s else { s with mstab := s.mstab % 2 ^ 32 + fieldNat w 0 20 * 2 ^ 32 }
  else if off = 0x10 then
    if r.level < 3 ∨ fieldNat w 0 2 = 3 then s else { s with mstate := fieldNat w 0 2 }
  else if 0x100 ≤ off ∧ off < 0x140 then
    let d := (off - 0x100) / 16
    let p := s.cpool.getD d (0, 0)
    let q := match off % 16 / 4 with
      | 0 => (p.1 / 2 ^ 32 * 2 ^ 32 + w.toNat / 8 * 8, p.2)
      | 1 => (p.1 % 2 ^ 32 + fieldNat w 0 20 * 2 ^ 32, p.2)
      | 2 => (p.1, w.toNat)
      | _ => p
    { s with cpool := s.cpool.set d q }
  else if off = 0x1000 then s.partCommand r w
  else if 0x10000 ≤ off ∧ off < 0x12000 then s.writeRecord r ((off - 0x10000) / 256) (off % 256 / 4) w
  else if 0x30000 ≤ off ∧ off < 0x30100 then s.clearErr ((off - 0x30000) / 64) (off % 64 / 4) w
  else if off = 0x40000 then s.attCommand r.fn w
  else if 0x41000 ≤ off ∧ off < 0x42000 then
    let a := s.att r.fn
    s.setAtt r.fn { a with buf := Cells.write a.buf (off - 0x41000) (bytesOf w.toNat 4) }
  else if 0x100000 ≤ off ∧ off < 0x104000 then s.ring r ((off - 0x100000) / 4) w
  else if off = 0x200000 then
    if fieldNat w 0 2 = 2 ∧ scopeOk (fieldNat w 2 2) (fieldNat w 4 2) (fieldNat w 8 4) then
      s.thawStep (fieldNat w 2 2) (fieldNat w 4 2) (fieldNat w 8 4)
    else s
  else if off = 0x200004 then { s with dbgSel := w &&& 0x7F7FF }
  else if off = 0x200008 then { s with dbgAddr := w }
  else if off = 0x20000C then s.dbgWrite w
  else s

/-- A virtual function's BAR0 offset as the offset of MGMT it stands for (R373): its ATTCMD, its ATTBUF, the
doorbells. -/
def vfOffset (off : Nat) : Option Nat :=
  if off = 0x1000 then some 0x40000
  else if 0x10000 ≤ off ∧ off < 0x11000 then some (off - 0x10000 + 0x41000)
  else if 0x100000 ≤ off ∧ off < 0x104000 then some off
  else none

/-- A function of the host is enabled: a virtual one while its partition is ACTIVE (R373), the physical one once the
module runs, and while it stays in recovery (R376, R380). -/
def State.fnEnabled (s : State) (fn : Nat) : Bool :=
  if fn = 0 then !s.started || decide (s.mstate = 2) else decide (fn < 32) && s.partActive fn

/-- A word of BAR0 of a function as it reads (R363, R364, R373): a virtual function's holds a copy of its partition record, its
ATTSTAT and its ATTBUF. -/
def State.bar0 (s : State) (fn off : Nat) : Word :=
  if fn = 0 then s.mgmtWord 0 off
  else if off < 0x100 then s.partWord fn (off / 4)
  else if off = 0x1004 then s.mgmtWord fn 0x40004
  else if 0x10000 ≤ off ∧ off < 0x11000 then s.mgmtWord fn (off - 0x10000 + 0x41000)
  else 0

/-- A host write to its BAR0 (R364, R373). The physical function carries PL2. A freeze through DBGCMD is performed when it is
complete (R379), and the function's later writes with it. -/
def execMgmtRegisterWrite (s : State) : Host.Outcome State Fault Refusal :=
  match s.ev with
  | .mgmtRegisterWrite off w r =>
    let q : Requester := { r with host := true, level := 2, part := r.fn }
    if !s.fnEnabled r.fn ∨ off % 4 ≠ 0 then .next s
    else if r.fn = 0 then
      if off = 0x200000 ∧ fieldNat w 0 2 = 1 ∧ scopeOk (fieldNat w 2 2) (fieldNat w 4 2) (fieldNat w 8 4) ∧ s.started then
        match s.freezeStep (fieldNat w 2 2) (fieldNat w 4 2) (fieldNat w 8 4) with
        | (true, s1) => .next s1
        | (false, s1) => .next (s1.again (.mgmtRegisterWrite off w r))
      else .next (s.mgmtWrite q off w)
    else
      match vfOffset off with
      | some o => .next (s.mgmtWrite q o w)
      | none => .next s
  | _ => .next s

/-- A store of COMMIT to PCMD by the host (R366). -/
def execPcmdCommit (s : State) : Host.Outcome State Fault Refusal :=
  match s.ev with
  | .pcmdCommit p r => .next (if s.started ∧ p < 32 then s.commitPart p (manages r) else s)
  | _ => .next s

/-- A store of RELEASE to PCMD by the host (R366). -/
def execPcmdRelease (s : State) : Host.Outcome State Fault Refusal :=
  match s.ev with
  | .pcmdRelease p r => .next (if s.started ∧ p < 32 ∧ (manages r) then s.releasePart p else s)
  | _ => .next s

/-- A doorbell write of the host (R372). -/
def execDoorbell (s : State) : Host.Outcome State Fault Refusal :=
  match s.ev with
  | .doorbell n w r => .next (if s.started ∧ n < 4096 ∧ s.fnEnabled r.fn then s.ring r n w else s)
  | _ => .next s

/-- ATTCMD written by a function (R378). -/
def execAttcmdGo (s : State) : Host.Outcome State Fault Refusal :=
  match s.ev with
  | .attcmdGo fn w => .next (if s.started ∧ s.fnEnabled fn then s.attCommand fn w else s)
  | _ => .next s

/-- An attestation is done: ATTBUF holds the signed report (R378). -/
def execAttestationDone (s : State) : Host.Outcome State Fault Refusal :=
  match s.ev with
  | .attestationDone fn =>
    let a := s.att fn
    .next (if a.busy then s.setAtt fn { a with buf := Cells.write a.buf 0 (s.report fn a), busy := false } else s)
  | _ => .next s

/-- A host read of BAR0, that of DBGDATA among them (R332, R364, R373), which returns present contents and changes nothing
else. Log 132 (DEDUCED). -/
def execDbgdataRead (s : State) : Host.Outcome State Fault Refusal :=
  match s.ev with
  | .dbgdataRead fn off => .next (if s.fnEnabled fn ∧ off % 4 = 0 then { s with hostData := s.bar0 fn off } else s)
  | _ => .next s

/-- DBGDATA written by the host (R332, R379). -/
def execDbgdataWrite (s : State) : Host.Outcome State Fault Refusal :=
  match s.ev with
  | .dbgdataWrite w => .next (s.dbgWrite w)
  | _ => .next s

/-- An error counter written by the host (R363). -/
def execErrCounterWrite (s : State) : Host.Outcome State Fault Refusal :=
  match s.ev with
  | .errCounterWrite die i w => .next (if die < 4 ∧ i < 4 then s.clearErr die i w else s)
  | _ => .next s

/-- Module reset: everything that the module holds is lost. What lies outside it stays. -/
def execModuleReset (s : State) : Host.Outcome State Fault Refusal :=
  .next { State.reset with
    tick := s.tick, hostMem := s.hostMem, mem := s.mem.filter (fun e => decide (Config.remoteBase ≤ e.1)) }

/-- A die accepts a firmware image (R376). Log 22 (DESIGN CHOICE). -/
def fwAccepted (die : Nat) (x : FwImage) : Bool :=
  decide (sha3 x.key = Config.bootRomKeyDigest die) && Config.mldsaVerify x.key x.digest x.signature &&
  decide (sha3 x.body = x.digest) && decide (Config.fusedSvn die ≤ x.svn)

end Sys2Proof.Machine
end

