-- ==== Sys2Proof/Machine/Home.lean ====
section
/-! DEFINITION. The homes: an access performed (R137, R146, R150 to R152, R241 to R247, R255, R364, R374, R384, R388),
evictions (R240, R242), lease renewals (R244, R245), the confirmation of watch entries (R251, R252), reports to `acqw`
(R151), and posted writes of the host (R372). -/

namespace Sys2Proof.Machine

/-- Copies that leave the caches when an access is performed, as the device chooses (log 9): single copies of L1, those
of L2 with the L1 copies of the die under them (R236, R242), and the home's state of the line, which recalls its D copies and sets its predictor to the minimum
(R240). -/
def State.evictSome (s : State) (l : Nat) : State :=
  let out := ((List.zip s.copies (List.range s.copies.length)).filter (fun p => Config.evicts s.tick p.2)).map (·.1)
  let gone (c : Copy) : Bool := decide (c ∈ out) || (match c.holder with
    | .l1 k => out.any (fun o => decide (o.holder = .l2 (dieOf k)) && decide (o.line = c.line))
    | _ => false)
  let s1 := (s.writeBack gone).dropCopies fun c => s.copies.any (fun o =>
    gone o && decide (o.holder = c.holder) && decide (o.line = c.line))
  if Config.evicts s.tick (s.copies.length + l) then
    let here (c : Copy) : Bool := decide (c.line = l) && c.bytes.isNone
    let s2 := (s1.writeBack here).dropCopies here
    { s2 with predictor := Cells.put 0 s2.predictor l 0 }
  else s1

/-- The blocked frame at which an access first waits (R323). -/
def State.blockedAt (s : State) (ps : List (Place × Nat)) : Option Nat :=
  ps.findSome? fun p => match p.1 with
    | .mem pa _ => s.blockOf pa
    | _ => none

/-- A place as it answers now: at the frame it has moved to (R323). -/
def State.moved? (s : State) (p : Place) : Place :=
  match p with
  | .mem pa coh => .mem (s.now pa) coh
  | p => p

/-- A remote place has no route, or its module is not in the armada (R388). -/
def State.unreachable (s : State) (p : Place) : Bool :=
  match p with
  | .mem pa _ => isRemote p && !(s.joined.getLsbD (pa / 2 ^ 52 % 16) && s.routed.getLsbD (pa / 2 ^ 52 % 16))
  | _ => false

/-- Bytes of MGMT as a gang reads them; an access of 1 or 2 bytes reads zero (R364). -/
def State.mgmtBytes (s : State) (off n : Nat) : List Byte :=
  if n < 4 then List.replicate n 0
  else (List.range (n / 4)).flatMap (fun i => bytesOf (s.mgmtWord 0 (off + 4 * i)).toNat 4)

/-- The gang of an access as a requester of MGMT (R364). -/
def State.requester (s : State) (a : Access) : Requester :=
  { host := false, fn := 0, level := a.level, part := s.sesPart a.session }

/-- Bytes written to MGMT by a gang, word by word; none while a freeze they start is not complete (R379). -/
def State.mgmtStore (s : State) (r : Requester) : List (Nat × Word) → Bool × State
  | [] => (true, s)
  | (off, w) :: rest =>
    if off = 0x200000 ∧ fieldNat w 0 2 = 1 ∧ scopeOk (fieldNat w 2 2) (fieldNat w 4 2) (fieldNat w 8 4) then
      match s.freezeStep (fieldNat w 2 2) (fieldNat w 4 2) (fieldNat w 8 4) with
      | (true, s1) => State.mgmtStore s1 r rest
      | r => r
    else State.mgmtStore (s.mgmtWrite r off w) r rest

/-- A load at its place. Log 52 (PRESUMED). -/
def State.loadAt (s : State) (a : Access) (p : Place) (n : Nat) : List Byte × State :=
  match p with
  | .mem pa coh => s.load a.gang.core coh pa n (a.session, a.va.toNat / 128)
  | .mgmt off => (s.mgmtBytes off n, s)
  | p => (s.readPlace p n, s)

/-- A store at its place; whether it is performed, which only a freeze through DBGCMD holds up. -/
def State.storeAt (s : State) (a : Access) (p : Place) (bs : List Byte) : Bool × State :=
  match p with
  | .mem pa coh => (true, s.write (some (a.gang, a.va.toNat)) (some a.gang.core) a.session coh pa bs)
  | .mgmt off =>
    if bs.length < 4 then (true, s)
    else s.mgmtStore (s.requester a) (List.zip ((List.range (bs.length / 4)).map (fun i => off + 4 * i)) (wordsOfBytes bs))
  | p => (true, s.devWrite none true a.session p bs)

/-- An atomic's new value at its place: the home performs it, and the copies of the gang's own core take it (R146,
R262). -/
def State.updateAt (s : State) (a : Access) (p : Place) (bs : List Byte) : State :=
  match p with
  | .mem pa coh => (s.patchOwn a.gang.core pa bs).write (some (a.gang, a.va.toNat)) none a.session coh pa bs
  | p => (s.storeAt a p bs).2

/-- The bytes an atomic or a `rel` finds at its home. -/
def State.homeBytes (s : State) (p : Place) (n : Nat) : List Byte :=
  match p with
  | .mem pa _ => Cells.bytes s.mem pa n
  | .mgmt off => s.mgmtBytes off n
  | p => s.readPlace p n

/-- An access performed is matched against the watchpoints of its gang's crew by the bit of WCTL of its kind (R229,
R230). A gang that has ended had its team in the gang slot, which the team keeps (R169). -/
def State.watchAccess (s : State) (a : Access) (p : Place) : State :=
  let slot := ((s.core a.gang.core).teams.find? (fun e => decide (a.gang.slot ∈ e.2.gslots))).map (·.1)
  match ((s.gang? a.gang).map (·.team)).orElse (fun _ => slot) with
  | none => s
  | some k =>
    match s.team? a.gang.core k with
    | none => s
    | some t => s.watchHome t.crew a.gang a.pc a.seq (kindBit a.kind) p a.size

/-- Barriers that waited for an access of a gang settle (R155, R218). -/
def State.settleAfter (s : State) (g : GangRef) : State :=
  match s.gang? g with
  | none => s
  | some x =>
    let team := (s.team? g.core x.team).any (fun t => t.bars.any (fun b => decide (b.older ≠ [])) ||
      (s.crew? t.crew).any (fun c => c.bars.any (fun b => decide (b.older ≠ []))))
    if team ∨ x.slices.any (fun sl => decide (sl.stop ≠ .running)) then s.settleBars g.core x.team else s

/-- An access performed at its places: whether it is performed, and the state with the deliveries it sends. -/
def State.perform (s : State) (a : Access) (p : Place) : Bool × State :=
  match a.kind with
  | .load dst =>
    let (bs, s1) := s.loadAt a p a.size
    (true, s1.postAll (deliveries a.gang dst (loadWords bs)))
  | .loadw dst =>
    let s1 := match p with
      | .mem pa coh => s.fillHome a.gang.core coh (lineOf pa) [(a.session, a.va.toNat / 128)]
      | _ => s
    (true, s1.postAll (deliveries a.gang dst (loadWords (s.homeBytes p a.size))))
  | .store bs => s.storeAt a p bs
  | .atomic op _ mode b c dst =>
    let old := s.homeBytes p a.size
    let new := atomicNew op mode (BitVec.ofNat 64 (natOfBytes old)) b c
    (true, (s.updateAt a p (bytesOf new.toNat a.size)).postAll (deliveries a.gang dst (wordsOfBytes old)))
  | .maint drop => (true, match p with
      | .mem pa coh => s.maintain a.gang.core pa coh drop
      | _ => s)
  | .version bump dst =>
    let v : Word := wordOfBytes (s.homeBytes p 4)
    if bump then
      (true, (s.updateAt a p (bytesOf (v + 1).toNat 4)).postAll (deliveries a.gang dst [v + 1]))
    else (true, (s.acquire a.gang.core a.session a.va).postAll (deliveries a.gang dst [v]))
  | .bind undo object rest dst =>
    let shape := (p :: rest.map s.moved?).flatMap (fun q => wordsOfBytes (s.homeBytes q 8))
    let (st, s1) := s.rebind undo a.session (dieOf a.gang.core) object shape
    (true, s1.postAll (deliveries a.gang dst (List.replicate 32 (BitVec.ofNat 32 st))))

/-- An event that waits in a block queue itself, and not as a step whose access waits (R323). -/
def queuedAlone (e : Event) : Bool :=
  match e with
  | .accessAtHome _ | .confirmationRequest .. | .leaseRenewal .. => true
  | _ => false

/-- An entry of a block queue whose step is still to come, or whose form is still inside (R324). -/
def State.queueAlive (s : State) (e : Event) : Bool :=
  decide (e ∈ s.agenda) || (match e with
    | .sequenceFetch g k => (s.gang? g).any (fun x => x.inForm k)
    | _ => false)

/-- The block queue of a frame that has moved after a step: its first entry leaves it once it has been performed. -/
def State.shorten (s : State) (b : Blocked) : Blocked :=
  match b.queue with
  | e :: r =>
    if b.moved.isSome ∧ (s.queueAlive e = false ∨ (queuedAlone e = false ∧ e = s.ev)) then { b with queue := r } else b
  | [] => b

/-- The new homes go on with the block queues (R323): what has been performed leaves, and the access after it sets
out. -/
def State.serveQueues (s : State) : State :=
  let heads := s.blocked.filterMap fun b =>
    let q := (s.shorten b).queue
    if q = b.queue then none else q.head?.filter queuedAlone
  ({ s with blocked := s.blocked.map s.shorten, ev := default } : State).postAll heads

/-- Some place of an access lies in a frame that cannot be read: its key is absent (R339). -/
def State.keyless (s : State) (ps : List (Place × Nat)) : Bool :=
  ps.any fun p => match p.1 with
    | .mem pa _ => s.keyAbsent (s.now pa)
    | _ => false

/-- A load that an S copy of the core or die serves does not go to the home (R243). -/
def State.servedLoad? (s : State) (a : Access) : Option State :=
  match a.kind, a.place with
  | .load dst, .mem pa coh =>
    (s.served? a.gang.core coh pa a.size (a.session, a.va.toNat / 128)).map fun r =>
      r.2.postAll (deliveries a.gang dst (loadWords r.1))
  | _, _ => none

/-- An access performed at its home, with what follows: the watchpoints, evictions and barriers. -/
def State.finish (s : State) (a : Access) (p : Place) : State :=
  let s1 := s.watchAccess a p
  let s2 := match p with
    | .mem pa _ => s1.evictSome (lineOf pa)
    | _ => s1
  s2.settleAfter a.gang

/-- The request of an access that is translated again. -/
def accessReq (a : Access) : LaneReq := ⟨a.lane, a.lanes, a.va, a.kind⟩

/-- What an access asks of a translation. -/
def accessAsk (a : Access) : Ask :=
  { core := some a.gang.core, die := dieOf a.gang.core, session := a.session, level := a.level,
    kind := if kindWrites a.kind then 1 else 0, engine := false, salt := a.lane }

/-- How an access fares when it is translated again: sent on, absent at an address, ending its gang, or not yet. -/
inductive Again where
  | sent (s : State)
  | absent (cause : BitVec 8) (host : Bool) (va : VAddr) (s : State)
  | ended (s : State)
  | later (s : State)

/-- The gang of an access ends by a fault of it; if it has ended before, its session rolls back (R335). -/
def State.endAccess (s : State) (a : Access) (cause : BitVec 8) (info : BitVec 16) (addr : VAddr) : State :=
  if (s.gang? a.gang).isSome then s.fatalBy a.gang cause info addr else s.postOnce (.rollback a.session)

/-- An access translated again under what holds now (R320, R347). Its address is no aperture's. -/
def State.retry (s : State) (a : Access) : Again :=
  match s.resolve1 (accessAsk a) default a.size (accessReq a) with
  | (⟨r, .ok p, _⟩, s1) =>
    if kindStores a.kind ∧ !s1.logFits a.session [p] then .later (s1.wantCut a.session)
    else .sent (s1.sendAccess { a with place := p, kind := r.kind, stale := false })
  | (⟨_, .fatal k, at_⟩, s1) => .ended (s1.endAccess a k (k.setWidth 16) at_)
  | (⟨_, .absent k host, at_⟩, s1) => .absent k host at_ s1
  | (⟨_, .ats, _⟩, s1) => .later s1

/-- The fault of an access joins the pending faults of its die (R316): `lanes` are the faulting lanes (R138). -/
def State.joinAccess (s : State) (a : Access) (k : BitVec 8) (host : Bool) (at_ : VAddr) (lanes : LaneSet) : Word × State :=
  s.joinFid (dieOf a.gang.core) a.session at_.toNat (if kindWrites a.kind then 1 else 0) k host
    { eng := false, unit := false, core := some a.gang.core, slot := a.gang.slot, detail := lanes, pc := a.pc }

/-- An in-flight access that must be translated again and faults: its lane waits as a parked lane of its gang. -/
def State.parkLate (s : State) (a : Access) (fid : Word) : State :=
  s.updGang a.gang fun x =>
    { x.faulted with
      parked := x.parked ++
        [{ cur := { (default : IssueCtx) with gang := a.gang }, rerun := false, saved := x.trap.tcause.getLsbD 15,
           lanes := [⟨fid, some a⟩], form := none }] }

/-- An access whose translation has changed on its way is translated again before it is performed (R347, R357). One that
faults parks its gang, or is tried again where the gang has ended. Log 94 (DEDUCED). -/
def State.restart (s : State) (a : Access) : State :=
  match s.retry a with
  | .sent s1 => s1
  | .ended s1 => s1
  | .later s1 => s1.again (.accessAtHome a)
  | .absent k host at_ s1 =>
    if (s1.gang? a.gang).isSome then
      let (f, s2) := s1.joinAccess a k host at_ a.lanes
      s2.parkLate a f
    else s1.again (.accessAtHome a)

/-- An access of the session's addresses on its way that satisfies `p`. -/
def flies (p : Access → Bool) (e : Event) : Bool :=
  match e with
  | .accessAtHome a => p a && !isAperture a.va
  | _ => false

/-- Accesses of gangs on their way that satisfy `p`. -/
def State.flying (s : State) (p : Access → Bool) : Bool := s.agenda.any (flies p)

/-- The access of an event is to be translated again. -/
def staleEvent (e : Event) : Event :=
  match e with
  | .accessAtHome a => .accessAtHome { a with stale := true }
  | e => e

/-- Accesses on their way that satisfy `p` will be translated again before they are performed (R347, R357): those in a
block queue leave it, and the new home goes on with what stands behind them. -/
def State.retarget (s : State) (p : Access → Bool) : State :=
  let out := (s.blocked.flatMap (fun b => b.queue.filter (flies p))).filter (fun e => decide (e ∉ s.agenda))
  let left (b : Blocked) : List Event := b.queue.filter (fun e => !flies p e)
  let heads := s.blocked.filterMap fun b =>
    if b.moved.isSome ∧ (left b).head? ≠ b.queue.head? then (left b).head?.filter queuedAlone else none
  ({ s with
      agenda := out.map staleEvent ++ s.agenda.map (fun e => if flies p e then staleEvent e else e)
      blocked := s.blocked.map (fun b => { b with queue := left b }) } : State).postAll heads

/-- A memory access reaches its home (R241, R255): it joins the block queue of a blocked frame, or waits at the new home
behind one (R323); it waits while routes are recomputed, ends its gang where its module cannot be reached (R388) or its
frame's key is absent (R339), or is performed. A load that a copy serves reaches no home. -/
def execAccessAtHome (s : State) : Host.Outcome State Fault Refusal :=
  match s.ev with
  | .accessAtHome a =>
    match s.servedLoad? a, a.stale with
    | _, true => .next (s.restart a)
    | some s1, false => .next (s1.finish a a.place)
    | none, false =>
      match s.blockedAt (accessPlaces a) with
      | some fr => .next (s.joinQueue fr)
      | none =>
        let drains := (accessPlaces a).any fun p => match p.1 with
          | .mem pa _ => s.draining pa
          | _ => false
        if drains ∨ ((accessPlaces a).any (fun p => isRemote p.1) ∧ s.linkWait) then .next (s.again (.accessAtHome a))
        else if (accessPlaces a).any (fun p => s.unreachable p.1) then .next (s.endAccess a 0xF0 0 a.va)
        else if s.keyless (accessPlaces a) then .next (s.endAccess a 0xC8 0xC8 a.va)
        else
          match s.perform a (s.moved? a.place) with
          | (false, s1) => .next (s1.again (.accessAtHome a))
          | (true, s1) => .next (s1.finish a (s.moved? a.place))
  | _ => .next s

/-- The lease of an S copy is renewed by version: the module is in START-UP or TEST, or the session rolled back less
than 100 µs ago (R245). -/
def State.byVersion (s : State) (die session : Nat) : Bool :=
  decide (s.mstate < 2) || decide ((s.die die).cyc < (s.ses session).renewUntil.getD die 0)

/-- The S copy of a line in the L1 of a core is renewed (R244, R245); a renewal that reaches a blocked frame joins its
block queue, and is granted by the new home (R323). -/
def execLeaseRenewal (s : State) : Host.Outcome State Fault Refusal :=
  match s.ev with
  | .leaseRenewal core l =>
    match s.copy? (.l1 core) l with
    | none => .next s
    | some c =>
      let src := lineOf (s.now (l * 128))
      if c.bytes.isNone then .next s
      else
        match s.blockOf (l * 128) with
        | some fr => .next (s.joinQueue fr)
        | none =>
          if s.byVersion (dieOf core) ((c.vlines.headD (0, 0)).1) ∧ c.ver = s.version src then
            let e := (s.die (dieOf core)).cyc + s.leaseLen src - 64
            let s1 := s.fill (.l1 core) l c.vlines c.ver c.bytes e
            let s2 := if homeDie (l * 128) = dieOf core then s1 else s1.fill (.l2 (dieOf core)) l c.vlines c.ver c.bytes e
            .next (s2.growLease src)
          else .next (s.fillHome core 1 l c.vlines)
  | _ => .next s

/-- The entry of a gang's watch table that a confirmation is about. -/
def Gang.watchOf (x : Gang) (stamp : Nat) : Option WatchEntry := x.watch.find? (fun e => decide (e.stamp = stamp))

/-- A confirmation request reaches the home, which compares VER, as the gang's own stores have advanced it, with the
line's version (R143, R251), for a blocked frame once its turn in the block queue has come (R324). -/
def execConfirmationRequest (s : State) : Host.Outcome State Fault Refusal :=
  match s.ev with
  | .confirmationRequest g l ver stamp =>
    match s.gang? g with
    | none => .next s
    | some x =>
      let v := ((x.watchOf stamp).map (·.ver)).getD ver
      match s.blockOf (l * 128) with
      | some fr => .next (s.joinQueue fr)
      | none => .next (s.post (if v = s.version (lineOf (s.now (l * 128))) then .watchConfirm g stamp else .watchStrike g stamp))
  | _ => .next s

/-- A confirmation reaches the core: a PENDING entry is free (R141). -/
def execWatchConfirm (s : State) : Host.Outcome State Fault Refusal :=
  match s.ev with
  | .watchConfirm g stamp =>
    .next (s.updGang g fun x =>
      ({ x with watch := x.watch.filter (fun e => decide (e.stamp ≠ stamp) || e.struck) } : Gang).wake wokenByWatch)
  | _ => .next s

/-- An entry of a gang is struck (R143). -/
def State.strikeEntry (s : State) (g : GangRef) (stamp : Nat) : State :=
  s.updGang g fun x =>
    ({ x with watch := x.watch.map (fun e => if e.stamp = stamp then { e with struck := true } else e) } : Gang).wake
      wokenByWatch

/-- The step WATCH_STRIKE (R143). -/
def execWatchStrike (s : State) : Host.Outcome State Fault Refusal :=
  match s.ev with
  | .watchStrike g stamp => .next (s.strikeEntry g stamp)
  | _ => .next s

/-- An entry still PENDING after 2^20 cycles is struck (R252). -/
def execWatchTimeout (s : State) : Host.Outcome State Fault Refusal :=
  match s.ev with
  | .watchTimeout g stamp =>
    match s.gang? g with
    | none => .next s
    | some x =>
      match x.watchOf stamp with
      | some e =>
        .next (if e.since + Config.watchLimit ≤ (s.die (dieOf g.core)).cyc then s.strikeEntry g stamp else s)
      | none => .next s
  | _ => .next s

/-- A report of a changed VERSION reaches a waiting `acqw`, which tests its condition again (R151). -/
def execVersionReport (s : State) : Host.Outcome State Fault Refusal :=
  match s.ev with
  | .versionReport g e =>
    .next (s.updGang g fun x =>
      if (x.group e).wait = .acq then x.setGroup e (x.group e).test else x)
  | _ => .next s

/-- A posted write of a function of the host to module memory is performed at its homes (R372); one to a blocked frame
waits. -/
def execHostPostedWrite (s : State) : Host.Outcome State Fault Refusal :=
  match s.ev with
  | .hostPostedWrite fn pa bs =>
    let ps := linePieces (bs.length + 1) pa bs
    if !s.started ∨ !s.fnEnabled fn ∨ ps.any (fun p => !inModule p.1 || inAtoll p.1) then .next s
    else if ps.any (fun p => (s.forward p.1).isNone) then .next (s.again (.hostPostedWrite fn pa bs))
    else
      .next (ps.foldl (fun s' p => s'.writeHome none none 0 2 ((s'.forward p.1).getD p.1) p.2) s)
  | _ => .next s

end Sys2Proof.Machine
end

