-- ==== Sys2Proof/Machine/Xlt.lean ====
section
/-! DEFINITION. The `xlt` forms (R313 to R323), replay and cancellation of faults (R319 to R322, R375), the fault and
report rings (R317, R338, R358), errors (R334, R357), and translations of the host (R374). -/

namespace Sys2Proof.Machine

/-- Lanes of a parked sequence that wait for nothing any more are tried again, in increasing lane order (R320): the
lanes that stay unfinished, those that fault again with their fault. -/
def State.retryLanes (s : State) (g : GangRef) : List PLane → List (PLane × Option (BitVec 8 × Bool × VAddr)) × State
  | [] => ([], s)
  | l :: r =>
    match l.access with
    | none =>
      let (ls, s1) := State.retryLanes s g r
      (if l.fid = 0 then ls else (l, none) :: ls, s1)
    | some a =>
      if l.fid ≠ 0 then
        let (ls, s1) := State.retryLanes s g r
        ((l, none) :: ls, s1)
      else
        match s.retry { a with gang := g } with
        | .sent s1 => State.retryLanes s1 g r
        | .ended s1 => ([], s1)
        | .later s1 =>
          let (ls, s2) := State.retryLanes s1 g r
          ((l, none) :: ls, s2.postOnce (.gangUnpark g))
        | .absent k host at_ s1 =>
          let (ls, s2) := State.retryLanes s1 g r
          ((l, some (k, host, at_)) :: ls, s2)

/-- The lanes that fault again join the pending faults, with the lanes of all of them (R138, R316, R320). -/
def State.rejoin (s : State) (g : GangRef) (un : LaneSet) : List (PLane × Option (BitVec 8 × Bool × VAddr)) → List PLane × State
  | [] => ([], s)
  | (l, f) :: r =>
    match f, l.access with
    | some (k, host, at_), some a =>
      let (n, s1) := s.joinAccess { a with gang := g } k host at_ un
      let (ls, s2) := State.rejoin s1 g un r
      ({ l with fid := n } :: ls, s2)
    | _, _ =>
      let (ls, s1) := State.rejoin s g un r
      (l :: ls, s1)

/-- A parked sequence tried again: the lanes that stay unfinished. -/
def State.retryAll (s : State) (g : GangRef) (ls : List PLane) : List PLane × State :=
  let (rs, s1) := s.retryLanes g ls
  let lost := rs.filterMap (fun e => if e.2.isSome then e.1.access.map (·.lanes) else none)
  s1.rejoin g (lost.foldl (fun m l => m ||| l) 0) rs

/-- A parked sequence has no unfinished lane: it completes, or issues again (R318, R320). A `rel` then waits for its
delivery (R152). -/
def State.unparkOne (s : State) (p : Parked) (last : List PLane) : State :=
  if p.rerun ∨ p.cur.slices = 0 then
    match p.form with
    | some f => s.updGang p.cur.gang (fun x => { x with forms := x.forms ++ [{ f with cur := p.cur }] })
    | none => s
  else
    let s1 : State := { s with cur := p.cur }
    let rel := last.findSome? fun l => match l.access with
      | some a => match a.kind with
        | .version true d => some d
        | _ => none
      | none => none
    match rel with
    | some d => s1.retireAwaiting .release (destWord d)
    | none => s1.retire

/-- The parked sequences of a gang, those of its trap record apart, go on as far as their FIDs have been replayed. -/
def State.unparkAll (g : GangRef) : List Parked → State → List Parked × State
  | [], s => ([], s)
  | p :: r, s =>
    if p.saved then
      let (ps, s1) := State.unparkAll g r s
      (p :: ps, s1)
    else
      match s.retryAll g p.lanes with
      | ([], s1) => State.unparkAll g r (s1.unparkOne { p with cur := { p.cur with gang := g } } p.lanes)
      | (ls, s1) =>
        let (ps, s2) := State.unparkAll g r s1
        ({ p with lanes := ls } :: ps, s2)

/-- The groups of a gang that is not parked any more (R318): a group inside a `rel` or a waiting form waits on. -/
def Gang.resumed (x : Gang) : Gang := x.unfaulted

/-- A parked gang goes on (R318 to R320): its unfinished lanes are performed, and it resumes when no sequence is
parked. -/
def execGangUnpark (s : State) : Host.Outcome State Fault Refusal :=
  match s.ev with
  | .gangUnpark g =>
    match s.gang? g with
    | none => .next s
    | some x =>
      let (ps, s1) := State.unparkAll g x.parked s
      .next (s1.updGang g fun y =>
        let y1 := { y with parked := ps }
        if ps.any (fun p => !p.saved) then y1.faulted else y1.resumed)
  | _ => .next s

/-- The lanes that wait for a FID no longer do. -/
def Parked.served (f : Word) (p : Parked) : Parked :=
  { p with lanes := p.lanes.map (fun l => if l.fid = f then { l with fid := 0 } else l) }

def Parked.waitsOn (f : Word) (p : Parked) : Bool := p.lanes.any (fun l => decide (l.fid = f))

/-- The resident gangs of a die with a sequence parked on a FID. -/
def State.parkedOn (s : State) (die : Nat) (f : Word) : List GangRef :=
  (s.cores.filter (fun e => decide (dieOf e.1 = die))).flatMap fun e =>
    (e.2.gangs.filter (fun x => x.2.parked.any (Parked.waitsOn f))).map (fun x => ⟨e.1, x.1, x.2.gid⟩)

/-- The commands of a die's cores that are stalled on a FID. -/
def State.stalledOn (s : State) (die : Nat) (f : Word) : List (Nat × Cmd) :=
  (s.cores.filter (fun e => decide (dieOf e.1 = die))).flatMap fun e =>
    (e.2.queues.flatten.filter (fun k => decide (k.stall = some f))).map (fun k => (e.1, k))

/-- The members of the crews saved on a die changed. -/
def State.mapSaved (s : State) (die : Nat) (f : SavedTeam → SavedTeam) : State :=
  { s with saved := s.saved.map fun v =>
      if v.crew.die = die then { v with members := v.members.map f } else v }

/-- A FID is no longer pending. -/
def State.removeFid (s : State) (die : Nat) (f : Word) : State :=
  let d := s.die die
  s.setDie die { d with fids := d.fids.filter (fun x => decide (x.fid ≠ f)), discarded := d.discarded.filter (fun x => decide (x ≠ f)) }

/-- A FID is replayed (R320): its parked lanes, stalled commands and calls go on. Host translations that lack a
permission are asked for again (R375). -/
def State.replay (s : State) (die : Nat) (f : Fid) : State :=
  let s0 := s.removeFid die f.fid
  let s1 : State :=
    if f.host then { s0 with ats := s0.ats.filter (fun e => decide (e.1 ≠ f.session) || decide (e.2.2 = 3)) } else s0
  let s2 := (s1.parkedOn die f.fid).foldl (fun s' g =>
    (s'.updGang g (fun x => { x with parked := x.parked.map (Parked.served f.fid) })).postOnce (.gangUnpark g)) s1
  let s3 := (s2.stalledOn die f.fid).foldl (fun s' p =>
    (s'.updCmd p.1 p.2.id (fun k => { k with stall := none })).postOnce (.copyDelivery p.1 p.2.id)) s2
  let s4 := s3.mapSaved die fun m =>
    { m with
      gangs := m.gangs.map (fun e => (e.1, { e.2 with parked := e.2.parked.map (Parked.served f.fid) }))
      cmds := m.cmds.map (fun p => (p.1, if p.2.stall = some f.fid then { p.2 with stall := none } else p.2)) }
  let d := s4.die die
  let back := (d.stuck.filter (fun p => decide (p.1 = f.fid))).map (fun p => callEvent p.2 s.mid)
  { s4.setDie die { d with stuck := d.stuck.filter (fun p => decide (p.1 ≠ f.fid)) } with agenda := back ++ s4.agenda }

/-- A cancelled collective returns STATUS 0x01 with UNIT_MEM to every rank (R390). -/
def State.cancelCollective (s : State) (key : DWord) (seq : Word) : State :=
  let hit (k : Collective) : Bool := decide (k.key = key) && decide (k.seq = seq) && !k.returned
  let cs := (s.collectives.filter hit).flatMap (fun k => k.calls)
  let s1 : State := { s with collectives := s.collectives.filter (fun k => !hit k) }
  (s1.drop (fun e => decide (e = Event.collectiveResult key seq))).postAll
    ((cs.filter (fun c => decide (c.2.1.sources = []))).map (fun c => Event.returnRecord (record c.1 1 0xA0 [])))

/-- A VR or BLU slot whose writes cannot be performed: it is released, and each WAITF it holds ends with UNIT_MEM
(R283). Log 105 (DEDUCED). -/
def State.slotFails (s : State) (die typ inst n : Nat) : State :=
  let mine (x : Call) : Bool := isWaitf x && decide (x.ep = 0xF0000 + die * 4096 + typ * 256 + inst) &&
    decide (fieldNat (x.words.getD 1 0) 4 4 = n)
  let d := s.die die
  (s.setDie die
    { d with
      vr := if typ = 2 then Cells.erase d.vr (inst * 16 + n) else d.vr
      blu := if typ = 3 then Cells.erase d.blu n else d.blu
      held := d.held.filter (fun x => !mine x) }).postAll
    ((d.held.filter mine).map (fun x => .returnRecord (record x 1 0xA0 [])))

/-- What the device waited for with a cancelled fault, or with one that no replay mends (R394, R395, R390). -/
def State.cancelUse (s : State) (die : Nat) (f : Fid) (u : DevUse) : State :=
  match u with
  | .area a =>
    let s1 := match a with
      | some (core, n) =>
        let c := s.core core
        s.setCore core { c with accs := c.accs.modify n (fun x => { x with valid := false }) }
      | none => s
    s1.forceReset f.session
  | .form g e => s.updGang g (fun x => x.setGroup e { x.group e with wake := f.page + 1 })
  | .graph => s.postOnce (.rollback f.session)
  | .collective key seq => s.cancelCollective key seq
  | .slot typ inst n => s.slotFails die typ inst n

/-- The address of the first lane of a gang that waits on a FID (R335). -/
def Gang.parkedAt (x : Gang) (f : Word) : VAddr :=
  (x.parked.findSome? fun p => p.lanes.findSome? fun l => if l.fid = f then l.access.map (·.va) else none).getD x.trap.taddr

/-- A FID is cancelled (R321): fatal for every accessor. -/
def State.cancel (s : State) (die : Nat) (f : Fid) : State :=
  let info : BitVec 16 := f.cause.setWidth 16
  let s1 := s.removeFid die f.fid
  let d := s1.die die
  let calls := (d.stuck.filter (fun p => decide (p.1 = f.fid))).map (·.2)
  let s2 := (s1.setDie die { d with stuck := d.stuck.filter (fun p => decide (p.1 ≠ f.fid)) }).postAll
    (calls.map (fun x => .returnRecord (record x 1 0xA0 [])))
  let gangs := s2.parkedOn die f.fid
  let cmds := s2.stalledOn die f.fid
  let s3 := cmds.foldl (fun s' p => (s'.discardCmd p.1 p.2.id).fatalBy p.2.gang 0x94 info p.2.stallAt) s2
  let s4 := gangs.foldl (fun s' g => s'.fatalBy g 0x94 info (((s'.gang? g).map (·.parkedAt f.fid)).getD 0)) s3
  let raised (x : Gang) (va : VAddr) : Gang :=
    { x with raised := some { cause := 0x94, info := info, slices := x.liveSet, addr := 0, taddr := va, tlanes := 0, bu := false, next := none, cycle := none } }
  let s5 := s4.mapSaved die fun m =>
    { m with
      gangs := m.gangs.map (fun e =>
        match m.cmds.find? (fun p =>
            decide (p.2.stall = some f.fid) && decide (p.2.gang.slot = e.1) && decide (p.2.gang.gid = e.2.gid)) with
        | some p => (e.1, raised e.2 p.2.stallAt)
        | none => if e.2.parked.any (Parked.waitsOn f.fid) then (e.1, raised e.2 (e.2.parkedAt f.fid)) else e)
      cmds := m.cmds.filter (fun p => decide (p.2.stall ≠ some f.fid)) }
  f.uses.foldl (fun s' u => s'.cancelUse die f u) s5

/-- `xlt.replay` and `xlt.cancel`: the checks of R320, then the act on the FID. -/
def fidOp (i : Instr) (b : Reg) (s : State) (act : State → Nat → Fid → State) : Host.Outcome State Fault Refusal :=
  issue i s fun v sh s1 =>
    let die := dieOf v.cur.gang.core
    let f : Word := (v.opB sh 0).setWidth 32
    let d := s1.die die
    let fin (st : Nat) (s2 : State) : State := s2.formDone v b .sched [statusWord st 0]
    match d.fids.find? (fun x => decide (x.fid = f)) with
    | none => fin (if f ∈ d.discarded then 9 else 4) s1
    | some x =>
      if x.session ≠ v.core.sessionOf v.gang ∧ v.core.level v.gang < 2 then fin 5 s1
      else fin 0 (act s1 die x)

/-- `xlt.replay` (R320). -/
def execXltReplay (b : Reg) (s : State) : Host.Outcome State Fault Refusal := fidOp (.xltReplay b) b s State.replay

/-- `xlt.cancel` (R321). -/
def execXltCancel (b : Reg) (s : State) : Host.Outcome State Fault Refusal := fidOp (.xltCancel b) b s State.cancel

/-- The bytes that an entry of a level governs, by its key. -/
def entrySpan (level : Nat) (index : Nat) (c64 : Bool) : Nat × Nat :=
  if level = 0 ∧ c64 then (index / 16 * 65536, 65536) else (index * 2 ^ (12 + 9 * level), 2 ^ (12 + 9 * level))

/-- The session may be named by a form (R314, R315, R348): the issuer's own, or any at PL2 and above. -/
def View.mayName (v : View) (n : Nat) : Bool := decide (n = v.core.sessionOf v.gang) || decide (2 ≤ v.core.level v.gang)

/-- The range of an `xlt.inv` (R314): its first byte and length. -/
def invRange (va size : Nat) : Nat × Nat :=
  match size with
  | 0 => (va / 4096 * 4096, 4096)
  | 1 => (va / 65536 * 65536, 65536)
  | 2 => (va / 2 ^ 21 * 2 ^ 21, 2 ^ 21)
  | _ => (0, 2 ^ 57)

/-- The translations of a session that meet a range dropped from the TLBs of the dies in scope (R314). -/
def State.dropRange (s : State) (n lo len : Nat) (scope : Nat → Bool) : State :=
  { s with tlb := s.tlb.filter fun t =>
      let sp := entrySpan t.level t.index (pteC64 t.entry)
      !(decide (t.session = n) && scope (if t.l1 then dieOf t.place else t.place) &&
        decide (sp.1 < lo + len) && decide (lo < sp.1 + sp.2)) }

/-- `xlt.inv` (R314): the translations of the range are dropped and its watch entries struck, and the form completes once
no access that used one is on its way. Log 92 (DEDUCED). -/
def execXltInv (a b : Reg) (s : State) : Host.Outcome State Fault Refusal :=
  let bad (v : View) (sh : Shape) : Option (BitVec 8) :=
    let w : Word := (v.opB sh 0).setWidth 32
    if fieldNat w 15 17 ≠ 0 then some 0x02 else if v.mayName (fieldNat w 0 12) then none else some 0x05
  issueForm (.xltInv a b) s bad (fun _ => []) fun v f again s1 =>
    let w : Word := f.b.setWidth 32
    let n := fieldNat w 0 12
    let (lo, len) := invRange (f.a.toNat % 2 ^ 57) (fieldNat w 12 2)
    let scope (d : Nat) : Bool := w.getLsbD 14 || decide (d = dieOf v.cur.gang.core)
    let used (q : Access) : Bool := decide (q.session = n) && scope (dieOf q.gang.core) && !isAperture q.va &&
      decide (lo ≤ q.va.toNat) && decide (q.va.toNat < lo + len)
    let s2 := if again then s1
      else (s1.strike n (fun l => decide (lo ≤ l * 128) && decide (l * 128 < lo + len))).dropRange n lo len scope
    if s2.flying used ∨ s2.queuedAccess used then s2.holdForm f .sched else s2.retire

/-- `xlt.probe` (R315); the read of a table in a blocked frame waits (R323). -/
def execXltProbe (a b : Reg) (s : State) : Host.Outcome State Fault Refusal :=
  let named (w : DWord) : Nat := fieldNat (w.setWidth 32 : Word) 0 12
  issueForm (.xltProbe a b) s (fun v sh => if v.mayName (named (v.opB sh 0)) then none else some 0x05)
      (fun v => v.dest b 3) fun v f _ s1 =>
    let w := s1.walkMem (named f.b) (f.a.toNat % 2 ^ 57)
    if w.stop = .blocked then s1.holdForm f .sched
    else
      s1.formDone v b .sched
        (wordsOf w.entry 2 ++ [BitVec.ofNat 32 (w.level + if w.valid && w.good then 8 else 0)])

/-- The frame that a pair names, if it is one of module memory (R313 BADADDR). -/
def frameOf (pa : DWord) : Option Nat :=
  if pa.toNat % 4096 = 0 ∧ inModule pa.toNat then some (pa.toNat / 4096) else none

/-- `xlt.fblk` (R323): accesses to the frame wait from now on, and its D copies are recalled. -/
def execXltFblk (a b : Reg) (s : State) : Host.Outcome State Fault Refusal :=
  issue (.xltFblk a b) s fun v sh s1 =>
    let fin (st : Nat) (s2 : State) : State := s2.formDone v b .sched [statusWord st 0]
    match frameOf (v.opA sh 0) with
    | none => fin 2 s1
    | some fr =>
      if s1.blocked.any (fun k => decide (k.frame = fr)) then fin 6 s1
      else
        let dcopy (c : Copy) : Bool := decide (c.line / 32 = fr) && c.bytes.isNone
        let s2 := (s1.writeBack dcopy).dropCopies dcopy
        fin 0 { s2 with blocked := s2.blocked ++ [⟨fr, none, []⟩] }

/-- The lines of a frame in the undo logs follow it to its new place (R276, R323). -/
def State.moveUndo (s : State) (old new : Nat) : State :=
  { s with sess := s.sess.map fun e =>
      (e.1, { e.2 with undo := e.2.undo.map (fun l =>
        if l.1 / 32 = old then (new * 32 + l.1 % 32, l.2) else l) }) }

/-- The issuing form's partition holds a copy engine of the pool of its die, for which it waits (R370, R371). -/
def State.pooled (s : State) (v : View) : Bool :=
  s.engineHeld (dieOf v.cur.gang.core) (v.core.sessionOf v.gang) 0
def State.wantPool (s : State) (v : View) : State :=
  s.wantEngine (dieOf v.cur.gang.core) (v.core.sessionOf v.gang) 0

/-- `xlt.fmove` (R323): bytes and versions move, and the new home performs the queued accesses, the first of which is
sent there. Log 93 (DEDUCED). -/
def execXltFmove (a b : Reg) (s : State) : Host.Outcome State Fault Refusal :=
  issueForm (.xltFmove a b) s (fun _ _ => none) (fun v => v.dest b 1) fun v f _ s1 =>
    let fin (st : Nat) (s2 : State) : State := s2.formDone v b .sched [statusWord st 0]
    if !s1.pooled v then (s1.wantPool v).holdForm f .sched
    else
    match frameOf f.a, frameOf f.b with
    | some fr, some nw =>
      match s1.blocked.find? (fun k => decide (k.frame = fr)) with
      | none => fin 4 s1
      | some k =>
        if k.moved.isSome then fin 6 s1
        else
          let s2 := ((s1.dropFrame nw).copyFrame fr nw true).moveUndo fr nw
          let s3 : State :=
            { s2 with blocked := s2.blocked.map fun j =>
                if j.frame = fr then { j with moved := some nw } else j }
          fin 0 (s3.postAll ((k.queue.take 1).filter queuedAlone))
    | _, _ => fin 2 s1

/-- `xlt.funblk` (R323): once the block queue has been performed, forwarding ends. -/
def execXltFunblk (a b : Reg) (s : State) : Host.Outcome State Fault Refusal :=
  issueForm (.xltFunblk a b) s (fun _ _ => none) (fun v => v.dest b 1) fun v f _ s1 =>
    let fin (st : Nat) (s2 : State) : State := s2.formDone v b .sched [statusWord st 0]
    match frameOf f.a with
    | none => fin 2 s1
    | some fr =>
      match s1.blocked.find? (fun k => decide (k.frame = fr)) with
      | none => fin 4 s1
      | some k =>
        if k.moved.isNone then fin 4 s1
        else if k.queue ≠ [] then s1.holdForm f .sched
        else fin 0 { s1 with blocked := s1.blocked.filter (fun j => decide (j.frame ≠ fr)) }

/-- A 32-byte record written to a ring of a partition's supervisor session (R338): whether it is, which it is not while
the ring has no room or cannot be reached. `w` is the word of the partition record that holds the descriptor's address. Log 96 (DEDUCED). -/
def State.putRing (s : State) (part w : Nat) (ws : List Word) : Bool × State :=
  let n := fieldNat (s.partWord part 1) 0 12
  let die := s.sesHome n
  let at_ := (s.partWord part w).toNat + 2 ^ 32 * fieldNat (s.partWord part (w + 1)) 0 25
  match s.span (devAsk die n 0) at_ 32 with
  | (.ok ps, s1) =>
    let d := wordsOfBytes (s1.readSpan ps)
    let base := (dwordOf (d.take 2)).toNat % 2 ^ 57
    let size := 2 ^ fieldNat (d.getD 2 0) 0 5
    let tail := d.getD 4 0
    if (tail - d.getD 3 0).toNat = size then (false, s1)
    else
      match s1.span (devAsk die n 1) (base + 32 * (tail.toNat % size)) 32 with
      | (.ok qs, s2) =>
        match s2.span (devAsk die n 1) (at_ + 16) 4 with
        | (.ok ts, s3) =>
          (true, (s3.writeSpan none false n qs (bytesOfWords ws)).writeSpan none false n ts (bytesOf (tail + 1).toNat 4))
        | (_, s3) => (false, s3)
      | (_, s2) => (false, s2)
  | (_, s1) => (false, s1)

/-- The words of a fault record (R317). -/
def faultWords (r : FaultRec) : List Word :=
  let b (x : Bool) (k : Nat) : Nat := if x then 2 ^ k else 0
  [BitVec.ofNat 32 (r.cause.toNat + r.kind * 2 ^ 8 + b r.eng 10 + b r.unit 11 + r.session * 2 ^ 12), r.fid] ++
  wordsOf (r.vaddr.setWidth 64) 2 ++ [BitVec.ofNat 32 (r.place.toNat + r.slot * 2 ^ 16), r.detail] ++
  wordsOf (r.pc.setWidth 64) 2

/-- A fault record is written to the fault ring of its session's partition, or a report to a report ring; a record
waits for room (R317, R338, R358). -/
def execFaultRecordWrite (s : State) : Host.Outcome State Fault Refusal :=
  match s.ev with
  | .faultRecordWrite r =>
    let (done, s1) := s.putRing (s.sesPart r.session) 20 (faultWords r)
    .next (if done then s1 else s1.again (.faultRecordWrite r))
  | .reportWrite p ws =>
    let (done, s1) := s.putRing p 22 ws
    .next (if done then s1 else s1.again (.reportWrite p ws))
  | _ => .next s

/-- A report of records, one for each mapping it names: session, page address and whether it is known (R358). -/
def State.sendReport (s : State) (kind frame die : Nat) (ms : List (Nat × Nat × Bool)) : State :=
  if ms = [] then s
  else
    let rec_ (e : Nat × Nat × Nat × Bool) : Event :=
      .reportWrite (s.sesPart e.2.1)
        ([BitVec.ofNat 32 (kind + e.2.1 * 2 ^ 12), s.reportNo] ++ wordsOf (BitVec.ofNat 64 (frame * 4096)) 2 ++
          (if e.2.2.2 then wordsOf (BitVec.ofNat 64 (e.2.2.1 % 2 ^ 57)) 2 else [0, 0x80000000]) ++
          [BitVec.ofNat 32 (e.1 + ms.length * 2 ^ 16), BitVec.ofNat 32 (s.die die).cyc])
    { s.postAll ((List.zip (List.range ms.length) ms).map rec_) with reportNo := s.reportNo + 1 }

/-- An error counter of a die advances, saturating (R363). -/
def State.countErr (s : State) (die i : Nat) : State :=
  let d := s.die die
  s.setDie die { d with errs := d.errs.modify i (fun w => if w = 0xFFFFFFFF then w else w + 1) }

/-- The session whose key a frame's tag names. -/
def State.tagSession (s : State) (fr : Nat) : Option Nat :=
  let t := s.tagOf (fr * 4096)
  if t = 0 then none
  else ((Cells.find? (s.die (homeDie (fr * 4096))).keys (t - 1)).filter (fun k => !k.title)).map (·.owner)

/-- A frame holds bytes of a session's undo log (R334). -/
def State.inLog (s : State) (n fr : Nat) : Bool :=
  let base := s.ctx n 0x20 8 % 2 ^ 57
  let pages := min (s.ctx n 0x28 4) (64 * 1024 * 1024) / 4096 + 1
  (List.range pages).any fun i =>
    let va := base + 4096 * i
    let w := s.walkMem n va
    w.valid && w.good && decide (leafAddr w.level w.entry va / 4096 = fr)

/-- The session of what a gang still has on its way: a command, or an access. -/
def State.sessionLeft (s : State) (g : GangRef) : Option Nat :=
  (((s.core g.core).queues.flatten.find? (fun k => decide (k.gang = g) && !k.done)).map (·.session)).orElse fun _ =>
    s.agenda.findSome? fun e => match e with
      | .accessAtHome a => if a.gang = g then some a.session else none
      | _ => none

/-- Data with an uncorrectable error ends the gang that receives it, with the rollback of its session, or rolls back the
session of a gang that has ended (R334). -/
def State.dataError (s : State) (g : GangRef) (va : VAddr) : State :=
  if (s.gang? g).isSome then s.fatalBy g 0x95 0x95 va
  else
    match s.sessionLeft g with
    | some n => s.postOnce (.rollback n)
    | none => s

/-- An uncorrectable error in a private frame ends the access that found it (R334), and is reported with KIND 1. -/
def State.privateError (s : State) (fr : Nat) (who : Finder) : State :=
  let va : Option Nat := match who with
    | .access _ va | .unit _ va | .completion _ va => some va.toNat
    | .scrubber => none
  let s1 := match s.tagSession fr with
    | some n => s.sendReport 1 fr (homeDie (fr * 4096)) [(n, va.getD 0, va.isSome)]
    | none => s
  let s2 := match who with
    | .scrubber => s1
    | .access g va | .completion g va => s1.dataError g va
    | .unit x _ =>
      if x ∈ s1.queuedCalls then
        ((s1.drop (fun e => decide (eventCall e = some x))).post (.returnRecord (record x 1 0xA0 []))).postOnce
          (.rollback x.session)
      else s1
  match s1.tagSession fr with
  | some n => if s1.inLog n fr then s2.forceReset n else s2
  | none => s2

/-- A shared frame is poisoned (R357): its copies are discarded, accesses on their way to it fault, and every mapping
is reported. -/
def State.poisonFrame (s : State) (fr : Nat) : State :=
  let die := homeDie (fr * 4096)
  let d := s.die die
  let ms := (d.rmap.filter (fun m => decide (m.frame = fr))).map (fun m => (m.session, m.page * 4096, true))
  let s1 := s.setDie die { d with atoll := d.atoll.map (fun e => if e.frame = fr then { e with poison := true } else e) }
  let s2 := ((s1.dropFrame fr).countErr die 2).sendReport 2 fr die ms
  s2.retarget fun a => (accessPlaces a).any fun p => match p.1 with
    | .mem pa _ => decide (s2.now pa / 4096 = fr)
    | _ => false

/-- An uncorrectable error in module memory is found (R334, R357). A poisoned completion of the host link counts as one
for the gang that reads (R373), on its die. Log 97 (DEDUCED). -/
def execUncorrectableError (s : State) : Host.Outcome State Fault Refusal :=
  match s.ev with
  | .uncorrectableError _ (.completion g va) => .next ((s.countErr (dieOf g.core) 1).dataError g va)
  | .uncorrectableError pa who =>
    if !inModule pa then .next s
    else
      let s1 := s.countErr (homeDie pa) 1
      .next (if (s1.atollOf (pa / 4096)).isSome then s1.poisonFrame (pa / 4096) else s1.privateError (pa / 4096) who)
  | _ => .next s

/-- A correctable error is corrected in place and counted (R357). -/
def execCorrectableError (s : State) : Host.Outcome State Fault Refusal :=
  match s.ev with
  | .correctableError die => .next (if die < 4 then s.countErr die 0 else s)
  | _ => .next s

/-- The host's answer to a page request of a FID (R375): Success replays it, Invalid Request (1) and Response Failure
(15) cancel it; one that comes after the FID has gone has no effect. -/
def execPriResponse (s : State) : Host.Outcome State Fault Refusal :=
  match s.ev with
  | .priResponse die f code =>
    match (s.die die).fids.find? (fun x => decide (x.fid = f) && x.host) with
    | none => .next s
    | some x => .next (if code = 0 then s.replay die x else if code = 1 ∨ code = 15 then s.cancel die x else s)
  | _ => .next s

/-- The host's answer to a translation request: a page of its window and the permissions it grants, bit 0 reads and
bit 1 writes (R374). Log 97 (DEDUCED). -/
def execAtsTranslationResponse (s : State) : Host.Outcome State Fault Refusal :=
  match s.ev with
  | .atsTranslationResponse n a perm =>
    let rest := s.ats.filter (fun e => !(decide (e.1 = n) && decide (e.2.1 = a / 4096)))
    .next { s with ats := rest ++ [(n, a / 4096, perm % 4)] }
  | _ => .next s

/-- The host invalidates a translation: complete once the accesses that used it have been performed (R374). -/
def execAtsInvalidation (s : State) : Host.Outcome State Fault Refusal :=
  match s.ev with
  | .atsInvalidation n a =>
    let used := s.agenda.any fun e => match e with
      | .accessAtHome q => match q.place with
        | .host m h => decide (m = n) && decide (h / 4096 = a / 4096)
        | _ => false
      | _ => false
    if used then .next (s.postOnce (.atsInvalidation n a))
    else .next { s with ats := s.ats.filter (fun e => !(decide (e.1 = n) && decide (e.2.1 = a / 4096))) }
  | _ => .next s

end Sys2Proof.Machine
end

