-- ==== Sys2Proof/Machine/Unit.lean ====
section
/-! DEFINITION. What the calls of every rendering unit share (R281 to R285): their accesses, their return records,
calls that are malformed, and the reset of a unit. -/

namespace Sys2Proof.Machine

/-- Word i of a call. -/
def callWord (x : Call) (i : Nat) : Word := x.words.getD i 0

/-- The 57-bit address that words i and i + 1 of a call hold. Log 104 (DEDUCED). -/
def callAddr (x : Call) (i : Nat) : Nat := ((x.words.getD i 0).toNat + 2 ^ 32 * (x.words.getD (i + 1) 0).toNat) % 2 ^ 57

/-- Field [lo + n − 1 : lo] of word 1 of a call. -/
def callField (x : Call) (lo n : Nat) : Nat := fieldNat (x.words.getD 1 0) lo n

/-- A call has OP `op`, at least `n` words and no bit of word 1 at or above bit `top`, and nothing of `bad` holds
(R282). -/
def callOk (x : Call) (op n top : Nat) (bad : Bool) : Bool :=
  decide (callField x 0 4 = op) && decide (n ≤ x.words.length) && decide ((x.words.getD 1 0).toNat < 2 ^ top) && !bad

/-- The unit that serves a call has made progress: what it kept of the call's transfers is done with (R285, R320).
Log 112 (DEDUCED). -/
def State.progress (s : State) (x : Call) : State :=
  let d := s.die x.die
  s.setDie x.die
    { d with
      unitIdle := Cells.put 0 d.unitIdle (x.ep / 256 % 16 * 65536 + x.ep % 256) 0
      seen := d.seen.filter (fun e => decide (e.1 ≠ x)) }

/-- The bytes of a transfer of a call that were moved before it stalled, by kind and address (R320). -/
def State.transferred (s : State) (x : Call) (kind va : Nat) : List Byte :=
  (((s.die x.die).seen.find? (fun e => decide (e.1 = x) && decide (e.2.1 = kind) && decide (e.2.2.1 = va))).map (·.2.2.2)).getD []

/-- A transfer of a call has moved these bytes. -/
def State.noteMoved (s : State) (x : Call) (kind va : Nat) (bs : List Byte) : State :=
  let d := s.die x.die
  let rest := d.seen.filter (fun e => !(decide (e.1 = x) && decide (e.2.1 = kind) && decide (e.2.2.1 = va)))
  s.setDie x.die { d with seen := (x, kind, va, bs) :: rest }

/-- A call returns (R209, R282). -/
def State.unitReturn (s : State) (x : Call) (ws : List Word) : State :=
  (s.progress x).post (.returnRecord (record x 0 0 ws))

/-- A malformed call returns STATUS 0x02 and has no other effect (R282). -/
def State.unitBad (s : State) (x : Call) : State := (s.progress x).post (.returnRecord (record x 2 0 []))

/-- A call ends with STATUS 0x01 and a unit cause (R304). -/
def State.unitCause (s : State) (x : Call) (cause : Nat) : State :=
  (s.progress x).post (.returnRecord (record x 1 cause []))

/-- A session rolls back because its access found no key or no route (R339, R388). -/
def State.afterLoss (s : State) (session : Nat) (cause : BitVec 8) : State :=
  if cause = 0xC8 ∨ cause = 0xF0 then s.postOnce (.rollback session) else s

/-- A call whose access ends in a fault that cannot be replayed (R283, R339, R388). -/
def State.unitFails (s : State) (x : Call) (cause : BitVec 8) : State :=
  (s.unitCause x 0xA0).afterLoss x.session cause

/-- A replayable fault of a call or slot of a gang: its FID, with a record that names the gang's core (R316, R317). -/
def State.unitFid (s : State) (x : Call) (va kind off : Nat) (cause : BitVec 8) (host : Bool) : Word × State :=
  s.joinFid x.die x.session va kind cause host
    { eng := false, unit := true, core := some x.gang.core, slot := x.gang.slot, detail := BitVec.ofNat 32 off, pc := 0 }

/-- A call stalls on a translation fault; it is served again after the replay (R283). -/
def State.unitStall (s : State) (x : Call) (va kind off : Nat) (cause : BitVec 8) (host : Bool) : State :=
  let (f, s1) := s.unitFid x va kind off cause host
  let d := s1.die x.die
  s1.setDie x.die { d with stuck := d.stuck ++ [(f, x)] }

/-- The team that made a call. Log 103 (DEDUCED). -/
def State.callTeam (s : State) (x : Call) : Option Team :=
  ((s.core x.gang.core).teams.map (·.2)).find? (fun t => decide (t.tid = x.team))

/-- A run of bytes of a call resolved piece by piece, at the level of the calling gang (R283): translated, or in an
aperture of the calling team (R132). -/
def State.unitSpanFrom (x : Call) (kind : Nat) : Nat → State → Nat → Nat → Nat → Span × State
  | 0, s, _, _, _ => (.ok [], s)
  | f + 1, s, va, n, off =>
    if n = 0 then (.ok [], s)
    else
      let a := va % 2 ^ 57
      let k := min n (128 - a % 128)
      let one : Xlat × State :=
        if 2 ^ 56 ≤ a then
          match (s.callTeam x).bind (fun t => s.aperture x.gang.core t a k) with
          | some p => (.ok p, s)
          | none => (.fatal 0x40, s)
        else
          s.translate { core := none, die := x.die, session := x.session, level := x.level, kind := kind, engine := true, salt := 44 } a
      match one with
      | (.ok p, s1) =>
        if !s1.openPlace p then (.wait, s1.waitPlace p)
        else
          match State.unitSpanFrom x kind f s1 (a + k) (n - k) (off + k) with
          | (.ok ps, s2) => (.ok ((p, k) :: ps), s2)
          | r => r
      | (.fatal c, s1) => (.fatal c off, s1)
      | (.absent c h, s1) => (.absent c h off, s1)
      | (.ats, s1) => (.wait, s1)

def State.unitSpan (s : State) (x : Call) (kind va n : Nat) : Span × State :=
  State.unitSpanFrom x kind (n / 128 + 2) s va n 0

/-- How an access of a call comes out: with a value, or over for now, the call having been dealt with. -/
inductive Reply (α : Type) where
  | ok (x : α) (s : State)
  | dealt (s : State)

/-- The places of a run of bytes of a call (R283): otherwise the call stalls, ends, or is tried again. -/
def State.unitReach (s : State) (x : Call) (kind va n : Nat) : Reply (List (Place × Nat)) :=
  match s.unitSpan x kind va n with
  | (.ok ps, s1) => .ok ps s1
  | (.fatal c _, s1) => .dealt (s1.unitFails x c)
  | (.absent c h off, s1) => .dealt (s1.unitStall x (va + off) kind off c h)
  | (.wait, s1) => .dealt (s1.again (callEvent x s1.mid))

/-- The bytes of a run that can be reached now. -/
def State.readNow (s : State) (x : Call) (va n : Nat) : List Byte :=
  match s.unitSpan x 0 va n with
  | (.ok ps, s1) => s1.readSpan ps
  | _ => []

/-- Bytes read by a call at their homes (R248, R283): after a stall it goes on from its byte offset (R320). -/
def State.unitRead (s : State) (x : Call) (va n : Nat) : Reply (List Byte) :=
  let had := (s.transferred x 0 va).take n
  let m := had.length
  match s.unitSpan x 0 (va + m) (n - m) with
  | (.ok ps, s1) =>
    let bs := had ++ s1.readSpan ps
    .ok bs (if m < n then s1.noteMoved x 0 va bs else s1)
  | (.fatal c _, s1) => .dealt (s1.unitFails x c)
  | (.absent c h off, s1) =>
    .dealt ((s1.noteMoved x 0 va (had ++ s1.readNow x (va + m) off)).unitStall x (va + m + off) 0 (m + off) c h)
  | (.wait, s1) => .dealt (s1.again (callEvent x s1.mid))

/-- Bytes written for a call: the copies that its core holds show them, since its return does (R248, R260), and the undo
log holds what was there (R276, R283). Log 106 (DEDUCED). -/
def State.unitWrite (s : State) (x : Call) (ps : List (Place × Nat)) (bs : List Byte) : State :=
  s.writeSpan (if x.words = [] then none else some x.gang.core) true x.session ps bs

/-- The first bytes of a run that can be reached now are written. -/
def State.writeNow (s : State) (x : Call) (va : Nat) (bs : List Byte) : State :=
  match s.unitSpan x 1 va bs.length with
  | (.ok ps, s1) => s1.unitWrite x ps bs
  | _ => s

/-- Bytes written by a call at their homes (R248, R283): after a stall it goes on from its byte offset (R320). -/
def State.unitPut (s : State) (x : Call) (va : Nat) (bs : List Byte) : Reply Unit :=
  let m := (s.transferred x 1 va).length
  match s.unitSpan x 1 (va + m) (bs.length - m) with
  | (.ok ps, s1) => .ok () ((s1.unitWrite x ps (bs.drop m)).noteMoved x 1 va bs)
  | (.fatal c _, s1) => .dealt (s1.unitFails x c)
  | (.absent c h off, s1) =>
    .dealt (((s1.writeNow x (va + m) ((bs.drop m).take off)).noteMoved x 1 va (bs.take (m + off))).unitStall x (va + m + off)
      1 (m + off) c h)
  | (.wait, s1) => .dealt (s1.again (callEvent x s1.mid))

/-- A slot's own writes are over: what was kept of them is done with (R320). -/
def State.progressSlot (s : State) (x : Call) : State :=
  let d := s.die x.die
  s.setDie x.die { d with seen := d.seen.filter (fun e => decide (e.1 ≠ x)) }

/-- The call that stands for a slot's own writes: it has the gang that opened it, and the slot as its endpoint. -/
def slotCall (die session level team typ inst n : Nat) (g : GangRef) : Call :=
  { (default : Call) with die := die, session := session, level := level, team := team, gang := g, ep := typ * 65536 + inst * 256 + n }

/-- Bytes written for a slot, by what `k` makes of what stands there: otherwise event `e`, which makes them, comes again
later and goes on from its byte offset, or the slot ends (R283, R320). `key` names the transfer. -/
def State.slotPut (s : State) (x : Call) (typ inst n : Nat) (e : Event) (key va len : Nat) (k : List Byte → List Byte) :
    Reply Unit :=
  let m := (s.transferred x 1 key).length
  match s.unitSpan x 1 (va + m) (len - m) with
  | (.ok ps, s1) =>
    let old := fitList 0 m (s1.transferred x 1 key) ++ s1.readSpan ps
    .ok () ((s1.unitWrite x ps ((k old).drop m)).noteMoved x 1 key (k old))
  | (.fatal c _, s1) => .dealt ((s1.slotFails x.die typ inst n).afterLoss x.session c)
  | (.absent c h off, s1) =>
    let old := fitList 0 m (s1.transferred x 1 key) ++ s1.readNow x (va + m) off
    let s2 := (s1.writeNow x (va + m) ((k (fitList 0 len old)).drop m |>.take off)).noteMoved x 1 key ((k (fitList 0 len old)).take (m + off))
    let (f, s3) := s2.unitFid x (va + m + off) 1 (m + off) c h
    let d := s3.die x.die
    let u : DevUse := .slot typ inst n
    let fs := d.fids.map fun k =>
      if k.fid = f ∧ !decide (u ∈ k.uses) then { k with uses := k.uses ++ [u] } else k
    .dealt ((s3.setDie x.die { d with fids := fs }).postOnce e)
  | (.wait, s1) => .dealt (s1.postOnce e)

/-- Each WAITF that a unit holds for a slot returns FINAL (R288, R293). -/
def State.giveFinal (s : State) (die typ inst n : Nat) : State :=
  let mine (x : Call) : Bool := isWaitf x && decide (x.ep = 0xF0000 + die * 4096 + typ * 256 + inst) &&
    decide (callField x 4 4 = n)
  let d := s.die die
  (d.held.filter mine).foldl (fun s' x => s'.unitReturn x [0]) (s.setDie die { d with held := d.held.filter (fun x => !mine x) })

/-- The caller's crew is draining (R284). -/
def State.callerDrains (s : State) (x : Call) : Bool := s.crews.any (fun c => s.inCrew c x.gang && decide (c.drain ≠ .running))

/-- A WAITF on a slot that is not final is held, or returns AGAIN if the caller's crew is draining (R284, R288). -/
def State.holdWaitf (s : State) (x : Call) : State :=
  if s.callerDrains x then s.unitReturn x [3]
  else
    let d := s.die x.die
    s.setDie x.die { d with held := d.held ++ [x] }

/-- A unit is reset (R285): every call it holds returns STATUS 0x01 with UNIT_RESET, and its slots, frames and streams
are released. -/
def State.resetUnit (s : State) (die typ inst : Nat) : State :=
  let mine (x : Call) : Bool := decide (x.ep = 0xF0000 + die * 4096 + typ * 256 + inst)
  let d := s.die die
  let calls := (s.agenda.filterMap eventCall).filter mine ++ (d.held ++ d.stuck.map (·.2)).filter mine
  let s1 := (s.drop (fun e => (eventCall e).any mine)).setDie die
    { d with
      held := d.held.filter (fun x => !mine x)
      stuck := d.stuck.filter (fun p => !mine p.2)
      seen := d.seen.filter (fun e => !mine e.1)
      fids := d.fids.map (fun f => { f with uses := f.uses.filter (fun u => match u with
        | .slot t i _ => !(decide (t = typ) && decide (i = inst))
        | _ => true) })
      vr := if typ = 2 then d.vr.filter (fun e => decide (e.1 / 16 ≠ inst)) else d.vr
      bu := if typ = 1 then [] else d.bu
      blu := if typ = 3 then [] else d.blu
      bvo := if typ = 6 then [] else d.bvo
      fen := if typ = 7 then [] else d.fen
      unitIdle := Cells.put 0 d.unitIdle (typ * 65536 + inst) 0 }
  s1.postAll (calls.map (fun x => .returnRecord (record x 1 0xA5 [])))

/-- The step UNIT_RESET (R285). -/
def execUnitReset (s : State) : Host.Outcome State Fault Refusal :=
  match s.ev with
  | .unitReset die typ inst =>
    .next (if Config.unitLimit ≤ Cells.get 0 (s.die die).unitIdle (typ * 65536 + inst) then s.resetUnit die typ inst else s)
  | _ => .next s

end Sys2Proof.Machine
end

