-- ==== Sys2Proof/Machine/Visibility.lean ====
section
/-! DEFINITION. Coverage and depth (R286, R287), the visibility resolver (R288, R289) and the binning unit (R290 to
R292). -/

namespace Sys2Proof.Machine

/-- A vertex: x and y in units of 1/256 pixel, z as an FP32 pattern (R286). -/
structure Vertex where
  x : Int
  y : Int
  z : Nat
  deriving DecidableEq, Repr

/-- A triangle whose A is positive (R286). -/
structure Triangle where
  v0 : Vertex
  v1 : Vertex
  v2 : Vertex
  deriving DecidableEq, Repr

/-- An x or y of the nine words of a triangle lies outside ±2^23 (R286). -/
def triBad (ws : List Word) : Bool :=
  [0, 1, 3, 4, 6, 7].any (fun i => decide ((ws.getD i 0).toInt < -(2 ^ 23)) || decide (2 ^ 23 < (ws.getD i 0).toInt))

/-- E(a→b, p) of R286. -/
def edgeAt (a b : Vertex) (px py : Int) : Int := (b.x - a.x) * (py - a.y) - (b.y - a.y) * (px - a.x)

def vertexOf (ws : List Word) (i : Nat) : Vertex :=
  ⟨(ws.getD (3 * i) 0).toInt, (ws.getD (3 * i + 1) 0).toInt, (ws.getD (3 * i + 2) 0).toNat⟩

/-- The triangle of nine words, its vertices 1 and 2 exchanged if A < 0; none if it covers nothing (R286). -/
def triangle? (ws : List Word) : Option Triangle :=
  let a := vertexOf ws 0
  let b := vertexOf ws 1
  let c := vertexOf ws 2
  let finite (v : Vertex) : Bool := match fp32.value v.z with
    | .fin .. => true
    | _ => false
  let area := edgeAt a b c.x c.y
  if !(finite a && finite b && finite c) ∨ area = 0 then none
  else if area < 0 then some ⟨a, c, b⟩
  else some ⟨a, b, c⟩

/-- A sample at p lies inside an edge, or on one that is left or top (R286). -/
def edgeCovers (a b : Vertex) (px py : Int) : Bool :=
  let e := edgeAt a b px py
  decide (0 < e) || (decide (e = 0) && (decide (b.y < a.y) || (decide (b.y = a.y) && decide (a.x < b.x))))

def Triangle.covers (t : Triangle) (px py : Int) : Bool :=
  edgeCovers t.v0 t.v1 px py && edgeCovers t.v1 t.v2 px py && edgeCovers t.v2 t.v0 px py

/-- The depth of a covered sample, computed exactly and rounded once (R286). -/
def Triangle.depth (t : Triangle) (px py : Int) : Word :=
  let f (e : Int) (z : Nat) : FVal := (FVal.ofInt e 0).mul (fp32.value z)
  let n := FVal.sum 0
    [f (edgeAt t.v1 t.v2 px py) t.v0.z, f (edgeAt t.v2 t.v0 px py) t.v1.z, f (edgeAt t.v0 t.v1 px py) t.v2.z]
  BitVec.ofNat 32 (fp32.round 0 (n.div (FVal.ofInt (edgeAt t.v0 t.v1 t.v2.x t.v2.y) 0)))

/-- The number of samples of a pixel under SAMP, and the offset of sample k in eighths of a pixel (R286, R288). -/
def sampleCount (samp : Nat) : Nat := 2 ^ samp

def sampleOffset (samp k : Nat) : Int × Int :=
  match samp with
  | 0 => (4, 4)
  | 1 => [(6, 6), (2, 2)].getD k (4, 4)
  | _ => [(3, 1), (7, 3), (1, 5), (5, 7)].getD k (4, 4)

/-- A primitive of depth z, token k and ID replaces a held sample under the depth function; with equal token and equal
ID the sample is left unchanged (R287). Log 14 (DEDUCED). -/
def Sample.yields (old : Sample) (dfunc : Nat) (id z k : Word) : Bool :=
  let before := match old.token with
    | none => false
    | some t => decide (k < t) || (decide (k = t) && decide (id < old.id))
  let after := match old.token with
    | none => true
    | some t => decide (t < k) || (decide (k = t) && decide (old.id < id))
  if old.token = some k ∧ old.id = id then false
  else match fp32.compare z.toNat old.depth.toNat with
  | none => false
  | some .lt => decide (dfunc < 2)
  | some .gt => decide (2 ≤ dfunc)
  | some .eq => if dfunc % 2 = 0 then before else after

/-- The cleared sample (R287). -/
def clearSample (clear : Word) : Sample := ⟨0xFFFFFFFF, clear, none⟩

/-- The samples of tile (tx, ty) after a primitive: sample k of pixel (x, y) has index (32 y + x) S + k (R287, R289). -/
def drawPrim (samp dfunc tx ty : Nat) (clear : Word) (m : Cells Sample) (id k : Word) (tri : List Word) : Cells Sample :=
  match triangle? tri with
  | none => m
  | some t =>
    let n := sampleCount samp
    (List.range (1024 * n)).foldl (fun m i =>
      let o := sampleOffset samp (i % n)
      let px : Int := 256 * (32 * tx + i / n % 32 : Nat) + 32 * o.1
      let py : Int := 256 * (32 * ty + i / n / 32 : Nat) + 32 * o.2
      if t.covers px py then
        let old := Cells.get (clearSample clear) m i
        let z := t.depth px py
        if old.yields dfunc id z k then Cells.insert m i ⟨id, z, some k⟩ else m
      else m) m

/-- The bytes of a tile in the layout of VBUF: ID and depth of each sample (R289). -/
def visBytes (samp : Nat) (clear : Word) (m : Cells Sample) : List Byte :=
  (List.range (1024 * sampleCount samp)).flatMap fun i =>
    let v := Cells.get (clearSample clear) m i
    bytesOf v.id.toNat 4 ++ bytesOf v.depth.toNat 4

/-- The key of a VR slot of a die, and of the slot that a call names. -/
def vrKey (x : Call) : Nat := x.ep % 256 * 16 + callField x 4 4

/-- The slot that a call finds: that of another session is FREE to it (R288). -/
def State.vrSlot? (s : State) (x : Call) : Option VrSlot :=
  (Cells.find? (s.die x.die).vr (vrKey x)).filter (fun v => decide (v.session = x.session))

def State.setVr (s : State) (die k : Nat) (v : VrSlot) : State :=
  let d := s.die die
  s.setDie die { d with vr := Cells.insert d.vr k v }

/-- The BU holds a VR slot of a die for a resolve (R288, R292). -/
def State.buHolds (s : State) (die k : Nat) : Bool := (s.die die).bu.any (fun e => decide (e.2.slot = some k))

/-- VBUF of a slot that opens holds undefined bytes until it is FINAL (R289): free ones, where it can be reached.
Log 25 (DEDUCED). -/
def State.openVbuf (s : State) (x : Call) (va n : Nat) : State :=
  match s.unitSpan x 1 va n with
  | (.ok ps, s1) => ps.foldl (fun t p =>
      let bs := (List.range p.2).map (fun i => Config.openByte t.tick (va + i))
      match p.1 with
      | .mem pa _ => match t.forward pa with
        | some q => { t.logLine x.session (lineOf q) with mem := Cells.write (t.logLine x.session (lineOf q)).mem q bs }
        | none => t
      | _ => t.unitWrite x [p] bs) s1
  | _ => s

/-- VR OPEN (R288). -/
def execVrOpen (s : State) : Host.Outcome State Fault Refusal :=
  match s.ev with
  | .vrOpen x =>
    if !callOk x 1 6 16 (decide (callField x 8 2 = 3) || decide (callField x 12 4 = 0) || decide (callAddr x 4 % 64 ≠ 0)) then
      .next (s.unitBad x)
    else if (Cells.find? (s.die x.die).vr (vrKey x)).any (fun v => !v.final) || s.buHolds x.die (vrKey x) then
      .next (s.unitReturn x [1])
    else
      .next (((s.openVbuf x (callAddr x 4) (8192 * sampleCount (callField x 8 2))).setVr x.die (vrKey x)
        { final := false, session := x.session, samp := callField x 8 2, dfunc := callField x 10 2,
          nsrc := callField x 12 4, dones := 0, tx := fieldNat (callWord x 2) 0 16, ty := fieldNat (callWord x 2) 16 16,
          clear := callWord x 3, vbuf := BitVec.ofNat 57 (callAddr x 4), gang := x.gang, team := x.team, level := x.level,
          samples := [] }).unitReturn x [0])
  | _ => .next s

/-- VR PRIM (R286 to R288). -/
def execVrPrim (s : State) : Host.Outcome State Fault Refusal :=
  match s.ev with
  | .vrPrim x =>
    if !callOk x 2 12 8 (triBad (x.words.drop 3)) then .next (s.unitBad x)
    else
      match s.vrSlot? x with
      | none => .next (s.unitReturn x [2])
      | some v =>
        if v.nsrc ≤ v.dones then .next (s.unitReturn x [4])
        else
          .next ((s.setVr x.die (vrKey x)
            { v with samples := drawPrim v.samp v.dfunc v.tx v.ty v.clear v.samples (callWord x 2) (callWord x 0) (x.words.drop 3) }).unitReturn
              x [0])
  | _ => .next s

/-- VR DONE (R288): the last of NSRC lets the slot become final (R289). -/
def execVrDone (s : State) : Host.Outcome State Fault Refusal :=
  match s.ev with
  | .vrDone x =>
    if !callOk x 3 2 8 false then .next (s.unitBad x)
    else
      match s.vrSlot? x with
      | none => .next (s.unitReturn x [2])
      | some v =>
        if v.nsrc ≤ v.dones then .next (s.unitReturn x [4])
        else
          let s1 := (s.setVr x.die (vrKey x) { v with dones := v.dones + 1 }).unitReturn x [0]
          .next (if v.dones + 1 = v.nsrc then s1.postOnce (.vrSlotFinal x.die (x.ep % 256) (callField x 4 4)) else s1)
  | _ => .next s

/-- VR WAITF (R284, R288). -/
def execVrWaitf (s : State) : Host.Outcome State Fault Refusal :=
  match s.ev with
  | .vrWaitf x =>
    if !callOk x 4 2 8 false then .next (s.unitBad x)
    else
      match s.vrSlot? x with
      | none => .next (s.unitReturn x [2])
      | some v => .next (if v.final then s.unitReturn x [0] else s.holdWaitf x)
  | _ => .next s

/-- A slot is written to VBUF and becomes final (R289). -/
def execVrSlotFinal (s : State) : Host.Outcome State Fault Refusal :=
  match s.ev with
  | .vrSlotFinal die cluster n =>
    match Cells.find? (s.die die).vr (cluster * 16 + n) with
    | none => .next s
    | some v =>
      if v.final ∨ v.dones < v.nsrc then .next s
      else
        let bs := visBytes v.samp v.clear v.samples
        let x := slotCall die v.session v.level v.team 2 cluster n v.gang
        match s.slotPut x 2 cluster n (.vrSlotFinal die cluster n) v.vbuf.toNat v.vbuf.toNat bs.length (fun _ => bs) with
        | .dealt s1 => .next s1
        | .ok _ s1 =>
          .next (((s1.setVr die (cluster * 16 + n) { v with final := true }).progressSlot x).giveFinal die 2 cluster n)
  | _ => .next s

/-- A frame descriptor fails R290; `rsz` is the slot size of the stage queue that TQ names, 0 for none.
Log 107 (DEDUCED). -/
def frameBad (w : List Word) (rsz : Nat) : Bool :=
  let f (i : Nat) : Nat := (w.getD i 0).toNat
  decide (f 0 % 64 ≠ 0) || decide (2 ^ 25 ≤ f 1) || decide (f 2 % 64 ≠ 0) || decide (2 ^ 25 ≤ f 3) ||
  decide (f 4 % 4096 ≠ 0) || decide (2 ^ 25 ≤ f 5) || decide (f 6 % 4096 ≠ 0) || decide (f 6 < 65536) ||
  decide (f 7 % 65536 = 0) || decide (512 < f 7 % 65536) || decide (f 7 / 65536 = 0) || decide (512 < f 7 / 65536) ||
  decide (16 ≤ f 8) || decide (f 8 % 4 = 3) || decide (2 ^ 20 ≤ f 10) || decide (rsz < 32) ||
  (w.drop 11).any (fun x => decide (x ≠ 0))

/-- The address that two words of a descriptor hold. -/
def addrAt (w : List Word) (i : Nat) : Nat := ((w.getD i 0).toNat + 2 ^ 32 * (w.getD (i + 1) 0).toNat) % 2 ^ 57

/-- The stage queue that an endpoint names for a session, with its pipeline. -/
def State.stageQueue? (s : State) (n ep : Nat) : Option (Pipeline × Nat × StageQueue) :=
  ((s.ses n).pipeOf ep).bind (fun p => (p.queueOf ep).map (fun q => (p, q.1, q.2)))

def State.setBu (s : State) (die k : Nat) (f : BuFrame) : State :=
  let d := s.die die
  s.setDie die { d with bu := Cells.insert d.bu k f }

/-- BU OPENF (R290, R291); which free frame number it takes is open (log 24). -/
def execBuOpenf (s : State) : Host.Outcome State Fault Refusal :=
  match s.ev with
  | .buOpenf x =>
    if !callOk x 1 4 4 false then .next (s.unitBad x)
    else if callAddr x 2 % 64 ≠ 0 then .next (s.unitCause x 0xA1)
    else
      match s.unitRead x (callAddr x 2) 64 with
      | .dealt s1 => .next s1
      | .ok bs s1 =>
        let w := wordsOfBytes bs
        let tq := (w.getD 10 0).toNat
        if frameBad w (((s1.stageQueue? x.session tq).map (fun q => q.2.2.rsz)).getD 0) then .next (s1.unitCause x 0xA1)
        else
          let free := (List.range 8).filter (fun k => (Cells.find? (s1.die x.die).bu k).isNone)
          match free[Config.newNumber s1.tick % free.length]? with
          | none => .next (s1.unitReturn x [1])
          | some k =>
            .next ((s1.setBu x.die k
              { session := x.session, vis := BitVec.ofNat 57 (addrAt w 0),
                tok := BitVec.ofNat 57 (addrAt w 2), arena := BitVec.ofNat 57 (addrAt w 4), asize := (w.getD 6 0).toNat,
                wtiles := fieldNat (w.getD 7 0) 0 16, htiles := fieldNat (w.getD 7 0) 16 16, samp := fieldNat (w.getD 8 0) 0 2,
                dfunc := fieldNat (w.getD 8 0) 2 2, clear := w.getD 9 0, tq := tq, entries := [], resolved := [],
                resolving := false, bovf := 0, cursor := 0, slot := none }).unitReturn x [0, BitVec.ofNat 32 k])
  | _ => .next s

/-- The frame that a call names, if its session has opened it (R291). -/
def State.buFrame? (s : State) (x : Call) : Option BuFrame :=
  (Cells.find? (s.die x.die).bu (callField x 4 3)).filter (fun f => decide (f.session = x.session))

/-- The tiles of a frame that the bounding box of a triangle meets, by number ty × WTILES + tx (R292). -/
def BuFrame.tilesOf (f : BuFrame) (tri : List Word) : List Nat :=
  let v (i : Nat) : Vertex := vertexOf tri i
  let lo (g : Vertex → Int) : Int := min (g (v 0)) (min (g (v 1)) (g (v 2)))
  let hi (g : Vertex → Int) : Int := max (g (v 0)) (max (g (v 1)) (g (v 2)))
  let meets (g : Vertex → Int) (t : Nat) : Bool := decide (lo g < 8192 * (t + 1 : Nat)) && decide (8192 * (t : Int) ≤ hi g)
  (List.range (f.wtiles * f.htiles)).filter (fun t => meets Vertex.x (t % f.wtiles) && meets Vertex.y (t / f.wtiles))

/-- The samples of a tile loaded from its VIS and TOK bytes; `held` are those that a primitive holds. -/
def loadSamples (clear : Word) (vis tok : List Word) (held : List Nat) : Cells Sample :=
  (List.range (vis.length / 2)).foldl (fun m i =>
    let v : Sample := ⟨vis.getD (2 * i) 0, vis.getD (2 * i + 1) 0, if i ∈ held then some (tok.getD i 0) else none⟩
    if v = clearSample clear then m else Cells.insert m i v) []

/-- The TOK bytes of a tile (R290); those of a cleared sample are open (log 25). -/
def tokBytes (samp tick : Nat) (clear : Word) (m : Cells Sample) : List Byte :=
  (List.range (1024 * sampleCount samp)).flatMap fun i =>
    match (Cells.get (clearSample clear) m i).token with
    | some k => bytesOf k.toNat 4
    | none => (List.range 4).map (fun j => Config.openByte tick (4 * i + j))

/-- Bytes of a tile's part of a surface, and its address: 2^10 × `bytes` × S bytes for each tile. -/
def BuFrame.tileLen (f : BuFrame) (bytes : Nat) : Nat := 1024 * bytes * sampleCount f.samp
def BuFrame.tileAt (f : BuFrame) (base : VAddr) (bytes t : Nat) : Nat := base.toNat + t * f.tileLen bytes

/-- The VR slots of a die that the BU may take: FREE or FINAL ones that no other frame's resolve holds (R292). -/
def State.freeVr (s : State) (die : Nat) : List Nat :=
  (List.range 192).filter (fun k => !((Cells.find? (s.die die).vr k).any (fun v => !v.final)) && !s.buHolds die k)

/-- A tile of a frame resolved by a VR slot that the device chooses and the BU holds meanwhile (R288, R292 item 2): its
entries are applied to VIS and TOK, and leave the arena. `more` is what else the call does at once. -/
def State.resolveTile (s : State) (x : Call) (f : BuFrame) (t : Nat) (more : BuFrame → State → State) : State :=
  let key := callField x 4 3
  match f.slot with
  | none =>
    let vrs := s.freeVr x.die
    match vrs[Config.newNumber s.tick % vrs.length]? with
    | none => s.again (callEvent x s.mid)
    | some k =>
      let d := s.die x.die
      ((s.setDie x.die { d with vr := Cells.erase d.vr k }).setBu x.die key { f with slot := some k }).again (callEvent x s.mid)
  | some _ =>
    let vis := f.tileAt f.vis 8 t
    let tok := f.tileAt f.tok 4 t
    let read (s : State) (va n : Nat) : Reply (List Byte) :=
      if f.resolved.any (fun r => decide (r.1 = t)) then s.unitRead x va n else .ok [] s
    match read s vis (f.tileLen 8) with
    | .dealt s1 => s1
    | .ok vs s1 =>
      match read s1 tok (f.tileLen 4) with
      | .dealt s2 => s2
      | .ok ks s2 =>
        let old := match f.resolved.find? (fun r => decide (r.1 = t)) with
          | some r => loadSamples f.clear (wordsOfBytes vs) (wordsOfBytes ks) r.2
          | none => []
        let m := (f.entries.filter (fun e => decide (e.1 = t))).foldl (fun m e =>
          drawPrim f.samp f.dfunc (t % f.wtiles) (t / f.wtiles) f.clear m e.2.2.1 e.2.1 e.2.2.2) old
        match s2.unitPut x vis (visBytes f.samp f.clear m) with
        | .dealt s3 => s3
        | .ok _ s3 =>
          match s3.unitPut x tok (tokBytes f.samp s.tick f.clear m) with
          | .dealt s4 => s4
          | .ok _ s4 =>
            let f1 : BuFrame :=
              { f with
                entries := f.entries.filter (fun e => decide (e.1 ≠ t))
                resolved := (t, (m.filter (fun e => e.2.token.isSome)).map (·.1)) :: f.resolved.filter (fun r => decide (r.1 ≠ t))
                slot := none }
            more f1 (s4.progress x)

/-- The arena bytes of n new entries of a frame: 48 bytes each, where the BU puts them (R290, R292; log 39). -/
def State.writeArena (s : State) (x : Call) (f : BuFrame) : Nat → Reply Unit
  | 0 => .ok () s
  | n + 1 =>
    match s.unitPut x (f.arena.toNat + Config.arenaAt s.tick n % (f.asize - 47))
        ((List.range 48).map (fun i => Config.openByte s.tick (48 * n + i))) with
    | .dealt s1 => .dealt s1
    | .ok _ s1 => State.writeArena s1 x f n

/-- BU BIN (R291, R292). -/
def execBuBin (s : State) : Host.Outcome State Fault Refusal :=
  match s.ev with
  | .buBin x =>
    let tri := x.words.drop 3
    if !callOk x 2 12 7 (triBad tri) then .next (s.unitBad x)
    else
      match s.buFrame? x with
      | none => .next (s.unitReturn x [2])
      | some f =>
        let ts := f.tilesOf tri
        let k := callField x 4 3
        if f.asize < 48 * ts.length then .next (s.unitCause x 0xA2)
        else if f.resolving ∨ f.asize < 48 * (f.entries.length + ts.length) then
          match f.entries with
          | [] => .next ((s.setBu x.die k { f with resolving := false, bovf := f.bovf + 1 }).again (.buBin x))
          | e :: _ =>
            .next ((s.setBu x.die k { f with resolving := true }).resolveTile x { f with resolving := true } e.1
              (fun f1 s1 => (s1.setBu x.die k f1).again (.buBin x)))
        else
          match s.writeArena x f ts.length with
          | .dealt s1 => .next s1
          | .ok _ s1 =>
            .next ((s1.setBu x.die k
              { f with entries := f.entries ++ ts.map (fun t => (t, callWord x 0, callWord x 2, tri.take 9)) }).unitReturn x [0])
  | _ => .next s

/-- A record for a tile is reserved and committed in TQ (R292 item 6); it waits for room and for its pipeline's phase. -/
def State.tileRecord (s : State) (x : Call) (f : BuFrame) (t : Nat) (more : State → State) : State :=
  let wait := s.again (callEvent x s.mid)
  match s.stageQueue? x.session f.tq with
  | none => wait
  | some (p, qi, q) =>
    if p.phase = none ∨ !q.hasRoom 1 then wait
    else
      let va := f.vis.toNat + t * (8192 * sampleCount f.samp)
      let load := bytesOf (t % f.wtiles + t / f.wtiles * 65536) 4 ++ bytesOf (callField x 4 3) 4 ++ bytesOf va 8
      match s.unitPut x (q.slotAt q.nextSeq + 8) load with
      | .dealt s1 => s1
      | .ok _ s1 =>
        match s1.devStore p.die x.session (q.slotAt q.nextSeq)
            (headerBytes false (s1.stageOf x.team (pipeKey x.session p.num)) q.nextSeq) true .graph with
        | .wait s2 => s2.again (callEvent x s.mid)
        | .fail s2 => s2.postOnce (.rollback x.session)
        | .done _ s2 =>
          let s3 := s2.updPipe x.session p.num fun p =>
            p.updQueue qi (fun q => { q with nextSeq := q.nextSeq + 1, records := q.records ++ [(q.nextSeq, .committed false)] })
          more (s3.graphSteps x.session)

/-- BU CLOSE (R292 items 4 to 7): the tiles in order, each with its record; then the frame is freed. -/
def execBuClose (s : State) : Host.Outcome State Fault Refusal :=
  match s.ev with
  | .buClose x =>
    if !callOk x 3 2 7 false then .next (s.unitBad x)
    else
      match s.buFrame? x with
      | none => .next (s.unitReturn x [2])
      | some f =>
        let k := callField x 4 3
        let n := f.wtiles * f.htiles
        if n ≤ f.cursor then
          let d := s.die x.die
          .next ((s.setDie x.die { d with bu := Cells.erase d.bu k }).unitReturn x
            [0, BitVec.ofNat 32 f.bovf, BitVec.ofNat 32 n])
        else if f.entries.any (fun e => decide (e.1 = f.cursor)) || !f.resolved.any (fun r => decide (r.1 = f.cursor)) then
          .next (s.resolveTile x f f.cursor (fun f1 s1 => (s1.setBu x.die k f1).again (.buClose x)))
        else
          .next (s.tileRecord x f f.cursor (fun s1 => ((s1.setBu x.die k { f with cursor := f.cursor + 1 }).progress x).again (.buClose x)))
  | _ => .next s

end Sys2Proof.Machine
end

