-- ==== Sys2Proof/Machine/Blend.lean ====
section
/-! DEFINITION. The blend unit (R293, R294). -/

namespace Sys2Proof.Machine

/-- The BLU slot that a call finds: that of another session is FREE to it (R288, R293). -/
def State.bluSlot? (s : State) (x : Call) : Option BluSlot :=
  (Cells.find? (s.die x.die).blu (callField x 4 4)).filter (fun v => decide (v.session = x.session))

def State.setBlu (s : State) (die k : Nat) (v : BluSlot) : State :=
  let d := s.die die
  s.setDie die { d with blu := Cells.insert d.blu k v }

/-- BLU OPEN (R293). -/
def execBluOpen (s : State) : Host.Outcome State Fault Refusal :=
  match s.ev with
  | .bluOpen x =>
    if !callOk x 1 5 16 (decide (2 ≤ callField x 8 2) || decide (2 ≤ callField x 10 2) || decide (callField x 12 4 = 0) ||
        decide ((callWord x 4).toNat % 16 ≠ 0)) then .next (s.unitBad x)
    else if (Cells.find? (s.die x.die).blu (callField x 4 4)).any (fun v => !v.final) then .next (s.unitReturn x [1])
    else
      .next ((s.setBlu x.die (callField x 4 4)
        { final := false, session := x.session, fp16 := decide (callField x 8 2 = 1), overOp := decide (callField x 10 2 = 1),
          nsrc := callField x 12 4, dones := 0, base := BitVec.ofNat 57 (callAddr x 2), pitch := (callWord x 4).toNat,
          gang := x.gang, team := x.team, level := x.level, frags := [] }).unitReturn x [0])
  | _ => .next s

/-- BLU FRAG (R293). Pixel (X, Y) has the number 32 Y + X. -/
def execBluFrag (s : State) : Host.Outcome State Fault Refusal :=
  match s.ev with
  | .bluFrag x =>
    if !callOk x 2 6 26 (decide (callField x 8 8 ≠ 0)) then .next (s.unitBad x)
    else
      match s.bluSlot? x with
      | none => .next (s.unitReturn x [2])
      | some v =>
        if v.nsrc ≤ v.dones then .next (s.unitReturn x [4])
        else if 4096 ≤ v.frags.length then .next (s.unitCause x 0xA3)
        else
          .next ((s.setBlu x.die (callField x 4 4)
            { v with frags := v.frags ++ [⟨callField x 16 10, callWord x 0, (x.words.drop 2).take 4⟩] }).unitReturn x [0])
  | _ => .next s

/-- BLU DONE (R293): the last of NSRC lets the slot commit (R294). -/
def execBluDone (s : State) : Host.Outcome State Fault Refusal :=
  match s.ev with
  | .bluDone x =>
    if !callOk x 3 2 8 false then .next (s.unitBad x)
    else
      match s.bluSlot? x with
      | none => .next (s.unitReturn x [2])
      | some v =>
        if v.nsrc ≤ v.dones then .next (s.unitReturn x [4])
        else
          let s1 := (s.setBlu x.die (callField x 4 4) { v with dones := v.dones + 1 }).unitReturn x [0]
          .next (if v.dones + 1 = v.nsrc then s1.postOnce (.bluCommit x.die (callField x 4 4)) else s1)
  | _ => .next s

/-- BLU WAITF (R284, R293). -/
def execBluWaitf (s : State) : Host.Outcome State Fault Refusal :=
  match s.ev with
  | .bluWaitf x =>
    if !callOk x 4 2 8 false then .next (s.unitBad x)
    else
      match s.bluSlot? x with
      | none => .next (s.unitReturn x [2])
      | some v => .next (if v.final then s.unitReturn x [0] else s.holdWaitf x)
  | _ => .next s

/-- d + x of an OVER step: s + d × (1 − s.A), exactly (R294). -/
def overValue (d c a : FVal) : FVal :=
  FVal.sum 0 [c, d.mul (FVal.sum 0 [.fin false 1 0, a.neg])]

/-- One fragment applied to the bytes of an RGBA8 pixel (R294): in units of 1/255. -/
def blend8 (overOp : Bool) (d : List Byte) (src : List Word) : List Byte :=
  let f (i : Nat) : FVal := fp32.value (src.getD i 0).toNat
  (List.range 4).map fun i =>
    let c := (FVal.ofInt 255 0).mul (f i)
    let v := if overOp then overValue (FVal.ofInt (d.getD i 0).toNat 0) c (f 3) else c
    BitVec.ofInt 8 (v.toInt 0 false 8)

/-- One fragment applied to the bytes of an FP16×4 pixel (R294). -/
def blend16 (overOp : Bool) (d : List Byte) (src : List Word) : List Byte :=
  let f (i : Nat) : FVal := fp32.value (src.getD i 0).toNat
  (List.range 4).flatMap fun i =>
    let v := if overOp then overValue (fp16.value (natOfBytes ((d.drop (2 * i)).take 2))) (f i) (f 3) else f i
    bytesOf (fp16.round 0 v) 2

/-- Fragments in increasing token order, those of equal tokens in queue order. -/
def insertFrag (f : Fragment) : List Fragment → List Fragment
  | [] => [f]
  | g :: r => if g.token ≤ f.token then g :: insertFrag f r else f :: g :: r

def sortFrags (fs : List Fragment) : List Fragment := fs.foldl (fun l f => insertFrag f l) []

/-- The bytes of a pixel after its fragments (R294). -/
def BluSlot.blended (v : BluSlot) (fs : List Fragment) (d : List Byte) : List Byte :=
  (sortFrags fs).foldl (fun b f => if v.fp16 then blend16 v.overOp b f.color else blend8 v.overOp b f.color) d

def BluSlot.bytes (v : BluSlot) : Nat := if v.fp16 then 8 else 4

/-- The address of a pixel (R293). -/
def BluSlot.pixelAt (v : BluSlot) (p : Nat) : Nat := v.base.toNat + p / 32 * v.pitch + p % 32 * v.bytes

/-- Pixels in the order in which the BLU commits them, which is open where their addresses meet (log 40). -/
def insertPixel (key : Nat → Nat) (p : Nat) : List Nat → List Nat
  | [] => [p]
  | q :: r => if key q ≤ key p then q :: insertPixel key p r else p :: q :: r

def BluSlot.pixels (v : BluSlot) (tick : Nat) : List Nat :=
  let ps := (List.range 1024).filter (fun p => v.frags.any (fun f => decide (f.pixel = p)))
  if 32 * v.bytes ≤ v.pitch then ps else ps.foldl (fun l p => insertPixel (Config.openOrder tick) p l) []

/-- The pixels of a slot written one by one (R294). -/
def State.putPixels (x : Call) (v : BluSlot) (n : Nat) (e : Event) : List Nat → State → Reply Unit
  | [], s => .ok () s
  | p :: r, s =>
    match s.slotPut x 3 0 n e (2 ^ 57 + p) (v.pixelAt p) v.bytes (v.blended (v.frags.filter (fun f => decide (f.pixel = p)))) with
    | .dealt s1 => .dealt s1
    | .ok _ s1 => State.putPixels x v n e r s1

/-- A slot commits its fragments and becomes final (R294). Log 40 (DESIGN CHOICE). -/
def execBluCommit (s : State) : Host.Outcome State Fault Refusal :=
  match s.ev with
  | .bluCommit die n =>
    match Cells.find? (s.die die).blu n with
    | none => .next s
    | some v =>
      if v.final ∨ v.dones < v.nsrc then .next s
      else
        let x := slotCall die v.session v.level v.team 3 0 n v.gang
        match State.putPixels x v n (.bluCommit die n) (v.pixels s.tick) s with
        | .dealt s1 => .next s1
        | .ok _ s1 => .next (((s1.setBlu die n { v with final := true }).progressSlot x).giveFinal die 3 0 n)
  | _ => .next s

end Sys2Proof.Machine
end

