-- ==== Sys2Proof/Machine/Encoder.lean ====
section
/-! DEFINITION. The frame encoder (R303). -/

namespace Sys2Proof.Machine

/-- The stream that a call names, if its session has opened it (R303). -/
def State.stream? (s : State) (x : Call) : Option FenStream :=
  (Cells.find? (s.die x.die).fen (callField x 4 5)).filter (fun v => decide (v.session = x.session))

def State.setStream (s : State) (die k : Nat) (v : FenStream) : State :=
  let d := s.die die
  s.setDie die { d with fen := Cells.insert d.fen k v }

/-- What the FEN answers for a stream that its session has not opened is open (log 38). -/
def State.noStream (s : State) (x : Call) : State := s.unitReturn x [Config.openWord s.tick 0]

/-- FEN OPENS (R303). -/
def execFenOpens (s : State) : Host.Outcome State Fault Refusal :=
  match s.ev with
  | .fenOpens x =>
    let w := fieldNat (callWord x 2) 0 16
    let h := fieldNat (callWord x 2) 16 16
    let bytes := (callWord x 6).toNat
    if !callOk x 1 7 11 (decide (w % 8 ≠ 0) || decide (h % 8 ≠ 0) || decide (w = 0) || decide (h = 0) || decide (4096 < w) ||
        decide (2304 < h) || (decide (callField x 9 1 = 1) && decide (callField x 10 1 = 0)) ||
        decide (callAddr x 4 % 4096 ≠ 0) || decide (bytes % 4096 ≠ 0)) then .next (s.unitBad x)
    else if (Cells.find? (s.die x.die).fen (callField x 4 5)).isSome then .next (s.unitReturn x [1])
    else
      .next ((s.setStream x.die (callField x 4 5)
        { session := x.session, codec := callField x 9 1, depth10 := decide (callField x 10 1 = 1), width := w, height := h,
          fps := fieldNat (callWord x 3) 0 8, kbits := fieldNat (callWord x 3) 8 24, base := BitVec.ofNat 57 (callAddr x 4), bytes := bytes, written := 0, free := bytes,
          frames := 0, forceKey := false, born := s.tick, served := 0 }).unitReturn x [0])
  | _ => .next s

/-- The first rows of a plane (R283). -/
def State.readRows (x : Call) (base pitch n : Nat) : Nat → State → Reply (List Byte)
  | 0, s => .ok [] s
  | k + 1, s =>
    match State.readRows x base pitch n k s with
    | .dealt s1 => .dealt s1
    | .ok bs s1 =>
      match s1.unitRead x (base + k * pitch) n with
      | .dealt s2 => .dealt s2
      | .ok row s2 => .ok (bs ++ row) s2

/-- The parameters of a stream that its encoding depends on (R303). -/
def FenStream.params (v : FenStream) : List Nat := [v.codec, if v.depth10 then 1 else 0, v.width, v.height, v.fps, v.kbits]

/-- FEN FRAME (R303): one unit, whose bytes are the encoder's (log 21), is written into the ring in stream order,
wrapping at its end; one that does not fit is dropped, and the next frame is a key frame. -/
def execFenFrame (s : State) : Host.Outcome State Fault Refusal :=
  match s.ev with
  | .fenFrame x =>
    if !callOk x 2 7 10 false then .next (s.unitBad x)
    else
      match s.stream? x with
      | none => .next (s.noStream x)
      | some v =>
        let row := if v.depth10 then 2 * v.width else v.width
        let pitch := (callWord x 6).toNat
        match State.readRows x (callAddr x 2) pitch row v.height s with
        | .dealt s1 => .next s1
        | .ok luma s1 =>
          match State.readRows x (callAddr x 4) pitch row (v.height / 2) s1 with
          | .dealt s2 => .next s2
          | .ok chroma s2 =>
            let k := callField x 4 5
            let key := v.forceKey || decide (callField x 9 1 = 1)
            let bs := Config.encodedUnit v.born v.served key v.params (luma ++ chroma)
            let open_ (i : Nat) : Word := Config.openWord s2.tick i
            if v.free < bs.length then
              .next ((s2.setStream x.die k { v with forceKey := true, served := v.served + 1 }).unitReturn x [5, open_ 0, open_ 1, open_ 2])
            else
              let at_ := v.written % v.bytes
              let n := min bs.length (v.bytes - at_)
              match s2.unitPut x (v.base.toNat + at_) (bs.take n) with
              | .dealt s3 => .next s3
              | .ok _ s3 =>
                match if n < bs.length then s3.unitPut x v.base.toNat (bs.drop n) else .ok () s3 with
                | .dealt s4 => .next s4
                | .ok _ s4 =>
                  let v1 : FenStream :=
                    { v with
                      written := v.written + bs.length, free := v.free - bs.length, frames := v.frames + 1
                      forceKey := false, served := v.served + 1 }
                  .next ((s4.setStream x.die k v1).unitReturn
                    x [0, BitVec.ofNat 32 at_, BitVec.ofNat 32 bs.length, BitVec.ofNat 32 (Config.frameBase + v.frames)])
  | _ => .next s

/-- FEN RELEASE (R303): space of the ring is free again, to no more than its size. Log 111 (DEDUCED). -/
def execFenRelease (s : State) : Host.Outcome State Fault Refusal :=
  match s.ev with
  | .fenRelease x =>
    if !callOk x 3 3 9 false then .next (s.unitBad x)
    else
      match s.stream? x with
      | none => .next (s.noStream x)
      | some v =>
        .next ((s.setStream x.die (callField x 4 5)
          { v with free := min v.bytes (v.free + (callWord x 2).toNat) }).unitReturn x [0])
  | _ => .next s

/-- FEN CLOSES (R303). -/
def execFenCloses (s : State) : Host.Outcome State Fault Refusal :=
  match s.ev with
  | .fenCloses x =>
    if !callOk x 4 2 9 false then .next (s.unitBad x)
    else
      match s.stream? x with
      | none => .next (s.noStream x)
      | some _ =>
        let d := s.die x.die
        .next ((s.setDie x.die { d with fen := Cells.erase d.fen (callField x 4 5) }).unitReturn x [0])
  | _ => .next s

end Sys2Proof.Machine
end

