-- ==== Sys2Proof/Machine/Fabric.lean ====
section
/-! DEFINITION. The fabric: links and modules that fail (R388), and the collectives (R389 to R391). -/

namespace Sys2Proof.Machine

/-- A port of the module set. -/
def State.setPort (s : State) (port : Nat) (p : PortState) : State := { s with ports := s.ports.set port p }

/-- A flit whose check fails is retried: its port retrains (R388). -/
def execFlitCheckFail (s : State) : Host.Outcome State Fault Refusal :=
  match s.ev with
  | .flitCheckFail port => .next (if s.ports.getD port .down = .up then s.setPort port .retraining else s)
  | _ => .next s

/-- A port that retrains is up again (R388). -/
def execPortRetrained (s : State) : Host.Outcome State Fault Refusal :=
  match s.ev with
  | .portRetrained port => .next (if s.ports.getD port .down = .retraining then s.setPort port .up else s)
  | _ => .next s

/-- A port that fails to retrain is down, and routes are recomputed (R388). -/
def execPortDown (s : State) : Host.Outcome State Fault Refusal :=
  match s.ev with
  | .portDown port =>
    .next (if s.ports.getD port .down = .retraining then { s.setPort port .down with rerouting := true } else s)
  | _ => .next s

/-- A collective has a member on a module (R391). -/
def Collective.reaches (k : Collective) (m : Nat) : Bool :=
  k.calls.any (fun c => decide (c.2.1.module = m) || (c.2.2.drop 4).any (fun w => decide (fieldNat w 0 4 = m)))

/-- Collectives with a member on a module that cannot be reached any more return PEER_LOST (R391). -/
def State.loseModules (s : State) (p : Nat → Bool) : State :=
  s.losePeers (fun k => (List.range 16).any (fun m => p m && k.reaches m))

/-- Routes have been recomputed: the modules of `reach` have one (R388). -/
def execRoutesRecomputed (s : State) : Host.Outcome State Fault Refusal :=
  match s.ev with
  | .routesRecomputed reach =>
    if s.rerouting then
      .next ({ s with routed := reach, rerouting := false }.loseModules
        (fun m => decide (m ≠ s.mid % 16) && s.routed.getLsbD m && !reach.getLsbD m))
    else .next s
  | _ => .next s

/-- A module leaves the armada or enters reset; when it is this one, no other can be reached (R388, R391). -/
def execModuleLeavesArmada (s : State) : Host.Outcome State Fault Refusal :=
  match s.ev with
  | .moduleLeavesArmada m =>
    let gone (k : Nat) : Bool := decide (k ≠ s.mid % 16) && (decide (k = m) || decide (m = s.mid % 16))
    let left : BitVec 16 := BitVec.ofNat 16 (bitsNat (fun k => s.joined.getLsbD k && !gone k) 16)
    .next ({ s with joined := left }.loseModules gone)
  | _ => .next s

/-- Bytes of an element of a collective (R389). -/
def elemBytes (etype : Nat) : Nat := if etype < 3 then 4 else 8

/-- A collective call is malformed, its RANK and ROOT apart (R389). Log 114 (DEDUCED). -/
def collectiveBad (x : Call) (op : Nat) : Bool :=
  let e := callField x 8 3
  !callOk x op 11 26 (decide (callField x 11 5 ≠ 0) || decide (3 ≤ callField x 4 4) || decide (5 ≤ e) ||
    (decide (e = 4) && decide (callField x 4 4 ≠ 0)) || decide (callAddr x 2 % 64 ≠ 0) || decide (1024 ≤ (callWord x 4).toNat) ||
    decide ((callWord x 5).toNat = 0) || decide (16777216 < (callWord x 5).toNat) ||
    decide (callAddr x 6 % elemBytes e ≠ 0) || decide (callAddr x 8 % elemBytes e ≠ 0))

/-- A group descriptor and the RANK of a call fail R389. -/
def groupBad (x : Call) (op : Nat) (w : List Word) : Bool :=
  let n := (w.getD 2 0).toNat
  decide (n < 2) || decide (1024 < n) || decide (w.getD 3 0 ≠ 0) || decide (n ≤ (callWord x 4).toNat) ||
  (decide (op = 2) && decide (n ≤ callField x 16 10)) ||
  ((w.drop 4).take n).any (fun e => decide (fieldNat e 6 6 ≠ 0) || decide (fieldNat e 24 8 ≠ 0))

/-- The place of rank r in a descriptor is that of a member (R389, R390). -/
def rankIs (w : List Word) (r : Nat) (m : Member) : Bool :=
  let e := w.getD (4 + r) 0
  decide (fieldNat e 0 4 = m.module % 16) && decide (fieldNat e 4 2 = m.die) && decide (fieldNat e 12 12 = m.session)

/-- Two calls of a collective agree (R390): digest of their descriptors, OP, FUNC, ETYPE, ROOT and COUNT. -/
def callsAgree (a b : Call × Member × List Word) : Bool :=
  decide (sha3 (bytesOfWords a.2.2) = sha3 (bytesOfWords b.2.2)) && decide (callWord a.1 1 = callWord b.1 1) &&
  decide (callWord a.1 5 = callWord b.1 5)

/-- A call joins its collective (R390). -/
def State.joinCollective (s : State) (op : Nat) (c : Call × Member × List Word) : State :=
  let x := c.1
  let key := dwordOf (c.2.2.take 2)
  let seq := callWord x 10
  let mine (k : Collective) : Bool := decide (k.key = key) && decide (k.seq = seq) && !k.returned
  let rank (y : Call) : Word := callWord y 4
  let live := s.collectives.filter fun k => !k.returned || s.agenda.any (fun e => match e with
    | .returnRecord r => decide (r.call ∈ k.own)
    | _ => false)
  let own : List Call := if c.2.1.sources = [] then [x] else []
  let s0 : State := { s with collectives := live }
  let tell (t : State) (xs : List Call) (st : Word) : State := xs.foldl (fun t y => t.unitReturn y [st]) t
  if !rankIs c.2.2 (rank x).toNat c.2.1 then tell s0 own 1
  else if own ≠ [] ∧ s.callerDrains x then tell s0 own 3
  else
    let k := (live.find? mine).getD { key := key, seq := seq, calls := [], broadcast := decide (op = 2), complete := false, returned := false }
    let others := live.filter (fun j => !mine j)
    if k.calls.any (fun d => decide (rank d.1 = rank x)) then tell s0 own 1
    else if k.calls.any (fun d => !callsAgree d c) then tell { s0 with collectives := others } (k.own ++ own) 1
    else
      let calls := k.calls ++ [c]
      let done := decide (calls.length = (c.2.2.getD 2 0).toNat)
      let s1 : State := { s0 with collectives := others ++ [{ k with calls := calls, complete := done }] }
      if done then s1.postOnce (.collectiveResult key seq) else s1

/-- A collective call is served (R389): the descriptor of a call of this module is read for it; a call from another
module brings its own after its eleven words. -/
def State.serveCollective (s : State) (op : Nat) (x : Call) (m : Member) : State :=
  let out : Bool := decide (m.sources ≠ [])
  let bad (t : State) : State := if out then t else t.unitBad x
  if collectiveBad x op then bad s
  else if out then
    let w := x.words.drop 11
    if groupBad x op w then s else s.joinCollective op (x, m, w)
  else
    match s.unitRead x (callAddr x 2) 16 with
    | .dealt s1 => s1
    | .ok hb s1 =>
      let n := ((wordsOfBytes hb).getD 2 0).toNat
      if n < 2 ∨ 1024 < n then bad s1
      else
        match s1.unitRead x (callAddr x 2) (16 + 4 * n) with
        | .dealt s2 => s2
        | .ok bs s2 =>
          let w := wordsOfBytes bs
          if groupBad x op w then bad s2 else s2.joinCollective op (x, m, w)

/-- The step COLLECTIVE_ALLREDUCE (R390). -/
def execCollectiveAllreduce (s : State) : Host.Outcome State Fault Refusal :=
  match s.ev with
  | .collectiveAllreduce x m => .next (s.serveCollective 1 x m)
  | _ => .next s

/-- The step COLLECTIVE_BROADCAST (R390). -/
def execCollectiveBroadcast (s : State) : Host.Outcome State Fault Refusal :=
  match s.ev with
  | .collectiveBroadcast x m => .next (s.serveCollective 2 x m)
  | _ => .next s

/-- The operation of a node of the tree (R390). -/
def collectiveNode (func etype : Nat) (a b : DWord) : DWord :=
  let w := 8 * elemBytes etype
  let signed : Bool := decide (etype = 0 ∨ etype = 3)
  if etype = 2 then
    let x := a.toNat % 2 ^ 32
    let y := b.toNat % 2 ^ 32
    BitVec.ofNat 64 (match func with
      | 0 => fp32.round 0 (FVal.sum 0 [fp32.value x, fp32.value y])
      | 1 => fp32.least x y
      | _ => fp32.greatest x y)
  else
    let v (p : DWord) : Int := intVal signed w (p.toNat % 2 ^ w)
    BitVec.ofNat 64 (wrapInt w (match func with
      | 0 => v a + v b
      | 1 => min (v a) (v b)
      | _ => max (v a) (v b)))

/-- An access of a collective for one of its calls: otherwise it stalls, ends, or is tried again (R283, R390). -/
def State.collectiveReach (s : State) (k : Collective) (x : Call) (kind va n : Nat) : Reply (List (Place × Nat)) :=
  let e : Event := .collectiveResult k.key k.seq
  let u : DevUse := .collective k.key k.seq
  match s.unitSpan x kind va n with
  | (.ok ps, s1) => .ok ps s1
  | (.fatal c _, s1) => .dealt ((s1.cancelCollective k.key k.seq).afterLoss x.session c)
  | (.absent c h off, s1) =>
    let (f, s2) := s1.unitFid x (va + off) kind off c h
    let d := s2.die x.die
    let fs := d.fids.map fun q =>
      if q.fid = f ∧ !decide (u ∈ q.uses) then { q with uses := q.uses ++ [u] } else q
    .dealt ((s2.setDie x.die { d with fids := fs }).postOnce e)
  | (.wait, s1) => .dealt (s1.postOnce e)

/-- The elements of each call's source, by rank (R390). -/
def State.readSources (k : Collective) (n size : Nat) :
    List (Call × Member × List Word) → State → Reply (List (Nat × List DWord))
  | [], s => .ok [] s
  | c :: r, s =>
    let rank := (callWord c.1 4).toNat
    let next (es : List DWord) (s1 : State) : Reply (List (Nat × List DWord)) :=
      match State.readSources k n size r s1 with
      | .dealt s2 => .dealt s2
      | .ok qs s2 => .ok ((rank, es) :: qs) s2
    if c.2.1.sources ≠ [] then next (fitList 0 n c.2.1.sources) s
    else
      match s.collectiveReach k c.1 0 (callAddr c.1 6) (n * size) with
      | .dealt s1 => .dealt s1
      | .ok ps s1 =>
        let bs := s1.readSpan ps
        next ((List.range n).map (fun i => BitVec.ofNat 64 (natOfBytes ((bs.drop (size * i)).take size)))) s1

/-- The places of the destinations of this module's calls. -/
def State.reachDests (k : Collective) (n : Nat) : List Call → State → Reply (List (Call × List (Place × Nat)))
  | [], s => .ok [] s
  | x :: r, s =>
    match s.collectiveReach k x 1 (callAddr x 8) n with
    | .dealt s1 => .dealt s1
    | .ok ps s1 =>
      match State.reachDests k n r s1 with
      | .dealt s2 => .dealt s2
      | .ok qs s2 => .ok ((x, ps) :: qs) s2

/-- The result of a complete collective (R56, R390). -/
def Collective.result (k : Collective) (func etype root n : Nat) (src : List (Nat × List DWord)) : List DWord :=
  let of (r i : Nat) : DWord := ((src.find? (fun p => decide (p.1 = r))).map (fun p => p.2.getD i 0)).getD 0
  (List.range n).map fun i =>
    if k.broadcast then of root i
    else (treeRoot (collectiveNode func etype) 10 ((List.range src.length).map (fun r => some (of r i)))).getD 0

/-- A collective whose ranks lie on several dies (R370). -/
def Collective.crossDie (k : Collective) : Bool :=
  let at_ (m : Member) : Nat × Nat := (m.module, m.die)
  k.calls.any (fun c => k.calls.any (fun d => decide (at_ c.2.1 ≠ at_ d.2.1)))

/-- A complete collective reads its sources, writes its destinations and returns (R390); one across dies has engines of
the pool (R370). -/
def execCollectiveResult (s : State) : Host.Outcome State Fault Refusal :=
  match s.ev with
  | .collectiveResult key seq =>
    match s.collectives.find? (fun k => decide (k.key = key) && decide (k.seq = seq) && k.complete && !k.returned) with
    | none => .next s
    | some k =>
      let x := (k.calls.map (·.1)).headD default
      let waits := k.own.filter (fun y => k.crossDie && !s.engineHeld y.die y.session 2)
      if waits ≠ [] then .next ((waits.foldl (fun t y => t.wantEngine y.die y.session 2) s).post (.collectiveResult key seq))
      else
      let n := (callWord x 5).toNat
      let etype := callField x 8 3
      let size := elemBytes etype
      match State.readSources k n size k.calls s with
      | .dealt s1 => .next s1
      | .ok src s1 =>
        match State.reachDests k (n * size) k.own s1 with
        | .dealt s2 => .next s2
        | .ok ds s2 =>
          let bs := (k.result (callField x 4 4) etype (callField x 16 10) n src).flatMap (fun e => bytesOf e.toNat size)
          let s3 := ds.foldl (fun t d => t.unitWrite d.1 d.2 bs) s2
          let s4 : State := { s3 with collectives := s3.collectives.map (fun j => if j = k then { k with returned := true } else j) }
          .next (k.own.foldl (fun t y => t.unitReturn y [0]) s4)
  | _ => .next s

end Sys2Proof.Machine
end

