-- ==== Sys2Proof/Machine/Modg.lean ====
section
/-! DEFINITION. The `modg` forms (R348 to R356, R359): shared content (R342, R343, R346), forks, keys (R340, R353),
frames, migration, the opening and closing of sessions, and the healing of poisoned frames. -/

namespace Sys2Proof.Machine

/-- Bytes written to a frame by the device: its lines are written at their homes (R239), and no copy of them stays. -/
def State.putFrame (s : State) (fr : Nat) (bs : List Byte) : State :=
  let s1 := s.dropFrame fr
  { s1 with
    mem := Cells.write s1.mem (fr * 4096) bs
    lineVer := (List.range 32).foldl (fun v i => Cells.put 0 v (fr * 32 + i) (Cells.get 0 s1.lineVer (fr * 32 + i) + 1)) s1.lineVer
    predictor := (List.range 32).foldl (fun v i => Cells.put 0 v (fr * 32 + i) 0) s1.predictor }

def State.frameBytes (s : State) (fr : Nat) : List Byte := Cells.bytes s.mem (fr * 4096) 4096

/-- The bytes of a frame at its present place (R323). -/
def State.frameNow (s : State) (fr : Nat) : List Byte := Cells.bytes s.mem (s.now (fr * 4096)) 4096

/-- The content key of 4,096 bytes (R342). -/
def contentKey (bs : List Byte) : BitVec 128 := BitVec.ofNat 128 (natOfBytes ((sha3 bs).take 16))

/-- Two content keys agree in their k low bits. -/
def keysAgree (k : Nat) (a b : BitVec 128) : Bool := decide (a.toNat % 2 ^ k = b.toNat % 2 ^ k)

/-- The die of the slice in which a key is looked up, and how many bits agree (R343, R349). -/
def sliceOfKey (t : Bool) (k : Nat) (key : BitVec 128) : Nat := if t && decide (k < 2) then 0 else fieldNat key 0 2

/-- How a lookup ends (R343). -/
inductive Lookup where
  | hit (e : AtollEntry)
  | collision (e : AtollEntry) (n : Nat)
  | absent

/-- The lookup of a page's content for a title group (R343). -/
def State.lookup (s : State) (t : Bool) (k group : Nat) (bs : List Byte) : Lookup :=
  let key := contentKey bs
  let bits := if t then k else 128
  let c := (s.die (sliceOfKey t k key)).atoll.filter (fun e => decide (e.group = group) && keysAgree bits key e.key)
  match c.find? (fun e => decide (s.frameBytes e.frame = bs)), c with
  | some e, _ => .hit e
  | none, e :: r => .collision e (r.length + 1)
  | none, [] => .absent

/-- A mapping of a shared frame is added: its reverse-map record and its REF; none if there is no room (R343, R349). -/
def State.mapShared (s : State) (fr session page : Nat) : Option State :=
  let die := homeDie (fr * 4096)
  let d := s.die die
  match d.atoll.find? (fun e => decide (e.frame = fr)) with
  | none => none
  | some e =>
    if Config.refLimit ≤ e.ref ∨ Config.reverseEntries ≤ d.rmap.length then none
    else
      some (s.setDie die
        { d with
          rmap := d.rmap ++ [⟨session, page, fr⟩]
          atoll := d.atoll.map (fun a => if a.frame = fr then { a with ref := a.ref + 1 } else a) })

/-- A new Atoll entry with a frame of the content pool, which takes the content under the title key; none if there is no
room (R349). -/
def State.newEntry (s : State) (die group : Nat) (bs : List Byte) (slot : Nat) : Option (Nat × State) :=
  if Config.atollEntries ≤ (s.die die).atoll.length ∨ Config.reverseEntries ≤ (s.die die).rmap.length then none
  else
    match s.takePool die with
    | none => none
    | some (fr, s1) =>
      let s2 := (s1.putFrame fr bs).retag fr (slot + 1)
      let d := s2.die die
      some (fr, s2.setDie die { d with atoll := d.atoll ++ [⟨group, contentKey bs, fr, 0, false⟩] })

/-- How the sharing of a private page ends (R349). -/
inductive Shared where
  | done (status value frame : Nat) (s : State)
  | fail (status : Nat)

/-- The undo log's entries on the lines of a frame name from now on the lines of a page, whose mapping leaves the frame
(R278, R349, R350). -/
def SessDev.unmapUndo (d : SessDev) (fr page : Nat) : SessDev :=
  let mine := (d.undo.filter (fun e => decide (e.1 / 32 = fr))).map (fun e => (page * 32 + e.1 % 32, e.2))
  { d with
    undo := d.undo.filter (fun e => decide (e.1 / 32 ≠ fr))
    undoVa := mine.filter (fun e => !d.undoVa.any (fun k => decide (k.1 = e.1))) ++ d.undoVa }

def State.unmapUndo (s : State) (n fr page : Nat) : State := s.setSes n ((s.ses n).unmapUndo fr page)

/-- A private page's content is shared (R349), up to the mapping: its frame, T and k. The leaf is `e` at `p`, its
companion at `q`; the PENDING watch entries of the page are struck first (R251). Log 98 (DEDUCED). -/
def State.sharePage (s : State) (n page p q : Nat) (e : DWord) (t : Bool) (k : Nat) : Shared :=
  let fr := pteFrame e / 4096
  let bs := s.frameBytes fr
  let group := s.sesGroup n
  let remap (s : State) (nw : Nat) : Option State :=
    ((s.strike n (fun l => decide (l / 32 = page))).mapShared nw n page).map fun s1 =>
      let e1 := setField (setField (setField e 12 40 nw) 8 1 1) 2 1 0
      (((s1.wr p 8 e1.toNat).wr q 8 0).dropPage n page).unmapUndo n fr page
  match s.lookup t k group bs with
  | .hit a =>
    match remap s a.frame with
    | some s1 => .done 10 (a.ref + 1) a.frame s1
    | none => .fail 1
  | .absent =>
    let die := sliceOfKey t k (contentKey bs)
    match s.titleSlot die group with
    | none => .fail 4
    | some (slot, _) =>
      match s.newEntry die group bs slot with
      | none => .fail 1
      | some (nw, s1) =>
        match remap s1 nw with
        | some s2 => .done 0 1 nw s2
        | none => .fail 1
  | .collision a c =>
    let die := homeDie (a.frame * 4096)
    .done 11 c 0 ((s.countErr die 3).sendReport 3 a.frame die [(n, page * 4096, true)])

/-- The accesses of a session on their way to a page will be translated again (R347). -/
def State.retargetPage (s : State) (n page : Nat) : State :=
  s.retarget fun a => decide (a.session = n) && (a.va :: restAddrs a.va a.kind).any (fun v => decide (v.toNat / 4096 = page))

/-- A frame is tagged with a session's slot on the frame's die (R339, R349). -/
def State.ownsFrame (s : State) (n fr : Nat) : Bool := decide (s.tagSession fr = some n)

/-- A level-0 leaf that `modg.share` takes (R349). -/
def State.shareable (s : State) (n : Nat) (e : DWord) : Bool :=
  !pteC64 e && !pteShr e && inModule (pteFrame e) && s.ownsFrame n (pteFrame e / 4096)

/-- Several uniform registers as the destination of a form. -/
def View.destAt (v : View) (bs : List Reg) : Dest := [(32, bs.map (fun b => (v.dstList b 1).headD 0))]

/-- A result of a form at several uniform registers (R393). -/
def State.formDoneAt (s : State) (v : View) (r : WaitReason) (ws : List (Reg × Word)) : State :=
  let off (b : Reg) : Nat := (v.dstList b 1).headD 0
  let d := v.destAt (ws.map (·.1))
  ((s.expect d).post (.producerDelivery ⟨v.cur.gang, 32, ws.map (fun p => (off p.1, p.2))⟩)).retireAwaiting r (destWord d)

/-- A `modg` form (R348): reserved bits trap ILLEGAL_FIELD; the rest gives a status with its value, or a wait. -/
def modgOp (i : Instr) (b : Reg) (s : State) (reserved : Word → Word → Bool) (k : View → Word → Word → State → Nat × Nat × State) :
    Host.Outcome State Fault Refusal :=
  issueChecked i s fun v sh s1 go =>
    let a : Word := (v.opA sh 0).setWidth 32
    let w : Word := (v.opB sh 0).setWidth 32
    if reserved a w then s1.trapNow 0x02 0 (v.tlanes sh) 0
    else
      let (st, val, s2) := k v a w (go s1)
      s2.formDone v b .sched [statusWord st val]

/-- `modg.share` (R349): it waits for a page table in a blocked frame (R323). -/
def execModgShare (a b : Reg) (s : State) : Host.Outcome State Fault Refusal :=
  let word (w : DWord) : Word := w.setWidth 32
  let bad (_ : View) (_ : Shape) (w : Word) : Bool := decide (fieldNat w 12 4 ≠ 0) || w.getLsbD 23 || decide (fieldNat w 25 7 ≠ 0)
  issueForm (.modgShare a b) s (fun v sh => if bad v sh (word (v.opB sh 0)) then some 0x02 else none)
      (fun v => v.destAt [b, b + 2, b + 3]) fun v f _ s1 =>
    let w := word f.b
    let n := fieldNat w 0 12
    let va := f.a.toNat % 2 ^ 57
    let fin (st val : Nat) (old : Nat) (s2 : State) : State :=
      s2.formDoneAt v .sched ((b, statusWord st val) ::
        List.zip [b + 2, b + 3] (wordsOf (BitVec.ofNat 64 (old * 4096)) 2))
    if !s1.pooled v then (s1.wantPool v).holdForm f .sched
    else if !v.mayName n ∨ (w.getLsbD 24 ∧ v.core.level v.gang < 2) then fin 5 0 0 s1
    else if s1.sesState n = 0 then fin 4 0 0 s1
    else
      let m := s1.walkMem n va
      match m.addr with
      | none => fin 12 0 0 s1
      | some p =>
        let fr := pteFrame m.entry / 4096
        if m.stop = .blocked then s1.holdForm f .sched
        else if !m.valid ∨ !m.good ∨ m.level ≠ 0 ∨ !s1.shareable n m.entry then fin 12 0 0 s1
        else if s1.blocked.any (fun k => decide (k.frame = fr)) then fin 6 0 0 s1
        else
          match s1.sharePage n (va / 4096) p m.caddr m.entry (w.getLsbD 24) (fieldNat w 16 7) with
          | .fail st => fin st 0 0 s1
          | .done st val _ s2 =>
            if st = 11 then fin 11 val 0 s2
            else fin st val fr ((s2.dropCopies (fun c => decide (c.line / 32 = fr) && c.bytes.isNone)).retargetPage n (va / 4096))

/-- The bytes of a page through a shared leaf and its overlay (R344). -/
def State.overlaid (s : State) (e c : DWord) : List Byte :=
  (List.range 16).flatMap fun g =>
    let fr := if c.getLsbD g then fieldNat c 16 40 else pteFrame e / 4096
    Cells.bytes s.mem (s.now (fr * 4096 + 256 * g)) 256

/-- A page's shared leaf `e` at `p`, with companion `c` at `q`, becomes private in frame `nw` (R350). -/
def State.unsharePage (s : State) (n page p q : Nat) (e c : DWord) (nw : Nat) : State :=
  let ovl := fieldNat c 16 40
  let e1 := setField (setField (setField e 12 40 nw) 8 1 0) 2 1 1
  let s1 := ((s.putFrame nw (s.overlaid e c)).wr p 8 e1.toNat).wr q 8 0
  let s2 := if ovl = 0 then s1 else (s1.unmapUndo n ovl page).giveFrame n ovl
  let s3 := (s2.unmapShared (pteFrame e / 4096) n page).strike n (fun l => decide (l / 32 = page))
  (s3.dropPage n page).retargetPage n page

/-- `modg.unshare` (R350): it waits for a page table in a blocked frame, or an overlay block in one (R323). -/
def execModgUnshare (a b : Reg) (s : State) : Host.Outcome State Fault Refusal :=
  let word (w : DWord) : Word := w.setWidth 32
  issueForm (.modgUnshare a b) s (fun v sh => if fieldNat (word (v.opB sh 0)) 12 20 ≠ 0 then some 0x02 else none)
      (fun v => v.dest b 1) fun v f _ s1 =>
    let n := fieldNat (word f.b) 0 12
    let va := f.a.toNat % 2 ^ 57
    let fin (st : Nat) (s2 : State) : State := s2.formDone v b .sched [statusWord st 0]
    if !s1.pooled v then (s1.wantPool v).holdForm f .sched
    else if !v.mayName n then fin 5 s1
    else if s1.sesState n = 0 then fin 4 s1
    else
      let m := s1.walkMem n va
      match m.addr with
      | none => fin 12 s1
      | some p =>
        if m.stop = .blocked then s1.holdForm f .sched
        else if !m.valid ∨ !m.good ∨ m.level ≠ 0 ∨ !pteShr m.entry then fin 12 s1
        else if s1.overlayBlocked m.companion then s1.holdForm f .sched
        else
          match s1.takeFrame n with
          | none => fin 1 s1
          | some (nw, s2) => fin 0 (s2.unsharePage n (va / 4096) p m.caddr m.entry m.companion nw)

/-- The lowest key slot of a die that holds nothing (R340). -/
def State.freeSlot (s : State) (die : Nat) : Option Nat := lowest? 1024 (fun i => (Cells.find? (s.die die).keys i).isNone)

/-- A partition's quota of key slots on a die, which governs title keys and the keys of its range's sessions, leaves room
for one more (R367). -/
def State.keyRoom (s : State) (part die : Nat) : Bool :=
  !s.partActive part ||
  decide (((s.die die).keys.filter (fun e => decide (e.2.part = part) && (e.2.title || s.partHolds part e.2.owner))).length < fieldNat (s.partWord part (5 + 4 * die)) 0 11)

/-- A key enters a slot of a die. What frames still tagged with the slot hold under their old key is open from then
on. -/
def State.putKey (s : State) (die slot : Nat) (k : KeySlot) : State :=
  let stale := (s.frameTag.filter (fun e => decide (e.2 = slot + 1) && decide (homeDie (e.1 * 4096) = die))).map (·.1)
  let s1 := stale.foldl (fun s' fr => s'.putFrame fr ((List.range 4096).map (fun i => Config.openByte s.tick (fr * 4096 + i)))) s
  let d := s1.die die
  s1.setDie die { d with keys := Cells.insert d.keys slot k }

/-- A key is generated in a slot of a die, whose generation count advances (R353, R378). -/
def State.genKey (s : State) (die slot : Nat) (title : Bool) (owner part : Nat) : State :=
  let d := s.die die
  (s.setDie die { d with keyGen := d.keyGen + 1 }).putKey die slot ⟨title, owner, d.keyGen + 1, part⟩

/-- The keys that satisfy `p` leave every die. -/
def State.dropKeys (s : State) (p : Nat → KeySlot → Bool) : State :=
  { s with dies := (List.zip (List.range s.dies.length) s.dies).map fun e =>
      { e.2 with keys := e.2.keys.filter (fun k => !p e.1 k.2) } }

/-- Every slot of a session is released (R353). Log 99 (DEDUCED). -/
def State.releaseKeys (s : State) (n : Nat) : State :=
  (s.dropKeys (fun _ k => !k.title && decide (k.owner = n))).setCtx0 n 28 1 0

/-- A title key in the lowest free slot of each die of a list; none where a die or quota has no room. -/
def State.titleKeys (group part : Nat) : List Nat → State → Option State
  | [], s => some s
  | d :: r, s =>
    match s.freeSlot d with
    | some i => if s.keyRoom part d then State.titleKeys group part r (s.genKey d i true group part) else none
    | none => none

/-- `modg.key` (R353): status, value and state. A release makes no slot and has the value 0. -/
def State.keyForm (s : State) (w : Word) (die part : Nat) : Nat × Nat × State :=
  let n := fieldNat w 0 12
  let group := fieldNat w 0 16
  if !w.getLsbD 31 then
    if w.getLsbD 30 then (0, 0, s.releaseKeys n)
    else if s.sesKeyV n then (6, 0, s)
    else
      match s.freeSlot (s.sesHome n) with
      | some i =>
        if !s.partHolds (s.sesPart n) n || s.keyRoom (s.sesPart n) (s.sesHome n) then
          (0, i, ((s.genKey (s.sesHome n) i false n (s.sesPart n)).setCtx0 n 8 10 i).setCtx0 n 28 1 1)
        else (1, 0, s)
      | none => (1, 0, s)
  else if w.getLsbD 30 then
    if s.dies.any (fun d => d.atoll.any (fun e => decide (e.group = group))) then (6, 0, s)
    else
      (0, 0, s.dropKeys (fun _ k => k.title && decide (k.owner = group)))
  else if (List.range 4).any (fun d => (s.titleSlot d group).isSome) then (6, 0, s)
  else
    match State.titleKeys group part (List.range 4) s with
    | some s1 => (0, ((s1.titleSlot die group).map (·.1)).getD 0, s1)
    | none => (1, 0, s)

/-- `modg.key` (R353). -/
def execModgKey (a b : Reg) (s : State) : Host.Outcome State Fault Refusal :=
  modgOp (.modgKey a b) b s (fun w _ => decide (fieldNat w 16 14 ≠ 0)) fun v w _ s1 =>
    s1.keyForm w (dieOf v.cur.gang.core) (s1.sesPart (v.core.sessionOf v.gang))

/-- The key slot of a session on a die. -/
def State.slotOn (s : State) (n die : Nat) : Option Nat :=
  (List.find? (fun (e : Nat × KeySlot) => !e.2.title && decide (e.2.owner = n)) (s.die die).keys).map (·.1)

/-- `modg.fassign` (R354): the frame is zero and tagged. -/
def State.assignFrame (s : State) (pa : Nat) (w : Word) : Nat × Nat × State :=
  let n := fieldNat w 0 12
  let fr := pa / 4096
  let clean (tag : Nat) : Nat × Nat × State := (0, 0, (s.putFrame fr (List.replicate 4096 0)).retag fr tag)
  let kind := decide (pa % 4096 = 0) && inModule pa && !inAtoll pa && (s.atollOf fr).isNone
  if w.getLsbD 31 then (if kind then clean 0 else (12, 0, s))
  else if s.sesState n = 0 then (4, 0, s)
  else if !inModule pa then (12, 0, s)
  else
    match s.slotOn n (homeDie pa) with
    | none => (4, 0, s)
    | some i => if kind then clean (i + 1) else (12, 0, s)

/-- `modg.fassign` (R354). -/
def execModgFassign (a b : Reg) (s : State) : Host.Outcome State Fault Refusal :=
  issueChecked (.modgFassign a b) s fun v sh s1 go =>
    let w : Word := (v.opB sh 0).setWidth 32
    if fieldNat w 12 19 ≠ 0 then s1.trapNow 0x02 0 (v.tlanes sh) 0
    else
      let (st, val, s2) := (go s1).assignFrame (v.opA sh 0).toNat w
      s2.formDone v b .sched [statusWord st val]

/-- A team of a session is resident, or a crew of it is on its way. -/
def State.resident (s : State) (n : Nat) : Bool :=
  s.cores.any (fun e => e.2.teams.any (fun t => decide (t.2.session = n))) || s.agenda.any (launchOf n)

def State.graphRuns (s : State) (n : Nat) : Bool := (s.ses n).graphs.any (fun g => decide (g.state = 1 ∨ g.state = 2))

def State.drainedCrew (s : State) (n : Nat) : Bool := s.saved.any (fun v => decide (v.crew.session = n))

def State.pendingFid (s : State) (n : Nat) : Bool := s.dies.any (fun d => d.fids.any (fun f => decide (f.session = n)))

/-- `modg.migr` (R355): the session's key and CP state move to another die. -/
def State.migrate (s : State) (n target : Nat) : Nat × Nat × State :=
  let st := s.sesState n
  let home := s.sesHome n
  let slot := s.sesKeySlot n
  if st = 0 then (4, 0, s)
  else if (st ≠ 1 ∧ st ≠ 3) ∨ s.resident n ∨ s.drainedCrew n ∨ s.pendingFid n ∨ s.sesMoving n ∨ !s.sesKeyV n ∨ target = home then
    (6, 0, s)
  else
    match s.freeSlot target, Cells.find? (s.die home).keys slot with
    | some i, some k =>
      let s1 := s.putKey target i k
      let s2 := ((((s1.setCtx0 n 18 10 slot).setCtx0 n 8 10 i).setCtx0 n 6 1 1).setCtx0 n 4 2 target)
      let d := s2.ses n
      (0, i, s2.setSes n
        { d with
          pipes := d.pipes.map (fun p => { p with die := target })
          endpoints := d.endpoints.map (fun e => { e with die := target })
          bindings := d.bindings.map (fun b => if b.die = home then { b with die := target } else b) })
    | _, _ => (1, 0, s)

/-- `modg.migr` (R355). -/
def execModgMigr (a b : Reg) (s : State) : Host.Outcome State Fault Refusal :=
  modgOp (.modgMigr a b) b s (fun w _ => decide (fieldNat w 12 4 ≠ 0 ∨ fieldNat w 18 14 ≠ 0)) fun _ w _ s1 =>
    s1.migrate (fieldNat w 0 12) (fieldNat w 16 2)

/-- `modg.mdone` (R355): the slot on the previous home is released. -/
def State.migrated (s : State) (n : Nat) : Nat × Nat × State :=
  if s.sesState n = 0 then (4, 0, s)
  else if !s.sesMoving n then (6, 0, s)
  else
    let home := s.sesHome n
    (0, 0, (s.dropKeys (fun d k => !k.title && decide (k.owner = n) && decide (d ≠ home))).setCtx0 n 6 1 0)

/-- `modg.mdone` (R355). -/
def execModgMdone (a b : Reg) (s : State) : Host.Outcome State Fault Refusal :=
  modgOp (.modgMdone a b) b s (fun w _ => decide (fieldNat w 12 20 ≠ 0)) fun _ w _ s1 => s1.migrated (fieldNat w 0 12)

/-- `modg.heal` (R359): a poisoned shared frame is restored from bytes that match its content key. -/
def execModgHeal (a b : Reg) (s : State) : Host.Outcome State Fault Refusal :=
  issueForm (.modgHeal a b) s (fun _ _ => none) (fun v => v.dest b 1) fun v f _ s1 =>
    let pa := f.a.toNat
    let va := f.b.toNat % 2 ^ 57
    let fr := pa / 4096
    let ask := { askOf v.core v.cur.gang.core v.gang 0 44 with engine := true }
    let fin (st : Nat) (s2 : State) : State := s2.formDone v b .sched [statusWord st 0]
    if !s1.pooled v then (s1.wantPool v).holdForm f .sched
    else
    match (s1.atollOf fr).filter (fun e => e.poison && decide (pa % 4096 = 0)) with
    | none => fin 12 s1
    | some e =>
      match s1.span ask va 4096 with
      | (.ok ps, s2) =>
        let bs := s2.readSpan ps
        if contentKey bs ≠ e.key then fin 13 s2
        else
          let die := homeDie pa
          let s3 := s2.putFrame fr bs
          let s4 := match s3.titleSlot die e.group with
            | some (i, _) => s3.retag fr (i + 1)
            | none => s3
          let d := s4.die die
          fin 0 (s4.setDie die
            { d with atoll := d.atoll.map (fun x => if x.frame = fr then { x with poison := false } else x) })
      | (.fatal c off, s2) => s2.fatalFault c v.act (BitVec.ofNat 57 (va + off))
      | (.absent c host off, s2) =>
        let (fid, s3) := s2.joinFid (dieOf v.cur.gang.core) (v.core.sessionOf v.gang) (va + off) 0 c host
          { eng := false, unit := false, core := some v.cur.gang.core, slot := v.cur.gang.slot, detail := v.act, pc := v.cur.addr }
        (s3.expect f.dst).park { cur := v.cur, rerun := true, saved := false, lanes := [⟨fid, none⟩], form := some f } v.act
          (BitVec.ofNat 57 (va + off))
      | (.wait, s2) => s2.holdForm f .sched

/-- `modg.sopen` (R356). -/
def State.openSession (s : State) (n : Nat) : Nat × Nat × State :=
  let log := s.ctx n 0x28 4
  if s.sesState n ≠ 0 then (6, 0, s)
  else if !s.sesLaunchable n then (4, 0, s)
  else if s.sesRoot n = 0 ∨ s.ctx n 0x20 8 % 2 ^ 57 = 0 ∨ log = 0 ∨ 64 * 1024 * 1024 < log ∨ s.freezeAt n = 0 then (12, 0, s)
  else
    let s1 := ((s.setCtx0 n 6 1 0).setCtx n 0x48 2 0).setImages n 0
    let s2 := s1.setSes n { SessDev.init with lastCut := (s1.die (s1.sesHome n)).cyc }
    (0, 0, (s2.makeCut n).setSesState n 1)

/-- `modg.sopen` (R356). -/
def execModgSopen (a b : Reg) (s : State) : Host.Outcome State Fault Refusal :=
  modgOp (.modgSopen a b) b s (fun w _ => decide (fieldNat w 12 20 ≠ 0)) fun _ w _ s1 => s1.openSession (fieldNat w 0 12)

/-- Every mapping of a session leaves the reverse map (R356). -/
def State.unmapAll (s : State) (n : Nat) : State :=
  (s.dies.flatMap (fun d => d.rmap.filter (fun m => decide (m.session = n)))).foldl
    (fun s' m => s'.unmapShared m.frame n m.page) s

/-- `modg.sclose` (R356). -/
def State.closeSession (s : State) (n : Nat) : Nat × Nat × State :=
  let st := s.sesState n
  if st = 0 then (4, 0, s)
  else if (st ≠ 1 ∧ st ≠ 3 ∧ st ≠ 4) ∨ s.resident n ∨ s.graphRuns n ∨ s.drainedCrew n ∨ s.pendingFid n ∨ s.sesMoving n then (6, 0, s)
  else
    (0, 0, (((((s.setSes n SessDev.init).unmapAll n).releaseKeys n).setImages n 0).setSesState n 0))

/-- `modg.sclose` (R356). -/
def execModgSclose (a b : Reg) (s : State) : Host.Outcome State Fault Refusal :=
  modgOp (.modgSclose a b) b s (fun w _ => decide (fieldNat w 12 20 ≠ 0)) fun _ w _ s1 => s1.closeSession (fieldNat w 0 12)

/-- A leaf that keeps a template from being forked (R351): valid, of 64 KiB or 2 MiB, and writable; or a private 4 KiB
page that `modg.share` would refuse. -/
def State.forkBad (s : State) (n level : Nat) (e : DWord) : Bool :=
  pteV e && !pteBad level e && pteLeaf e && pteW e && (decide (level ≠ 0) || pteC64 e || (!pteShr e && !s.shareable n e))

/-- A table of the template, or one below it, holds such a leaf. -/
def State.forkRefused (s : State) (n : Nat) : Nat → Nat → Bool
  | 0, t => (List.range 512).any (fun i => s.forkBad n 0 (BitVec.ofNat 64 (s.rd (s.now (t + 8 * i)) 8)))
  | l + 1, t => (List.range 512).any fun i =>
      let e : DWord := BitVec.ofNat 64 (s.rd (s.now (t + 8 * i)) 8)
      if pteV e ∧ !pteLeaf e ∧ !pteBad (l + 1) e then State.forkRefused s n l (pteFrame e) else s.forkBad n (l + 1) e

/-- One level-0 entry of the template, with its companion, copied for the child (R351): the child's entry and companion;
none if frames or the Atoll have no room. `p` is the entry's place, `page` the virtual page. -/
def State.forkLeaf (s : State) (tpl child page p : Nat) : Option (DWord × DWord × State) :=
  let e : DWord := BitVec.ofNat 64 (s.rd (s.now p) 8)
  let c : DWord := BitVec.ofNat 64 (s.rd (s.now (p + 4096)) 8)
  if !pteV e ∨ pteBad 0 e then some (e, c, s)
  else if pteShr e then
    match s.mapShared (pteFrame e / 4096) child page with
    | none => none
    | some s1 =>
      if fieldNat c 0 16 = 0 then some (e, 0, s1)
      else
        match s1.takeFrame child with
        | none => none
        | some (fr, s2) => some (e, setField c 16 40 fr, s2.putFrame fr (s2.frameNow (fieldNat c 16 40)))
  else if !pteW e then some (e, c, s)
  else
    match s.sharePage tpl page (s.now p) (s.now (p + 4096)) e false 0 with
    | .fail _ => none
    | .done st _ nw s1 =>
      if st = 11 then
        match s1.takeFrame child with
        | none => none
        | some (fr, s2) => some (setField e 12 40 fr, 0, s2.putFrame fr (s2.frameNow (pteFrame e / 4096)))
      else
        match s1.mapShared nw child page with
        | none => none
        | some s2 =>
          some (setField (setField (setField e 12 40 nw) 8 1 1) 2 1 0, 0,
            s2.dropCopies (fun k => decide (k.line / 32 = pteFrame e / 4096) && k.bytes.isNone))

/-- Level-0 entries from index i on, copied into the child's table at `new`. -/
def State.forkLeaves (tpl child key old new : Nat) : List Nat → State → Option State
  | [], s => some s
  | i :: r, s =>
    match s.forkLeaf tpl child (key * 512 + i) (old + 8 * i) with
    | none => none
    | some (e, c, s1) =>
      State.forkLeaves tpl child key old new r ((s1.wr (new + 8 * i) 8 e.toNat).wr (new + 4096 + 8 * i) 8 c.toNat)

/-- The frames of a session's stack, the top one first (R337). -/
def State.stackFrames (s : State) (n : Nat) : List Nat :=
  let fpn := s.ctx n 0x18 4 % 2 ^ 20
  (List.range fpn).map (fun i => s.rd (s.stackBase n + 8 * (fpn - 1 - i)) 8 / 4096)

/-- The two neighbouring frames of a stack that are nearest its top, by depth: the upper one and the lower. -/
def nearestPair (fs : List Nat) : Option (Nat × Nat) :=
  (List.range fs.length).findSome? fun j =>
    ((List.range j).find? (fun i => decide (fs.getD i 0 + 1 = fs.getD j 0) || decide (fs.getD j 0 + 1 = fs.getD i 0))).map (fun i => (i, j))

/-- Two neighbouring frames of a session's stack, for a level-0 table of 8 KiB (R305): those nearest its top, the frames
above them staying on it. Log 98 (DEDUCED). -/
def State.takePair (s : State) (n : Nat) : Option (Nat × State) :=
  let fs := s.stackFrames n
  (nearestPair fs).map fun p =>
    let kept := (fs.take p.1 ++ (fs.take p.2).drop (p.1 + 1)).reverse
    let s1 := (List.zip (List.range kept.length) kept).foldl
      (fun s' e => s'.wr (s.stackBase n + 8 * (fs.length - 1 - p.2 + e.1)) 8 (e.2 * 4096)) s
    let s2 := s1.setCtx n 0x18 4 (s.ctx n 0x18 4 - 2)
    let tag (s' : State) (fr : Nat) : State := if s.sesKeyV n then s'.retag fr (s.sesKeySlot n + 1) else s'
    (min (fs.getD p.1 0) (fs.getD p.2 0), tag (tag s2 (fs.getD p.1 0)) (fs.getD p.2 0))

/-- Entries of a table of level l + 1 copied, the tables below by `below` (key, old table). -/
def State.forkEntries (level key old new : Nat) (below : Nat → Nat → State → Option (Nat × State)) :
    List Nat → State → Option State
  | [], s => some s
  | i :: r, s =>
    let e : DWord := BitVec.ofNat 64 (s.rd (s.now (old + 8 * i)) 8)
    if pteV e ∧ !pteLeaf e ∧ !pteBad level e then
      match below (key * 512 + i) (pteFrame e) s with
      | none => none
      | some (t, s1) =>
        State.forkEntries level key old new below r (s1.wr (new + 8 * i) 8 (setField e 12 40 t).toNat)
    else State.forkEntries level key old new below r (s.wr (new + 8 * i) 8 e.toNat)

/-- A table of the template copied for the child, with those below it: the frame of the copy. -/
def State.forkTable (tpl child : Nat) : Nat → Nat → Nat → State → Option (Nat × State)
  | 0, key, old, s =>
    match s.takePair child with
    | none => none
    | some (fr, s1) =>
      (State.forkLeaves tpl child key old (fr * 4096) (List.range 512) ((s1.putFrame fr []).putFrame (fr + 1) [])).map
        (fun s2 => (fr, s2))
  | l + 1, key, old, s =>
    match s.takeFrame child with
    | none => none
    | some (fr, s1) =>
      (State.forkEntries (l + 1) key old (fr * 4096) (State.forkTable tpl child l) (List.range 512) (s1.putFrame fr [])).map
        (fun s2 => (fr, s2))

/-- The CP state of a template as its child receives it (R351). -/
def SessDev.forked (d : SessDev) (home cyc : Nat) (bars : List (List CrewBar)) : SessDev :=
  { SessDev.init with
    pipes := d.pipes.map (fun p => { p with die := home })
    graphs := d.graphs
    endpoints := d.endpoints.map (fun e => { e with die := home })
    bindings := d.bindings.map (fun b => { b with die := home })
    lastCut := cyc
    crewBars := bars }

/-- `modg.fork` (R351). Log 98 (DEDUCED). -/
def State.fork (s : State) (tpl child : Nat) : Nat × Nat × State :=
  let st := s.sesState tpl
  if st = 0 then (4, 0, s)
  else if (st ≠ 1 ∧ st ≠ 3) ∨ s.resident tpl ∨ s.graphRuns tpl ∨ s.pendingFid tpl then (6, 0, s)
  else if s.sesState child ≠ 0 ∨ !s.sesKeyV child ∨ s.sesGroup child ≠ s.sesGroup tpl then (12, 0, s)
  else if s.forkRefused tpl 4 (s.sesRoot tpl) then (12, 0, s)
  else
    match State.forkTable tpl child 4 0 (s.sesRoot tpl) s with
    | none => (1, 0, s)
    | some (root, s1) =>
      let home := s1.sesHome child
      let s2 := ((s1.setCtx child 8 8 (root * 4096)).setCtx child 0x48 2 (tpl + 0x8000)).setImages child 0
      let d := s2.ses tpl
      let s3 := s2.setSes child ((s2.ses tpl).forked home (s2.die home).cyc
        (d.crewBars ++ (s2.saved.filter (fun v => decide (v.crew.session = tpl))).map (fun v => v.crew.bars)))
      (0, 0, (s3.makeCut child).setSesState child 1)

/-- `modg.fork` (R351). -/
def execModgFork (a b : Reg) (s : State) : Host.Outcome State Fault Refusal :=
  let word (w : DWord) : Word := w.setWidth 32
  issueForm (.modgFork a b) s
      (fun v sh => let w := word (v.opA sh 0); if fieldNat w 12 4 ≠ 0 ∨ fieldNat w 28 4 ≠ 0 then some 0x02 else none)
      (fun v => v.dest b 1) fun v f _ s1 =>
    if !s1.pooled v then (s1.wantPool v).holdForm f .sched
    else
      let r := s1.fork (fieldNat (word f.a) 0 12) (fieldNat (word f.a) 16 12)
      r.2.2.formDone v b .sched [statusWord r.1 r.2.1]

end Sys2Proof.Machine
end

