-- ==== Sys2Proof/Machine/Block.lean ====
section
/-! DEFINITION. The block formats of R296 that follow the Khronos Data Format Specification: BC6H, BC7 and ASTC LDR.
Their tables and layouts are that specification's, which spec/ does not repeat: log 20 (PRESUMED). -/

namespace Sys2Proof.Machine

/-- `n` bits of a block from bit `lo` on. -/
def bitsAt (b lo n : Nat) : Nat := b / 2 ^ lo % 2 ^ n

/-- The subset of each texel in the partitions of two subsets, two bits a texel from the low end on. -/
def twoSubsets : List Nat :=
  [0x50505050, 0x40404040, 0x54545454, 0x54505040, 0x50404000, 0x55545450, 0x55545040, 0x54504000] ++
  [0x50400000, 0x55555450, 0x55544000, 0x54400000, 0x55555440, 0x55550000, 0x55555500, 0x55000000] ++
  [0x55150100, 0x00004054, 0x15010000, 0x00405054, 0x00004050, 0x15050100, 0x05010000, 0x40505054] ++
  [0x00404050, 0x05010100, 0x14141414, 0x05141450, 0x01155440, 0x00555500, 0x15014054, 0x05414150] ++
  [0x44444444, 0x55005500, 0x11441144, 0x05055050, 0x05500550, 0x11114444, 0x41144114, 0x44111144] ++
  [0x15055054, 0x01055040, 0x05041050, 0x05455150, 0x14414114, 0x50050550, 0x41411414, 0x00141400] ++
  [0x00041504, 0x00105410, 0x10541000, 0x04150400, 0x50410514, 0x41051450, 0x05415014, 0x14054150] ++
  [0x41050514, 0x41505014, 0x40011554, 0x54150140, 0x50505500, 0x00555050, 0x15151010, 0x54540404]

/-- Those of three subsets. -/
def threeSubsets : List Nat :=
  [0xAA685050, 0x6A5A5040, 0x5A5A4200, 0x5450A0A8, 0xA5A50000, 0xA0A05050, 0x5555A0A0, 0x5A5A5050] ++
  [0xAA550000, 0xAA555500, 0xAAAA5500, 0x90909090, 0x94949494, 0xA4A4A4A4, 0xA9A59450, 0x2A0A4250] ++
  [0xA5945040, 0x0A425054, 0xA5A5A500, 0x55A0A0A0, 0xA8A85454, 0x6A6A4040, 0xA4A45000, 0x1A1A0500] ++
  [0x0050A4A4, 0xAAA59090, 0x14696914, 0x69691400, 0xA08585A0, 0xAA821414, 0x50A4A450, 0x6A5A0200] ++
  [0xA9A58000, 0x5090A0A8, 0xA8A09050, 0x24242424, 0x00AA5500, 0x24924924, 0x24499224, 0x50A50A50] ++
  [0x500AA550, 0xAAAA4444, 0x66660000, 0xA5A0A5A0, 0x50A050A0, 0x69286928, 0x44AAAA44, 0x66666600] ++
  [0xAA444444, 0x54A854A8, 0x95809580, 0x96969600, 0xA85454A8, 0x80959580, 0xAA141414, 0x96960000] ++
  [0xAAAA1414, 0xA05050A0, 0xA0A5A5A0, 0x96000000, 0x40804080, 0xA9A8A9A8, 0xAAAAAA44, 0x2A4A5254]

/-- The anchor texel of the second subset of two, and of the second and third of three. -/
def anchorTwo : List Nat :=
  [15, 15, 15, 15, 15, 15, 15, 15, 15, 15, 15, 15, 15, 15, 15, 15] ++
  [15, 2, 8, 2, 2, 8, 8, 15, 2, 8, 2, 2, 8, 8, 2, 2] ++
  [15, 15, 6, 8, 2, 8, 15, 15, 2, 8, 2, 2, 2, 15, 15, 6] ++
  [6, 2, 6, 8, 15, 15, 2, 2, 15, 15, 15, 15, 15, 2, 2, 15]

def anchorSecond : List Nat :=
  [3, 3, 15, 15, 8, 3, 15, 15, 8, 8, 6, 6, 6, 5, 3, 3] ++
  [3, 3, 8, 15, 3, 3, 6, 10, 5, 8, 8, 6, 8, 5, 15, 15] ++
  [8, 15, 3, 5, 6, 10, 8, 15, 15, 3, 15, 5, 15, 15, 15, 15] ++
  [3, 15, 5, 5, 5, 8, 5, 10, 5, 10, 8, 13, 15, 12, 3, 3]

def anchorThird : List Nat :=
  [15, 8, 8, 3, 15, 15, 3, 8, 15, 15, 15, 15, 15, 15, 15, 8] ++
  [15, 8, 15, 3, 15, 8, 15, 8, 3, 15, 6, 10, 15, 15, 10, 8] ++
  [15, 3, 15, 10, 10, 8, 9, 10, 6, 15, 8, 15, 3, 6, 6, 8] ++
  [15, 3, 15, 15, 15, 15, 15, 15, 15, 15, 15, 15, 3, 15, 15, 8]

/-- The subset of texel k in partition p of `n` subsets, and the anchor texels of the partition. -/
def subsetOf (n p k : Nat) : Nat :=
  match n with
  | 2 => bitsAt (twoSubsets.getD p 0) (2 * k) 2
  | 3 => bitsAt (threeSubsets.getD p 0) (2 * k) 2
  | _ => 0

def anchors (n p : Nat) : List Nat :=
  match n with
  | 2 => [0, anchorTwo.getD p 0]
  | 3 => [0, anchorSecond.getD p 0, anchorThird.getD p 0]
  | _ => [0]

/-- The index of texel k in a list of `n`-bit indices from bit `lo` on, in which each anchor's has one bit less. -/
def indexAt (b lo n k : Nat) (as : List Nat) : Nat :=
  bitsAt b (lo + n * k - (as.filter (fun a => decide (a < k))).length) (if k ∈ as then n - 1 else n)

/-- The weight of an `n`-bit index over 64. -/
def bptcWeight (n i : Nat) : Nat :=
  (match n with
   | 2 => [0, 21, 43, 64]
   | 3 => [0, 9, 18, 27, 37, 46, 55, 64]
   | _ => [0, 4, 9, 13, 17, 21, 26, 30, 34, 38, 43, 47, 51, 55, 60, 64]).getD i 0

/-- ((64 − w) × e0 + w × e1 + 32) >> 6 (R296). -/
def mix64 (w e0 e1 : Nat) : Nat := ((64 - w) * e0 + w * e1 + 32) / 64

/-- A mode of BC7: subsets, bits of the partition, rotation and index selection, of colour and alpha endpoints, P-bits of
each endpoint and of each subset, and bits of the two kinds of index. -/
structure Bc7Mode where
  subsets : Nat
  part : Nat
  rot : Nat
  sel : Nat
  colour : Nat
  alpha : Nat
  pEach : Nat
  pShared : Nat
  ix : Nat
  ix2 : Nat
  deriving DecidableEq, Repr

def bc7Modes : List Bc7Mode :=
  [⟨3, 4, 0, 0, 4, 0, 1, 0, 3, 0⟩, ⟨2, 6, 0, 0, 6, 0, 0, 1, 3, 0⟩, ⟨3, 6, 0, 0, 5, 0, 0, 0, 2, 0⟩,
   ⟨2, 6, 0, 0, 7, 0, 1, 0, 2, 0⟩, ⟨1, 0, 2, 1, 5, 6, 0, 0, 2, 3⟩, ⟨1, 0, 2, 0, 7, 8, 0, 0, 2, 2⟩,
   ⟨1, 0, 0, 0, 7, 7, 1, 0, 4, 0⟩, ⟨2, 6, 0, 0, 5, 5, 1, 0, 2, 0⟩]

/-- An endpoint value of `n` bits widened to 8 by replication. -/
def widen8 (n v : Nat) : Nat := if n = 0 then 255 else if 8 ≤ n then v else v * 2 ^ (8 - n) + v * 2 ^ (8 - n) / 2 ^ n

/-- A texel of a BC7 block as four 8-bit channels (R296); none where its mode field holds no set bit. -/
def bc7Texel (b k : Nat) : Option (List Nat) :=
  match (List.range 8).find? (fun m => b.testBit m) with
  | none => none
  | some n =>
    match bc7Modes[n]? with
    | none => none
    | some m =>
      let p0 := n + 1
      let part := bitsAt b p0 m.part
      let rot := bitsAt b (p0 + m.part) m.rot
      let sel := bitsAt b (p0 + m.part + m.rot) m.sel
      let c0 := p0 + m.part + m.rot + m.sel
      let a0 := c0 + 6 * m.subsets * m.colour
      let pb := a0 + 2 * m.subsets * m.alpha
      let i1 := pb + 2 * m.subsets * m.pEach + m.subsets * m.pShared
      let i2 := i1 + 16 * m.ix - m.subsets
      let sub := subsetOf m.subsets part k
      let has := m.pEach + m.pShared
      let pbit (e : Nat) : Nat :=
        if m.pEach = 1 then bitsAt b (pb + 2 * sub + e) 1 else if m.pShared = 1 then bitsAt b (pb + sub) 1 else 0
      let point (c e : Nat) : Nat :=
        if c < 3 then widen8 (m.colour + has) (bitsAt b (c0 + m.colour * (2 * m.subsets * c + 2 * sub + e)) m.colour * 2 ^ has + pbit e)
        else if m.alpha = 0 then 255
        else widen8 (m.alpha + has) (bitsAt b (a0 + m.alpha * (2 * sub + e)) m.alpha * 2 ^ has + pbit e)
      let w1 := bptcWeight m.ix (indexAt b i1 m.ix k (anchors m.subsets part))
      let w2 := if m.ix2 = 0 then w1 else bptcWeight m.ix2 (indexAt b i2 m.ix2 k [0])
      let wc := if sel = 1 then w2 else w1
      let wa := if sel = 1 then w1 else w2
      let v (c : Nat) : Nat := mix64 (if c < 3 then wc else wa) (point c 0) (point c 1)
      some (match rot with
        | 1 => [v 3, v 1, v 2, v 0]
        | 2 => [v 0, v 3, v 2, v 1]
        | 3 => [v 0, v 1, v 3, v 2]
        | _ => [v 0, v 1, v 2, v 3])

/-- A mode of BC6H: whether it has two subsets and whether its endpoints are differences, the bits of the base endpoint
and of the others by channel, and its fields after the mode bits in order: endpoint, channel, lowest bit, bits, and whether
they stand in reverse. -/
structure Bc6Mode where
  two : Bool
  diff : Bool
  base : Nat
  delta : List Nat
  fields : List (Nat × Nat × Nat × Nat × Bool)
  deriving DecidableEq, Repr

/-- Fields none of which is reversed, from four numbers each: endpoint, channel, lowest bit and bits. -/
def bc6Fields (l : List (Nat × Nat × Nat × Nat)) : List (Nat × Nat × Nat × Nat × Bool) :=
  l.map (fun f => (f.1, f.2.1, f.2.2.1, f.2.2.2, false))

/-- The first ten bits of the base endpoint's channels, with which several modes begin. -/
def bc6Head : List (Nat × Nat × Nat × Nat) := [(0, 0, 0, 10), (0, 1, 0, 10), (0, 2, 0, 10)]

/-- A mode of one subset with `n` bits of difference, whose base endpoint has `h` further bits in reverse. -/
def bc6One (n h : Nat) : List (Nat × Nat × Nat × Nat × Bool) :=
  bc6Fields bc6Head ++ [(1, 0, 0, n, false), (0, 0, 10, h, true), (1, 1, 0, n, false), (0, 1, 10, h, true),
    (1, 2, 0, n, false), (0, 2, 10, h, true)]

/-- The mode of a BC6H block by its low bits; none where it is reserved. -/
def bc6Mode (b : Nat) : Option Bc6Mode :=
  match if b % 4 < 2 then b % 4 else b % 32 with
  | 0 => some ⟨true, true, 10, [5, 5, 5], bc6Fields ([(2, 1, 4, 1), (2, 2, 4, 1), (3, 2, 4, 1)] ++ bc6Head ++
      [(1, 0, 0, 5), (3, 1, 4, 1), (2, 1, 0, 4), (1, 1, 0, 5), (3, 2, 0, 1), (3, 1, 0, 4), (1, 2, 0, 5), (3, 2, 1, 1),
       (2, 2, 0, 4), (2, 0, 0, 5), (3, 2, 2, 1), (3, 0, 0, 5), (3, 2, 3, 1)])⟩
  | 1 => some ⟨true, true, 7, [6, 6, 6], bc6Fields
      [(2, 1, 5, 1), (3, 1, 4, 1), (3, 1, 5, 1), (0, 0, 0, 7), (3, 2, 0, 1), (3, 2, 1, 1), (2, 2, 4, 1), (0, 1, 0, 7),
       (2, 2, 5, 1), (3, 2, 2, 1), (2, 1, 4, 1), (0, 2, 0, 7), (3, 2, 3, 1), (3, 2, 5, 1), (3, 2, 4, 1), (1, 0, 0, 6),
       (2, 1, 0, 4), (1, 1, 0, 6), (3, 1, 0, 4), (1, 2, 0, 6), (2, 2, 0, 4), (2, 0, 0, 6), (3, 0, 0, 6)]⟩
  | 2 => some ⟨true, true, 11, [5, 4, 4], bc6Fields (bc6Head ++
      [(1, 0, 0, 5), (0, 0, 10, 1), (2, 1, 0, 4), (1, 1, 0, 4), (0, 1, 10, 1), (3, 2, 0, 1), (3, 1, 0, 4), (1, 2, 0, 4),
       (0, 2, 10, 1), (3, 2, 1, 1), (2, 2, 0, 4), (2, 0, 0, 5), (3, 2, 2, 1), (3, 0, 0, 5), (3, 2, 3, 1)])⟩
  | 6 => some ⟨true, true, 11, [4, 5, 4], bc6Fields (bc6Head ++
      [(1, 0, 0, 4), (0, 0, 10, 1), (3, 1, 4, 1), (2, 1, 0, 4), (1, 1, 0, 5), (0, 1, 10, 1), (3, 1, 0, 4), (1, 2, 0, 4),
       (0, 2, 10, 1), (3, 2, 1, 1), (2, 2, 0, 4), (2, 0, 0, 4), (3, 2, 0, 1), (3, 2, 2, 1), (3, 0, 0, 4), (2, 1, 4, 1),
       (3, 2, 3, 1)])⟩
  | 10 => some ⟨true, true, 11, [4, 4, 5], bc6Fields (bc6Head ++
      [(1, 0, 0, 4), (0, 0, 10, 1), (2, 2, 4, 1), (2, 1, 0, 4), (1, 1, 0, 4), (0, 1, 10, 1), (3, 2, 0, 1), (3, 1, 0, 4),
       (1, 2, 0, 5), (0, 2, 10, 1), (2, 2, 0, 4), (2, 0, 0, 4), (3, 2, 1, 1), (3, 2, 2, 1), (3, 0, 0, 4), (3, 2, 4, 1),
       (3, 2, 3, 1)])⟩
  | 14 => some ⟨true, true, 9, [5, 5, 5], bc6Fields
      [(0, 0, 0, 9), (2, 2, 4, 1), (0, 1, 0, 9), (2, 1, 4, 1), (0, 2, 0, 9), (3, 2, 4, 1), (1, 0, 0, 5), (3, 1, 4, 1),
       (2, 1, 0, 4), (1, 1, 0, 5), (3, 2, 0, 1), (3, 1, 0, 4), (1, 2, 0, 5), (3, 2, 1, 1), (2, 2, 0, 4), (2, 0, 0, 5),
       (3, 2, 2, 1), (3, 0, 0, 5), (3, 2, 3, 1)]⟩
  | 18 => some ⟨true, true, 8, [6, 5, 5], bc6Fields
      [(0, 0, 0, 8), (3, 1, 4, 1), (2, 2, 4, 1), (0, 1, 0, 8), (3, 2, 2, 1), (2, 1, 4, 1), (0, 2, 0, 8), (3, 2, 3, 1),
       (3, 2, 4, 1), (1, 0, 0, 6), (2, 1, 0, 4), (1, 1, 0, 5), (3, 2, 0, 1), (3, 1, 0, 4), (1, 2, 0, 5), (3, 2, 1, 1),
       (2, 2, 0, 4), (2, 0, 0, 6), (3, 0, 0, 6)]⟩
  | 22 => some ⟨true, true, 8, [5, 6, 5], bc6Fields
      [(0, 0, 0, 8), (3, 2, 0, 1), (2, 2, 4, 1), (0, 1, 0, 8), (2, 1, 5, 1), (2, 1, 4, 1), (0, 2, 0, 8), (3, 1, 5, 1),
       (3, 2, 4, 1), (1, 0, 0, 5), (3, 1, 4, 1), (2, 1, 0, 4), (1, 1, 0, 6), (3, 1, 0, 4), (1, 2, 0, 5), (3, 2, 1, 1),
       (2, 2, 0, 4), (2, 0, 0, 5), (3, 2, 2, 1), (3, 0, 0, 5), (3, 2, 3, 1)]⟩
  | 26 => some ⟨true, true, 8, [5, 5, 6], bc6Fields
      [(0, 0, 0, 8), (3, 2, 1, 1), (2, 2, 4, 1), (0, 1, 0, 8), (2, 2, 5, 1), (2, 1, 4, 1), (0, 2, 0, 8), (3, 2, 5, 1),
       (3, 2, 4, 1), (1, 0, 0, 5), (3, 1, 4, 1), (2, 1, 0, 4), (1, 1, 0, 5), (3, 2, 0, 1), (3, 1, 0, 4), (1, 2, 0, 6),
       (2, 2, 0, 4), (2, 0, 0, 5), (3, 2, 2, 1), (3, 0, 0, 5), (3, 2, 3, 1)]⟩
  | 30 => some ⟨true, false, 6, [6, 6, 6], bc6Fields
      [(0, 0, 0, 6), (3, 1, 4, 1), (3, 2, 0, 1), (3, 2, 1, 1), (2, 2, 4, 1), (0, 1, 0, 6), (2, 1, 5, 1), (2, 2, 5, 1),
       (3, 2, 2, 1), (2, 1, 4, 1), (0, 2, 0, 6), (3, 1, 5, 1), (3, 2, 3, 1), (3, 2, 5, 1), (3, 2, 4, 1), (1, 0, 0, 6),
       (2, 1, 0, 4), (1, 1, 0, 6), (3, 1, 0, 4), (1, 2, 0, 6), (2, 2, 0, 4), (2, 0, 0, 6), (3, 0, 0, 6)]⟩
  | 3 => some ⟨false, false, 10, [10, 10, 10], bc6Fields (bc6Head ++ [(1, 0, 0, 10), (1, 1, 0, 10), (1, 2, 0, 10)])⟩
  | 7 => some ⟨false, true, 11, [9, 9, 9], bc6One 9 1⟩
  | 11 => some ⟨false, true, 12, [8, 8, 8], bc6One 8 2⟩
  | 15 => some ⟨false, true, 16, [4, 4, 4], bc6One 4 6⟩
  | _ => none

/-- `n` bits in reverse. -/
def reverseBits (n v : Nat) : Nat := ((List.range n).map (fun i => v / 2 ^ i % 2 * 2 ^ (n - 1 - i))).sum

/-- The bits of channel c of endpoint e that the fields from bit `lo` on give. -/
def bc6Endpoint (b e c : Nat) : Nat → List (Nat × Nat × Nat × Nat × Bool) → Nat
  | _, [] => 0
  | lo, (fe, fc, at_, n, rev) :: r =>
    (if fe = e ∧ fc = c then (if rev then reverseBits n (bitsAt b lo n) else bitsAt b lo n) * 2 ^ at_ else 0) +
      bc6Endpoint b e c (lo + n) r

/-- An unsigned endpoint of `n` bits unquantised to 16 bits. -/
def bc6Unquant (n v : Nat) : Nat :=
  if 15 ≤ n then v else if v = 0 then 0 else if v = 2 ^ n - 1 then 0xFFFF else (v * 2 ^ 16 + 0x8000) / 2 ^ n

/-- A texel of an unsigned BC6H block as three FP16 patterns (R296); none for a reserved mode. -/
def bc6Texel (b k : Nat) : Option (List Nat) :=
  match bc6Mode b with
  | none => none
  | some m =>
    let lo := if b % 4 < 2 then 2 else 5
    let part := if m.two then bitsAt b 77 5 else 0
    let n := if m.two then 2 else 1
    let ix := if m.two then 3 else 4
    let w := bptcWeight ix (indexAt b (if m.two then 82 else 65) ix k (anchors n part))
    let sub := subsetOf n part k
    let point (c e : Nat) : Nat :=
      let v0 := bc6Endpoint b 0 c lo m.fields
      let d := m.delta.getD c 0
      let v := bc6Endpoint b e c lo m.fields
      bc6Unquant m.base (if e = 0 ∨ !m.diff then v
        else (v0 + v + if 2 ^ (d - 1) ≤ v then 2 ^ m.base - 2 ^ d else 0) % 2 ^ m.base)
    some ((List.range 3).map (fun c => mix64 w (point c (2 * sub)) (point c (2 * sub + 1)) * 31 / 64))

/-- The ranges of an integer sequence of ASTC by number: bits, trits and quints of a value. -/
def iseRanges : List (Nat × Nat × Nat) :=
  [(1, 0, 0), (0, 1, 0), (2, 0, 0), (0, 0, 1), (1, 1, 0), (3, 0, 0), (1, 0, 1), (2, 1, 0), (4, 0, 0), (2, 0, 1), (3, 1, 0)] ++
  [(5, 0, 0), (3, 0, 1), (4, 1, 0), (6, 0, 0), (4, 0, 1), (5, 1, 0), (7, 0, 0), (5, 0, 1), (6, 1, 0), (8, 0, 0)]

def iseRange (q : Nat) : Nat × Nat × Nat := iseRanges.getD q (8, 0, 0)

/-- The bits of a sequence of `n` values of a range. -/
def iseBits (q n : Nat) : Nat :=
  let r := iseRange q
  n * r.1 + (8 * n * r.2.1 + 4) / 5 + (7 * n * r.2.2 + 2) / 3

/-- The five trits of eight bits. -/
def tritsOf (t : Nat) : List Nat :=
  let top := decide (bitsAt t 2 3 = 7)
  let c := if top then bitsAt t 5 3 * 4 + t % 4 else t % 32
  let t4 := if top then 2 else if bitsAt t 5 2 = 3 then 2 else bitsAt t 7 1
  let t3 := if top then 2 else if bitsAt t 5 2 = 3 then bitsAt t 7 1 else bitsAt t 5 2
  let low :=
    if c % 4 = 3 then [bitsAt c 3 1 * 2 + bitsAt c 2 1 * (1 - bitsAt c 3 1), bitsAt c 4 1, 2]
    else if bitsAt c 2 2 = 3 then [c % 4, 2, 2]
    else [bitsAt c 1 1 * 2 + c % 2 * (1 - bitsAt c 1 1), bitsAt c 2 2, bitsAt c 4 1]
  low ++ [t3, t4]

/-- The three quints of seven bits. -/
def quintsOf (q : Nat) : List Nat :=
  let q0 := q % 2
  if bitsAt q 1 2 = 3 ∧ bitsAt q 5 2 = 0 then
    [4, 4, q0 * 4 + bitsAt q 4 1 * (1 - q0) * 2 + bitsAt q 3 1 * (1 - q0)]
  else
    let c := if bitsAt q 1 2 = 3 then bitsAt q 3 2 * 8 + (3 - bitsAt q 5 2) * 2 + q0 else q % 32
    let q2 := if bitsAt q 1 2 = 3 then 4 else bitsAt q 5 2
    if c % 8 = 5 then [bitsAt c 3 2, 4, q2] else [c % 8, bitsAt c 3 2, q2]

/-- Value i of a sequence of `n` values of a range in a bit string: its trit or quint, and its bits. Bits that the
sequence lacks are 0. -/
def iseValue (q n b i : Nat) : Nat × Nat :=
  let r := iseRange q
  let s := b % 2 ^ iseBits q n
  let m := r.1
  if r.2.1 = 1 then
    let g := s / 2 ^ ((5 * m + 8) * (i / 5))
    let t := bitsAt g m 2 + bitsAt g (2 * m + 2) 2 * 4 + bitsAt g (3 * m + 4) 1 * 16 + bitsAt g (4 * m + 5) 2 * 32 +
      bitsAt g (5 * m + 7) 1 * 128
    ((tritsOf t).getD (i % 5) 0, bitsAt g ([0, m + 2, 2 * m + 4, 3 * m + 5, 4 * m + 7].getD (i % 5) 0) m)
  else if r.2.2 = 1 then
    let g := s / 2 ^ ((3 * m + 7) * (i / 3))
    let t := bitsAt g m 3 + bitsAt g (2 * m + 3) 2 * 8 + bitsAt g (3 * m + 5) 2 * 32
    ((quintsOf t).getD (i % 3) 0, bitsAt g ([0, m + 3, 2 * m + 5].getD (i % 3) 0) m)
  else (0, bitsAt s (m * i) m)

/-- `n` bits repeated from the top down to fill `w`. -/
def replicated (n w v : Nat) : Nat := (List.range (w / n + 1)).foldl (fun t _ => (t * 2 ^ n + v)) 0 / 2 ^ (n * (w / n + 1) - w)

/-- A pattern of the bits of a value, from the highest of `w` on: 0 stands for a 0, k for bit k − 1. -/
def bitPattern (v : Nat) (l : List Nat) : Nat := l.foldl (fun t k => 2 * t + if k = 0 then 0 else v / 2 ^ (k - 1) % 2) 0

/-- A colour value of a sequence unquantised to 8 bits. -/
def colourUnquant (q : Nat) (v : Nat × Nat) : Nat :=
  let r := iseRange q
  let m := v.2
  let p (l : List Nat) : Nat := bitPattern m l
  if r.2.1 = 0 ∧ r.2.2 = 0 then replicated r.1 8 m
  else
    let bc : Nat × Nat := match r.1, r.2.1 with
      | 1, 1 => (0, 204)
      | 1, _ => (0, 113)
      | 2, 1 => (p [2, 0, 0, 0, 2, 0, 2, 2, 0], 93)
      | 2, _ => (p [2, 0, 0, 0, 0, 2, 2, 0, 0], 54)
      | 3, 1 => (p [3, 2, 0, 0, 0, 3, 2, 3, 2], 44)
      | 3, _ => (p [3, 2, 0, 0, 0, 0, 3, 2, 3], 26)
      | 4, 1 => (p [4, 3, 2, 0, 0, 0, 4, 3, 2], 22)
      | 4, _ => (p [4, 3, 2, 0, 0, 0, 0, 4, 3], 13)
      | 5, 1 => (p [5, 4, 3, 2, 0, 0, 0, 5, 4], 11)
      | 5, _ => (p [5, 4, 3, 2, 0, 0, 0, 0, 5], 6)
      | _, _ => (p [6, 5, 4, 3, 2, 0, 0, 0, 6], 5)
    let a := if m % 2 = 1 then 0x1FF else 0
    let t := (v.1 * bc.2 + bc.1) ^^^ a
    (a &&& 0x80) ||| (t / 4)

/-- A weight of a sequence unquantised to 0 to 64. -/
def weightUnquant (q : Nat) (v : Nat × Nat) : Nat :=
  let r := iseRange q
  let m := v.2
  let p (l : List Nat) : Nat := bitPattern m l
  let x :=
    if r.2.1 = 0 ∧ r.2.2 = 0 then replicated r.1 6 m
    else if r.1 = 0 then (if r.2.1 = 1 then [0, 32, 63] else [0, 16, 32, 47, 63]).getD v.1 0
    else
      let bc : Nat × Nat := match r.1, r.2.1 with
        | 1, 1 => (0, 50)
        | 1, _ => (0, 28)
        | 2, 1 => (p [2, 0, 0, 0, 2, 0, 2], 23)
        | 2, _ => (p [2, 0, 0, 0, 0, 2, 0], 13)
        | _, _ => (p [3, 2, 0, 0, 0, 3, 2], 11)
      let a := if m % 2 = 1 then 0x7F else 0
      let t := (v.1 * bc.2 + bc.1) ^^^ a
      (a &&& 0x20) ||| (t / 4)
  if 32 < x then x + 1 else x

/-- The block mode of an ASTC block: width and height of the weight grid, whether it has two planes, and the range of its
weights; none where it is reserved. -/
structure AstcMode where
  w : Nat
  h : Nat
  dual : Bool
  range : Nat
  deriving DecidableEq, Repr

def astcMode (b : Nat) : Option AstcMode :=
  let a := bitsAt b 5 2
  let hp := bitsAt b 9 1
  let d := bitsAt b 10 1
  let mk (w h hi dual r : Nat) : Option AstcMode :=
    if r < 2 then none else some ⟨w, h, decide (dual = 1), r - 2 + 6 * hi⟩
  if b % 4 ≠ 0 then
    let r := b % 4 * 2 + bitsAt b 4 1
    let k := bitsAt b 7 2
    match bitsAt b 2 2 with
    | 0 => mk (k + 4) (a + 2) hp d r
    | 1 => mk (k + 8) (a + 2) hp d r
    | 2 => mk (a + 2) (k + 8) hp d r
    | _ => if b.testBit 8 then mk (k % 2 + 2) (a + 2) hp d r else mk (a + 2) (k % 2 + 6) hp d r
  else
    let r := bitsAt b 2 2 * 2 + bitsAt b 4 1
    match bitsAt b 7 2 with
    | 0 => mk 12 (a + 2) hp d r
    | 1 => mk (a + 2) 12 hp d r
    | 2 => mk (a + 6) (bitsAt b 9 2 + 6) 0 0 r
    | _ => if a = 0 then mk 6 10 hp d r else if a = 1 then mk 10 6 hp d r else none

/-- The hash of a partition number. -/
def astcHash (x : BitVec 32) : Nat :=
  let p := x ^^^ (x >>> 15)
  let p := p - (p <<< 17)
  let p := p + (p <<< 7)
  let p := p + (p <<< 4)
  let p := p ^^^ (p >>> 5)
  let p := p + (p <<< 16)
  let p := p ^^^ (p >>> 7)
  let p := p ^^^ (p >>> 3)
  let p := p ^^^ (p <<< 6)
  (p ^^^ (p >>> 17)).toNat

/-- The partition of a texel among `n` of them. -/
def astcPartition (seed n x y : Nat) (small : Bool) : Nat :=
  let x := if small then 2 * x else x
  let y := if small then 2 * y else y
  let seed := seed + (n - 1) * 1024
  let r := astcHash (BitVec.ofNat 32 seed)
  let five := if seed.testBit 1 then 4 else 5
  let six := if n = 3 then 6 else 5
  let sh1 := if seed % 2 = 1 then five else six
  let sh2 := if seed % 2 = 1 then six else five
  let s (i : Nat) : Nat := bitsAt r (4 * i) 4 * bitsAt r (4 * i) 4 / 2 ^ (if i % 2 = 0 then sh1 else sh2)
  let at_ (i o : Nat) : Nat := (s i * x + s (i + 1) * y + r / 2 ^ o) % 64
  let a := at_ 0 14
  let b := at_ 2 10
  let c := if n < 3 then 0 else at_ 4 6
  let d := if n < 4 then 0 else at_ 6 2
  if b ≤ a ∧ c ≤ a ∧ d ≤ a then 0 else if c ≤ b ∧ d ≤ b then 1 else if d ≤ c then 2 else 3

/-- A channel brought into 0 to 255. -/
def unorm8 (v : Int) : Nat := if v < 0 then 0 else if 255 < v then 255 else v.toNat

/-- The two endpoints of a colour endpoint mode and its values; none for an HDR mode. -/
def astcEndpoints (cem : Nat) (v : List Nat) : Option (List Nat × List Nat) :=
  let g (i : Nat) : Nat := v.getD i 0
  let base (i : Nat) : Nat := g i / 2 + g (i + 1) / 128 * 128
  let off (i : Nat) : Int :=
    let t : Int := (g (i + 1) / 2 % 64 : Nat)
    if 32 ≤ t then t - 64 else t
  let contract (l : List Int) : List Nat :=
    let c (i : Nat) : Int := l.getD i 0
    [unorm8 ((c 0 + c 2) / 2), unorm8 ((c 1 + c 2) / 2), unorm8 (c 2), unorm8 (c 3)]
  let ints (l : List Nat) : List Int := l.map Int.ofNat
  let direct (a0 a1 : Nat) : List Nat × List Nat :=
    if g 0 + g 2 + g 4 ≤ g 1 + g 3 + g 5 then ([g 0, g 2, g 4, a0], [g 1, g 3, g 5, a1])
    else (contract (ints [g 1, g 3, g 5, a1]), contract (ints [g 0, g 2, g 4, a0]))
  let offset (a0 : Nat) (a1 : Int) : List Nat × List Nat :=
    let lo := ints [base 0, base 2, base 4, a0]
    let hi : List Int := List.append ([0, 2, 4].map fun i => Int.ofNat (base i) + off i) [a1]
    if 0 ≤ off 0 + off 2 + off 4 then (lo.map unorm8, hi.map unorm8) else (contract hi, contract lo)
  let scale (a0 a1 : Nat) : List Nat × List Nat :=
    ([g 0 * g 3 / 256, g 1 * g 3 / 256, g 2 * g 3 / 256, a0], [g 0, g 1, g 2, a1])
  let grey (l a : Nat) : List Nat := [l, l, l, a]
  match cem with
  | 0 => some (grey (g 0) 255, grey (g 1) 255)
  | 1 =>
    let l := g 0 / 4 + g 1 / 64 * 64
    some (grey l 255, grey (min 255 (l + g 1 % 64)) 255)
  | 4 => some (grey (g 0) (g 2), grey (g 1) (g 3))
  | 5 => some (grey (base 0) (base 2), grey (unorm8 (base 0 + off 0)) (unorm8 (base 2 + off 2)))
  | 6 => some (scale 255 255)
  | 8 => some (direct 255 255)
  | 9 => some (offset 255 255)
  | 10 => some (scale (g 4) (g 5))
  | 12 => some (direct (g 6) (g 7))
  | 13 => some (offset (base 6) ((base 6 : Int) + off 6))
  | _ => none

/-- A void-extent block of the LDR profile: its colour, or none where it is an error. -/
def astcVoid (b : Nat) : Option (List Nat) :=
  let e (i : Nat) : Nat := bitsAt b (12 + 13 * i) 13
  let whole := (List.range 4).all (fun i => decide (e i = 8191))
  if b.testBit 9 ∨ bitsAt b 10 2 ≠ 3 ∨ (!whole ∧ (e 1 ≤ e 0 ∨ e 3 ≤ e 2)) then none
  else some ((List.range 4).map (fun i => bitsAt b (64 + 16 * i) 16))

/-- The colour endpoint modes of the partitions, with the bits that they take below the weights; `top` is the place of
the lowest bit of the weights. -/
def astcModes (b n top : Nat) : List Nat × Nat :=
  if n = 1 then ([bitsAt b 13 4], 0)
  else if bitsAt b 23 2 = 0 then (List.replicate n (bitsAt b 25 4), 0)
  else
    let extra := 3 * n - 4
    let t := bitsAt b 23 6 + bitsAt b (top - extra) extra * 64
    ((List.range n).map (fun i => (bitsAt t (2 + i) 1 + (t % 4 - 1)) * 4 + bitsAt t (2 + n + 2 * i) 2), extra)

/-- The value of the weight grid at a texel of a block of `side` texels: plane `p` of `planes`. -/
def astcWeight (m : AstcMode) (side x y p : Nat) (at_ : Nat → Nat) : Nat :=
  let planes := if m.dual then 2 else 1
  let step := (1024 + side / 2) / (side - 1)
  let gs := (step * x * (m.w - 1) + 32) / 64
  let gt := (step * y * (m.h - 1) + 32) / 64
  let fs := gs % 16
  let ft := gt % 16
  let w11 := (fs * ft + 8) / 16
  let v (i j : Nat) : Nat :=
    if gs / 16 + i < m.w ∧ gt / 16 + j < m.h then at_ (((gt / 16 + j) * m.w + gs / 16 + i) * planes + p) else 0
  (v 0 0 * (16 + w11 - fs - ft) + v 1 0 * (fs - w11) + v 0 1 * (ft - w11) + v 1 1 * w11 + 8) / 16

/-- A texel of an ASTC block of `side` × `side` texels under the LDR profile as four 16-bit UNORM channels (R295, R296);
none where the block decodes to the error colour. -/
def astcTexel (b side x y : Nat) : Option (List Nat) :=
  if b % 512 = 0x1FC then astcVoid b
  else
    match astcMode b with
    | none => none
    | some m =>
      let nw := m.w * m.h * (if m.dual then 2 else 1)
      let wb := iseBits m.range nw
      let n := bitsAt b 11 2 + 1
      let (cems, extra) := astcModes b n (128 - wb)
      let ints := (cems.map (fun c => 2 * (c / 4 + 1))).sum
      let start := if n = 1 then 17 else 29
      let room := 128 - wb - extra - (if m.dual then 2 else 0) - start
      if side < m.w ∨ side < m.h ∨ 64 < nw ∨ wb < 24 ∨ 96 < wb ∨ (m.dual ∧ n = 4) ∨ 18 < ints ∨
          128 < start + wb + extra + (if m.dual then 2 else 0) then none
      else
        match ((List.range 21).filter (fun q => decide (4 ≤ q) && decide (iseBits q ints ≤ room))).getLast? with
        | none => none
        | some q =>
          let values := (List.range ints).map (fun i => colourUnquant q (iseValue q ints (b / 2 ^ start) i))
          let firstOf (k : Nat) : Nat := ((cems.take k).map (fun c => 2 * (c / 4 + 1))).sum
          let ends := (List.range n).map (fun k => astcEndpoints (cems.getD k 0) (values.drop (firstOf k)))
          if ends.any (fun e => e.isNone) then none
          else
            let k := if n = 1 then 0 else astcPartition (bitsAt b 13 10) n x y (decide (side * side < 31))
            let e := ((ends.getD k none).getD ([], []))
            let rb := reverseBits 128 b
            let grid (i : Nat) : Nat := weightUnquant m.range (iseValue m.range nw rb i)
            let w0 := astcWeight m side x y 0 grid
            let w1 := if m.dual then astcWeight m side x y 1 grid else w0
            let plane := bitsAt b (128 - wb - extra - 2) 2
            some ((List.range 4).map fun c => mix64 (if m.dual ∧ c = plane then w1 else w0) (e.1.getD c 0 * 257) (e.2.getD c 0 * 257))

end Sys2Proof.Machine
end

