-- ==== Sys2Proof/Machine/Texture.lean ====
section
/-! DEFINITION. The texture filter unit (R295 to R298). -/

namespace Sys2Proof.Machine

/-- A texture as its descriptor gives it (R295): level 0, sizes, mip levels − 1, FORMAT and ASTC footprint. -/
structure Texture where
  base : Nat
  width : Nat
  height : Nat
  last : Nat
  format : Nat
  astc : Nat
  deriving DecidableEq, Repr

/-- The descriptor of eight words, if it is valid (R295). -/
def texture? (w : List Word) : Option Texture :=
  let f (i : Nat) : Nat := (w.getD i 0).toNat
  let t : Texture :=
    { base := addrAt w 0, width := f 2 % 16384 + 1, height := f 2 / 65536 % 16384 + 1, last := f 3 % 16,
      format := f 3 / 256 % 16, astc := f 3 / 4096 % 16 }
  if f 0 % 65536 ≠ 0 ∨ 2 ^ 25 ≤ f 1 ∨ f 2 / 16384 % 4 ≠ 0 ∨ 2 ^ 30 ≤ f 2 ∨ f 3 / 16 % 16 ≠ 0 ∨ 65536 ≤ f 3 ∨
      (w.drop 4).any (fun x => decide (x ≠ 0)) ∨ 10 ≤ t.format ∨ 6 ≤ t.astc ∨ Nat.log2 (max t.width t.height) < t.last then none
  else some t

/-- Bytes of an element, and texels on its side (R295). -/
def Texture.bytes (t : Texture) : Nat :=
  match t.format with
  | 0 => 4
  | 1 | 2 | 5 => 8
  | _ => 16

def Texture.side (t : Texture) : Nat :=
  match t.format with
  | 0 | 1 => 1
  | 9 => [4, 5, 6, 8, 10, 12].getD t.astc 4
  | _ => 4

/-- Width and height of a level in texels (R297). -/
def Texture.wide (t : Texture) (l : Nat) : Nat := max 1 (t.width / 2 ^ l)
def Texture.high (t : Texture) (l : Nat) : Nat := max 1 (t.height / 2 ^ l)

/-- Elements of a tile (R297). -/
def Texture.tileW (t : Texture) : Nat := if t.bytes = 16 then 64 else 128
def Texture.tileH (t : Texture) : Nat := if t.bytes = 4 then 128 else 64

def ceilDiv (a b : Nat) : Nat := (a + b - 1) / b

/-- Tiles in a row of a level, and in the level (R297). -/
def Texture.rowTiles (t : Texture) (l : Nat) : Nat := ceilDiv (ceilDiv (t.wide l) t.side) t.tileW
def Texture.tiles (t : Texture) (l : Nat) : Nat := t.rowTiles l * ceilDiv (ceilDiv (t.high l) t.side) t.tileH

/-- The address of a level (R297). -/
def Texture.levelAt (t : Texture) (l : Nat) : Nat := t.base + 65536 * ((List.range l).map t.tiles).sum

/-- The index of an element in its tile (R297). -/
def Texture.morton (t : Texture) (ex ey : Nat) : Nat :=
  let k := Nat.log2 t.tileH
  ((List.range k).map (fun i => ex / 2 ^ i % 2 * 2 ^ (2 * i) + ey / 2 ^ i % 2 * 2 ^ (2 * i + 1))).sum +
    (if t.tileW = 128 ∧ t.tileH = 64 then ex / 64 % 2 * 4096 else 0)

/-- The address of the element that holds texel (i, j) of a level (R297). -/
def Texture.elementAt (t : Texture) (l i j : Nat) : Nat :=
  let ex := i / t.side
  let ey := j / t.side
  t.levelAt l + 65536 * (ey / t.tileH * t.rowTiles l + ex / t.tileW) + t.morton (ex % t.tileW) (ey % t.tileH) * t.bytes

/-- Channels R, G, B and A of a texel as values in units of 1 over the format's denominator. -/
def channels (cs : List Nat) : List FVal := cs.map (fun (c : Nat) => FVal.ofInt c 0)

/-- An RGB565 endpoint widened to 8 bits by replication (R296). -/
def widen565 (c : Nat) : List Nat :=
  let five (v : Nat) : Nat := v * 8 + v / 4
  [five (c / 2048 % 32), c / 32 % 64 * 4 + c / 32 % 64 / 16, five (c % 32)]

/-- The colour of a BC1 to BC3 block in units of 1/1,530, and whether it is transparent black (R296). -/
def bcColour (four : Bool) (b : Nat) (k : Nat) : List Nat × Bool :=
  let c0 := b % 65536
  let c1 := b / 65536 % 65536
  let e := List.zip (widen565 c0) (widen565 c1)
  let i := b / 2 ^ (32 + 2 * k) % 4
  match i with
  | 0 => (e.map (fun p => 6 * p.1), false)
  | 1 => (e.map (fun p => 6 * p.2), false)
  | 2 => if four ∨ c1 < c0 then (e.map (fun p => 4 * p.1 + 2 * p.2), false) else (e.map (fun p => 3 * p.1 + 3 * p.2), false)
  | _ => if four ∨ c1 < c0 then (e.map (fun p => 2 * p.1 + 4 * p.2), false) else ([0, 0, 0], true)

/-- A value of a BC4 block, and the alpha of a BC3 block, in units of 1/8,925 (R296). -/
def bcValue (b : Nat) (k : Nat) : Nat :=
  let a0 := b % 256
  let a1 := b / 256 % 256
  let i := b / 2 ^ (16 + 3 * k) % 8
  if i = 0 then 35 * a0
  else if i = 1 then 35 * a1
  else if a1 < a0 then 5 * ((8 - i) * a0 + (i - 1) * a1)
  else if i = 6 then 0
  else if i = 7 then 8925
  else 7 * ((6 - i) * a0 + (i - 1) * a1)

/-- The texel at (x, y) of an element (R296; log 20). -/
def Texture.decode (t : Texture) (bs : List Byte) (x y : Nat) : List FVal :=
  let b := natOfBytes bs
  let k := 4 * y + x
  let hi := b / 2 ^ 64
  let half (p : Nat) : FVal := fp16.value p
  match t.format with
  | 0 => channels (bs.map (·.toNat))
  | 1 => (List.range 4).map (fun i => half (b / 2 ^ (16 * i) % 65536))
  | 2 =>
    let c := bcColour false b k
    channels (c.1 ++ [if c.2 then 0 else 1530])
  | 3 => channels ((bcColour true hi k).1 ++ [102 * (b / 2 ^ (4 * k) % 16)])
  | 4 => channels ((bcColour true hi k).1.map (35 * ·) ++ [6 * bcValue b k])
  | 5 => channels [bcValue b k, 0, 0, 8925]
  | 6 => channels [bcValue b k, bcValue hi k, 0, 8925]
  | 7 =>
    match bc6Texel b k with
    | none => channels [0, 0, 0, 1]
    | some ps => ps.map half ++ [FVal.ofInt 1 0]
  | 8 => channels ((bc7Texel b k).getD [0, 0, 0, 0])
  | _ => channels ((astcTexel b t.side x y).getD [65535, 0, 65535, 65535])

/-- The denominator of the decoded channels of a format. -/
def Texture.den (t : Texture) : Nat :=
  match t.format with
  | 0 | 8 => 255
  | 1 | 7 => 1
  | 2 | 3 => 1530
  | 4 => 53550
  | 5 | 6 => 8925
  | _ => 65535

/-- A coordinate (R298): a number, or the first or last texel of its axis. -/
inductive Coord where
  | first
  | last
  | at_ (neg : Bool) (m : Nat) (e : Int)
  deriving DecidableEq, Repr

/-- The coordinate of an FP32 pattern under ADDR: a NaN counts as 0, and an infinity does but under clamp (R298). -/
def coordOf (addr p : Nat) : Coord :=
  match fp32.value p with
  | .nan => .at_ false 0 0
  | .inf neg => if addr = 1 then (if neg then .first else .last) else .at_ false 0 0
  | .fin neg m e => .at_ neg m e

/-- floor(256 × c × size − 128 × half) for a coordinate c. -/
def scaled (neg : Bool) (m : Nat) (e : Int) (size half : Nat) : Int :=
  let x : Int := if neg then -((m * size * 256 : Nat) : Int) else ((m * size * 256 : Nat) : Int)
  if 0 ≤ e then x * ((2 ^ e.toNat : Nat) : Int) - 128 * half
  else (x - ((128 * half * 2 ^ (-e).toNat : Nat) : Int)) / ((2 ^ (-e).toNat : Nat) : Int)

/-- A texel index brought into its axis by ADDR (R298): wrap, clamp, mirror. -/
def wrapIndex (addr size : Nat) (i : Int) : Nat :=
  match addr with
  | 0 => (i % (size : Int)).toNat
  | 1 => (clampInt 0 (size - 1 : Nat) i).toNat
  | _ =>
    let k := (i % ((2 * size : Nat) : Int)).toNat
    if k < size then k else 2 * size - 1 - k

/-- The texels of an axis with their weights in 1/256: the nearest one, or the two of a linear filter (R298). -/
def axisTaps (linear : Bool) (addr size : Nat) (c : Coord) : List (Nat × Nat) :=
  match c with
  | .first => [(0, 256)]
  | .last => [(size - 1, 256)]
  | .at_ neg m e =>
    let x := scaled neg m e size (if linear then 1 else 0)
    let i := x / 256
    let f := (x % 256).toNat
    if linear then [(wrapIndex addr size i, 256 - f), (wrapIndex addr size (i + 1), f)]
    else [(wrapIndex addr size i, 256)]

/-- A texel of a level with its weight. -/
structure Tap where
  level : Nat
  i : Nat
  j : Nat
  weight : Nat
  deriving DecidableEq, Repr

/-- The texels that a filter of one level takes, weights in 2^-16 (R298). -/
def Texture.levelTaps (t : Texture) (linear : Bool) (addr l : Nat) (u v : Coord) : List Tap :=
  (axisTaps linear addr (t.wide l) u).flatMap fun a =>
    (axisTaps linear addr (t.high l) v).map fun b => ⟨l, a.1, b.1, a.2 * b.2⟩

/-- floor(256 × lod) of a lod clamped to the levels; a NaN counts as 0 (R298). -/
def Texture.lod256 (t : Texture) (p : Nat) : Nat :=
  match fp32.value p with
  | .nan => 0
  | .inf neg => if neg then 0 else 256 * t.last
  | .fin neg m e => (clampInt 0 (256 * t.last : Nat) (scaled neg m e 1 0)).toNat

/-- The level of a point or bilinear filter: lod rounded RNE and clamped (R298). -/
def Texture.nearLevel (t : Texture) (p : Nat) : Nat :=
  match fp32.value p with
  | .inf neg => if neg then 0 else t.last
  | v => (clampInt 0 t.last (v.toInt 0 true 300)).toNat

/-- The texels of a trilinear filter, weights in 2^-24 (R298). -/
def Texture.trilinear (t : Texture) (addr lod : Nat) (u v : Coord) : List Tap :=
  let x := t.lod256 lod
  let l := x / 256
  let f := x % 256
  (t.levelTaps true addr l u v).map (fun p => { p with weight := p.weight * (256 - f) }) ++
    (t.levelTaps true addr (min (l + 1) t.last) u v).map (fun p => { p with weight := p.weight * f })

/-- FP32 arithmetic with RNE on patterns. -/
def f32Add (a b : Nat) : Nat := fp32.round 0 (FVal.sum 0 [fp32.value a, fp32.value b])
def f32Mul (a b : Nat) : Nat := fp32.round 0 ((fp32.value a).mul (fp32.value b))
def f32Div (a b : Nat) : Nat := fp32.round 0 ((fp32.value a).div (fp32.value b))
def f32Sqrt (a : Nat) : Nat := fp32.round 0 (fp32.value a).sqrt
def f32Of (x : Int) (e : Int) : Nat := fp32.round 0 (FVal.ofInt x e)

/-- The probes of an anisotropic filter (R298): their coordinates, and the lod of each. Log 41 (DESIGN CHOICE). -/
def Texture.probes (t : Texture) (addr maxan : Nat) (u v : Nat) (ds : List Word) : List (Coord × Coord) × Nat :=
  let d (i : Nat) : Nat := let p := (ds.getD i 0).toNat; if (fp32.value p).isNan then 0 else p
  let zero (p : Nat) : Nat := if (fp32.value p).isNan then 0 else p
  let len (a b : Nat) : Nat :=
    let x := f32Mul a (f32Of t.width 0)
    let y := f32Mul b (f32Of t.height 0)
    f32Sqrt (f32Add (f32Mul x x) (f32Mul y y))
  let px := len (d 0) (d 1)
  let py := len (d 2) (d 3)
  let major : Bool := if px = py then Config.majorOnTie ds else decide (px < py)
  let pmax := if major then py else px
  let pmin := if major then px else py
  let ratio := match fp32.value (f32Div pmax pmin) with
    | .fin false m e => (if 0 ≤ e then m * 2 ^ e.toNat else ceilDiv m (2 ^ (-e).toNat))
    | _ => maxan
  let n := if pmax = fp32.inf ∨ pmin = 0 then maxan else min maxan ratio
  let lod := if pmax = fp32.inf then f32Of t.last 0 else fp32.log2 0 (f32Div pmax (f32Of n 0))
  let mu := if major then d 2 else d 0
  let mv := if major then d 3 else d 1
  let at_ (c m : Nat) (i : Nat) : Coord :=
    coordOf addr (f32Add (zero c) (f32Mul (f32Add (f32Div (f32Of (2 * i + 1) (-1)) (f32Of n 0)) (f32Of (-1) (-1))) m))
  ((List.range n).map (fun i => (at_ u mu i, at_ v mv i)), lod)

/-- The texels that a SAMPLE takes, and the number that their weights sum to (R298). -/
def Texture.taps (t : Texture) (x : Call) : List Tap × Nat :=
  let addr := callField x 6 2
  let u := coordOf addr (callWord x 4).toNat
  let v := coordOf addr (callWord x 5).toNat
  let lod := (callWord x 6).toNat
  match callField x 4 2 with
  | 0 => (t.levelTaps false addr (t.nearLevel lod) u v, 2 ^ 16)
  | 1 => (t.levelTaps true addr (t.nearLevel lod) u v, 2 ^ 16)
  | 2 => (t.trilinear addr lod u v, 2 ^ 24)
  | _ =>
    let p := t.probes addr (callField x 8 4 + 1) (callWord x 4).toNat (callWord x 5).toNat ((x.words.drop 6).take 4)
    (p.1.flatMap (fun c => t.trilinear addr p.2 c.1 c.2), 2 ^ 24 * p.1.length)

/-- The texels of a filter read and decoded (R296, R297). -/
def State.readTexels (x : Call) (t : Texture) : List Tap → State → Reply (List (Nat × List FVal))
  | [], s => .ok [] s
  | p :: r, s =>
    match s.unitRead x (t.elementAt p.level p.i p.j) t.bytes with
    | .dealt s1 => .dealt s1
    | .ok bs s1 =>
      match State.readTexels x t r s1 with
      | .dealt s2 => .dealt s2
      | .ok ts s2 => .ok ((p.weight, (t.decode bs (p.i % t.side) (p.j % t.side))) :: ts) s2

/-- The weighted sum of a channel, formed exactly and rounded once (R298). Log 108 (DEDUCED). -/
def filtered (ts : List (Nat × List FVal)) (den : Nat) (c : Nat) : Word :=
  let n := FVal.sum 0 (ts.map (fun p => (FVal.ofInt p.1 0).mul (p.2.getD c .nan)))
  BitVec.ofNat 32 (fp32.round 0 (n.div (FVal.ofInt den 0)))

/-- TFU SAMPLE (R295 to R298). -/
def execTfuSample (s : State) : Host.Outcome State Fault Refusal :=
  match s.ev with
  | .tfuSample x =>
    if !callOk x 1 (if callField x 4 2 = 3 then 10 else 7) 12
        (decide (callField x 6 2 = 3) || decide (callAddr x 2 % 32 ≠ 0)) then .next (s.unitBad x)
    else
      match s.unitRead x (callAddr x 2) 32 with
      | .dealt s1 => .next s1
      | .ok bs s1 =>
        match texture? (wordsOfBytes bs) with
        | none => .next (s1.unitCause x 0xA1)
        | some t =>
          let (ps, w) := t.taps x
          match State.readTexels x t ps s1 with
          | .dealt s2 => .next s2
          | .ok ts s2 => .next (s2.unitReturn x ((List.range 4).map (filtered ts (t.den * w))))
  | _ => .next s

end Sys2Proof.Machine
end

