-- ==== Sys2Proof/Machine/Ray.lean ====
section
/-! DEFINITION. The ray unit (R299 to R301) and the BVH optimiser (R302). -/

namespace Sys2Proof.Machine

/-- A ray: origin and direction as FP32 patterns, the interval of t, and the flags of its TRACE (R300). -/
structure Ray where
  o : List Nat
  d : List Nat
  tmin : Nat
  tmax : Nat
  anyhit : Bool
  cull : Bool
  deriving DecidableEq, Repr

/-- A hit: t, primitive ID and barycentrics (R300). -/
structure RayHit where
  t : Nat
  id : Word
  b1 : Nat
  b2 : Nat
  deriving DecidableEq, Repr

/-- The words of a hit in a return record (R300). -/
def RayHit.words (h : RayHit) : List Word := [BitVec.ofNat 32 h.t, h.id, BitVec.ofNat 32 h.b1, BitVec.ofNat 32 h.b2]

/-- FP32 a ≤ b, and a < b; false when unordered. -/
def f32Le (a b : Nat) : Bool :=
  match fp32.compare a b with
  | some .lt | some .eq => true
  | _ => false

def f32Lt (a b : Nat) : Bool := decide (fp32.compare a b = some .lt)

/-- The axes kx, ky and kz of a ray (R301 item 2). -/
def Ray.axes (r : Ray) : Nat × Nat × Nat :=
  let m (i : Nat) : Nat := r.d.getD i 0 % 2 ^ 31
  let kz := if m 0 < m 1 then (if m 1 < m 2 then 2 else 1) else (if m 0 < m 2 then 2 else 0)
  let kx := (kz + 1) % 3
  let ky := (kx + 1) % 3
  if f32Lt (r.d.getD kz 0) 0 then (ky, kx, kz) else (kx, ky, kz)

/-- A vertex brought into the ray's space (R301 items 3 and 4). -/
def Ray.shear (r : Ray) (v : List Nat) : List FVal :=
  let (kx, ky, kz) := r.axes
  let d (i : Nat) : Nat := r.d.getD i 0
  let a (i : Nat) : FVal := fp32.value (fp32.round 0 (FVal.sum 0 [fp32.value (v.getD i 0), (fp32.value (r.o.getD i 0)).neg]))
  let s (i : Nat) : FVal := fp32.value (f32Div (d i) (d kz))
  let sz : FVal := fp32.value (f32Div (f32Of 1 0) (d kz))
  let fma (i : Nat) : FVal := fp32.value (fp32.round 0 (FVal.sum 0 [a i, ((s i).mul (a kz)).neg]))
  [fma kx, fma ky, fp32.value (fp32.round 0 (sz.mul (a kz)))]

/-- A value is not below 0, or not above 0; both hold of zeros and neither of a NaN. -/
def FVal.notNeg (v : FVal) : Bool :=
  match v with
  | .nan => false
  | .inf s => !s
  | .fin s m _ => !s || decide (m = 0)

def FVal.notPos (v : FVal) : Bool :=
  match v with
  | .nan => false
  | .inf s => s
  | .fin s m _ => s || decide (m = 0)

/-- The hit of a ray with a triangle of three vertices (R301 items 4 to 8). -/
def Ray.hit? (r : Ray) (id : Word) (va vb vc : List Nat) : Option RayHit :=
  let a := r.shear va
  let b := r.shear vb
  let c := r.shear vc
  let g (v : List FVal) (i : Nat) : FVal := v.getD i .nan
  let cross (p q : List FVal) : FVal := FVal.sum 0 [(g p 0).mul (g q 1), ((g p 1).mul (g q 0)).neg]
  let u := cross c b
  let v := cross a c
  let w := cross b a
  let det := FVal.sum 0 [u, v, w]
  let pos := u.notNeg && v.notNeg && w.notNeg
  let neg := u.notPos && v.notPos && w.notPos
  if (pos && neg) || !(pos || neg) || (r.cull && !det.notNeg) then none
  else
    let tt := FVal.sum 0 [u.mul (g a 2), v.mul (g b 2), w.mul (g c 2)]
    let t := fp32.round 0 (tt.div det)
    if f32Le r.tmin t && f32Le t r.tmax then
      some ⟨t, id, fp32.round 0 (v.div det), fp32.round 0 (w.div det)⟩
    else none

/-- The slab interval of a ray on one axis of a box: near bound rounded down, far bound rounded up (R301).
Log 109 (DEDUCED). -/
def slab (o d lo hi : Nat) : Nat × Nat :=
  let q (rnd x : Nat) : Nat :=
    fp32.round rnd ((FVal.sum 0 [fp32.value x, (fp32.value o).neg]).div (fp32.value d))
  if d % 2 ^ 31 = 0 then
    (if f32Le lo o && f32Le o hi then (fp32.inf + 2 ^ 31, fp32.inf)
     else if (fp32.value lo).isNan || (fp32.value hi).isNan then (fp32.nan, fp32.nan) else (fp32.inf, fp32.inf + 2 ^ 31))
  else if f32Lt d 0 then (q 3 hi, q 2 lo)
  else (q 3 lo, q 2 hi)

/-- The entry distance of a ray into a box of six words, if it enters it (R301). Where a bound is no number, it is open
whether it does (log 42). -/
def Ray.enters (r : Ray) (box : List Word) : Option Nat :=
  let f (i : Nat) : Nat := (box.getD i 0).toNat
  let ss := (List.range 3).map (fun i => slab (r.o.getD i 0) (r.d.getD i 0) (f i) (f (i + 3)))
  if ss.any (fun p => (fp32.value p.1).isNan || (fp32.value p.2).isNan) then
    (Config.openBox (((r.o ++ r.d).map (BitVec.ofNat 32)) ++ box)).map (·.toNat)
  else
    let near := (ss.map (·.1)).foldl fp32.greatest (fp32.inf + 2 ^ 31)
    let far := (ss.map (·.2)).foldl fp32.least fp32.inf
    if f32Le near far && f32Le near r.tmax && f32Le r.tmin far then some near else none

/-- Children in the order in which they are visited: by entry distance, the lower child first on a tie (R301). -/
def insertChild (c : Nat × Nat) : List (Nat × Nat) → List (Nat × Nat)
  | [] => [c]
  | b :: r => if f32Lt c.1 b.1 then c :: b :: r else b :: insertChild c r

/-- The children of an inner node that a ray enters, in visiting order. -/
def Ray.visits (r : Ray) (w : List Word) (n : Nat) : List Nat :=
  ((((List.range n).filterMap fun c =>
    (r.enters ((w.drop (8 + 6 * c)).take 6)).map (fun d => (d, (w.getD (1 + c) 0).toNat)))).foldl
      (fun l c => insertChild c l) []).map (·.2)

/-- The better of two accepted hits: least t, lower ID on a tie (R301). -/
def better (a b : Option RayHit) : Option RayHit :=
  match a, b with
  | some x, some y => if f32Lt y.t x.t || (!f32Lt x.t y.t && decide (y.id < x.id)) then some y else some x
  | none, y => y
  | x, none => x

/-- The hits of a leaf in order: the first accepted under ANYHIT, the best otherwise. -/
def Ray.leaf (r : Ray) (w : List Word) (n : Nat) (found : Option RayHit) : Option RayHit :=
  (List.range n).foldl (fun h j =>
    let v (k : Nat) : List Nat := ((w.drop (4 + 9 * j + 3 * k)).take 3).map (·.toNat)
    if r.anyhit ∧ h.isSome then h else better h (r.hit? (w.getD (1 + j) 0) (v 0) (v 1) (v 2))) found

/-- How a traversal goes on: with the hit found so far, at a malformed node, or over for now. -/
inductive Walk where
  | found (h : Option RayHit) (s : State)
  | bad (s : State)
  | dealt (s : State)

/-- A node and what lies below it visited; `depth` nodes may still lie on a path (R299, R301). -/
def State.traverse (x : Call) (r : Ray) (base nodes : Nat) : Nat → Nat → Option RayHit → State → Walk
  | 0, _, _, s => .bad s
  | depth + 1, i, h, s =>
    if i = 0 ∨ nodes ≤ i then .bad s
    else
      match s.unitRead x (base + 128 * i) 128 with
      | .dealt s1 => .dealt s1
      | .ok bs s1 =>
        let w := wordsOfBytes bs
        let n := fieldNat (w.getD 0 0) 2 3
        match fieldNat (w.getD 0 0) 0 2 with
        | 0 =>
          if n = 0 ∨ 4 < n then .bad s1
          else
            (r.visits w n).foldl (fun st c =>
              match st with
              | .found h s2 => if r.anyhit ∧ h.isSome then .found h s2 else State.traverse x r base nodes depth c h s2
              | st => st) (.found h s1)
        | 1 => if n = 0 ∨ 3 < n then .bad s1 else .found (r.leaf w n h) s1
        | _ => .bad s1

/-- The version of the line behind a virtual address of a session, for the BVO's account of a BVH's versions. -/
def State.lineVersion (s : State) (n va : Nat) : Nat :=
  let w := s.walkMem n va
  if w.valid ∧ w.good then
    (s.version (lineOf (if w.level = 0 ∧ pteShr w.entry then sharedAddr w.entry w.companion va
      else leafAddr w.level w.entry va))).toNat
  else 0

/-- The sum of the versions of a BVH's lines. -/
def State.bvhVersions (s : State) (n base nodes : Nat) : Nat :=
  ((List.range nodes).map (fun i => s.lineVersion n (base + 128 * i))).sum

/-- A BVH under optimisation that a program has written without STOP (R302). Log 26 (DESIGN CHOICE). -/
def State.bvhWritten (s : State) (x : Call) (base : Nat) : Bool :=
  (s.die x.die).bvo.any (fun b => decide (b.session = x.session) && decide (b.base.toNat = base) &&
    decide (s.bvhVersions b.session base b.nodes ≠ b.vers))

/-- The triangles of a BVH in the pool's leaves as its words stand, with their IDs (R299). -/
def poolTris (m : List Word) (nodes : Nat) : List (List Word) :=
  (List.range nodes).flatMap fun i =>
    let w := (m.drop (32 * i)).take 32
    if i = 0 ∨ fieldNat (w.getD 0 0) 0 2 ≠ 1 then []
    else (List.range (min 3 (fieldNat (w.getD 0 0) 2 3))).map (fun j => w.getD (1 + j) 0 :: (w.drop (4 + 9 * j)).take 9)

/-- The hits of a ray among triangles. -/
def Ray.hits (r : Ray) (ts : List (List Word)) : List RayHit :=
  ts.filterMap fun t =>
    let v (k : Nat) : List Nat := ((t.drop (1 + 3 * k)).take 3).map (·.toNat)
    r.hit? (t.getD 0 0) (v 0) (v 1) (v 2)

/-- The BVH as a call or the BVO reads it: the words of its pool, if every one can be reached now. -/
def State.bvhBytes (s : State) (x : Call) (base nodes : Nat) : Option (List Word × State) :=
  match s.unitSpan x 0 base (128 * nodes) with
  | (.ok ps, s1) => some (wordsOfBytes (s1.readSpan ps), s1)
  | _ => none

/-- The words of a miss (R300); those of the barycentrics are open (log 38). -/
def missWords (tick : Nat) : List Word := [BitVec.ofNat 32 fp32.inf, 0xFFFFFFFF, Config.openWord tick 0, Config.openWord tick 1]

/-- The ray of a TRACE (R300). -/
def rayOf (x : Call) : Ray :=
  let f (i : Nat) : Nat := (callWord x i).toNat
  { o := [f 4, f 5, f 6], d := [f 7, f 8, f 9], tmin := f 10, tmax := f 11, anyhit := decide (callField x 4 1 = 1),
    cull := decide (callField x 5 1 = 1) }

/-- A ray that misses without traversal (R301 item 1). -/
def Ray.idle (r : Ray) : Bool :=
  (r.o ++ r.d ++ [r.tmin, r.tmax]).any (fun p => (fp32.value p).isNan) || r.d.all (fun p => decide (p % 2 ^ 31 = 0)) ||
  f32Lt r.tmax r.tmin

/-- RYU TRACE (R299 to R302). -/
def execRyuTrace (s : State) : Host.Outcome State Fault Refusal :=
  match s.ev with
  | .ryuTrace x =>
    let base := callAddr x 2
    let r := rayOf x
    if !callOk x 1 12 6 (decide (base % 128 ≠ 0)) then .next (s.unitBad x)
    else if r.idle then .next (s.unitReturn x (missWords s.tick))
    else
      match s.unitRead x base 8 with
      | .dealt s1 => .next s1
      | .ok bs s1 =>
        let w := wordsOfBytes bs
        if s1.bvhWritten x base then
          let now := ((s1.bvhBytes x base (w.getD 1 0).toNat).map (fun p => poolTris p.1 (w.getD 1 0).toNat)).getD []
          let was := ((s1.die x.die).bvo.filter (fun b => decide (b.session = x.session) && decide (b.base.toNat = base))).flatMap (·.tris)
          match Config.traceWhileWritten s1.tick with
          | 0 => .next (s1.unitCause x 0xA4)
          | n + 1 =>
            match (r.hits (was ++ now))[n]? with
            | none => .next (s1.unitReturn x (missWords s1.tick))
            | some h => .next (s1.unitReturn x h.words)
        else
          match State.traverse x r base (w.getD 1 0).toNat 64 (w.getD 0 0).toNat none s1 with
          | .dealt s2 => .next s2
          | .bad s2 => .next (s2.unitCause x 0xA4)
          | .found none s2 => .next (s2.unitReturn x (missWords s2.tick))
          | .found (some h) s2 =>
            .next (s2.unitReturn x h.words)
  | _ => .next s

/-- BVO START (R302): its RSTAT is 1 when 16 BVHs of the die are under optimisation. Log 110 (DEDUCED). -/
def execBvoStart (s : State) : Host.Outcome State Fault Refusal :=
  match s.ev with
  | .bvoStart x =>
    let base := callAddr x 2
    if !callOk x 1 4 4 (decide (base % 128 ≠ 0)) then .next (s.unitBad x)
    else
      match s.unitRead x base 8 with
      | .dealt s1 => .next s1
      | .ok bs s1 =>
        let d := s1.die x.die
        let nodes := ((wordsOfBytes bs).getD 1 0).toNat
        if d.bvo.any (fun b => decide (b.session = x.session) && decide (b.base.toNat = base)) then .next (s1.unitReturn x [0])
        else if 16 ≤ d.bvo.length then .next (s1.unitReturn x [1])
        else
          let tris := ((s1.bvhBytes x base nodes).map (fun p => poolTris p.1 nodes)).getD []
          .next ((s1.setDie x.die
            { d with bvo := d.bvo ++ [⟨x.session, BitVec.ofNat 57 base, x.gang, x.team, x.level, nodes,
                s1.bvhVersions x.session base nodes, tris, [], []⟩] }).unitReturn x [0])
  | _ => .next s

/-- Node i of a pool: its words. -/
def nodeWords (m : List Word) (i : Nat) : List Word := (m.drop (32 * i)).take 32

/-- The nodes of a pool from the head of the free list on, at most `n` (R299). -/
def freeNodes (m : List Word) : Nat → Nat → List Nat
  | 0, _ => []
  | n + 1, i => if i = 0 then [] else i :: freeNodes m n ((nodeWords m i).getD 1 0).toNat

/-- The triangles under a node with their IDs, and the nodes of its subtree; none if one is malformed (R299). -/
def subtree (m : List Word) (nodes : Nat) : Nat → Nat → Option (List (List Word) × List Nat)
  | 0, _ => none
  | depth + 1, i =>
    if i = 0 ∨ nodes ≤ i then none
    else
      let w := nodeWords m i
      let n := fieldNat (w.getD 0 0) 2 3
      match fieldNat (w.getD 0 0) 0 2 with
      | 0 =>
        if n = 0 ∨ 4 < n then none
        else
          (List.range n).foldl (fun st c =>
            match st, subtree m nodes depth (w.getD (1 + c) 0).toNat with
            | some (ts, ns), some (us, ks) => some (ts ++ us, ns ++ ks)
            | _, _ => none) (some ([], [i]))
      | 1 =>
        if n = 0 ∨ 3 < n then none
        else some ((List.range n).map (fun j => w.getD (1 + j) 0 :: (w.drop (4 + 9 * j)).take 9), [i])
      | _ => none

/-- A box of six words holds a point of three. -/
def boxHolds (box p : List Word) : Bool :=
  (List.range 3).all fun i =>
    f32Le (box.getD i 0).toNat (p.getD i 0).toNat && f32Le (p.getD i 0).toNat (box.getD (i + 3) 0).toNat

/-- Every box of the inner nodes given holds the vertices below it. -/
def boxesHold (m : List Word) (nodes : Nat) (ks : List Nat) : Bool :=
  ks.all fun i =>
    let w := nodeWords m i
    decide (fieldNat (w.getD 0 0) 0 2 ≠ 0) || (List.range (fieldNat (w.getD 0 0) 2 3)).all fun c =>
      match subtree m nodes 64 (w.getD (1 + c) 0).toNat with
      | some (ts, _) => ts.all (fun t => (List.range 3).all (fun k => boxHolds ((w.drop (8 + 6 * c)).take 6) ((t.drop (1 + 3 * k)).take 3)))
      | none => false

/-- Two lists hold the same members equally often. -/
def sameBag (a b : List (List Word)) : Bool := decide (a.length = b.length) && a.all (fun x => decide (a.count x = b.count x))

/-- Words of a pool written at a byte offset. -/
def poolSet (m : List Word) (off : Nat) (ws : List Word) : List Word := m.take (off / 4) ++ ws ++ m.drop (off / 4 + ws.length)

/-- The writes of a list of (offset, words) made by the BVO, if every one can be performed. -/
def State.bvoWrites (x : Call) (b : Bvh) : List (Nat × List Word) → State → Option State
  | [], s => some s
  | (off, ws) :: r, s =>
    match s.unitSpan x 1 (b.base.toNat + off) (4 * ws.length) with
    | (.ok ps, s1) => State.bvoWrites x b r (s1.unitWrite x ps (bytesOfWords ws))
    | _ => none

/-- The TRACEs of a BVH that have begun and not returned (R302): those whose reads the RYUs keep. -/
def State.tracing (s : State) (b : Bvh) : List Call :=
  (s.dies.flatMap (fun d => d.seen.map (·.1))).filter
    (fun x => decide (x.ep / 256 % 16 = 5) && decide (x.session = b.session) && decide (callAddr x 2 = b.base.toNat))

/-- The nodes of replaced subtrees return to the free list once every TRACE that they wait for has returned (R302): none
while one has not, or while a write cannot be made. -/
def State.freeLimbo (s : State) (die : Nat) (b : Bvh) : Option State :=
  if b.limbo = [] then some s
  else if b.rays.any (fun x => decide (x ∈ s.tracing b)) then none
  else
    let x := slotCall die b.session b.level b.team 6 0 0 b.gang
    match s.bvhBytes x b.base.toNat b.nodes with
    | none => none
    | some (m, s1) =>
      let links := (List.zip b.limbo (b.limbo.drop 1 ++ [(m.getD 2 0).toNat])).map (fun p => (128 * p.1 + 4, [BitVec.ofNat 32 p.2]))
      (State.bvoWrites x b (links ++ [(8, [BitVec.ofNat 32 (b.limbo.headD 0)])]) s1).map fun s2 =>
        let d := s2.die die
        let b1 : Bvh := { b with limbo := [], rays := [], vers := s2.bvhVersions b.session b.base.toNat b.nodes }
        s2.setDie die { d with bvo := d.bvo.map (fun c => if c = b then b1 else c) }

/-- BVO STOP (R302): it returns when no write of the BVO to the BVH is outstanding, those that free nodes among them. -/
def execBvoStop (s : State) : Host.Outcome State Fault Refusal :=
  match s.ev with
  | .bvoStop x =>
    let base := callAddr x 2
    if !callOk x 2 4 4 (decide (base % 128 ≠ 0)) then .next (s.unitBad x)
    else
      let d := s.die x.die
      let mine (b : Bvh) : Bool := decide (b.session = x.session) && decide (b.base.toNat = base)
      match d.bvo.find? mine with
      | none => .next (s.unitReturn x [2])
      | some b =>
        match s.freeLimbo x.die b with
        | none => .next (s.post (.bvoStop x))
        | some s1 =>
          let d1 := s1.die x.die
          .next ((s1.setDie x.die { d1 with bvo := d1.bvo.filter (fun b => !mine b) }).unitReturn x [0])
  | _ => .next s

/-- The BVO replaces the subtree under a child word by a complete one in nodes of the free list, by one store of that
word, after which the old nodes wait for the TRACEs that have begun (R302): a later replacement frees them first. The replacement is the BVO's own choice: one that is no tree of the same
triangles in free nodes, with boxes that hold them, does not happen. `parent` 0 with child 0 is ROOT. -/
def execBvoSubtreeReplace (s : State) : Host.Outcome State Fault Refusal :=
  match s.ev with
  | .bvoSubtreeReplace die base parent child new =>
    match (s.die die).bvo.find? (fun b => decide (b.base = base)) with
    | none => .next s
    | some b =>
      let x := slotCall die b.session b.level b.team 6 0 0 b.gang
      if b.limbo ≠ [] then .next ((s.freeLimbo die b).getD s)
      else
      match s.bvhBytes x b.base.toNat b.nodes with
      | none => .next s
      | some (m, s1) =>
        let used := new.map (·.1)
        let free := freeNodes m b.nodes (m.getD 2 0).toNat
        let at_ := if parent = 0 then 0 else 128 * parent + 4 + 4 * child
        let old := (m.getD (at_ / 4) 0).toNat
        let top := (used.headD 0)
        let m1 := new.foldl (fun m e => poolSet m (128 * e.1) (fitList 0 32 e.2)) m
        let m2 := poolSet m1 at_ [BitVec.ofNat 32 top]
        match subtree m b.nodes 64 (m.getD 0 0).toNat, subtree m b.nodes 64 old, subtree m1 b.nodes 64 top,
            subtree m2 b.nodes 64 (m2.getD 0 0).toNat with
        | some (_, all), some (ts, gone), some (us, ks), some _ =>
          if b.vers ≠ s1.bvhVersions b.session b.base.toNat b.nodes ∨ used = [] ∨ free.take used.length ≠ used ∨
              ks.any (fun k => !decide (k ∈ used)) ∨ !sameBag ts us ∨ !boxesHold m1 b.nodes ks ∨
              !decide all.Nodup ∨ (parent = 0 ∧ child ≠ 0) ∨
              (parent ≠ 0 ∧ (!decide (parent ∈ all) ∨ fieldNat ((nodeWords m parent).getD 0 0) 0 2 ≠ 0 ∨
                fieldNat ((nodeWords m parent).getD 0 0) 2 3 ≤ child)) then .next s
          else
            let rest := (free.drop used.length).headD 0
            match State.bvoWrites x b
                ([(8, [BitVec.ofNat 32 rest])] ++ new.map (fun e => (128 * e.1, fitList 0 32 e.2)) ++
                  [(at_, [BitVec.ofNat 32 top])]) s1 with
            | none => .next s
            | some s2 =>
              let d := s2.die die
              let b1 := { b with vers := s2.bvhVersions b.session b.base.toNat b.nodes, limbo := gone, rays := s2.tracing b }
              .next (s2.setDie die { d with bvo := d.bvo.map (fun c => if c = b then b1 else c) })
        | _, _, _, _ => .next s
  | _ => .next s

end Sys2Proof.Machine
end

