-- ==== Sys2Proof/Machine/Start.lean ====
section
/-! DEFINITION. The start of the module (R94, R376, R380). -/

namespace Sys2Proof.Machine

/-- The dies leave reset, and the firmware of an image that every die accepts runs, in START-UP (R380 steps 1 to 3). -/
def State.boot (s : State) (x : FwImage) : State :=
  { s with
    started := true, fwDigest := x.digest, fwSvn := x.svn, mstate := 0
    dies := s.dies.map (fun d => { d with cyc := 0 }) }

/-- TEST: the memory of this module is zero, and its frames are PLAIN (R380 step 4). -/
def State.testMemory (s : State) : State :=
  { s with
    mstate := 1, mem := s.mem.filter (fun e => decide (Config.remoteBase ≤ e.1))
    lineVer := [], predictor := [], frameTag := [], copies := [] }

/-- What firmware sets (R380 step 5): MSTAB, MID, empty content pools, and partition 0's record, which is committed. -/
def State.setUp (s : State) (x : FwStart) : State :=
  let part0 := (x.part0.zip (List.range 64)).foldl (fun p e => Cells.put 0 p e.2 e.1) ([] : Cells Word)
  let s1 := ({ s with
    mid := x.mid % 16, joined := x.armada, routed := x.armada, mstab := x.mstab % 2 ^ 52 / 2 ^ 21 * 2 ^ 21
    parts := part0, cpool := List.replicate 4 (0, 0) } : State).setActive 0 false
  let r := s1.commitChecks 0
  (if r.1 = 0 then s1.setActive 0 true else s1).acted 0 1 r

/-- The partition manager's session is opened with the context that firmware writes, and its first team is launched in it
at PL2 (R167, R356, R380 step 5). -/
def State.startManager (s : State) (x : FwStart) : State :=
  let s1 := (linePieces 513 (s.ctxAt x.session) (x.context.take 512)).foldl
    (fun s' p => s'.writeHome none none 0 2 p.1 p.2) s
  match s1.openSession x.session with
  | (0, _, s2) =>
    let team : Launch := { x.team with session := x.session, record := { x.team.record with base := 2, session := x.session } }
    if s2.launchFits team then s2.launchNow team else s2
  | _ => s1

/-- Start-up, step by step (R380); without firmware that every die accepts the module stays in recovery (R376). Log 90
(DEDUCED). -/
def State.startUp (s : State) (x : FwStart) : State :=
  let next (s1 : State) : State := s1.again (.moduleResetRelease { x with phase := x.phase + 1 })
  match x.phase with
  | 0 => if s.started ∨ !(List.range 4).all (fun d => fwAccepted d x.image) then s else next (s.boot x.image)
  | 1 => next s.testMemory
  | 2 => next ((s.setUp x).startManager x)
  | _ => { s with mstate := 2 }

/-- The step MODULE_RESET_RELEASE (R380). -/
def execModuleResetRelease (s : State) : Host.Outcome State Fault Refusal :=
  match s.ev with
  | .moduleResetRelease x => .next (s.startUp x)
  | _ => .next s

end Sys2Proof.Machine
end

