-- ==== Sys2Proof/Machine/Dispatch.lean ====
section
/-! DEFINITION. The meaning of every row of the opcode table: one arm per constructor of `Instr`. -/

namespace Sys2Proof.Machine

def exec (i : Instr) (s : State) : Host.Outcome State Fault Refusal :=
  match i with
  | .nop => Sys2Proof.Machine.execNop s
  | .bra imm => Sys2Proof.Machine.execBra imm s
  | .bany n p imm => Sys2Proof.Machine.execBany n p imm s
  | .ball n p imm => Sys2Proof.Machine.execBall n p imm s
  | .call imm => Sys2Proof.Machine.execCall imm s
  | .ret a => Sys2Proof.Machine.execRet a s
  | .brr a => Sys2Proof.Machine.execBrr a s
  | .brrL a => Sys2Proof.Machine.execBrrL a s
  | .ifP n p imm => Sys2Proof.Machine.execIfP n p imm s
  | .elseP imm => Sys2Proof.Machine.execElseP imm s
  | .endif => Sys2Proof.Machine.execEndif s
  | .loop c imm => Sys2Proof.Machine.execLoop c imm s
  | .loopr d imm => Sys2Proof.Machine.execLoopr d imm s
  | .lbrk => Sys2Proof.Machine.execLbrk s
  | .regang => Sys2Proof.Machine.execRegang s
  | .exit => Sys2Proof.Machine.execExit s
  | .yield => Sys2Proof.Machine.execYield s
  | .mode imm => Sys2Proof.Machine.execMode imm s
  | .mtype t => Sys2Proof.Machine.execMtype t s
  | .mrnd r => Sys2Proof.Machine.execMrnd r s
  | .mguard g n p => Sys2Proof.Machine.execMguard g n p s
  | .mfs d sr => Sys2Proof.Machine.execMfs d sr s
  | .mts d sr => Sys2Proof.Machine.execMts d sr s
  | .trap imm => Sys2Proof.Machine.execTrap imm s
  | .rti => Sys2Proof.Machine.execRti s
  | .sysKill => Sys2Proof.Machine.execSysKill s
  | .sysAbort n => Sys2Proof.Machine.execSysAbort n s
  | .brk imm => Sys2Proof.Machine.execBrk imm s
  | .pause imm => Sys2Proof.Machine.execPause imm s
  | .add d a b => Sys2Proof.Machine.execAdd d a b s
  | .sub d a b => Sys2Proof.Machine.execSub d a b s
  | .mul d a b => Sys2Proof.Machine.execMul d a b s
  | .mulhi d a b => Sys2Proof.Machine.execMulhi d a b s
  | .mad d a b => Sys2Proof.Machine.execMad d a b s
  | .div d a b => Sys2Proof.Machine.execDiv d a b s
  | .rem d a b => Sys2Proof.Machine.execRem d a b s
  | .neg d a => Sys2Proof.Machine.execNeg d a s
  | .abs d a => Sys2Proof.Machine.execAbs d a s
  | .min d a b => Sys2Proof.Machine.execMin d a b s
  | .max d a b => Sys2Proof.Machine.execMax d a b s
  | .and d a b => Sys2Proof.Machine.execAnd d a b s
  | .or d a b => Sys2Proof.Machine.execOr d a b s
  | .xor d a b => Sys2Proof.Machine.execXor d a b s
  | .not d a => Sys2Proof.Machine.execNot d a s
  | .andn d a b => Sys2Proof.Machine.execAndn d a b s
  | .shl d a b => Sys2Proof.Machine.execShl d a b s
  | .shr d a b => Sys2Proof.Machine.execShr d a b s
  | .sar d a b => Sys2Proof.Machine.execSar d a b s
  | .rol d a b => Sys2Proof.Machine.execRol d a b s
  | .ror d a b => Sys2Proof.Machine.execRor d a b s
  | .popc d a => Sys2Proof.Machine.execPopc d a s
  | .clz d a => Sys2Proof.Machine.execClz d a s
  | .ctz d a => Sys2Proof.Machine.execCtz d a s
  | .brev d a => Sys2Proof.Machine.execBrev d a s
  | .bfx d a b => Sys2Proof.Machine.execBfx d a b s
  | .bfi d a b => Sys2Proof.Machine.execBfi d a b s
  | .mov d b => Sys2Proof.Machine.execMov d b s
  | .movi d imm => Sys2Proof.Machine.execMovi d imm s
  | .movhi d imm => Sys2Proof.Machine.execMovhi d imm s
  | .addi d imm => Sys2Proof.Machine.execAddi d imm s
  | .fadd d a b => Sys2Proof.Machine.execFadd d a b s
  | .fsub d a b => Sys2Proof.Machine.execFsub d a b s
  | .fmul d a b => Sys2Proof.Machine.execFmul d a b s
  | .fma d a b => Sys2Proof.Machine.execFma d a b s
  | .fms d a b => Sys2Proof.Machine.execFms d a b s
  | .fnma d a b => Sys2Proof.Machine.execFnma d a b s
  | .fmin d a b => Sys2Proof.Machine.execFmin d a b s
  | .fmax d a b => Sys2Proof.Machine.execFmax d a b s
  | .fabs d a => Sys2Proof.Machine.execFabs d a s
  | .fneg d a => Sys2Proof.Machine.execFneg d a s
  | .fcps d a b => Sys2Proof.Machine.execFcps d a b s
  | .fdiv d a b => Sys2Proof.Machine.execFdiv d a b s
  | .rcp d a => Sys2Proof.Machine.execRcp d a s
  | .rsq d a => Sys2Proof.Machine.execRsq d a s
  | .sqrt d a => Sys2Proof.Machine.execSqrt d a s
  | .exp2 d a => Sys2Proof.Machine.execExp2 d a s
  | .log2 d a => Sys2Proof.Machine.execLog2 d a s
  | .sinpi d a => Sys2Proof.Machine.execSinpi d a s
  | .cospi d a => Sys2Proof.Machine.execCospi d a s
  | .tanh d a => Sys2Proof.Machine.execTanh d a s
  | .frnd d a => Sys2Proof.Machine.execFrnd d a s
  | .fract d a => Sys2Proof.Machine.execFract d a s
  | .ldexp d a b => Sys2Proof.Machine.execLdexp d a b s
  | .fclass d a => Sys2Proof.Machine.execFclass d a s
  | .fdot d a b => Sys2Proof.Machine.execFdot d a b s
  | .cvt d a k t => Sys2Proof.Machine.execCvt d a k t s
  | .cvtfi d a k t => Sys2Proof.Machine.execCvtfi d a k t s
  | .cvtif d a k t => Sys2Proof.Machine.execCvtif d a k t s
  | .cvtii d a k t => Sys2Proof.Machine.execCvtii d a k t s
  | .pack d a b => Sys2Proof.Machine.execPack d a b s
  | .unpk d a h => Sys2Proof.Machine.execUnpk d a h s
  | .cmp any cc p a b => Sys2Proof.Machine.execCmp any cc p a b s
  | .fcmp any cc p a b => Sys2Proof.Machine.execFcmp any cc p a b s
  | .tst z p a b => Sys2Proof.Machine.execTst z p a b s
  | .sel d a b => Sys2Proof.Machine.execSel d a b s
  | .plog f pd pa pb => Sys2Proof.Machine.execPlog f pd pa pb s
  | .pmovGet d => Sys2Proof.Machine.execPmovGet d s
  | .pmovSet a => Sys2Proof.Machine.execPmovSet a s
  | .clamp d a b => Sys2Proof.Machine.execClamp d a b s
  | .fclamp d a b => Sys2Proof.Machine.execFclamp d a b s
  | .red d a o => Sys2Proof.Machine.execRed d a o s
  | .fred d a o => Sys2Proof.Machine.execFred d a o s
  | .scan d a x o => Sys2Proof.Machine.execScan d a x o s
  | .fscan d a x o => Sys2Proof.Machine.execFscan d a x o s
  | .vote d n p => Sys2Proof.Machine.execVote d n p s
  | .lid d => Sys2Proof.Machine.execLid d s
  | .ld8 d a o => Sys2Proof.Machine.execLd8 d a o s
  | .ld16 d a o => Sys2Proof.Machine.execLd16 d a o s
  | .ld32 d a o => Sys2Proof.Machine.execLd32 d a o s
  | .ld64 d a o => Sys2Proof.Machine.execLd64 d a o s
  | .ld128 d a o => Sys2Proof.Machine.execLd128 d a o s
  | .st8 d a o => Sys2Proof.Machine.execSt8 d a o s
  | .st16 d a o => Sys2Proof.Machine.execSt16 d a o s
  | .st32 d a o => Sys2Proof.Machine.execSt32 d a o s
  | .st64 d a o => Sys2Proof.Machine.execSt64 d a o s
  | .st128 d a o => Sys2Proof.Machine.execSt128 d a o s
  | .ldw d a o => Sys2Proof.Machine.execLdw d a o s
  | .chk imm => Sys2Proof.Machine.execChk imm s
  | .ldl d a o => Sys2Proof.Machine.execLdl d a o s
  | .stl d a o => Sys2Proof.Machine.execStl d a o s
  | .pfL1 a o => Sys2Proof.Machine.execPfL1 a o s
  | .pfL2 a o => Sys2Proof.Machine.execPfL2 a o s
  | .wb a o => Sys2Proof.Machine.execWb a o s
  | .inv a o => Sys2Proof.Machine.execInv a o s
  | .atadd d a b => Sys2Proof.Machine.execAtadd d a b s
  | .atmin d a b => Sys2Proof.Machine.execAtmin d a b s
  | .atmax d a b => Sys2Proof.Machine.execAtmax d a b s
  | .atand d a b => Sys2Proof.Machine.execAtand d a b s
  | .ator d a b => Sys2Proof.Machine.execAtor d a b s
  | .atxor d a b => Sys2Proof.Machine.execAtxor d a b s
  | .atxchg d a b => Sys2Proof.Machine.execAtxchg d a b s
  | .atcas d a b => Sys2Proof.Machine.execAtcas d a b s
  | .atqadd d a b => Sys2Proof.Machine.execAtqadd d a b s
  | .acq d a => Sys2Proof.Machine.execAcq d a s
  | .rel d a => Sys2Proof.Machine.execRel d a s
  | .bind d a b => Sys2Proof.Machine.execBind d a b s
  | .unbind d a b => Sys2Proof.Machine.execUnbind d a b s
  | .fence scope => Sys2Proof.Machine.execFence scope s
  | .bar id n => Sys2Proof.Machine.execBar id n s
  | .barvArrive id n => Sys2Proof.Machine.execBarvArrive id n s
  | .barvWait id => Sys2Proof.Machine.execBarvWait id s
  | .fetake a => Sys2Proof.Machine.execFetake a s
  | .feput a b => Sys2Proof.Machine.execFeput a b s
  | .fetest p b => Sys2Proof.Machine.execFetest p b s
  | .wshare a b => Sys2Proof.Machine.execWshare a b s
  | .acqw a b => Sys2Proof.Machine.execAcqw a b s
  | .cbar id => Sys2Proof.Machine.execCbar id s
  | .cbarArrive id => Sys2Proof.Machine.execCbarArrive id s
  | .cbarWait id => Sys2Proof.Machine.execCbarWait id s
  | .tld ch t a b => Sys2Proof.Machine.execTld ch t a b s
  | .tsto ch t a b => Sys2Proof.Machine.execTsto ch t a b s
  | .tmma c a b => Sys2Proof.Machine.execTmma c a b s
  | .ttr c a => Sys2Proof.Machine.execTtr c a s
  | .tperm c a b => Sys2Proof.Machine.execTperm c a b s
  | .tred c a => Sys2Proof.Machine.execTred c a s
  | .azero c => Sys2Proof.Machine.execAzero c s
  | .amov d e c col => Sys2Proof.Machine.execAmov d e c col s
  | .amovt t c e => Sys2Proof.Machine.execAmovt t c e s
  | .acvt c f e => Sys2Proof.Machine.execAcvt c f e s
  | .asave c => Sys2Proof.Machine.execAsave c s
  | .arest c => Sys2Proof.Machine.execArest c s
  | .tmvGet d t row => Sys2Proof.Machine.execTmvGet d t row s
  | .tmvPut d t row => Sys2Proof.Machine.execTmvPut d t row s
  | .tfill t b => Sys2Proof.Machine.execTfill t b s
  | .copy d a b => Sys2Proof.Machine.execCopy d a b s
  | .copyf ch t a b => Sys2Proof.Machine.execCopyf ch t a b s
  | .gath d a b => Sys2Proof.Machine.execGath d a b s
  | .scat d a b => Sys2Proof.Machine.execScat d a b s
  | .mcast d a b => Sys2Proof.Machine.execMcast d a b s
  | .cfill d a b => Sys2Proof.Machine.execCfill d a b s
  | .wait cls n => Sys2Proof.Machine.execWait cls n s
  | .cwp d ch => Sys2Proof.Machine.execCwp d ch s
  | .qcall d r n c => Sys2Proof.Machine.execQcall d r n c s
  | .qwait d r => Sys2Proof.Machine.execQwait d r s
  | .qpoll d c => Sys2Proof.Machine.execQpoll d c s
  | .send d c => Sys2Proof.Machine.execSend d c s
  | .recv d c => Sys2Proof.Machine.execRecv d c s
  | .chinfo d c => Sys2Proof.Machine.execChinfo d c s
  | .cluPbc a id => Sys2Proof.Machine.execCluPbc a id s
  | .cluCstat a b => Sys2Proof.Machine.execCluCstat a b s
  | .xltInv a b => Sys2Proof.Machine.execXltInv a b s
  | .xltProbe a b => Sys2Proof.Machine.execXltProbe a b s
  | .xltReplay b => Sys2Proof.Machine.execXltReplay b s
  | .xltCancel b => Sys2Proof.Machine.execXltCancel b s
  | .xltFblk a b => Sys2Proof.Machine.execXltFblk a b s
  | .xltFmove a b => Sys2Proof.Machine.execXltFmove a b s
  | .xltFunblk a b => Sys2Proof.Machine.execXltFunblk a b s
  | .ckpPreg a b => Sys2Proof.Machine.execCkpPreg a b s
  | .ckpGreg a b => Sys2Proof.Machine.execCkpGreg a b s
  | .ckpUnreg a b => Sys2Proof.Machine.execCkpUnreg a b s
  | .ckpGlaunch a b => Sys2Proof.Machine.execCkpGlaunch a b s
  | .ckpGstat a b => Sys2Proof.Machine.execCkpGstat a b s
  | .ckpTake a b => Sys2Proof.Machine.execCkpTake a b s
  | .ckpRoll a b => Sys2Proof.Machine.execCkpRoll a b s
  | .ckpDrain a b => Sys2Proof.Machine.execCkpDrain a b s
  | .ckpRestore a b => Sys2Proof.Machine.execCkpRestore a b s
  | .ckpEpnew b => Sys2Proof.Machine.execCkpEpnew b s
  | .ckpDeadline a b => Sys2Proof.Machine.execCkpDeadline a b s
  | .ckpBudget a b => Sys2Proof.Machine.execCkpBudget a b s
  | .dbgAttach a b => Sys2Proof.Machine.execDbgAttach a b s
  | .dbgDetach b => Sys2Proof.Machine.execDbgDetach b s
  | .dbgWpset w b => Sys2Proof.Machine.execDbgWpset w b s
  | .dbgStop b => Sys2Proof.Machine.execDbgStop b s
  | .dbgGo b => Sys2Proof.Machine.execDbgGo b s
  | .dbgStep b => Sys2Proof.Machine.execDbgStep b s
  | .dbgRd a b => Sys2Proof.Machine.execDbgRd a b s
  | .dbgWr a b => Sys2Proof.Machine.execDbgWr a b s
  | .dbgWait b => Sys2Proof.Machine.execDbgWait b s
  | .dbgFreeze b => Sys2Proof.Machine.execDbgFreeze b s
  | .dbgThaw b => Sys2Proof.Machine.execDbgThaw b s
  | .dbgWhy a b => Sys2Proof.Machine.execDbgWhy a b s
  | .dbgVwpset w b => Sys2Proof.Machine.execDbgVwpset w b s
  | .modgShare a b => Sys2Proof.Machine.execModgShare a b s
  | .modgUnshare a b => Sys2Proof.Machine.execModgUnshare a b s
  | .modgFork a b => Sys2Proof.Machine.execModgFork a b s
  | .modgKey a b => Sys2Proof.Machine.execModgKey a b s
  | .modgFassign a b => Sys2Proof.Machine.execModgFassign a b s
  | .modgMigr a b => Sys2Proof.Machine.execModgMigr a b s
  | .modgMdone a b => Sys2Proof.Machine.execModgMdone a b s
  | .modgHeal a b => Sys2Proof.Machine.execModgHeal a b s
  | .modgSopen a b => Sys2Proof.Machine.execModgSopen a b s
  | .modgSclose a b => Sys2Proof.Machine.execModgSclose a b s
  | .pauseExpiry => Sys2Proof.Machine.execPauseExpiry s
  | .resultWrite => Sys2Proof.Machine.execResultWrite s
  | .qcallAppend => Sys2Proof.Machine.execQcallAppend s
  | .sendAppend => Sys2Proof.Machine.execSendAppend s
  | .producerDelivery => Sys2Proof.Machine.execProducerDelivery s
  | .returnRecord => Sys2Proof.Machine.execReturnRecord s
  | .unitFaultTrap => Sys2Proof.Machine.execUnitFaultTrap s
  | .trapEntry => Sys2Proof.Machine.execTrapEntry s
  | .teamLaunch => Sys2Proof.Machine.execTeamLaunch s
  | .teamExit => Sys2Proof.Machine.execTeamExit s
  | .commandFire => Sys2Proof.Machine.execCommandFire s
  | .commandRetire => Sys2Proof.Machine.execCommandRetire s
  | .copyDelivery => Sys2Proof.Machine.execCopyDelivery s
  | .followOnPush => Sys2Proof.Machine.execFollowOnPush s
  | .mxReset => Sys2Proof.Machine.execMxReset s
  | .crewLaunch => Sys2Proof.Machine.execCrewLaunch s
  | .mcastFillLand => Sys2Proof.Machine.execMcastFillLand s
  | .drainSave => Sys2Proof.Machine.execDrainSave s
  | .drainDeadline => Sys2Proof.Machine.execDrainDeadline s
  | .timeSliceEnd => Sys2Proof.Machine.execTimeSliceEnd s
  | .accessAtHome => Sys2Proof.Machine.execAccessAtHome s
  | .leaseRenewal => Sys2Proof.Machine.execLeaseRenewal s
  | .confirmationRequest => Sys2Proof.Machine.execConfirmationRequest s
  | .watchConfirm => Sys2Proof.Machine.execWatchConfirm s
  | .watchStrike => Sys2Proof.Machine.execWatchStrike s
  | .watchTimeout => Sys2Proof.Machine.execWatchTimeout s
  | .versionReport => Sys2Proof.Machine.execVersionReport s
  | .stopRecords => Sys2Proof.Machine.execStopRecords s
  | .stepWindowClose => Sys2Proof.Machine.execStepWindowClose s
  | .recordReserve => Sys2Proof.Machine.execRecordReserve s
  | .recordCommit => Sys2Proof.Machine.execRecordCommit s
  | .instanceStart => Sys2Proof.Machine.execInstanceStart s
  | .phaseComplete => Sys2Proof.Machine.execPhaseComplete s
  | .budgetWindow => Sys2Proof.Machine.execBudgetWindow s
  | .dieTemperature => Sys2Proof.Machine.execDieTemperature s
  | .thermtrip => Sys2Proof.Machine.execThermtrip s
  | .cutAttempt => Sys2Proof.Machine.execCutAttempt s
  | .cut => Sys2Proof.Machine.execCut s
  | .cutWaitExpiry => Sys2Proof.Machine.execCutWaitExpiry s
  | .cutRetry => Sys2Proof.Machine.execCutRetry s
  | .rollback => Sys2Proof.Machine.execRollback s
  | .vrOpen => Sys2Proof.Machine.execVrOpen s
  | .vrPrim => Sys2Proof.Machine.execVrPrim s
  | .vrDone => Sys2Proof.Machine.execVrDone s
  | .vrWaitf => Sys2Proof.Machine.execVrWaitf s
  | .vrSlotFinal => Sys2Proof.Machine.execVrSlotFinal s
  | .buOpenf => Sys2Proof.Machine.execBuOpenf s
  | .buBin => Sys2Proof.Machine.execBuBin s
  | .buClose => Sys2Proof.Machine.execBuClose s
  | .bluOpen => Sys2Proof.Machine.execBluOpen s
  | .bluFrag => Sys2Proof.Machine.execBluFrag s
  | .bluDone => Sys2Proof.Machine.execBluDone s
  | .bluWaitf => Sys2Proof.Machine.execBluWaitf s
  | .bluCommit => Sys2Proof.Machine.execBluCommit s
  | .tfuSample => Sys2Proof.Machine.execTfuSample s
  | .ryuTrace => Sys2Proof.Machine.execRyuTrace s
  | .bvoStart => Sys2Proof.Machine.execBvoStart s
  | .bvoStop => Sys2Proof.Machine.execBvoStop s
  | .bvoSubtreeReplace => Sys2Proof.Machine.execBvoSubtreeReplace s
  | .fenOpens => Sys2Proof.Machine.execFenOpens s
  | .fenFrame => Sys2Proof.Machine.execFenFrame s
  | .fenRelease => Sys2Proof.Machine.execFenRelease s
  | .fenCloses => Sys2Proof.Machine.execFenCloses s
  | .unitReset => Sys2Proof.Machine.execUnitReset s
  | .faultRecordWrite => Sys2Proof.Machine.execFaultRecordWrite s
  | .gangUnpark => Sys2Proof.Machine.execGangUnpark s
  | .hang => Sys2Proof.Machine.execHang s
  | .uncorrectableError => Sys2Proof.Machine.execUncorrectableError s
  | .correctableError => Sys2Proof.Machine.execCorrectableError s
  | .pcmdCommit => Sys2Proof.Machine.execPcmdCommit s
  | .pcmdRelease => Sys2Proof.Machine.execPcmdRelease s
  | .doorbell => Sys2Proof.Machine.execDoorbell s
  | .attcmdGo => Sys2Proof.Machine.execAttcmdGo s
  | .attestationDone => Sys2Proof.Machine.execAttestationDone s
  | .dbgcmdFreeze => Sys2Proof.Machine.execDbgcmdFreeze s
  | .dbgcmdThaw => Sys2Proof.Machine.execDbgcmdThaw s
  | .dbgdataRead => Sys2Proof.Machine.execDbgdataRead s
  | .dbgdataWrite => Sys2Proof.Machine.execDbgdataWrite s
  | .errCounterWrite => Sys2Proof.Machine.execErrCounterWrite s
  | .mgmtRegisterWrite => Sys2Proof.Machine.execMgmtRegisterWrite s
  | .priResponse => Sys2Proof.Machine.execPriResponse s
  | .atsTranslationResponse => Sys2Proof.Machine.execAtsTranslationResponse s
  | .atsInvalidation => Sys2Proof.Machine.execAtsInvalidation s
  | .moduleResetRelease => Sys2Proof.Machine.execModuleResetRelease s
  | .flitCheckFail => Sys2Proof.Machine.execFlitCheckFail s
  | .portDown => Sys2Proof.Machine.execPortDown s
  | .collectiveAllreduce => Sys2Proof.Machine.execCollectiveAllreduce s
  | .collectiveBroadcast => Sys2Proof.Machine.execCollectiveBroadcast s
  | .collectiveResult => Sys2Proof.Machine.execCollectiveResult s
  | .illegalOpcode => Sys2Proof.Machine.execIllegalOpcode s
  | .sequenceFetch => Sys2Proof.Machine.execSequenceFetch s
  | .hostPostedWrite => Sys2Proof.Machine.execHostPostedWrite s
  | .moduleReset => Sys2Proof.Machine.execModuleReset s
  | .moduleLeavesArmada => Sys2Proof.Machine.execModuleLeavesArmada s
  | .portRetrained => Sys2Proof.Machine.execPortRetrained s
  | .routesRecomputed => Sys2Proof.Machine.execRoutesRecomputed s

end Sys2Proof.Machine
end

