-- ==== Sys2Proof/Machine/Order.lean ====
section
/-! DEFINITION. What holds an event on its way back: an older event that it follows (R137, R142, R208, R317), what it
needs and is not there (R97, R159, R208, R210), and a freeze of the place where it happens (R331). -/

namespace Sys2Proof.Machine

/-- A copy that a pending result writes is empty with a pending producer, so that the write waits (R34). -/
def CoreSt.blocks (c : CoreSt) (x : Gang) (m : LatMark) : Bool := m.writes.any fun e => (c.copy x e.1).isEmpty

/-- Of two pending results of gangs x and y of a core the first is written before the second: its result cycle is
earlier (R105), or one gang's groups write one uniform register in the same cycle, and the value of the group with the
lower slice stays (R104). -/
def LatMark.before (x : Gang) (m : LatMark) (y : Gang) (k : LatMark) : Bool :=
  decide (m.due < k.due) ||
    (decide (x.gid = y.gid) && decide (m.due = k.due) && decide (k.lead < m.lead) &&
      m.writes.any (fun e => k.writes.any (fun f => decide (e.1 = f.1))))

/-- A pending result of a gang is not written yet: its result cycle has not come, its write waits, or another result of
the core is written before it (R34, R104, R105). -/
def State.resultWaits (s : State) (g : GangRef) (n : Nat) : Bool :=
  let c := s.core g.core
  match c.gang? g with
  | none => false
  | some x =>
    match x.latency.find? (fun m => decide (m.id = n)) with
    | none => false
    | some m =>
      decide ((s.die (dieOf g.core)).cyc < m.due) || c.blocks x m ||
        c.gangs.any fun e => e.2.latency.any fun k => k.before e.2 x m && !c.blocks e.2 k

/-- What an event waits for is not there: a message for a `recv` whose copies still wait, room for a `send` or `qcall`
behind which no older one of the gang waits (R159, R208), a sequence at which a unit fault can be taken (R210), the
completion of the older sequences of a gang that traps (R97). -/
def State.notReady (s : State) (e : Event) : Bool :=
  match e with
  | .channelDelivery g n ep d =>
    (match s.gang? g with
     | some x => (s.core g.core).awaited g x d
     | none => false) &&
    (match s.endpoint? n ep with
     | some p => decide (p.msgs = [])
     | none => true)
  | .sendAppend g k | .qcallAppend g k =>
    match s.gang? g with
    | none => false
    | some x =>
      match x.held.find? (fun h => decide (h.cur.entry = k)) with
      | none => false
      | some h =>
        let n := (s.core g.core).sessionOf x
        (s.crewOf g.core x).any (fun c => decide (c.drain ≠ .running)) ||
        (x.held.takeWhile (fun i => decide (i.cur.entry ≠ k))).any (fun i => decide (i.ep = h.ep)) ||
        (match s.port n (dieOf g.core) h.ep with
         | .channel p => decide (8 ≤ p.msgs.length)
         | .queue die depth => decide (s.freeCalls n die h.ep depth = 0)
         | .nothing => false)
  | .unitFaultTrap g =>
    match s.gang? g with
    | none => false
    | some x => x.owesTrap && (x.trap.tcause.getLsbD 15 || x.raised.isSome || x.unitTrapGroup.isNone)
  | .teamExit k t => (s.core k).teamEnded t && ((s.core k).teamCmds t).any (fun c => !c.done)
  | .trapEntry g =>
    match s.gang? g with
    | none => false
    | some x => x.raised.any (fun r => !s.raisedFatal g x r && !s.settled g x (~~~r.slices))
  | .resultWrite g n => s.resultWaits g n
  | _ => false

/-- The gang at which an event happens. -/
def eventGang (e : Event) : Option GangRef :=
  match e with
  | .pauseExpiry g _ | .resultWrite g _ | .qcallAppend g _ | .sendAppend g _ | .channelDelivery g _ _ _ | .unitFaultTrap g
  | .trapEntry g | .watchConfirm g _ | .watchStrike g _ | .watchTimeout g _ | .versionReport g _ | .gangUnpark g
  | .hang g _ | .sequenceFetch g _ => some g
  | .producerDelivery d => some d.gang
  | .returnRecord r => some r.call.gang
  | _ => none

/-- The core at which an event happens. -/
def eventCore (e : Event) : Option Nat :=
  match e with
  | .teamExit k _ | .commandFire k _ _ | .commandRetire k _ _ | .copyDelivery k _ | .followOnPush k _ | .mxReset k
  | .mcastFillLand k _ _ => some k
  | e => (eventGang e).map (·.core)

/-- An event happens in a place that is frozen: it waits for the thaw (R331). -/
def State.iced (s : State) (e : Event) : Bool :=
  (eventCore e).any s.coreFrozen ||
  (eventUnit e).any (fun u => (s.die u.1).frozen || u.2.any (fun k => decide (k ∈ (s.die u.1).frozenClusters))) ||
  (match e with
   | .accessAtHome a => (s.die (dieOf a.gang.core)).frozen || (accessPlaces a).any (fun p => s.placeFrozen p.1)
   | .teamLaunch x | .crewLaunch x => x.cores.any s.coreFrozen
   | _ => false)

/-- A call of the BU waits while a stalled one resolves, and a CLOSE for the stalled BINs of its frame (R283, R292); a
FRAME waits for a stalled one of its stream, whose units enter the ring in stream order (R303). -/
def State.resolveWait (s : State) (e : Event) : Bool :=
  match e with
  | .buOpenf x | .buBin x | .buClose x =>
    (s.die x.die).stuck.any fun p =>
      decide (p.2.ep = x.ep) &&
        (decide (callField p.2 0 4 = 3) ||
          (decide (callField p.2 0 4 = 2) &&
            ((Cells.find? (s.die x.die).bu (callField p.2 4 3)).any (·.resolving) ||
              (decide (callField x 0 4 = 3) && decide (callField p.2 4 3 = callField x 4 3)))))
  | .fenFrame x | .fenCloses x =>
    (s.die x.die).stuck.any fun p =>
      decide (p.2.ep = x.ep) && decide (callField p.2 0 4 = 2) && decide (callField p.2 4 5 = callField x 4 5) &&
        decide (p.2.session = x.session)
  | _ => false

/-- The function of the host whose write or read an event is (R364, R372). -/
def hostFn? (e : Event) : Option Nat :=
  match e with
  | .mgmtRegisterWrite _ _ r | .doorbell _ _ r | .pcmdCommit _ r | .pcmdRelease _ r => if r.host then some r.fn else none
  | .attcmdGo fn _ | .hostPostedWrite fn _ _ | .dbgdataRead fn _ => some fn
  | .dbgdataWrite _ | .errCounterWrite .. => some 0
  | _ => none

/-- Some of these events is an access of the same function of the host: its accesses are performed in the order in which
PCIe delivers them (R364), a doorbell after its posted writes (R372). -/
def sameFn (l : List Event) (e : Event) : Bool := (hostFn? e).any (fun n => l.any (fun f => decide (hostFn? f = some n)))

/-- An event stands in a block queue and its turn has not come (R323, R324). -/
def State.queuedBack (s : State) (e : Event) : Bool :=
  s.blocked.any (fun b => decide (e ∈ b.queue) && !b.turn e)

/-- Event k of the agenda waits: for an older event, for what it needs, for its turn in a block queue, or for a thaw. -/
def State.heldBack (s : State) (k : Nat) (e : Event) : Bool :=
  s.notReady e || s.queuedBack e || s.iced e || s.resolveWait e || sameFn (s.agenda.take k) e || (s.agenda.take k).any (fun f => precedes f e)

end Sys2Proof.Machine
end

