-- ==== Sys2Proof/Machine/Step.lean ====
section
/-! DEFINITION. One step of the module: what the turn names happens (log 2). -/

namespace Sys2Proof.Machine

/-- The state in which a step happens: the count of steps has advanced, and what moves after it is
chosen. Log 2 (DESIGN CHOICE). -/
def State.begin (s : State) : State :=
  { s.serveQueues with tick := s.tick + 1, turn := Config.nextTurn s.tick }

/-- An event happens: the instruction that stands for its row of the table, with the event at hand. Log 8 (DEDUCED). -/
def State.happen (s : State) (e : Event) : Host.Outcome State Fault Refusal :=
  exec e.row { s with ev := e }

/-- One step (log 2). A sequence that issues is fetched, decoded and executed within one step; an
event of the agenda happens unless an older one holds it back. -/
def step (s : State) : Host.Outcome State Fault Refusal :=
  if !s.powered then .fault .noPower
  else
    let b := s.begin
    match s.turn with
    | .idle => .next b
    | .event k =>
      match b.agenda[k]? with
      | none => .next b
      | some e => if b.heldBack k e then .next b else ({ b with agenda := b.agenda.eraseIdx k } : State).happen e
    | .issue core =>
      match b.choose core with
      | ⟨some i, s1⟩ => exec i s1
      | ⟨none, s1⟩ => .next s1
    | .retest core slot e => .next (b.retest core slot e)
    | .cycles die n => .next (b.pass die n)
    | .input e =>
      if !fromOutside e then .next b else if sameFn b.agenda e then .next (b.post e) else b.happen e

/-- The state with one instruction of `nbits` bits stored where the next step fetches (log 1). -/
def State.withFetchWord (s : State) (nbits w : Nat) : State :=
  s.loadCode (bytesOf (w % 2 ^ nbits) 4)

end Sys2Proof.Machine
end

