-- ==== Sys2Proof/Safety.lean ====
section
/-! DEFINITION. What a safe run is: the terms claims about runs are stated in. -/

namespace Sys2Proof.Machine

/-- A run of `n` steps from `s` is safe: it is never refused, and it stops only where the module has no power. -/
def SafeRun : Nat → State → Prop
  | 0, _ => True
  | n + 1, s =>
    match step s with
    | .next t => SafeRun n t
    | .fault .noPower => s.powered = false
    | .refused _ => False

/-- A state every run from which is safe. -/
def Safe (s : State) : Prop := ∀ n, SafeRun n s

/-- The state in which the own effect of a sequence begins: a routed read of a lane of a slice that is not live has
set GSTAT.RX (R27), and the rows of the store that it will write are in the undo log (R276). -/
def State.issued (s : State) (v : View) (i : Instr) (rx : Bool) : State :=
  s.takesEffect v (shape i v.mode v.cur.lit.isSome) rx

/-- The present sequence issues with instruction `i`: its gang is resident, and it passes every check of R72 up to
those that the instruction's own description states. -/
def State.Issues (s : State) (i : Instr) (v : View) (rx : Bool) : Prop :=
  s.view? = some v ∧ checkSeq v i (shape i v.mode v.cur.lit.isSome) = .go rx

/-- From `s` to `t` nothing has changed but gang `g`, what is on its way, and the rows that the undo log names: every
byte of memory reads as before, and so does every register word, accumulator and queue of every core. -/
structure State.OnlyGang (s t : State) (g : GangRef) : Prop where
  rest : t = { s with cores := t.cores, agenda := t.agenda, sess := t.sess }
  memory : ∀ a, Cells.get 0 t.mem a = Cells.get 0 s.mem a
  cores : ∀ c, t.core c = { s.core c with gangs := (t.core c).gangs }
  gangs : ∀ h, h ≠ g → t.gang? h = s.gang? h
  undo : ∀ n, t.ses n = { s.ses n with rows := (t.ses n).rows }

/-- Gang `x` becomes `y` by completing a sequence without a transfer (R21): each live slice of the issuing group stands
at the next sequence, or at the start of the loop whose end it has reached (R90), and the other slices are as they
were; the results `m` are pending until their result cycle (R105); the issue groups may change (R23); predicates,
counters, the trap record and everything else are as they were. -/
structure Gang.Completes (x y : Gang) (cur : IssueCtx) (m : List LatMark) (rx : Bool) : Prop where
  slices : ∀ n, n < 8 → y.slice n =
    if cur.slices.getLsbD n && x.live n then { (x.slice n).completed cur.addr cur.next with stop := .running }
    else x.slice n
  pending : y.latency = x.latency ++ m
  routed : y.rx = (x.rx || rx)
  rest : y = { x with
    slices := y.slices, split := y.split, single := y.single, groups := y.groups, latency := y.latency, rx := y.rx }

/-- The results of the present sequence as its gang keeps them until their result cycle, a number of cycles after
its issue (R105). -/
def State.marks (s : State) (v : View) (sh : Shape) (ws : List (Nat × Word)) (ps : List (Nat × LaneSet × LaneSet)) :
    List LatMark :=
  if ws = [] ∧ ps = [] then []
  else [⟨v.gang.seqs, (s.die (dieOf v.cur.gang.core)).cyc + v.cycles sh, v.gang.lead v.cur.slices, v.cur.slices, ws, ps⟩]

/-- From `s` to `t` the present sequence has completed without a transfer, and the register words `ws` and predicates
`ps` are its results, which are written at their result cycle (R105). Nothing else has changed. -/
structure State.Delivers (s t : State) (v : View) (sh : Shape) (rx : Bool) (ws : List (Nat × Word))
    (ps : List (Nat × LaneSet × LaneSet)) : Prop where
  frame : s.OnlyGang t s.cur.gang
  gang : ∃ y, t.gang? s.cur.gang = some y ∧ v.gang.Completes y v.cur (s.marks v sh ws ps) rx
  written : t.agenda = s.agenda ++ (if ws = [] ∧ ps = [] then [] else [.resultWrite s.cur.gang v.gang.seqs])

/-- Wherever a sequence with instruction `i` issues, it completes with the results `ws` and `ps` and has no other
effect. -/
def Completes (i : Instr) (ws : View → Shape → List (Nat × Word))
    (ps : View → Shape → List (Nat × LaneSet × LaneSet)) : Prop :=
  ∀ s v rx, s.Issues i v rx → ∃ t, exec i s = .next t ∧
    s.Delivers t v (shape i v.mode v.cur.lit.isSome) rx (ws v (shape i v.mode v.cur.lit.isSome))
      (ps v (shape i v.mode v.cur.lit.isSome))

/-- Wherever a sequence with instruction `i` issues, it completes, and its only results are the values `r l` that each
active lane l writes to destination `d`, `n` registers wide: `P` holds of MODE, the values A(l), B(l) and C(l) that the
lane consumes, and `r l` (R103). A uniform `d` is written once if a lane is active (R104). -/
def LaneWise (i : Instr) (d : Reg) (n : ModeWord → Nat)
    (P : ModeWord → DWord → DWord → DWord → DWord → Prop) : Prop :=
  ∀ s v rx, s.Issues i v rx → ∃ t r, exec i s = .next t ∧
    s.Delivers t v (shape i v.mode v.cur.lit.isSome) rx (v.laneResults d (n v.mode) r) [] ∧
    ∀ l, P v.mode (v.opA (shape i v.mode v.cur.lit.isSome) l) (v.opB (shape i v.mode v.cur.lit.isSome) l)
      (v.opC (shape i v.mode v.cur.lit.isSome) l) (r l)

/-- Wherever a sequence with instruction `i` issues, it completes, and its only result is predicate `p` in its active
lanes: in lane l it becomes true exactly if `P` holds. -/
def PredWise (i : Instr) (p : BitVec 3) (P : View → Shape → Nat → Prop) : Prop :=
  ∀ s v rx, s.Issues i v rx → ∃ t m, exec i s = .next t ∧
    s.Delivers t v (shape i v.mode v.cur.lit.isSome) rx [] (if v.act = 0 then [] else [(p.toNat, v.act, m)]) ∧
    ∀ l, l < 32 → (m.getLsbD l = true ↔ P v (shape i v.mode v.cur.lit.isSome) l)

/-- Gang `x` becomes `y` by each live slice of its issuing group changing by `f`, and by nothing else but how its slices
form groups (R23). -/
structure Gang.Moves (x y : Gang) (g : SliceSet) (f : Nat → Slice → Slice) (rx : Bool) : Prop where
  slices : ∀ n, n < 8 → y.slice n = if g.getLsbD n && x.live n then f n (x.slice n) else x.slice n
  routed : y.rx = (x.rx || rx)
  rest : y = { x with slices := y.slices, split := y.split, single := y.single, groups := y.groups, rx := y.rx }

/-- From `s` to `t` each slice of the present sequence has changed by `f`, and nothing else has changed. -/
structure State.Moves (s t : State) (v : View) (rx : Bool) (f : Nat → Slice → Slice) : Prop where
  frame : s.OnlyGang t s.cur.gang
  gang : ∃ y, t.gang? s.cur.gang = some y ∧ v.gang.Moves y v.cur.slices f rx
  agenda : t.agenda = s.agenda

/-- Wherever a sequence with instruction `i` issues and `ok` holds, it completes: each slice of the issuing group changes
by `f`, and nothing else does. -/
def SliceWise (i : Instr) (ok : View → Shape → Prop) (f : View → Shape → Nat → Slice → Slice) : Prop :=
  ∀ s v rx, s.Issues i v rx → ok v (shape i v.mode v.cur.lit.isSome) →
    ∃ t, exec i s = .next t ∧ s.Moves t v rx (f v (shape i v.mode v.cur.lit.isSome))

/-- Each slice of the group stands at its next sequence (R21, R71, R90). -/
def advance (v : View) (sl : Slice) : Slice := { sl.completed v.cur.addr v.cur.next with stop := .running }

/-- A slice takes a branch to `t`: its loop stack loses the entries that do not hold the target (R22). -/
def take (t : PC) (sl : Slice) : Slice := { sl with pc := t, lstack := popOutside t sl.lstack, stop := .running }


/-- Every address of the requests of a sequence is a multiple of `align` (R133), lies where R132 lets it, and resolves
to a place: `os` are the accesses in the order of their lanes (those of 16 bytes as two halves, R136) and `u` is the
state once they are translated. The undo log has room for what they write (R276), beside what the sequence itself
has it hold. -/
structure State.Reaches (s : State) (v : View) (i : Instr) (rx : Bool) (size align : Nat) (rs : List LaneReq) (os : List Resolved)
    (u : State) : Prop where
  aligned : ∀ r ∈ rs, r.va.toNat % align = 0
  placed : ∃ t, v.core.team? v.gang.team = some t ∧
    (∀ r ∈ rs, isAperture r.va = true → ∃ p, s.aperture v.cur.gang.core t r.va.toNat size = some p) ∧
    s.resolve v t (if size = 16 then 8 else size) (rs.flatMap (halves size)) = (os, u)
  places : ∀ o ∈ os, ∃ p, o.out = .ok p
  room : (u.issued v i rx).logFits (v.core.sessionOf v.gang) (os.filterMap fun o => match o.out with
    | .ok p => if kindStores o.req.kind then some p else none
    | _ => none) = true

/-- The accesses of a sequence have set out to their homes in the order of their lanes, their destinations are empty
until the values come (R34, R135), and a data watchpoint that they match has triggered a stop (R328). -/
def State.sent (u : State) (v : View) (size : Nat) (rs : List LaneReq) (os : List Resolved) : State :=
  os.foldl (fun w o => match o.out with
      | .ok p => w.sendAccess (accessOf v o.req p (if size = 16 then 8 else size))
      | _ => w)
    ((u.watchVirtual v.cur.gang v.cur.addr (match rs with | r :: _ => kindBit r.kind | [] => 2) (rs.map (·.va))
      size).expect (rs.flatMap fun r => kindDest r.kind))

/-- Wherever a sequence with instruction `i` issues and its requests reach their places, the accesses set out and the
sequence completes. -/
def Sends (i : Instr) (size align : Nat) (rs : View → Shape → List LaneReq) : Prop :=
  ∀ s v rx os u, s.Issues i v rx →
    s.Reaches v i rx size align (rs v (shape i v.mode v.cur.lit.isSome)) os u →
    exec i s = .next ((u.issued v i rx).sent v size (rs v (shape i v.mode v.cur.lit.isSome)) os).retire

/-- Where an address of the requests of instruction `i` is no multiple of `align`, it traps MISALIGNED with the address
of the lowest such lane, before any lane accesses memory. -/
def TrapsMisaligned (i : Instr) (align : Nat) (rs : View → Shape → List LaneReq) : Prop :=
  ∀ s v rx r q, s.Issues i v rx →
    (rs v (shape i v.mode v.cur.lit.isSome)).filter (fun r => decide (r.va.toNat % align ≠ 0)) = r :: q →
    exec i s = .next (s.trapNow 0x20 0 (lanesIn (r :: q)) r.va)

/-- Where an address of the requests of instruction `i` names an aperture and lies outside its range, it traps
OPERAND_BOUNDS, before any lane accesses memory. -/
def TrapsBounds (i : Instr) (size align : Nat) (rs : View → Shape → List LaneReq) : Prop :=
  ∀ s v rx t r q, s.Issues i v rx → v.core.team? v.gang.team = some t →
    (∀ r ∈ rs v (shape i v.mode v.cur.lit.isSome), r.va.toNat % align = 0) →
    (rs v (shape i v.mode v.cur.lit.isSome)).filter (fun r => isAperture r.va &&
      (s.aperture v.cur.gang.core t r.va.toNat size).isNone) = r :: q →
    exec i s = .next (s.trapNow 0x40 0 (lanesIn (r :: q)) r.va)

/-- The request that lane l makes: its lane, its address and what it does there. A uniform address or datum makes one
request for all active lanes (R135). -/
def View.requests (v : View) (one : Bool) (ea : Nat → VAddr) (k : Nat → AccKind) : List LaneReq :=
  if one then (if v.act = 0 then [] else [⟨32, v.act, ea 0, k 32⟩])
  else (lanesOf v.act).map fun l => ⟨l, BitVec.ofNat 32 (2 ^ l), ea l, k l⟩

/-- EA of R131: the pair that lane l reads in slot A, and the signed offset scaled by the size, modulo 2^57. -/
def View.ea (v : View) (sh : Shape) (off : BitVec 8) (size l : Nat) : VAddr :=
  BitVec.ofInt 57 ((v.opA sh l).toNat + off.toInt * size)

/-- The requests of a load of `size` bytes into `n` registers, and of a store (R134, R135). -/
def View.loads (v : View) (sh : Shape) (d a : Reg) (off : BitVec 8) (size n : Nat) : List LaneReq :=
  v.requests (isUniform a) (v.ea sh off size) fun l =>
    .load (if l = 32 then v.dest d n else [(l, (List.range n).map fun i => (d.toNat + i) * 32 + l)])

def View.stores (v : View) (sh : Shape) (d : Reg) (off : BitVec 8) (size : Nat) : List LaneReq :=
  v.requests (isUniform d) (v.ea sh off size) fun l =>
    .store ((bytesOfWords (v.slotWords sh.c v.cur.routeC (if l = 32 then 0 else l))).take size)

end Sys2Proof.Machine
end

