-- ==== Sys2Proof/Certificates/Slice0/Obligations.lean ====
section
/-! DEFINITION. The statements about the model, one definition for each, with the terms they share. Terms of the
model's own are in Safety.lean. -/

namespace Sys2Proof.Machine

/-- Pattern `r` of `w` bits stands for the number `x` in an integer type (R42): reduced modulo 2^w, or under MODE.SAT
the number of the type nearest to it. -/
def InType (sat signed : Bool) (w : Nat) (x : Int) (r : Nat) : Prop :=
  r < 2 ^ w ∧
    if sat then intVal signed w r = max (intMin signed w) (min (intMax signed w) x)
    else (r : Int) % ((2 ^ w : Nat) : Int) = x % ((2 ^ w : Nat) : Int)

/-- The number of element k of an operand under the type of MODE: signed under the I types (R41, R42). -/
def elemInt (m : ModeWord) (x : DWord) (k : Nat) : Int :=
  intVal (signedType (modeType m)) (elemWidth (modeType m)) (elem (modeType m) x k)

/-- Every element of `r` holds, in its type, what `f` gives of the same elements of three operands. -/
def IntElems (f : Int → Int → Int → Int) (m : ModeWord) (a b c r : DWord) : Prop :=
  ∀ k, k < elemCount (modeType m) →
    InType (modeSat m) (signedType (modeType m)) (elemWidth (modeType m))
      (f (elemInt m a k) (elemInt m b k) (elemInt m c k)) (elem (modeType m) r k)

/-- Every element of `r` is the pattern that `f` of the element width, MODE and the same elements of A, B and C is. -/
def BitElems (f : Nat → Nat → Nat → Nat → Nat → Prop) (m : ModeWord) (a b c r : DWord) : Prop :=
  ∀ k, k < elemCount (modeType m) →
    f (elemWidth (modeType m)) (elem (modeType m) a k) (elem (modeType m) b k) (elem (modeType m) c k)
      (elem (modeType m) r k)

/-- The value of element k of an operand under the float type of MODE (R43). -/
def elemFlt (m : ModeWord) (x : DWord) (k : Nat) : FVal := (fmtOf (modeType m)).value (elem (modeType m) x k)

/-- Every element of `r` is the exact value `f`, of the same elements of three operands, rounded once in MODE.RND to
the format of MODE.TYPE (R44, R45). -/
def FltElems (f : Nat → FVal → FVal → FVal → FVal) (m : ModeWord) (a b c r : DWord) : Prop :=
  ∀ k, k < elemCount (modeType m) →
    elem (modeType m) r k = (fmtOf (modeType m)).round (modeRnd m)
      (f (modeRnd m) (elemFlt m a k) (elemFlt m b k) (elemFlt m c k))

/-- Every element of `r` is the pattern that `f` of the format, MODE.RND and the same elements gives. -/
def FmtElems (f : Fmt → Nat → Nat → Nat → Nat → Nat) (m : ModeWord) (a b c r : DWord) : Prop :=
  ∀ k, k < elemCount (modeType m) →
    elem (modeType m) r k = f (fmtOf (modeType m)) (modeRnd m) (elem (modeType m) a k) (elem (modeType m) b k)
      (elem (modeType m) c k)

/-- The low word of `r` is `f` of the low words of A, B and C; the type of MODE does not matter. -/
def WordOp (f : Word → Word → Word → Word) (_ : ModeWord) (a b c r : DWord) : Prop :=
  r.setWidth 32 = f (a.setWidth 32) (b.setWidth 32) (c.setWidth 32)

/-- The registers of a result under the type of MODE (R29). -/
def typeRegs (m : ModeWord) : Nat := typeWords (modeType m)

end Sys2Proof.Machine

open Sys2Proof Sys2Proof.Machine

/-! Integer arithmetic, shifts, bit fields, logic and moves. -/

/-- From R106, R108 and R112: in every state in which one of them issues, the integer instructions complete, and every
element of the result holds its exact value in its type, wrapped or clamped by R42; nothing else changes. -/
def Obligations.IntegerArithmeticCompletes : Prop :=
  ∀ (d a b : Reg) (i : BitVec 16),
    LaneWise (.add d a b) d typeRegs (IntElems fun x y _ => x + y) ∧
    LaneWise (.sub d a b) d typeRegs (IntElems fun x y _ => x - y) ∧
    LaneWise (.mul d a b) d typeRegs (IntElems fun x y _ => x * y) ∧
    LaneWise (.mulhi d a b) d typeRegs (fun m => IntElems
      (fun x y _ => (x * y).fdiv ((2 ^ elemWidth (modeType m) : Nat) : Int)) m) ∧
    LaneWise (.mad d a b) d typeRegs (IntElems fun x y z => x * y + z) ∧
    LaneWise (.min d a b) d typeRegs (IntElems fun x y _ => if x ≤ y then x else y) ∧
    LaneWise (.max d a b) d typeRegs (IntElems fun x y _ => if x ≤ y then y else x) ∧
    LaneWise (.neg d a) d typeRegs (IntElems fun x _ _ => -x) ∧
    LaneWise (.abs d a) d typeRegs (IntElems fun x _ _ => if 0 ≤ x then x else -x) ∧
    LaneWise (.addi d i) d typeRegs (IntElems fun _ _ z => z + i.toInt)

/-- From R107: `div` and `rem` complete. The quotient is truncated toward zero and wraps or clamps, the remainder takes the
sign of A, and a zero divisor gives the values of the table of R107 whatever MODE.SAT holds. -/
def Obligations.DivisionCompletes : Prop :=
  ∀ d a b : Reg,
    LaneWise (.div d a b) d typeRegs (fun m x y _ r =>
      let t := modeType m
      let w := elemWidth t
      (elemInt m y 0 ≠ 0 → InType (modeSat m) (signedType t) w ((elemInt m x 0).tdiv (elemInt m y 0)) (elem t r 0)) ∧
      (elemInt m y 0 = 0 → signedType t = false → elem t r 0 = 2 ^ w - 1) ∧
      (elemInt m y 0 = 0 → signedType t = true → 0 ≤ elemInt m x 0 → elem t r 0 = 2 ^ (w - 1) - 1) ∧
      (elemInt m y 0 = 0 → signedType t = true → elemInt m x 0 < 0 → elem t r 0 = 2 ^ (w - 1))) ∧
    LaneWise (.rem d a b) d typeRegs (fun m x y _ r =>
      let t := modeType m
      (elemInt m y 0 ≠ 0 → elemInt m r 0 = elemInt m x 0 - elemInt m y 0 * (elemInt m x 0).tdiv (elemInt m y 0)) ∧
      (elemInt m y 0 = 0 → elem t r 0 = elem t x 0))

/-- From R108 and R109: the counts, the bit reversal and the shifts complete; every element of the result is described by
its own bits. -/
def Obligations.ShiftsAndCountsComplete : Prop :=
  ∀ d a b : Reg,
    LaneWise (.shl d a b) d typeRegs (fun m x y _ r => ∀ k, k < elemCount (modeType m) →
      InType (modeSat m) (signedType (modeType m)) (elemWidth (modeType m))
        (elemInt m x k * ((2 ^ elem (modeType m) y k : Nat) : Int)) (elem (modeType m) r k)) ∧
    LaneWise (.shr d a b) d typeRegs (BitElems fun w x n _ r => ∀ j, j < w → r.testBit j = (decide (j + n < w) && x.testBit (j + n))) ∧
    LaneWise (.sar d a b) d typeRegs (BitElems fun w x n _ r => ∀ j, j < w → r.testBit j = x.testBit (min (j + n) (w - 1))) ∧
    LaneWise (.rol d a b) d typeRegs (BitElems fun w x n _ r => ∀ j, j < w → r.testBit ((j + n) % w) = x.testBit j) ∧
    LaneWise (.ror d a b) d typeRegs (BitElems fun w x n _ r => ∀ j, j < w → r.testBit j = x.testBit ((j + n) % w)) ∧
    LaneWise (.popc d a) d typeRegs (BitElems fun w x _ _ r => r = ((List.range w).filter x.testBit).length) ∧
    LaneWise (.clz d a) d typeRegs (BitElems fun w x _ _ r =>
      r ≤ w ∧ (∀ j, w - r ≤ j → j < w → x.testBit j = false) ∧ (r < w → x.testBit (w - 1 - r) = true)) ∧
    LaneWise (.ctz d a) d typeRegs (BitElems fun w x _ _ r =>
      r ≤ w ∧ (∀ j, j < r → x.testBit j = false) ∧ (r < w → x.testBit r = true)) ∧
    LaneWise (.brev d a) d typeRegs (BitElems fun w x _ _ r => ∀ j, j < w → r.testBit j = x.testBit (w - 1 - j))

/-- From R110, R111 and R112: the bit fields, the logic and the moves complete on one word in every type that they accept.
`pos` and `m` are the position and the length of the field that B names. -/
def Obligations.FieldsLogicAndMovesComplete : Prop :=
  ∀ (d a b : Reg) (i : BitVec 16),
    LaneWise (.bfx d a b) d (fun _ => 1) (fun md x y _ r =>
      let pos := (y.extractLsb' 0 5).toNat
      let m := min (y.extractLsb' 8 6).toNat (32 - pos)
      ∀ j, j < 32 → r.getLsbD j =
        if j < m then x.getLsbD (pos + j) else decide (modeType md = 0) && decide (m ≠ 0) && x.getLsbD (pos + m - 1)) ∧
    LaneWise (.bfi d a b) d (fun _ => 1) (fun _ x y z r =>
      let pos := (y.extractLsb' 0 5).toNat
      let m := min (y.extractLsb' 8 6).toNat (32 - pos)
      ∀ j, j < 32 → r.getLsbD j = if pos ≤ j ∧ j < pos + m then x.getLsbD (j - pos) else z.getLsbD j) ∧
    LaneWise (.and d a b) d (fun _ => 1) (WordOp fun x y _ => x &&& y) ∧
    LaneWise (.or d a b) d (fun _ => 1) (WordOp fun x y _ => x ||| y) ∧
    LaneWise (.xor d a b) d (fun _ => 1) (WordOp fun x y _ => x ^^^ y) ∧
    LaneWise (.andn d a b) d (fun _ => 1) (WordOp fun x y _ => x &&& ~~~y) ∧
    LaneWise (.not d a) d (fun _ => 1) (WordOp fun x _ _ => ~~~x) ∧
    LaneWise (.mov d b) d (fun _ => 1) (WordOp fun _ y _ => y) ∧
    LaneWise (.movi d i) d (fun _ => 1) (WordOp fun _ _ _ => i.signExtend 32) ∧
    LaneWise (.movhi d i) d (fun _ => 1) (WordOp fun _ _ z => i ++ z.setWidth 16)

/-! Floats and conversions. -/

/-- From R113 and R115: the rounded float instructions complete, and every element is the exact result rounded once. -/
def Obligations.FloatArithmeticCompletes : Prop :=
  ∀ d a b : Reg,
    LaneWise (.fadd d a b) d (fun _ => 1) (FltElems fun r x y _ => FVal.sum r [x, y]) ∧
    LaneWise (.fsub d a b) d (fun _ => 1) (FltElems fun r x y _ => FVal.sum r [x, y.neg]) ∧
    LaneWise (.fmul d a b) d (fun _ => 1) (FltElems fun _ x y _ => x.mul y) ∧
    LaneWise (.fma d a b) d (fun _ => 1) (FltElems fun r x y z => FVal.sum r [x.mul y, z]) ∧
    LaneWise (.fms d a b) d (fun _ => 1) (FltElems fun r x y z => FVal.sum r [x.mul y, z.neg]) ∧
    LaneWise (.fnma d a b) d (fun _ => 1) (FltElems fun r x y z => FVal.sum r [z, (x.mul y).neg]) ∧
    LaneWise (.fdiv d a b) d (fun _ => 1) (FltElems fun _ x y _ => x.div y) ∧
    LaneWise (.rcp d a) d (fun _ => 1) (FltElems fun _ x _ _ => FVal.div (.fin false 1 0) x) ∧
    LaneWise (.rsq d a) d (fun _ => 1) (FltElems fun _ x _ _ => x.rsqrt) ∧
    LaneWise (.sqrt d a) d (fun _ => 1) (FltElems fun _ x _ _ => x.sqrt)

/-- From R114, R116 and R117: the float instructions that act on patterns or compute a function complete element by
element. The functions of R116 are the model's, which leaves a value free where its bounds do not decide the rounding
(log 19). -/
def Obligations.FloatFunctionsComplete : Prop :=
  ∀ d a b : Reg,
    LaneWise (.fmin d a b) d (fun _ => 1) (FmtElems fun f _ x y _ => f.least x y) ∧
    LaneWise (.fmax d a b) d (fun _ => 1) (FmtElems fun f _ x y _ => f.greatest x y) ∧
    LaneWise (.fabs d a) d (fun _ => 1) (FmtElems fun f _ x _ _ => x % 2 ^ (f.bits - 1)) ∧
    LaneWise (.fneg d a) d (fun _ => 1) (FmtElems fun f _ x _ _ => (x + 2 ^ (f.bits - 1)) % 2 ^ f.bits) ∧
    LaneWise (.fcps d a b) d (fun _ => 1) (FmtElems fun f _ x y _ =>
      x % 2 ^ (f.bits - 1) + y / 2 ^ (f.bits - 1) * 2 ^ (f.bits - 1)) ∧
    LaneWise (.exp2 d a) d (fun _ => 1) (FmtElems fun f r x _ _ => f.exp2 r x) ∧
    LaneWise (.log2 d a) d (fun _ => 1) (FmtElems fun f r x _ _ => f.log2 r x) ∧
    LaneWise (.sinpi d a) d (fun _ => 1) (FmtElems fun f r x _ _ => f.sinpi r x) ∧
    LaneWise (.cospi d a) d (fun _ => 1) (FmtElems fun f r x _ _ => f.cospi r x) ∧
    LaneWise (.tanh d a) d (fun _ => 1) (FmtElems fun f r x _ _ => f.tanh r x) ∧
    LaneWise (.frnd d a) d (fun _ => 1) (FmtElems fun f r x _ _ => f.integral r x) ∧
    LaneWise (.fract d a) d (fun _ => 1) (FmtElems fun f _ x _ _ => f.fract x) ∧
    LaneWise (.ldexp d a b) d (fun _ => 1) (FmtElems fun f r x y _ =>
      f.round r ((f.value x).scale (max (-4096) (min 4096 (intVal true f.bits y))))) ∧
    LaneWise (.fclass d a) d (fun _ => 1) (FmtElems fun f _ x _ _ => f.class x) ∧
    LaneWise (.fdot d a b) d (fun _ => 1) (fun m x y z r => r.toNat = fp32.round (modeRnd m) (FVal.sum (modeRnd m)
      [(elemFlt m x 0).mul (elemFlt m y 0), (elemFlt m x 1).mul (elemFlt m y 1), fp32.value (z.toNat % 2 ^ 32)]))

namespace Sys2Proof.Machine

/-- The placement of a conversion (R119): element j of the narrower side is converted, its place among the elements of
the wider side chosen by `k`, and destination elements that are not written keep C. `g` relates a source element and
the element it becomes. -/
def Converts (st k : Nat) (g : ModeWord → Nat → Nat → Prop) (m : ModeWord) (a c r : DWord) : Prop :=
  let dt := modeType m
  let ns := elemCount st
  let nd := elemCount dt
  let n := min ns nd
  (∀ j, j < n →
    let si := if ns > n then k * n + j else j
    let di := if nd > n then k * n + j else j
    si < ns → di < nd → g m (elem st a si) (elem dt r di)) ∧
  (∀ di, di < nd → (∀ j, j < n →
      ¬((if ns > n then k * n + j else j) < ns ∧ di = if nd > n then k * n + j else j)) →
    elem dt r di = elem dt c di)

/-- The condition codes of `cmp` (R121). Codes 6 and 7 are reserved: no word with one issues. -/
def intCond (cc : Nat) (x y : Int) : Prop :=
  match cc with
  | 0 => x = y
  | 1 => x ≠ y
  | 2 => x < y
  | 3 => x ≤ y
  | 4 => y < x
  | _ => y ≤ x

/-- The condition codes of `fcmp` (R121), of two patterns of a format: a pair is unordered when either is a NaN, and
−0 equals +0. -/
def fltCond (cc : Nat) (f : Fmt) (x y : Nat) : Prop :=
  let un := f.value x = .nan ∨ f.value y = .nan
  let num (p : Nat) : Int := if p < 2 ^ (f.bits - 1) then p else 2 ^ (f.bits - 1) - (p : Int)
  match cc with
  | 0 => ¬un ∧ num x = num y
  | 1 => un ∨ num x ≠ num y
  | 2 => ¬un ∧ num x < num y
  | 3 => ¬un ∧ num x ≤ num y
  | 4 => ¬un ∧ num y < num x
  | 5 => ¬un ∧ num y ≤ num x
  | 6 => un
  | _ => ¬un

/-- A condition holds of some element under ANY, and of every element otherwise. -/
def overAll (t : Nat) (any : BitVec 1) (c : Nat → Prop) : Prop :=
  if any = 1 then ∃ k, k < elemCount t ∧ c k else ∀ k, k < elemCount t → c k

/-- The leaves of the canonical tree of lane l (R57, R125): the values of slot A in the active lanes that satisfy
`p`. -/
def leavesOf (v : View) (sh : Shape) (p : Nat → Bool) : List (Option DWord) :=
  (List.range 32).map fun l => if v.act.getLsbD l && p l then some (v.opA sh l) else none

/-- The operation of a reduction node in the type of MODE (R126): 0 `add`, 1 `min`, 2 `max`, 3 `and`, 4 `or`,
5 `xor`. -/
def IsNode (m : ModeWord) (o : BitVec 3) (op : DWord → DWord → DWord) : Prop :=
  ∀ a b : DWord, match o.toNat with
    | 0 => IntElems (fun x y _ => x + y) m a b 0 (op a b)
    | 1 => IntElems (fun x y _ => if x ≤ y then x else y) m a b 0 (op a b)
    | 2 => IntElems (fun x y _ => if x ≤ y then y else x) m a b 0 (op a b)
    | 3 => op a b = a &&& b
    | 4 => op a b = a ||| b
    | _ => op a b = a ^^^ b

/-- The operation of a float reduction node (R126): 0 `add`, 1 `min`, 2 `max`. -/
def IsFloatNode (m : ModeWord) (o : BitVec 2) (op : DWord → DWord → DWord) : Prop :=
  ∀ a b : DWord, match o.toNat with
    | 0 => FltElems (fun r x y _ => FVal.sum r [x, y]) m a b 0 (op a b)
    | 1 => FmtElems (fun f _ x y _ => f.least x y) m a b 0 (op a b)
    | _ => FmtElems (fun f _ x y _ => f.greatest x y) m a b 0 (op a b)

/-- A reduction completes: one value, the root of the canonical tree over the leaves of every active lane, or 0 if no
lane is active, is its result in every lane. -/
def Reduces (i : Instr) (d : Reg) (n : ModeWord → Nat) (node : ModeWord → (DWord → DWord → DWord) → Prop) : Prop :=
  ∀ s v rx, s.Issues i v rx → ∃ t op, exec i s = .next t ∧ node v.mode op ∧
    s.Delivers t v (shape i v.mode v.cur.lit.isSome) rx (v.laneResults d (n v.mode) (fun _ =>
      (treeRoot op 5 (leavesOf v (shape i v.mode v.cur.lit.isSome) (fun _ => true))).getD 0)) []

/-- A scan completes: lane l receives the root of the canonical tree without the leaves above l, and without its own
leaf under EXCL (R127). -/
def Scans (i : Instr) (d : Reg) (excl : BitVec 1) (n : ModeWord → Nat)
    (node : ModeWord → (DWord → DWord → DWord) → Prop) : Prop :=
  ∀ s v rx, s.Issues i v rx → ∃ t op, exec i s = .next t ∧ node v.mode op ∧
    s.Delivers t v (shape i v.mode v.cur.lit.isSome) rx (v.laneResults d (n v.mode) (fun l =>
      (treeRoot op 5 (leavesOf v (shape i v.mode v.cur.lit.isSome)
        (fun k => if excl = 1 then decide (k < l) else decide (k ≤ l)))).getD 0)) []

end Sys2Proof.Machine

/-- From R55, R119 and R120: the conversions, `pack` and `unpk` complete; each converted element is the source element's value
in the destination type, an integer going to a wider one being extended whatever MODE.SAT holds, and every element that is
not written keeps C. -/
def Obligations.ConversionsComplete : Prop :=
  ∀ (d a b : Reg) (k : BitVec 3) (t : BitVec 4) (h : BitVec 1),
    LaneWise (.cvt d a k t) d typeRegs (fun m x _ z => Converts t.toNat k.toNat (fun m p r =>
      r = if t = 9 ∧ modeType m = 9 then p else toFloatElem (modeType m) (modeRnd m) (floatElem t.toNat p)) m x z) ∧
    LaneWise (.cvtfi d a k t) d typeRegs (fun m x _ z => Converts t.toNat k.toNat (fun m p r =>
      InType true (signedType (modeType m)) (elemWidth (modeType m))
        ((floatElem t.toNat p).toInt (modeRnd m) (signedType (modeType m)) (elemWidth (modeType m))) r) m x z) ∧
    LaneWise (.cvtif d a k t) d typeRegs (fun m x _ z => Converts t.toNat k.toNat (fun m p r =>
      let x := intVal (signedType t.toNat) (elemWidth t.toNat) p
      r = toFloatElem (modeType m) (modeRnd m) (.fin (decide (x < 0)) x.natAbs 0)) m x z) ∧
    LaneWise (.cvtii d a k t) d typeRegs (fun m x _ z => Converts t.toNat k.toNat (fun m p r =>
      InType (modeSat m && decide (elemWidth (modeType m) ≤ elemWidth t.toNat)) (signedType (modeType m))
        (elemWidth (modeType m)) (intVal (signedType t.toNat) (elemWidth t.toNat) p) r) m x z) ∧
    LaneWise (.pack d a b) d (fun _ => 1) (fun m x y _ r => ∀ i, i < elemCount (modeType m) →
      let w := elemWidth (modeType m)
      let n := elemCount (modeType m) / 2
      let p := if i < n then x.toNat / 2 ^ (2 * w * i) % 2 ^ (2 * w) else y.toNat / 2 ^ (2 * w * (i - n)) % 2 ^ (2 * w)
      if modeType m = 5 ∨ modeType m = 6 then
        elem (modeType m) r i = (fmtOf (modeType m)).round (modeRnd m) (fp32.value p)
      else InType (modeSat m) (signedType (modeType m)) w (intVal (signedType (modeType m)) (2 * w) p)
        (elem (modeType m) r i)) ∧
    LaneWise (.unpk d a h) d (fun _ => 1) (fun m x _ _ r => ∀ i, i < elemCount (modeType m) →
      let w := elemWidth (modeType m) / 2
      elemInt m r i = intVal (signedType (modeType m)) w (x.toNat / 2 ^ (16 * h.toNat + w * i) % 2 ^ w))

/-! Compares, predicates, selection and cross-lane instructions. -/

/-- From R121, R122: compares, `tst`, `plog` and `pmov.set` complete, and write predicates in their active lanes and nothing
else. -/
def Obligations.PredicateWritersComplete : Prop :=
  ∀ (any : BitVec 1) (cc p pa pb : BitVec 3) (z : BitVec 1) (f : BitVec 4) (a b : Reg),
    PredWise (.cmp any cc p a b) p (fun v sh l => overAll (modeType v.mode) any (fun k =>
      intCond cc.toNat (elemInt v.mode (v.opA sh l) k) (elemInt v.mode (v.opB sh l) k))) ∧
    PredWise (.fcmp any cc p a b) p (fun v sh l => overAll (modeType v.mode) any (fun k =>
      fltCond cc.toNat (fmtOf (modeType v.mode)) (elem (modeType v.mode) (v.opA sh l) k)
        (elem (modeType v.mode) (v.opB sh l) k))) ∧
    PredWise (.tst z p a b) p (fun v sh l =>
      ((v.opA sh l).setWidth 32 &&& (v.opB sh l).setWidth 32 ≠ (0 : Word)) ↔ z = 0) ∧
    PredWise (.plog f p pa pb) p (fun v _ l =>
      f.getLsbD ((if v.gang.pred pa.toNat l then 2 else 0) + (if v.gang.pred pb.toNat l then 1 else 0)) = true) ∧
    Completes (.pmovSet a) (fun _ _ => []) (fun v sh => if v.act = 0 then [] else
      (List.range 8).map fun q => (q, v.act, laneSet fun l => (v.opA sh l).getLsbD q))

/-- From R122, R123, R124 and R128: `sel` writes every lane of the lane masks by the selector, whatever the guard says;
`clamp` and `fclamp` give min(max(C, A), B); `pmov.get`, `vote` and `lid` write what R122 and R128 say. -/
def Obligations.SelectionCompletes : Prop :=
  ∀ (d a b : Reg) (n : BitVec 1) (p : BitVec 3),
    Completes (.sel d a b) (fun v sh => (lanesOf v.msk).flatMap fun l =>
      dstWords v.gang d l [((if modeGen v.mode = false ∨ (v.gang.pred (modeGpred v.mode) l ≠ v.mode.getLsbD 14)
        then v.opA sh l else v.opB sh l).setWidth 32 : Word)]) (fun _ _ => []) ∧
    LaneWise (.clamp d a b) d typeRegs (IntElems fun x y z =>
      let w := if x ≤ z then z else x
      if w ≤ y then w else y) ∧
    LaneWise (.fclamp d a b) d (fun _ => 1) (FmtElems fun f _ x y z => f.least (f.greatest z x) y) ∧
    Completes (.lid d) (fun v _ => v.laneResults d 1 (fun l => BitVec.ofNat 64 l)) (fun _ _ => []) ∧
    Completes (.pmovGet d) (fun v _ => v.laneResults d 1 (fun l =>
      BitVec.ofNat 64 (bitsNat (fun q => v.gang.pred q l) 8))) (fun _ _ => []) ∧
    Completes (.vote d n p) (fun v _ => v.laneResults d 1 (fun _ =>
      (laneSet fun l => v.act.getLsbD l && (v.gang.pred p.toNat l != n.getLsbD 0)).setWidth 64)) (fun _ _ => [])

/-- From R125, R126 and R127: reductions and scans complete, over the canonical tree of the active lanes of the issuing
group. -/
def Obligations.ReductionsAndScansComplete : Prop :=
  ∀ (d a : Reg) (o : BitVec 3) (f : BitVec 2) (x : BitVec 1),
    Reduces (.red d a o) d typeRegs (fun m => IsNode m o) ∧
    Reduces (.fred d a f) d (fun _ => 1) (fun m => IsFloatNode m f) ∧
    Scans (.scan d a x o) d x typeRegs (fun m => IsNode m o) ∧
    Scans (.fscan d a x f) d x (fun _ => 1) (fun m => IsFloatNode m f)

/-- From R56, R57 and R126: under a 32-bit type without saturation `red.add` delivers to every active lane the sum of A over
the active lanes, modulo 2^32. -/
def Obligations.ReduceAddIsTheSum : Prop :=
  ∀ (d a : Reg) s v rx, s.Issues (.red d a 0) v rx → (modeType v.mode = 0 ∨ modeType v.mode = 1) →
    modeSat v.mode = false →
    ∃ t r, exec (.red d a 0) s = .next t ∧
      s.Delivers t v (shape (.red d a 0) v.mode v.cur.lit.isSome) rx (v.laneResults d 1 (fun _ => r)) [] ∧
      r.toNat = (((List.range 32).map fun l => if v.act.getLsbD l then
        (v.opA (shape (.red d a 0) v.mode v.cur.lit.isSome) l).toNat else 0).sum) % 2 ^ 32

namespace Sys2Proof.Machine

/-- Every slice of the issuing group satisfies `p`. -/
def View.all (v : View) (p : Slice → Prop) : Prop :=
  ∀ n, n < 8 → v.cur.slices.getLsbD n = true → p (v.gang.slice n)

/-- The lanes of slice n that are active and whose predicate `p`, exclusive-or NEG, is 1 (R86). -/
def View.voters (v : View) (p : BitVec 3) (neg : BitVec 1) (n : Nat) : BitVec 4 :=
  BitVec.ofNat 4 (bitsNat (fun j => v.act.getLsbD (4 * n + j) && (v.gang.pred p.toNat (4 * n + j) != neg.getLsbD 0)) 4)

/-- The active lanes of slice n. -/
def View.lanes4 (v : View) (n : Nat) : BitVec 4 := BitVec.ofNat 4 (bitsNat (fun j => v.act.getLsbD (4 * n + j)) 4)

/-- The 55-bit address that lane 4n of slice n reads as a pair in slot A (R84, R87). -/
def View.pairPc (v : View) (sh : Shape) (n : Nat) : PC := (v.opA sh (4 * n)).setWidth 55

end Sys2Proof.Machine

/-! Control, mode and system instructions. -/

/-- From R86, R87 and R91: `nop`, the branches, the calls and the returns complete. A taken branch applies R22 to the slice's loop
stack, `ret` leaves the stack as it is, and slices that are not taken advance. `call` and `brr.l` write the address of the next
word as a pair to v0 and v1 of all four lanes of each slice, whatever its mask, and leave the loop stacks as they were. -/
def Obligations.BranchesAndCallsComplete : Prop :=
  (∀ (n : BitVec 1) (p : BitVec 3) (i : BitVec 16) (j : BitVec 24) (a : Reg),
    SliceWise .nop (fun _ _ => True) (fun v _ _ => advance v) ∧
    SliceWise (.bra j) (fun _ _ => True) (fun v _ _ => take (v.cur.iaddr + j.signExtend 55)) ∧
    SliceWise (.bany n p i) (fun _ _ => True) (fun v _ k =>
      if v.voters p n k ≠ 0 then take (v.cur.iaddr + i.signExtend 55) else advance v) ∧
    SliceWise (.ball n p i) (fun _ _ => True) (fun v _ k =>
      if v.voters p n k = v.lanes4 k then take (v.cur.iaddr + i.signExtend 55) else advance v) ∧
    SliceWise (.brr a) (fun _ _ => True) (fun v sh k => take (v.pairPc sh k)) ∧
    SliceWise (.ret a) (fun _ _ => True) (fun v sh k sl => { sl with pc := v.pairPc sh k, stop := .running })) ∧
  (∀ (j : BitVec 24) (a : Reg) s v rx,
    let link (v : View) : List (Nat × Word) := (slicesOf v.cur.slices).flatMap fun n =>
      [4 * n, 4 * n + 1, 4 * n + 2, 4 * n + 3].flatMap fun l =>
        [(l, (v.cur.next.setWidth 64).setWidth 32), (32 + l, ((v.cur.next.setWidth 64 : BitVec 64) >>> 32).setWidth 32)]
    (s.Issues (.call j) v rx →
      let s1 := s.issued v (.call j) rx
      exec (.call j) s = .next
        ((s1.setCore v.cur.gang.core ((s1.core v.cur.gang.core).setRegs v.gang (link v))).moved
          (fun _ sl => { sl with pc := v.cur.iaddr + j.signExtend 55, stop := .running }))) ∧
    (s.Issues (.brrL a) v rx →
      let s1 := s.issued v (.brrL a) rx
      exec (.brrL a) s = .next
        ((s1.setCore v.cur.gang.core ((s1.core v.cur.gang.core).setRegs v.gang (link v))).moved
          (fun n sl => { sl with pc := v.pairPc (shape (.brrL a) v.mode v.cur.lit.isSome) n, stop := .running }))))

/-- From R88: structured divergence. `if` pushes an entry and keeps the lanes whose predicate holds, `else` goes to the other
path, `endif` pops; a path that no lane takes is skipped. Without room, or without a matching entry, the group traps
RSTACK_OVER or RSTACK_MISUSE and nothing else happens. -/
def Obligations.DivergenceCompletes : Prop :=
  ∀ (n : BitVec 1) (p : BitVec 3) (i : BitVec 16),
    SliceWise (.ifP n p i) (fun v _ => v.all fun sl => sl.rstack.length < 16) (fun v _ k sl =>
      let new := v.voters p n k
      let sl1 := { sl with
        rstack := ⟨false, sl.mask, sl.mask &&& ~~~new, sl.mode⟩ :: sl.rstack
        mask := new }
      if new = 0 then take (v.cur.iaddr + i.signExtend 55) sl1 else advance v sl1) ∧
    SliceWise (.elseP i) (fun v _ => v.all fun sl => ∃ e r, sl.rstack = e :: r ∧ e.phase = false) (fun v _ _ sl =>
      match sl.rstack with
      | e :: r =>
        let sl1 := { sl with rstack := { e with phase := true } :: r, mask := e.alt, mode := e.smode }
        if e.alt = 0 then take (v.cur.iaddr + i.signExtend 55) sl1 else advance v sl1
      | [] => sl) ∧
    SliceWise .endif (fun v _ => v.all fun sl => sl.rstack ≠ []) (fun v _ _ sl =>
      match sl.rstack with
      | e :: r => advance v { sl with rstack := r, mask := e.outer, mode := e.smode }
      | [] => sl) ∧
    (∀ s v rx, s.Issues (.ifP n p i) v rx → ¬v.all (fun sl => sl.rstack.length < 16) →
      exec (.ifP n p i) s = .next (s.trapNow 0x13 0 0 0)) ∧
    (∀ s v rx, s.Issues (.elseP i) v rx → ¬v.all (fun sl => ∃ e r, sl.rstack = e :: r ∧ e.phase = false) →
      exec (.elseP i) s = .next (s.trapNow 0x14 0 0 0)) ∧
    (∀ s v rx, s.Issues .endif v rx → ¬v.all (fun sl => sl.rstack ≠ []) →
      exec .endif s = .next (s.trapNow 0x14 0 0 0))

/-- From R89: loops. A count of 0 pushes nothing and leaves the loop; any other count is pushed with START and END; `lbrk`
pops one entry. Without room, or without an entry, the group traps LSTACK_OVER or LSTACK_EMPTY. -/
def Obligations.LoopsComplete : Prop :=
  ∀ (c : BitVec 8) (d : Reg) (i : BitVec 16),
    let enter (v : View) (n : Word) (sl : Slice) : Slice :=
      if n = 0 then { sl with pc := v.cur.iaddr + i.setWidth 55 + 1, stop := .running }
      else { sl with
        pc := v.cur.iaddr + 1, stop := .running
        lstack := ⟨v.cur.iaddr + 1, v.cur.iaddr + i.setWidth 55, n⟩ :: sl.lstack }
    SliceWise (.loop c i) (fun v _ => v.all fun sl => sl.lstack.length < 4) (fun v _ _ => enter v (c.setWidth 32)) ∧
    SliceWise (.loopr d i) (fun v _ => v.all fun sl => sl.lstack.length < 4) (fun v sh k =>
      enter v ((v.opC sh (4 * k)).setWidth 32)) ∧
    SliceWise .lbrk (fun v _ => v.all fun sl => sl.lstack ≠ []) (fun _ _ _ sl =>
      match sl.lstack with
      | e :: r => { sl with pc := e.stop + 1, lstack := r, stop := .running }
      | [] => sl) ∧
    (∀ s v rx, s.Issues (.loop c i) v rx → ¬v.all (fun sl => sl.lstack.length < 4) →
      exec (.loop c i) s = .next (s.trapNow 0x15 0 0 0)) ∧
    (∀ s v rx, s.Issues (.loopr d i) v rx → ¬v.all (fun sl => sl.lstack.length < 4) →
      exec (.loopr d i) s = .next (s.trapNow 0x15 0 0 0)) ∧
    (∀ s v rx, s.Issues .lbrk v rx → ¬v.all (fun sl => sl.lstack ≠ []) →
      exec .lbrk s = .next (s.trapNow 0x18 0 0 0))

/-- R21: a slice that completes a sequence goes by its loop stack. Where the sequence from `a` up to before `n` holds END
of the top entry (for one word, END is `a`), COUNT falls by 1: while it is not zero the next PC is START; at zero the entry
is popped and the rule applies to the next; and otherwise the next PC is `n`, END + 1 where END is the last word. A word
that transfers control changes no COUNT: its target is handled by R22. -/
def Obligations.LoopEndRule : Prop :=
  (∀ (a n : PC) (e : LoopEntry) (r : List LoopEntry),
    loopStep a n [] = (n, []) ∧
    (¬(e.stop - a).toNat < (n - a).toNat → loopStep a n (e :: r) = (n, e :: r)) ∧
    ((e.stop - a).toNat < (n - a).toNat → e.count - 1 ≠ 0 →
      loopStep a n (e :: r) = (e.start, { e with count := e.count - 1 } :: r)) ∧
    ((e.stop - a).toNat < (n - a).toNat → e.count - 1 = 0 → loopStep a n (e :: r) = loopStep a n r)) ∧
  (∀ (a : PC) (e : LoopEntry), (e.stop - a).toNat < (a + 1 - a).toNat ↔ e.stop = a) ∧
  SliceWise .nop (fun _ _ => True) (fun v _ _ sl => { sl with
    pc := (loopStep v.cur.addr v.cur.next sl.lstack).1, lstack := (loopStep v.cur.addr v.cur.next sl.lstack).2
    stop := .running }) ∧
  (∀ j, SliceWise (.bra j) (fun _ _ => True) (fun v _ _ sl => { sl with
    pc := v.cur.iaddr + j.signExtend 55, lstack := popOutside (v.cur.iaddr + j.signExtend 55) sl.lstack
    stop := .running }))

/-- R22: a branch pops exactly the entries, from the top, whose range START to END does not hold the target: `bra`, the
conditional branches and `brr` do so. `call`, `ret` and `brr.l` leave the loop stack as it is; trap entry saves it and
`rti` restores it, in full. -/
def Obligations.BranchPopsLoops : Prop :=
  (∀ (t : PC) (l : List LoopEntry), ∃ k, popOutside t l = l.drop k ∧
    (∀ e ∈ l.take k, ¬(t - e.start).toNat ≤ (e.stop - e.start).toNat) ∧
    (∀ e, (l.drop k).head? = some e → (t - e.start).toNat ≤ (e.stop - e.start).toNat)) ∧
  (∀ (n : BitVec 1) (p : BitVec 3) (i : BitVec 16) (j : BitVec 24) (a : Reg),
    SliceWise (.bra j) (fun _ _ => True) (fun v _ _ => take (v.cur.iaddr + j.signExtend 55)) ∧
    SliceWise (.bany n p i) (fun v _ => ∀ k, k < 8 → v.cur.slices.getLsbD k = true → v.voters p n k ≠ 0)
      (fun v _ _ => take (v.cur.iaddr + i.signExtend 55)) ∧
    SliceWise (.ball n p i) (fun v _ => ∀ k, k < 8 → v.cur.slices.getLsbD k = true → v.voters p n k = v.lanes4 k)
      (fun v _ _ => take (v.cur.iaddr + i.signExtend 55)) ∧
    SliceWise (.brr a) (fun _ _ => True) (fun v sh k => take (v.pairPc sh k)) ∧
    (∀ x ∈ [Instr.call j, .ret a, .brrL a], ∀ s v rx, s.Issues x v rx → ∃ t y, exec x s = .next t ∧
      t.gang? s.cur.gang = some y ∧ ∀ k, k < 8 → (y.slice k).lstack = (v.gang.slice k).lstack)) ∧
  (∀ s g x r, s.gang? g = some x → s.ev = .trapEntry g → x.raised = some r → x.trap.tcause.getLsbD 15 = false →
    ((s.core g.core).recordOf x).handler ≠ 0 → fatalOnly r.cause = false → r.next = none →
    ∃ t y, exec .trapEntry s = .next t ∧ t.gang? g = some y ∧
      ∀ n, n < 8 → (y.trap.tslice.getD n default).lstack = (x.slice n).lstack) ∧
  (∀ s v rx, s.Issues .rti v rx → v.gang.trap.tcause.getLsbD 15 = true → v.gang.rtiOk v.cur.slices = true →
    ∃ t y, exec .rti s = .next t ∧ t.gang? s.cur.gang = some y ∧
      ∀ n, n < 8 → v.gang.live n = true → (y.slice n).lstack = (v.gang.trap.tslice.getD n default).lstack)

/-- From R92: the mode instructions complete; they write the fields of MODE that the table of R92 names in every slice of the
issuing group, and no other bit. -/
def Obligations.ModeWritersComplete : Prop :=
  ∀ (i : BitVec 16) (t : BitVec 4) (r p : BitVec 3) (g n : BitVec 1),
    SliceWise (.mode i) (fun _ _ => True) (fun v _ _ sl => { advance v sl with mode := i }) ∧
    SliceWise (.mtype t) (fun _ _ => True) (fun v _ _ sl =>
      { advance v sl with mode := sl.mode.extractLsb' 11 5 ++ t ++ sl.mode.extractLsb' 0 7 }) ∧
    SliceWise (.mrnd r) (fun _ _ => True) (fun v _ _ sl =>
      { advance v sl with mode := sl.mode.extractLsb' 7 9 ++ r ++ sl.mode.extractLsb' 0 4 }) ∧
    SliceWise (.mguard g n p) (fun _ _ => True) (fun v _ _ sl =>
      { advance v sl with mode := g ++ n ++ p ++ sl.mode.extractLsb' 0 11 })

/-- From R83, R93: `mfs` completes with the register's value for each lane's own slice, or for the lowest slice in a uniform
destination; `mts` completes with what its write does, and does nothing for a vector source with no active lane; both
trap PRIVILEGE below the register's level. -/
def Obligations.SpecialRegisterMovesComplete : Prop :=
  ∀ (d : Reg) (sr : BitVec 10),
    (∀ s v rx, s.Issues (.mfs d sr) v rx → srReadLevel sr.toNat ≤ v.core.level v.gang →
      ∃ t, exec (.mfs d sr) s = .next t ∧ s.Delivers t v (shape (.mfs d sr) v.mode v.cur.lit.isSome) rx (v.laneResults d 1 fun l =>
        (s.srRead v.cur.gang v.gang sr.toNat (if isUniform d then v.gang.lead v.cur.slices else l / 4) l).setWidth 64) []) ∧
    (∀ s v rx, s.Issues (.mfs d sr) v rx → v.core.level v.gang < srReadLevel sr.toNat →
      exec (.mfs d sr) s = .next (s.trapNow 0x05 0 0 0)) ∧
    (∀ s v rx, s.Issues (.mts d sr) v rx → v.core.level v.gang < srWriteLevel sr.toNat →
      exec (.mts d sr) s = .next (s.trapNow 0x05 0 0 0)) ∧
    (∀ s v rx, s.Issues (.mts d sr) v rx → srWriteLevel sr.toNat ≤ v.core.level v.gang → isVector d → v.act = 0 →
      ∃ t, exec (.mts d sr) s = .next t ∧ s.Moves t v rx (fun _ => advance v)) ∧
    (∀ s v rx u, s.Issues (.mts d sr) v rx → srWriteLevel sr.toNat ≤ v.core.level v.gang →
      ¬(isVector d ∧ v.act = 0) →
      (s.issued v (.mts d sr) rx).srWrite v sr.toNat
        ((v.opC (shape (.mts d sr) v.mode v.cur.lit.isSome) (((lanesOf v.act).head?).getD 0)).setWidth 32) = .done u →
      exec (.mts d sr) s = .next u.retire) ∧
    (∀ s v rx c, s.Issues (.mts d sr) v rx → srWriteLevel sr.toNat ≤ v.core.level v.gang →
      ¬(isVector d ∧ v.act = 0) →
      (s.issued v (.mts d sr) rx).srWrite v sr.toNat
        ((v.opC (shape (.mts d sr) v.mode v.cur.lit.isSome) (((lanesOf v.act).head?).getD 0)).setWidth 32) = .trap c →
      exec (.mts d sr) s = .next (s.trapNow c 0 0 0))

/-- From R94, R95 and R26: what the special registers read as, for slice k and lane l of a gang. -/
def Obligations.SpecialRegisterContents : Prop :=
  ∀ (s : State) (g : GangRef) (x : Gang) (k l : Nat), l < 32 →
    s.srRead g x 0x000 k l = (x.slice k).mode.setWidth 32 ∧
    s.srRead g x 0x002 k l =
      BitVec.ofNat 32 ((x.slice k).mask.toNat + 16 * ((x.slice k).rstack.length % 32) + 512 * ((x.slice k).lstack.length % 8)) ∧
    s.srRead g x 0x003 k l = BitVec.ofNat 32 (l + 32 * (l / 4)) ∧
    s.srRead g x 0x004 k l = BitVec.ofNat 32 (x.num + 256 * x.vcount) ∧
    s.srRead g x 0x005 k l =
      BitVec.ofNat 32 (g.core % 8 + 16 * (g.core % 96 / 8 % 16) + 256 * (g.core / 96 % 4) + 1024 * (s.mid % 16)) ∧
    s.srRead g x 0x006 k l = BitVec.ofNat 32 ((s.core g.core).sessionOf x) ∧
    s.srRead g x 0x007 k l = BitVec.ofNat 32 ((s.core g.core).level x + 4 * ((s.core g.core).recordOf x).base) ∧
    (s.srRead g x 0x009 k l ++ s.srRead g x 0x008 k l : BitVec 64) = BitVec.ofNat 64 (s.die (g.core / 96)).cyc ∧
    s.srRead g x 0x010 k l = x.trap.tcause ∧
    (s.srRead g x 0x012 k l ++ s.srRead g x 0x011 k l : BitVec 64) = x.trap.tpc.setWidth 64 ∧
    (s.srRead g x 0x014 k l ++ s.srRead g x 0x013 k l : BitVec 64) = x.trap.taddr.setWidth 64 ∧
    s.srRead g x 0x015 k l = x.trap.tlanes ∧
    s.srRead g x 0x016 k l = x.trap.tsplit ∧
    (s.srRead g x 0x001 k l).extractLsb' 16 8 = x.liveSet ∧
    (s.srRead g x 0x001 k l).getLsbD 2 = x.lost ∧
    (s.srRead g x 0x001 k l).getLsbD 0 = x.rx

/-- From R25, R91: `regang`, `exit`, `yield` and `pause` complete wherever they issue. The slices of the group that execute
`regang` stop there; once every live slice stands at one, all at one address and in one MODE, they go on from the next word,
and as one group unless a loop that ends there parts them; at different addresses or in different MODEs the gang raises
REGANG_MISMATCH at the `regang` of its lowest slice; and while one is still to come the group waits. `exit` ends its slices,
and with the last of them the gang. `yield` and `pause` advance, and the groups of their slices wait until 2 and imm16 + 1
cycles later; a `pause` of 0 is a `nop`. -/
def Obligations.RejoinEndAndPauseComplete : Prop :=
  (∀ (i : BitVec 16), ∀ x ∈ [Instr.regang, .exit, .yield, .pause i], ∀ s v rx, s.Issues x v rx →
    ∃ t, exec x s = .next t) ∧
  (∀ s v rx p m, s.Issues .regang v rx → v.gang.liveSet ≠ 0 →
    (∀ n, n < 8 → v.gang.live n = true → (v.cur.slices.getLsbD n = true ∨ (v.gang.slice n).stop = .regang) ∧
      (v.gang.slice n).pc = p ∧ (v.gang.slice n).mode = m) →
    ∃ t y, exec .regang s = .next t ∧ s.OnlyGang t s.cur.gang ∧ t.agenda = s.agenda ∧ t.gang? s.cur.gang = some y ∧
      v.gang.Moves y v.gang.liveSet (fun _ sl => { sl.completed p (p + 1) with stop := .running }) rx ∧
      ((∀ n, n < 8 → v.gang.live n = true → ∀ e, (v.gang.slice n).lstack.head? = some e → e.stop ≠ p) →
        y.split = [v.gang.liveSet, 0, 0, 0] ∧ y.single = 0 ∧
        ∀ n, n < 8 → v.gang.live n = true → (y.slice n).pc = p + 1)) ∧
  (∀ s v rx k, s.Issues .regang v rx → v.cur.entry < v.gang.groups.length → k < 8 → v.gang.live k = true →
    v.cur.slices.getLsbD k = false → (v.gang.slice k).stop ≠ .regang →
    ∃ t y, exec .regang s = .next t ∧ s.OnlyGang t s.cur.gang ∧ t.gang? s.cur.gang = some y ∧
      (y.group v.cur.entry).wait = .regang ∧
      ∀ n, n < 8 → y.slice n = if v.cur.slices.getLsbD n && v.gang.live n
        then { v.gang.slice n with stop := .regang } else v.gang.slice n) ∧
  (∀ s v rx j k, s.Issues .regang v rx →
    (∀ n, n < 8 → v.gang.live n = true → v.cur.slices.getLsbD n = true ∨ (v.gang.slice n).stop = .regang) →
    j < 8 → k < 8 → v.gang.live j = true → v.gang.live k = true → (∀ n, n < j → v.gang.live n = false) →
    ¬((v.gang.slice k).pc = (v.gang.slice j).pc ∧ (v.gang.slice k).mode = (v.gang.slice j).mode) →
    exec .regang s = .next (((s.issued v .regang rx).updGang v.cur.gang fun x =>
        (x.mapSlices v.cur.slices (fun _ sl => { sl with stop := .regang })).setGroup v.cur.entry
          { (default : GroupSt) with wait := .regang }).raise v.cur.gang
      { cause := 0x16, info := 0, slices := v.gang.groupSlices (v.gang.groupOf j), addr := (v.gang.slice j).pc,
        taddr := 0, tlanes := 0, bu := false, next := none, cycle := none })) ∧
  (∀ s v rx, s.Issues .exit v rx → v.gang.liveSet &&& ~~~v.cur.slices = 0 →
    exec .exit s = .next (((s.issued v .exit rx).setCore v.cur.gang.core
      (((s.issued v .exit rx).core v.cur.gang.core).endSlices v.cur.gang v.cur.slices)).removeGang v.cur.gang
        v.gang.team)) ∧
  (∀ s v rx, s.Issues .exit v rx → v.gang.liveSet &&& ~~~v.cur.slices ≠ 0 →
    exec .exit s = .next ((((s.issued v .exit rx).setCore v.cur.gang.core
      (((s.issued v .exit rx).core v.cur.gang.core).endSlices v.cur.gang v.cur.slices)).settleRegang
        v.cur.gang).settleBars v.cur.gang.core v.gang.team)) ∧
  (∀ (c : CoreSt) g x dead, c.gang? g = some x → ∃ y, (c.endSlices g dead).gang? g = some y ∧
    ∀ n, n < 8 → y.live n = (x.live n && !dead.getLsbD n)) ∧
  (∀ (c : CoreSt) g x, c.gang? g = some x → (c.gangs.map (·.1)).Pairwise (· < ·) →
    (c.removeGang g).gang? g = none) ∧
  (∀ s v rx, s.Issues .yield v rx → ∃ t y, exec .yield s = .next t ∧ s.OnlyGang t s.cur.gang ∧ t.agenda = s.agenda ∧
    t.gang? s.cur.gang = some (y.holdUntil v.cur.slices .yield ((s.die (dieOf s.cur.gang.core)).cyc + 2)) ∧
    v.gang.Moves y v.cur.slices (fun _ => advance v) rx) ∧
  (∀ (i : BitVec 16) s v rx, s.Issues (.pause i) v rx → i ≠ 0 →
    ∃ t y, exec (.pause i) s = .next t ∧ s.OnlyGang t s.cur.gang ∧ t.agenda = s.agenda ∧
    t.gang? s.cur.gang = some (y.holdUntil v.cur.slices .pause ((s.die (dieOf s.cur.gang.core)).cyc + i.toNat + 1)) ∧
    v.gang.Moves y v.cur.slices (fun _ => advance v) rx) ∧
  (∀ (y : Gang) sl r cyc e, y.groups.length = 12 → y.groupSlices e &&& sl ≠ 0 → e < 12 →
    ((y.holdUntil sl r cyc).group e).wait = r ∧ ((y.holdUntil sl r cyc).group e).wake = cyc ∧
    ((y.holdUntil sl r cyc).group e).age = 0) ∧
  (∀ s v rx, s.Issues (.pause 0) v rx →
    ∃ t, exec (.pause 0) s = .next t ∧ s.Moves t v rx (fun _ => advance v)) ∧
  (∀ s g e x, s.ev = .pauseExpiry g e → s.gang? g = some x → (x.group e).wait = .pause →
    (x.group e).wake ≤ (s.die (dieOf g.core)).cyc →
    exec .pauseExpiry s = .next (s.setGang g (x.setGroup e { x.group e with wait := .ready })))

/-- From R98, R99, R101: `trap` raises TRAP_INSN with its immediate as INFO once it has completed, and so does `brk` with
BREAKPOINT outside debug control; in a crew under debug control `brk` triggers a stop and completes; the `sys` forms end
the gang, with INFO the code given or the cause held before. -/
def Obligations.TrapInstructionsComplete : Prop :=
  ∀ (i : BitVec 16) (n : BitVec 8) s v rx,
    let entry (cause : BitVec 8) (s1 : State) : State := s1.raise s.cur.gang
      { cause := cause, info := i, slices := v.cur.slices, addr := v.cur.addr, taddr := 0, tlanes := 0, bu := false,
        next := some v.cur.next, cycle := some (s.die (dieOf s.cur.gang.core)).cyc }
    (s.Issues (.trap i) v rx → exec (.trap i) s = .next (entry 0x06 (s.issued v (.trap i) rx))) ∧
    (s.Issues (.brk i) v rx → (s.issued v (.brk i) rx).crewOf s.cur.gang.core v.gang = none →
      exec (.brk i) s = .next (entry 0x07 (s.issued v (.brk i) rx))) ∧
    (∀ c, s.Issues (.brk i) v rx → (s.issued v (.brk i) rx).crewOf s.cur.gang.core v.gang = some c →
      c.attached = false → exec (.brk i) s = .next (entry 0x07 (s.issued v (.brk i) rx))) ∧
    (∀ c, s.Issues (.brk i) v rx → (s.issued v (.brk i) rx).crewOf s.cur.gang.core v.gang = some c →
      c.attached = true →
      exec (.brk i) s = .next (((s.issued v (.brk i) rx).trigger c
        { cycle := (s.die (dieOf s.cur.gang.core)).cyc, why := 2, wp := 0, gang := some s.cur.gang,
          seq := some v.gang.seqs, pc := v.cur.addr, addr := 0 }).retire)) ∧
    (s.Issues .sysKill v rx → exec .sysKill s = .next ((s.issued v .sysKill rx).fatal s.cur.gang 0x0B
      (setField (setField v.gang.trap.tcause 16 16 (fieldNat v.gang.trap.tcause 0 8)) 0 8 0x0B) v.cur.addr v.gang.trap.taddr)) ∧
    (s.Issues (.sysAbort n) v rx → exec (.sysAbort n) s = .next ((s.issued v (.sysAbort n) rx).fatal s.cur.gang 0x0A
      (setField (setField v.gang.trap.tcause 16 16 n.toNat) 0 8 0x0A) v.cur.addr v.gang.trap.taddr))

/-- From R100: `rti` of the group that holds every live slice, while ACT is 1 and the saved state is consistent, restores PC,
mask, MODE and both stacks of every live slice, the split table and GSTAT, and clears ACT; otherwise it traps RTI_STATE. -/
def Obligations.RtiRestores : Prop :=
  (∀ s v rx, s.Issues .rti v rx → v.gang.trap.tcause.getLsbD 15 = true → v.gang.rtiOk v.cur.slices = true →
    v.gang.parked = [] →
    ∃ t y, exec .rti s = .next t ∧ t.gang? s.cur.gang = some y ∧
      (∀ a, Cells.get 0 t.mem a = Cells.get 0 s.mem a) ∧ (∀ c, (t.core c).store = (s.core c).store) ∧
      (∀ h, h ≠ s.cur.gang → t.gang? h = s.gang? h) ∧
      y.trap = { v.gang.trap with tcause := y.trap.tcause } ∧ y.trap.tcause.getLsbD 15 = false ∧
      y.preds = v.gang.preds ∧ y.liveSet = v.gang.liveSet ∧ y.lost = v.gang.trap.lost ∧ y.rx = v.gang.trap.rx ∧
      (∀ e, e < 4 → y.split.getD e 0 = v.gang.trap.tsplit.extractLsb' (8 * e) 8 &&& v.gang.liveSet) ∧
      (∀ n, n < 8 → v.gang.live n = true →
        let o := v.gang.trap.tslice.getD n default
        (y.slice n).pc = o.pc ∧ (y.slice n).mask = o.mask ∧ (y.slice n).mode = o.mode ∧
        (y.slice n).rstack = o.rstack ∧ (y.slice n).lstack = o.lstack)) ∧
  (∀ s v rx, s.Issues .rti v rx → (v.gang.trap.tcause.getLsbD 15 = false ∨ v.gang.rtiOk v.cur.slices = false) →
    exec .rti s = .next (s.trapNow 0x08 0 0 0))


/-! Memory: loads, stores, watch entries and cache management. -/

/-- From R131 to R136, R142: the loads complete, and so does `ldw`. Each active lane asks for `size` bytes at its EA, its
destination copies are empty until the value comes, and the sequence completes. -/
def Obligations.LoadsComplete : Prop :=
  ∀ (d a : Reg) (o : BitVec 8),
    Sends (.ld8 d a o) 1 1 (fun v sh => v.loads sh d a o 1 1) ∧
    Sends (.ld16 d a o) 2 2 (fun v sh => v.loads sh d a o 2 1) ∧
    Sends (.ld32 d a o) 4 4 (fun v sh => v.loads sh d a o 4 1) ∧
    Sends (.ld64 d a o) 8 8 (fun v sh => v.loads sh d a o 8 2) ∧
    Sends (.ld128 d a o) 16 16 (fun v sh => v.loads sh d a o 16 4) ∧
    Sends (.ldw d a o) 4 4 (fun v sh => v.requests false (v.ea sh o 4) fun l => .loadw [(l, [d.toNat * 32 + l])])

/-- From R131 to R136, R139: the stores complete. Each active lane sends the bytes of slot C to its EA, or for `stl` to the
lane's own word of lane-private memory, and the sequence completes; `ldl` reads that word. -/
def Obligations.StoresComplete : Prop :=
  ∀ (d a : Reg) (o : BitVec 8),
    let off (v : View) (sh : Shape) (l : Nat) : Word := (v.opA sh l).setWidth 32 + o.signExtend 32 * 4
    let own (v : View) (sh : Shape) (l : Nat) : VAddr := (v.core.recordOf v.gang).pbase + BitVec.ofNat 57
      (v.gang.num * 32 * (v.core.recordOf v.gang).psize + (off v sh l).toNat / 4 * 128 + l * 4)
    let priv (k : View → Shape → Nat → AccKind) (i : Instr) : Prop := ∀ s v rx os u, s.Issues i v rx →
      (∀ l, v.act.getLsbD l = true → (off v (shape i v.mode v.cur.lit.isSome) l).toNat % 4 = 0 ∧
        (off v (shape i v.mode v.cur.lit.isSome) l).toNat < (v.core.recordOf v.gang).psize) →
      let rs := v.requests false (own v (shape i v.mode v.cur.lit.isSome)) (k v (shape i v.mode v.cur.lit.isSome))
      s.Reaches v i rx 4 4 rs os u → exec i s = .next ((u.issued v i rx).sent v 4 rs os).retire
    Sends (.st8 d a o) 1 1 (fun v sh => v.stores sh d o 1) ∧
    Sends (.st16 d a o) 2 2 (fun v sh => v.stores sh d o 2) ∧
    Sends (.st32 d a o) 4 4 (fun v sh => v.stores sh d o 4) ∧
    Sends (.st64 d a o) 8 8 (fun v sh => v.stores sh d o 8) ∧
    Sends (.st128 d a o) 16 16 (fun v sh => v.stores sh d o 16) ∧
    priv (fun v sh l => .store ((bytesOfWords (v.slotWords sh.c v.cur.routeC l)).take 4)) (.stl d a o) ∧
    priv (fun _ _ l => .load [(l, [d.toNat * 32 + l])]) (.ldl d a o)

/-- From R132, R133: an EA that is not a multiple of the size traps MISALIGNED, and one outside the range of its aperture
traps OPERAND_BOUNDS; TADDR is that of the lowest lane, and no lane accesses memory. -/
def Obligations.BadAddressesTrap : Prop :=
  ∀ (d a : Reg) (o : BitVec 8),
    (∀ i size n, (i, size, n) ∈ [(Instr.ld16 d a o, 2, 1), (.ld32 d a o, 4, 1), (.ld64 d a o, 8, 2), (.ld128 d a o, 16, 4)] →
      TrapsMisaligned i size (fun v sh => v.loads sh d a o size n) ∧
      TrapsBounds i size size (fun v sh => v.loads sh d a o size n)) ∧
    (∀ i size, (i, size) ∈ [(Instr.st16 d a o, 2), (.st32 d a o, 4), (.st64 d a o, 8), (.st128 d a o, 16)] →
      TrapsMisaligned i size (fun v sh => v.stores sh d o size) ∧
      TrapsBounds i size size (fun v sh => v.stores sh d o size)) ∧
    TrapsBounds (.ld8 d a o) 1 1 (fun v sh => v.loads sh d a o 1 1) ∧
    TrapsBounds (.st8 d a o) 1 1 (fun v sh => v.stores sh d o 1)

/-- From R140, R144: `pf`, `wb`, `inv` and `chk` complete. `pf` fills copies, drops what would fault, and leaves every byte of
memory as it was; `wb` and `inv` act on each line once its address translates, checked as a store (R311). `chk` branches exactly if an entry of its lanes was
struck, once none of them is pending, and its lanes leave every entry. -/
def Obligations.CacheFormsComplete : Prop :=
  ∀ (a : Reg) (o : BitVec 8) (i : BitVec 24) (b : Bool),
    let lines (v : View) (sh : Shape) : List LaneReq := ((v.requests (isUniform a) (v.ea sh o 16)
      fun _ => .maint b).filter fun r => !isAperture r.va)
    (∀ s v rx, s.Issues (.pfL1 a o) v rx → ∃ t : State, exec (.pfL1 a o) s = .next t.retire ∧ t.mem = s.mem ∧
      t.cores = (s.issued v (.pfL1 a o) rx).cores ∧ t.lineVer = s.lineVer ∧ t.agenda = s.agenda) ∧
    (∀ s v rx, s.Issues (.pfL2 a o) v rx → ∃ t : State, exec (.pfL2 a o) s = .next t.retire ∧ t.mem = s.mem ∧
      t.cores = (s.issued v (.pfL2 a o) rx).cores ∧ t.lineVer = s.lineVer ∧ t.agenda = s.agenda) ∧
    (b = false → Sends (.wb a o) 1 1 lines) ∧ (b = true → Sends (.inv a o) 1 1 lines) ∧
    (∀ s v rx, s.Issues (.chk i) v rx →
      let g := laneSet fun l => v.cur.slices.getLsbD (l / 4)
      (∀ e ∈ v.gang.watch, e.own &&& g ≠ 0 → e.struck = true) →
      ∃ t y, exec (.chk i) s = .next t ∧ s.OnlyGang t s.cur.gang ∧ t.gang? s.cur.gang = some y ∧
        y.watch = (v.gang.watch.map fun e => { e with own := e.own &&& ~~~g }).filter (fun e => decide (e.own ≠ 0)) ∧
        ∀ n, n < 8 → y.slice n =
          if v.cur.slices.getLsbD n && v.gang.live n then
            (if ∃ e ∈ v.gang.watch, e.own &&& g ≠ 0 then take (v.cur.iaddr + i.signExtend 55) (v.gang.slice n)
             else advance v (v.gang.slice n))
          else v.gang.slice n) ∧
    (∀ s v rx e, s.Issues (.chk i) v rx → e ∈ v.gang.watch → e.struck = false →
      e.own &&& laneSet (fun l => v.cur.slices.getLsbD (l / 4)) ≠ 0 →
      exec (.chk i) s = .next (s.hold .watch))

/-! Accesses at their homes, atomics, objects, barriers and handoff. -/

namespace Sys2Proof.Machine

/-- An access whose place is byte `pa` of module memory, of treatment `coh`, can be performed there now: its translation
holds, no copy serves it in place of the home (R243), its frames are in this module, not blocked and not behind a block
queue (R323), and their keys are present (R339). -/
def State.PerformsAt (s : State) (a : Access) (pa coh : Nat) : Prop :=
  s.ev = .accessAtHome a ∧ a.stale = false ∧ s.servedLoad? a = none ∧ s.blockedAt (accessPlaces a) = none ∧
  (∀ p ∈ accessPlaces a, isRemote p.1 = false ∧ ∀ q k, p.1 = .mem q k → s.draining q = false) ∧
  s.keyless (accessPlaces a) = false ∧ s.moved? a.place = .mem pa coh

/-- From `s` to `t` the `bs` have been written from byte `pa` of module memory on, but for the read-only bits of session
contexts (R8, R336), and no other byte has changed. -/
def State.Wrote (s t : State) (pa : Nat) (bs : List Byte) : Prop :=
  ∀ x, Cells.get 0 t.mem x =
    if pa ≤ x then (s.written pa bs).getD (x - pa) (Cells.get 0 s.mem x) else Cells.get 0 s.mem x

/-- The line versions once a write of byte `pa` has been performed: dirty copies of the line, but the writer's own under
treatment 0, are written back before it, and then the version of its line advances by 1 and no other (R239). -/
def State.versionsAfter (s : State) (core : Option Nat) (coh pa : Nat) : Cells Word :=
  let b := s.writeBack fun c => decide (c.line = pa / 128) && !(decide (coh = 0) && core.any (fun k => decide (c.holder = .l1 k)))
  Cells.put 0 b.lineVer (pa / 128) (Cells.get 0 b.lineVer (pa / 128) + 1)

/-- The words of `bs` are on their way to the lanes of `dst` (R34). -/
def State.Answers (t : State) (g : GangRef) (dst : Dest) (ws : List Word) : Prop :=
  ∀ e ∈ dst, Event.producerDelivery { gang := g, lane := e.1, writes := List.zip e.2 ws } ∈ t.agenda

/-- The old value of memory and the operands of an atomic under MODE `m`, as `f` of them: the new value (R147). -/
def NewValue (op : AtOp) (m : ModeWord) (f : DWord → DWord → DWord → DWord → Prop) : Prop :=
  ∀ x b c, f x b c (atomicNew op m x b c)

/-- The requests of an atomic: each active lane at its own address, or one in the uniform form (R146). -/
def View.atomics (v : View) (sh : Shape) (op : AtOp) (d : Reg) (n : Nat) : List LaneReq :=
  v.requests (isUniform d) (fun l => (v.opA sh l).setWidth 57) fun l =>
    .atomic op (modeType v.mode) v.mode (v.opB sh (l % 32)) (v.opC sh (l % 32))
      (if l = 32 then v.dest d n else [(l, (List.range n).map fun i => (d.toNat + i) * 32 + l)])

/-- The present sequence completes, and its group then waits with reason `r` for the delivery of register word `w`. -/
def State.retiredAwaiting (s : State) (r : WaitReason) (w : Nat) : State :=
  s.retire.updGang s.cur.gang fun x => x.groupList.foldl (fun y e =>
    if y.groupSlices e &&& s.cur.slices ≠ 0 then { y.hold e r with awaits := y.awaits ++ [(e, w)] } else y) x

/-- The request of `acq` or `rel` (R151, R152). -/
def View.object (v : View) (sh : Shape) (bump : Bool) (d : Reg) : LaneReq :=
  ⟨32, v.act, (v.opA sh 0).setWidth 57, .version bump (v.dest d 1)⟩

end Sys2Proof.Machine

/-- From R135, R137, R239, R241: an access performed at its home in module memory. A load changes no byte, and unless a copy
may serve it delivers what its bytes hold there; a store and an atomic write exactly their own bytes, and no other; the
line's version advances by 1 as they are performed, before watchpoints, evictions and barriers follow; the atomic's old value
is delivered. No register changes. -/
def Obligations.AccessesPerformed : Prop :=
  ∀ s a pa coh, s.PerformsAt a pa coh →
    (∀ dst, a.kind = .load dst → (coh = 1 → ∀ c ∈ s.copies, c.line ≠ pa / 128) → ∃ t, exec .accessAtHome s = .next t ∧
      t.Answers a.gang dst (wordsOfBytes (Cells.bytes s.mem pa a.size)) ∧
      (∀ x, Cells.get 0 t.mem x = Cells.get 0 s.mem x) ∧ ∀ c, (t.core c).store = (s.core c).store) ∧
    (∀ bs, a.kind = .store bs → bs ≠ [] → ∃ t u : State, exec .accessAtHome s = .next t ∧ t = u.finish a (.mem pa coh) ∧
      s.Wrote t pa bs ∧ u.lineVer = s.versionsAfter (some a.gang.core) coh pa ∧
      ∀ c, (t.core c).store = (s.core c).store) ∧
    (∀ op ty m b c dst, a.kind = .atomic op ty m b c dst → a.size ≠ 0 → ∃ t u : State, exec .accessAtHome s = .next t ∧
      t = u.finish a (.mem pa coh) ∧
      let old := Cells.bytes s.mem pa a.size
      s.Wrote t pa (bytesOf (atomicNew op m (BitVec.ofNat 64 (natOfBytes old)) b c).toNat a.size) ∧
      t.Answers a.gang dst (wordsOfBytes old) ∧
      u.lineVer = s.versionsAfter none coh pa) ∧
    (∀ dst, a.kind = .version true dst → ∃ t, exec .accessAtHome s = .next t ∧
      let v : Word := BitVec.ofNat 32 (natOfBytes (Cells.bytes s.mem pa 4)) + 1
      s.Wrote t pa (bytesOf v.toNat 4) ∧ t.Answers a.gang dst [v]) ∧
    (∀ dst, a.kind = .version false dst → ∃ t, exec .accessAtHome s = .next t ∧
      t.Answers a.gang dst [BitVec.ofNat 32 (natOfBytes (Cells.bytes s.mem pa 4))] ∧
      (∀ x, Cells.get 0 t.mem x = Cells.get 0 s.mem x) ∧
      ∀ c ∈ t.copies, c.holder = .l1 a.gang.core → c.bytes.isSome = true → ∀ w ∈ c.vlines, w.1 = a.session →
        s.bound a.session (dieOf a.gang.core) a.va w.2 = false)

/-- From R146: the atomics complete: each active lane sets out for the home of its word, the destination is empty until the
old value comes, and the sequence completes; a misaligned address traps MISALIGNED. -/
def Obligations.AtomicsComplete : Prop :=
  ∀ (d a b : Reg) (i : Instr) (op : AtOp),
    (i, op) ∈ [(Instr.atadd d a b, AtOp.add), (.atmin d a b, .min), (.atmax d a b, .max), (.atand d a b, .and),
      (.ator d a b, .or), (.atxor d a b, .xor), (.atxchg d a b, .xchg), (.atcas d a b, .cas), (.atqadd d a b, .qadd)] →
    ∀ s v rx, s.Issues i v rx →
      let size := if op = .qadd ∨ modeType v.mode = 10 then 8 else 4
      let rs := v.atomics (shape i v.mode v.cur.lit.isSome) op d (size / 4)
      (∀ os u, s.Reaches v i rx size size rs os u → exec i s = .next ((u.issued v i rx).sent v size rs os).retire) ∧
      (∀ r q, rs.filter (fun r => decide (r.va.toNat % size ≠ 0)) = r :: q →
        exec i s = .next (s.trapNow 0x20 0 (lanesIn (r :: q)) r.va))

/-- From R147, R148: the new value of memory that an atomic leaves, from its old value and the operands; `atqadd` adds the
units of 2^-32 that its operand holds, truncated toward zero and clamped, modulo 2^64. -/
def Obligations.AtomicValues : Prop :=
  ∀ m : ModeWord,
    let t := modeType m
    (t ∈ [0, 1, 10] →
      NewValue .add m (fun x b _ => IntElems (fun p q _ => p + q) m x b 0) ∧
      NewValue .min m (fun x b _ => IntElems (fun p q _ => if p ≤ q then p else q) m x b 0) ∧
      NewValue .max m (fun x b _ => IntElems (fun p q _ => if p ≤ q then q else p) m x b 0)) ∧
    (t = 2 →
      NewValue .add m (fun x b _ => FltElems (fun r p q _ => FVal.sum r [p, q]) m x b 0) ∧
      NewValue .min m (fun x b _ => FmtElems (fun f _ p q _ => f.least p q) m x b 0) ∧
      NewValue .max m (fun x b _ => FmtElems (fun f _ p q _ => f.greatest p q) m x b 0)) ∧
    NewValue .and m (fun x b _ r => r = x &&& b) ∧
    NewValue .or m (fun x b _ r => r = x ||| b) ∧
    NewValue .xor m (fun x b _ r => r = x ^^^ b) ∧
    NewValue .xchg m (fun _ b _ r => r = b) ∧
    NewValue .cas m (fun x b c r => r =
      if (if t = 10 then x = c else x.setWidth 32 = (c.setWidth 32 : Word)) then b else x) ∧
    NewValue .qadd m (fun x b _ r =>
      (t = 10 → r = x + b) ∧ (t = 0 → r = x + (b.setWidth 32 : Word).signExtend 64) ∧
      (t = 2 → ∀ s n e, (fp32.value (fieldNat b 0 32)).scale 32 = .fin s n e →
        let k : Nat := min (if 0 ≤ e then n * 2 ^ e.toNat else n / 2 ^ (-e).toNat) (2 ^ 63 - 1)
        r = x + BitVec.ofInt 64 (if s then -(k : Int) else k)) ∧
      (t = 2 → fp32.value (fieldNat b 0 32) = .nan → r = x) ∧
      (t = 2 → ∀ s, fp32.value (fieldNat b 0 32) = .inf s →
        r = x + BitVec.ofInt 64 (if s then -(2 ^ 63 - 1) else 2 ^ 63 - 1)))

/-- From R145, R150 to R152: `acq`, `bind` and `unbind` complete, and so does `rel` once the group's older accesses are
performed, no older watch entry is PENDING and none is STRUCK: its dirty copies of bound lines are written back, VERSION sets
out to be advanced, and the group waits for it. An older entry that is PENDING lets it wait with reason RELEASE, and a STRUCK
one traps it. A group with no active lane does nothing. -/
def Obligations.ObjectsComplete : Prop :=
  ∀ d a b : Reg,
    (∀ s v rx i, i ∈ [Instr.acq d a, .rel d a, .bind d a b, .unbind d a b] → s.Issues i v rx → v.act = 0 →
      exec i s = .next (s.issued v i rx).retire) ∧
    (∀ s v rx os u, s.Issues (.acq d a) v rx → v.act ≠ 0 →
      let rs := [v.object (shape (.acq d a) v.mode v.cur.lit.isSome) false d]
      s.Reaches v (.acq d a) rx 8 8 rs os u →
      exec (.acq d a) s = .next ((u.issued v (.acq d a) rx).sent v 8 rs os).retire) ∧
    (∀ s v rx os u undo i, (i, undo) ∈ [(Instr.bind d a b, false), (.unbind d a b, true)] → s.Issues i v rx → v.act ≠ 0 →
      let sh := shape i v.mode v.cur.lit.isSome
      let rs : List LaneReq :=
        [⟨32, v.act, (v.opB sh 0).setWidth 57, .bind undo ((v.opA sh 0).setWidth 57) [] (v.dest d 1)⟩]
      s.Reaches v i rx 8 8 rs os u → exec i s = .next ((u.issued v i rx).sent v 8 rs os).retire) ∧
    (∀ s v rx, s.Issues (.rel d a) v rx → v.act ≠ 0 →
      let older : Prop := ∃ e ∈ v.gang.watch, e.struck = false ∧ e.stamp < v.relStamp s
      let late := s.accessPending v.cur.gang (fun q => decide (q.slices &&& v.cur.slices ≠ 0))
      (∀ os u, late = false → ¬older → (∀ e ∈ v.gang.watch, e.struck = false) →
        let r := v.object (shape (.rel d a) v.mode v.cur.lit.isSome) true d
        s.Reaches v (.rel d a) rx 8 8 [r] os u →
        exec (.rel d a) s = .next ((((u.issued v (.rel d a) rx).publish v.cur.gang.core (v.core.sessionOf v.gang)
          r.va).sent v 8 [r] os).retiredAwaiting .release (destWord (v.dest d 1)))) ∧
      (late = true ∨ older → ∃ w, exec (.rel d a) s = .next w ∧ ∀ y, w.gang? s.cur.gang = some y →
        (y.group s.cur.entry).wait = .release ∨ y.groups.length ≤ s.cur.entry) ∧
      (late = false → ¬older → (∃ e ∈ v.gang.watch, e.struck = true) →
        exec (.rel d a) s = .next ((s.updGang v.cur.gang (fun x => { x with watch := [] })).trapNow 0x21 0
          ((v.gang.watch.filter (·.struck)).foldl (fun m e => m ||| e.own) 0) 0)))

/-- From R151, R154: `acqw` completes once VERSION has reached B in the order of R151, with the S copies of the bound lines
gone, and waits with reason ACQ before; `fence` completes once the group's older accesses are performed, and from crew
scope on it discards the core's S copies and writes back its dirty ones. -/
def Obligations.WaitsOnMemoryComplete : Prop :=
  ∀ (a b : Reg) (scope : BitVec 8),
    (∀ s v rx, s.Issues (.acqw a b) v rx → v.act = 0 → exec (.acqw a b) s = .next (s.issued v (.acqw a b) rx).retire) ∧
    (∀ s v rx t p u r, s.Issues (.acqw a b) v rx → v.act ≠ 0 → v.core.team? v.gang.team = some t →
      let sh := shape (.acqw a b) v.mode v.cur.lit.isSome
      let va : VAddr := (v.opA sh 0).setWidth 57
      let ask : LaneReq := ⟨32, v.act, va, .version false []⟩
      va.toNat % 8 = 0 →
      (isAperture va = true → ∃ q, s.aperture v.cur.gang.core t va.toNat 8 = some q) →
      s.resolve1 (laneAsk v.core v.cur.gang.core v.gang ask) t 8 ask = (⟨r, .ok p, va⟩, u) →
      u.accessPending v.cur.gang (fun q => samePlace q.place p q.size 8) = false →
      (((BitVec.ofNat 32 (natOfBytes (u.readPlace p 4)) - (v.opB sh 0).setWidth 32 : Word).toNat < 2 ^ 31 →
        exec (.acqw a b) s = .next ((((u.watchVirtual v.cur.gang v.cur.addr 2 [va] 4).issued v (.acqw a b) rx).acquire
          v.cur.gang.core (v.core.sessionOf v.gang) va).retire)) ∧
       (2 ^ 31 ≤ (BitVec.ofNat 32 (natOfBytes (u.readPlace p 4)) - (v.opB sh 0).setWidth 32 : Word).toNat →
        ∃ w, exec (.acqw a b) s = .next w ∧ ∀ y, w.gang? s.cur.gang = some y → (y.group s.cur.entry).wait = .acq ∨
          y.groups.length ≤ s.cur.entry))) ∧
    (∀ s v rx, s.Issues (.fence scope) v rx →
      s.accessPending v.cur.gang (fun q => decide (q.slices &&& v.cur.slices ≠ 0)) = false →
      ∃ (w : State) (x : Gang), exec (.fence scope) s = .next w.retire ∧
        w.mem = s.mem ∧ w.agenda = s.agenda ∧ w.cur = s.cur ∧ (∀ c, (w.core c).store = (s.core c).store) ∧
        w.gang? s.cur.gang = some x ∧ x = { v.gang with rx := v.gang.rx || rx, watch := x.watch } ∧
        (1 ≤ scope.toNat → ∀ c ∈ w.copies, c.holder = .l1 v.cur.gang.core → c.bytes = none ∧ c.dirty = false) ∧
        (3 ≤ scope.toNat → ∀ c ∈ w.copies, c.holder = .l2 (dieOf v.cur.gang.core) → c.bytes.isSome = true →
          homeDie (c.line * 128) = dieOf v.cur.gang.core ∨ (scope.toNat = 3 ∧ inModule (c.line * 128) = false))) ∧
    (∀ s v rx, s.Issues (.fence scope) v rx →
      s.accessPending v.cur.gang (fun q => decide (q.slices &&& v.cur.slices ≠ 0)) = true →
      exec (.fence scope) s = .next (s.hold .fence))

/-- From R155 to R157, R218. Slices at a barrier that have been let pass go on; others stand there, wait with reason BARRIER or CBAR,
and the barrier settles; `barv.wait` and `cbar.wait` complete at once without an arrival or once its generation has
completed and the accesses older than the arrivals are performed, and wait before that; a completed `cbar.wait` discards the
S copies of its core. `fetake` leaves a full copy empty with a handoff producer in
each active lane and its word as it is; `feput` writes B to a handoff-empty copy and makes it full; each waits where the
copy is not so; `fetest` writes a predicate; `wshare` maps the range. -/
def Obligations.BarriersAndHandoffsComplete : Prop :=
  (∀ (id : BitVec 4) (n : BitVec 16) (i8 n8 : BitVec 8),
    let passed (v : View) : Prop := ∀ k, k < 8 → v.cur.slices.getLsbD k = true → (v.gang.slice k).stop = .passed
    let stand (s : State) (st : Stop) (r : WaitReason) : State := (s.hold r).updGang s.cur.gang fun x =>
      x.mapSlices s.cur.slices fun _ sl => if sl.stop = .passed then sl else { sl with stop := st }
    (∀ i, i ∈ [Instr.bar id n, .barvArrive i8 n8, .cbar id, .cbarArrive id] →
      SliceWise i (fun v _ => passed v) (fun v _ _ => advance v)) ∧
    (∀ s v rx, s.Issues (.bar id n) v rx → ¬passed v → exec (.bar id n) s = .next
      ((stand s (.bar id.toNat n.toNat false) .barrier).settleBar
        s.cur.gang.core v.gang.team id.toNat 20)) ∧
    (∀ s v rx, s.Issues (.barvArrive i8 n8) v rx → ¬passed v → exec (.barvArrive i8 n8) s = .next
      ((stand s (.bar i8.toNat n8.toNat true) .barrier).settleBar
        s.cur.gang.core v.gang.team i8.toNat 20)) ∧
    (∀ s v rx t, s.Issues (.cbar id) v rx → ¬passed v → v.core.team? v.gang.team = some t → exec (.cbar id) s = .next
      ((stand s (.cbar id.toNat false) .cbar).settleCbar t.crew id.toNat 4)) ∧
    (∀ s v rx t, s.Issues (.cbarArrive id) v rx → ¬passed v → v.core.team? v.gang.team = some t →
      exec (.cbarArrive id) s = .next
        ((stand s (.cbar id.toNat true) .cbar).settleCbar t.crew id.toNat 4)) ∧
    SliceWise (.barvWait i8) (fun v _ => ∀ a t, Cells.find? v.gang.bars i8.toNat = some a →
      v.core.team? v.gang.team = some t → a.gen < (t.bar i8.toNat).gen ∧ (t.bar i8.toNat).older = [])
      (fun v _ _ => advance v) ∧
    (∀ s v rx a t, s.Issues (.barvWait i8) v rx → Cells.find? v.gang.bars i8.toNat = some a →
      v.core.team? v.gang.team = some t → (t.bar i8.toNat).gen ≤ a.gen ∨ (t.bar i8.toNat).older ≠ [] →
      exec (.barvWait i8) s = .next (s.hold .barrier)) ∧
    (∀ s v rx, s.Issues (.cbarWait id) v rx →
      (Cells.find? v.gang.cbars id.toNat = none ∨ s.crewOf s.cur.gang.core v.gang = none) →
      ∃ t, exec (.cbarWait id) s = .next t ∧ s.Moves t v rx (fun _ => advance v)) ∧
    (∀ s v rx a c, s.Issues (.cbarWait id) v rx → Cells.find? v.gang.cbars id.toNat = some a →
      s.crewOf s.cur.gang.core v.gang = some c → a.gen < (c.bar id.toNat).gen → (c.bar id.toNat).older = [] →
      exec (.cbarWait id) s =
        .next ((s.issued v (.cbarWait id) rx).dropL1S s.cur.gang.core (fun _ => true)).retire) ∧
    (∀ s v rx a c, s.Issues (.cbarWait id) v rx → Cells.find? v.gang.cbars id.toNat = some a →
      s.crewOf s.cur.gang.core v.gang = some c → (c.bar id.toNat).gen ≤ a.gen ∨ (c.bar id.toNat).older ≠ [] →
      exec (.cbarWait id) s = .next (s.hold .cbar))) ∧
  (∀ (a b : Reg) (p : BitVec 3),
    let ws (v : View) : List Nat := (lanesOf v.act).map fun l => a.toNat * 32 + l
    let ready (v : View) : Prop := ∀ m ∈ v.gang.latency, ∀ e ∈ m.writes, e.1 ∉ ws v
    PredWise (.fetest p b) p (fun v _ l => v.core.copy v.gang (b.toNat * 32 + l) = .full) ∧
    (∀ s v rx, s.Issues (.fetake a) v rx → ready v → (∀ w ∈ ws v, v.core.copy v.gang w = .full) →
      let k := (s.issued v (.fetake a) rx).core s.cur.gang.core
      exec (.fetake a) s = .next (((s.issued v (.fetake a) rx).setCore s.cur.gang.core
        (((ws v).foldl (fun k w => k.setCopy v.gang w (.empty .handoff)) k).wakeMapping wokenByHandoff
          ((ws v).map (v.core.phys v.gang)))).retire)) ∧
    (∀ s v rx, s.Issues (.feput a b) v rx → ready v → (∀ w ∈ ws v, v.core.copy v.gang w = .empty .handoff) →
      let k := (s.issued v (.feput a b) rx).core s.cur.gang.core
      exec (.feput a b) s = .next (((s.issued v (.feput a b) rx).setCore s.cur.gang.core
        ((k.setRegs v.gang ((lanesOf v.act).map fun l => (a.toNat * 32 + l,
          (v.opB (shape (.feput a b) v.mode v.cur.lit.isSome) l).setWidth 32))).wakeMapping wokenByHandoff
          ((ws v).map (v.core.phys v.gang)))).retire)) ∧
    (∀ s v rx w, s.Issues (.fetake a) v rx → ready v → w ∈ ws v → v.core.copy v.gang w ≠ .full →
      (∀ u ∈ ws v, v.core.copy v.gang u ≠ .lost) →
      exec (.fetake a) s = .next (s.hold .empty)) ∧
    (∀ s v rx w, s.Issues (.feput a b) v rx → ready v → w ∈ ws v → v.core.copy v.gang w ≠ .empty .handoff →
      (∀ u ∈ ws v, v.core.copy v.gang u ≠ .lost) →
      exec (.feput a b) s = .next (s.hold .full)) ∧
    (∀ s v rx, s.Issues (.wshare a b) v rx →
      let kb : Word := (v.opB (shape (.wshare a b) v.mode v.cur.lit.isSome) 0).setWidth 32
      let n := fieldNat kb 16 8
      ∀ slot y, (v.core.teamGangs v.gang.team).find? (fun e => decide (e.2.num = fieldNat kb 0 4)) = some (slot, y) →
      v.gang.isWhole = true → fieldNat kb 4 4 = 0 → fieldNat kb 24 8 = 0 → n ≠ 0 → slot ≠ s.cur.gang.slot →
      y.liveSet ≠ 0 → a.toNat + n ≤ v.gang.vcount → fieldNat kb 8 8 + n ≤ y.vcount →
      v.core.sharedRun s.cur.gang.slot v.gang a.toNat n = false → v.core.sharedRun slot y (fieldNat kb 8 8) n = false →
      (∀ m ∈ v.gang.latency, ∀ e ∈ m.writes, ¬(a.toNat * 32 ≤ e.1 ∧ e.1 < (a.toNat + n) * 32)) →
      (∀ j, j < n * 32 → ∀ q, v.core.copy v.gang (a.toNat * 32 + j) ≠ .empty q) →
      ∃ t, exec (.wshare a b) s = .next t ∧ ∃ x, t.gang? s.cur.gang = some x ∧
        x.shares = v.gang.shares ++ [⟨a.toNat, n, slot, fieldNat kb 8 8⟩] ∧
        (∀ c, (t.core c).store = (s.core c).store) ∧ (∀ c, Cells.get 0 t.mem c = Cells.get 0 s.mem c) ∧
        ∀ h, h ≠ s.cur.gang → t.gang? h = s.gang? h))
/-! Engines, queues and channels. -/

namespace Sys2Proof.Machine

/-- From `u` to `t` the present sequence has pushed a command that does `op` on channel `ch` into queue `q` of its core:
it is the queue's youngest and has not fired, the gang's counter of the queue has risen by 1, and the sequence has
completed (R175, R179, R190). No register word and no byte of memory has changed. -/
structure State.Pushed (u t : State) (v : View) (q : Nat) (op : CmdOp) (ch : Nat) : Prop where
  queue : ∃ k : Cmd, (t.core v.cur.gang.core).queues = (u.core v.cur.gang.core).queues.modify q (fun l => l ++ [k]) ∧
    k.op = op ∧ k.ch = ch ∧ k.gang = v.cur.gang ∧ k.team = v.gang.team ∧ k.fired = false ∧ k.done = false ∧
    Event.commandFire v.cur.gang.core q k.id ∈ t.agenda
  counter : ∀ x, u.gang? v.cur.gang = some x → ∃ y, t.gang? v.cur.gang = some y ∧
    y.counters = x.counters.set q (x.counters.getD q 0 + 1) ∧ y.trap = x.trap ∧ y.preds = x.preds ∧
    ∀ n, n < 8 → y.slice n = if v.cur.slices.getLsbD n && x.live n then advance v (x.slice n) else x.slice n
  memory : ∀ a, Cells.get 0 t.mem a = Cells.get 0 u.mem a
  store : ∀ c, (t.core c).store = (u.core c).store

/-- Wherever a sequence with engine instruction `i` issues: with no active lane it completes; where `check` (R192) finds
a cause it traps; where it finds command `op`, queue `q` and its counter have room, and neither the crew barrier's
pending bytes nor the undo log stand against it, the command is pushed. -/
def PushesWhen (i : Instr) (q : Nat) (check : State → View → Shape → Team → EngCheck) : Prop :=
  ∀ s v rx, s.Issues i v rx →
    let sh := shape i v.mode v.cur.lit.isSome
    (v.act = 0 → exec i s = .next (s.issued v i rx).retire) ∧
    (∀ t c info lanes addr, v.act ≠ 0 → v.core.team? v.gang.team = some t → check s v sh t = .trap c info lanes addr →
      exec i s = .next (s.trapNow c info lanes addr)) ∧
    (∀ t op ch n, v.act ≠ 0 → v.core.team? v.gang.team = some t → check s v sh t = .go op ch n →
      v.gang.counters.getD q 0 < 63 → v.core.queued q < Config.queueDepth.getD q 0 → s.pbcFull t op = false →
      s.logHolds (v.core.sessionOf v.gang) n = true → ∃ w, exec i s = .next w ∧ (s.issued v i rx).Pushed w v q op ch)

/-- The same for a matrix instruction: its plan `p` is what its fields, the tile controls and its operands at issue say;
its tiles pass R192 and its claim of the accumulator succeeds (R185). -/
def PlansWhen (i : Instr) (p : View → Shape → Team → MxPlan) (dst : View → Dest) : Prop :=
  ∀ s v rx t, s.Issues i v rx → v.core.team? v.gang.team = some t →
    let sh := shape i v.mode v.cur.lit.isSome
    (v.act = 0 → exec i s = .next (s.issued v i rx).retire) ∧
    (∀ c info, v.act ≠ 0 → (p v sh t).tileTrap t = some (c, info) →
      exec i s = .next (s.trapNow c info (v.tlanes sh) 0)) ∧
    (∀ u x, v.act ≠ 0 → (p v sh t).tileTrap t = none → s.checkAcc v t (p v sh t) = .go u →
      u.gang? s.cur.gang = some x → v.gang.counters.getD 1 0 < 63 → (u.core s.cur.gang.core).queued 1 < Config.queueDepth.getD 1 0 →
      ∃ w, exec i s = .next w ∧ ((u.issued v i rx).expect (dst v)).Pushed w v 1 (.matrix (p v sh t).op) 0)

end Sys2Proof.Machine

/-- From R190, R192, R200, R204, R220: the copy, gather and collective instructions push their commands; the conditions of
`copy`, where neither side is a ring, are those of the second part. -/
def Obligations.CopyCommandsPush : Prop :=
  ∀ (d a b : Reg) (ch : BitVec 2) (n : BitVec 4),
    PushesWhen (.copy d a b) 0 (fun s v sh t => copyCheck s v sh t false) ∧
    PushesWhen (.cfill d a b) 0 (fun s v sh t => copyCheck s v sh t true) ∧
    PushesWhen (.tld ch n a b) 0 (fun s v sh t => tileCheck s v sh t n.toNat ch.toNat true) ∧
    PushesWhen (.tsto ch n a b) 0 (fun s v sh t => tileCheck s v sh t n.toNat ch.toNat false) ∧
    PushesWhen (.gath d a b) 2 (fun s v sh t => gatherCheck s v sh t true) ∧
    PushesWhen (.scat d a b) 2 (fun s v sh t => gatherCheck s v sh t false) ∧
    PushesWhen (.mcast d a b) 3 mcastCheck ∧
    (∀ s v sh t,
      let c : Word := (v.opB sh 0).setWidth 32
      let len := c.toNat % 2 ^ 20
      let src : VAddr := (v.opA sh 0).setWidth 57
      let dst : VAddr := (v.opC sh 0).setWidth 57
      c.getLsbD 22 = false → c.getLsbD 26 = false →
      (c.getLsbD 30 = false → c.getLsbD 31 = false → s.rangeOk v.cur.gang.core t src 0 len = true →
        s.rangeOk v.cur.gang.core t dst 0 len = true →
        copyCheck s v sh t false = .go (.copy dst src c) (c.toNat / 2 ^ 20 % 4) (len / 128 + 2)) ∧
      ((c.getLsbD 30 = true ∨ c.getLsbD 31 = true) → copyCheck s v sh t false = .trap 0x02 0 v.act 0) ∧
      (c.getLsbD 30 = false → c.getLsbD 31 = false → s.rangeOk v.cur.gang.core t src 0 len = false →
        copyCheck s v sh t false = .trap 0x40 0x300 v.act src))

/-- From R192 to R199: the matrix instructions push their commands, whose operands are those of issue. -/
def Obligations.MatrixCommandsPush : Prop :=
  ∀ (d b : Reg) (c : BitVec 2) (m n : BitVec 4) (e6 : BitVec 6) (e8 k : BitVec 8) (f : BitVec 1),
    let none' (_ : View) : Dest := []
    let lanes (v : View) : Dest := (lanesOf v.act).map fun l => (l, [d.toNat * 32 + l])
    PlansWhen (.tmma c m n) (fun _ _ t => ⟨.tmma c.toNat m.toNat n.toNat,
      [(m.toNat, decide ((t.tile m.toNat).rows ≤ 32)), (n.toNat,
        decide ((t.tile m.toNat).cols = (t.tile n.toNat).rows) && decide ((t.tile n.toNat).typ = (t.tile m.toNat).typ))],
      none, some c.toNat, some m.toNat⟩) none' ∧
    PlansWhen (.ttr c m) (fun _ _ t => ⟨.ttr c.toNat m.toNat, [(m.toNat, decide ((t.tile m.toNat).cols ≤ 32))],
      none, some c.toNat, some m.toNat⟩) none' ∧
    PlansWhen (.tred c m) (fun _ _ t => ⟨.tred c.toNat m.toNat, [(m.toNat, decide ((t.tile m.toNat).rows ≤ 32))],
      none, some c.toNat, some m.toNat⟩) none' ∧
    PlansWhen (.tperm c m b) (fun v sh t => ⟨.tperm c.toNat m.toNat ((List.range 32).map fun l =>
        let x := ((v.opB sh l).setWidth 32 : Word).toNat
        if v.act.getLsbD l = true ∧ x < (t.tile m.toNat).rows then some x else none),
      [(m.toNat, true)], none, some c.toNat, some m.toNat⟩) none' ∧
    PlansWhen (.azero c) (fun _ _ _ => ⟨.azero c.toNat, [], none, some c.toNat, none⟩) none' ∧
    PlansWhen (.acvt c f e8) (fun v _ _ => ⟨.acvt c.toNat (f.getLsbD 0) e8.toInt (modeRnd v.mode), [], none,
      some c.toNat, none⟩) none' ∧
    PlansWhen (.amov d e6 c k) (fun v _ _ => ⟨.amov c.toNat k.toNat e6.toInt (modeType v.mode) (modeRnd v.mode)
      ((lanesOf v.act).map fun l => (l, d.toNat * 32 + l)), [], none, some c.toNat, none⟩) lanes ∧
    PlansWhen (.amovt m c e8) (fun v _ t => ⟨.amovt m.toNat c.toNat e8.toInt (modeRnd v.mode),
      [(m.toNat, decide ((t.tile m.toNat).rows ≤ 32))], none, some c.toNat, none⟩) none' ∧
    PlansWhen (.tmvGet d m k) (fun v _ _ => ⟨.tmvGet m.toNat k.toNat ((lanesOf v.act).map fun l => (l, d.toNat * 32 + l)),
      [(m.toNat, true)], some k.toNat, none, none⟩) lanes ∧
    PlansWhen (.tmvPut d m k) (fun v sh _ => ⟨.tmvPut m.toNat k.toNat ((lanesOf v.act).map fun l =>
      (l, (v.opC sh l).setWidth 32)), [(m.toNat, true)], some k.toNat, none, none⟩) none' ∧
    PlansWhen (.tfill m b) (fun v sh _ => ⟨.tfill m.toNat ((v.opB sh 0).setWidth 32), [(m.toNat, true)], none, none,
      none⟩) none' ∧
    PlansWhen (.arest c) (fun _ _ _ => ⟨.arest c.toNat, [], none, some c.toNat, none⟩) none'

/-- From R185, R198 and R202: `asave` gives up the accumulator once its owner's image is written, and its command is pushed;
`copyf` pushes its copy, and its follow-on command waits behind it and is counted. -/
def Obligations.SaveAndFollowOnPush : Prop :=
  ∀ (c ch : BitVec 2) (m : BitVec 4) (a b : Reg),
    (∀ s v rx, s.Issues (.asave c) v rx → v.act = 0 → exec (.asave c) s = .next (s.issued v (.asave c) rx).retire) ∧
    (∀ s v rx, s.Issues (.asave c) v rx → v.act ≠ 0 → v.gang.counters.getD 1 0 < 63 →
      v.core.queued 1 < Config.queueDepth.getD 1 0 →
      let x := v.core.accs.getD c.toNat Acc.init
      (x.valid = false → ∃ w, exec (.asave c) s = .next w ∧
        (s.issued v (.asave c) rx).Pushed w v 1 (.matrix (.asave c.toNat)) 0) ∧
      (∀ u g, x.valid = true → s.accBusy s.cur.gang.core c.toNat x.session = false →
        s.spill s.cur.gang.core c.toNat x = .done () u → u.gang? s.cur.gang = some g →
        ∃ w, exec (.asave c) s = .next w ∧
          ((u.updAcc s.cur.gang.core c.toNat (fun y => { y with valid := false })).issued v (.asave c) rx).Pushed w v 1
            (.matrix (.asave c.toNat)) 0)) ∧
    (∀ s v rx t j p op n k u x, s.Issues (.copyf ch m a b) v rx → v.act ≠ 0 → v.core.team? v.gang.team = some t →
      let sh := shape (.copyf ch m a b) v.mode v.cur.lit.isSome
      followInstr ((v.opB sh 0).extractLsb' 32 32) = some j → mxPlan j v sh t = some p →
      tileCheck s v sh t m.toNat ch.toNat true = .go op n k → p.tileTrap t = none → s.checkAcc v t p = .go u →
      u.gang? s.cur.gang = some x → v.gang.counters.getD 0 0 < 63 → v.gang.counters.getD 1 0 < 63 →
      (u.core s.cur.gang.core).queued 0 < Config.queueDepth.getD 0 0 → u.logHolds (v.core.sessionOf v.gang) k = true →
      ∃ w f, exec (.copyf ch m a b) s = .next w ∧
        (w.core s.cur.gang.core).follow = (u.core s.cur.gang.core).follow ++ [f] ∧ f.op = .matrix p.op ∧
        f.gang = s.cur.gang ∧ f.fired = false ∧
        (∃ y, w.gang? s.cur.gang = some y ∧
          y.counters = (x.counters.set 0 (x.counters.getD 0 0 + 1)).set 1 ((x.counters.set 0 (x.counters.getD 0 0 + 1)).getD 1 0 + 1)) ∧
        ∀ z, Cells.get 0 w.mem z = Cells.get 0 u.mem z)

/-- From R205, R206, R208, R213: `cwp` and `wait` complete: `cwp` reads the channel's count of landed bytes, and `wait` goes on
once the counter has fallen to its immediate, in a handler without the held matrix commands (log 61); `qwait` goes on once the registers of every active lane are full, and traps
PRODUCER_LOST where one is lost. -/
def Obligations.EngineWaitsComplete : Prop :=
  ∀ (d : Reg) (ch : BitVec 2) (c : BitVec 3) (n : BitVec 6) (r : BitVec 5),
    let regs (v : View) : List Nat :=
      (lanesOf v.act).flatMap fun l => (List.range (r.toNat + 1)).map fun i => (d.toNat + i) * 32 + l
    (∀ s v rx t, s.Issues (.cwp d ch) v rx → v.core.team? v.gang.team = some t → ∃ w, exec (.cwp d ch) s = .next w ∧
      s.Delivers w v (shape (.cwp d ch) v.mode v.cur.lit.isSome) rx (v.laneResults d 1 fun _ => (t.cwp.getD ch.toNat 0).setWidth 64) []) ∧
    SliceWise (.wait c n) (fun v _ => v.gang.counters.getD c.toNat 0 - v.heldCmds c.toNat ≤ n.toNat)
      (fun v _ _ => advance v) ∧
    (∀ s v rx, s.Issues (.wait c n) v rx → n.toNat < v.gang.counters.getD c.toNat 0 - v.heldCmds c.toNat →
      exec (.wait c n) s = .next (s.hold .acount)) ∧
    (∀ v : View, (c.toNat ≠ 1 ∨ v.gang.trap.tcause.getLsbD 15 = false) → v.heldCmds c.toNat = 0) ∧
    SliceWise (.qwait d r) (fun v _ => ∀ w ∈ regs v, v.core.copy v.gang w = .full) (fun v _ _ => advance v) ∧
    (∀ s v rx w, s.Issues (.qwait d r) v rx → w ∈ regs v → v.core.copy v.gang w = .lost →
      exec (.qwait d r) s = .next (s.trapNow 0x11 0 (laneSet fun l => v.act.getLsbD l && decide (∃ i, i < r.toNat + 1 ∧
        v.core.copy v.gang ((d.toNat + i) * 32 + l) = .lost)) 0)) ∧
    (∀ s v rx w, s.Issues (.qwait d r) v rx → w ∈ regs v → v.core.copy v.gang w ≠ .full →
      (∀ u ∈ regs v, v.core.copy v.gang u ≠ .lost) →
      exec (.qwait d r) s = .next (s.hold .empty))

/-- From R158 to R160, R208: the channel and queue instructions, once the capability entry is read. A valid entry with its
permission lets `send` append the lanes' words, `recv` wait for a message, `qcall` enter its calls, one for each active
lane; `chinfo` and `qpoll` deliver what the entry and the queue show; ALLOW falls at the place that its claim finds (log 55).
An invalid entry traps CAP_INVALID, and one without the permission CAP_PERM. -/
def Obligations.ChannelsComplete : Prop :=
  ∀ (d : Reg) (c : BitVec 6) (r n : BitVec 5) s v rx e va p u,
    let entry (i : Instr) : Prop := s.Issues i v rx ∧ s.capRead v c.toNat = (some (e, va, p), u)
    let ses := v.core.sessionOf v.gang
    let port := u.port ses (dieOf s.cur.gang.core) (capEp e)
    let sh (i : Instr) : Shape := shape i v.mode v.cur.lit.isSome
    let bad (i : Instr) : State := u.trapNow 0x22 0 (v.tlanes (sh i)) 0
    (∀ q w u2, entry (.send d c) → port = .channel q → capValid e (.channel q) = true → capSend e = true →
      capAllow e ≠ 0 → u.capClaim v e va p = (some w, u2) → q.msgs.length < 8 → v.behind q.num = false →
      let u3 := u2.issued v (.send d c) rx
      u3.logFits ses w.toList = true →
      exec (.send d c) s = .next (((u3.appendMsg ses q.num ((List.range 32).map fun l =>
        if v.act.getLsbD l then (v.opC (sh (.send d c)) l).setWidth 32 else 0)).capSpend s.cur.gang.core ses w).retire)) ∧
    (∀ q, entry (.recv d c) → port = .channel q → capValid e (.channel q) = true → capRecv e = true → v.act ≠ 0 →
      exec (.recv d c) s = .next ((((u.issued v (.recv d c) rx).expect (v.dest d 1)).post
        (.channelDelivery s.cur.gang ses q.num (v.dest d 1))).retire)) ∧
    (entry (.chinfo d c) → exec (.chinfo d c) s =
      .next (((u.issued v (.chinfo d c) rx).result v (sh (.chinfo d c))
        (v.laneResults d 1 fun _ => (chinfoWord e port).setWidth 64) []).retire)) ∧
    (∀ die depth, entry (.qpoll d c) → port = .queue die depth → capValid e port = true →
      exec (.qpoll d c) s = .next (((u.issued v (.qpoll d c) rx).result v (sh (.qpoll d c)) (v.laneResults d 1 fun _ =>
        BitVec.ofNat 64 ((depth * 65536 + u.freeCalls ses die (capEp e) depth) % 2 ^ 32)) []).retire)) ∧
    (∀ die depth w u2, entry (.qcall d r n c) → port = .queue die depth → capValid e port = true → capSend e = true →
      capAllow e ≠ 0 → v.act ≠ 0 → v.gang.counters.getD 4 0 < 63 → v.core.queued 4 < Config.queueDepth.getD 4 0 →
      u.capClaim v e va p = (some w, u2) →
      (lanesOf v.act).length ≤ u2.freeCalls ses die (capEp e) depth → v.behind (capEp e) = false →
      let u3 := u2.issued v (.qcall d r n c) rx
      u3.logFits ses w.toList = true →
      let xs := v.qcalls (sh (.qcall d r n c)) (capEp e) die c.toNat r.toNat d u3.nextId
      exec (.qcall d r n c) s = .next (((((u3.fresh.expect (xs.map fun x => (x.lane, x.dst))).updGang s.cur.gang fun x =>
        { x.count 4 with calls := x.calls ++ [(u3.nextId, xs.length)] }).postAll
          (xs.map fun x => callEvent x u3.mid)).capSpend s.cur.gang.core ses w).retire)) ∧
    (∀ i, i ∈ [Instr.send d c, .recv d c] → entry i → (∀ q, port ≠ .channel q) → exec i s = .next (bad i)) ∧
    (∀ q, entry (.send d c) → port = .channel q → capValid e (.channel q) = true → (capSend e = false ∨ capAllow e = 0) →
      exec (.send d c) s = .next (u.trapNow 0x23 0 (v.tlanes (sh (.send d c))) 0))

/-! Forms: clusters, recovery, debugging, translation, sharing. -/

namespace Sys2Proof.Machine

/-- Wherever a sequence with form `i` issues in `s`, with `u` the state in which it takes effect, and `ok` holds, the next
state is the one `act` gives. -/
def ActsWhen (i : Instr) (ok : State → State → View → Shape → Prop) (act : State → State → View → Shape → State) : Prop :=
  ∀ s v rx, s.Issues i v rx →
    let u := s.issued v i rx
    let sh := shape i v.mode v.cur.lit.isSome
    ok s u v sh → exec i s = .next (act s u v sh)

/-- `t` is `u` after the form's result `ws` has set out to its uniform registers from `b` on: they are empty until it
comes, its delivery is on its way, no byte of memory has changed, and the group waits with reason `SCHED` (R393). -/
structure State.Answered (u t : State) (v : View) (b : Reg) (ws : List Word) : Prop where
  state : t = u.formDone v b .sched ws
  coming : ∀ e ∈ deliveries v.cur.gang (v.dest b ws.length) ws, e ∈ t.agenda
  memory : t.mem = u.mem

/-- Wherever a sequence with form `i` issues and `ok` holds of the state in which it takes effect, what it does is `act`,
and its result is `ws`. -/
def AnswersWhen (i : Instr) (b : Reg) (ok : State → View → Shape → Prop) (act : State → View → Shape → State)
    (ws : State → View → Shape → List Word) : Prop :=
  ∀ s v rx, s.Issues i v rx →
    let u := s.issued v i rx
    let sh := shape i v.mode v.cur.lit.isSome
    ok u v sh → ∃ t, exec i s = .next t ∧ (act u v sh).Answered t v b (ws u v sh)

/-- The state in which a form that may have to wait has its turn, and the operands `f` with which it has it (R280, R393):
at its issue, where its own check `bad` does not hold, or taken up again after a wait, with the operands it read then. -/
inductive State.Turn (s : State) (i : Instr) (bad : View → Shape → Prop) (dst : View → Dest) (v : View) (f : FormHold) (u : State) :
    Bool → Prop where
  | first (rx : Bool) (issues : s.Issues i v rx) (fresh : v.gang.form? v.cur.entry = none)
      (good : ¬ bad v (shape i v.mode v.cur.lit.isSome))
      (operands : f = ⟨v.cur, i, v.opA (shape i v.mode v.cur.lit.isSome) 0, v.opB (shape i v.mode v.cur.lit.isSome) 0, dst v⟩)
      (state : u = (s.issued v i rx).formTurn) : State.Turn s i bad dst v f u false
  | again (present : s.view? = some v) (held : v.gang.form? v.cur.entry = some f)
      (state : u = s.formTurn.updGang v.cur.gang (fun x => { x with forms := x.forms.filter (fun h => decide (h ≠ f)) })) :
      State.Turn s i bad dst v f u true

/-- At each turn of form `i` at which `ok` holds, the next state is the one `act` gives. -/
def TurnActs (i : Instr) (bad : View → Shape → Prop) (dst : View → Dest) (ok : State → View → FormHold → Bool → Prop)
    (act : State → View → FormHold → Bool → State) : Prop :=
  ∀ s v f u again, s.Turn i bad dst v f u again → ok u v f again → exec i s = .next (act u v f again)

/-- At each turn of form `i` at which `ok` holds, what it does is `act`, and its result is `ws`. -/
def TurnAnswers (i : Instr) (bad : View → Shape → Prop) (b : Reg) (n : Nat) (ok : State → View → FormHold → Prop)
    (act : State → View → FormHold → State) (ws : State → View → FormHold → List Word) : Prop :=
  ∀ s v f u again, s.Turn i bad (fun v => v.dest b n) v f u again → ok u v f →
    ∃ t, exec i s = .next t ∧ (act u v f).Answered t v b (ws u v f)

/-- The word operands of a form: the first register of slot A, and that of slot B. -/
def View.word (v : View) (sh : Shape) : Word := (v.opA sh 0).setWidth 32
def View.sel (v : View) (sh : Shape) : Word := (v.opB sh 0).setWidth 32
def FormHold.sel (f : FormHold) : Word := f.b.setWidth 32
def FormHold.word (f : FormHold) : Word := f.a.setWidth 32

/-- The form names its own session, or its issuer is of PL2 or above (R280, R348). -/
def View.names (v : View) (n : Nat) : Prop := n = v.core.sessionOf v.gang ∨ 2 ≤ v.core.level v.gang

/-- A form leaves everything as it was but for its answer. -/
def asWas (u : State) (_ : View) (_ : Shape) : State := u
def turnAsWas (u : State) (_ : View) (_ : FormHold) : State := u

/-- The answer of a form: a status and a value of 0. -/
def status (n : Nat) (_ : State) (_ : View) (_ : Shape) : List Word := [statusWord n 0]
def turnStatus (n : Nat) (_ : State) (_ : View) (_ : FormHold) : List Word := [statusWord n 0]

/-- A form traps at its own check: cause and INFO. -/
def trapWith (c : BitVec 8) (n : BitVec 16) (s _ : State) (v : View) (sh : Shape) : State := s.trapNow c n (v.tlanes sh) 0

/-- A form at its turn waits with reason `SCHED`, its result's registers empty (R280, R393). -/
def waits (u : State) (_ : View) (f : FormHold) (_ : Bool) : State := u.holdForm f .sched

end Sys2Proof.Machine

/-- From R225 to R235 and R327 to R331: the `clu` forms read the crew's barrier count and CSTAT; each `dbg` form, where R228
finds the crew `c` that its selector names and no check of its own fails, has its effect; reserved bits of a crew or gang
selector, or of a cluster word, trap ILLEGAL_FIELD, and where R228 finds cause `x` and INFO `n` each form on a crew traps with
them. -/
def Obligations.ClusterAndDebugFormsComplete : Prop :=
  ∀ (a b : Reg) (id w : BitVec 8) (c : Crew),
    let found (n : DbgNeed) (s _ : State) (v : View) (sh : Shape) : Prop :=
      fieldNat (v.wordB sh 0) 16 16 = 0 ∧ s.dbgCrew v (v.wordB sh 0) n = .ok c
    let held : DbgNeed := ⟨some true, false, false, false⟩
    let inRank : DbgNeed := ⟨some true, true, true, false⟩
    let inGang : DbgNeed := ⟨some true, true, true, true⟩
    let die (v : View) : Nat := dieOf v.cur.gang.core
    let at_ (v : View) (sh : Shape) : Nat := fieldNat (v.wordB sh 0) 0 4
    let cluster (_ _ : State) (v : View) (sh : Shape) : Prop :=
      fieldNat (v.wordB sh 0) 4 28 = 0 ∧ at_ v sh < 12 ∧ at_ v sh ≠ clusterOf v.cur.gang.core
    let own (_ _ : State) (v : View) (sh : Shape) : Prop :=
      fieldNat (v.wordB sh 0) 4 28 = 0 ∧ at_ v sh < 12 ∧ at_ v sh = clusterOf v.cur.gang.core
    let ctl (v : View) (sh : Shape) : Prop := fieldNat (v.wordB sh 1) 7 25 = 0
    let size (v : View) (sh : Shape) : Nat := 2 ^ fieldNat (v.wordB sh 1) 0 2
    (∀ s v rx, s.Issues (.cluPbc a id) v rx → (s.issued v (.cluPbc a id) rx).crewOf v.cur.gang.core v.gang = some c →
      exec (.cluPbc a id) s = .next ((s.issued v (.cluPbc a id) rx).formResult v a
        (BitVec.setWidth 32 (BitVec.ofNat 28 ((c.bar id.toNat).pbc.getD (c.rankOf v.cur.gang.core) 0))))) ∧
    ActsWhen (.cluCstat a b) (fun _ _ v sh => fieldNat (v.wordB sh 0) 16 16 = 0) (fun s u v sh =>
      u.formResult v a (s.cstat (s.crewAt (die v) (v.wordB sh 0)))) ∧
    ActsWhen (.cluCstat a b) (fun _ _ v sh => fieldNat (v.wordB sh 0) 16 16 ≠ 0) (trapWith 0x02 0) ∧
    ActsWhen (.dbgAttach a b) (fun s u v sh => found ⟨some false, false, false, false⟩ s u v sh ∧
        ((v.opA sh 0).toNat % 2 ^ 57) % 128 = 0) (fun _ u v sh =>
      (u.updCrew c.id (fun k => { k with
        attached := true, area := (v.opA sh 0).setWidth 57, asess := v.core.sessionOf v.gang })).retire) ∧
    ActsWhen (.dbgAttach a b) (fun s u v sh => found ⟨some false, false, false, false⟩ s u v sh ∧
        ((v.opA sh 0).toNat % 2 ^ 57) % 128 ≠ 0) (trapWith 0x71 5) ∧
    ActsWhen (.dbgDetach b) (found held) (fun _ u _ _ =>
      ((((u.resume c).updCrew c.id (fun k => { k with
        attached := false, trig := none, wps := List.replicate 4 ⟨0, false, 0⟩ })).drop
        (fun e => decide (e = .stopRecords c.id))).answerAll (fun x => decide (x = .stop c.id)) []).retire) ∧
    ActsWhen (.dbgGo b) (found held) (fun _ u _ _ => (u.resume c).retire) ∧
    (∀ u : State, c.stopped = false → u.resume c = u) ∧
    ActsWhen (.dbgStop b) (fun s u v sh => found held s u v sh ∧ c.stopped = false) (fun s u v _ =>
      (u.trigger c ⟨(s.die (die v)).cyc + 2, 1, 0, none, none, 0, 0⟩).await (.stop c.id) .debug []) ∧
    ActsWhen (.dbgStop b) (fun s u v sh => found held s u v sh ∧ c.stopped = true) (fun _ u v _ =>
      (u.showRecords c v.cur.gang.core).retire) ∧
    ActsWhen (.dbgWait b) (fun s u v sh => found held s u v sh ∧ c.stopped = true) (fun _ u v _ =>
      (u.showRecords c v.cur.gang.core).retire) ∧
    ActsWhen (.dbgWait b) (fun s u v sh => found held s u v sh ∧ c.stopped = false) (fun s _ _ _ => s.hold .debug) ∧
    (∀ g x, ActsWhen (.dbgStep b) (fun s u v sh => found inGang s u v sh ∧ c.window = none ∧
        s.selGang c (v.wordB sh 0) = some (g, x)) (fun s u v sh =>
      ((u.updCrew c.id (fun k => { k with
          window := some ⟨g, fieldNat (v.wordB sh 0) 9 3, x.num, (s.die c.die).cyc, [], false⟩ })).postOnce
        (.stepWindowClose c.id)).await (.step c.id) .debug [])) ∧
    ActsWhen (.dbgStep b) (fun s u v sh => found inGang s u v sh ∧ c.window ≠ none) (fun s _ _ _ => s.hold .debug) ∧
    (∀ core o n, ActsWhen (.dbgRd a b) (fun s u v sh => found inRank s u v sh ∧ s.dbgPlace v sh c = some (core, o, n))
      (fun s u v _ => u.formResult v a (Cells.get 0 (s.core core).store (o / 4)))) ∧
    (∀ core o n, ActsWhen (.dbgWr a b) (fun s u v sh => found inRank s u v sh ∧ s.dbgPlace v sh c = some (core, o, n) ∧
        s.logFits n [.store core o] = true)
      (fun _ u v sh => ((u.logRows n [storeRow core o]).updStore core (fun st => Cells.put 0 st (o / 4) (v.word sh))).retire)) ∧
    (∀ core o n, ActsWhen (.dbgWr a b) (fun s u v sh => found inRank s u v sh ∧ s.dbgPlace v sh c = some (core, o, n) ∧
        s.logFits n [.store core o] = false) (fun s _ _ _ => s.logFull n)) ∧
    ActsWhen (.dbgRd a b) (fun s u v sh => found inRank s u v sh ∧ s.dbgPlace v sh c = none) (trapWith 0x71 5) ∧
    ActsWhen (.dbgWr a b) (fun s u v sh => found inRank s u v sh ∧ s.dbgPlace v sh c = none) (trapWith 0x71 5) ∧
    ActsWhen (.dbgFreeze b) (fun s u v sh => cluster s u v sh ∧ u.isFrozen (die v, at_ v sh) = false) (fun _ u v sh =>
      ((u.setDie (die v) ((u.die (die v)).setFreezing (at_ v sh) true)).postOnce
        (.dbgcmdFreeze 0 (die v) (at_ v sh))).await (.freeze (die v * 16 + at_ v sh)) .debug []) ∧
    ActsWhen (.dbgFreeze b) (fun s u v sh => cluster s u v sh ∧ u.isFrozen (die v, at_ v sh) = true) (fun _ u _ _ => u.retire) ∧
    ActsWhen (.dbgThaw b) cluster (fun _ u v sh => (u.thawStep 0 (die v) (at_ v sh)).retire) ∧
    (∀ i ∈ [Instr.dbgFreeze b, .dbgThaw b],
      ActsWhen i own (trapWith 0x71 7) ∧
      ActsWhen i (fun _ _ v sh => fieldNat (v.wordB sh 0) 4 28 = 0 ∧ 12 ≤ at_ v sh) (trapWith 0x71 3) ∧
      ActsWhen i (fun _ _ v sh => fieldNat (v.wordB sh 0) 4 28 ≠ 0) (trapWith 0x02 0)) ∧
    (∀ n g x, n < 8 → ActsWhen (.dbgWhy a b) (fun s u v sh => found ⟨none, false, true, true⟩ s u v sh ∧
        (v.wordB sh 1).toNat = n ∧ s.selGang c (v.wordB sh 0) = some (g, x)) (fun s u v _ =>
      let e := x.groupOf n
      u.formResult v a (BitVec.ofNat 32 (min 0xFFFF ((x.group e).dog / 1024) * 65536 + (if e < 4 then e else 0xFF) * 256 +
        if x.live n then (s.reason g x e).code else 0)))) ∧
    ActsWhen (.dbgWhy a b) (fun s u v sh => found ⟨none, false, true, true⟩ s u v sh ∧ 8 ≤ (v.wordB sh 1).toNat) (trapWith 0x71 5) ∧
    (let fits (v : View) (sh : Shape) : Prop := (v.wordB sh 1).getLsbD 6 = false ∧ (v.wordB sh 2).toNat % size v sh = 0 ∧
        (v.wordB sh 2).toNat + size v sh ≤ c.cores.length * c.cmcore * 1024
     ActsWhen (.dbgWpset w b) (fun s u v sh => found held s u v sh ∧ ctl v sh ∧ fits v sh) (fun _ u v sh =>
       (u.updCrew c.id (fun k => { k with wps := k.wps.set w.toNat ⟨v.wordB sh 1, false, (v.wordB sh 2).toNat⟩ })).retire) ∧
     ActsWhen (.dbgWpset w b) (fun s u v sh => found held s u v sh ∧ ctl v sh ∧ ¬ fits v sh) (trapWith 0x71 5)) ∧
    (let va (v : View) (sh : Shape) : VAddr := (dwordOf [v.wordB sh 2, v.wordB sh 3]).setWidth 57
     let fits (v : View) (sh : Shape) : Prop := isAperture (va v sh) = false ∧ (va v sh).toNat % size v sh = 0
     ActsWhen (.dbgVwpset w b) (fun s u v sh => found held s u v sh ∧ ctl v sh ∧ fits v sh) (fun _ u v sh =>
       (u.updCrew c.id (fun k => { k with wps := k.wps.set w.toNat ⟨v.wordB sh 1, true, (va v sh).toNat⟩ })).retire) ∧
     ActsWhen (.dbgVwpset w b) (fun s u v sh => found held s u v sh ∧ ctl v sh ∧ ¬ fits v sh) (trapWith 0x71 5)) ∧
    (∀ e ∈ [(Instr.dbgAttach a b, (⟨some false, false, false, false⟩ : DbgNeed)), (.dbgDetach b, held), (.dbgGo b, held), (.dbgStop b, held),
        (.dbgWait b, held), (.dbgStep b, inGang), (.dbgRd a b, inRank), (.dbgWr a b, inRank), (.dbgWhy a b, ⟨none, false, true, true⟩)],
      ActsWhen e.1 (fun _ _ v sh => fieldNat (v.wordB sh 0) 16 16 ≠ 0) (trapWith 0x02 0) ∧
      ∀ x n, ActsWhen e.1 (fun s _ v sh => fieldNat (v.wordB sh 0) 16 16 = 0 ∧ s.dbgCrew v (v.wordB sh 0) e.2 = .error (x, n))
        (trapWith x n)) ∧
    (∀ i ∈ [Instr.dbgWpset w b, .dbgVwpset w b],
      ActsWhen i (fun _ _ v sh => fieldNat (v.wordB sh 0) 16 16 ≠ 0 ∨ ¬ ctl v sh) (trapWith 0x02 0) ∧
      ∀ x n, ActsWhen i (fun s _ v sh => fieldNat (v.wordB sh 0) 16 16 = 0 ∧ ctl v sh ∧ s.dbgCrew v (v.wordB sh 0) held = .error (x, n))
        (trapWith x n))

/-- From R313 to R323 and R370: the `xlt` forms at their issue and, where they had to wait, at each later turn, with the
statuses of R313: 0 done, 2 BADADDR, 4 NOTFOUND, 5 NOTOWNER, 6 BUSY and 9 DISCARDED. `xlt.inv` strikes and drops its range at
issue and completes once no access that used a translation of it is on its way; reserved bits trap ILLEGAL_FIELD, and a session
that the issuer may not name traps PRIVILEGE. `xlt.fmove` waits for a copy engine, `xlt.funblk` for the frame's queue, and
`xlt.probe` for a table in a blocked frame. -/
def Obligations.TranslationFormsComplete : Prop :=
  ∀ (a b : Reg),
    let die (v : View) : Nat := dieOf v.cur.gang.core
    (let reserved (v : View) (sh : Shape) : Prop := fieldNat (v.sel sh) 15 17 ≠ 0
     let bad (v : View) (sh : Shape) : Prop := reserved v sh ∨ ¬ v.names (fieldNat (v.sel sh) 0 12)
     let n (f : FormHold) : Nat := fieldNat f.sel 0 12
     let lo (f : FormHold) : Nat := (invRange (f.a.toNat % 2 ^ 57) (fieldNat f.sel 12 2)).1
     let hi (f : FormHold) : Nat := lo f + (invRange (f.a.toNat % 2 ^ 57) (fieldNat f.sel 12 2)).2
     let inScope (v : View) (f : FormHold) (d : Nat) : Bool := f.sel.getLsbD 14 || decide (d = die v)
     let used (v : View) (f : FormHold) (q : Access) : Bool := decide (q.session = n f) && inScope v f (dieOf q.gang.core) &&
       !isAperture q.va && decide (lo f ≤ q.va.toNat) && decide (q.va.toNat < hi f)
     let dropped (u : State) (v : View) (f : FormHold) (again : Bool) : State := if again then u
       else (u.strike (n f) (fun l => decide (lo f ≤ l * 128) && decide (l * 128 < hi f))).dropRange (n f) (lo f) (hi f - lo f) (inScope v f)
     let pending (u : State) (v : View) (f : FormHold) : Prop := u.flying (used v f) = true ∨ u.queuedAccess (used v f) = true
     TurnActs (.xltInv a b) bad (fun _ => []) (fun u v f again => ¬ pending (dropped u v f again) v f)
       (fun u v f again => (dropped u v f again).retire) ∧
     TurnActs (.xltInv a b) bad (fun _ => []) (fun u v f again => pending (dropped u v f again) v f)
       (fun u v f again => (dropped u v f again).holdForm f .sched) ∧
     ActsWhen (.xltInv a b) (fun _ _ v sh => v.gang.form? v.cur.entry = none ∧ reserved v sh) (trapWith 0x02 0) ∧
     ActsWhen (.xltInv a b) (fun _ _ v sh => v.gang.form? v.cur.entry = none ∧ ¬ reserved v sh ∧ ¬ v.names (fieldNat (v.sel sh) 0 12))
       (trapWith 0x05 0)) ∧
    (let bad (v : View) (sh : Shape) : Prop := ¬ v.names (fieldNat (v.sel sh) 0 12)
     let walk (u : State) (f : FormHold) : WalkEnd := u.walkMem (fieldNat f.sel 0 12) (f.a.toNat % 2 ^ 57)
     TurnAnswers (.xltProbe a b) bad b 3 (fun u _ f => (walk u f).stop ≠ .blocked) turnAsWas (fun u _ f =>
       [(walk u f).entry.extractLsb' 0 32, (walk u f).entry.extractLsb' 32 32,
        BitVec.ofNat 32 ((walk u f).level + if (walk u f).valid && (walk u f).good then 8 else 0)]) ∧
     TurnActs (.xltProbe a b) bad (fun v => v.dest b 3) (fun u _ f _ => (walk u f).stop = .blocked) waits ∧
     ActsWhen (.xltProbe a b) (fun _ _ v sh => v.gang.form? v.cur.entry = none ∧ bad v sh) (trapWith 0x05 0)) ∧
    (∀ f : Fid,
      let pending (u : State) (v : View) (sh : Shape) : Prop :=
        (u.die (die v)).fids.find? (fun x => decide (x.fid = v.sel sh)) = some f
      AnswersWhen (.xltReplay b) b (fun u v sh => pending u v sh ∧ v.names f.session)
        (fun u v _ => u.replay (die v) f) (status 0) ∧
      AnswersWhen (.xltCancel b) b (fun u v sh => pending u v sh ∧ v.names f.session)
        (fun u v _ => u.cancel (die v) f) (status 0) ∧
      ∀ i ∈ [Instr.xltReplay b, .xltCancel b], AnswersWhen i b (fun u v sh => pending u v sh ∧ ¬ v.names f.session) asWas (status 5)) ∧
    (let gone (u : State) (v : View) (sh : Shape) : Prop := ∀ x ∈ (u.die (die v)).fids, x.fid ≠ v.sel sh
     let kept (u : State) (v : View) (sh : Shape) : Prop := v.sel sh ∈ (u.die (die v)).discarded
     ∀ i ∈ [Instr.xltReplay b, .xltCancel b],
       AnswersWhen i b (fun u v sh => gone u v sh ∧ kept u v sh) asWas (status 9) ∧
       AnswersWhen i b (fun u v sh => gone u v sh ∧ ¬ kept u v sh) asWas (status 4)) ∧
    (∀ fr : Nat,
      let is (x : DWord) : Prop := x.toNat = fr * 4096 ∧ inModule (fr * 4096) = true
      let free (u : State) : Prop := ∀ k ∈ u.blocked, k.frame ≠ fr
      let never (_ : View) (_ : Shape) : Prop := False
      let one (v : View) : Dest := v.dest b 1
      AnswersWhen (.xltFblk a b) b (fun u v sh => is (v.opA sh 0) ∧ free u) (fun u _ _ =>
        let dcopy (c : Copy) : Bool := decide (c.line / 32 = fr) && c.bytes.isNone
        let u1 := (u.writeBack dcopy).dropCopies dcopy
        { u1 with blocked := u1.blocked ++ [⟨fr, none, []⟩] }) (status 0) ∧
      AnswersWhen (.xltFblk a b) b (fun u v sh => is (v.opA sh 0) ∧ ¬ free u) asWas (status 6) ∧
      TurnAnswers (.xltFunblk a b) never b 1 (fun u _ f => is f.a ∧ free u) turnAsWas (turnStatus 4) ∧
      (∀ k : Blocked,
        let found (u : State) (f : FormHold) : Prop := is f.a ∧ u.blocked.find? (fun j => decide (j.frame = fr)) = some k
        TurnAnswers (.xltFunblk a b) never b 1 (fun u _ f => found u f ∧ k.moved = none) turnAsWas (turnStatus 4) ∧
        TurnAnswers (.xltFunblk a b) never b 1 (fun u _ f => found u f ∧ k.moved.isSome = true ∧ k.queue = [])
          (fun u _ _ => { u with blocked := u.blocked.filter (fun j => decide (j.frame ≠ fr)) }) (turnStatus 0) ∧
        TurnActs (.xltFunblk a b) never one (fun u _ f _ => found u f ∧ k.moved.isSome = true ∧ k.queue ≠ []) waits ∧
        (∀ nw : Nat,
          let onto (f : FormHold) : Prop := f.b.toNat = nw * 4096 ∧ inModule (nw * 4096) = true
          TurnAnswers (.xltFmove a b) never b 1 (fun u v f => u.pooled v = true ∧ found u f ∧ onto f ∧ k.moved = none) (fun u _ _ =>
            let u1 := ((u.dropFrame nw).copyFrame fr nw true).moveUndo fr nw
            let u2 : State := { u1 with blocked := u1.blocked.map fun j => if j.frame = fr then { j with moved := some nw } else j }
            u2.postAll ((k.queue.take 1).filter queuedAlone)) (turnStatus 0) ∧
          TurnAnswers (.xltFmove a b) never b 1 (fun u v f => u.pooled v = true ∧ found u f ∧ onto f ∧ k.moved.isSome = true)
            turnAsWas (turnStatus 6))) ∧
      (∀ nw : Nat, TurnAnswers (.xltFmove a b) never b 1 (fun u v f => u.pooled v = true ∧ is f.a ∧ free u ∧
        f.b.toNat = nw * 4096 ∧ inModule (nw * 4096) = true) turnAsWas (turnStatus 4)) ∧
      TurnActs (.xltFmove a b) never one (fun u v _ _ => u.pooled v = false) (fun u v f _ => (u.wantPool v).holdForm f .sched)) ∧
    (let noFrame (x : DWord) : Prop := x.toNat % 4096 ≠ 0 ∨ inModule x.toNat = false
     let never (_ : View) (_ : Shape) : Prop := False
     AnswersWhen (.xltFblk a b) b (fun _ v sh => noFrame (v.opA sh 0)) asWas (status 2) ∧
     TurnAnswers (.xltFunblk a b) never b 1 (fun _ _ f => noFrame f.a) turnAsWas (turnStatus 2) ∧
     TurnAnswers (.xltFmove a b) never b 1 (fun u v f => u.pooled v = true ∧ (noFrame f.a ∨ noFrame f.b)) turnAsWas (turnStatus 2))

/-- From R223, R263, R264, R270, R273, R277, R278, R280: the `ckp` forms. `preg` and `greg`, at their issue and at each later
turn, answer with what R264 and R270 give for their descriptor, answer BADADDR for bytes that cannot be read, or wait for them;
`take`, `roll`, `drain` and, while there is no room, `restore` wait for what they have begun; each answers NOTFOUND (4),
NOTOWNER (5) and BUSY (6) with nothing done, as R280 says. Reserved bits of a crew selector trap ILLEGAL_FIELD. -/
def Obligations.RecoveryFormsComplete : Prop :=
  ∀ (a b : Reg),
    let ses (v : View) : Nat := v.core.sessionOf v.gang
    let die (v : View) : Nat := dieOf v.cur.gang.core
    let word (w : Word) (_ : State) (_ : View) (_ : Shape) : List Word := [w]
    let never (_ : View) (_ : Shape) : Prop := False
    let reads (i : Instr) (r : State → View → Nat → Got Word) : Prop :=
      let at_ (u : State) (v : View) (f : FormHold) : Got Word := r u v (f.a.toNat % 2 ^ 57)
      (∀ w t, TurnAnswers i never b 1 (fun u v f => at_ u v f = .ok w t) (fun _ _ _ => t) (fun _ _ _ => [w])) ∧
      (∀ o t, TurnAnswers i never b 1 (fun u v f => at_ u v f = .bad o t) (fun _ _ _ => t) (fun _ _ _ => [statusWord 2 o])) ∧
      (∀ t, TurnActs i never (fun v => v.dest b 1) (fun u v f _ => at_ u v f = .wait t) (fun _ _ f _ => t.holdForm f .sched)) ∧
      (∀ u v va, va % 64 ≠ 0 → r u v va = .ok (statusWord 2 0) u)
    reads (.ckpPreg a b) State.preg ∧ reads (.ckpGreg a b) State.greg ∧
    (∀ (u t : State) v va w, u.preg v va = .ok w t → fieldNat w 24 8 = 0 → ∃ p, (t.ses (ses v)).pipes.getLast? = some p ∧
      w = statusWord 0 (0x100000 + p.num) ∧ p.phase = none) ∧
    (∀ (u t : State) v va w, u.greg v va = .ok w t → fieldNat w 24 8 = 0 → ∃ g, (t.ses (ses v)).graphs.getLast? = some g ∧
      w = statusWord 0 (0x200000 + g.num) ∧ g.state = 0) ∧
    AnswersWhen (.ckpUnreg a b) b (fun _ _ _ => True) (fun u v sh => (u.unreg (ses v) (v.word sh)).2)
      (fun u v sh => [statusWord (u.unreg (ses v) (v.word sh)).1 0]) ∧
    (∀ (s : State) n h k p, fieldNat h 24 8 = 0 → fieldNat h 20 4 = 1 → fieldNat h 0 20 = k → s.pipe? n k = some p → p.phase = none →
      (∀ g ∈ (s.ses n).graphs, ∀ e ∈ g.nodes, e.1 ≠ k) →
      s.unreg n h = (0, s.setSes n { s.ses n with pipes := (s.ses n).pipes.filter (fun q => decide (q.num ≠ k)) })) ∧
    AnswersWhen (.ckpGlaunch a b) b (fun _ _ _ => True) (fun u v sh => (u.launchWord (ses v) (v.word sh)).2)
      (fun u v sh => [statusWord (u.launchWord (ses v) (v.word sh)).1 0]) ∧
    AnswersWhen (.ckpGstat a b) b (fun _ _ _ => True) asWas (fun u v sh => [u.graphWord (ses v) (fieldNat (v.word sh) 0 20)]) ∧
    (let n (v : View) (sh : Shape) : Nat := fieldNat (v.word sh) 0 12
     let mine (u : State) (v : View) (sh : Shape) : Prop := v.names (n v sh) ∧ u.sesState (n v sh) ≠ 0
     (∀ i ∈ [Instr.ckpTake a b, .ckpRoll a b],
       AnswersWhen i b (fun _ v sh => ¬ v.names (n v sh)) asWas (status 5) ∧
       AnswersWhen i b (fun u v sh => v.names (n v sh) ∧ u.sesState (n v sh) = 0) asWas (status 4)) ∧
     ActsWhen (.ckpTake a b) (fun _ u v sh => mine u v sh ∧ ((u.await (.take (n v sh)) .sched (v.dstList b 1)).ses (n v sh)).retryAt = none)
       (fun _ u v sh => (u.await (.take (n v sh)) .sched (v.dstList b 1)).startAttempt (n v sh) true) ∧
     ActsWhen (.ckpTake a b) (fun _ u v sh => mine u v sh ∧ ((u.await (.take (n v sh)) .sched (v.dstList b 1)).ses (n v sh)).retryAt ≠ none)
       (fun _ u v sh => u.await (.take (n v sh)) .sched (v.dstList b 1)) ∧
     ActsWhen (.ckpRoll a b) (fun _ u v sh => mine u v sh ∧ u.sesState (n v sh) ≠ 4)
       (fun _ u v sh => (u.await (.roll (n v sh)) .sched (v.dstList b 1)).postOnce (.rollback (n v sh))) ∧
     AnswersWhen (.ckpRoll a b) b (fun u v sh => v.names (n v sh) ∧ u.sesState (n v sh) = 4) asWas (status 7)) ∧
    (let crew (u : State) (v : View) (sh : Shape) : Option Crew := u.crewAt (die v) (v.word sh)
     let plain (v : View) (sh : Shape) : Prop := fieldNat (v.word sh) 16 16 = 0
     ActsWhen (.ckpDrain a b) (fun _ _ v sh => ¬ plain v sh) (trapWith 0x02 0) ∧
     AnswersWhen (.ckpDrain a b) b (fun u v sh => plain v sh ∧ crew u v sh = none) asWas (status 4) ∧
     ∀ c, AnswersWhen (.ckpDrain a b) b (fun u v sh => plain v sh ∧ crew u v sh = some c ∧ ¬ v.names c.session) asWas (status 5) ∧
       AnswersWhen (.ckpDrain a b) b (fun u v sh => plain v sh ∧ crew u v sh = some c ∧ v.names c.session ∧ c.drain ≠ .running)
         asWas (status 6) ∧
       ActsWhen (.ckpDrain a b) (fun _ u v sh => plain v sh ∧ crew u v sh = some c ∧ v.names c.session ∧ c.drain = .running)
         (fun _ u v _ => (u.startDrain c).await (.drain c.id) .sched (v.dstList b 1))) ∧
    (let saved (u : State) (v : View) (sh : Shape) : Option SavedCrew :=
       u.saved.find? (fun x => decide (x.ticket = fieldNat (v.word sh) 0 20))
     AnswersWhen (.ckpRestore a b) b (fun u v sh => saved u v sh = none ∨ fieldNat (v.word sh) 20 12 ≠ 4) asWas (status 4) ∧
     ∀ c, let known (u : State) (v : View) (sh : Shape) : Prop := saved u v sh = some c ∧ fieldNat (v.word sh) 20 12 = 4
       AnswersWhen (.ckpRestore a b) b (fun u v sh => known u v sh ∧ ¬ v.names c.crew.session) asWas (status 5) ∧
       AnswersWhen (.ckpRestore a b) b (fun u v sh => known u v sh ∧ v.names c.crew.session ∧ (u.restoreCrew c).1 = true)
         (fun u _ _ => (u.restoreCrew c).2)
         (fun u _ _ => [statusWord (if (u.restoreCrew c).2.sesState c.crew.session = 4 then 7 else 0) 0]) ∧
       ActsWhen (.ckpRestore a b) (fun _ u v sh => known u v sh ∧ v.names c.crew.session ∧ (u.restoreCrew c).1 = false)
         (fun _ u v _ => (u.restoreCrew c).2.await (.restore c.ticket) .sched (v.dstList b 1))) ∧
    (∀ ep, AnswersWhen (.ckpEpnew b) b (fun u v _ => u.endpointsFit (ses v) 1 = true ∧
        (unused (Config.newNumber u.tick) 0xE0000 1 (u.ses (ses v)).endpointNumbers).headD 0 = ep)
      (fun u v _ =>
        let d := u.ses (ses v)
        u.setSes (ses v) { d with endpoints := d.endpoints ++ [⟨ep, u.sesHome (ses v), []⟩] })
      (word (statusWord 0 (0x300000 + ep)))) ∧
    AnswersWhen (.ckpEpnew b) b (fun u v _ => u.endpointsFit (ses v) 1 = false) asWas (status 1) ∧
    (∀ p, AnswersWhen (.ckpDeadline a b) b (fun _ v sh => fieldNat (v.word sh) 5 3 = 0 ∧ fieldNat (v.word sh) 0 5 = p)
      (fun u v sh => { u with
        parts := Cells.put 0 u.parts (64 * p + 3) (setField (Cells.get 0 u.parts (64 * p + 3)) 0 24 (fieldNat (v.word sh) 8 24)) })
      (status 0)) ∧
    AnswersWhen (.ckpDeadline a b) b (fun _ v sh => fieldNat (v.word sh) 5 3 ≠ 0) asWas (status 2) ∧
    (let budget (v : View) (sh : Shape) : Nat := fieldNat (v.opA sh 0) 0 24
     let limit (v : View) (sh : Shape) : Nat := fieldNat (v.opA sh 0) 32 12
     let low (v : View) (sh : Shape) : Prop := budget v sh ≤ 26000 ∧ fieldNat (v.opA sh 0) 24 8 = 0
     AnswersWhen (.ckpBudget a b) b (fun _ v sh => low v sh ∧ fieldNat (v.opA sh 0) 44 20 = 0) (fun u v sh =>
       u.setDie (die v) (DieSt.heated { u.die (die v) with
         budget := if budget v sh = 0 then Config.budgetDefault else budget v sh
         tlim := if limit v sh = 0 then Config.tlimDefault else limit v sh })) (status 0) ∧
     AnswersWhen (.ckpBudget a b) b (fun _ v sh => ¬ low v sh) asWas (status 2) ∧
     AnswersWhen (.ckpBudget a b) b (fun _ v sh => low v sh ∧ fieldNat (v.opA sh 0) 44 20 ≠ 0) asWas (word (statusWord 2 4)))

namespace Sys2Proof.Machine

/-- From R340, R348, R351, R353 to R356: `modg.fork` once it holds a copy engine, and `modg.key`, `modg.fassign`, `modg.migr`,
`modg.mdone`, `modg.sopen` and `modg.sclose`, always complete: each acts on what it names and answers with a status and a value.
Reserved bits trap ILLEGAL_FIELD. A status other than 0 comes with nothing changed. A fork, migration, completed migration or
closing of a FREE session answers NOTFOUND (4), the opening of one that is not FREE answers BUSY (6), a key for a session that has
one, and a completed migration of one that is not moving, answer BUSY, and a frame for a FREE session answers NOTFOUND. -/
def SessionFormsComplete (a b : Reg) : Prop :=
    let answers (i : Instr) (reserved : View → Shape → Prop) (f : State → View → Shape → Nat × Nat × State) : Prop :=
      AnswersWhen i b (fun _ v sh => ¬ reserved v sh) (fun u v sh => (f u v sh).2.2)
        (fun u v sh => [statusWord (f u v sh).1 (f u v sh).2.1]) ∧
      ActsWhen i (fun _ _ v sh => reserved v sh) (trapWith 0x02 0)
    let high (v : View) (sh : Shape) : Prop := fieldNat (v.word sh) 12 20 ≠ 0
    let n (v : View) (sh : Shape) : Nat := fieldNat (v.word sh) 0 12
    let gaps (v : View) (sh : Shape) : Prop := fieldNat (v.word sh) 12 4 ≠ 0 ∨ fieldNat (v.word sh) 28 4 ≠ 0
    let forked (u : State) (f : FormHold) : Nat × Nat × State := u.fork (fieldNat f.word 0 12) (fieldNat f.word 16 12)
    TurnAnswers (.modgFork a b) gaps b 1 (fun u v _ => u.pooled v = true) (fun u _ f => (forked u f).2.2)
      (fun u _ f => [statusWord (forked u f).1 (forked u f).2.1]) ∧
    TurnActs (.modgFork a b) gaps (fun v => v.dest b 1) (fun u v _ _ => u.pooled v = false)
      (fun u v f _ => (u.wantPool v).holdForm f .sched) ∧
    ActsWhen (.modgFork a b) (fun _ _ v sh => v.gang.form? v.cur.entry = none ∧ gaps v sh) (trapWith 0x02 0) ∧
    answers (.modgKey a b) (fun v sh => fieldNat (v.word sh) 16 14 ≠ 0)
      (fun u v sh => u.keyForm (v.word sh) (dieOf v.cur.gang.core) (u.sesPart (v.core.sessionOf v.gang))) ∧
    answers (.modgFassign a b) (fun v sh => fieldNat (v.sel sh) 12 19 ≠ 0) (fun u v sh => u.assignFrame (v.opA sh 0).toNat (v.sel sh)) ∧
    answers (.modgMigr a b) (fun v sh => fieldNat (v.word sh) 12 4 ≠ 0 ∨ fieldNat (v.word sh) 18 14 ≠ 0)
      (fun u v sh => u.migrate (n v sh) (fieldNat (v.word sh) 16 2)) ∧
    answers (.modgMdone a b) high (fun u v sh => u.migrated (n v sh)) ∧
    answers (.modgSopen a b) high (fun u v sh => u.openSession (n v sh)) ∧
    answers (.modgSclose a b) high (fun u v sh => u.closeSession (n v sh)) ∧
    (∀ (s : State) k d (w : Word) x, ∀ r ∈ [s.fork k d, s.keyForm w d x, s.assignFrame x w, s.migrate k d, s.migrated k, s.openSession k,
      s.closeSession k], r.1 ≠ 0 → r.2.2 = s) ∧
    (∀ (s : State) k, s.sesState k = 0 →
      s.migrated k = (4, 0, s) ∧ s.closeSession k = (4, 0, s) ∧ ∀ d, s.migrate k d = (4, 0, s) ∧ s.fork k d = (4, 0, s)) ∧
    (∀ (s : State) k, s.sesState k ≠ 0 → s.openSession k = (6, 0, s) ∧ (s.sesMoving k = false → s.migrated k = (6, 0, s))) ∧
    (∀ (s : State) (w : Word) d p, w.getLsbD 31 = false → w.getLsbD 30 = false → s.sesKeyV (fieldNat w 0 12) = true →
      s.keyForm w d p = (6, 0, s)) ∧
    (∀ (s : State) pa (w : Word), w.getLsbD 31 = false → s.sesState (fieldNat w 0 12) = 0 → s.assignFrame pa w = (4, 0, s))

/-- From R349: `modg.share` at its issue and at each later turn. It waits for a copy engine, and for a page table in a blocked
frame; it answers DENIED (5) for a session that the issuer may not name or T below PL2, NOTFOUND (4) for a FREE session,
BADPAGE (12) for a page that has no shareable level-0 leaf, and BUSY (6) for a blocked frame, each with nothing done; else the
content is looked up, and the page is mapped to the shared frame, its accesses on their way being translated again, or the answer
is a collision (11) or what the lookup lacks. Reserved bits trap ILLEGAL_FIELD. -/
def ModgShareCompletes (a b : Reg) : Prop :=
    let bad (v : View) (sh : Shape) : Prop :=
      fieldNat (v.sel sh) 12 4 ≠ 0 ∨ (v.sel sh).getLsbD 23 = true ∨ fieldNat (v.sel sh) 25 7 ≠ 0
    let dst (v : View) : Dest := v.destAt [b, b + 2, b + 3]
    let n (f : FormHold) : Nat := fieldNat f.sel 0 12
    let va (f : FormHold) : Nat := f.a.toNat % 2 ^ 57
    let walk (u : State) (f : FormHold) : WalkEnd := u.walkMem (n f) (va f)
    let frame (u : State) (f : FormHold) : Nat := pteFrame (walk u f).entry / 4096
    let mayShare (v : View) (f : FormHold) : Prop := v.names (n f) ∧ (f.sel.getLsbD 24 = true → 2 ≤ v.core.level v.gang)
    let asked (u : State) (v : View) (f : FormHold) : Prop := u.pooled v = true ∧ mayShare v f ∧ u.sesState (n f) ≠ 0
    let leaf (u : State) (f : FormHold) : Prop := (walk u f).addr ≠ none ∧ (walk u f).stop ≠ .blocked ∧
      (walk u f).valid = true ∧ (walk u f).good = true ∧ (walk u f).level = 0 ∧ u.shareable (n f) (walk u f).entry = true
    let told (st val old : Nat) (t : State) (v : View) : State := t.formDoneAt v .sched [(b, statusWord st val),
      (b + 2, BitVec.ofNat 32 (old * 4096)), (b + 3, BitVec.setWidth 32 (BitVec.ofNat 64 (old * 4096) >>> 32))]
    let i : Instr := .modgShare a b
    ActsWhen i (fun _ _ v sh => v.gang.form? v.cur.entry = none ∧ bad v sh) (trapWith 0x02 0) ∧
    TurnActs i bad dst (fun u v _ _ => u.pooled v = false) (fun u v f _ => (u.wantPool v).holdForm f .sched) ∧
    TurnActs i bad dst (fun u v f _ => u.pooled v = true ∧ ¬ mayShare v f) (fun u v _ _ => told 5 0 0 u v) ∧
    TurnActs i bad dst (fun u v f _ => u.pooled v = true ∧ mayShare v f ∧ u.sesState (n f) = 0) (fun u v _ _ => told 4 0 0 u v) ∧
    TurnActs i bad dst (fun u v f _ => asked u v f ∧ (walk u f).addr ≠ none ∧ (walk u f).stop = .blocked) waits ∧
    TurnActs i bad dst (fun u v f _ => asked u v f ∧ ¬ ((walk u f).addr ≠ none ∧ (walk u f).stop = .blocked) ∧ ¬ leaf u f)
      (fun u v _ _ => told 12 0 0 u v) ∧
    TurnActs i bad dst (fun u v f _ => asked u v f ∧ leaf u f ∧ ∃ k ∈ u.blocked, k.frame = frame u f)
      (fun u v _ _ => told 6 0 0 u v) ∧
    TurnActs i bad dst (fun u v f _ => asked u v f ∧ leaf u f ∧ ∀ k ∈ u.blocked, k.frame ≠ frame u f) (fun u v f _ =>
      match u.sharePage (n f) (va f / 4096) ((walk u f).addr.getD 0) (walk u f).caddr (walk u f).entry (f.sel.getLsbD 24)
          (fieldNat f.sel 16 7) with
      | .fail st => told st 0 0 u v
      | .done st val _ t =>
        if st = 11 then told 11 val 0 t v
        else told st val (frame u f) ((t.dropCopies (fun c => decide (c.line / 32 = frame u f) && c.bytes.isNone)).retargetPage (n f)
          (va f / 4096)) v)

/-- From R350: `modg.unshare` at its issue and at each later turn. It waits for a copy engine, for a page table in a blocked
frame, and for an overlay block in one; it answers DENIED (5) for a session that the issuer may not name, NOTFOUND (4) for a
FREE session, BADPAGE (12) for a page without a shared leaf and NOROOM (1) where the session's stack is empty, each with nothing
done; else the page becomes private in the frame taken. Reserved bits trap ILLEGAL_FIELD. -/
def ModgUnshareCompletes (a b : Reg) : Prop :=
    let bad (v : View) (sh : Shape) : Prop := fieldNat (v.sel sh) 12 20 ≠ 0
    let dst (v : View) : Dest := v.dest b 1
    let n (f : FormHold) : Nat := fieldNat f.sel 0 12
    let va (f : FormHold) : Nat := f.a.toNat % 2 ^ 57
    let walk (u : State) (f : FormHold) : WalkEnd := u.walkMem (n f) (va f)
    let asked (u : State) (v : View) (f : FormHold) : Prop := u.pooled v = true ∧ v.names (n f) ∧ u.sesState (n f) ≠ 0
    let held (u : State) (f : FormHold) : Prop := (walk u f).addr ≠ none ∧ (walk u f).stop = .blocked
    let leaf (u : State) (f : FormHold) : Prop := (walk u f).addr ≠ none ∧ (walk u f).stop ≠ .blocked ∧
      (walk u f).valid = true ∧ (walk u f).good = true ∧ (walk u f).level = 0 ∧ pteShr (walk u f).entry = true
    let i : Instr := .modgUnshare a b
    ActsWhen i (fun _ _ v sh => v.gang.form? v.cur.entry = none ∧ bad v sh) (trapWith 0x02 0) ∧
    TurnActs i bad dst (fun u v _ _ => u.pooled v = false) (fun u v f _ => (u.wantPool v).holdForm f .sched) ∧
    TurnAnswers i bad b 1 (fun u v f => u.pooled v = true ∧ ¬ v.names (n f)) turnAsWas (turnStatus 5) ∧
    TurnAnswers i bad b 1 (fun u v f => u.pooled v = true ∧ v.names (n f) ∧ u.sesState (n f) = 0) turnAsWas (turnStatus 4) ∧
    TurnActs i bad dst (fun u v f _ => asked u v f ∧ held u f) waits ∧
    TurnAnswers i bad b 1 (fun u v f => asked u v f ∧ ¬ held u f ∧ ¬ leaf u f) turnAsWas (turnStatus 12) ∧
    TurnActs i bad dst (fun u v f _ => asked u v f ∧ leaf u f ∧ u.overlayBlocked (walk u f).companion = true) waits ∧
    TurnAnswers i bad b 1 (fun u v f => asked u v f ∧ leaf u f ∧ u.overlayBlocked (walk u f).companion = false ∧ u.takeFrame (n f) = none)
      turnAsWas (turnStatus 1) ∧
    (∀ nw t, TurnAnswers i bad b 1 (fun u v f => asked u v f ∧ leaf u f ∧ u.overlayBlocked (walk u f).companion = false ∧
        u.takeFrame (n f) = some (nw, t))
      (fun u _ f => t.unsharePage (n f) (va f / 4096) ((walk u f).addr.getD 0) (walk u f).caddr (walk u f).entry (walk u f).companion nw)
      (turnStatus 0)) ∧
    (∀ (s : State) m page p q (e c : DWord) nw, fieldNat c 16 40 = 0 →
      s.unsharePage m page p q e c nw = (((((((s.putFrame nw (s.overlaid e c)).wr p 8
        (setField (setField (setField e 12 40 nw) 8 1 0) 2 1 1).toNat).wr q 8 0).unmapShared (pteFrame e / 4096) m page).strike m
        (fun l => decide (l / 32 = page))).dropPage m page).retargetPage m page))

/-- From R359 and R362: `modg.heal` at its issue and at each later turn. It waits for a copy engine; it answers BADPAGE (12)
where its address names no poisoned shared frame, BADDATA (13) where the bytes it reads do not have the frame's content key, and
otherwise writes them to the frame under the group's title key and takes the poison away (0). An access of its read that no
translation permits traps as a load's does, or parks until its fault is replayed. -/
def ModgHealCompletes (a b : Reg) : Prop :=
    let never (_ : View) (_ : Shape) : Prop := False
    let pa (f : FormHold) : Nat := f.a.toNat
    let va (f : FormHold) : Nat := f.b.toNat % 2 ^ 57
    let read (u : State) (v : View) (f : FormHold) : Span × State :=
      u.span { askOf v.core v.cur.gang.core v.gang 0 44 with engine := true } (va f) 4096
    let frame (u : State) (v : View) (f : FormHold) (e : AtollEntry) : Prop :=
      u.pooled v = true ∧ pa f % 4096 = 0 ∧ u.atollOf (pa f / 4096) = some e ∧ e.poison = true
    let i : Instr := .modgHeal a b
    TurnActs i never (fun v => v.dest b 1) (fun u v _ _ => u.pooled v = false) (fun u v f _ => (u.wantPool v).holdForm f .sched) ∧
    TurnAnswers i never b 1 (fun u v f => u.pooled v = true ∧ ¬ ∃ e, frame u v f e) turnAsWas (turnStatus 12) ∧
    ∀ e,
      (∀ ps t, TurnAnswers i never b 1 (fun u v f => frame u v f e ∧ read u v f = (.ok ps, t) ∧ contentKey (t.readSpan ps) ≠ e.key)
        (fun _ _ _ => t) (turnStatus 13)) ∧
      (∀ ps t, TurnAnswers i never b 1 (fun u v f => frame u v f e ∧ read u v f = (.ok ps, t) ∧ contentKey (t.readSpan ps) = e.key)
        (fun _ _ f =>
          let fr := pa f / 4096
          let t1 := t.putFrame fr (t.readSpan ps)
          let t2 := match t1.titleSlot (homeDie (pa f)) e.group with
            | some (k, _) => t1.retag fr (k + 1)
            | none => t1
          let d := t2.die (homeDie (pa f))
          t2.setDie (homeDie (pa f))
            { d with atoll := d.atoll.map (fun x => if x.frame = fr then { x with poison := false } else x) })
        (turnStatus 0)) ∧
      (∀ c o t, TurnActs i never (fun v => v.dest b 1) (fun u v f _ => frame u v f e ∧ read u v f = (.fatal c o, t))
        (fun _ v f _ => t.fatalFault c v.act (BitVec.ofNat 57 (va f + o)))) ∧
      (∀ t, TurnActs i never (fun v => v.dest b 1) (fun u v f _ => frame u v f e ∧ read u v f = (.wait, t))
        (fun _ _ f _ => t.holdForm f .sched)) ∧
      (∀ c host o t, TurnActs i never (fun v => v.dest b 1) (fun u v f _ => frame u v f e ∧ read u v f = (.absent c host o, t))
        (fun _ v f _ =>
          let j := t.joinFid (dieOf v.cur.gang.core) (v.core.sessionOf v.gang) (va f + o) 0 c host
            { eng := false, unit := false, core := some v.cur.gang.core, slot := v.cur.gang.slot, detail := v.act, pc := v.cur.addr }
          (j.2.expect f.dst).park { cur := v.cur, rerun := true, saved := false, lanes := [⟨j.1, none⟩], form := some f } v.act
            (BitVec.ofNat 57 (va f + o))))

end Sys2Proof.Machine

/-- From R340, R348 to R351, R353 to R356, R359: every `modg` form, wherever it issues and at each later turn of one that waits,
completes, waits, answers with a failing status and nothing changed, traps ILLEGAL_FIELD at reserved bits, or parks at an absent
translation, as `SessionFormsComplete` says of `fork`, `key`, `fassign`, `migr`, `mdone`, `sopen` and `sclose`,
`ModgShareCompletes` of `share`, `ModgUnshareCompletes` of `unshare` and `ModgHealCompletes` of `heal`. -/
def Obligations.SharingFormsComplete : Prop :=
  ∀ a b : Reg, SessionFormsComplete a b ∧ ModgShareCompletes a b ∧ ModgUnshareCompletes a b ∧ ModgHealCompletes a b

/-! Steps of gangs, crews and engines. -/

/-- From R34, R105, R159, R208, R209, R210, R312: results reach their registers. At its result cycle a sequence's results are
written and no longer pending, and no wait but that for a result is touched; a delivery fills the copies of its lane that are empty
for it and no others; the oldest message goes to the lanes of the `recv` that took it; a return record fills its lane's registers,
its call is no longer counted, and a fault inside the unit is to be trapped, or is reported where the gang has ended; a waiting
`qcall` or `send` appends its calls or message once its entry can be charged; a fetch ahead that finds the sequence changes nothing
but what translations are held. -/
def Obligations.ResultsReachRegisters : Prop :=
  ∀ (s : State) (g : GangRef),
    (∀ x m n, s.ev = .resultWrite g n → s.gang? g = some x → x.latency.find? (fun m => decide (m.id = n)) = some m →
      let t := (s.setCore g.core ((s.core g.core).setRegs x m.writes)).updGang g
        (fun y => { y.setPreds m.preds with latency := y.latency.erase m })
      exec .resultWrite s = .next t ∧ t.mem = s.mem ∧ t.agenda = s.agenda ∧
        (∃ y, t.gang? g = some y ∧ y.latency = x.latency.erase m ∧ y.trap = x.trap ∧ y.counters = x.counters ∧ y.groups = x.groups ∧
          ∀ n, n < 8 → y.slice n = x.slice n)) ∧
    (∀ lane ws x, s.ev = .producerDelivery ⟨g, lane, ws⟩ → s.gang? g = some x →
      let c := s.core g.core
      let here := ws.filter (fun p => decide (c.copy x p.1 = .empty (.delivery g lane)))
      ∃ t, exec .producerDelivery s = .next t ∧ t = s.deliver g lane ws ∧ t.mem = s.mem ∧
        (t.core g.core).store = (c.setRegs x here).store ∧ (t.core g.core).fe = (c.setRegs x here).fe) ∧
    (∀ x n ep dst m t, s.ev = .channelDelivery g n ep dst → s.gang? g = some x → (s.core g.core).awaited g x dst = true →
      s.takeMsg n ep = some (m, t) → exec .producerDelivery s =
        .next (dst.foldl (fun u e => u.deliver g e.1 (e.2.map (fun w => (w, m.getD e.1 0)))) t)) ∧
    (∀ n ep p m r, s.endpoint? n ep = some p → p.msgs = m :: r → ∃ t, s.takeMsg n ep = some (m, t) ∧
      (t.ses n).endpoints = (s.ses n).endpoints.map fun q => if q.num = ep then { q with msgs := r } else q) ∧
    (∀ e h d r n c w t v die depth, s.ev = .qcallAppend g e → s.unhold g e = some (h, t) → h.op = .qcall d r n c w → t.view? = some v →
      let ses := v.core.sessionOf v.gang
      let sh := shape (.qcall d (BitVec.ofNat 5 r) (BitVec.ofNat 5 n) (BitVec.ofNat 6 c)) v.mode false
      t.port ses (dieOf g.core) h.ep = .queue die depth → (newOnes v.logged (v.rowsWritten sh)).length ≤ v.room →
      (t.takesEffect v sh false).canSpend ses w = true →
      exec .qcallAppend s = .next ((t.takesEffect v sh false).calls v sh h.ep die c r d w).retire) ∧
    (∀ e h m w t x, s.ev = .sendAppend g e → s.unhold g e = some (h, t) → h.op = .send m w → t.gang? g = some x →
      t.canSpend ((t.core g.core).sessionOf x) w = true →
      exec .sendAppend s = .next (t.sends g.core ((t.core g.core).sessionOf x) h.ep m w).retire) ∧
    (∀ r, s.ev = .returnRecord r →
      let came := (s.deliver r.call.gang r.call.lane (List.zip r.call.dst (fitList 0 r.call.dst.length r.words))).updGang r.call.gang
        fun y => { y with
          calls := callDone r.call.tag y.calls
          counters := y.counters.set 4 (y.counters.getD 4 0 - (y.calls.length - (callDone r.call.tag y.calls).length)) }
      (fieldNat (r.words.getD 0 0) 0 8 ≠ 1 → exec .returnRecord s = .next came) ∧
      (fieldNat (r.words.getD 0 0) 0 8 = 1 → (came.gang? r.call.gang).isSome = true → exec .returnRecord s =
        .next ((came.updGang r.call.gang fun y => { y with unitFaults := y.unitFaults ++ [r] }).postOnce (.unitFaultTrap r.call.gang))) ∧
      (fieldNat (r.words.getD 0 0) 0 8 = 1 → came.gang? r.call.gang = none → exec .returnRecord s =
        .next { came with ends := came.ends ++ [⟨r.call.gang.core, r.call.session, tcauseWord ((r.words.getD 0 0).extractLsb' 8 8)
          (BitVec.ofNat 16 (r.call.lane * 256 + r.call.cap)) 0 true false, 0, 0⟩] })) ∧
    (∀ e x cur i z t, s.ev = .sequenceFetch g e → s.gang? g = some x → x.groupSlices e ≠ 0 → (x.group e).wait = .ready →
      s.mayIssue g x e = true → s.fetch g x e = (.seq cur i z, t) → exec .sequenceFetch s = .next t)

/-- From R97, R98, R210, R213, R318 to R320, R326, R376: a raised trap enters the handler: every slice, the split table and the cause are
saved in the trap record with GSTAT, and every live slice stands at HANDLER with mask 0b1111, MODE 0 and empty stacks, in entry 0. A
raise while a trap is being handled ends the gang with DOUBLE_TRAP; a cause without a handler ends it. A word of no form
traps ILLEGAL_OPCODE. A parked gang whose FIDs have been replayed goes on, and a watchdog that has run out ends its gang. -/
def Obligations.TrapsAreTaken : Prop :=
  ∀ (s : State) (g : GangRef) (x : Gang), s.gang? g = some x →
    (∀ r h, s.ev = .trapEntry g → x.raised = some r → x.trap.tcause.getLsbD 15 = false →
      ((s.core g.core).recordOf x).handler = h → h ≠ 0 → fatalOnly r.cause = false → r.next = none →
      ∃ t y, exec .trapEntry s = .next t ∧ t.gang? g = some y ∧ t.mem = s.mem ∧
        y.trap.tcause.extractLsb' 0 8 = r.cause ∧ y.trap.tcause.getLsbD 8 = r.bu ∧ y.trap.tcause.getLsbD 15 = true ∧
        y.trap.tcause.extractLsb' 16 16 = r.info ∧ y.trap.tpc = r.addr ∧ y.trap.taddr = r.taddr ∧ y.trap.tlanes = r.tlanes ∧
        y.trap.tsplit = x.splitWord ∧ y.trap.tsave = x.trap.tsave ∧ y.trap.tslice = x.slices.map Slice.saved ∧
        y.trap.lost = x.lost ∧ y.trap.rx = x.rx ∧ y.lost = x.lost ∧ y.rx = x.rx ∧
        y.raised = none ∧ y.preds = x.preds ∧ y.counters = x.counters ∧
        (∀ n, n < 8 → x.live n = true → (y.slice n).live = true ∧ (y.slice n).pc = h ∧ (y.slice n).mask = 0b1111#4 ∧
          (y.slice n).mode = 0 ∧ (y.slice n).rstack = [] ∧ (y.slice n).lstack = []) ∧
        (∀ n, n < 8 → x.live n = false → y.slice n = x.slice n)) ∧
    (∀ r, s.ev = .trapEntry g → x.raised = some r → x.trap.tcause.getLsbD 15 = true →
      exec .trapEntry s = .next (s.fatal g 0x09 (setField x.trap.tcause 16 16 r.cause.toNat) x.trap.tpc x.trap.taddr)) ∧
    (∀ r, s.ev = .trapEntry g → x.raised = some r → x.trap.tcause.getLsbD 15 = false →
      (((s.core g.core).recordOf x).handler = 0 ∨ fatalOnly r.cause = true) →
      exec .trapEntry s = .next (s.fatal g r.cause (tcauseWord r.cause r.info (x.lead r.slices) r.bu false) r.addr r.taddr)) ∧
    (∀ c tc tp ta, (s.fatal g c tc tp ta).ends = s.ends ++ [⟨g.core, (s.core g.core).sessionOf x, tc, tp, ta⟩]) ∧
    (∀ c tc tp ta, ((s.core g.core).gangs.map (·.1)).Pairwise (· < ·) → (s.fatal g c tc tp ta).gang? g = none) ∧
    exec .illegalOpcode s = .next (s.trapNow 0x01 0 0 0) ∧
    (∀ e, s.ev = .unitFaultTrap g → x.trap.tcause.getLsbD 15 = false → x.raised = none → x.owesTrap = true →
      x.unitTrapGroup = some e → ∃ t, exec .unitFaultTrap s = .next t ∧
        (((s.owedTrap g x e).gang? g).any Gang.owesTrap = false → t = s.owedTrap g x e) ∧ t.mem = (s.owedTrap g x e).mem) ∧
    (∀ ps t, s.ev = .gangUnpark g → State.unparkAll g x.parked s = (ps, t) → (ps.any fun p => !p.saved) = false →
      exec .gangUnpark s = .next (t.updGang g fun y => ({ y with parked := ps } : Gang).unfaulted)) ∧
    (∀ ps t, s.ev = .gangUnpark g → State.unparkAll g x.parked s = (ps, t) → (ps.any fun p => !p.saved) = true →
      exec .gangUnpark s = .next (t.updGang g fun y => ({ y with parked := ps } : Gang).faulted)) ∧
    (∀ e, s.ev = .hang g e → Config.watchdogLimit ≤ (x.group e).dog →
      exec .hang s = .next (s.fatalBy g 0x96 (BitVec.ofNat 16 (s.reason g x e).code))) ∧
    (∀ e, s.ev = .hang g e → (x.group e).dog < Config.watchdogLimit → exec .hang s = .next s)

/-- From R168, R169, R215, R264 to R272, R276: a launch that fits is made whole, and one that does not is held; the exit of a team
whose gangs have all ended frees it; a record call reserves or commits records of its queue; an instance starts
for the best of the candidates on cores that the session may use; a graph steps on. The placement is open (log 23). -/
def Obligations.LaunchesAndRecords : Prop :=
  ∀ (s : State),
    (∀ x, s.ev = .teamLaunch x → s.launchFits x = true → exec .teamLaunch s = .next (s.launchNow x)) ∧
    (∀ x, s.ev = .teamLaunch x → s.launchFits x = false → exec .teamLaunch s = .next (s.post (.teamLaunch x))) ∧
    (∀ x, s.ev = .crewLaunch x → s.launchFits x = true → exec .crewLaunch s = .next (s.launchNow x)) ∧
    (∀ x, s.ev = .crewLaunch x → s.launchFits x = false → exec .crewLaunch s = .next (s.post (.crewLaunch x))) ∧
    (∀ x c, s.launchFits x = true → c ∈ s.crews → c ∈ (s.launchNow x).crews) ∧
    (∀ core n tm u, s.ev = .teamExit core n → s.team? core n = some tm → (s.core core).teamEnded n = true →
      s.teamPending core tm = false → State.voidAll tm.tid (s.reservations tm.tid) s = .done () u →
      let s2 := ((u.logRows tm.session (rangeRows core tm.base tm.bytes)).freeTeam core n true).updCrew tm.crew
        (fun c => { c with gone := c.gone.set tm.rank true, energy := c.energy + tm.energy })
      (∀ c, s2.crew? tm.crew = some c → c.residents = [] →
        exec .teamExit s = .next ((s2.endCrew c).serveRestores.graphSteps tm.session)) ∧
      (∀ c, s2.crew? tm.crew = some c → c.residents ≠ [] → exec .teamExit s = .next
        (((List.range 16).foldl (fun t id => t.settleCbar c.id id 4) s2).serveRestores.graphSteps tm.session))) ∧
    (∀ core n, s.ev = .teamExit core n → (s.core core).teamEnded n = false → exec .teamExit s = .next s) ∧
    (∀ x, s.ev = .recordReserve x → badRecordCall x.words = true →
      exec .recordReserve s = .next (s.post (.returnRecord (record x 2 0 [])))) ∧
    (∀ x p qi q,
      let c := fieldNat (x.words.getD 1 0) 8 8
      s.ev = .recordReserve x → badRecordCall x.words = false → s.callQueue x = some (p, qi, q) →
      (q.hasRoom c = false → exec .recordReserve s = .next (s.post (.returnRecord (record x 0 0 [1])))) ∧
      (q.hasRoom c = true → exec .recordReserve s = .next
        ((s.updPipe x.session p.num fun p =>
          { p.updQueue qi (fun q => { q with
              nextSeq := q.nextSeq + c
              records := q.records ++ (List.range c).map (fun i => (q.nextSeq + i, RecState.reserved p.nextRid x.team)) }) with
            nextRid := p.nextRid + 1 }).post
          (.returnRecord (record x 0 0 [0, BitVec.ofNat 32 p.nextRid, BitVec.ofNat 32 q.nextSeq]))))) ∧
    (∀ x p qi q seqs u, s.ev = .recordCommit x → badRecordCall x.words = false → s.callQueue x = some (p, qi, q) →
      q.reservedBy (fun r t => decide (BitVec.ofNat 32 r = x.words.getD 2 0) && decide (t = x.team)) = seqs → seqs ≠ [] →
      State.commitRecs x.session p.num qi (s.stageOf x.team (pipeKey x.session p.num)) false seqs s = .done () u →
      exec .recordCommit s = .next ((u.post (.returnRecord (record x 0 0 [0]))).graphSteps x.session)) ∧
    (∀ x, (s.ev = .recordReserve x ∨ s.ev = .recordCommit x) → badRecordCall x.words = false → s.callQueue x = none →
      (s.ev = .recordReserve x → exec .recordReserve s = .next (s.post (.returnRecord (record x 0 0 [3])))) ∧
      (s.ev = .recordCommit x → exec .recordCommit s = .next (s.post (.returnRecord (record x 0 0 [3]))))) ∧
    (∀ die cluster mask n c,
      let ns := (s.sess.map (·.1)).filter (fun n => s.mayStart n die && decide (s.candidates n die ≠ []))
      s.ev = .instanceStart die cluster mask → (s.die die).mode ≠ 2 → ns[(Config.placement s.tick).2 % ns.length]? = some n →
      bestCandidate (s.candidates n die) = some c → cluster ∈ s.allowedClusters c.stage.record.session die →
      exec .instanceStart s = .next (s.startInstance n c cluster
        (((List.range 8).filter (fun k => mask.getLsbD k)).map (fun k => die * 96 + cluster * 8 + k)))) ∧
    (∀ n num, s.ev = .phaseComplete n num → exec .phaseComplete s = .next (s.graphStep n num (.phaseComplete n num)))

/-- From R174 to R185, R194 to R204, R223: a command fires in its turn once its ring slots are there, moves its bytes in pieces, and
retires in order; a follow-on command enters its queue where that has room; an array that has stood still for its limit is
reset, every gang of its core ends with MX_RESET, and the session of each of its teams rolls back. -/
def Obligations.EnginesAdvance : Prop :=
  ∀ (s : State) (core q id : Nat) (k : Cmd) (t : Team),
    (s.core core).cmd? q id = some k → s.team? core k.team = some t →
    (s.ev = .commandFire core q id → s.fireReady core q id = false → exec .commandFire s = .next (s.post (.commandFire core q id))) ∧
    (s.ev = .commandFire core q id → s.fireReady core q id = true → k.op.ringIn = none → k.op.ringOut = none →
      let k1 := { k with fired := true, inSlot := none, outSlot := none }
      exec .commandFire s = .next (((s.updCmd core id (fun _ => k1)).updTeam core k.team (fun t => t)).post
        (if q = 1 ∨ k1.total t = 0 then .commandRetire core q id else .copyDelivery core id))) ∧
    (∀ m, s.ev = .commandRetire core q id → k.op = .matrix m → k.fired = true →
      exec .commandRetire s = .next (s.retireMx core k t m)) ∧
    (s.ev = .commandRetire core q id → (∀ m, k.op ≠ .matrix m) → k.done = false → k.fired = true →
      (s.core core).behindOlder q t k = false → (s.core core).follow = [] →
      let u := (s.updTeam core k.team (fun t => t.release k true)).finishCmd core q id
      (u.core core).follow = [] → exec .commandRetire s = .next u) ∧
    (s.ev = .commandRetire core q id → (∀ m, k.op ≠ .matrix m) → k.done = false → k.fired = true →
      (s.core core).behindOlder q t k = true → exec .commandRetire s = .next (s.post (.commandRetire core q id))) ∧
    (s.ev = .copyDelivery core id → (s.core core).queueOf id = q → k.stall = none → k.done = false →
      (s.core core).behindOlder q t k = false → exec .copyDelivery s = .next (s.deliverPiece core q t k)) ∧
    (s.ev = .copyDelivery core id → (s.core core).queueOf id = q → (k.stall.isSome = true ∨ k.done = true) →
      exec .copyDelivery s = .next s) ∧
    (∀ j, s.ev = .followOnPush core j.id → (s.core core).follow.find? (fun i => decide (i.id = j.id)) = some j →
      (s.core core).queued 1 < Config.queueDepth.getD 1 0 →
      exec .followOnPush s = .next ((s.setCore core
        { s.core core with
          queues := (s.core core).queues.modify 1 (· ++ [j])
          follow := (s.core core).follow.filter (fun i => decide (i.id ≠ j.id)) }).post (.commandFire core 1 j.id))) ∧
    (s.ev = .mxReset core → Config.arrayLimit ≤ (s.core core).mxIdle → ∃ u : State, exec .mxReset s =
      .next ((s.core core).teams.foldl (fun w e => w.postOnce (.rollback e.2.session))
        (((s.core core).refs core).foldl (fun w g => w.fatalBy g 0x42 0) u)) ∧
        ((u.core core).queues.getD 1 [] = [] ∧ (u.core core).follow = [] ∧ (u.core core).mxIdle = 0 ∧
          ∀ a ∈ (u.core core).accs, a.valid = false ∧ a.lost = true) ∧ u.mem = s.mem) ∧
    (s.ev = .mxReset core → (s.core core).mxIdle < Config.arrayLimit → exec .mxReset s = .next s) ∧
    (∀ rank off src len bar c, q = 3 → s.ev = .mcastFillLand core id rank → k.op = .mcast off src len bar →
      s.crew? t.crew = some c →
      let done := k.landed.getD rank 0
      let o := Config.clusterShare + c.cmbase.getD rank 0 + off + done
      let p := Place.store (c.cores.getD rank 0) o
      let n := min (k.pos - done) (min (1 + Config.chunk s.tick % 128) (128 - o % 128))
      let landed := (fitList 0 c.cores.length k.landed).set rank (done + n)
      n ≠ 0 → s.engineFollows k p n true = false → done + n = k.pos → (landed.all fun x => decide (x = len)) = false →
      exec .mcastFillLand s = .next
        ((((s.devWrite (some core) true k.session p ((k.buf.drop done).take n)).updCmd core id
          (fun j => { j with landed := landed })).watchHome t.crew k.gang k.pc k.seq 3 p n).lowerPbc t.crew bar
            (fun r => if r = rank then n else 0)))

/-! Steps of recovery, homes, units, faults, management and the fabric. -/

/-- From R223, R224, R275 to R278, R368, R370: a drain waits until its crew is quiet and its partition holds a copy engine, is then saved and answers with its ticket, and one
that misses its deadline ends its gangs with DRAIN_DEADLINE; a time slice passes to the next partition with work; an
attempt at a cut makes the cut or is repeated, deferred or given up, as its session's state says; a session rolls back. -/
def Obligations.RecoverySteps : Prop :=
  ∀ (s : State) (n : Nat),
    (∀ c, s.crew? n = some c → c.drain = .draining →
      (s.ev = .drainSave n → s.drainReady c = false → exec .drainSave s = .next (s.post (.drainSave n))) ∧
      (s.ev = .drainSave n → s.drainReady c = true → s.engineHeld c.die c.session 0 = false →
        exec .drainSave s = .next ((s.wantEngine c.die c.session 0).post (.drainSave n))) ∧
      (∀ u, s.ev = .drainSave n → s.drainReady c = true → s.engineHeld c.die c.session 0 = true →
        (if s.crewMatrix c then s.writeFreeze c.die c.session else .done () s) = .done () u →
        let t := (unused (Config.newNumber u.tick) 0x100000 1 (u.saved.map (·.ticket))).headD 0
        let w : State := { u.freeCrew c with
          saved := (u.freeCrew c).saved ++ [u.savedCrew t { c with drain := .drained }] }
        exec .drainSave s = .next (((w.shelve c.session).answerAll (fun x => decide (x = .drain c.id)) [statusWord 0 (0x400000 + t)]).serveRestores)) ∧
      (s.ev = .drainDeadline n → c.drainSince + s.deadline c.session ≤ (s.die c.die).cyc →
        exec .drainDeadline s = .next
          (((s.answerAll (fun w => decide (w = .drain n)) [statusWord 7 0]).crewGangs c).foldl
            (fun t p => t.fatalBy p.1 0x72 0) (s.answerAll (fun w => decide (w = .drain n)) [statusWord 7 0]))) ∧
      (s.ev = .drainDeadline n → (s.die c.die).cyc < c.drainSince + s.deadline c.session →
        exec .drainDeadline s = .next s)) ∧
    (∀ die p q, s.ev = .timeSliceEnd die → (s.die die).sliceOf = some p → (s.die die).sliceEnd ≤ (s.die die).winStart → s.nextSliced die p = some q → q ≠ p →
      let mine := s.crews.filter (fun c => decide (c.die = die) && decide (s.sesPart c.session = p))
      (mine = [] → exec .timeSliceEnd s = .next (s.giveSlice die q)) ∧
      (mine ≠ [] → exec .timeSliceEnd s = .next (mine.foldl (fun t c => t.startDrain c) s))) ∧
    (∀ die p, s.ev = .timeSliceEnd die → (s.die die).sliceOf = some p → (s.die die).sliceEnd ≤ (s.die die).winStart → (s.nextSliced die p = none ∨ s.nextSliced die p = some p) →
      exec .timeSliceEnd s = .next
        (s.setDie die { s.die die with sliceEnd := (s.die die).sliceEnd + s.sliceLen p })) ∧
    (s.ev = .cutAttempt n → (s.ses n).attempt = none → s.sesState n ≠ 0 → exec .cutAttempt s = .next
      ((s.setSes n { s.ses n with
        attempt := some (s.die (s.sesHome n)).cyc, retryAt := none, lastCut := (s.die (s.sesHome n)).cyc }).postOnce (.cut n))) ∧
    (s.ev = .cut n → (s.ses n).attempt ≠ none →
      (s.cutReady n = false → exec .cut s = .next (s.post (.cut n))) ∧
      (s.cutReady n = true → s.unstruck n = true → exec .cut s = .next
        (((s.makeCut n).answerAll (fun w => decide (w = .take n)) [statusWord 0 0]).graphSteps n)) ∧
      (s.cutReady n = true → s.unstruck n = false → exec .cut s = .next (s.failAttempt n))) ∧
    (∀ t, s.ev = .cutWaitExpiry n → (s.ses n).attempt = some t →
      (t + Config.cutWait ≤ (s.die (s.sesHome n)).cyc → exec .cutWaitExpiry s = .next (s.failAttempt n)) ∧
      ((s.die (s.sesHome n)).cyc < t + Config.cutWait → exec .cutWaitExpiry s = .next s)) ∧
    (let next := (s.die (s.sesHome n)).cyc + Config.cutRetry
     let quiet := s.drop (fun e => decide (e = .cut n))
     (next < (s.ses n).lastCut + Config.cutInterval →
       s.failAttempt n = quiet.setSes n { s.ses n with attempt := none, retryAt := some next }) ∧
     ((s.ses n).lastCut + Config.cutInterval ≤ next → s.failAttempt n =
       (quiet.setSes n { s.ses n with attempt := none, retryAt := none, deferred := true }).answerAll
         (fun w => decide (w = .take n)) [statusWord 8 0])) ∧
    (∀ t, s.ev = .cutRetry n → (s.ses n).retryAt = some t →
      (t ≤ (s.die (s.sesHome n)).cyc → exec .cutRetry s = .next (s.startAttempt n false)) ∧
      ((s.die (s.sesHome n)).cyc < t → exec .cutRetry s = .next s)) ∧
    (s.ev = .rollback n → exec .rollback s = .next (s.rollBack n) ∧ (s.sesState n = 0 ∨ s.sesState n = 4 → s.rollBack n = s))

/-- From R141 to R146, R239 to R246, R336: the homes confirm or strike watch entries by the version that they hold, a strike and a
confirmation leave everything but the watch table and the groups that wait on it as they were; leases are renewed for copies whose version is
the home's; what reaches a blocked frame joins its block queue; a write posted by the host is performed at the homes of its
lines. -/
def Obligations.HomesAnswer : Prop :=
  ∀ (s : State) (g : GangRef) (stamp : Nat) (x : Gang), s.gang? g = some x →
    (∀ l ver, s.ev = .confirmationRequest g l ver stamp →
      let v := ((x.watchOf stamp).map (·.ver)).getD ver
      let h := lineOf (s.now (l * 128))
      (s.blockOf (l * 128) = none → v = s.version h → exec .confirmationRequest s = .next (s.post (.watchConfirm g stamp))) ∧
      (s.blockOf (l * 128) = none → v ≠ s.version h → exec .confirmationRequest s = .next (s.post (.watchStrike g stamp))) ∧
      (∀ fr, s.blockOf (l * 128) = some fr → exec .confirmationRequest s = .next (s.joinQueue fr))) ∧
    (s.ev = .watchConfirm g stamp → ∃ (t : State) (y : Gang), exec .watchConfirm s = .next t ∧ t.gang? g = some y ∧
      y.watch = x.watch.filter (fun e => decide (e.stamp ≠ stamp) || e.struck) ∧ y.slices = x.slices ∧ y.preds = x.preds ∧
      t.mem = s.mem ∧ t.agenda = s.agenda) ∧
    (s.ev = .watchStrike g stamp → ∃ (t : State) (y : Gang), exec .watchStrike s = .next t ∧ t.gang? g = some y ∧
      y.watch = x.watch.map (fun e => if e.stamp = stamp then { e with struck := true } else e) ∧ y.slices = x.slices ∧
      y.preds = x.preds ∧ t.mem = s.mem ∧ t.agenda = s.agenda) ∧
    (∀ e, s.ev = .watchTimeout g stamp → x.watchOf stamp = some e →
      (e.since + Config.watchLimit ≤ (s.die (dieOf g.core)).cyc → exec .watchTimeout s = .next (s.strikeEntry g stamp)) ∧
      ((s.die (dieOf g.core)).cyc < e.since + Config.watchLimit → exec .watchTimeout s = .next s)) ∧
    (∀ e, s.ev = .versionReport g e → (x.group e).wait = .acq → exec .versionReport s =
      .next (s.setGang g (x.setGroup e (x.group e).test))) ∧
    (∀ core l c, s.ev = .leaseRenewal core l → s.copy? (.l1 core) l = some c → c.bytes.isNone = false →
      let h := lineOf (s.now (l * 128))
      let e := (s.die (dieOf core)).cyc + s.leaseLen h - 64
      (∀ fr, s.blockOf (l * 128) = some fr → exec .leaseRenewal s = .next (s.joinQueue fr)) ∧
      (s.blockOf (l * 128) = none → (s.byVersion (dieOf core) (c.vlines.headD (0, 0)).1 = false ∨ c.ver ≠ s.version h) →
        exec .leaseRenewal s = .next (s.fillHome core 1 l c.vlines)) ∧
      (s.blockOf (l * 128) = none → s.byVersion (dieOf core) (c.vlines.headD (0, 0)).1 = true → c.ver = s.version h →
        homeDie (l * 128) = dieOf core →
        exec .leaseRenewal s = .next ((s.fill (.l1 core) l c.vlines c.ver c.bytes e).growLease h))) ∧
    (∀ fn pa bs,
      let ps := linePieces (bs.length + 1) pa bs
      s.ev = .hostPostedWrite fn pa bs → s.started = true → s.fnEnabled fn = true →
      (∀ p ∈ ps, inModule p.1 = true ∧ inAtoll p.1 = false ∧ (s.forward p.1).isSome = true) →
      exec .hostPostedWrite s = .next (ps.foldl
        (fun t p => t.writeHome none none 0 2 ((t.forward p.1).getD p.1) p.2) s)) ∧
    (∀ fn pa bs, s.ev = .hostPostedWrite fn pa bs → (s.started = false ∨ s.fnEnabled fn = false) →
      exec .hostPostedWrite s = .next s)

/-- From R273, R371, R379, R381: a budget window ends when its cycles have passed and not before; a die whose temperature reaches its limit is throttled and stays
so until it has fallen 16 below it; at 920 the board removes power; a reset of the module leaves the reset state, but for the memory
of the host and of the other modules; at the release of reset, firmware that the module accepts starts it, through START-UP, TEST
and the opening of the partition manager's session; firmware that it does not accept leaves it as it was. -/
def Obligations.PowerAndReset : Prop :=
  ∀ (s : State) (die : Nat),
    (s.ev = .budgetWindow die → (s.die die).winStart + Config.windowCycles ≤ (s.die die).cyc →
      exec .budgetWindow s = .next (s.newWindow die)) ∧
    (s.ev = .budgetWindow die → (s.die die).cyc < (s.die die).winStart + Config.windowCycles →
      exec .budgetWindow s = .next s) ∧
    (∀ t, s.ev = .dieTemperature die t → t < 920 →
      ((s.die die).tlim ≤ t → exec .dieTemperature s = .next (s.setDie die { s.die die with theta := t, throttled := true })) ∧
      (t < (s.die die).tlim → (s.die die).tlim ≤ t + 16 →
        exec .dieTemperature s = .next (s.setDie die { s.die die with theta := t })) ∧
      (t + 16 < (s.die die).tlim → exec .dieTemperature s = .next (s.setDie die
        { s.die die with theta := t, throttled := decide ((s.die die).budget ≤ (s.die die).energy) }))) ∧
    (∀ t, s.ev = .dieTemperature die t → 920 ≤ t → ∃ u, exec .dieTemperature s = .next u ∧ .thermtrip die ∈ u.agenda) ∧
    (s.ev = .thermtrip die → 920 ≤ (s.die die).theta → exec .thermtrip s = .next { s with powered := false }) ∧
    (s.ev = .thermtrip die → (s.die die).theta < 920 → exec .thermtrip s = .next s) ∧
    (∀ t, s.powered = false → step s ≠ .next t) ∧
    exec .moduleReset s = .next { State.reset with
      tick := s.tick, hostMem := s.hostMem, mem := s.mem.filter (fun e => decide (Config.remoteBase ≤ e.1)) } ∧
    (∀ x, s.ev = .moduleResetRelease x →
      let sound := (List.range 4).all fun d => fwAccepted d x.image
      let next (u : State) : State := u.again (.moduleResetRelease { x with phase := x.phase + 1 })
      (x.phase = 0 → exec .moduleResetRelease s = .next (if s.started = false ∧ sound = true then next { s with
        started := true, fwDigest := x.image.digest, fwSvn := x.image.svn, mstate := 0, dies := s.dies.map (fun d => { d with cyc := 0 }) }
        else s)) ∧
      (x.phase = 1 → exec .moduleResetRelease s = .next (next { s with
        mstate := 1, mem := s.mem.filter (fun e => decide (Config.remoteBase ≤ e.1)), lineVer := [], predictor := [], frameTag := [], copies := [] })) ∧
      (x.phase = 2 → exec .moduleResetRelease s = .next (next ((s.setUp x).startManager x))) ∧
      (3 ≤ x.phase → exec .moduleResetRelease s = .next { s with mstate := 2 }))

/-- From R282, R284, R286 to R296: the calls of the VR, BU and BLU: a malformed call returns STATUS 0x02; an open slot takes a primitive, a
fragment or a DONE; WAITF returns once its slot is final and is held before; a slot is final after its last DONE, when
its samples or pixels have been written; a frame is opened, filled and closed. -/
def Obligations.VisibilityAndBlendingServed : Prop :=
  ∀ (s : State) (x : Call),
    let d := s.die x.die
    (s.ev = .vrOpen x → callOk x 1 6 16 (decide (callField x 8 2 = 3) || decide (callField x 12 4 = 0) ||
        decide (callAddr x 4 % 64 ≠ 0)) = true →
      let busy := (Cells.find? d.vr (vrKey x)).any (fun v => !v.final) || s.buHolds x.die (vrKey x)
      (busy = true → exec .vrOpen s = .next (s.unitReturn x [1])) ∧
      (busy = false → exec .vrOpen s = .next
        (((s.openVbuf x (callAddr x 4) (8192 * sampleCount (callField x 8 2))).setVr x.die (vrKey x)
        { final := false, session := x.session, samp := callField x 8 2, dfunc := callField x 10 2,
          nsrc := callField x 12 4, dones := 0, tx := fieldNat (callWord x 2) 0 16, ty := fieldNat (callWord x 2) 16 16,
          clear := callWord x 3, vbuf := BitVec.ofNat 57 (callAddr x 4), gang := x.gang, team := x.team, level := x.level,
          samples := [] }).unitReturn x [0]))) ∧
    (s.ev = .vrOpen x → callOk x 1 6 16 (decide (callField x 8 2 = 3) || decide (callField x 12 4 = 0) ||
        decide (callAddr x 4 % 64 ≠ 0)) = false → exec .vrOpen s = .next (s.unitBad x)) ∧
    (∀ v, s.vrSlot? x = some v →
      (s.ev = .vrPrim x → callOk x 2 12 8 (triBad (x.words.drop 3)) = true → v.dones < v.nsrc →
        exec .vrPrim s = .next ((s.setVr x.die (vrKey x) { v with
          samples := drawPrim v.samp v.dfunc v.tx v.ty v.clear v.samples (callWord x 2) (callWord x 0) (x.words.drop 3) }).unitReturn
            x [0])) ∧
      (s.ev = .vrDone x → callOk x 3 2 8 false = true → v.dones + 1 < v.nsrc →
        exec .vrDone s = .next ((s.setVr x.die (vrKey x) { v with dones := v.dones + 1 }).unitReturn x [0])) ∧
      (s.ev = .vrDone x → callOk x 3 2 8 false = true → v.dones + 1 = v.nsrc →
        exec .vrDone s = .next (((s.setVr x.die (vrKey x) { v with dones := v.dones + 1 }).unitReturn x [0]).postOnce
          (.vrSlotFinal x.die (x.ep % 256) (callField x 4 4)))) ∧
      (s.ev = .vrWaitf x → callOk x 4 2 8 false = true → v.final = true → exec .vrWaitf s = .next (s.unitReturn x [0])) ∧
      (s.ev = .vrWaitf x → callOk x 4 2 8 false = true → v.final = false → exec .vrWaitf s = .next (s.holdWaitf x))) ∧
    (∀ die cluster n v o u, s.ev = .vrSlotFinal die cluster n → Cells.find? (s.die die).vr (cluster * 16 + n) = some v →
      v.final = false → v.nsrc ≤ v.dones →
      let bs := visBytes v.samp v.clear v.samples
      let y := slotCall die v.session v.level v.team 2 cluster n v.gang
      s.slotPut y 2 cluster n (.vrSlotFinal die cluster n) v.vbuf.toNat v.vbuf.toNat bs.length (fun _ => bs) = .ok o u →
        exec .vrSlotFinal s = .next
          (((u.setVr die (cluster * 16 + n) { v with final := true }).progressSlot y).giveFinal die 2 cluster n)) ∧
    (s.ev = .buOpenf x → callOk x 1 4 4 false = true → callAddr x 2 % 64 ≠ 0 → exec .buOpenf s = .next (s.unitCause x 0xA1)) ∧
    (∀ bs u k, s.ev = .buOpenf x → callOk x 1 4 4 false = true → callAddr x 2 % 64 = 0 →
      s.unitRead x (callAddr x 2) 64 = .ok bs u →
      let w := wordsOfBytes bs
      let free := (List.range 8).filter (fun k => (Cells.find? (u.die x.die).bu k).isNone)
      let bad := frameBad w (((u.stageQueue? x.session (w.getD 10 0).toNat).map (fun q => q.2.2.rsz)).getD 0)
      (bad = true → exec .buOpenf s = .next (u.unitCause x 0xA1)) ∧
      (bad = false → free = [] → exec .buOpenf s = .next (u.unitReturn x [1])) ∧
      (bad = false → free[Config.newNumber u.tick % free.length]? = some k → x.die < u.dies.length →
        ∃ (t : State) (f : BuFrame), exec .buOpenf s = .next (t.unitReturn x [0, BitVec.ofNat 32 k]) ∧
          Cells.find? (t.die x.die).bu k = some f ∧ f.entries = [] ∧ f.cursor = 0 ∧ f.bovf = 0 ∧ f.slot = none)) ∧
    (∀ f u o,
      let ts := f.tilesOf (x.words.drop 3)
      s.ev = .buBin x → callOk x 2 12 7 (triBad (x.words.drop 3)) = true → s.buFrame? x = some f → f.resolving = false →
      48 * (f.entries.length + ts.length) ≤ f.asize → s.writeArena x f ts.length = .ok o u →
      exec .buBin s = .next ((u.setBu x.die (callField x 4 3) { f with
        entries := f.entries ++ ts.map (fun t => (t, callWord x 0, callWord x 2, (x.words.drop 3).take 9)) }).unitReturn x [0])) ∧
    (∀ f, s.ev = .buClose x → callOk x 3 2 7 false = true → s.buFrame? x = some f → f.wtiles * f.htiles ≤ f.cursor →
      exec .buClose s = .next ((s.setDie x.die { d with bu := Cells.erase d.bu (callField x 4 3) }).unitReturn x
        [0, BitVec.ofNat 32 f.bovf, BitVec.ofNat 32 (f.wtiles * f.htiles)])) ∧
    (s.ev = .bluOpen x → callOk x 1 5 16 (decide (2 ≤ callField x 8 2) || decide (2 ≤ callField x 10 2) ||
        decide (callField x 12 4 = 0) || decide ((callWord x 4).toNat % 16 ≠ 0)) = true →
      (Cells.find? d.blu (callField x 4 4)).any (fun v => !v.final) = false → exec .bluOpen s = .next
        ((s.setBlu x.die (callField x 4 4)
          { final := false, session := x.session, fp16 := decide (callField x 8 2 = 1), overOp := decide (callField x 10 2 = 1),
            nsrc := callField x 12 4, dones := 0, base := BitVec.ofNat 57 (callAddr x 2), pitch := (callWord x 4).toNat,
            gang := x.gang, team := x.team, level := x.level, frags := [] }).unitReturn x [0])) ∧
    (∀ v, s.bluSlot? x = some v →
      (s.ev = .bluFrag x → callOk x 2 6 26 (decide (callField x 8 8 ≠ 0)) = true → v.dones < v.nsrc → v.frags.length < 4096 →
        exec .bluFrag s = .next ((s.setBlu x.die (callField x 4 4) { v with
          frags := v.frags ++ [⟨callField x 16 10, callWord x 0, (x.words.drop 2).take 4⟩] }).unitReturn x [0])) ∧
      (s.ev = .bluFrag x → callOk x 2 6 26 (decide (callField x 8 8 ≠ 0)) = true → v.dones < v.nsrc → 4096 ≤ v.frags.length →
        exec .bluFrag s = .next (s.unitCause x 0xA3)) ∧
      (s.ev = .bluDone x → callOk x 3 2 8 false = true → v.dones + 1 < v.nsrc →
        exec .bluDone s = .next ((s.setBlu x.die (callField x 4 4) { v with dones := v.dones + 1 }).unitReturn x [0])) ∧
      (s.ev = .bluWaitf x → callOk x 4 2 8 false = true → v.final = true → exec .bluWaitf s = .next (s.unitReturn x [0])) ∧
      (s.ev = .bluWaitf x → callOk x 4 2 8 false = true → v.final = false → exec .bluWaitf s = .next (s.holdWaitf x))) ∧
    (∀ die n v o u, s.ev = .bluCommit die n → Cells.find? (s.die die).blu n = some v → v.final = false → v.nsrc ≤ v.dones →
      let y := slotCall die v.session v.level v.team 3 0 n v.gang
      State.putPixels y v n (.bluCommit die n) (v.pixels s.tick) s = .ok o u →
      exec .bluCommit s = .next (((u.setBlu die n { v with final := true }).progressSlot y).giveFinal die 3 0 n))

/-- From R285, R297 to R304: a TFU sample is the filtered texels of its descriptor's texture; a RYU trace returns the closest hit or a miss; the
BVO starts and stops; a stream of the FEN opens, takes frames, is released and closes; a unit idle for its limit is
reset, and one that is not stays. -/
def Obligations.SamplingTracingEncodingServed : Prop :=
  ∀ (s : State) (x : Call),
    let d := s.die x.die
    (∀ bs u t ts w, s.ev = .tfuSample x → callOk x 1 (if callField x 4 2 = 3 then 10 else 7) 12
        (decide (callField x 6 2 = 3) || decide (callAddr x 2 % 32 ≠ 0)) = true → s.unitRead x (callAddr x 2) 32 = .ok bs u →
      texture? (wordsOfBytes bs) = some t → State.readTexels x t (t.taps x).1 u = .ok ts w →
      exec .tfuSample s = .next (w.unitReturn x ((List.range 4).map (filtered ts (t.den * (t.taps x).2))))) ∧
    (∀ bs u, s.ev = .tfuSample x → callOk x 1 (if callField x 4 2 = 3 then 10 else 7) 12
        (decide (callField x 6 2 = 3) || decide (callAddr x 2 % 32 ≠ 0)) = true → s.unitRead x (callAddr x 2) 32 = .ok bs u →
      texture? (wordsOfBytes bs) = none → exec .tfuSample s = .next (u.unitCause x 0xA1)) ∧
    (∀ bs u h w, s.ev = .ryuTrace x → callOk x 1 12 6 (decide (callAddr x 2 % 128 ≠ 0)) = true → (rayOf x).idle = false →
      s.unitRead x (callAddr x 2) 8 = .ok bs u → u.bvhWritten x (callAddr x 2) = false →
      State.traverse x (rayOf x) (callAddr x 2) ((wordsOfBytes bs).getD 1 0).toNat 64 ((wordsOfBytes bs).getD 0 0).toNat none u =
        .found h w →
      exec .ryuTrace s = .next (w.unitReturn x (match h with
        | none => missWords w.tick
        | some h => h.words))) ∧
    (∀ h : RayHit, h.words = [BitVec.ofNat 32 h.t, h.id, BitVec.ofNat 32 h.b1, BitVec.ofNat 32 h.b2]) ∧
    (∀ bs u, s.ev = .bvoStart x → callOk x 1 4 4 (decide (callAddr x 2 % 128 ≠ 0)) = true →
      s.unitRead x (callAddr x 2) 8 = .ok bs u →
      (∀ b ∈ (u.die x.die).bvo, ¬ (b.session = x.session ∧ b.base.toNat = callAddr x 2)) →
      ((u.die x.die).bvo.length < 16 → x.die < u.dies.length → ∃ (t : State) (b : Bvh), exec .bvoStart s = .next (t.unitReturn x [0]) ∧
        (t.die x.die).bvo = (u.die x.die).bvo ++ [b] ∧ b.session = x.session ∧ b.level = x.level ∧ b.gang = x.gang ∧ b.team = x.team) ∧
      (16 ≤ (u.die x.die).bvo.length → exec .bvoStart s = .next (u.unitReturn x [1]))) ∧
    (s.ev = .bvoStop x → callOk x 2 4 4 (decide (callAddr x 2 % 128 ≠ 0)) = true →
      let mine (b : Bvh) : Bool := decide (b.session = x.session) && decide (b.base.toNat = callAddr x 2)
      (d.bvo.find? mine = none → exec .bvoStop s = .next (s.unitReturn x [2])) ∧
      (∀ b, d.bvo.find? mine = some b → s.freeLimbo x.die b = none → exec .bvoStop s = .next (s.post (.bvoStop x))) ∧
      (∀ b u, d.bvo.find? mine = some b → s.freeLimbo x.die b = some u → exec .bvoStop s = .next
        ((u.setDie x.die { u.die x.die with bvo := (u.die x.die).bvo.filter (fun b => !mine b) }).unitReturn x [0]))) ∧
    (∀ die base parent child new, s.ev = .bvoSubtreeReplace die base parent child new →
      (s.die die).bvo.find? (fun b => decide (b.base = base)) = none → exec .bvoSubtreeReplace s = .next s) ∧
    (∀ die base parent child new b, s.ev = .bvoSubtreeReplace die base parent child new →
      (s.die die).bvo.find? (fun b => decide (b.base = base)) = some b → b.limbo ≠ [] →
      exec .bvoSubtreeReplace s = .next ((s.freeLimbo die b).getD s)) ∧
    (∀ die base new b m u all ts gone us ks z w, s.ev = .bvoSubtreeReplace die base 0 0 new →
      (s.die die).bvo.find? (fun b => decide (b.base = base)) = some b → b.limbo = [] →
      let y := slotCall die b.session b.level b.team 6 0 0 b.gang
      s.bvhBytes y b.base.toNat b.nodes = some (m, u) →
      let used := new.map (·.1)
      let free := freeNodes m b.nodes (m.getD 2 0).toNat
      let m1 := new.foldl (fun m e => poolSet m (128 * e.1) (fitList 0 32 e.2)) m
      let m2 := poolSet m1 0 [BitVec.ofNat 32 (used.headD 0)]
      subtree m b.nodes 64 (m.getD 0 0).toNat = some (z, all) → subtree m b.nodes 64 (m.getD (0 / 4) 0).toNat = some (ts, gone) →
      subtree m1 b.nodes 64 (used.headD 0) = some (us, ks) → (subtree m2 b.nodes 64 (m2.getD 0 0).toNat).isSome = true →
      b.vers = u.bvhVersions b.session b.base.toNat b.nodes → used ≠ [] → free.take used.length = used → (∀ k ∈ ks, k ∈ used) →
      sameBag ts us = true → boxesHold m1 b.nodes ks = true → all.Nodup →
      State.bvoWrites y b ([(8, [BitVec.ofNat 32 ((free.drop used.length).headD 0)])] ++
        new.map (fun e => (128 * e.1, fitList 0 32 e.2)) ++ [(0, [BitVec.ofNat 32 (used.headD 0)])]) u = some w →
      exec .bvoSubtreeReplace s = .next (w.setDie die { w.die die with
        bvo := (w.die die).bvo.map (fun c => if c = b then
          { b with vers := w.bvhVersions b.session b.base.toNat b.nodes, limbo := gone, rays := w.tracing b } else c) })) ∧
    (s.ev = .fenOpens x →
      let w := fieldNat (callWord x 2) 0 16
      let h := fieldNat (callWord x 2) 16 16
      callOk x 1 7 11 false = true → w % 8 = 0 → h % 8 = 0 → w ≠ 0 → h ≠ 0 → w ≤ 4096 → h ≤ 2304 →
      ¬ (callField x 9 1 = 1 ∧ callField x 10 1 = 0) → callAddr x 4 % 4096 = 0 → (callWord x 6).toNat % 4096 = 0 →
      ((Cells.find? d.fen (callField x 4 5)).isSome = true → exec .fenOpens s = .next (s.unitReturn x [1])) ∧
      ((Cells.find? d.fen (callField x 4 5)).isNone = true → x.die < s.dies.length →
        ∃ (t : State) (v : FenStream), exec .fenOpens s = .next (t.unitReturn x [0]) ∧
          Cells.find? (t.die x.die).fen (callField x 4 5) = some v ∧ v.session = x.session ∧ v.width = w ∧ v.height = h ∧
          v.frames = 0 ∧ v.written = 0 ∧ v.free = (callWord x 6).toNat ∧ v.forceKey = false)) ∧
    (∀ v luma chroma u1 u2, s.ev = .fenFrame x → callOk x 2 7 10 false = true → s.stream? x = some v →
      let row := if v.depth10 then 2 * v.width else v.width
      State.readRows x (callAddr x 2) (callWord x 6).toNat row v.height s = .ok luma u1 →
      State.readRows x (callAddr x 4) (callWord x 6).toNat row (v.height / 2) u1 = .ok chroma u2 →
      let bs := Config.encodedUnit v.born v.served (v.forceKey || decide (callField x 9 1 = 1)) v.params (luma ++ chroma)
      let k := callField x 4 5
      (v.free < bs.length → exec .fenFrame s = .next ((u2.setStream x.die k { v with forceKey := true, served := v.served + 1 }).unitReturn x
        [5, Config.openWord u2.tick 0, Config.openWord u2.tick 1, Config.openWord u2.tick 2])) ∧
      ∀ o p u3 u4, bs.length ≤ v.free →
        let n := min bs.length (v.bytes - v.written % v.bytes)
        u2.unitPut x (v.base.toNat + v.written % v.bytes) (bs.take n) = .ok o u3 →
        (if n < bs.length then u3.unitPut x v.base.toNat (bs.drop n) else .ok () u3) = .ok p u4 →
        exec .fenFrame s = .next ((u4.setStream x.die k
          { v with
            written := v.written + bs.length
            free := v.free - bs.length
            frames := v.frames + 1
            forceKey := false
            served := v.served + 1 }).unitReturn x
              [0, BitVec.ofNat 32 (v.written % v.bytes), BitVec.ofNat 32 bs.length, BitVec.ofNat 32 (Config.frameBase + v.frames)])) ∧
    (∀ v, s.stream? x = some v →
      (s.ev = .fenRelease x → callOk x 3 3 9 false = true → exec .fenRelease s = .next
        ((s.setStream x.die (callField x 4 5) { v with free := min v.bytes (v.free + (callWord x 2).toNat) }).unitReturn x [0])) ∧
      (s.ev = .fenCloses x → callOk x 4 2 9 false = true → exec .fenCloses s = .next
        ((s.setDie x.die { d with fen := Cells.erase d.fen (callField x 4 5) }).unitReturn x [0]))) ∧
    (∀ die typ inst, s.ev = .unitReset die typ inst →
      (Config.unitLimit ≤ Cells.get 0 (s.die die).unitIdle (typ * 65536 + inst) →
        exec .unitReset s = .next (s.resetUnit die typ inst)) ∧
      (Cells.get 0 (s.die die).unitIdle (typ * 65536 + inst) < Config.unitLimit → exec .unitReset s = .next s))

/-- From R317, R334, R338, R357, R358, R373, R374, R375: a fault record or a report enters its ring where that has room and waits otherwise; an
uncorrectable error is counted and poisons a shared frame or ends what found it, and one of a completion of the host link ends the
gang that reads; a correctable one is only counted; a
page response replays or cancels its FID; translations of the host are granted and invalidated. -/
def Obligations.FaultsAreReported : Prop :=
  ∀ (s : State),
    (∀ r done t, s.ev = .faultRecordWrite r → s.putRing (s.sesPart r.session) 20 (faultWords r) = (done, t) →
      exec .faultRecordWrite s = .next (if done then t else t.again (.faultRecordWrite r))) ∧
    (∀ p ws done t, s.ev = .reportWrite p ws → s.putRing p 22 ws = (done, t) →
      exec .faultRecordWrite s = .next (if done then t else t.again (.reportWrite p ws))) ∧
    (∀ pa g va, s.ev = .uncorrectableError pa (.completion g va) →
      exec .uncorrectableError s = .next ((s.countErr (dieOf g.core) 1).dataError g va)) ∧
    (∀ pa who, s.ev = .uncorrectableError pa who → (∀ g va, who ≠ .completion g va) → inModule pa = true →
      ∃ t, exec .uncorrectableError s = .next t ∧
      t = if ((s.countErr (homeDie pa) 1).atollOf (pa / 4096)).isSome then (s.countErr (homeDie pa) 1).poisonFrame (pa / 4096)
        else (s.countErr (homeDie pa) 1).privateError (pa / 4096) who) ∧
    (∀ pa who, s.ev = .uncorrectableError pa who → (∀ g va, who ≠ .completion g va) → inModule pa = false → exec .uncorrectableError s = .next s) ∧
    (∀ die, s.ev = .correctableError die → die < 4 → exec .correctableError s = .next (s.setDie die { s.die die with
      errs := (s.die die).errs.modify 0 (fun w => if w = 0xFFFFFFFF then w else w + 1) })) ∧
    (∀ die f x, (s.die die).fids.find? (fun y => decide (y.fid = f) && y.host) = some x →
      (s.ev = .priResponse die f 0 → exec .priResponse s = .next (s.replay die x)) ∧
      (s.ev = .priResponse die f 1 → exec .priResponse s = .next (s.cancel die x)) ∧
      (s.ev = .priResponse die f 15 → exec .priResponse s = .next (s.cancel die x))) ∧
    (∀ die f code, s.ev = .priResponse die f code → (∀ y ∈ (s.die die).fids, y.fid = f → y.host = false) →
      exec .priResponse s = .next s) ∧
    (∀ n a perm, s.ev = .atsTranslationResponse n a perm → exec .atsTranslationResponse s = .next { s with
      ats := s.ats.filter (fun e => !(decide (e.1 = n) && decide (e.2.1 = a / 4096))) ++ [(n, a / 4096, perm % 4)] }) ∧
    (∀ n a, s.ev = .atsInvalidation n a → (∀ q h, .accessAtHome q ∈ s.agenda → q.place = .host n h → h / 4096 ≠ a / 4096) →
      ∃ t, exec .atsInvalidation s = .next t ∧ (∀ e, e ∈ t.ats ↔ e ∈ s.ats ∧ ¬ (e.1 = n ∧ e.2.1 = a / 4096)) ∧
        t = { s with ats := t.ats }) ∧
    (∀ n a q h, s.ev = .atsInvalidation n a → .accessAtHome q ∈ s.agenda → q.place = .host n h → h / 4096 = a / 4096 →
      exec .atsInvalidation s = .next (s.postOnce (.atsInvalidation n a)))

/-- From R230 to R233, R328, R331, R363 to R366, R376 to R379: partitions are committed and released by those who manage them; a doorbell launches a
graph; an attestation command is accepted, refused or counted busy, and its report is written; freezes and
thaws are carried out; DBGDATA is read and written, and so are the registers of the management space; a stop writes its
records once its crew is quiet, and a step window closes. -/
def Obligations.ManagementServed : Prop :=
  ∀ (s : State) (r : Requester) (p : Nat),
    (s.ev = .pcmdCommit p r → s.started = true → p < 32 → exec .pcmdCommit s = .next (s.commitPart p (manages r))) ∧
    (s.ev = .pcmdCommit p r → (s.started = false ∨ 32 ≤ p) → exec .pcmdCommit s = .next s) ∧
    (s.ev = .pcmdRelease p r → s.started = true → p < 32 → manages r = true → exec .pcmdRelease s = .next (s.releasePart p)) ∧
    (s.ev = .pcmdRelease p r → manages r = false → exec .pcmdRelease s = .next s) ∧
    (∀ n w, s.ev = .doorbell n w r → s.started = true → n < 4096 → s.fnEnabled r.fn = true →
      exec .doorbell s = .next (s.ring r n w)) ∧
    (∀ n w, s.ev = .doorbell n w r → s.fnEnabled r.fn = false → exec .doorbell s = .next s) ∧
    (∀ fn w, s.ev = .attcmdGo fn w → s.started = true → s.fnEnabled fn = true → exec .attcmdGo s = .next (s.attCommand fn w)) ∧
    (∀ fn, s.ev = .attestationDone fn → (s.att fn).busy = true → exec .attestationDone s = .next (s.setAtt fn
      { s.att fn with buf := Cells.write (s.att fn).buf 0 (s.report fn (s.att fn)), busy := false })) ∧
    (∀ scope die cluster, s.ev = .dbgcmdFreeze scope die cluster →
      (scopeOk scope die cluster = true → exec .dbgcmdFreeze s = .next (s.freezeOn scope die cluster)) ∧
      (scopeOk scope die cluster = false → exec .dbgcmdFreeze s = .next s)) ∧
    (∀ scope die cluster, s.ev = .dbgcmdThaw scope die cluster →
      (scopeOk scope die cluster = true → exec .dbgcmdThaw s = .next (s.thawStep scope die cluster)) ∧
      (scopeOk scope die cluster = false → exec .dbgcmdThaw s = .next s)) ∧
    (∀ fn off, s.ev = .dbgdataRead fn off →
      (s.fnEnabled fn = true → off % 4 = 0 → exec .dbgdataRead s = .next { s with hostData := s.bar0 fn off }) ∧
      ((s.fnEnabled fn = false ∨ off % 4 ≠ 0) → exec .dbgdataRead s = .next s)) ∧
    (∀ w, s.ev = .dbgdataWrite w → exec .dbgdataWrite s = .next (s.dbgWrite w)) ∧
    (∀ w, s.dbgSelected = none → s.dbgWrite w = s) ∧
    (∀ w core o, s.dbgSelected = some (.word core o) → s.dbgWrite w = s.updStore core (fun st => Cells.put 0 st o w)) ∧
    (∀ w g x k, s.dbgSelected = some (.gangRec g x k) → s.dbgWrite w = s.setRecord g x k w) ∧
    (∀ w g x k n, s.dbgSelected = some (.special g x k n) → s.dbgWrite w = s.srPoke g x k n w) ∧
    (∀ die i w, s.ev = .errCounterWrite die i w → die < 4 → i < 4 → exec .errCounterWrite s = .next (s.clearErr die i w)) ∧
    (∀ off w, s.ev = .mgmtRegisterWrite off w r → s.fnEnabled r.fn = true → off % 4 = 0 →
      let q : Requester := { r with host := true, level := 2, part := r.fn }
      (r.fn = 0 → off ≠ 0x200000 → exec .mgmtRegisterWrite s = .next (s.mgmtWrite q off w)) ∧
      (r.fn = 0 → off = 0x200000 → fieldNat w 0 2 = 1 → scopeOk (fieldNat w 2 2) (fieldNat w 4 2) (fieldNat w 8 4) = true →
        s.started = true → ∀ done t, s.freezeStep (fieldNat w 2 2) (fieldNat w 4 2) (fieldNat w 8 4) = (done, t) →
        exec .mgmtRegisterWrite s = .next (if done then t else t.again (.mgmtRegisterWrite off w r))) ∧
      (r.fn ≠ 0 → exec .mgmtRegisterWrite s = .next (match vfOffset off with
        | some o => s.mgmtWrite q o w
        | none => s))) ∧
    (∀ off w, s.ev = .mgmtRegisterWrite off w r → (s.fnEnabled r.fn = false ∨ off % 4 ≠ 0) →
      exec .mgmtRegisterWrite s = .next s) ∧
    (∀ id c t, s.crew? id = some c → c.trig = some t → c.stopped = false → s.ev = .stopRecords id →
      (((s.die c.die).cyc < t.cycle + 4 ∨ s.quiet c = false) → exec .stopRecords s = .next (s.post (.stopRecords id))) ∧
      (∀ u, t.cycle + 4 ≤ (s.die c.die).cyc → s.quiet c = true → State.putRecords c t (s.crewGangs c) s = some u →
        exec .stopRecords s = .next (((u.showWaiters c (.stop id)).updCrew id (fun k => { k with stopped := true })).answerAll
          (fun w => decide (w = .stop id)) []))) ∧
    (∀ id c w, s.crew? id = some c → c.window = some w → s.ev = .stepWindowClose id →
      let shut (t : State) : State := ((t.showWaiters c (.step id)).updCrew id (fun k => { k with window := none })).answerAll
        (fun u => decide (u = .step id)) []
      (s.gang? w.gang = none → exec .stepWindowClose s = .next (shut s)) ∧
      ∀ x, s.gang? w.gang = some x →
        let due := decide (w.since + 64 ≤ (s.die c.die).cyc) || w.trapped ||
          x.groupList.all (fun e => w.issued.any (fun m => decide (m &&& x.groupSlices e ≠ 0)))
        ((due = false ∨ x.raised.isSome = true ∨ s.settled w.gang x 0xFF = false) →
          exec .stepWindowClose s = .next (s.post (.stepWindowClose id))) ∧
        (∀ u1 u2 u3, due = true → x.raised = none → s.settled w.gang x 0xFF = true →
          s.putRecord c w.rank w.gnum 0 [dstatWord (x.groupList.any (s.groupWaits w.gang x)) (min 8 w.issued.length) 3 0
            (c.trig.any (fun t => decide (t.gang = some w.gang)))] = some u1 →
          u1.putRecord c w.rank w.gnum 16 [x.gstat, x.splitWord] = some u2 →
          u2.putRecord c w.rank w.gnum 32 x.recordTail = some u3 →
          exec .stepWindowClose s = .next (shut u3)))

/-- From R370, R383 to R391: a port retrains after a flit whose check fails, is up again or down, and routes are recomputed after it; modules that
leave or lose their route are lost to the collectives; a collective call is served, and a complete collective
across dies waits for engines of the pool; then its result is written to its members and each call returns. -/
def Obligations.FabricServed : Prop :=
  ∀ (s : State) (port : Nat) (x : Call) (m : Member),
    (s.ev = .flitCheckFail port → s.ports.getD port .down = .up →
      exec .flitCheckFail s = .next { s with ports := s.ports.set port .retraining }) ∧
    (s.ev = .flitCheckFail port → s.ports.getD port .down ≠ .up → exec .flitCheckFail s = .next s) ∧
    (s.ev = .portRetrained port → s.ports.getD port .down = .retraining →
      exec .portRetrained s = .next { s with ports := s.ports.set port .up }) ∧
    (s.ev = .portDown port → s.ports.getD port .down = .retraining →
      exec .portDown s = .next { s with ports := s.ports.set port .down, rerouting := true }) ∧
    (∀ reach, s.ev = .routesRecomputed reach → s.rerouting = true → exec .routesRecomputed s = .next
      ({ s with routed := reach, rerouting := false }.loseModules
        (fun k => decide (k ≠ s.mid % 16) && s.routed.getLsbD k && !reach.getLsbD k))) ∧
    (∀ reach, s.ev = .routesRecomputed reach → s.rerouting = false → exec .routesRecomputed s = .next s) ∧
    (∀ k, s.ev = .moduleLeavesArmada k → ∃ left, exec .moduleLeavesArmada s = .next ({ s with joined := left }.loseModules
        (fun j => decide (j ≠ s.mid % 16) && (decide (j = k) || decide (k = s.mid % 16)))) ∧
      (k ≠ s.mid % 16 → ∀ j, j < 16 → left.getLsbD j = (s.joined.getLsbD j && !decide (j = k)))) ∧
    (s.ev = .collectiveAllreduce x m → exec .collectiveAllreduce s = .next (s.serveCollective 1 x m)) ∧
    (s.ev = .collectiveBroadcast x m → exec .collectiveBroadcast s = .next (s.serveCollective 2 x m)) ∧
    (∀ key seq k src u ds w,
      let y := (k.calls.map (·.1)).headD default
      let n := (callWord y 5).toNat
      let size := elemBytes (callField y 8 3)
      s.ev = .collectiveResult key seq →
      s.collectives.find? (fun k => decide (k.key = key) && decide (k.seq = seq) && k.complete && !k.returned) = some k →
      k.own.filter (fun z => k.crossDie && !s.engineHeld z.die z.session 2) = [] →
      State.readSources k n size k.calls s = .ok src u → State.reachDests k (n * size) k.own u = .ok ds w →
      let bs := (k.result (callField y 4 4) (callField y 8 3) (callField y 16 10) n src).flatMap (fun e => bytesOf e.toNat size)
      let t := ds.foldl (fun t d => t.unitWrite d.1 d.2 bs) w
      exec .collectiveResult s = .next (k.own.foldl (fun t z => t.unitReturn z [0])
        { t with collectives := t.collectives.map (fun j => if j = k then { k with returned := true } else j) })) ∧
    (∀ key seq k,
      let waits := k.own.filter (fun z => k.crossDie && !s.engineHeld z.die z.session 2)
      s.ev = .collectiveResult key seq →
      s.collectives.find? (fun k => decide (k.key = key) && decide (k.seq = seq) && k.complete && !k.returned) = some k →
      waits ≠ [] → exec .collectiveResult s =
        .next ((waits.foldl (fun t z => t.wantEngine z.die z.session 2) s).post (.collectiveResult key seq))) ∧
    (∀ key seq, s.ev = .collectiveResult key seq → (∀ k ∈ s.collectives, k.complete = false ∨ k.returned = true) →
      exec .collectiveResult s = .next s)

/-! The machine as a whole. -/

namespace Sys2Proof.Machine

/-- The words from word number `pc` on, each translated and read for fetch in its turn; `u` is the state after the last of them
(R61, R69, R312). -/
def State.Words (s : State) (a : Ask) (pc : PC) : List Word → State → Prop
  | [], u => u = s
  | w :: r, u => ∃ p t, s.fetchWord a pc = (.ok p, w, t) ∧ t.Words a (pc + 1) r u

/-- What every state keeps: the memory of the modules and the host's are canonical. -/
def State.Canonical (s : State) : Prop := Memory.wf s.mem = true ∧ Memory.wf s.hostMem = true

/-- Group `r` of gang `x` has a sequence to fetch: it is inside no form, owes no trap for a fault of a unit, and no fetch
watchpoint stops it (R210, R280, R329). -/
def State.Fetches (s : State) (g : GangRef) (x : Gang) (e : Nat) (pc : PC) : Prop :=
  x.form? e = none ∧ (x.owesTrap = false ∨ x.trap.tcause.getLsbD 15 = true) ∧
    ((x.group e).cleared = true ∨ s.watchFetch g x pc = none)

end Sys2Proof.Machine

/-- From R72: the first check that fails of an instruction word's sequence raises its cause, and the sequence has no other effect; a sequence whose
registers or results are not there yet makes its group wait (R35, R105), and has no other effect either; a form that its group
took up again was checked at its issue (R393). The checks of steps 2 to 6 are made in the order of R72. -/
def Obligations.ChecksComeFirst : Prop :=
  (∀ i w s v c lanes, encode i = some w → s.view? = some v → v.gang.form? v.cur.entry = none →
    checkSeq v i (shape i v.mode v.cur.lit.isSome) = .trap c lanes → exec i s = .next (s.trapNow c 0 lanes 0)) ∧
  (∀ i w s v r, encode i = some w → s.view? = some v → v.gang.form? v.cur.entry = none → checkSeq v i (shape i v.mode v.cur.lit.isSome) = .wait r → r ≠ .cklfull →
    exec i s = .next (s.hold r)) ∧
  (∀ i w s v, encode i = some w → s.view? = some v → v.gang.form? v.cur.entry = none → checkSeq v i (shape i v.mode v.cur.lit.isSome) = .wait .cklfull →
    exec i s = .next (s.logFull (v.core.sessionOf v.gang))) ∧
  (∀ i w s, encode i = some w → s.view? = none → exec i s = .next s) ∧
  (∀ v i,
    let sh := shape i v.mode v.cur.lit.isSome
    (v.core.level v.gang < sh.level → checkSeq v i sh = .trap 0x05 (v.tlanes sh)) ∧
    (sh.level ≤ v.core.level v.gang → sh.prefixOk v.cur = false → checkSeq v i sh = .trap 0x03 (v.tlanes sh)) ∧
    (sh.level ≤ v.core.level v.gang → sh.prefixOk v.cur = true → i.wellFormed = false → checkSeq v i sh = .trap 0x02 (v.tlanes sh)) ∧
    (sh.level ≤ v.core.level v.gang → sh.prefixOk v.cur = true → i.wellFormed = true → sh.fields = true →
      sh.prefixFields v.cur = true → sh.typeOk v.mode = false → checkSeq v i sh = .trap 0x04 (v.tlanes sh)) ∧
    (sh.level ≤ v.core.level v.gang → sh.prefixOk v.cur = true → i.wellFormed = true → sh.fields = true →
      sh.prefixFields v.cur = true → sh.typeOk v.mode = true → sh.rangesOk v.gang.vcount v.cur = false →
      checkSeq v i sh = .trap 0x12 (v.tlanes sh)))

/-- From R61 to R69, R174: where the turn is a core's port and the words at the program counter of the group that it chooses decode to instruction `i`, the step
executes `i` with that sequence; a word of no instruction executes the illegal opcode; a form that the group is inside is taken up
again; an event of the agenda that nothing holds back happens, and so does an input, unless it waits its turn behind another
access of its function of the host. A step first serves the block queues, advances the model's own count of steps and
chooses what moves next (log 2, the model's choice). -/
def Obligations.StepRuns : Prop :=
  ∀ (s : State), s.powered = true →
    let b := s.begin
    (∀ core r x,
      let g : GangRef := ⟨core, r.slot, x.gid⟩
      let sl := x.groupSlices r.entry
      let pc := (x.slice (x.lead sl)).pc
      let a := askOf (b.core core) core x 2 40
      let seq (k n : BitVec 55) (routed : Bool) (ra rb rc : BitVec 8) (l : Option Word) : IssueCtx :=
        ⟨g, r.entry, sl, pc, pc + k, pc + n, routed, ra, rb, rc, l⟩
      let runs (u : State) (cur : IssueCtx) (i : Instr) : Prop :=
        step s = exec i (({ u with cur := cur } : State).noteIssue core r (some (i, (x.slice (x.lead sl)).mode)))
      s.turn = .issue core → (b.core core).ports.port < 4 → bestReady (b.readyGroups core) = some r →
      Cells.find? (b.core core).gangs r.slot = some x → b.Fetches g x r.entry pc →
      (∀ w u i, b.Words a pc [w] u → opByte w ≠ 0xFC → opByte w ≠ 0xFD → decode w = .ok i →
        runs u (seq 0 1 false 0 0 0 none) i) ∧
      (∀ z l w u i, b.Words a pc [z, l, w] u → z = 0xFD000000 → opByte w ≠ 0xFC → opByte w ≠ 0xFD → decode w = .ok i →
        runs u (seq 2 3 false 0 0 0 (some l)) i) ∧
      (∀ z w u i, b.Words a pc [z, w] u → opByte z = 0xFC → opByte w ≠ 0xFC → opByte w ≠ 0xFD → decode w = .ok i →
        runs u (seq 1 2 true (z.extractLsb' 16 8) (z.extractLsb' 8 8) (z.extractLsb' 0 8) none) i) ∧
      (∀ z y l w u i, b.Words a pc [z, y, l, w] u → opByte z = 0xFC → y = 0xFD000000 → opByte w ≠ 0xFC → opByte w ≠ 0xFD →
        decode w = .ok i →
        runs u (seq 3 4 true (z.extractLsb' 16 8) (z.extractLsb' 8 8) (z.extractLsb' 0 8) (some l)) i) ∧
      (∀ w u, b.Words a pc [w] u → opByte w ≠ 0xFC → opByte w ≠ 0xFD → decode w = .unassigned w →
        step s = exec .illegalOpcode (({ u with cur := seq 0 1 false 0 0 0 none } : State).noteIssue core r none))) ∧
    (∀ core r x f, s.turn = .issue core → (b.core core).ports.port < 4 → bestReady (b.readyGroups core) = some r →
      Cells.find? (b.core core).gangs r.slot = some x → x.form? r.entry = some f →
      step s = exec f.instr { b with cur := f.cur }) ∧
    (∀ k e, s.turn = .event k → b.agenda[k]? = some e →
      step s = if b.heldBack k e then .next b else exec e.row { b with agenda := b.agenda.eraseIdx k, ev := e }) ∧
    (∀ e, s.turn = .input e → fromOutside e = true →
      step s = if sameFn b.agenda e then .next (b.post e) else exec e.row { b with ev := e }) ∧
    (∀ core slot e, s.turn = .retest core slot e → step s = .next (b.retest core slot e)) ∧
    (∀ die n, s.turn = .cycles die n → step s = .next (b.pass die n))

/-- No instruction and no step of the device stops the machine: every row of the opcode table answers a next state in every state, and so
does every step while the module has power. Without power nothing happens (R381); no run is ever refused. -/
def Obligations.PoweredMachineGoesOn : Prop :=
  (∀ i s, ∃ t, exec i s = .next t) ∧ (∀ s, s.powered = true → ∃ t, step s = .next t) ∧
  (∀ s, Safe s) ∧ (∀ s r, step s ≠ .refused r) ∧ (∀ i s f, exec i s ≠ .fault f) ∧
  (∀ s, s.powered = false → step s = .fault .noPower)

/-- What reset and a launch leave. At reset no team, gang or crew is resident, nothing is on its way, the cycle counts are 0, the
budget and the temperature limit are those of R273, a fault's first number is 1 (R316) as is a report's (R358), MSTATE is START-UP and the
content pools are empty (R380), and the partition records are zero (R365). The slices, split
table, predicates, counters, watch table and TCAUSE of a gang start as R168 says, and it takes one of the lowest free slots of
its core; its team's ring and count registers are 0. -/
def Obligations.ResetAndLaunchLeave : Prop :=
  (State.reset.cores = [] ∧ State.reset.crews = [] ∧ State.reset.saved = [] ∧ State.reset.agenda = [] ∧ State.reset.mstate = 0 ∧
    State.reset.reportNo = 1 ∧ State.reset.started = false ∧ (∀ k, Cells.get 0 State.reset.parts k = 0) ∧
    State.reset.cpool = List.replicate 4 (0, 0) ∧ State.reset.Canonical ∧
    ∀ d, d < 4 → (State.reset.die d).cyc = 0 ∧ (State.reset.die d).budget = 19000 ∧ (State.reset.die d).tlim = 800 ∧
      (State.reset.die d).fidNext = 1 ∧ (State.reset.die d).atoll = [] ∧ (State.reset.die d).keys = []) ∧
  (∀ r gid team num base,
    let x := launchGang r gid team num base
    x.base = base + num * (r.vcount * 128 + 256) ∧ x.preds = List.replicate 8 0 ∧ x.counters = [0, 0, 0, 0, 0] ∧ x.watch = [] ∧
    x.trap.tcause = 0 ∧ x.split = [BitVec.ofNat 8 (2 ^ r.slices - 1), 0, 0, 0] ∧ x.num = num ∧
    ∀ n, n < 8 → (x.live n = decide (n < r.slices)) ∧ (x.slice n).pc = r.entry ∧ (x.slice n).mask = 0b1111#4 ∧
      (x.slice n).mode = r.mode ∧ (x.slice n).rstack = [] ∧ (x.slice n).lstack = []) ∧
  (∀ (c : CoreSt) r tid session crew rank arg k2 gid, c.fits r = true → ∃ t b tm,
    let c1 := c.launch r tid session crew rank arg k2 gid
    Cells.find? c1.teams t = some tm ∧ tm.session = session ∧ tm.base = b ∧ tm.rdesc = List.replicate 8 0 ∧
    tm.rprod = List.replicate 8 0 ∧ tm.rcons = List.replicate 8 0 ∧ tm.cwp = List.replicate 4 0 ∧ tm.rank = rank ∧
    ∀ num, num < r.gangs → ∃ slot, c.freeSlots[num]? = some slot ∧
      Cells.find? c1.gangs slot = some (launchGang r (gid + num) t num b))

/-- From R61 to R64: an instruction word decodes to the instruction that it encodes, with every operand, and to no other: words and instructions
stand for each other. The steps of the device have no word. -/
def Obligations.DecodeAndEncodeAgree : Prop :=
  (∀ i w, decode w = .ok i ↔ encode i = some w) ∧ (∀ i j w, encode i = some w → encode j = some w → i = j) ∧
  (∀ e : Event, encode e.row = none) ∧
  ∀ i w, encode i = some w → decodeTableWord 32 w.toNat = some i

/-- Words that the spec writes out decode to the instructions that it names, and unassigned or reserved ones to none. -/
def Obligations.SpecWordsDecode : Prop :=
  decode 0x600506C3 = .ok (.fadd 5 6 0xC3) ∧ decode 0x02FFFFFE = .ok (.bra 0xFFFFFE) ∧
  decode 0x0B030005 = .ok (.loop 3 5) ∧ decode 0x08010002 = .ok (.ifP 0 1 2) ∧ decode 0x19020500 = .ok (.sysAbort 5) ∧
  decode 0x63040A00 = .ok (.fma 4 10 0) ∧ decode 0x20030202 = .ok (.add 3 2 2) ∧ decode 0xA2040A02 = .ok (.ld32 4 10 2) ∧
  decode 0xA908C4FE = .ok (.st128 8 0xC4 0xFE) ∧ decode 0xCA09C400 = .ok (.rel 9 0xC4) ∧ decode 0xED07000C = .ok (.chinfo 7 12) ∧
  decode 0xE111C6C8 = .ok (.copyf 1 1 0xC6 0xC8) ∧ decode 0xD70A0003 = .ok (.amov 10 0 0 3) ∧
  decode 0x91222000 = .ok (.fcmp 0 4 2 0x20 0) ∧ decode 0x15FC0010 = .ok (.mfs 0xFC 0x10) ∧
  decode 0xF401D4D8 = .ok (.modgShare 0xD4 0xD8) ∧ decode 0 = .unassigned 0 ∧ decode 0xFFFFFFFF = .unassigned 0xFFFFFFFF ∧
  decode 0xF4000000 = .unassigned 0xF4000000 ∧ decode 0x35000607 = .reserved (.popc 0 6)

/-- Every step keeps the memories canonical: addresses rise strictly and no listed byte is the one that an unlisted address reads as (log 4, the
model's choice of representation). -/
def Obligations.MemoriesStayCanonical : Prop :=
  (∀ s t, s.Canonical → step s = .next t → t.Canonical) ∧ ∀ i s t, s.Canonical → exec i s = .next t → t.Canonical
end

