-- ==== Sys2Proof/Laws/Cells.lean ====
section
/-! SUPPORT. The laws of sparse tables: what a read finds after a write, and the canonical form, which every
operation keeps and in which equal contents are equal data. -/

namespace Sys2Proof

set_option Elab.async false

section Tables
variable {α : Type}

@[simp] theorem Cells.get_nil (d : α) (n : Nat) : Cells.get d [] n = d := rfl
@[simp] theorem Cells.find?_nil (n : Nat) : Cells.find? ([] : Cells α) n = none := rfl

/-- A read by default is the listed value or the default. -/
theorem Cells.get_eq_find? (d : α) (c : Cells α) (n : Nat) : Cells.get d c n = (Cells.find? c n).getD d := by
  induction c with
  | nil => rfl
  | cons e r ih =>
    obtain ⟨k, v⟩ := e
    simp only [Cells.get, Cells.find?]
    split
    · rfl
    · split
      · rfl
      · exact ih

@[simp] theorem Cells.find?_insert_same (c : Cells α) (n : Nat) (x : α) :
    Cells.find? (Cells.insert c n x) n = some x := by
  induction c with
  | nil => simp [Cells.insert, Cells.find?]
  | cons e r ih =>
    obtain ⟨k, v⟩ := e
    simp only [Cells.insert]
    split
    · simp [Cells.find?]
    · split
      · simp [Cells.find?]
      · rename_i h1 h2
        simp only [Cells.find?, if_neg h1, if_neg h2]
        exact ih

theorem Cells.find?_insert_other (c : Cells α) (n m : Nat) (x : α) (h : m ≠ n) :
    Cells.find? (Cells.insert c n x) m = Cells.find? c m := by
  induction c with
  | nil =>
    simp only [Cells.insert, Cells.find?]
    split <;> simp [h]
  | cons e r ih =>
    obtain ⟨k, v⟩ := e
    simp only [Cells.insert]
    split
    · rename_i h1
      simp only [Cells.find?]
      by_cases h3 : m < n
      · rw [if_pos h3, if_pos (by omega)]
      · rw [if_neg h3, if_neg h]
    · split
      · rename_i h1 h2
        subst h2
        simp only [Cells.find?, if_neg h]
      · simp only [Cells.find?]
        rw [ih]

@[simp] theorem Cells.get_insert_same (d : α) (c : Cells α) (n : Nat) (x : α) :
    Cells.get d (Cells.insert c n x) n = x := by
  simp [Cells.get_eq_find?]

theorem Cells.get_insert_other (d : α) (c : Cells α) (n m : Nat) (x : α) (h : m ≠ n) :
    Cells.get d (Cells.insert c n x) m = Cells.get d c m := by
  simp [Cells.get_eq_find?, Cells.find?_insert_other c n m x h]

variable [DecidableEq α]

theorem Cells.wfFrom_mono {d : α} {lo lo' : Nat} {c : Cells α} (h : Cells.wfFrom d lo c = true) (hl : lo' ≤ lo) :
    Cells.wfFrom d lo' c = true := by
  cases c with
  | nil => rfl
  | cons e r =>
    obtain ⟨k, v⟩ := e
    simp only [Cells.wfFrom, Bool.and_eq_true, decide_eq_true_eq] at h ⊢
    exact ⟨⟨by omega, h.1.2⟩, h.2⟩

/-- Below its first key a canonical table lists nothing. -/
theorem Cells.find?_below {d : α} {lo n : Nat} {c : Cells α} (h : Cells.wfFrom d lo c = true) (hn : n < lo) :
    Cells.find? c n = none := by
  cases c with
  | nil => rfl
  | cons e r =>
    obtain ⟨k, v⟩ := e
    simp only [Cells.wfFrom, Bool.and_eq_true, decide_eq_true_eq] at h
    simp only [Cells.find?]
    rw [if_pos (by omega)]

theorem Cells.find?_erase {d : α} {lo : Nat} {c : Cells α} (h : Cells.wfFrom d lo c = true) (n m : Nat) :
    Cells.find? (Cells.erase c n) m = if m = n then none else Cells.find? c m := by
  induction c generalizing lo with
  | nil => simp [Cells.erase, Cells.find?]
  | cons e r ih =>
    obtain ⟨k, v⟩ := e
    simp only [Cells.wfFrom, Bool.and_eq_true, decide_eq_true_eq] at h
    obtain ⟨⟨h1, h2⟩, h3⟩ := h
    simp only [Cells.erase]
    split
    · rename_i hlt
      split
      · rename_i e; subst e
        simp [Cells.find?, hlt]
      · rfl
    · split
      · rename_i hlt heq
        subst heq
        split
        · rename_i e; subst e
          exact Cells.find?_below h3 (by omega)
        · rename_i hne
          simp only [Cells.find?]
          split
          · rename_i hm
            exact Cells.find?_below h3 (by omega)
          · rfl
      · rename_i hlt hne
        simp only [Cells.find?]
        rw [ih h3]
        by_cases hm : m = n
        · subst hm; simp [hlt, hne]
        · simp [hm]

/-- What a table holds after a write: the value at its key, and every other key as before. -/
theorem Cells.get_put {d : α} {c : Cells α} (h : Cells.wf d c = true) (n m : Nat) (x : α) :
    Cells.get d (Cells.put d c n x) m = if m = n then x else Cells.get d c m := by
  unfold Cells.put
  split
  · rename_i hx
    simp only [Cells.get_eq_find?, Cells.find?_erase h]
    split
    · simp [hx]
    · rfl
  · split
    · rename_i e; subst e; simp
    · rename_i hne; exact Cells.get_insert_other d c n m x hne

theorem Cells.erase_wfFrom {d : α} {lo : Nat} {c : Cells α} (h : Cells.wfFrom d lo c = true) (n : Nat) :
    Cells.wfFrom d lo (Cells.erase c n) = true := by
  induction c generalizing lo with
  | nil => rfl
  | cons e r ih =>
    obtain ⟨k, v⟩ := e
    have h' := h
    simp only [Cells.wfFrom, Bool.and_eq_true, decide_eq_true_eq] at h
    simp only [Cells.erase]
    split
    · exact h'
    · split
      · exact Cells.wfFrom_mono h.2 (by omega)
      · simp only [Cells.wfFrom, Bool.and_eq_true, decide_eq_true_eq]
        exact ⟨h.1, ih h.2⟩

theorem Cells.insert_wfFrom {d : α} {lo : Nat} {c : Cells α} (h : Cells.wfFrom d lo c = true) (n : Nat) (x : α)
    (hn : lo ≤ n) (hx : x ≠ d) : Cells.wfFrom d lo (Cells.insert c n x) = true := by
  induction c generalizing lo with
  | nil => simp [Cells.insert, Cells.wfFrom, hn, hx]
  | cons e r ih =>
    obtain ⟨k, v⟩ := e
    simp only [Cells.wfFrom, Bool.and_eq_true, decide_eq_true_eq] at h
    simp only [Cells.insert]
    split
    · rename_i hlt
      simp only [Cells.wfFrom, Bool.and_eq_true, decide_eq_true_eq]
      exact ⟨⟨hn, hx⟩, ⟨by omega, h.1.2⟩, h.2⟩
    · split
      · rename_i heq
        subst heq
        simp only [Cells.wfFrom, Bool.and_eq_true, decide_eq_true_eq]
        exact ⟨⟨hn, hx⟩, h.2⟩
      · simp only [Cells.wfFrom, Bool.and_eq_true, decide_eq_true_eq]
        exact ⟨h.1, ih h.2 (by omega)⟩

/-- A write keeps the canonical form. -/
theorem Cells.put_wf {d : α} {c : Cells α} (h : Cells.wf d c = true) (n : Nat) (x : α) :
    Cells.wf d (Cells.put d c n x) = true := by
  unfold Cells.put
  split
  · exact Cells.erase_wfFrom h n
  · rename_i hx
    exact Cells.insert_wfFrom h n x (Nat.zero_le n) hx

/-- In the canonical form equal contents are equal tables. -/
theorem Cells.wfFrom_ext {d : α} {lo : Nat} {c e : Cells α} (hc : Cells.wfFrom d lo c = true)
    (he : Cells.wfFrom d lo e = true) (h : ∀ n, Cells.find? c n = Cells.find? e n) : c = e := by
  induction c generalizing e lo with
  | nil =>
    cases e with
    | nil => rfl
    | cons b r =>
      obtain ⟨k, v⟩ := b
      have := h k
      simp [Cells.find?] at this
  | cons a r ih =>
    obtain ⟨k, v⟩ := a
    cases e with
    | nil =>
      have := h k
      simp [Cells.find?] at this
    | cons b q =>
      obtain ⟨j, u⟩ := b
      simp only [Cells.wfFrom, Bool.and_eq_true, decide_eq_true_eq] at hc he
      have hk : k = j := by
        rcases Nat.lt_trichotomy k j with hlt | heq | hgt
        · have := h k
          simp [Cells.find?, hlt] at this
        · exact heq
        · have := h j
          simp [Cells.find?, hgt] at this
      subst hk
      have hv : v = u := by
        have := h k
        simpa [Cells.find?] using this
      subst hv
      have hr : r = q := by
        refine ih hc.2 he.2 fun n => ?_
        by_cases hn : n ≤ k
        · rw [Cells.find?_below hc.2 (by omega), Cells.find?_below he.2 (by omega)]
        · have := h n
          simp only [Cells.find?] at this
          rwa [if_neg (by omega), if_neg (by omega), if_neg (by omega), if_neg (by omega)] at this
      rw [hr]

theorem Cells.find?_ne_default {d : α} {lo n : Nat} {c : Cells α} (h : Cells.wfFrom d lo c = true) {x : α}
    (hf : Cells.find? c n = some x) : x ≠ d := by
  induction c generalizing lo with
  | nil => simp at hf
  | cons e r ih =>
    obtain ⟨k, v⟩ := e
    simp only [Cells.wfFrom, Bool.and_eq_true, decide_eq_true_eq] at h
    simp only [Cells.find?] at hf
    split at hf
    · simp at hf
    · split at hf
      · have : v = x := by simpa using hf
        subst this
        exact h.1.2
      · exact ih h.2 hf

/-- Two canonical tables that read alike everywhere are the same table. -/
theorem Cells.wf_ext {d : α} {c e : Cells α} (hc : Cells.wf d c = true) (he : Cells.wf d e = true)
    (h : ∀ n, Cells.get d c n = Cells.get d e n) : c = e := by
  refine Cells.wfFrom_ext hc he fun n => ?_
  have hn := h n
  rw [Cells.get_eq_find?, Cells.get_eq_find?] at hn
  cases hx : Cells.find? c n with
  | none =>
    cases hy : Cells.find? e n with
    | none => rfl
    | some y =>
      rw [hx, hy] at hn
      exact absurd hn.symm (Cells.find?_ne_default he hy)
  | some x =>
    cases hy : Cells.find? e n with
    | none =>
      rw [hx, hy] at hn
      exact absurd hn (Cells.find?_ne_default hc hx)
    | some y =>
      rw [hx, hy] at hn
      simpa using hn

theorem Cells.clear_wfFrom {d : α} {lo : Nat} {c : Cells α} (h : Cells.wfFrom d lo c = true) (p : Nat × α → Bool) :
    Cells.wfFrom d lo (c.filter p) = true := by
  induction c generalizing lo with
  | nil => rfl
  | cons e r ih =>
    obtain ⟨k, v⟩ := e
    simp only [Cells.wfFrom, Bool.and_eq_true, decide_eq_true_eq] at h
    simp only [List.filter]
    split
    · simp only [Cells.wfFrom, Bool.and_eq_true, decide_eq_true_eq]
      exact ⟨h.1, ih h.2⟩
    · exact Cells.wfFrom_mono (ih h.2) (by omega)

end Tables

/-- Bytes written keep the canonical form of a memory. -/
theorem Cells.write_wf {m : Cells Byte} (h : Memory.wf m = true) (a : Nat) (bs : List Byte) :
    Memory.wf (Cells.write m a bs) = true := by
  induction bs generalizing m a with
  | nil => exact h
  | cons b r ih => exact ih (Cells.put_wf h a b) (a + 1)

/-- A byte outside the bytes written reads as before. -/
theorem Cells.get_write_outside {m : Cells Byte} (h : Memory.wf m = true) (a : Nat) (bs : List Byte) (n : Nat)
    (hn : n < a ∨ a + bs.length ≤ n) : Cells.get 0 (Cells.write m a bs) n = Cells.get 0 m n := by
  induction bs generalizing m a with
  | nil => rfl
  | cons b r ih =>
    have hl : (b :: r).length = r.length + 1 := rfl
    rw [hl] at hn
    simp only [Cells.write]
    rw [ih (Cells.put_wf h a b) (a + 1) (by omega), Cells.get_put h, if_neg (by omega)]

/-- A byte written reads back. -/
theorem Cells.get_write_inside {m : Cells Byte} (h : Memory.wf m = true) (a : Nat) (bs : List Byte) (k : Nat)
    (hk : k < bs.length) : Cells.get 0 (Cells.write m a bs) (a + k) = bs.getD k 0 := by
  induction bs generalizing m a k with
  | nil => simp at hk
  | cons b r ih =>
    simp only [Cells.write]
    cases k with
    | zero =>
      show Cells.get 0 _ a = _
      rw [Cells.get_write_outside (Cells.put_wf h a b) (a + 1) r a (by omega), Cells.get_put h]
      simp
    | succ j =>
      have := ih (Cells.put_wf h a b) (a + 1) j (by simpa using hk)
      rw [show a + (j + 1) = a + 1 + j by omega, this]
      simp

theorem Cells.bytes_length (m : Cells Byte) (a n : Nat) : (Cells.bytes m a n).length = n := by
  induction n generalizing a with
  | zero => rfl
  | succ n ih => simp [Cells.bytes, ih]

/-- The bytes written read back as they were written. -/
theorem Cells.bytes_write_same {m : Cells Byte} (h : Memory.wf m = true) (a : Nat) (bs : List Byte) :
    Cells.bytes (Cells.write m a bs) a bs.length = bs := by
  induction bs generalizing m a with
  | nil => rfl
  | cons b r ih =>
    have hp := Cells.put_wf h a b
    simp only [List.length, Cells.bytes, Cells.write]
    rw [Cells.get_write_outside hp (a + 1) r a (by omega), Cells.get_put h, if_pos rfl]
    exact congrArg _ (ih hp (a + 1))

end Sys2Proof
end

