-- ==== Sys2Proof/Laws/State.lean ====
section
/-! SUPPORT. What each named update of the state leaves as it was: one lemma per field and update, and what a
core, a session, a gang or a team reads as after it. -/

namespace Sys2Proof.Machine

set_option Elab.async false

section
variable (s : State) (d : Nat) (x : DieSt)
@[simp] theorem State.setDie_powered : (s.setDie d x).powered = s.powered := rfl
@[simp] theorem State.setDie_started : (s.setDie d x).started = s.started := rfl
@[simp] theorem State.setDie_fwDigest : (s.setDie d x).fwDigest = s.fwDigest := rfl
@[simp] theorem State.setDie_fwSvn : (s.setDie d x).fwSvn = s.fwSvn := rfl
@[simp] theorem State.setDie_tick : (s.setDie d x).tick = s.tick := rfl
@[simp] theorem State.setDie_turn : (s.setDie d x).turn = s.turn := rfl
@[simp] theorem State.setDie_agenda : (s.setDie d x).agenda = s.agenda := rfl
@[simp] theorem State.setDie_cur : (s.setDie d x).cur = s.cur := rfl
@[simp] theorem State.setDie_ev : (s.setDie d x).ev = s.ev := rfl
@[simp] theorem State.setDie_nextId : (s.setDie d x).nextId = s.nextId := rfl
@[simp] theorem State.setDie_mem : (s.setDie d x).mem = s.mem := rfl
@[simp] theorem State.setDie_lineVer : (s.setDie d x).lineVer = s.lineVer := rfl
@[simp] theorem State.setDie_predictor : (s.setDie d x).predictor = s.predictor := rfl
@[simp] theorem State.setDie_frameTag : (s.setDie d x).frameTag = s.frameTag := rfl
@[simp] theorem State.setDie_copies : (s.setDie d x).copies = s.copies := rfl
@[simp] theorem State.setDie_tlb : (s.setDie d x).tlb = s.tlb := rfl
@[simp] theorem State.setDie_blocked : (s.setDie d x).blocked = s.blocked := rfl
@[simp] theorem State.setDie_cores : (s.setDie d x).cores = s.cores := rfl
@[simp] theorem State.setDie_crews : (s.setDie d x).crews = s.crews := rfl
@[simp] theorem State.setDie_saved : (s.setDie d x).saved = s.saved := rfl
@[simp] theorem State.setDie_sess : (s.setDie d x).sess = s.sess := rfl
@[simp] theorem State.setDie_mid : (s.setDie d x).mid = s.mid := rfl
@[simp] theorem State.setDie_mstab : (s.setDie d x).mstab = s.mstab := rfl
@[simp] theorem State.setDie_mstate : (s.setDie d x).mstate = s.mstate := rfl
@[simp] theorem State.setDie_cpool : (s.setDie d x).cpool = s.cpool := rfl
@[simp] theorem State.setDie_parts : (s.setDie d x).parts = s.parts := rfl
@[simp] theorem State.setDie_pstat : (s.setDie d x).pstat = s.pstat := rfl
@[simp] theorem State.setDie_plast : (s.setDie d x).plast = s.plast := rfl
@[simp] theorem State.setDie_attest : (s.setDie d x).attest = s.attest := rfl
@[simp] theorem State.setDie_dbgSel : (s.setDie d x).dbgSel = s.dbgSel := rfl
@[simp] theorem State.setDie_dbgAddr : (s.setDie d x).dbgAddr = s.dbgAddr := rfl
@[simp] theorem State.setDie_reportNo : (s.setDie d x).reportNo = s.reportNo := rfl
@[simp] theorem State.setDie_hostMem : (s.setDie d x).hostMem = s.hostMem := rfl
@[simp] theorem State.setDie_ats : (s.setDie d x).ats = s.ats := rfl
@[simp] theorem State.setDie_ports : (s.setDie d x).ports = s.ports := rfl
@[simp] theorem State.setDie_joined : (s.setDie d x).joined = s.joined := rfl
@[simp] theorem State.setDie_routed : (s.setDie d x).routed = s.routed := rfl
@[simp] theorem State.setDie_rerouting : (s.setDie d x).rerouting = s.rerouting := rfl
@[simp] theorem State.setDie_collectives : (s.setDie d x).collectives = s.collectives := rfl
@[simp] theorem State.setDie_waiters : (s.setDie d x).waiters = s.waiters := rfl
@[simp] theorem State.setDie_ends : (s.setDie d x).ends = s.ends := rfl
end

section
variable (s : State) (c : Nat) (x : CoreSt)
@[simp] theorem State.setCore_powered : (s.setCore c x).powered = s.powered := rfl
@[simp] theorem State.setCore_started : (s.setCore c x).started = s.started := rfl
@[simp] theorem State.setCore_fwDigest : (s.setCore c x).fwDigest = s.fwDigest := rfl
@[simp] theorem State.setCore_fwSvn : (s.setCore c x).fwSvn = s.fwSvn := rfl
@[simp] theorem State.setCore_tick : (s.setCore c x).tick = s.tick := rfl
@[simp] theorem State.setCore_turn : (s.setCore c x).turn = s.turn := rfl
@[simp] theorem State.setCore_agenda : (s.setCore c x).agenda = s.agenda := rfl
@[simp] theorem State.setCore_cur : (s.setCore c x).cur = s.cur := rfl
@[simp] theorem State.setCore_ev : (s.setCore c x).ev = s.ev := rfl
@[simp] theorem State.setCore_nextId : (s.setCore c x).nextId = s.nextId := rfl
@[simp] theorem State.setCore_mem : (s.setCore c x).mem = s.mem := rfl
@[simp] theorem State.setCore_lineVer : (s.setCore c x).lineVer = s.lineVer := rfl
@[simp] theorem State.setCore_predictor : (s.setCore c x).predictor = s.predictor := rfl
@[simp] theorem State.setCore_frameTag : (s.setCore c x).frameTag = s.frameTag := rfl
@[simp] theorem State.setCore_copies : (s.setCore c x).copies = s.copies := rfl
@[simp] theorem State.setCore_tlb : (s.setCore c x).tlb = s.tlb := rfl
@[simp] theorem State.setCore_blocked : (s.setCore c x).blocked = s.blocked := rfl
@[simp] theorem State.setCore_crews : (s.setCore c x).crews = s.crews := rfl
@[simp] theorem State.setCore_saved : (s.setCore c x).saved = s.saved := rfl
@[simp] theorem State.setCore_dies : (s.setCore c x).dies = s.dies := rfl
@[simp] theorem State.setCore_sess : (s.setCore c x).sess = s.sess := rfl
@[simp] theorem State.setCore_mid : (s.setCore c x).mid = s.mid := rfl
@[simp] theorem State.setCore_mstab : (s.setCore c x).mstab = s.mstab := rfl
@[simp] theorem State.setCore_mstate : (s.setCore c x).mstate = s.mstate := rfl
@[simp] theorem State.setCore_cpool : (s.setCore c x).cpool = s.cpool := rfl
@[simp] theorem State.setCore_parts : (s.setCore c x).parts = s.parts := rfl
@[simp] theorem State.setCore_pstat : (s.setCore c x).pstat = s.pstat := rfl
@[simp] theorem State.setCore_plast : (s.setCore c x).plast = s.plast := rfl
@[simp] theorem State.setCore_attest : (s.setCore c x).attest = s.attest := rfl
@[simp] theorem State.setCore_dbgSel : (s.setCore c x).dbgSel = s.dbgSel := rfl
@[simp] theorem State.setCore_dbgAddr : (s.setCore c x).dbgAddr = s.dbgAddr := rfl
@[simp] theorem State.setCore_reportNo : (s.setCore c x).reportNo = s.reportNo := rfl
@[simp] theorem State.setCore_hostMem : (s.setCore c x).hostMem = s.hostMem := rfl
@[simp] theorem State.setCore_ats : (s.setCore c x).ats = s.ats := rfl
@[simp] theorem State.setCore_ports : (s.setCore c x).ports = s.ports := rfl
@[simp] theorem State.setCore_joined : (s.setCore c x).joined = s.joined := rfl
@[simp] theorem State.setCore_routed : (s.setCore c x).routed = s.routed := rfl
@[simp] theorem State.setCore_rerouting : (s.setCore c x).rerouting = s.rerouting := rfl
@[simp] theorem State.setCore_collectives : (s.setCore c x).collectives = s.collectives := rfl
@[simp] theorem State.setCore_waiters : (s.setCore c x).waiters = s.waiters := rfl
@[simp] theorem State.setCore_ends : (s.setCore c x).ends = s.ends := rfl
end

section
variable (s : State) (n : Nat) (x : SessDev)
@[simp] theorem State.setSes_powered : (s.setSes n x).powered = s.powered := rfl
@[simp] theorem State.setSes_started : (s.setSes n x).started = s.started := rfl
@[simp] theorem State.setSes_fwDigest : (s.setSes n x).fwDigest = s.fwDigest := rfl
@[simp] theorem State.setSes_fwSvn : (s.setSes n x).fwSvn = s.fwSvn := rfl
@[simp] theorem State.setSes_tick : (s.setSes n x).tick = s.tick := rfl
@[simp] theorem State.setSes_turn : (s.setSes n x).turn = s.turn := rfl
@[simp] theorem State.setSes_agenda : (s.setSes n x).agenda = s.agenda := rfl
@[simp] theorem State.setSes_cur : (s.setSes n x).cur = s.cur := rfl
@[simp] theorem State.setSes_ev : (s.setSes n x).ev = s.ev := rfl
@[simp] theorem State.setSes_nextId : (s.setSes n x).nextId = s.nextId := rfl
@[simp] theorem State.setSes_mem : (s.setSes n x).mem = s.mem := rfl
@[simp] theorem State.setSes_lineVer : (s.setSes n x).lineVer = s.lineVer := rfl
@[simp] theorem State.setSes_predictor : (s.setSes n x).predictor = s.predictor := rfl
@[simp] theorem State.setSes_frameTag : (s.setSes n x).frameTag = s.frameTag := rfl
@[simp] theorem State.setSes_copies : (s.setSes n x).copies = s.copies := rfl
@[simp] theorem State.setSes_tlb : (s.setSes n x).tlb = s.tlb := rfl
@[simp] theorem State.setSes_blocked : (s.setSes n x).blocked = s.blocked := rfl
@[simp] theorem State.setSes_cores : (s.setSes n x).cores = s.cores := rfl
@[simp] theorem State.setSes_crews : (s.setSes n x).crews = s.crews := rfl
@[simp] theorem State.setSes_saved : (s.setSes n x).saved = s.saved := rfl
@[simp] theorem State.setSes_dies : (s.setSes n x).dies = s.dies := rfl
@[simp] theorem State.setSes_mid : (s.setSes n x).mid = s.mid := rfl
@[simp] theorem State.setSes_mstab : (s.setSes n x).mstab = s.mstab := rfl
@[simp] theorem State.setSes_mstate : (s.setSes n x).mstate = s.mstate := rfl
@[simp] theorem State.setSes_cpool : (s.setSes n x).cpool = s.cpool := rfl
@[simp] theorem State.setSes_parts : (s.setSes n x).parts = s.parts := rfl
@[simp] theorem State.setSes_pstat : (s.setSes n x).pstat = s.pstat := rfl
@[simp] theorem State.setSes_plast : (s.setSes n x).plast = s.plast := rfl
@[simp] theorem State.setSes_attest : (s.setSes n x).attest = s.attest := rfl
@[simp] theorem State.setSes_dbgSel : (s.setSes n x).dbgSel = s.dbgSel := rfl
@[simp] theorem State.setSes_dbgAddr : (s.setSes n x).dbgAddr = s.dbgAddr := rfl
@[simp] theorem State.setSes_reportNo : (s.setSes n x).reportNo = s.reportNo := rfl
@[simp] theorem State.setSes_hostMem : (s.setSes n x).hostMem = s.hostMem := rfl
@[simp] theorem State.setSes_ats : (s.setSes n x).ats = s.ats := rfl
@[simp] theorem State.setSes_ports : (s.setSes n x).ports = s.ports := rfl
@[simp] theorem State.setSes_joined : (s.setSes n x).joined = s.joined := rfl
@[simp] theorem State.setSes_routed : (s.setSes n x).routed = s.routed := rfl
@[simp] theorem State.setSes_rerouting : (s.setSes n x).rerouting = s.rerouting := rfl
@[simp] theorem State.setSes_collectives : (s.setSes n x).collectives = s.collectives := rfl
@[simp] theorem State.setSes_waiters : (s.setSes n x).waiters = s.waiters := rfl
@[simp] theorem State.setSes_ends : (s.setSes n x).ends = s.ends := rfl
end

section
variable (s : State) (e : Event)
@[simp] theorem State.post_powered : (s.post e).powered = s.powered := rfl
@[simp] theorem State.post_started : (s.post e).started = s.started := rfl
@[simp] theorem State.post_fwDigest : (s.post e).fwDigest = s.fwDigest := rfl
@[simp] theorem State.post_fwSvn : (s.post e).fwSvn = s.fwSvn := rfl
@[simp] theorem State.post_tick : (s.post e).tick = s.tick := rfl
@[simp] theorem State.post_turn : (s.post e).turn = s.turn := rfl
@[simp] theorem State.post_cur : (s.post e).cur = s.cur := rfl
@[simp] theorem State.post_ev : (s.post e).ev = s.ev := rfl
@[simp] theorem State.post_nextId : (s.post e).nextId = s.nextId := rfl
@[simp] theorem State.post_mem : (s.post e).mem = s.mem := rfl
@[simp] theorem State.post_lineVer : (s.post e).lineVer = s.lineVer := rfl
@[simp] theorem State.post_predictor : (s.post e).predictor = s.predictor := rfl
@[simp] theorem State.post_frameTag : (s.post e).frameTag = s.frameTag := rfl
@[simp] theorem State.post_copies : (s.post e).copies = s.copies := rfl
@[simp] theorem State.post_tlb : (s.post e).tlb = s.tlb := rfl
@[simp] theorem State.post_blocked : (s.post e).blocked = s.blocked := rfl
@[simp] theorem State.post_cores : (s.post e).cores = s.cores := rfl
@[simp] theorem State.post_crews : (s.post e).crews = s.crews := rfl
@[simp] theorem State.post_saved : (s.post e).saved = s.saved := rfl
@[simp] theorem State.post_dies : (s.post e).dies = s.dies := rfl
@[simp] theorem State.post_sess : (s.post e).sess = s.sess := rfl
@[simp] theorem State.post_mid : (s.post e).mid = s.mid := rfl
@[simp] theorem State.post_mstab : (s.post e).mstab = s.mstab := rfl
@[simp] theorem State.post_mstate : (s.post e).mstate = s.mstate := rfl
@[simp] theorem State.post_cpool : (s.post e).cpool = s.cpool := rfl
@[simp] theorem State.post_parts : (s.post e).parts = s.parts := rfl
@[simp] theorem State.post_pstat : (s.post e).pstat = s.pstat := rfl
@[simp] theorem State.post_plast : (s.post e).plast = s.plast := rfl
@[simp] theorem State.post_attest : (s.post e).attest = s.attest := rfl
@[simp] theorem State.post_dbgSel : (s.post e).dbgSel = s.dbgSel := rfl
@[simp] theorem State.post_dbgAddr : (s.post e).dbgAddr = s.dbgAddr := rfl
@[simp] theorem State.post_reportNo : (s.post e).reportNo = s.reportNo := rfl
@[simp] theorem State.post_hostMem : (s.post e).hostMem = s.hostMem := rfl
@[simp] theorem State.post_ats : (s.post e).ats = s.ats := rfl
@[simp] theorem State.post_ports : (s.post e).ports = s.ports := rfl
@[simp] theorem State.post_joined : (s.post e).joined = s.joined := rfl
@[simp] theorem State.post_routed : (s.post e).routed = s.routed := rfl
@[simp] theorem State.post_rerouting : (s.post e).rerouting = s.rerouting := rfl
@[simp] theorem State.post_collectives : (s.post e).collectives = s.collectives := rfl
@[simp] theorem State.post_waiters : (s.post e).waiters = s.waiters := rfl
@[simp] theorem State.post_ends : (s.post e).ends = s.ends := rfl
end

section
variable (s : State) (es : List Event)
@[simp] theorem State.postAll_powered : (s.postAll es).powered = s.powered := rfl
@[simp] theorem State.postAll_started : (s.postAll es).started = s.started := rfl
@[simp] theorem State.postAll_fwDigest : (s.postAll es).fwDigest = s.fwDigest := rfl
@[simp] theorem State.postAll_fwSvn : (s.postAll es).fwSvn = s.fwSvn := rfl
@[simp] theorem State.postAll_tick : (s.postAll es).tick = s.tick := rfl
@[simp] theorem State.postAll_turn : (s.postAll es).turn = s.turn := rfl
@[simp] theorem State.postAll_cur : (s.postAll es).cur = s.cur := rfl
@[simp] theorem State.postAll_ev : (s.postAll es).ev = s.ev := rfl
@[simp] theorem State.postAll_nextId : (s.postAll es).nextId = s.nextId := rfl
@[simp] theorem State.postAll_mem : (s.postAll es).mem = s.mem := rfl
@[simp] theorem State.postAll_lineVer : (s.postAll es).lineVer = s.lineVer := rfl
@[simp] theorem State.postAll_predictor : (s.postAll es).predictor = s.predictor := rfl
@[simp] theorem State.postAll_frameTag : (s.postAll es).frameTag = s.frameTag := rfl
@[simp] theorem State.postAll_copies : (s.postAll es).copies = s.copies := rfl
@[simp] theorem State.postAll_tlb : (s.postAll es).tlb = s.tlb := rfl
@[simp] theorem State.postAll_blocked : (s.postAll es).blocked = s.blocked := rfl
@[simp] theorem State.postAll_cores : (s.postAll es).cores = s.cores := rfl
@[simp] theorem State.postAll_crews : (s.postAll es).crews = s.crews := rfl
@[simp] theorem State.postAll_saved : (s.postAll es).saved = s.saved := rfl
@[simp] theorem State.postAll_dies : (s.postAll es).dies = s.dies := rfl
@[simp] theorem State.postAll_sess : (s.postAll es).sess = s.sess := rfl
@[simp] theorem State.postAll_mid : (s.postAll es).mid = s.mid := rfl
@[simp] theorem State.postAll_mstab : (s.postAll es).mstab = s.mstab := rfl
@[simp] theorem State.postAll_mstate : (s.postAll es).mstate = s.mstate := rfl
@[simp] theorem State.postAll_cpool : (s.postAll es).cpool = s.cpool := rfl
@[simp] theorem State.postAll_parts : (s.postAll es).parts = s.parts := rfl
@[simp] theorem State.postAll_pstat : (s.postAll es).pstat = s.pstat := rfl
@[simp] theorem State.postAll_plast : (s.postAll es).plast = s.plast := rfl
@[simp] theorem State.postAll_attest : (s.postAll es).attest = s.attest := rfl
@[simp] theorem State.postAll_dbgSel : (s.postAll es).dbgSel = s.dbgSel := rfl
@[simp] theorem State.postAll_dbgAddr : (s.postAll es).dbgAddr = s.dbgAddr := rfl
@[simp] theorem State.postAll_reportNo : (s.postAll es).reportNo = s.reportNo := rfl
@[simp] theorem State.postAll_hostMem : (s.postAll es).hostMem = s.hostMem := rfl
@[simp] theorem State.postAll_ats : (s.postAll es).ats = s.ats := rfl
@[simp] theorem State.postAll_ports : (s.postAll es).ports = s.ports := rfl
@[simp] theorem State.postAll_joined : (s.postAll es).joined = s.joined := rfl
@[simp] theorem State.postAll_routed : (s.postAll es).routed = s.routed := rfl
@[simp] theorem State.postAll_rerouting : (s.postAll es).rerouting = s.rerouting := rfl
@[simp] theorem State.postAll_collectives : (s.postAll es).collectives = s.collectives := rfl
@[simp] theorem State.postAll_waiters : (s.postAll es).waiters = s.waiters := rfl
@[simp] theorem State.postAll_ends : (s.postAll es).ends = s.ends := rfl
end

section
variable (s : State) (p : Event → Bool)
@[simp] theorem State.drop_powered : (s.drop p).powered = s.powered := rfl
@[simp] theorem State.drop_started : (s.drop p).started = s.started := rfl
@[simp] theorem State.drop_fwDigest : (s.drop p).fwDigest = s.fwDigest := rfl
@[simp] theorem State.drop_fwSvn : (s.drop p).fwSvn = s.fwSvn := rfl
@[simp] theorem State.drop_tick : (s.drop p).tick = s.tick := rfl
@[simp] theorem State.drop_turn : (s.drop p).turn = s.turn := rfl
@[simp] theorem State.drop_cur : (s.drop p).cur = s.cur := rfl
@[simp] theorem State.drop_ev : (s.drop p).ev = s.ev := rfl
@[simp] theorem State.drop_nextId : (s.drop p).nextId = s.nextId := rfl
@[simp] theorem State.drop_mem : (s.drop p).mem = s.mem := rfl
@[simp] theorem State.drop_lineVer : (s.drop p).lineVer = s.lineVer := rfl
@[simp] theorem State.drop_predictor : (s.drop p).predictor = s.predictor := rfl
@[simp] theorem State.drop_frameTag : (s.drop p).frameTag = s.frameTag := rfl
@[simp] theorem State.drop_copies : (s.drop p).copies = s.copies := rfl
@[simp] theorem State.drop_tlb : (s.drop p).tlb = s.tlb := rfl
@[simp] theorem State.drop_blocked : (s.drop p).blocked = s.blocked := rfl
@[simp] theorem State.drop_cores : (s.drop p).cores = s.cores := rfl
@[simp] theorem State.drop_crews : (s.drop p).crews = s.crews := rfl
@[simp] theorem State.drop_saved : (s.drop p).saved = s.saved := rfl
@[simp] theorem State.drop_dies : (s.drop p).dies = s.dies := rfl
@[simp] theorem State.drop_sess : (s.drop p).sess = s.sess := rfl
@[simp] theorem State.drop_mid : (s.drop p).mid = s.mid := rfl
@[simp] theorem State.drop_mstab : (s.drop p).mstab = s.mstab := rfl
@[simp] theorem State.drop_mstate : (s.drop p).mstate = s.mstate := rfl
@[simp] theorem State.drop_cpool : (s.drop p).cpool = s.cpool := rfl
@[simp] theorem State.drop_parts : (s.drop p).parts = s.parts := rfl
@[simp] theorem State.drop_pstat : (s.drop p).pstat = s.pstat := rfl
@[simp] theorem State.drop_plast : (s.drop p).plast = s.plast := rfl
@[simp] theorem State.drop_attest : (s.drop p).attest = s.attest := rfl
@[simp] theorem State.drop_dbgSel : (s.drop p).dbgSel = s.dbgSel := rfl
@[simp] theorem State.drop_dbgAddr : (s.drop p).dbgAddr = s.dbgAddr := rfl
@[simp] theorem State.drop_reportNo : (s.drop p).reportNo = s.reportNo := rfl
@[simp] theorem State.drop_hostMem : (s.drop p).hostMem = s.hostMem := rfl
@[simp] theorem State.drop_ats : (s.drop p).ats = s.ats := rfl
@[simp] theorem State.drop_ports : (s.drop p).ports = s.ports := rfl
@[simp] theorem State.drop_joined : (s.drop p).joined = s.joined := rfl
@[simp] theorem State.drop_routed : (s.drop p).routed = s.routed := rfl
@[simp] theorem State.drop_rerouting : (s.drop p).rerouting = s.rerouting := rfl
@[simp] theorem State.drop_collectives : (s.drop p).collectives = s.collectives := rfl
@[simp] theorem State.drop_waiters : (s.drop p).waiters = s.waiters := rfl
@[simp] theorem State.drop_ends : (s.drop p).ends = s.ends := rfl
end

section
variable (s : State)
@[simp] theorem State.fresh_powered : (s.fresh).powered = s.powered := rfl
@[simp] theorem State.fresh_started : (s.fresh).started = s.started := rfl
@[simp] theorem State.fresh_fwDigest : (s.fresh).fwDigest = s.fwDigest := rfl
@[simp] theorem State.fresh_fwSvn : (s.fresh).fwSvn = s.fwSvn := rfl
@[simp] theorem State.fresh_tick : (s.fresh).tick = s.tick := rfl
@[simp] theorem State.fresh_turn : (s.fresh).turn = s.turn := rfl
@[simp] theorem State.fresh_agenda : (s.fresh).agenda = s.agenda := rfl
@[simp] theorem State.fresh_cur : (s.fresh).cur = s.cur := rfl
@[simp] theorem State.fresh_ev : (s.fresh).ev = s.ev := rfl
@[simp] theorem State.fresh_mem : (s.fresh).mem = s.mem := rfl
@[simp] theorem State.fresh_lineVer : (s.fresh).lineVer = s.lineVer := rfl
@[simp] theorem State.fresh_predictor : (s.fresh).predictor = s.predictor := rfl
@[simp] theorem State.fresh_frameTag : (s.fresh).frameTag = s.frameTag := rfl
@[simp] theorem State.fresh_copies : (s.fresh).copies = s.copies := rfl
@[simp] theorem State.fresh_tlb : (s.fresh).tlb = s.tlb := rfl
@[simp] theorem State.fresh_blocked : (s.fresh).blocked = s.blocked := rfl
@[simp] theorem State.fresh_cores : (s.fresh).cores = s.cores := rfl
@[simp] theorem State.fresh_crews : (s.fresh).crews = s.crews := rfl
@[simp] theorem State.fresh_saved : (s.fresh).saved = s.saved := rfl
@[simp] theorem State.fresh_dies : (s.fresh).dies = s.dies := rfl
@[simp] theorem State.fresh_sess : (s.fresh).sess = s.sess := rfl
@[simp] theorem State.fresh_mid : (s.fresh).mid = s.mid := rfl
@[simp] theorem State.fresh_mstab : (s.fresh).mstab = s.mstab := rfl
@[simp] theorem State.fresh_mstate : (s.fresh).mstate = s.mstate := rfl
@[simp] theorem State.fresh_cpool : (s.fresh).cpool = s.cpool := rfl
@[simp] theorem State.fresh_parts : (s.fresh).parts = s.parts := rfl
@[simp] theorem State.fresh_pstat : (s.fresh).pstat = s.pstat := rfl
@[simp] theorem State.fresh_plast : (s.fresh).plast = s.plast := rfl
@[simp] theorem State.fresh_attest : (s.fresh).attest = s.attest := rfl
@[simp] theorem State.fresh_dbgSel : (s.fresh).dbgSel = s.dbgSel := rfl
@[simp] theorem State.fresh_dbgAddr : (s.fresh).dbgAddr = s.dbgAddr := rfl
@[simp] theorem State.fresh_reportNo : (s.fresh).reportNo = s.reportNo := rfl
@[simp] theorem State.fresh_hostMem : (s.fresh).hostMem = s.hostMem := rfl
@[simp] theorem State.fresh_ats : (s.fresh).ats = s.ats := rfl
@[simp] theorem State.fresh_ports : (s.fresh).ports = s.ports := rfl
@[simp] theorem State.fresh_joined : (s.fresh).joined = s.joined := rfl
@[simp] theorem State.fresh_routed : (s.fresh).routed = s.routed := rfl
@[simp] theorem State.fresh_rerouting : (s.fresh).rerouting = s.rerouting := rfl
@[simp] theorem State.fresh_collectives : (s.fresh).collectives = s.collectives := rfl
@[simp] theorem State.fresh_waiters : (s.fresh).waiters = s.waiters := rfl
@[simp] theorem State.fresh_ends : (s.fresh).ends = s.ends := rfl
end

section
variable (s : State) (n : Nat) (f : Crew → Crew)
@[simp] theorem State.updCrew_powered : (s.updCrew n f).powered = s.powered := rfl
@[simp] theorem State.updCrew_started : (s.updCrew n f).started = s.started := rfl
@[simp] theorem State.updCrew_fwDigest : (s.updCrew n f).fwDigest = s.fwDigest := rfl
@[simp] theorem State.updCrew_fwSvn : (s.updCrew n f).fwSvn = s.fwSvn := rfl
@[simp] theorem State.updCrew_tick : (s.updCrew n f).tick = s.tick := rfl
@[simp] theorem State.updCrew_turn : (s.updCrew n f).turn = s.turn := rfl
@[simp] theorem State.updCrew_agenda : (s.updCrew n f).agenda = s.agenda := rfl
@[simp] theorem State.updCrew_cur : (s.updCrew n f).cur = s.cur := rfl
@[simp] theorem State.updCrew_ev : (s.updCrew n f).ev = s.ev := rfl
@[simp] theorem State.updCrew_nextId : (s.updCrew n f).nextId = s.nextId := rfl
@[simp] theorem State.updCrew_mem : (s.updCrew n f).mem = s.mem := rfl
@[simp] theorem State.updCrew_lineVer : (s.updCrew n f).lineVer = s.lineVer := rfl
@[simp] theorem State.updCrew_predictor : (s.updCrew n f).predictor = s.predictor := rfl
@[simp] theorem State.updCrew_frameTag : (s.updCrew n f).frameTag = s.frameTag := rfl
@[simp] theorem State.updCrew_copies : (s.updCrew n f).copies = s.copies := rfl
@[simp] theorem State.updCrew_tlb : (s.updCrew n f).tlb = s.tlb := rfl
@[simp] theorem State.updCrew_blocked : (s.updCrew n f).blocked = s.blocked := rfl
@[simp] theorem State.updCrew_cores : (s.updCrew n f).cores = s.cores := rfl
@[simp] theorem State.updCrew_saved : (s.updCrew n f).saved = s.saved := rfl
@[simp] theorem State.updCrew_dies : (s.updCrew n f).dies = s.dies := rfl
@[simp] theorem State.updCrew_sess : (s.updCrew n f).sess = s.sess := rfl
@[simp] theorem State.updCrew_mid : (s.updCrew n f).mid = s.mid := rfl
@[simp] theorem State.updCrew_mstab : (s.updCrew n f).mstab = s.mstab := rfl
@[simp] theorem State.updCrew_mstate : (s.updCrew n f).mstate = s.mstate := rfl
@[simp] theorem State.updCrew_cpool : (s.updCrew n f).cpool = s.cpool := rfl
@[simp] theorem State.updCrew_parts : (s.updCrew n f).parts = s.parts := rfl
@[simp] theorem State.updCrew_pstat : (s.updCrew n f).pstat = s.pstat := rfl
@[simp] theorem State.updCrew_plast : (s.updCrew n f).plast = s.plast := rfl
@[simp] theorem State.updCrew_attest : (s.updCrew n f).attest = s.attest := rfl
@[simp] theorem State.updCrew_dbgSel : (s.updCrew n f).dbgSel = s.dbgSel := rfl
@[simp] theorem State.updCrew_dbgAddr : (s.updCrew n f).dbgAddr = s.dbgAddr := rfl
@[simp] theorem State.updCrew_reportNo : (s.updCrew n f).reportNo = s.reportNo := rfl
@[simp] theorem State.updCrew_hostMem : (s.updCrew n f).hostMem = s.hostMem := rfl
@[simp] theorem State.updCrew_ats : (s.updCrew n f).ats = s.ats := rfl
@[simp] theorem State.updCrew_ports : (s.updCrew n f).ports = s.ports := rfl
@[simp] theorem State.updCrew_joined : (s.updCrew n f).joined = s.joined := rfl
@[simp] theorem State.updCrew_routed : (s.updCrew n f).routed = s.routed := rfl
@[simp] theorem State.updCrew_rerouting : (s.updCrew n f).rerouting = s.rerouting := rfl
@[simp] theorem State.updCrew_collectives : (s.updCrew n f).collectives = s.collectives := rfl
@[simp] theorem State.updCrew_waiters : (s.updCrew n f).waiters = s.waiters := rfl
@[simp] theorem State.updCrew_ends : (s.updCrew n f).ends = s.ends := rfl
end

section
variable (s : State) (g : GangRef) (x : Gang)
@[simp] theorem State.setGang_powered : (s.setGang g x).powered = s.powered := rfl
@[simp] theorem State.setGang_started : (s.setGang g x).started = s.started := rfl
@[simp] theorem State.setGang_fwDigest : (s.setGang g x).fwDigest = s.fwDigest := rfl
@[simp] theorem State.setGang_fwSvn : (s.setGang g x).fwSvn = s.fwSvn := rfl
@[simp] theorem State.setGang_tick : (s.setGang g x).tick = s.tick := rfl
@[simp] theorem State.setGang_turn : (s.setGang g x).turn = s.turn := rfl
@[simp] theorem State.setGang_agenda : (s.setGang g x).agenda = s.agenda := rfl
@[simp] theorem State.setGang_cur : (s.setGang g x).cur = s.cur := rfl
@[simp] theorem State.setGang_ev : (s.setGang g x).ev = s.ev := rfl
@[simp] theorem State.setGang_nextId : (s.setGang g x).nextId = s.nextId := rfl
@[simp] theorem State.setGang_mem : (s.setGang g x).mem = s.mem := rfl
@[simp] theorem State.setGang_lineVer : (s.setGang g x).lineVer = s.lineVer := rfl
@[simp] theorem State.setGang_predictor : (s.setGang g x).predictor = s.predictor := rfl
@[simp] theorem State.setGang_frameTag : (s.setGang g x).frameTag = s.frameTag := rfl
@[simp] theorem State.setGang_copies : (s.setGang g x).copies = s.copies := rfl
@[simp] theorem State.setGang_tlb : (s.setGang g x).tlb = s.tlb := rfl
@[simp] theorem State.setGang_blocked : (s.setGang g x).blocked = s.blocked := rfl
@[simp] theorem State.setGang_crews : (s.setGang g x).crews = s.crews := rfl
@[simp] theorem State.setGang_saved : (s.setGang g x).saved = s.saved := rfl
@[simp] theorem State.setGang_dies : (s.setGang g x).dies = s.dies := rfl
@[simp] theorem State.setGang_sess : (s.setGang g x).sess = s.sess := rfl
@[simp] theorem State.setGang_mid : (s.setGang g x).mid = s.mid := rfl
@[simp] theorem State.setGang_mstab : (s.setGang g x).mstab = s.mstab := rfl
@[simp] theorem State.setGang_mstate : (s.setGang g x).mstate = s.mstate := rfl
@[simp] theorem State.setGang_cpool : (s.setGang g x).cpool = s.cpool := rfl
@[simp] theorem State.setGang_parts : (s.setGang g x).parts = s.parts := rfl
@[simp] theorem State.setGang_pstat : (s.setGang g x).pstat = s.pstat := rfl
@[simp] theorem State.setGang_plast : (s.setGang g x).plast = s.plast := rfl
@[simp] theorem State.setGang_attest : (s.setGang g x).attest = s.attest := rfl
@[simp] theorem State.setGang_dbgSel : (s.setGang g x).dbgSel = s.dbgSel := rfl
@[simp] theorem State.setGang_dbgAddr : (s.setGang g x).dbgAddr = s.dbgAddr := rfl
@[simp] theorem State.setGang_reportNo : (s.setGang g x).reportNo = s.reportNo := rfl
@[simp] theorem State.setGang_hostMem : (s.setGang g x).hostMem = s.hostMem := rfl
@[simp] theorem State.setGang_ats : (s.setGang g x).ats = s.ats := rfl
@[simp] theorem State.setGang_ports : (s.setGang g x).ports = s.ports := rfl
@[simp] theorem State.setGang_joined : (s.setGang g x).joined = s.joined := rfl
@[simp] theorem State.setGang_routed : (s.setGang g x).routed = s.routed := rfl
@[simp] theorem State.setGang_rerouting : (s.setGang g x).rerouting = s.rerouting := rfl
@[simp] theorem State.setGang_collectives : (s.setGang g x).collectives = s.collectives := rfl
@[simp] theorem State.setGang_waiters : (s.setGang g x).waiters = s.waiters := rfl
@[simp] theorem State.setGang_ends : (s.setGang g x).ends = s.ends := rfl
end

section
variable (s : State) (c t : Nat) (x : Team)
@[simp] theorem State.setTeam_powered : (s.setTeam c t x).powered = s.powered := rfl
@[simp] theorem State.setTeam_started : (s.setTeam c t x).started = s.started := rfl
@[simp] theorem State.setTeam_fwDigest : (s.setTeam c t x).fwDigest = s.fwDigest := rfl
@[simp] theorem State.setTeam_fwSvn : (s.setTeam c t x).fwSvn = s.fwSvn := rfl
@[simp] theorem State.setTeam_tick : (s.setTeam c t x).tick = s.tick := rfl
@[simp] theorem State.setTeam_turn : (s.setTeam c t x).turn = s.turn := rfl
@[simp] theorem State.setTeam_agenda : (s.setTeam c t x).agenda = s.agenda := rfl
@[simp] theorem State.setTeam_cur : (s.setTeam c t x).cur = s.cur := rfl
@[simp] theorem State.setTeam_ev : (s.setTeam c t x).ev = s.ev := rfl
@[simp] theorem State.setTeam_nextId : (s.setTeam c t x).nextId = s.nextId := rfl
@[simp] theorem State.setTeam_mem : (s.setTeam c t x).mem = s.mem := rfl
@[simp] theorem State.setTeam_lineVer : (s.setTeam c t x).lineVer = s.lineVer := rfl
@[simp] theorem State.setTeam_predictor : (s.setTeam c t x).predictor = s.predictor := rfl
@[simp] theorem State.setTeam_frameTag : (s.setTeam c t x).frameTag = s.frameTag := rfl
@[simp] theorem State.setTeam_copies : (s.setTeam c t x).copies = s.copies := rfl
@[simp] theorem State.setTeam_tlb : (s.setTeam c t x).tlb = s.tlb := rfl
@[simp] theorem State.setTeam_blocked : (s.setTeam c t x).blocked = s.blocked := rfl
@[simp] theorem State.setTeam_crews : (s.setTeam c t x).crews = s.crews := rfl
@[simp] theorem State.setTeam_saved : (s.setTeam c t x).saved = s.saved := rfl
@[simp] theorem State.setTeam_dies : (s.setTeam c t x).dies = s.dies := rfl
@[simp] theorem State.setTeam_sess : (s.setTeam c t x).sess = s.sess := rfl
@[simp] theorem State.setTeam_mid : (s.setTeam c t x).mid = s.mid := rfl
@[simp] theorem State.setTeam_mstab : (s.setTeam c t x).mstab = s.mstab := rfl
@[simp] theorem State.setTeam_mstate : (s.setTeam c t x).mstate = s.mstate := rfl
@[simp] theorem State.setTeam_cpool : (s.setTeam c t x).cpool = s.cpool := rfl
@[simp] theorem State.setTeam_parts : (s.setTeam c t x).parts = s.parts := rfl
@[simp] theorem State.setTeam_pstat : (s.setTeam c t x).pstat = s.pstat := rfl
@[simp] theorem State.setTeam_plast : (s.setTeam c t x).plast = s.plast := rfl
@[simp] theorem State.setTeam_attest : (s.setTeam c t x).attest = s.attest := rfl
@[simp] theorem State.setTeam_dbgSel : (s.setTeam c t x).dbgSel = s.dbgSel := rfl
@[simp] theorem State.setTeam_dbgAddr : (s.setTeam c t x).dbgAddr = s.dbgAddr := rfl
@[simp] theorem State.setTeam_reportNo : (s.setTeam c t x).reportNo = s.reportNo := rfl
@[simp] theorem State.setTeam_hostMem : (s.setTeam c t x).hostMem = s.hostMem := rfl
@[simp] theorem State.setTeam_ats : (s.setTeam c t x).ats = s.ats := rfl
@[simp] theorem State.setTeam_ports : (s.setTeam c t x).ports = s.ports := rfl
@[simp] theorem State.setTeam_joined : (s.setTeam c t x).joined = s.joined := rfl
@[simp] theorem State.setTeam_routed : (s.setTeam c t x).routed = s.routed := rfl
@[simp] theorem State.setTeam_rerouting : (s.setTeam c t x).rerouting = s.rerouting := rfl
@[simp] theorem State.setTeam_collectives : (s.setTeam c t x).collectives = s.collectives := rfl
@[simp] theorem State.setTeam_waiters : (s.setTeam c t x).waiters = s.waiters := rfl
@[simp] theorem State.setTeam_ends : (s.setTeam c t x).ends = s.ends := rfl
end

section
variable (s : State) (g : GangRef) (f : Gang → Gang)
@[simp] theorem State.updGang_powered : (s.updGang g f).powered = s.powered := by unfold State.updGang; split <;> rfl
@[simp] theorem State.updGang_started : (s.updGang g f).started = s.started := by unfold State.updGang; split <;> rfl
@[simp] theorem State.updGang_fwDigest : (s.updGang g f).fwDigest = s.fwDigest := by unfold State.updGang; split <;> rfl
@[simp] theorem State.updGang_fwSvn : (s.updGang g f).fwSvn = s.fwSvn := by unfold State.updGang; split <;> rfl
@[simp] theorem State.updGang_tick : (s.updGang g f).tick = s.tick := by unfold State.updGang; split <;> rfl
@[simp] theorem State.updGang_turn : (s.updGang g f).turn = s.turn := by unfold State.updGang; split <;> rfl
@[simp] theorem State.updGang_agenda : (s.updGang g f).agenda = s.agenda := by unfold State.updGang; split <;> rfl
@[simp] theorem State.updGang_cur : (s.updGang g f).cur = s.cur := by unfold State.updGang; split <;> rfl
@[simp] theorem State.updGang_ev : (s.updGang g f).ev = s.ev := by unfold State.updGang; split <;> rfl
@[simp] theorem State.updGang_nextId : (s.updGang g f).nextId = s.nextId := by unfold State.updGang; split <;> rfl
@[simp] theorem State.updGang_mem : (s.updGang g f).mem = s.mem := by unfold State.updGang; split <;> rfl
@[simp] theorem State.updGang_lineVer : (s.updGang g f).lineVer = s.lineVer := by unfold State.updGang; split <;> rfl
@[simp] theorem State.updGang_predictor : (s.updGang g f).predictor = s.predictor := by unfold State.updGang; split <;> rfl
@[simp] theorem State.updGang_frameTag : (s.updGang g f).frameTag = s.frameTag := by unfold State.updGang; split <;> rfl
@[simp] theorem State.updGang_copies : (s.updGang g f).copies = s.copies := by unfold State.updGang; split <;> rfl
@[simp] theorem State.updGang_tlb : (s.updGang g f).tlb = s.tlb := by unfold State.updGang; split <;> rfl
@[simp] theorem State.updGang_blocked : (s.updGang g f).blocked = s.blocked := by unfold State.updGang; split <;> rfl
@[simp] theorem State.updGang_crews : (s.updGang g f).crews = s.crews := by unfold State.updGang; split <;> rfl
@[simp] theorem State.updGang_saved : (s.updGang g f).saved = s.saved := by unfold State.updGang; split <;> rfl
@[simp] theorem State.updGang_dies : (s.updGang g f).dies = s.dies := by unfold State.updGang; split <;> rfl
@[simp] theorem State.updGang_sess : (s.updGang g f).sess = s.sess := by unfold State.updGang; split <;> rfl
@[simp] theorem State.updGang_mid : (s.updGang g f).mid = s.mid := by unfold State.updGang; split <;> rfl
@[simp] theorem State.updGang_mstab : (s.updGang g f).mstab = s.mstab := by unfold State.updGang; split <;> rfl
@[simp] theorem State.updGang_mstate : (s.updGang g f).mstate = s.mstate := by unfold State.updGang; split <;> rfl
@[simp] theorem State.updGang_cpool : (s.updGang g f).cpool = s.cpool := by unfold State.updGang; split <;> rfl
@[simp] theorem State.updGang_parts : (s.updGang g f).parts = s.parts := by unfold State.updGang; split <;> rfl
@[simp] theorem State.updGang_pstat : (s.updGang g f).pstat = s.pstat := by unfold State.updGang; split <;> rfl
@[simp] theorem State.updGang_plast : (s.updGang g f).plast = s.plast := by unfold State.updGang; split <;> rfl
@[simp] theorem State.updGang_attest : (s.updGang g f).attest = s.attest := by unfold State.updGang; split <;> rfl
@[simp] theorem State.updGang_dbgSel : (s.updGang g f).dbgSel = s.dbgSel := by unfold State.updGang; split <;> rfl
@[simp] theorem State.updGang_dbgAddr : (s.updGang g f).dbgAddr = s.dbgAddr := by unfold State.updGang; split <;> rfl
@[simp] theorem State.updGang_reportNo : (s.updGang g f).reportNo = s.reportNo := by unfold State.updGang; split <;> rfl
@[simp] theorem State.updGang_hostMem : (s.updGang g f).hostMem = s.hostMem := by unfold State.updGang; split <;> rfl
@[simp] theorem State.updGang_ats : (s.updGang g f).ats = s.ats := by unfold State.updGang; split <;> rfl
@[simp] theorem State.updGang_ports : (s.updGang g f).ports = s.ports := by unfold State.updGang; split <;> rfl
@[simp] theorem State.updGang_joined : (s.updGang g f).joined = s.joined := by unfold State.updGang; split <;> rfl
@[simp] theorem State.updGang_routed : (s.updGang g f).routed = s.routed := by unfold State.updGang; split <;> rfl
@[simp] theorem State.updGang_rerouting : (s.updGang g f).rerouting = s.rerouting := by unfold State.updGang; split <;> rfl
@[simp] theorem State.updGang_collectives : (s.updGang g f).collectives = s.collectives := by unfold State.updGang; split <;> rfl
@[simp] theorem State.updGang_waiters : (s.updGang g f).waiters = s.waiters := by unfold State.updGang; split <;> rfl
@[simp] theorem State.updGang_ends : (s.updGang g f).ends = s.ends := by unfold State.updGang; split <;> rfl
end

section
variable (s : State) (c t : Nat) (f : Team → Team)
@[simp] theorem State.updTeam_powered : (s.updTeam c t f).powered = s.powered := by unfold State.updTeam; split <;> rfl
@[simp] theorem State.updTeam_started : (s.updTeam c t f).started = s.started := by unfold State.updTeam; split <;> rfl
@[simp] theorem State.updTeam_fwDigest : (s.updTeam c t f).fwDigest = s.fwDigest := by unfold State.updTeam; split <;> rfl
@[simp] theorem State.updTeam_fwSvn : (s.updTeam c t f).fwSvn = s.fwSvn := by unfold State.updTeam; split <;> rfl
@[simp] theorem State.updTeam_tick : (s.updTeam c t f).tick = s.tick := by unfold State.updTeam; split <;> rfl
@[simp] theorem State.updTeam_turn : (s.updTeam c t f).turn = s.turn := by unfold State.updTeam; split <;> rfl
@[simp] theorem State.updTeam_agenda : (s.updTeam c t f).agenda = s.agenda := by unfold State.updTeam; split <;> rfl
@[simp] theorem State.updTeam_cur : (s.updTeam c t f).cur = s.cur := by unfold State.updTeam; split <;> rfl
@[simp] theorem State.updTeam_ev : (s.updTeam c t f).ev = s.ev := by unfold State.updTeam; split <;> rfl
@[simp] theorem State.updTeam_nextId : (s.updTeam c t f).nextId = s.nextId := by unfold State.updTeam; split <;> rfl
@[simp] theorem State.updTeam_mem : (s.updTeam c t f).mem = s.mem := by unfold State.updTeam; split <;> rfl
@[simp] theorem State.updTeam_lineVer : (s.updTeam c t f).lineVer = s.lineVer := by unfold State.updTeam; split <;> rfl
@[simp] theorem State.updTeam_predictor : (s.updTeam c t f).predictor = s.predictor := by unfold State.updTeam; split <;> rfl
@[simp] theorem State.updTeam_frameTag : (s.updTeam c t f).frameTag = s.frameTag := by unfold State.updTeam; split <;> rfl
@[simp] theorem State.updTeam_copies : (s.updTeam c t f).copies = s.copies := by unfold State.updTeam; split <;> rfl
@[simp] theorem State.updTeam_tlb : (s.updTeam c t f).tlb = s.tlb := by unfold State.updTeam; split <;> rfl
@[simp] theorem State.updTeam_blocked : (s.updTeam c t f).blocked = s.blocked := by unfold State.updTeam; split <;> rfl
@[simp] theorem State.updTeam_crews : (s.updTeam c t f).crews = s.crews := by unfold State.updTeam; split <;> rfl
@[simp] theorem State.updTeam_saved : (s.updTeam c t f).saved = s.saved := by unfold State.updTeam; split <;> rfl
@[simp] theorem State.updTeam_dies : (s.updTeam c t f).dies = s.dies := by unfold State.updTeam; split <;> rfl
@[simp] theorem State.updTeam_sess : (s.updTeam c t f).sess = s.sess := by unfold State.updTeam; split <;> rfl
@[simp] theorem State.updTeam_mid : (s.updTeam c t f).mid = s.mid := by unfold State.updTeam; split <;> rfl
@[simp] theorem State.updTeam_mstab : (s.updTeam c t f).mstab = s.mstab := by unfold State.updTeam; split <;> rfl
@[simp] theorem State.updTeam_mstate : (s.updTeam c t f).mstate = s.mstate := by unfold State.updTeam; split <;> rfl
@[simp] theorem State.updTeam_cpool : (s.updTeam c t f).cpool = s.cpool := by unfold State.updTeam; split <;> rfl
@[simp] theorem State.updTeam_parts : (s.updTeam c t f).parts = s.parts := by unfold State.updTeam; split <;> rfl
@[simp] theorem State.updTeam_pstat : (s.updTeam c t f).pstat = s.pstat := by unfold State.updTeam; split <;> rfl
@[simp] theorem State.updTeam_plast : (s.updTeam c t f).plast = s.plast := by unfold State.updTeam; split <;> rfl
@[simp] theorem State.updTeam_attest : (s.updTeam c t f).attest = s.attest := by unfold State.updTeam; split <;> rfl
@[simp] theorem State.updTeam_dbgSel : (s.updTeam c t f).dbgSel = s.dbgSel := by unfold State.updTeam; split <;> rfl
@[simp] theorem State.updTeam_dbgAddr : (s.updTeam c t f).dbgAddr = s.dbgAddr := by unfold State.updTeam; split <;> rfl
@[simp] theorem State.updTeam_reportNo : (s.updTeam c t f).reportNo = s.reportNo := by unfold State.updTeam; split <;> rfl
@[simp] theorem State.updTeam_hostMem : (s.updTeam c t f).hostMem = s.hostMem := by unfold State.updTeam; split <;> rfl
@[simp] theorem State.updTeam_ats : (s.updTeam c t f).ats = s.ats := by unfold State.updTeam; split <;> rfl
@[simp] theorem State.updTeam_ports : (s.updTeam c t f).ports = s.ports := by unfold State.updTeam; split <;> rfl
@[simp] theorem State.updTeam_joined : (s.updTeam c t f).joined = s.joined := by unfold State.updTeam; split <;> rfl
@[simp] theorem State.updTeam_routed : (s.updTeam c t f).routed = s.routed := by unfold State.updTeam; split <;> rfl
@[simp] theorem State.updTeam_rerouting : (s.updTeam c t f).rerouting = s.rerouting := by unfold State.updTeam; split <;> rfl
@[simp] theorem State.updTeam_collectives : (s.updTeam c t f).collectives = s.collectives := by unfold State.updTeam; split <;> rfl
@[simp] theorem State.updTeam_waiters : (s.updTeam c t f).waiters = s.waiters := by unfold State.updTeam; split <;> rfl
@[simp] theorem State.updTeam_ends : (s.updTeam c t f).ends = s.ends := by unfold State.updTeam; split <;> rfl
end

end Sys2Proof.Machine
end

