-- ==== Sys2Proof/Laws/Ops.lean ====
section
/-! SUPPORT. The laws of the shared operations: what a core, a session and a gang read as after an update, and what
completing a sequence does, said once. -/

namespace Sys2Proof.Machine

set_option Elab.async false

section Places
variable (s : State)

@[simp] theorem State.core_setCore_same (c : Nat) (x : CoreSt) : (s.setCore c x).core c = x := by
  simp [State.core, State.setCore]

theorem State.core_setCore_other (c d : Nat) (x : CoreSt) (h : d ≠ c) : (s.setCore c x).core d = s.core d := by
  simp [State.core, State.setCore, Cells.get_insert_other _ _ _ _ _ h]

@[simp] theorem State.ses_setSes_same (n : Nat) (x : SessDev) : (s.setSes n x).ses n = x := by
  simp [State.ses, State.setSes]

theorem State.ses_setSes_other (n m : Nat) (x : SessDev) (h : m ≠ n) : (s.setSes n x).ses m = s.ses m := by
  simp [State.ses, State.setSes, Cells.get_insert_other _ _ _ _ _ h]

@[simp] theorem State.core_setSes (n c : Nat) (x : SessDev) : (s.setSes n x).core c = s.core c := rfl
@[simp] theorem State.core_post (e : Event) (c : Nat) : (s.post e).core c = s.core c := rfl
@[simp] theorem State.core_postAll (es : List Event) (c : Nat) : (s.postAll es).core c = s.core c := rfl
@[simp] theorem State.core_fresh (c : Nat) : s.fresh.core c = s.core c := rfl
@[simp] theorem State.ses_setCore (n c : Nat) (x : CoreSt) : (s.setCore c x).ses n = s.ses n := rfl
@[simp] theorem State.ses_post (e : Event) (n : Nat) : (s.post e).ses n = s.ses n := rfl
@[simp] theorem State.gang?_post (e : Event) (g : GangRef) : (s.post e).gang? g = s.gang? g := rfl
@[simp] theorem State.gang?_postAll (es : List Event) (g : GangRef) : (s.postAll es).gang? g = s.gang? g := rfl
@[simp] theorem State.gang?_setSes (n : Nat) (x : SessDev) (g : GangRef) :
    (s.setSes n x).gang? g = s.gang? g := rfl

@[simp] theorem State.die_setDie_same (d : Nat) (x : DieSt) (h : d < s.dies.length) : (s.setDie d x).die d = x := by
  simp [State.die, State.setDie, List.getD, h]

theorem State.die_setDie_other (d e : Nat) (x : DieSt) (h : e ≠ d) : (s.setDie d x).die e = s.die e := by
  simp [State.die, State.setDie, List.getD, List.getElem?_set_ne (Ne.symm h)]

end Places

section Gangs
variable (s : State)

/-- A resident gang has the number of its reference. -/
theorem State.gang?_gid {s : State} {g : GangRef} {x : Gang} (h : s.gang? g = some x) : x.gid = g.gid := by
  unfold State.gang? CoreSt.gang? at h
  split at h
  · split at h
    · rename_i e
      rw [← Option.some.inj h]; exact e
    · cases h
  · cases h

theorem CoreSt.find?_of_gang? {c : CoreSt} {g : GangRef} {x : Gang} (h : c.gang? g = some x) :
    Cells.find? c.gangs g.slot = some x := by
  unfold CoreSt.gang? at h
  split at h
  · rename_i e
    split at h
    · rw [e]; exact h
    · cases h
  · cases h

@[simp] theorem CoreSt.gang?_setGang_same (c : CoreSt) (g : GangRef) (x : Gang) (h : x.gid = g.gid) :
    (c.setGang g.slot x).gang? g = some x := by
  simp [CoreSt.gang?, CoreSt.setGang, h]

theorem CoreSt.gang?_setGang_other (c : CoreSt) (g h : GangRef) (x : Gang) (hs : h.slot ≠ g.slot) :
    (c.setGang g.slot x).gang? h = c.gang? h := by
  simp [CoreSt.gang?, CoreSt.setGang, Cells.find?_insert_other _ _ _ _ hs]

theorem State.gang?_setGang_same (g : GangRef) (x : Gang) (h : x.gid = g.gid) :
    (s.setGang g x).gang? g = some x := by
  simp [State.gang?, State.setGang, h]

/-- A gang replaced by one of the same number changes what no other reference names. -/
theorem State.gang?_setGang_other {s : State} {g : GangRef} {x y : Gang} (hx : s.gang? g = some x)
    (hy : y.gid = g.gid) (h : GangRef) (hne : h ≠ g) : (s.setGang g y).gang? h = s.gang? h := by
  by_cases hc : h.core = g.core
  · by_cases hs : h.slot = g.slot
    · have hf := CoreSt.find?_of_gang? (c := s.core g.core) hx
      have hid : g.gid ≠ h.gid := by
        intro e
        exact hne (by cases g; cases h; simp_all)
      have hxg := State.gang?_gid hx
      simp [State.gang?, State.setGang, CoreSt.gang?, CoreSt.setGang, hc, hs, hf, hy, hxg, hid]
    · simp only [State.gang?, State.setGang, hc, State.core_setCore_same]
      exact CoreSt.gang?_setGang_other _ _ _ _ hs
  · simp [State.gang?, State.setGang, State.core_setCore_other _ _ _ _ hc]

theorem State.updGang_some {s : State} {g : GangRef} {x : Gang} (h : s.gang? g = some x) (f : Gang → Gang) :
    s.updGang g f = s.setGang g (f x) := by
  simp [State.updGang, h]

theorem State.updGang_none {s : State} {g : GangRef} (h : s.gang? g = none) (f : Gang → Gang) :
    s.updGang g f = s := by
  simp [State.updGang, h]

/-- A core keeps all but its gangs when one is replaced. -/
theorem State.core_setGang (g : GangRef) (x : Gang) (c : Nat) :
    (s.setGang g x).core c = { s.core c with gangs := ((s.setGang g x).core c).gangs } := by
  by_cases hc : c = g.core
  · subst hc; simp [State.setGang, CoreSt.setGang]
  · simp [State.setGang, State.core_setCore_other _ _ _ _ hc]

end Gangs

/-! What `logRows` leaves: only the rows of one session's undo log grow. -/

theorem State.logRows_eq (s : State) (n : Nat) (ks : List Nat) :
    ∃ ss, s.logRows n ks = { s with sess := ss } ∧
      ∀ m, (s.logRows n ks).ses m = { s.ses m with rows := ((s.logRows n ks).ses m).rows } := by
  unfold State.logRows
  dsimp only
  split
  · exact ⟨s.sess, rfl, fun m => rfl⟩
  · refine ⟨_, rfl, fun m => ?_⟩
    by_cases hm : m = n
    · subst hm; simp
    · simp [State.ses_setSes_other _ _ _ _ hm]

@[simp] theorem State.logRows_agenda (s : State) (n : Nat) (ks : List Nat) : (s.logRows n ks).agenda = s.agenda := by
  obtain ⟨_, h, _⟩ := s.logRows_eq n ks; rw [h]

@[simp] theorem State.logRows_cores (s : State) (n : Nat) (ks : List Nat) : (s.logRows n ks).cores = s.cores := by
  obtain ⟨_, h, _⟩ := s.logRows_eq n ks; rw [h]

@[simp] theorem State.logRows_cur (s : State) (n : Nat) (ks : List Nat) : (s.logRows n ks).cur = s.cur := by
  obtain ⟨_, h, _⟩ := s.logRows_eq n ks; rw [h]

@[simp] theorem State.core_logRows (s : State) (n : Nat) (ks : List Nat) (c : Nat) :
    (s.logRows n ks).core c = s.core c := by
  unfold State.core; rw [State.logRows_cores]

@[simp] theorem State.gang?_logRows (s : State) (n : Nat) (ks : List Nat) (g : GangRef) :
    (s.logRows n ks).gang? g = s.gang? g := by
  unfold State.gang?; rw [State.core_logRows]

/-! Frames of one gang compose. -/

theorem State.OnlyGang.refl (s : State) (g : GangRef) : s.OnlyGang s g :=
  ⟨rfl, fun _ => rfl, fun _ => rfl, fun _ _ => rfl, fun _ => rfl⟩

theorem State.OnlyGang.trans {s t u : State} {g : GangRef} (h : s.OnlyGang t g) (k : t.OnlyGang u g) :
    s.OnlyGang u g := by
  refine ⟨?_, fun a => (k.memory a).trans (h.memory a), fun c => ?_, fun x hx => (k.gangs x hx).trans (h.gangs x hx),
    fun n => ?_⟩
  · have e := k.rest
    rw [e, h.rest]
  · have e1 := k.cores c
    have e2 := h.cores c
    rw [e1, e2]
  · have e1 := k.undo n
    have e2 := h.undo n
    rw [e1, e2]

theorem State.onlyGang_setGang {s : State} {g : GangRef} {x y : Gang} (hx : s.gang? g = some x)
    (hy : y.gid = g.gid) : s.OnlyGang (s.setGang g y) g :=
  ⟨rfl, fun _ => rfl, fun c => s.core_setGang g y c, fun h hne => State.gang?_setGang_other hx hy h hne, fun _ => rfl⟩

theorem State.onlyGang_logRows (s : State) (g : GangRef) (n : Nat) (ks : List Nat) :
    s.OnlyGang (s.logRows n ks) g := by
  obtain ⟨ss, h, hs⟩ := s.logRows_eq n ks
  refine ⟨?_, fun a => ?_, fun c => ?_, fun x _ => by simp, hs⟩
  · rw [h]
  · rw [h]
  · simp

theorem State.onlyGang_post (s : State) (g : GangRef) (e : Event) : s.OnlyGang (s.post e) g :=
  ⟨rfl, fun _ => rfl, fun _ => rfl, fun _ _ => rfl, fun _ => rfl⟩

/-! Groups: regrouping changes only the split table, the single slices and the group states. -/

/-- The gangs that differ only in how their slices form groups. -/
def Gang.Regrouped (x y : Gang) : Prop := y = { x with split := y.split, single := y.single, groups := y.groups }

theorem Gang.Regrouped.refl (x : Gang) : x.Regrouped x := rfl

theorem Gang.Regrouped.trans {x y z : Gang} (h : x.Regrouped y) (k : y.Regrouped z) : x.Regrouped z := by
  unfold Gang.Regrouped at *
  rw [k, h]

theorem Gang.place_regrouped (x : Gang) (c : List Nat) : x.Regrouped (x.place c) := by
  unfold Gang.place Gang.Regrouped
  split <;> rfl

theorem Gang.placeAll_regrouped (cs : List (List Nat)) (x : Gang) : x.Regrouped (cs.foldl Gang.place x) := by
  induction cs generalizing x with
  | nil => exact Gang.Regrouped.refl x
  | cons c r ih => exact (x.place_regrouped c).trans (ih _)

theorem Gang.regroup_regrouped (x : Gang) (e : Nat) : x.Regrouped (x.regroup e) := by
  unfold Gang.regroup
  split
  · split
    · rfl
    · rename_i c r _
      have h : x.Regrouped { x with split := x.split.set e (setOfSlices c) } := rfl
      exact h.trans (Gang.placeAll_regrouped _ _)
  · rfl

theorem Gang.mapSlices_slice (x : Gang) (g : SliceSet) (f : Nat → Slice → Slice) (n : Nat) (hn : n < 8) :
    (x.mapSlices g f).slice n = if g.getLsbD n && x.live n then f n (x.slice n) else x.slice n := by
  simp [Gang.mapSlices, Gang.slice, List.getD, hn]

/-- A gang that moves on: its slices of the group change by `f`, and nothing else but how slices form groups. -/
theorem Gang.moved_slice (x : Gang) (e : Nat) (g : SliceSet) (f : Nat → Slice → Slice) (n : Nat) (hn : n < 8) :
    (x.moved e g f).slice n = if g.getLsbD n && x.live n then f n (x.slice n) else x.slice n := by
  unfold Gang.moved
  have h := ((x.setGroup e default).mapSlices g f).regroup_regrouped e
  have hs : (((x.setGroup e default).mapSlices g f).regroup e).slices
      = ((x.setGroup e default).mapSlices g f).slices := by rw [h]
  have := (x.setGroup e default).mapSlices_slice g f n hn
  unfold Gang.slice at this ⊢
  rw [hs]
  exact this

theorem Gang.moved_rest (x : Gang) (e : Nat) (g : SliceSet) (f : Nat → Slice → Slice) :
    x.moved e g f =
      { x with
        slices := (x.moved e g f).slices
        split := (x.moved e g f).split
        single := (x.moved e g f).single
        groups := (x.moved e g f).groups } := by
  unfold Gang.moved
  have h := ((x.setGroup e default).mapSlices g f).regroup_regrouped e
  unfold Gang.Regrouped at h
  generalize hz : ((x.setGroup e default).mapSlices g f).regroup e = z at h ⊢
  rw [h]
  rfl

@[simp] theorem Gang.moved_gid (x : Gang) (e : Nat) (g : SliceSet) (f : Nat → Slice → Slice) :
    (x.moved e g f).gid = x.gid := by rw [Gang.moved_rest]

@[simp] theorem Gang.moved_latency (x : Gang) (e : Nat) (g : SliceSet) (f : Nat → Slice → Slice) :
    (x.moved e g f).latency = x.latency := by rw [Gang.moved_rest]

@[simp] theorem Gang.moved_rx (x : Gang) (e : Nat) (g : SliceSet) (f : Nat → Slice → Slice) :
    (x.moved e g f).rx = x.rx := by rw [Gang.moved_rest]

/-! Issue. -/

theorem State.view?_eq {s : State} {v : View} (h : s.view? = some v) : s.me? = some v.gang ∧ v.cur = s.cur := by
  unfold State.view? at h
  split at h
  · cases h
  · rename_i x hx
    have := Option.some.inj h
    subst this
    exact ⟨hx, rfl⟩

/-- A sequence that passes its checks has its own effect, in the state `issued` names. -/
theorem issue_of_issues {s : State} {i : Instr} {v : View} {rx : Bool} (h : s.Issues i v rx)
    (k : View → Shape → State → State) :
    issue i s k = .next (k v (shape i v.mode v.cur.lit.isSome) (s.issued v i rx)) := by
  obtain ⟨h1, h2⟩ := h
  simp [issue, issueChecked, State.issueWith, h1, h2, State.issued]

/-- The same of an instruction that states checks of its own: its effect is given what the sequence does once they
are passed. -/
theorem issueChecked_of_issues {s : State} {i : Instr} {v : View} {rx : Bool} (h : s.Issues i v rx)
    (k : View → Shape → State → (State → State) → State) :
    issueChecked i s k = .next (k v (shape i v.mode v.cur.lit.isSome) s fun t => t.issued v i rx) := by
  obtain ⟨h1, h2⟩ := h
  simp [issueChecked, State.issueWith, h1, h2, State.issued]

/-- What `issued` leaves: the gang, but for GSTAT.RX, and everything else but the rows of the undo log. -/
theorem State.issued_spec {s : State} {v : View} (i : Instr) (rx : Bool) (h : s.view? = some v) :
    s.OnlyGang (s.issued v i rx) s.cur.gang ∧ (s.issued v i rx).agenda = s.agenda ∧
      (s.issued v i rx).cur = s.cur ∧
      (s.issued v i rx).gang? s.cur.gang = some { v.gang with rx := v.gang.rx || rx } := by
  obtain ⟨hx, hcur⟩ := State.view?_eq h
  unfold State.me? at hx
  have hg := State.gang?_gid hx
  cases rx
  · refine ⟨State.onlyGang_logRows _ _ _ _, by simp [State.issued, State.takesEffect], by simp [State.issued, State.takesEffect], ?_⟩
    simp [State.issued, State.takesEffect, hx]
  · simp only [State.issued, State.takesEffect, hcur, State.updGang_some hx, if_true]
    refine ⟨(State.onlyGang_setGang hx ?_).trans (State.onlyGang_logRows _ _ _ _), by simp, by simp, ?_⟩
    · exact hg
    · simp only [State.gang?_logRows]
      have hy := State.gang?_setGang_same s s.cur.gang { v.gang with rx := true } hg
      simpa using hy

/-- `retire` in a state whose present gang is resident. -/
theorem State.retire_eq {s : State} {x : Gang} (h : s.gang? s.cur.gang = some x) :
    s.retire = s.setGang s.cur.gang (x.moved s.cur.entry s.cur.slices
      (fun _ sl => { sl.completed s.cur.addr s.cur.next with stop := .running })) := by
  simp [State.retire, State.moved, State.updGang_some h]

/-- A sequence that leaves results and completes: all that `result` and `retire` do. -/
theorem State.delivers {s : State} {i : Instr} {v : View} {rx : Bool} (h : s.Issues i v rx)
    (ws : List (Nat × Word)) (ps : List (Nat × LaneSet × LaneSet)) :
    s.Delivers (((s.issued v i rx).result v (shape i v.mode v.cur.lit.isSome) ws ps).retire) v
      (shape i v.mode v.cur.lit.isSome) rx ws ps := by
  obtain ⟨h1, _⟩ := h
  obtain ⟨hf, ha, hc, hg⟩ := State.issued_spec i rx h1
  obtain ⟨_, hcur⟩ := State.view?_eq h1
  have hd : ∀ d, (s.issued v i rx).die d = s.die d := fun d => by
    rw [hf.rest]
    rfl
  generalize s.issued v i rx = t at hf ha hc hg hd
  generalize shape i v.mode v.cur.lit.isSome = sh
  have hid : v.gang.gid = s.cur.gang.gid := by
    have := State.gang?_gid hg
    exact this
  by_cases he : ws = [] ∧ ps = []
  · have hr : t.result v sh ws ps = t := by simp [State.result, he]
    rw [hr]
    have hg' : t.gang? t.cur.gang = some { v.gang with rx := v.gang.rx || rx } := by rw [hc]; exact hg
    rw [State.retire_eq hg', hc]
    refine ⟨hf.trans (State.onlyGang_setGang hg (by simpa using hid)), ⟨_, State.gang?_setGang_same _ _ _ (by simpa using hid), ?_⟩, ?_⟩
    · refine ⟨fun n hn => ?_, ?_, ?_, ?_⟩
      · rw [Gang.moved_slice _ _ _ _ _ hn, hcur]; rfl
      · simp [State.marks, he]
      · simp
      · rw [Gang.moved_rest]
    · simp [he, ha]
  · obtain ⟨y, hy⟩ : ∃ y : Gang, y = { v.gang with
        rx := v.gang.rx || rx
        latency := v.gang.latency ++ s.marks v sh ws ps } := ⟨_, rfl⟩
    have hyid : y.gid = s.cur.gang.gid := by rw [hy]; exact hid
    have hr : t.result v sh ws ps = (t.setGang s.cur.gang y).post (.resultWrite s.cur.gang v.gang.seqs) := by
      simp only [State.result, if_neg he, hcur, State.updGang_some hg, hy, State.marks, hd]
    rw [hr]
    have hO : s.OnlyGang ((t.setGang s.cur.gang y).post (.resultWrite s.cur.gang v.gang.seqs)) s.cur.gang :=
      hf.trans ((State.onlyGang_setGang hg hyid).trans (State.onlyGang_post _ _ _))
    have h3 : ((t.setGang s.cur.gang y).post (.resultWrite s.cur.gang v.gang.seqs)).gang? s.cur.gang = some y :=
      State.gang?_setGang_same t s.cur.gang y hyid
    rw [State.retire_eq (x := y) (by rw [State.post_cur, State.setGang_cur, hc]; exact h3)]
    simp only [State.post_cur, State.setGang_cur, hc]
    refine ⟨hO.trans (State.onlyGang_setGang h3 (by simpa using hyid)),
      ⟨_, State.gang?_setGang_same _ _ _ (by simpa using hyid), ?_⟩, ?_⟩
    · refine ⟨fun n hn => ?_, ?_, ?_, ?_⟩
      · rw [Gang.moved_slice _ _ _ _ _ hn, hcur, hy]; rfl
      · simp [hy]
      · simp [hy]
      · rw [Gang.moved_rest, hy]
    · simp [he, ha, State.post]

/-- `moved` in the state where a sequence has issued. -/
theorem State.moves {s : State} {i : Instr} {v : View} {rx : Bool} (h : s.Issues i v rx) (f : Nat → Slice → Slice) :
    s.Moves ((s.issued v i rx).moved f) v rx f := by
  obtain ⟨h1, _⟩ := h
  obtain ⟨hf, ha, hc, hg⟩ := State.issued_spec i rx h1
  obtain ⟨_, hcur⟩ := State.view?_eq h1
  generalize s.issued v i rx = t at hf ha hc hg
  have hid : v.gang.gid = s.cur.gang.gid := by
    have := State.gang?_gid hg
    exact this
  have hr : t.moved f = t.setGang s.cur.gang
      (({ v.gang with rx := v.gang.rx || rx } : Gang).moved s.cur.entry s.cur.slices f) := by
    simp only [State.moved, hc, State.updGang_some hg]
  rw [hr]
  refine ⟨hf.trans (State.onlyGang_setGang hg (by simpa using hid)),
    ⟨_, State.gang?_setGang_same _ _ _ (by simpa using hid), ?_⟩, ha⟩
  refine ⟨fun n hn => ?_, ?_, ?_⟩
  · rw [Gang.moved_slice _ _ _ _ _ hn, hcur]; rfl
  · simp
  · rw [Gang.moved_rest]

/-- Completing without a transfer is `advance` in every slice of the group. -/
theorem State.issued_retire {s : State} {i : Instr} {v : View} {rx : Bool} (h : s.Issues i v rx) :
    (s.issued v i rx).retire = (s.issued v i rx).moved (fun _ => advance v) := by
  have e := (State.view?_eq h.1).2
  have e2 := (State.issued_spec i rx h.1).2.2.1
  unfold State.retire advance
  rw [e2, e]

end Sys2Proof.Machine
end

