-- ==== Sys2Proof/Laws/Memory.lean ====
section
/-! SUPPORT. The laws of module memory: what each operation on it writes, and that all of them keep its one canonical
form. -/

namespace Sys2Proof

set_option Elab.async false

/-- Bytes written in two parts. -/
theorem Cells.write_append (m : Cells Byte) (a : Nat) (xs ys : List Byte) :
    Cells.write m a (xs ++ ys) = Cells.write (Cells.write m a xs) (a + xs.length) ys := by
  induction xs generalizing m a with
  | nil => rfl
  | cons b r ih =>
    simp only [List.cons_append, Cells.write, List.length_cons]
    rw [ih]
    congr 1
    omega

end Sys2Proof

namespace Sys2Proof.Machine

set_option Elab.async false

@[simp] theorem State.wr_mem (s : State) (pa n v : Nat) : (s.wr pa n v).mem = Cells.write s.mem pa (bytesOf v n) := rfl

/-- From `s` to `t` only cached copies and lease predictors have changed. -/
def State.CopiesOnly (s t : State) : Prop := t = { s with copies := t.copies, predictor := t.predictor }

theorem State.CopiesOnly.refl (s : State) : s.CopiesOnly s := rfl

theorem State.CopiesOnly.trans {s t u : State} (h : s.CopiesOnly t) (k : t.CopiesOnly u) : s.CopiesOnly u := by
  unfold State.CopiesOnly at *
  rw [k, h]

theorem State.CopiesOnly.mem {s t : State} (h : s.CopiesOnly t) : t.mem = s.mem := by
  unfold State.CopiesOnly at h
  rw [h]

theorem State.CopiesOnly.lineVer {s t : State} (h : s.CopiesOnly t) : t.lineVer = s.lineVer := by
  unfold State.CopiesOnly at h
  rw [h]

theorem State.copiesOnly_of (s : State) (cs : List Copy) : s.CopiesOnly { s with copies := cs } := rfl

/-- From `s` to `t` only cached copies, the versions and lease predictors of lines and the watch entries of gangs have
changed: what writing dirty copies back does. -/
def State.BackOnly (s t : State) : Prop :=
  t = { s with copies := t.copies, predictor := t.predictor, lineVer := t.lineVer, cores := t.cores }

theorem State.BackOnly.trans {s t u : State} (h : s.BackOnly t) (k : t.BackOnly u) : s.BackOnly u := by
  unfold State.BackOnly at *
  rw [k, h]

theorem State.writeBackOne_backOnly (s : State) (c : Copy) : s.BackOnly (s.writeBackOne c) := by
  unfold State.writeBackOne
  dsimp only
  split <;> rfl

theorem State.writeBack_backOnly (s : State) (p : Copy → Bool) : s.BackOnly (s.writeBack p) := by
  unfold State.writeBack
  generalize s.copies.filter _ = cs
  induction cs generalizing s with
  | nil => rfl
  | cons c r ih => exact (s.writeBackOne_backOnly c).trans (ih _)

@[simp] theorem State.writeBack_mem (s : State) (p : Copy → Bool) : (s.writeBack p).mem = s.mem := by
  rw [s.writeBack_backOnly p]
@[simp] theorem State.writeBack_started (s : State) (p : Copy → Bool) : (s.writeBack p).started = s.started := by
  rw [s.writeBack_backOnly p]
@[simp] theorem State.writeBack_mstab (s : State) (p : Copy → Bool) : (s.writeBack p).mstab = s.mstab := by
  rw [s.writeBack_backOnly p]

@[simp] theorem State.touch_mem (s : State) (l : Nat) : (s.touch l).mem = s.mem := by simp [State.touch]
@[simp] theorem State.dropFrame_mem (s : State) (fr : Nat) : (s.dropFrame fr).mem = s.mem := by
  simp [State.dropFrame, State.dropCopies]
@[simp] theorem State.retag_mem (s : State) (fr tag : Nat) : (s.retag fr tag).mem = s.mem := by
  unfold State.retag
  split <;> simp

theorem State.fill_copiesOnly (s : State) (h : Holder) (l : Nat) (vl : List (Nat × Nat)) (v : Word)
    (b : Option (List Byte)) (e : Nat) : s.CopiesOnly (s.fill h l vl v b e) := rfl

theorem State.growLease_copiesOnly (s : State) (l : Nat) : s.CopiesOnly (s.growLease l) := rfl

/-- What `CopiesOnly` holds of either branch it holds of the choice. -/
theorem State.copiesOnly_ite {s t u : State} (p : Prop) [Decidable p] (h : s.CopiesOnly t) (k : s.CopiesOnly u) :
    s.CopiesOnly (if p then t else u) := by
  split <;> assumption

/-- A fill changes only copies and lease predictors. -/
theorem State.fillHome_copiesOnly (s : State) (core coh l : Nat) (vls : List (Nat × Nat)) :
    s.CopiesOnly (s.fillHome core coh l vls) := by
  have hf : ∀ (u : State) h v b e, s.CopiesOnly u → s.CopiesOnly (u.fill h l vls v b e) :=
    fun u h v b e hu => hu.trans (State.fill_copiesOnly u h l vls v b e)
  have h0 := State.CopiesOnly.refl s
  have home : ∀ (u : State) (q : Prop) [Decidable q] h v e, s.CopiesOnly u →
      s.CopiesOnly (if q then u.fill h l vls v none e else u) :=
    fun u q _ h v e hu => State.copiesOnly_ite q (hf _ _ _ _ _ hu) hu
  unfold State.fillHome
  dsimp only
  refine State.copiesOnly_ite _ (home _ _ _ _ _ (hf _ _ _ _ _ (hf _ _ _ _ _ h0))) (State.copiesOnly_ite _ ?_ h0)
  have h2 := home _ (inModule (l * 128) = true) (.stacked (homeDie (l * 128))) (s.version (lineOf (s.now (l * 128)))) 0
    (State.copiesOnly_ite (homeDie (l * 128) = dieOf core) (hf _ (.l1 core) (s.version (lineOf (s.now (l * 128))))
      (some (Cells.bytes s.mem (lineOf (s.now (l * 128)) * 128) 128))
      ((s.die (dieOf core)).cyc + s.leaseLen (lineOf (s.now (l * 128))) - 64) h0)
      (hf _ (.l2 (dieOf core)) (s.version (lineOf (s.now (l * 128))))
      (some (Cells.bytes s.mem (lineOf (s.now (l * 128)) * 128) 128))
      ((s.die (dieOf core)).cyc + s.leaseLen (lineOf (s.now (l * 128))) - 64) (hf _ (.l1 core) (s.version (lineOf (s.now (l * 128))))
      (some (Cells.bytes s.mem (lineOf (s.now (l * 128)) * 128) 128))
      ((s.die (dieOf core)).cyc + s.leaseLen (lineOf (s.now (l * 128))) - 64) h0)))
  exact State.copiesOnly_ite _ (h2.trans (State.growLease_copiesOnly _ _)) h2

/-- What a write does to copies changes neither memory nor versions. -/
theorem State.writeCopies_copiesOnly (s : State) (core : Option Nat) (coh pa : Nat) (bs : List Byte)
    (priv : Option Nat) (vl : Nat × Nat) : s.CopiesOnly (s.writeCopies core coh pa bs priv vl) := by
  unfold State.writeCopies
  dsimp only
  generalize (List.filter _ s.copies).map _ = cs
  have h1 := State.copiesOnly_of s cs
  split
  · exact h1
  · exact State.copiesOnly_ite _ ((h1.trans (State.fillHome_copiesOnly _ _ _ _ _)).trans (State.copiesOnly_of _ _)) h1

@[simp] theorem State.writeCopies_mem (s : State) (core : Option Nat) (coh pa : Nat) (bs : List Byte)
    (priv : Option Nat) (vl : Nat × Nat) : (s.writeCopies core coh pa bs priv vl).mem = s.mem := by
  exact (s.writeCopies_copiesOnly core coh pa bs priv vl).mem

@[simp] theorem State.writeCopies_lineVer (s : State) (core : Option Nat) (coh pa : Nat) (bs : List Byte)
    (priv : Option Nat) (vl : Nat × Nat) : (s.writeCopies core coh pa bs priv vl).lineVer = s.lineVer := by
  exact (s.writeCopies_copiesOnly core coh pa bs priv vl).lineVer

/-- What a write performed at its home does to memory: exactly its bytes, but for read-only bits (R8, R336). -/
theorem State.writeHome_mem (s : State) (who : Option (GangRef × Nat)) (core : Option Nat) (n coh pa : Nat)
    (bs : List Byte) : (s.writeHome who core n coh pa bs).mem = Cells.write s.mem pa (s.written pa bs) := by
  unfold State.writeHome
  split
  · rename_i h; rw [h]; rfl
  · cases who with
    | none => simp
    | some w => simp

/-- The lines whose dirty copies a write at the home has written back first (R239). -/
def State.backed (s : State) (core : Option Nat) (coh pa : Nat) : State :=
  s.writeBack fun c => decide (c.line = lineOf pa) && !(decide (coh = 0) && core.any (fun k => decide (c.holder = .l1 k)))

/-- A write performed at its home advances its line's version by 1, and no other, once dirty copies of the line are
written back (R239). -/
theorem State.writeHome_version (s : State) (who : Option (GangRef × Nat)) (core : Option Nat) (n coh pa : Nat)
    (bs : List Byte) (h : bs ≠ []) :
    (s.writeHome who core n coh pa bs).lineVer =
      Cells.put 0 (s.backed core coh pa).lineVer (lineOf pa) ((s.backed core coh pa).version (lineOf pa) + 1) := by
  unfold State.writeHome State.backed
  rw [if_neg h]
  cases who with
  | none => simp
  | some w => simp

@[simp] theorem State.logLine_mem (s : State) (n l : Nat) : (s.logLine n l).mem = s.mem := by
  unfold State.logLine
  dsimp only
  split <;> rfl

@[simp] theorem State.logLine_written (s : State) (n l pa : Nat) (bs : List Byte) :
    (s.logLine n l).written pa bs = s.written pa bs := by
  unfold State.logLine
  dsimp only
  split <;> rfl

theorem State.write_mem (s : State) (who : Option (GangRef × Nat)) (core : Option Nat) (n coh pa : Nat)
    (bs : List Byte) : (s.write who core n coh pa bs).mem = Cells.write s.mem pa (s.written pa bs) := by
  unfold State.write
  split
  · rename_i h; rw [h]; rfl
  · rw [State.writeHome_mem, State.logLine_mem, State.logLine_written]

/-- The pieces of a run, written one after another, are the run. -/
theorem pieces_write (f : Nat) (pa : Nat) (bs : List Byte) (h : bs.length ≤ f) (m : Cells Byte) :
    (linePieces f pa bs).foldl (fun m p => Cells.write m p.1 p.2) m = Cells.write m pa bs := by
  induction f generalizing pa bs m with
  | zero =>
    have : bs = [] := List.eq_nil_of_length_eq_zero (by omega)
    subst this
    rfl
  | succ f ih =>
    cases bs with
    | nil => rfl
    | cons b r =>
      simp only [linePieces, List.foldl_cons]
      have hn : 0 < 128 - pa % 128 := by omega
      generalize 128 - pa % 128 = n at hn
      rw [ih]
      · conv => rhs; rw [← List.take_append_drop n (b :: r), Cells.write_append]
        by_cases hl : n ≤ (b :: r).length
        · rw [List.length_take, Nat.min_eq_left hl]
        · rw [List.drop_eq_nil_of_le (by omega)]
          rfl
      · rw [List.length_drop]
        simp only [List.length_cons] at h ⊢
        omega

/-! The canonical form is kept by every operation on module memory. -/

theorem State.wr_wf {s : State} (h : Memory.wf s.mem = true) (pa n v : Nat) : Memory.wf (s.wr pa n v).mem = true :=
  Cells.write_wf h _ _

theorem State.write_wf {s : State} (h : Memory.wf s.mem = true) (who : Option (GangRef × Nat)) (core : Option Nat)
    (n coh pa : Nat) (bs : List Byte) : Memory.wf (s.write who core n coh pa bs).mem = true := by
  rw [State.write_mem]; exact Cells.write_wf h _ _

theorem State.writeRun_wf {s : State} (h : Memory.wf s.mem = true) (who : Option (GangRef × Nat)) (core : Option Nat)
    (n coh pa : Nat) (bs : List Byte) : Memory.wf (s.writeRun who core n coh pa bs).mem = true := by
  unfold State.writeRun
  generalize linePieces _ _ _ = ps
  induction ps generalizing s with
  | nil => exact h
  | cons p r ih => exact ih (State.write_wf h _ _ _ _ _ _)

theorem State.copyFrame_wf {s : State} (h : Memory.wf s.mem = true) (a b : Nat) (v : Bool) :
    Memory.wf (s.copyFrame a b v).mem = true := by
  simp only [State.copyFrame]
  generalize Cells.bytes s.mem (a * 4096) 4096 = bs
  exact Cells.write_wf h _ _

theorem State.giveFrame_wf {s : State} (h : Memory.wf s.mem = true) (n fr : Nat) :
    Memory.wf (s.giveFrame n fr).mem = true := by
  unfold State.giveFrame State.setCtx
  exact State.wr_wf (State.wr_wf h _ _ _) _ _ _

theorem State.givePool_wf {s : State} (h : Memory.wf s.mem = true) (d fr : Nat) :
    Memory.wf (s.givePool d fr).mem = true := State.wr_wf h _ _ _

theorem State.putFrame_wf {s : State} (h : Memory.wf s.mem = true) (fr : Nat) (bs : List Byte) :
    Memory.wf (s.putFrame fr bs).mem = true := by
  unfold State.putFrame
  simp only [State.dropFrame_mem]
  exact Cells.write_wf h _ _

theorem State.dropPrivate_wf {s : State} (h : Memory.wf s.mem = true) (core t : Nat) (drop : Bool) :
    Memory.wf (s.dropPrivate core t drop).mem = true := by
  have hk : ∀ (cs : List Copy) (m : Cells Byte), Memory.wf m = true →
      Memory.wf (cs.foldl (fun m c => match c.privateHome with
        | some p => Cells.write m (c.line * 128) p.2
        | none => m) m) = true := by
    intro cs
    induction cs with
    | nil => intro m hm; exact hm
    | cons c r ih =>
      intro m hm
      simp only [List.foldl_cons]
      apply ih
      split
      · exact Cells.write_wf hm _ _
      · exact hm
  unfold State.dropPrivate
  exact hk _ _ (by rw [State.writeBack_mem]; exact h)

theorem State.takeFrame_wf {s t : State} {n fr : Nat} (h : Memory.wf s.mem = true)
    (e : s.takeFrame n = some (fr, t)) : Memory.wf t.mem = true := by
  unfold State.takeFrame at e
  dsimp only at e
  split at e
  · cases e
  · injection e with e
    injection e with _ e
    rw [← e]
    have hc : Memory.wf (s.setCtx n 0x18 4 (s.ctx n 0x18 4 - 1)).mem = true := State.wr_wf h _ _ _
    split
    · rw [State.retag_mem]; exact hc
    · exact hc

theorem State.unmapShared_wf {s : State} (h : Memory.wf s.mem = true) (fr n page : Nat) :
    Memory.wf (s.unmapShared fr n page).mem = true := by
  unfold State.unmapShared
  dsimp only
  split
  · exact h
  · split
    · exact State.givePool_wf (s := s.setDie _ _) h _ _
    · exact h

@[simp] theorem State.strike_mem (s : State) (n : Nat) (p : Nat → Bool) : (s.strike n p).mem = s.mem := rfl
@[simp] theorem State.dropPage_mem (s : State) (n p : Nat) : (s.dropPage n p).mem = s.mem := rfl
@[simp] theorem State.shiftAccesses_mem (s : State) (n g b : Nat) : (s.shiftAccesses n g b).mem = s.mem := rfl

theorem State.putBytes_wf {s : State} (h : Memory.wf s.mem = true) (pa : Nat) (bs : List Byte) :
    Memory.wf (s.putBytes pa bs).mem = true := by
  have hk : ∀ (ls : List Nat) (t : State), Memory.wf t.mem = true → Memory.wf (ls.foldl State.touch t).mem = true := by
    intro ls
    induction ls with
    | nil => intro t ht; exact ht
    | cons l r ih => intro t ht; exact ih _ (by rw [State.touch_mem]; exact ht)
  exact Cells.write_wf (hk _ _ h) _ _

theorem State.cowBreak_wf {s t : State} {n va p q : Nat} {e c : DWord} (h : Memory.wf s.mem = true)
    (ht : s.cowBreak n va p q e c = some t) : Memory.wf t.mem = true := by
  unfold State.cowBreak at ht
  dsimp only at ht
  split at ht
  · cases ht
  · rename_i fr s1 hs
    have h1 : Memory.wf s1.mem = true := by
      split at hs
      · exact State.takeFrame_wf h hs
      · injection hs with hs
        injection hs with _ hs
        rw [← hs]; exact h
    injection ht with ht
    rw [← ht]
    have h2 : ∀ (u : State) (k : Nat → Bool) (a v : Nat), Memory.wf u.mem = true →
        Memory.wf ((((u.strike n k).dropPage n (va / 4096)).wr a 8 v).shiftAccesses n (va / 256) (fr * 4096)).mem
          = true := by
      intro u k a v hu
      rw [State.shiftAccesses_mem]
      apply State.wr_wf
      rw [State.dropPage_mem, State.strike_mem]
      exact hu
    split
    · unfold State.convertPage
      apply State.unmapShared_wf
      apply State.wr_wf
      apply State.wr_wf
      exact h2 _ _ _ _ (State.putBytes_wf h1 _ _)
    · exact h2 _ _ _ _ (State.putBytes_wf h1 _ _)

/-- The reset memory lists nothing. -/
theorem State.reset_memory_wf : Memory.wf State.reset.mem = true := rfl

end Sys2Proof.Machine
end

