-- ==== Sys2Proof/Laws/Issue.lean ====
section
/-! SUPPORT. The laws of the issue of accesses: what `issueAccess` does where every request reaches a place, and where an
address is misaligned or outside its aperture. -/

namespace Sys2Proof.Machine

set_option Elab.async false

/-- EA of R131 as a number. -/
theorem effAddr_eq (a : DWord) (off : BitVec 8) (size : Nat) :
    effAddr a off size = BitVec.ofInt 57 (a.toNat + off.toInt * size) := by
  have h1 : BitVec.ofInt 57 (a.toNat : Int) = a.setWidth 57 := by
    rw [BitVec.ofInt_natCast]; exact BitVec.eq_of_toNat_eq (by simp)
  have h2 : BitVec.ofInt 57 off.toInt = off.signExtend 57 := rfl
  have h3 : BitVec.ofInt 57 (size : Int) = BitVec.ofNat 57 size := BitVec.ofInt_natCast ..
  rw [BitVec.ofInt_add, BitVec.ofInt_mul, h1, h2, h3]
  rfl

/-- A filter that keeps nothing, from its members. -/
theorem filter_nil {α : Type} {p : α → Bool} {l : List α} (h : ∀ x ∈ l, p x = false) : l.filter p = [] :=
  List.filter_eq_nil_iff.2 fun x hx => by simp [h x hx]

/-- Where every request is aligned and reaches a place, the sequence takes effect, the accesses set out, and `after`
follows. -/
theorem State.issueAccess_sent {s u : State} {v : View} {i : Instr} {rx : Bool} {size align : Nat} {rs : List LaneReq}
    {os : List Resolved} (after : State → State) (h : s.Reaches v i rx size align rs os u) :
    s.issueAccess (fun t => t.issued v i rx) v size align rs after = after ((u.issued v i rx).sent v size rs os) := by
  obtain ⟨ha, ⟨t, ht, hp, hr⟩, ho, hl⟩ := h
  have h1 : rs.filter (fun r => decide (r.va.toNat % align ≠ 0)) = [] :=
    filter_nil fun x hx => by simp [ha x hx]
  have h2 : rs.filter (fun r => isAperture r.va && (s.aperture v.cur.gang.core t r.va.toNat size).isNone) = [] := by
    refine filter_nil fun x hx => ?_
    cases hb : isAperture x.va
    · rfl
    · obtain ⟨p, hp⟩ := hp x hx hb
      simp [hp]
  have h3 : os.any (fun o => decide (o.out = .ats)) = false := by
    rw [List.any_eq_false]
    intro o hm
    obtain ⟨p, e⟩ := ho o hm
    simp [e]
  unfold State.issueAccess
  simp only [h1, ht, h2, hr, h3, Bool.false_eq_true, if_false]
  rw [if_neg (by rw [Bool.not_eq_true, Bool.not_eq_false']; exact hl), List.find?_eq_none.2 ?_]
  · dsimp only
    rw [filter_nil fun o hm => by obtain ⟨p, e⟩ := ho o hm; simp [e]]
    rfl
  · intro o hm
    obtain ⟨p, e⟩ := ho o hm
    simp [e]

/-- Where an address is misaligned, MISALIGNED is raised with the address of the lowest such lane (R133). -/
theorem State.issueAccess_misaligned {s : State} {v : View} {size align : Nat} {rs : List LaneReq} {b : LaneReq}
    {bad : List LaneReq} (go after : State → State)
    (h : rs.filter (fun r => decide (r.va.toNat % align ≠ 0)) = b :: bad) :
    s.issueAccess go v size align rs after = s.trapNow 0x20 0 (lanesIn (b :: bad)) b.va := by
  unfold State.issueAccess
  simp only [h]

/-- Where an aperture address lies outside its range, OPERAND_BOUNDS is raised (R132). -/
theorem State.issueAccess_bounds {s : State} {v : View} {size align : Nat} {rs : List LaneReq} {b : LaneReq}
    {bad : List LaneReq} {t : Team} (go after : State → State) (ha : ∀ r ∈ rs, r.va.toNat % align = 0)
    (ht : v.core.team? v.gang.team = some t)
    (h : rs.filter (fun r => isAperture r.va && (s.aperture v.cur.gang.core t r.va.toNat size).isNone) = b :: bad) :
    s.issueAccess go v size align rs after = s.trapNow 0x40 0 (lanesIn (b :: bad)) b.va := by
  have h1 : rs.filter (fun r => decide (r.va.toNat % align ≠ 0)) = [] :=
    filter_nil fun x hx => by simp [ha x hx]
  unfold State.issueAccess
  simp only [h1, ht, h]

end Sys2Proof.Machine
end

