-- ==== Sys2Proof/Laws/Claim.lean ====
section
/-! SUPPORT. A claim of an accumulator, and every access that the device makes for it, leaves the present sequence as it
is. -/

namespace Sys2Proof.Machine

set_option Elab.async false

/-- A fold of steps that keep the present sequence keeps it. -/
theorem foldl_cur {α : Type} {f : State → α → State} (h : ∀ s x, (f s x).cur = s.cur) (l : List α) (s : State) :
    (l.foldl f s).cur = s.cur := by
  induction l generalizing s with
  | nil => rfl
  | cons x r ih => rw [List.foldl_cons, ih, h]

@[simp] theorem State.cur_writeBack (s : State) (p : Copy → Bool) : (s.writeBack p).cur = s.cur := by
  rw [s.writeBack_backOnly p]
@[simp] theorem State.cur_touch (s : State) (l : Nat) : (s.touch l).cur = s.cur := by simp [State.touch]
@[simp] theorem State.cur_wr (s : State) (a n v : Nat) : (s.wr a n v).cur = s.cur := by simp [State.wr]
@[simp] theorem State.cur_retag (s : State) (fr tag : Nat) : (s.retag fr tag).cur = s.cur := by
  unfold State.retag
  split <;> simp [State.dropFrame, State.dropCopies]
theorem State.cur_putBytes (s : State) (pa : Nat) (bs : List Byte) : (s.putBytes pa bs).cur = s.cur :=
  foldl_cur (fun t l => t.cur_touch l) _ _
@[simp] theorem State.cur_setDie (s : State) (d : Nat) (x : DieSt) : (s.setDie d x).cur = s.cur := rfl

theorem State.cur_updGang (s : State) (g : GangRef) (f : Gang → Gang) : (s.updGang g f).cur = s.cur := by
  unfold State.updGang; split <;> rfl

theorem State.cur_logLine (s : State) (n l : Nat) : (s.logLine n l).cur = s.cur := by
  unfold State.logLine; dsimp only; split <;> rfl

theorem State.cur_writeHome (s : State) (who : Option (GangRef × Nat)) (core : Option Nat) (n coh pa : Nat)
    (bs : List Byte) : (s.writeHome who core n coh pa bs).cur = s.cur := by
  have h : ∀ (t : State) b p vl, (t.writeCopies core coh pa b p vl).cur = t.cur := by
    intro t b p vl
    have e := t.writeCopies_copiesOnly core coh pa b p vl
    unfold State.CopiesOnly at e
    rw [e]
  unfold State.writeHome
  split
  · rfl
  · cases who with
    | none => exact (h _ _ _ _).trans (State.cur_writeBack _ _)
    | some w =>
      show (State.updGang _ _ _).cur = _
      rw [State.cur_updGang]
      exact (h _ _ _ _).trans (State.cur_writeBack _ _)

theorem State.cur_write (s : State) (who : Option (GangRef × Nat)) (core : Option Nat) (n coh pa : Nat)
    (bs : List Byte) : (s.write who core n coh pa bs).cur = s.cur := by
  unfold State.write
  split
  · rfl
  · rw [State.cur_writeHome, State.cur_logLine]

theorem State.cur_takeFrame {s t : State} {n fr : Nat} (e : s.takeFrame n = some (fr, t)) : t.cur = s.cur := by
  unfold State.takeFrame at e
  dsimp only at e
  split at e
  · cases e
  · injection e with e
    injection e with _ e
    rw [← e]
    split <;> simp [State.setCtx]

theorem State.cur_unmapShared (s : State) (fr n page : Nat) : (s.unmapShared fr n page).cur = s.cur := by
  unfold State.unmapShared
  dsimp only
  split
  · rfl
  · split
    · simp [State.givePool]
    · rfl

theorem State.cur_convertPage (s : State) (n va p q : Nat) (e c : DWord) :
    (s.convertPage n va p q e c).cur = s.cur := by
  unfold State.convertPage
  rw [State.cur_unmapShared]
  simp

theorem State.cur_strike (s : State) (n : Nat) (p : Nat → Bool) : (s.strike n p).cur = s.cur := rfl
theorem State.cur_dropPage (s : State) (n p : Nat) : (s.dropPage n p).cur = s.cur := rfl
theorem State.cur_shiftAccesses (s : State) (n g b : Nat) : (s.shiftAccesses n g b).cur = s.cur := rfl
theorem State.cur_updAcc (s : State) (core k : Nat) (f : Acc → Acc) : (s.updAcc core k f).cur = s.cur := rfl

theorem State.cur_cowBreak {s t : State} {n va p q : Nat} {e c : DWord} (ht : s.cowBreak n va p q e c = some t) :
    t.cur = s.cur := by
  unfold State.cowBreak at ht
  dsimp only at ht
  split at ht
  · cases ht
  · rename_i fr s1 hs
    have h1 : s1.cur = s.cur := by
      split at hs
      · exact State.cur_takeFrame hs
      · injection hs with hs
        injection hs with _ hs
        rw [← hs]
    injection ht with ht
    rw [← ht]
    split
    · rw [State.cur_convertPage, State.cur_shiftAccesses, State.cur_wr, State.cur_dropPage, State.cur_strike,
        State.cur_putBytes, ← h1]
    · rw [State.cur_shiftAccesses, State.cur_wr, State.cur_dropPage, State.cur_strike, State.cur_putBytes, ← h1]

theorem State.cur_walk (s : State) (a : Ask) (va : Nat) : (s.walk a va).2.cur = s.cur := by
  unfold State.walk
  split
  · rfl
  · split
    · split <;> rfl
    · rfl

/-- What holds of the state of either outcome of a translation holds of the choice. -/
theorem snd_ite {P : State → Prop} {x y : Xlat × State} (p : Prop) [Decidable p] (hx : P x.2) (hy : P y.2) :
    P (if p then x else y).2 := by
  split <;> assumption

theorem State.cur_translate (s : State) (a : Ask) (va : Nat) : (s.translate a va).2.cur = s.cur := by
  have h := s.cur_walk a va
  unfold State.translate
  generalize s.walk a va = r at h
  obtain ⟨w, s1⟩ := r
  dsimp only at h ⊢
  let P : State → Prop := fun t => t.cur = s.cur
  have ite {x y : Xlat × State} (p : Prop) [Decidable p] (hx : P x.2) (hy : P y.2) : P (if p then x else y).2 :=
    snd_ite p hx hy
  refine ite _ h (ite _ h (ite _ h (ite _ h (ite _ ?_ h))))
  generalize s1.checkLeaf a w (sharedAddr w.entry w.companion va) = q
  cases q <;> try exact h
  refine ite _ ?_ h
  generalize s1.walkMem a.session va = m
  cases m.addr with
  | none => exact h
  | some q =>
    refine ite _ h (ite _ h (ite _ ?_ (ite _ h (ite _ h h))))
    split
    · exact h
    · exact (State.cur_cowBreak ‹_›).trans h

theorem State.cur_joinFid (s : State) (die n va kind : Nat) (c : BitVec 8) (h : Bool) (x : Accessor) :
    (s.joinFid die n va kind c h x).2.cur = s.cur := by
  unfold State.joinFid
  dsimp only
  split <;> rfl

theorem State.cur_joinDev (s : State) (die n va kind : Nat) (c : BitVec 8) (h : Bool) (u : DevUse) :
    (s.joinDev die n va kind c h u).cur = s.cur := by
  unfold State.joinDev
  exact s.cur_joinFid _ _ _ _ _ _ _

theorem State.cur_joinQueue (s : State) (fr : Nat) : (s.joinQueue fr).cur = s.cur := by
  unfold State.joinQueue; split <;> rfl

theorem State.cur_waitPlace (s : State) (p : Place) : (s.waitPlace p).cur = s.cur := by
  unfold State.waitPlace
  repeat' split
  all_goals first
    | rfl
    | exact State.cur_joinQueue _ _

@[simp] theorem State.cur_setImages (s : State) (n v : Nat) : (s.setImages n v).cur = s.cur := by
  simp [State.setImages, State.setCtx]

theorem State.cur_spanFrom (a : Ask) (f : Nat) (s : State) (va n off : Nat) :
    (State.spanFrom a f s va n off).2.cur = s.cur := by
  induction f generalizing s va n off with
  | zero => rfl
  | succ f ih =>
    unfold State.spanFrom
    split
    · rfl
    · have h := s.cur_translate a va
      generalize s.translate a va = r at h
      obtain ⟨x, s1⟩ := r
      dsimp only at h ⊢
      cases x <;> dsimp only <;> try exact h
      split
      · rw [← h]; exact s1.cur_waitPlace _
      · have k := ih s1 (va + min n (128 - va % 128)) (n - min n (128 - va % 128)) (off + min n (128 - va % 128))
        split
        · rename_i e; rw [e] at k; rw [← h]; exact k
        · rw [← h]; exact k

theorem State.cur_logRows (s : State) (n : Nat) (ks : List Nat) : (s.logRows n ks).cur = s.cur := by simp

theorem State.cur_devWrite (s : State) (core : Option Nat) (log : Bool) (n : Nat) (p : Place) (bs : List Byte) :
    (s.devWrite core log n p bs).cur = s.cur := by
  unfold State.devWrite
  cases p with
  | mem pa coh =>
    dsimp only
    split
    · refine foldl_cur (fun t x => ?_) _ _
      cases core <;> cases log <;> simp only [if_true, Bool.false_eq_true, if_false] <;>
        first | rw [State.cur_write] | rw [State.cur_writeHome]
      all_goals rfl
    · rfl
  | store k off => cases log <;> simp [State.updStore]
  | cspad d off => cases log <;> simp [State.updCspad]
  | host f a => rfl
  | mgmt o => rfl

theorem State.cur_writeSpan (s : State) (core : Option Nat) (log : Bool) (n : Nat) (ps : List (Place × Nat))
    (bs : List Byte) : (s.writeSpan core log n ps bs).cur = s.cur := by
  induction ps generalizing s bs with
  | nil => rfl
  | cons p r ih => obtain ⟨p, k⟩ := p; rw [State.writeSpan, ih, State.cur_devWrite]

theorem State.cur_devRead {s t : State} {die n va k : Nat} {u : DevUse} {bs : List Byte}
    (h : s.devRead die n va k u = .done bs t) : t.cur = s.cur := by
  have e := State.cur_spanFrom (devAsk die n 0) (k / 128 + 2) s va k 0
  unfold State.devRead State.span at h
  split at h
  · rename_i q; rw [q] at e; injection h with _ h; rw [← h]; exact e
  all_goals cases h

theorem State.cur_devStore {s t : State} {die n va : Nat} {bs : List Byte} {log : Bool} {u : DevUse}
    (h : s.devStore die n va bs log u = .done () t) : t.cur = s.cur := by
  have e := State.cur_spanFrom (devAsk die n 1) (bs.length / 128 + 2) s va bs.length 0
  unfold State.devStore State.span at h
  split at h
  · rename_i q
    rw [q] at e
    injection h with _ h
    rw [← h, State.cur_writeSpan]; exact e
  all_goals cases h

theorem State.cur_claimed {s t : State} {n core k : Nat} {a : Acc} (h : s.claimed n core k = .done a t) :
    t.cur = s.cur := by
  unfold State.claimed at h
  dsimp only at h
  split at h
  · injection h with _ h; rw [h]
  · split at h
    · cases h
    · cases h
    · rename_i h1
      split at h
      · injection h with _ h; rw [← h]; exact State.cur_devRead h1
      · split at h
        · cases h
        · cases h
        · rename_i h2
          split at h
          · cases h
          · cases h
          · rename_i h3
            injection h with _ h
            rw [← h, State.cur_setImages]
            exact (State.cur_devStore h3).trans ((State.cur_devRead h2).trans (State.cur_devRead h1))

theorem State.cur_claim {s t : State} {core k n : Nat} (h : s.claim core k n = .ok t) : t.cur = s.cur := by
  unfold State.claim at h
  dsimp only at h
  split at h
  · split at h
    · injection h with h; rw [h]
    · cases h
  · split at h
    · rename_i h1; injection h with h; rw [← h, State.cur_updAcc]; exact State.cur_claimed h1
    · cases h
    · cases h

/-- The checks of R192 on an accumulator leave the present sequence as it is. -/
theorem State.cur_checkAcc {s t : State} {v : View} {tm : Team} {p : MxPlan} (h : s.checkAcc v tm p = .go t) :
    t.cur = s.cur := by
  unfold State.checkAcc at h
  split at h
  · injection h with h; rw [h]
  · split at h
    · cases h
    · cases h
    · cases h
    · rename_i h1
      split at h
      · cases h
      · injection h with h; rw [← h]; exact State.cur_claim h1

/-- The image of an accumulator written to its slot leaves the present sequence as it is. -/
theorem State.cur_spill {s t : State} {core k : Nat} {a : Acc} (h : s.spill core k a = .done () t) : t.cur = s.cur := by
  unfold State.spill at h
  dsimp only at h
  split at h
  · cases h
  · cases h
  · rename_i h1
    split at h
    · cases h
    · cases h
    · rename_i h2
      injection h with _ h
      rw [← h, State.cur_setImages]
      exact (State.cur_devStore h2).trans (State.cur_devStore h1)

end Sys2Proof.Machine
end

