-- ==== Sys2Proof/Laws/Dispatch.lean ====
section
/-! SUPPORT. The dispatch of `exec`, one equation per constructor, so that no proof unfolds its match. -/

namespace Sys2Proof.Machine

set_option Elab.async false

@[simp] theorem exec_nop (s : State) : exec .nop s = execNop s := rfl
@[simp] theorem exec_bra i (s : State) : exec (.bra i) s = execBra i s := rfl
@[simp] theorem exec_bany n p i (s : State) : exec (.bany n p i) s = execBany n p i s := rfl
@[simp] theorem exec_ball n p i (s : State) : exec (.ball n p i) s = execBall n p i s := rfl
@[simp] theorem exec_call i (s : State) : exec (.call i) s = execCall i s := rfl
@[simp] theorem exec_ret a (s : State) : exec (.ret a) s = execRet a s := rfl
@[simp] theorem exec_brr a (s : State) : exec (.brr a) s = execBrr a s := rfl
@[simp] theorem exec_brrL a (s : State) : exec (.brrL a) s = execBrrL a s := rfl
@[simp] theorem exec_ifP n p i (s : State) : exec (.ifP n p i) s = execIfP n p i s := rfl
@[simp] theorem exec_elseP i (s : State) : exec (.elseP i) s = execElseP i s := rfl
@[simp] theorem exec_endif (s : State) : exec .endif s = execEndif s := rfl
@[simp] theorem exec_loop c i (s : State) : exec (.loop c i) s = execLoop c i s := rfl
@[simp] theorem exec_loopr d i (s : State) : exec (.loopr d i) s = execLoopr d i s := rfl
@[simp] theorem exec_lbrk (s : State) : exec .lbrk s = execLbrk s := rfl
@[simp] theorem exec_regang (s : State) : exec .regang s = execRegang s := rfl
@[simp] theorem exec_exit (s : State) : exec .exit s = execExit s := rfl
@[simp] theorem exec_yield (s : State) : exec .yield s = execYield s := rfl
@[simp] theorem exec_mode i (s : State) : exec (.mode i) s = execMode i s := rfl
@[simp] theorem exec_mtype t (s : State) : exec (.mtype t) s = execMtype t s := rfl
@[simp] theorem exec_mrnd r (s : State) : exec (.mrnd r) s = execMrnd r s := rfl
@[simp] theorem exec_mguard g n p (s : State) : exec (.mguard g n p) s = execMguard g n p s := rfl
@[simp] theorem exec_mfs d sr (s : State) : exec (.mfs d sr) s = execMfs d sr s := rfl
@[simp] theorem exec_mts d sr (s : State) : exec (.mts d sr) s = execMts d sr s := rfl
@[simp] theorem exec_trap i (s : State) : exec (.trap i) s = execTrap i s := rfl
@[simp] theorem exec_rti (s : State) : exec .rti s = execRti s := rfl
@[simp] theorem exec_sysKill (s : State) : exec .sysKill s = execSysKill s := rfl
@[simp] theorem exec_sysAbort n (s : State) : exec (.sysAbort n) s = execSysAbort n s := rfl
@[simp] theorem exec_brk i (s : State) : exec (.brk i) s = execBrk i s := rfl
@[simp] theorem exec_pause i (s : State) : exec (.pause i) s = execPause i s := rfl
@[simp] theorem exec_add d a b (s : State) : exec (.add d a b) s = execAdd d a b s := rfl
@[simp] theorem exec_sub d a b (s : State) : exec (.sub d a b) s = execSub d a b s := rfl
@[simp] theorem exec_mul d a b (s : State) : exec (.mul d a b) s = execMul d a b s := rfl
@[simp] theorem exec_mulhi d a b (s : State) : exec (.mulhi d a b) s = execMulhi d a b s := rfl
@[simp] theorem exec_mad d a b (s : State) : exec (.mad d a b) s = execMad d a b s := rfl
@[simp] theorem exec_div d a b (s : State) : exec (.div d a b) s = execDiv d a b s := rfl
@[simp] theorem exec_rem d a b (s : State) : exec (.rem d a b) s = execRem d a b s := rfl
@[simp] theorem exec_neg d a (s : State) : exec (.neg d a) s = execNeg d a s := rfl
@[simp] theorem exec_abs d a (s : State) : exec (.abs d a) s = execAbs d a s := rfl
@[simp] theorem exec_min d a b (s : State) : exec (.min d a b) s = execMin d a b s := rfl
@[simp] theorem exec_max d a b (s : State) : exec (.max d a b) s = execMax d a b s := rfl
@[simp] theorem exec_and d a b (s : State) : exec (.and d a b) s = execAnd d a b s := rfl
@[simp] theorem exec_or d a b (s : State) : exec (.or d a b) s = execOr d a b s := rfl
@[simp] theorem exec_xor d a b (s : State) : exec (.xor d a b) s = execXor d a b s := rfl
@[simp] theorem exec_not d a (s : State) : exec (.not d a) s = execNot d a s := rfl
@[simp] theorem exec_andn d a b (s : State) : exec (.andn d a b) s = execAndn d a b s := rfl
@[simp] theorem exec_shl d a b (s : State) : exec (.shl d a b) s = execShl d a b s := rfl
@[simp] theorem exec_shr d a b (s : State) : exec (.shr d a b) s = execShr d a b s := rfl
@[simp] theorem exec_sar d a b (s : State) : exec (.sar d a b) s = execSar d a b s := rfl
@[simp] theorem exec_rol d a b (s : State) : exec (.rol d a b) s = execRol d a b s := rfl
@[simp] theorem exec_ror d a b (s : State) : exec (.ror d a b) s = execRor d a b s := rfl
@[simp] theorem exec_popc d a (s : State) : exec (.popc d a) s = execPopc d a s := rfl
@[simp] theorem exec_clz d a (s : State) : exec (.clz d a) s = execClz d a s := rfl
@[simp] theorem exec_ctz d a (s : State) : exec (.ctz d a) s = execCtz d a s := rfl
@[simp] theorem exec_brev d a (s : State) : exec (.brev d a) s = execBrev d a s := rfl
@[simp] theorem exec_bfx d a b (s : State) : exec (.bfx d a b) s = execBfx d a b s := rfl
@[simp] theorem exec_bfi d a b (s : State) : exec (.bfi d a b) s = execBfi d a b s := rfl
@[simp] theorem exec_mov d b (s : State) : exec (.mov d b) s = execMov d b s := rfl
@[simp] theorem exec_movi d i (s : State) : exec (.movi d i) s = execMovi d i s := rfl
@[simp] theorem exec_movhi d i (s : State) : exec (.movhi d i) s = execMovhi d i s := rfl
@[simp] theorem exec_addi d i (s : State) : exec (.addi d i) s = execAddi d i s := rfl
@[simp] theorem exec_fadd d a b (s : State) : exec (.fadd d a b) s = execFadd d a b s := rfl
@[simp] theorem exec_fsub d a b (s : State) : exec (.fsub d a b) s = execFsub d a b s := rfl
@[simp] theorem exec_fmul d a b (s : State) : exec (.fmul d a b) s = execFmul d a b s := rfl
@[simp] theorem exec_fma d a b (s : State) : exec (.fma d a b) s = execFma d a b s := rfl
@[simp] theorem exec_fms d a b (s : State) : exec (.fms d a b) s = execFms d a b s := rfl
@[simp] theorem exec_fnma d a b (s : State) : exec (.fnma d a b) s = execFnma d a b s := rfl
@[simp] theorem exec_fmin d a b (s : State) : exec (.fmin d a b) s = execFmin d a b s := rfl
@[simp] theorem exec_fmax d a b (s : State) : exec (.fmax d a b) s = execFmax d a b s := rfl
@[simp] theorem exec_fabs d a (s : State) : exec (.fabs d a) s = execFabs d a s := rfl
@[simp] theorem exec_fneg d a (s : State) : exec (.fneg d a) s = execFneg d a s := rfl
@[simp] theorem exec_fcps d a b (s : State) : exec (.fcps d a b) s = execFcps d a b s := rfl
@[simp] theorem exec_fdiv d a b (s : State) : exec (.fdiv d a b) s = execFdiv d a b s := rfl
@[simp] theorem exec_rcp d a (s : State) : exec (.rcp d a) s = execRcp d a s := rfl
@[simp] theorem exec_rsq d a (s : State) : exec (.rsq d a) s = execRsq d a s := rfl
@[simp] theorem exec_sqrt d a (s : State) : exec (.sqrt d a) s = execSqrt d a s := rfl
@[simp] theorem exec_exp2 d a (s : State) : exec (.exp2 d a) s = execExp2 d a s := rfl
@[simp] theorem exec_log2 d a (s : State) : exec (.log2 d a) s = execLog2 d a s := rfl
@[simp] theorem exec_sinpi d a (s : State) : exec (.sinpi d a) s = execSinpi d a s := rfl
@[simp] theorem exec_cospi d a (s : State) : exec (.cospi d a) s = execCospi d a s := rfl
@[simp] theorem exec_tanh d a (s : State) : exec (.tanh d a) s = execTanh d a s := rfl
@[simp] theorem exec_frnd d a (s : State) : exec (.frnd d a) s = execFrnd d a s := rfl
@[simp] theorem exec_fract d a (s : State) : exec (.fract d a) s = execFract d a s := rfl
@[simp] theorem exec_ldexp d a b (s : State) : exec (.ldexp d a b) s = execLdexp d a b s := rfl
@[simp] theorem exec_fclass d a (s : State) : exec (.fclass d a) s = execFclass d a s := rfl
@[simp] theorem exec_fdot d a b (s : State) : exec (.fdot d a b) s = execFdot d a b s := rfl
@[simp] theorem exec_cvt d a k t (s : State) : exec (.cvt d a k t) s = execCvt d a k t s := rfl
@[simp] theorem exec_cvtfi d a k t (s : State) : exec (.cvtfi d a k t) s = execCvtfi d a k t s := rfl
@[simp] theorem exec_cvtif d a k t (s : State) : exec (.cvtif d a k t) s = execCvtif d a k t s := rfl
@[simp] theorem exec_cvtii d a k t (s : State) : exec (.cvtii d a k t) s = execCvtii d a k t s := rfl
@[simp] theorem exec_pack d a b (s : State) : exec (.pack d a b) s = execPack d a b s := rfl
@[simp] theorem exec_unpk d a h (s : State) : exec (.unpk d a h) s = execUnpk d a h s := rfl
@[simp] theorem exec_cmp any cc p a b (s : State) : exec (.cmp any cc p a b) s = execCmp any cc p a b s := rfl
@[simp] theorem exec_fcmp any cc p a b (s : State) : exec (.fcmp any cc p a b) s = execFcmp any cc p a b s := rfl
@[simp] theorem exec_tst z p a b (s : State) : exec (.tst z p a b) s = execTst z p a b s := rfl
@[simp] theorem exec_sel d a b (s : State) : exec (.sel d a b) s = execSel d a b s := rfl
@[simp] theorem exec_plog f pd pa pb (s : State) : exec (.plog f pd pa pb) s = execPlog f pd pa pb s := rfl
@[simp] theorem exec_pmovGet d (s : State) : exec (.pmovGet d) s = execPmovGet d s := rfl
@[simp] theorem exec_pmovSet a (s : State) : exec (.pmovSet a) s = execPmovSet a s := rfl
@[simp] theorem exec_clamp d a b (s : State) : exec (.clamp d a b) s = execClamp d a b s := rfl
@[simp] theorem exec_fclamp d a b (s : State) : exec (.fclamp d a b) s = execFclamp d a b s := rfl
@[simp] theorem exec_red d a o (s : State) : exec (.red d a o) s = execRed d a o s := rfl
@[simp] theorem exec_fred d a o (s : State) : exec (.fred d a o) s = execFred d a o s := rfl
@[simp] theorem exec_scan d a x o (s : State) : exec (.scan d a x o) s = execScan d a x o s := rfl
@[simp] theorem exec_fscan d a x o (s : State) : exec (.fscan d a x o) s = execFscan d a x o s := rfl
@[simp] theorem exec_vote d n p (s : State) : exec (.vote d n p) s = execVote d n p s := rfl
@[simp] theorem exec_lid d (s : State) : exec (.lid d) s = execLid d s := rfl
@[simp] theorem exec_ld8 d a o (s : State) : exec (.ld8 d a o) s = execLd8 d a o s := rfl
@[simp] theorem exec_ld16 d a o (s : State) : exec (.ld16 d a o) s = execLd16 d a o s := rfl
@[simp] theorem exec_ld32 d a o (s : State) : exec (.ld32 d a o) s = execLd32 d a o s := rfl
@[simp] theorem exec_ld64 d a o (s : State) : exec (.ld64 d a o) s = execLd64 d a o s := rfl
@[simp] theorem exec_ld128 d a o (s : State) : exec (.ld128 d a o) s = execLd128 d a o s := rfl
@[simp] theorem exec_st8 d a o (s : State) : exec (.st8 d a o) s = execSt8 d a o s := rfl
@[simp] theorem exec_st16 d a o (s : State) : exec (.st16 d a o) s = execSt16 d a o s := rfl
@[simp] theorem exec_st32 d a o (s : State) : exec (.st32 d a o) s = execSt32 d a o s := rfl
@[simp] theorem exec_st64 d a o (s : State) : exec (.st64 d a o) s = execSt64 d a o s := rfl
@[simp] theorem exec_st128 d a o (s : State) : exec (.st128 d a o) s = execSt128 d a o s := rfl
@[simp] theorem exec_ldw d a o (s : State) : exec (.ldw d a o) s = execLdw d a o s := rfl
@[simp] theorem exec_chk i (s : State) : exec (.chk i) s = execChk i s := rfl
@[simp] theorem exec_ldl d a o (s : State) : exec (.ldl d a o) s = execLdl d a o s := rfl
@[simp] theorem exec_stl d a o (s : State) : exec (.stl d a o) s = execStl d a o s := rfl
@[simp] theorem exec_pfL1 a o (s : State) : exec (.pfL1 a o) s = execPfL1 a o s := rfl
@[simp] theorem exec_pfL2 a o (s : State) : exec (.pfL2 a o) s = execPfL2 a o s := rfl
@[simp] theorem exec_wb a o (s : State) : exec (.wb a o) s = execWb a o s := rfl
@[simp] theorem exec_inv a o (s : State) : exec (.inv a o) s = execInv a o s := rfl
@[simp] theorem exec_atadd d a b (s : State) : exec (.atadd d a b) s = execAtadd d a b s := rfl
@[simp] theorem exec_atmin d a b (s : State) : exec (.atmin d a b) s = execAtmin d a b s := rfl
@[simp] theorem exec_atmax d a b (s : State) : exec (.atmax d a b) s = execAtmax d a b s := rfl
@[simp] theorem exec_atand d a b (s : State) : exec (.atand d a b) s = execAtand d a b s := rfl
@[simp] theorem exec_ator d a b (s : State) : exec (.ator d a b) s = execAtor d a b s := rfl
@[simp] theorem exec_atxor d a b (s : State) : exec (.atxor d a b) s = execAtxor d a b s := rfl
@[simp] theorem exec_atxchg d a b (s : State) : exec (.atxchg d a b) s = execAtxchg d a b s := rfl
@[simp] theorem exec_atcas d a b (s : State) : exec (.atcas d a b) s = execAtcas d a b s := rfl
@[simp] theorem exec_atqadd d a b (s : State) : exec (.atqadd d a b) s = execAtqadd d a b s := rfl
@[simp] theorem exec_acq d a (s : State) : exec (.acq d a) s = execAcq d a s := rfl
@[simp] theorem exec_rel d a (s : State) : exec (.rel d a) s = execRel d a s := rfl
@[simp] theorem exec_bind d a b (s : State) : exec (.bind d a b) s = execBind d a b s := rfl
@[simp] theorem exec_unbind d a b (s : State) : exec (.unbind d a b) s = execUnbind d a b s := rfl
@[simp] theorem exec_fence scope (s : State) : exec (.fence scope) s = execFence scope s := rfl
@[simp] theorem exec_bar id n (s : State) : exec (.bar id n) s = execBar id n s := rfl
@[simp] theorem exec_barvArrive id n (s : State) : exec (.barvArrive id n) s = execBarvArrive id n s := rfl
@[simp] theorem exec_barvWait id (s : State) : exec (.barvWait id) s = execBarvWait id s := rfl
@[simp] theorem exec_fetake a (s : State) : exec (.fetake a) s = execFetake a s := rfl
@[simp] theorem exec_feput a b (s : State) : exec (.feput a b) s = execFeput a b s := rfl
@[simp] theorem exec_fetest p b (s : State) : exec (.fetest p b) s = execFetest p b s := rfl
@[simp] theorem exec_wshare a b (s : State) : exec (.wshare a b) s = execWshare a b s := rfl
@[simp] theorem exec_acqw a b (s : State) : exec (.acqw a b) s = execAcqw a b s := rfl
@[simp] theorem exec_cbar id (s : State) : exec (.cbar id) s = execCbar id s := rfl
@[simp] theorem exec_cbarArrive id (s : State) : exec (.cbarArrive id) s = execCbarArrive id s := rfl
@[simp] theorem exec_cbarWait id (s : State) : exec (.cbarWait id) s = execCbarWait id s := rfl
@[simp] theorem exec_tld ch t a b (s : State) : exec (.tld ch t a b) s = execTld ch t a b s := rfl
@[simp] theorem exec_tsto ch t a b (s : State) : exec (.tsto ch t a b) s = execTsto ch t a b s := rfl
@[simp] theorem exec_tmma c a b (s : State) : exec (.tmma c a b) s = execTmma c a b s := rfl
@[simp] theorem exec_ttr c a (s : State) : exec (.ttr c a) s = execTtr c a s := rfl
@[simp] theorem exec_tperm c a b (s : State) : exec (.tperm c a b) s = execTperm c a b s := rfl
@[simp] theorem exec_tred c a (s : State) : exec (.tred c a) s = execTred c a s := rfl
@[simp] theorem exec_azero c (s : State) : exec (.azero c) s = execAzero c s := rfl
@[simp] theorem exec_amov d e c col (s : State) : exec (.amov d e c col) s = execAmov d e c col s := rfl
@[simp] theorem exec_amovt t c e (s : State) : exec (.amovt t c e) s = execAmovt t c e s := rfl
@[simp] theorem exec_acvt c f e (s : State) : exec (.acvt c f e) s = execAcvt c f e s := rfl
@[simp] theorem exec_asave c (s : State) : exec (.asave c) s = execAsave c s := rfl
@[simp] theorem exec_arest c (s : State) : exec (.arest c) s = execArest c s := rfl
@[simp] theorem exec_tmvGet d t row (s : State) : exec (.tmvGet d t row) s = execTmvGet d t row s := rfl
@[simp] theorem exec_tmvPut d t row (s : State) : exec (.tmvPut d t row) s = execTmvPut d t row s := rfl
@[simp] theorem exec_tfill t b (s : State) : exec (.tfill t b) s = execTfill t b s := rfl
@[simp] theorem exec_copy d a b (s : State) : exec (.copy d a b) s = execCopy d a b s := rfl
@[simp] theorem exec_copyf ch t a b (s : State) : exec (.copyf ch t a b) s = execCopyf ch t a b s := rfl
@[simp] theorem exec_gath d a b (s : State) : exec (.gath d a b) s = execGath d a b s := rfl
@[simp] theorem exec_scat d a b (s : State) : exec (.scat d a b) s = execScat d a b s := rfl
@[simp] theorem exec_mcast d a b (s : State) : exec (.mcast d a b) s = execMcast d a b s := rfl
@[simp] theorem exec_cfill d a b (s : State) : exec (.cfill d a b) s = execCfill d a b s := rfl
@[simp] theorem exec_wait cls n (s : State) : exec (.wait cls n) s = execWait cls n s := rfl
@[simp] theorem exec_cwp d ch (s : State) : exec (.cwp d ch) s = execCwp d ch s := rfl
@[simp] theorem exec_qcall d r n c (s : State) : exec (.qcall d r n c) s = execQcall d r n c s := rfl
@[simp] theorem exec_qwait d r (s : State) : exec (.qwait d r) s = execQwait d r s := rfl
@[simp] theorem exec_qpoll d c (s : State) : exec (.qpoll d c) s = execQpoll d c s := rfl
@[simp] theorem exec_send d c (s : State) : exec (.send d c) s = execSend d c s := rfl
@[simp] theorem exec_recv d c (s : State) : exec (.recv d c) s = execRecv d c s := rfl
@[simp] theorem exec_chinfo d c (s : State) : exec (.chinfo d c) s = execChinfo d c s := rfl
@[simp] theorem exec_cluPbc a id (s : State) : exec (.cluPbc a id) s = execCluPbc a id s := rfl
@[simp] theorem exec_cluCstat a b (s : State) : exec (.cluCstat a b) s = execCluCstat a b s := rfl
@[simp] theorem exec_xltInv a b (s : State) : exec (.xltInv a b) s = execXltInv a b s := rfl
@[simp] theorem exec_xltProbe a b (s : State) : exec (.xltProbe a b) s = execXltProbe a b s := rfl
@[simp] theorem exec_xltReplay b (s : State) : exec (.xltReplay b) s = execXltReplay b s := rfl
@[simp] theorem exec_xltCancel b (s : State) : exec (.xltCancel b) s = execXltCancel b s := rfl
@[simp] theorem exec_xltFblk a b (s : State) : exec (.xltFblk a b) s = execXltFblk a b s := rfl
@[simp] theorem exec_xltFmove a b (s : State) : exec (.xltFmove a b) s = execXltFmove a b s := rfl
@[simp] theorem exec_xltFunblk a b (s : State) : exec (.xltFunblk a b) s = execXltFunblk a b s := rfl
@[simp] theorem exec_ckpPreg a b (s : State) : exec (.ckpPreg a b) s = execCkpPreg a b s := rfl
@[simp] theorem exec_ckpGreg a b (s : State) : exec (.ckpGreg a b) s = execCkpGreg a b s := rfl
@[simp] theorem exec_ckpUnreg a b (s : State) : exec (.ckpUnreg a b) s = execCkpUnreg a b s := rfl
@[simp] theorem exec_ckpGlaunch a b (s : State) : exec (.ckpGlaunch a b) s = execCkpGlaunch a b s := rfl
@[simp] theorem exec_ckpGstat a b (s : State) : exec (.ckpGstat a b) s = execCkpGstat a b s := rfl
@[simp] theorem exec_ckpTake a b (s : State) : exec (.ckpTake a b) s = execCkpTake a b s := rfl
@[simp] theorem exec_ckpRoll a b (s : State) : exec (.ckpRoll a b) s = execCkpRoll a b s := rfl
@[simp] theorem exec_ckpDrain a b (s : State) : exec (.ckpDrain a b) s = execCkpDrain a b s := rfl
@[simp] theorem exec_ckpRestore a b (s : State) : exec (.ckpRestore a b) s = execCkpRestore a b s := rfl
@[simp] theorem exec_ckpEpnew b (s : State) : exec (.ckpEpnew b) s = execCkpEpnew b s := rfl
@[simp] theorem exec_ckpDeadline a b (s : State) : exec (.ckpDeadline a b) s = execCkpDeadline a b s := rfl
@[simp] theorem exec_ckpBudget a b (s : State) : exec (.ckpBudget a b) s = execCkpBudget a b s := rfl
@[simp] theorem exec_dbgAttach a b (s : State) : exec (.dbgAttach a b) s = execDbgAttach a b s := rfl
@[simp] theorem exec_dbgDetach b (s : State) : exec (.dbgDetach b) s = execDbgDetach b s := rfl
@[simp] theorem exec_dbgWpset w b (s : State) : exec (.dbgWpset w b) s = execDbgWpset w b s := rfl
@[simp] theorem exec_dbgStop b (s : State) : exec (.dbgStop b) s = execDbgStop b s := rfl
@[simp] theorem exec_dbgGo b (s : State) : exec (.dbgGo b) s = execDbgGo b s := rfl
@[simp] theorem exec_dbgStep b (s : State) : exec (.dbgStep b) s = execDbgStep b s := rfl
@[simp] theorem exec_dbgRd a b (s : State) : exec (.dbgRd a b) s = execDbgRd a b s := rfl
@[simp] theorem exec_dbgWr a b (s : State) : exec (.dbgWr a b) s = execDbgWr a b s := rfl
@[simp] theorem exec_dbgWait b (s : State) : exec (.dbgWait b) s = execDbgWait b s := rfl
@[simp] theorem exec_dbgFreeze b (s : State) : exec (.dbgFreeze b) s = execDbgFreeze b s := rfl
@[simp] theorem exec_dbgThaw b (s : State) : exec (.dbgThaw b) s = execDbgThaw b s := rfl
@[simp] theorem exec_dbgWhy a b (s : State) : exec (.dbgWhy a b) s = execDbgWhy a b s := rfl
@[simp] theorem exec_dbgVwpset w b (s : State) : exec (.dbgVwpset w b) s = execDbgVwpset w b s := rfl
@[simp] theorem exec_modgShare a b (s : State) : exec (.modgShare a b) s = execModgShare a b s := rfl
@[simp] theorem exec_modgUnshare a b (s : State) : exec (.modgUnshare a b) s = execModgUnshare a b s := rfl
@[simp] theorem exec_modgFork a b (s : State) : exec (.modgFork a b) s = execModgFork a b s := rfl
@[simp] theorem exec_modgKey a b (s : State) : exec (.modgKey a b) s = execModgKey a b s := rfl
@[simp] theorem exec_modgFassign a b (s : State) : exec (.modgFassign a b) s = execModgFassign a b s := rfl
@[simp] theorem exec_modgMigr a b (s : State) : exec (.modgMigr a b) s = execModgMigr a b s := rfl
@[simp] theorem exec_modgMdone a b (s : State) : exec (.modgMdone a b) s = execModgMdone a b s := rfl
@[simp] theorem exec_modgHeal a b (s : State) : exec (.modgHeal a b) s = execModgHeal a b s := rfl
@[simp] theorem exec_modgSopen a b (s : State) : exec (.modgSopen a b) s = execModgSopen a b s := rfl
@[simp] theorem exec_modgSclose a b (s : State) : exec (.modgSclose a b) s = execModgSclose a b s := rfl
@[simp] theorem exec_pauseExpiry (s : State) : exec .pauseExpiry s = execPauseExpiry s := rfl
@[simp] theorem exec_resultWrite (s : State) : exec .resultWrite s = execResultWrite s := rfl
@[simp] theorem exec_qcallAppend (s : State) : exec .qcallAppend s = execQcallAppend s := rfl
@[simp] theorem exec_sendAppend (s : State) : exec .sendAppend s = execSendAppend s := rfl
@[simp] theorem exec_producerDelivery (s : State) : exec .producerDelivery s = execProducerDelivery s := rfl
@[simp] theorem exec_returnRecord (s : State) : exec .returnRecord s = execReturnRecord s := rfl
@[simp] theorem exec_unitFaultTrap (s : State) : exec .unitFaultTrap s = execUnitFaultTrap s := rfl
@[simp] theorem exec_trapEntry (s : State) : exec .trapEntry s = execTrapEntry s := rfl
@[simp] theorem exec_teamLaunch (s : State) : exec .teamLaunch s = execTeamLaunch s := rfl
@[simp] theorem exec_teamExit (s : State) : exec .teamExit s = execTeamExit s := rfl
@[simp] theorem exec_commandFire (s : State) : exec .commandFire s = execCommandFire s := rfl
@[simp] theorem exec_commandRetire (s : State) : exec .commandRetire s = execCommandRetire s := rfl
@[simp] theorem exec_copyDelivery (s : State) : exec .copyDelivery s = execCopyDelivery s := rfl
@[simp] theorem exec_followOnPush (s : State) : exec .followOnPush s = execFollowOnPush s := rfl
@[simp] theorem exec_mxReset (s : State) : exec .mxReset s = execMxReset s := rfl
@[simp] theorem exec_crewLaunch (s : State) : exec .crewLaunch s = execCrewLaunch s := rfl
@[simp] theorem exec_mcastFillLand (s : State) : exec .mcastFillLand s = execMcastFillLand s := rfl
@[simp] theorem exec_drainSave (s : State) : exec .drainSave s = execDrainSave s := rfl
@[simp] theorem exec_drainDeadline (s : State) : exec .drainDeadline s = execDrainDeadline s := rfl
@[simp] theorem exec_timeSliceEnd (s : State) : exec .timeSliceEnd s = execTimeSliceEnd s := rfl
@[simp] theorem exec_accessAtHome (s : State) : exec .accessAtHome s = execAccessAtHome s := rfl
@[simp] theorem exec_leaseRenewal (s : State) : exec .leaseRenewal s = execLeaseRenewal s := rfl
@[simp] theorem exec_confirmationRequest (s : State) : exec .confirmationRequest s = execConfirmationRequest s := rfl
@[simp] theorem exec_watchConfirm (s : State) : exec .watchConfirm s = execWatchConfirm s := rfl
@[simp] theorem exec_watchStrike (s : State) : exec .watchStrike s = execWatchStrike s := rfl
@[simp] theorem exec_watchTimeout (s : State) : exec .watchTimeout s = execWatchTimeout s := rfl
@[simp] theorem exec_versionReport (s : State) : exec .versionReport s = execVersionReport s := rfl
@[simp] theorem exec_stopRecords (s : State) : exec .stopRecords s = execStopRecords s := rfl
@[simp] theorem exec_stepWindowClose (s : State) : exec .stepWindowClose s = execStepWindowClose s := rfl
@[simp] theorem exec_recordReserve (s : State) : exec .recordReserve s = execRecordReserve s := rfl
@[simp] theorem exec_recordCommit (s : State) : exec .recordCommit s = execRecordCommit s := rfl
@[simp] theorem exec_instanceStart (s : State) : exec .instanceStart s = execInstanceStart s := rfl
@[simp] theorem exec_phaseComplete (s : State) : exec .phaseComplete s = execPhaseComplete s := rfl
@[simp] theorem exec_budgetWindow (s : State) : exec .budgetWindow s = execBudgetWindow s := rfl
@[simp] theorem exec_dieTemperature (s : State) : exec .dieTemperature s = execDieTemperature s := rfl
@[simp] theorem exec_thermtrip (s : State) : exec .thermtrip s = execThermtrip s := rfl
@[simp] theorem exec_cutAttempt (s : State) : exec .cutAttempt s = execCutAttempt s := rfl
@[simp] theorem exec_cut (s : State) : exec .cut s = execCut s := rfl
@[simp] theorem exec_cutWaitExpiry (s : State) : exec .cutWaitExpiry s = execCutWaitExpiry s := rfl
@[simp] theorem exec_cutRetry (s : State) : exec .cutRetry s = execCutRetry s := rfl
@[simp] theorem exec_rollback (s : State) : exec .rollback s = execRollback s := rfl
@[simp] theorem exec_vrOpen (s : State) : exec .vrOpen s = execVrOpen s := rfl
@[simp] theorem exec_vrPrim (s : State) : exec .vrPrim s = execVrPrim s := rfl
@[simp] theorem exec_vrDone (s : State) : exec .vrDone s = execVrDone s := rfl
@[simp] theorem exec_vrWaitf (s : State) : exec .vrWaitf s = execVrWaitf s := rfl
@[simp] theorem exec_vrSlotFinal (s : State) : exec .vrSlotFinal s = execVrSlotFinal s := rfl
@[simp] theorem exec_buOpenf (s : State) : exec .buOpenf s = execBuOpenf s := rfl
@[simp] theorem exec_buBin (s : State) : exec .buBin s = execBuBin s := rfl
@[simp] theorem exec_buClose (s : State) : exec .buClose s = execBuClose s := rfl
@[simp] theorem exec_bluOpen (s : State) : exec .bluOpen s = execBluOpen s := rfl
@[simp] theorem exec_bluFrag (s : State) : exec .bluFrag s = execBluFrag s := rfl
@[simp] theorem exec_bluDone (s : State) : exec .bluDone s = execBluDone s := rfl
@[simp] theorem exec_bluWaitf (s : State) : exec .bluWaitf s = execBluWaitf s := rfl
@[simp] theorem exec_bluCommit (s : State) : exec .bluCommit s = execBluCommit s := rfl
@[simp] theorem exec_tfuSample (s : State) : exec .tfuSample s = execTfuSample s := rfl
@[simp] theorem exec_ryuTrace (s : State) : exec .ryuTrace s = execRyuTrace s := rfl
@[simp] theorem exec_bvoStart (s : State) : exec .bvoStart s = execBvoStart s := rfl
@[simp] theorem exec_bvoStop (s : State) : exec .bvoStop s = execBvoStop s := rfl
@[simp] theorem exec_bvoSubtreeReplace (s : State) : exec .bvoSubtreeReplace s = execBvoSubtreeReplace s := rfl
@[simp] theorem exec_fenOpens (s : State) : exec .fenOpens s = execFenOpens s := rfl
@[simp] theorem exec_fenFrame (s : State) : exec .fenFrame s = execFenFrame s := rfl
@[simp] theorem exec_fenRelease (s : State) : exec .fenRelease s = execFenRelease s := rfl
@[simp] theorem exec_fenCloses (s : State) : exec .fenCloses s = execFenCloses s := rfl
@[simp] theorem exec_unitReset (s : State) : exec .unitReset s = execUnitReset s := rfl
@[simp] theorem exec_faultRecordWrite (s : State) : exec .faultRecordWrite s = execFaultRecordWrite s := rfl
@[simp] theorem exec_gangUnpark (s : State) : exec .gangUnpark s = execGangUnpark s := rfl
@[simp] theorem exec_hang (s : State) : exec .hang s = execHang s := rfl
@[simp] theorem exec_uncorrectableError (s : State) : exec .uncorrectableError s = execUncorrectableError s := rfl
@[simp] theorem exec_correctableError (s : State) : exec .correctableError s = execCorrectableError s := rfl
@[simp] theorem exec_pcmdCommit (s : State) : exec .pcmdCommit s = execPcmdCommit s := rfl
@[simp] theorem exec_pcmdRelease (s : State) : exec .pcmdRelease s = execPcmdRelease s := rfl
@[simp] theorem exec_doorbell (s : State) : exec .doorbell s = execDoorbell s := rfl
@[simp] theorem exec_attcmdGo (s : State) : exec .attcmdGo s = execAttcmdGo s := rfl
@[simp] theorem exec_attestationDone (s : State) : exec .attestationDone s = execAttestationDone s := rfl
@[simp] theorem exec_dbgcmdFreeze (s : State) : exec .dbgcmdFreeze s = execDbgcmdFreeze s := rfl
@[simp] theorem exec_dbgcmdThaw (s : State) : exec .dbgcmdThaw s = execDbgcmdThaw s := rfl
@[simp] theorem exec_dbgdataRead (s : State) : exec .dbgdataRead s = execDbgdataRead s := rfl
@[simp] theorem exec_dbgdataWrite (s : State) : exec .dbgdataWrite s = execDbgdataWrite s := rfl
@[simp] theorem exec_errCounterWrite (s : State) : exec .errCounterWrite s = execErrCounterWrite s := rfl
@[simp] theorem exec_mgmtRegisterWrite (s : State) : exec .mgmtRegisterWrite s = execMgmtRegisterWrite s := rfl
@[simp] theorem exec_priResponse (s : State) : exec .priResponse s = execPriResponse s := rfl
@[simp] theorem exec_atsTranslationResponse (s : State) : exec .atsTranslationResponse s = execAtsTranslationResponse s := rfl
@[simp] theorem exec_atsInvalidation (s : State) : exec .atsInvalidation s = execAtsInvalidation s := rfl
@[simp] theorem exec_moduleResetRelease (s : State) : exec .moduleResetRelease s = execModuleResetRelease s := rfl
@[simp] theorem exec_flitCheckFail (s : State) : exec .flitCheckFail s = execFlitCheckFail s := rfl
@[simp] theorem exec_portDown (s : State) : exec .portDown s = execPortDown s := rfl
@[simp] theorem exec_collectiveAllreduce (s : State) : exec .collectiveAllreduce s = execCollectiveAllreduce s := rfl
@[simp] theorem exec_collectiveBroadcast (s : State) : exec .collectiveBroadcast s = execCollectiveBroadcast s := rfl
@[simp] theorem exec_collectiveResult (s : State) : exec .collectiveResult s = execCollectiveResult s := rfl
@[simp] theorem exec_illegalOpcode (s : State) : exec .illegalOpcode s = execIllegalOpcode s := rfl
@[simp] theorem exec_sequenceFetch (s : State) : exec .sequenceFetch s = execSequenceFetch s := rfl
@[simp] theorem exec_hostPostedWrite (s : State) : exec .hostPostedWrite s = execHostPostedWrite s := rfl
@[simp] theorem exec_moduleReset (s : State) : exec .moduleReset s = execModuleReset s := rfl
@[simp] theorem exec_moduleLeavesArmada (s : State) : exec .moduleLeavesArmada s = execModuleLeavesArmada s := rfl
@[simp] theorem exec_portRetrained (s : State) : exec .portRetrained s = execPortRetrained s := rfl
@[simp] theorem exec_routesRecomputed (s : State) : exec .routesRecomputed s = execRoutesRecomputed s := rfl

end Sys2Proof.Machine
end

