-- ==== Sys2Proof/Laws/Num.lean ====
section
/-! SUPPORT. The laws of elements and of lane-wise instructions: what an element of a result is, and what an instruction
that is lane-wise in its meaning does when it issues. -/

namespace Sys2Proof.Machine

set_option Elab.async false

theorem elemWidth_pos (t : Nat) : 0 < elemWidth t := by
  unfold elemWidth; split_ifs <;> omega

theorem elemBits_le (t : Nat) : elemWidth t * elemCount t ≤ 64 := by
  unfold elemWidth elemCount; split_ifs <;> omega

theorem elem_lt (t : Nat) (x : DWord) (k : Nat) : elem t x k < 2 ^ elemWidth t :=
  Nat.mod_lt _ (Nat.two_pow_pos _)

/-- A sum of digits in base 2^w, taken apart. -/
theorem digits_sum (w : Nat) (f : Nat → Nat) (n : Nat) :
    ((List.range n).map (fun i => f i % 2 ^ w * 2 ^ (w * i))).sum < 2 ^ (w * n) ∧
      ∀ k, k < n → ((List.range n).map (fun i => f i % 2 ^ w * 2 ^ (w * i))).sum / 2 ^ (w * k) % 2 ^ w = f k % 2 ^ w := by
  induction n with
  | zero => simp
  | succ n ih =>
    obtain ⟨h1, h2⟩ := ih
    rw [List.range_succ, List.map_append, List.sum_append]
    simp only [List.map_cons, List.map_nil, List.sum_cons, List.sum_nil, Nat.add_zero]
    generalize hS : ((List.range n).map (fun i => f i % 2 ^ w * 2 ^ (w * i))).sum = S at h1 h2 ⊢
    have hw : f n % 2 ^ w < 2 ^ w := Nat.mod_lt _ (Nat.two_pow_pos _)
    generalize hc0 : f n % 2 ^ w = c at hw ⊢
    have hp : 2 ^ (w * (n + 1)) = 2 ^ w * 2 ^ (w * n) := by rw [← Nat.pow_add]; congr 1; ring
    refine ⟨?_, fun k hk => ?_⟩
    · rw [hp]
      have hc : (c + 1) * 2 ^ (w * n) ≤ 2 ^ w * 2 ^ (w * n) := Nat.mul_le_mul_right _ hw
      rw [Nat.add_mul] at hc
      omega
    · by_cases hkn : k = n
      · subst hkn
        rw [Nat.add_mul_div_right _ _ (Nat.two_pow_pos _), Nat.div_eq_of_lt h1, Nat.zero_add, Nat.mod_eq_of_lt hw]
        exact hc0.symm
      · have hlt : k < n := by omega
        rw [← h2 k hlt]
        have he : c * 2 ^ (w * n) = 2 ^ (w * k) * (2 ^ w * (c * 2 ^ (w * (n - k - 1)))) := by
          have : w * n = w * k + w + w * (n - k - 1) := by
            obtain ⟨j, rfl⟩ := Nat.exists_eq_add_of_lt hlt
            have : k + j + 1 - k - 1 = j := by omega
            rw [this]; ring
          rw [this, Nat.pow_add, Nat.pow_add]; ring
        rw [he, Nat.add_mul_div_left _ _ (Nat.two_pow_pos _), Nat.add_mul_mod_self_left]

/-- An element of elements put together. -/
theorem elem_joinElems (t n : Nat) (f : Nat → Nat) (k : Nat) (hk : k < n) (hn : elemWidth t * n ≤ 64) :
    elem t (joinElems (elemWidth t) n f) k = f k % 2 ^ elemWidth t := by
  obtain ⟨h1, h2⟩ := digits_sum (elemWidth t) f n
  have hlt : ((List.range n).map (fun i => f i % 2 ^ elemWidth t * 2 ^ (elemWidth t * i))).sum < 2 ^ 64 :=
    Nat.lt_of_lt_of_le h1 (Nat.pow_le_pow_right (by omega) hn)
  simp only [elem, fieldNat, joinElems, BitVec.toNat_ofNat, Nat.mod_eq_of_lt hlt, Nat.shiftRight_eq_div_pow]
  exact h2 k hk

/-- An element of an operation on elements. -/
theorem elem_onElems (t : Nat) (f : Nat → Nat → Nat → Nat) (a b c : DWord) (k : Nat) (hk : k < elemCount t) :
    elem t (onElems t f a b c) k = f (elem t a k) (elem t b k) (elem t c k) % 2 ^ elemWidth t :=
  elem_joinElems t _ _ k hk (elemBits_le t)

theorem wrapInt_lt (w : Nat) (x : Int) : wrapInt w x < 2 ^ w := by
  unfold wrapInt
  have h : (0 : Int) < ((2 ^ w : Nat) : Int) := by exact_mod_cast Nat.two_pow_pos w
  have h1 := Int.emod_lt_of_pos x h
  have h2 := Int.emod_nonneg x (ne_of_gt h)
  omega

theorem fitInt_lt (sat signed : Bool) (w : Nat) (x : Int) : fitInt sat signed w x < 2 ^ w := wrapInt_lt _ _

/-- An instruction whose meaning is `lanesOp` completes wherever it issues, with what `f` gives as its result. -/
theorem lanesOp_delivers {i : Instr} {d : Reg} {f : ModeWord → DWord → DWord → DWord → DWord} {s : State} {v : View}
    {rx : Bool} (h : s.Issues i v rx) (n : Nat)
    (hn : ∃ t r, (shape i v.mode v.cur.lit.isSome).dst = t :: r ∧ t.words = n) :
    ∃ t, lanesOp i d s f = .next t ∧ s.Delivers t v (shape i v.mode v.cur.lit.isSome) rx (v.laneResults d n (fun l =>
      f v.mode (v.opA (shape i v.mode v.cur.lit.isSome) l) (v.opB (shape i v.mode v.cur.lit.isSome) l)
        (v.opC (shape i v.mode v.cur.lit.isSome) l))) [] := by
  obtain ⟨q, r, hd, hw⟩ := hn
  unfold lanesOp
  rw [issue_of_issues h]
  refine ⟨_, rfl, ?_⟩
  simp only [hd, hw]
  exact State.delivers h _ _

/-- The claim `LaneWise` of an instruction whose meaning is `lanesOp`. -/
theorem laneWise_of {i : Instr} {d : Reg} {n : ModeWord → Nat} {f : ModeWord → DWord → DWord → DWord → DWord}
    {P : ModeWord → DWord → DWord → DWord → DWord → Prop}
    (he : ∀ s, exec i s = lanesOp i d s f)
    (hn : ∀ m l, ∃ t r, (shape i m l).dst = t :: r ∧ t.words = n m)
    (hp : ∀ m l, (shape i m l).typeOk m = true → ∀ a b c, P m a b c (f m a b c)) : LaneWise i d n P := by
  intro s v rx h
  obtain ⟨t, h1, h2⟩ := lanesOp_delivers (d := d) (f := f) h (n v.mode) (hn _ _)
  refine ⟨t, _, (he s).trans h1, h2, fun l => hp v.mode v.cur.lit.isSome ?_ _ _ _⟩
  have hc := h.2
  unfold checkSeq at hc
  split at hc
  · cases hc
  · rename_i hs
    unfold staticCause at hs
    split_ifs at hs with h1 h2 h3 h4
    simpa using h4

end Sys2Proof.Machine
end

