-- ==== Sys2Proof/Laws/PerInstr.lean ====
section
/-! SUPPORT. Each instruction's word decodes to the instruction: one lemma for each format's fields (R62), one for
each row of the table. -/

namespace Sys2Proof.Laws

set_option Elab.async false

/-- The decoder reads an instruction's own word as that instruction, with every operand. -/
def RoundTrip.Statement (i : Instr) : Prop := ∀ w, encode i = some w → decode w = .ok i

/-- A word that selects an instruction whose word it is decodes to it (R64). -/
theorem decode_ok {w : Word} (i : Instr) (h : encode i = some w) (g : decodeFields w = some i) :
    decode w = .ok i := by
  simp [decode, g, h]

/-- Bits of the upper part of a word put together from two. -/
theorem extract_hi {m n : Nat} (x : BitVec m) (y : BitVec n) (k j : Nat) (h : n ≤ k) :
    (x ++ y).extractLsb' k j = x.extractLsb' (k - n) j := by
  ext i hi
  simp only [BitVec.getElem_extractLsb', BitVec.getLsbD_append]
  rw [if_neg (by omega)]
  congr 1; omega

/-- Bits of the lower part. -/
theorem extract_lo {m n : Nat} (x : BitVec m) (y : BitVec n) (k j : Nat) (h : k + j ≤ n) :
    (x ++ y).extractLsb' k j = y.extractLsb' k j := by
  ext i hi
  simp only [BitVec.getElem_extractLsb', BitVec.getLsbD_append]
  rw [if_pos (by omega)]

/-- All bits of a part. -/
theorem extract_all {n : Nat} (x : BitVec n) : x.extractLsb' 0 n = x := by
  ext i hi; simp

theorem fields_8_19_1_1_3 (x0 : BitVec 8) (x1 : BitVec 19) (x2 : BitVec 1) (x3 : BitVec 1) (x4 : BitVec 3) :
    let w : Word := x0 ++ x1 ++ x2 ++ x3 ++ x4
    w.extractLsb' 24 8 = x0 ∧
    w.extractLsb' 5 19 = x1 ∧
    w.extractLsb' 4 1 = x2 ∧
    w.extractLsb' 3 1 = x3 ∧
    w.extractLsb' 0 3 = x4 :=
  ⟨Eq.trans (extract_hi (x0 ++ x1 ++ x2 ++ x3) x4 24 8 (by decide))
      (Eq.trans (extract_hi (x0 ++ x1 ++ x2) x3 21 8 (by decide))
      (Eq.trans (extract_hi (x0 ++ x1) x2 20 8 (by decide))
      (Eq.trans (extract_hi x0 x1 19 8 (by decide))
      ((extract_all x0))))),
    Eq.trans (extract_hi (x0 ++ x1 ++ x2 ++ x3) x4 5 19 (by decide))
      (Eq.trans (extract_hi (x0 ++ x1 ++ x2) x3 2 19 (by decide))
      (Eq.trans (extract_hi (x0 ++ x1) x2 1 19 (by decide))
      (Eq.trans (extract_lo x0 x1 0 19 (by decide))
      ((extract_all x1))))),
    Eq.trans (extract_hi (x0 ++ x1 ++ x2 ++ x3) x4 4 1 (by decide))
      (Eq.trans (extract_hi (x0 ++ x1 ++ x2) x3 1 1 (by decide))
      (Eq.trans (extract_lo (x0 ++ x1) x2 0 1 (by decide))
      ((extract_all x2)))),
    Eq.trans (extract_hi (x0 ++ x1 ++ x2 ++ x3) x4 3 1 (by decide))
      (Eq.trans (extract_lo (x0 ++ x1 ++ x2) x3 0 1 (by decide))
      ((extract_all x3))),
    Eq.trans (extract_lo (x0 ++ x1 ++ x2 ++ x3) x4 0 3 (by decide))
      ((extract_all x4))⟩

theorem fields_8_1_1_3_3_8_8 (x0 : BitVec 8) (x1 : BitVec 1) (x2 : BitVec 1) (x3 : BitVec 3) (x4 : BitVec 3) (x5 : BitVec 8) (x6 : BitVec 8) :
    let w : Word := x0 ++ x1 ++ x2 ++ x3 ++ x4 ++ x5 ++ x6
    w.extractLsb' 24 8 = x0 ∧
    w.extractLsb' 23 1 = x1 ∧
    w.extractLsb' 22 1 = x2 ∧
    w.extractLsb' 19 3 = x3 ∧
    w.extractLsb' 16 3 = x4 ∧
    w.extractLsb' 8 8 = x5 ∧
    w.extractLsb' 0 8 = x6 :=
  ⟨Eq.trans (extract_hi (x0 ++ x1 ++ x2 ++ x3 ++ x4 ++ x5) x6 24 8 (by decide))
      (Eq.trans (extract_hi (x0 ++ x1 ++ x2 ++ x3 ++ x4) x5 16 8 (by decide))
      (Eq.trans (extract_hi (x0 ++ x1 ++ x2 ++ x3) x4 8 8 (by decide))
      (Eq.trans (extract_hi (x0 ++ x1 ++ x2) x3 5 8 (by decide))
      (Eq.trans (extract_hi (x0 ++ x1) x2 2 8 (by decide))
      (Eq.trans (extract_hi x0 x1 1 8 (by decide))
      ((extract_all x0))))))),
    Eq.trans (extract_hi (x0 ++ x1 ++ x2 ++ x3 ++ x4 ++ x5) x6 23 1 (by decide))
      (Eq.trans (extract_hi (x0 ++ x1 ++ x2 ++ x3 ++ x4) x5 15 1 (by decide))
      (Eq.trans (extract_hi (x0 ++ x1 ++ x2 ++ x3) x4 7 1 (by decide))
      (Eq.trans (extract_hi (x0 ++ x1 ++ x2) x3 4 1 (by decide))
      (Eq.trans (extract_hi (x0 ++ x1) x2 1 1 (by decide))
      (Eq.trans (extract_lo x0 x1 0 1 (by decide))
      ((extract_all x1))))))),
    Eq.trans (extract_hi (x0 ++ x1 ++ x2 ++ x3 ++ x4 ++ x5) x6 22 1 (by decide))
      (Eq.trans (extract_hi (x0 ++ x1 ++ x2 ++ x3 ++ x4) x5 14 1 (by decide))
      (Eq.trans (extract_hi (x0 ++ x1 ++ x2 ++ x3) x4 6 1 (by decide))
      (Eq.trans (extract_hi (x0 ++ x1 ++ x2) x3 3 1 (by decide))
      (Eq.trans (extract_lo (x0 ++ x1) x2 0 1 (by decide))
      ((extract_all x2)))))),
    Eq.trans (extract_hi (x0 ++ x1 ++ x2 ++ x3 ++ x4 ++ x5) x6 19 3 (by decide))
      (Eq.trans (extract_hi (x0 ++ x1 ++ x2 ++ x3 ++ x4) x5 11 3 (by decide))
      (Eq.trans (extract_hi (x0 ++ x1 ++ x2 ++ x3) x4 3 3 (by decide))
      (Eq.trans (extract_lo (x0 ++ x1 ++ x2) x3 0 3 (by decide))
      ((extract_all x3))))),
    Eq.trans (extract_hi (x0 ++ x1 ++ x2 ++ x3 ++ x4 ++ x5) x6 16 3 (by decide))
      (Eq.trans (extract_hi (x0 ++ x1 ++ x2 ++ x3 ++ x4) x5 8 3 (by decide))
      (Eq.trans (extract_lo (x0 ++ x1 ++ x2 ++ x3) x4 0 3 (by decide))
      ((extract_all x4)))),
    Eq.trans (extract_hi (x0 ++ x1 ++ x2 ++ x3 ++ x4 ++ x5) x6 8 8 (by decide))
      (Eq.trans (extract_lo (x0 ++ x1 ++ x2 ++ x3 ++ x4) x5 0 8 (by decide))
      ((extract_all x5))),
    Eq.trans (extract_lo (x0 ++ x1 ++ x2 ++ x3 ++ x4 ++ x5) x6 0 8 (by decide))
      ((extract_all x6))⟩

theorem fields_8_1_4_3_5_3_5_3 (x0 : BitVec 8) (x1 : BitVec 1) (x2 : BitVec 4) (x3 : BitVec 3) (x4 : BitVec 5) (x5 : BitVec 3) (x6 : BitVec 5) (x7 : BitVec 3) :
    let w : Word := x0 ++ x1 ++ x2 ++ x3 ++ x4 ++ x5 ++ x6 ++ x7
    w.extractLsb' 24 8 = x0 ∧
    w.extractLsb' 23 1 = x1 ∧
    w.extractLsb' 19 4 = x2 ∧
    w.extractLsb' 16 3 = x3 ∧
    w.extractLsb' 11 5 = x4 ∧
    w.extractLsb' 8 3 = x5 ∧
    w.extractLsb' 3 5 = x6 ∧
    w.extractLsb' 0 3 = x7 :=
  ⟨Eq.trans (extract_hi (x0 ++ x1 ++ x2 ++ x3 ++ x4 ++ x5 ++ x6) x7 24 8 (by decide))
      (Eq.trans (extract_hi (x0 ++ x1 ++ x2 ++ x3 ++ x4 ++ x5) x6 21 8 (by decide))
      (Eq.trans (extract_hi (x0 ++ x1 ++ x2 ++ x3 ++ x4) x5 16 8 (by decide))
      (Eq.trans (extract_hi (x0 ++ x1 ++ x2 ++ x3) x4 13 8 (by decide))
      (Eq.trans (extract_hi (x0 ++ x1 ++ x2) x3 8 8 (by decide))
      (Eq.trans (extract_hi (x0 ++ x1) x2 5 8 (by decide))
      (Eq.trans (extract_hi x0 x1 1 8 (by decide))
      ((extract_all x0)))))))),
    Eq.trans (extract_hi (x0 ++ x1 ++ x2 ++ x3 ++ x4 ++ x5 ++ x6) x7 23 1 (by decide))
      (Eq.trans (extract_hi (x0 ++ x1 ++ x2 ++ x3 ++ x4 ++ x5) x6 20 1 (by decide))
      (Eq.trans (extract_hi (x0 ++ x1 ++ x2 ++ x3 ++ x4) x5 15 1 (by decide))
      (Eq.trans (extract_hi (x0 ++ x1 ++ x2 ++ x3) x4 12 1 (by decide))
      (Eq.trans (extract_hi (x0 ++ x1 ++ x2) x3 7 1 (by decide))
      (Eq.trans (extract_hi (x0 ++ x1) x2 4 1 (by decide))
      (Eq.trans (extract_lo x0 x1 0 1 (by decide))
      ((extract_all x1)))))))),
    Eq.trans (extract_hi (x0 ++ x1 ++ x2 ++ x3 ++ x4 ++ x5 ++ x6) x7 19 4 (by decide))
      (Eq.trans (extract_hi (x0 ++ x1 ++ x2 ++ x3 ++ x4 ++ x5) x6 16 4 (by decide))
      (Eq.trans (extract_hi (x0 ++ x1 ++ x2 ++ x3 ++ x4) x5 11 4 (by decide))
      (Eq.trans (extract_hi (x0 ++ x1 ++ x2 ++ x3) x4 8 4 (by decide))
      (Eq.trans (extract_hi (x0 ++ x1 ++ x2) x3 3 4 (by decide))
      (Eq.trans (extract_lo (x0 ++ x1) x2 0 4 (by decide))
      ((extract_all x2))))))),
    Eq.trans (extract_hi (x0 ++ x1 ++ x2 ++ x3 ++ x4 ++ x5 ++ x6) x7 16 3 (by decide))
      (Eq.trans (extract_hi (x0 ++ x1 ++ x2 ++ x3 ++ x4 ++ x5) x6 13 3 (by decide))
      (Eq.trans (extract_hi (x0 ++ x1 ++ x2 ++ x3 ++ x4) x5 8 3 (by decide))
      (Eq.trans (extract_hi (x0 ++ x1 ++ x2 ++ x3) x4 5 3 (by decide))
      (Eq.trans (extract_lo (x0 ++ x1 ++ x2) x3 0 3 (by decide))
      ((extract_all x3)))))),
    Eq.trans (extract_hi (x0 ++ x1 ++ x2 ++ x3 ++ x4 ++ x5 ++ x6) x7 11 5 (by decide))
      (Eq.trans (extract_hi (x0 ++ x1 ++ x2 ++ x3 ++ x4 ++ x5) x6 8 5 (by decide))
      (Eq.trans (extract_hi (x0 ++ x1 ++ x2 ++ x3 ++ x4) x5 3 5 (by decide))
      (Eq.trans (extract_lo (x0 ++ x1 ++ x2 ++ x3) x4 0 5 (by decide))
      ((extract_all x4))))),
    Eq.trans (extract_hi (x0 ++ x1 ++ x2 ++ x3 ++ x4 ++ x5 ++ x6) x7 8 3 (by decide))
      (Eq.trans (extract_hi (x0 ++ x1 ++ x2 ++ x3 ++ x4 ++ x5) x6 5 3 (by decide))
      (Eq.trans (extract_lo (x0 ++ x1 ++ x2 ++ x3 ++ x4) x5 0 3 (by decide))
      ((extract_all x5)))),
    Eq.trans (extract_hi (x0 ++ x1 ++ x2 ++ x3 ++ x4 ++ x5 ++ x6) x7 3 5 (by decide))
      (Eq.trans (extract_lo (x0 ++ x1 ++ x2 ++ x3 ++ x4 ++ x5) x6 0 5 (by decide))
      ((extract_all x6))),
    Eq.trans (extract_lo (x0 ++ x1 ++ x2 ++ x3 ++ x4 ++ x5 ++ x6) x7 0 3 (by decide))
      ((extract_all x7))⟩

theorem fields_8_20_4 (x0 : BitVec 8) (x1 : BitVec 20) (x2 : BitVec 4) :
    let w : Word := x0 ++ x1 ++ x2
    w.extractLsb' 24 8 = x0 ∧
    w.extractLsb' 4 20 = x1 ∧
    w.extractLsb' 0 4 = x2 :=
  ⟨Eq.trans (extract_hi (x0 ++ x1) x2 24 8 (by decide))
      (Eq.trans (extract_hi x0 x1 20 8 (by decide))
      ((extract_all x0))),
    Eq.trans (extract_hi (x0 ++ x1) x2 4 20 (by decide))
      (Eq.trans (extract_lo x0 x1 0 20 (by decide))
      ((extract_all x1))),
    Eq.trans (extract_lo (x0 ++ x1) x2 0 4 (by decide))
      ((extract_all x2))⟩

theorem fields_8_21_3 (x0 : BitVec 8) (x1 : BitVec 21) (x2 : BitVec 3) :
    let w : Word := x0 ++ x1 ++ x2
    w.extractLsb' 24 8 = x0 ∧
    w.extractLsb' 3 21 = x1 ∧
    w.extractLsb' 0 3 = x2 :=
  ⟨Eq.trans (extract_hi (x0 ++ x1) x2 24 8 (by decide))
      (Eq.trans (extract_hi x0 x1 21 8 (by decide))
      ((extract_all x0))),
    Eq.trans (extract_hi (x0 ++ x1) x2 3 21 (by decide))
      (Eq.trans (extract_lo x0 x1 0 21 (by decide))
      ((extract_all x1))),
    Eq.trans (extract_lo (x0 ++ x1) x2 0 3 (by decide))
      ((extract_all x2))⟩

theorem fields_8_24 (x0 : BitVec 8) (x1 : BitVec 24) :
    let w : Word := x0 ++ x1
    w.extractLsb' 24 8 = x0 ∧
    w.extractLsb' 0 24 = x1 :=
  ⟨Eq.trans (extract_hi x0 x1 24 8 (by decide))
      ((extract_all x0)),
    Eq.trans (extract_lo x0 x1 0 24 (by decide))
      ((extract_all x1))⟩

theorem fields_8_2_2_4_8_8 (x0 : BitVec 8) (x1 : BitVec 2) (x2 : BitVec 2) (x3 : BitVec 4) (x4 : BitVec 8) (x5 : BitVec 8) :
    let w : Word := x0 ++ x1 ++ x2 ++ x3 ++ x4 ++ x5
    w.extractLsb' 24 8 = x0 ∧
    w.extractLsb' 22 2 = x1 ∧
    w.extractLsb' 20 2 = x2 ∧
    w.extractLsb' 16 4 = x3 ∧
    w.extractLsb' 8 8 = x4 ∧
    w.extractLsb' 0 8 = x5 :=
  ⟨Eq.trans (extract_hi (x0 ++ x1 ++ x2 ++ x3 ++ x4) x5 24 8 (by decide))
      (Eq.trans (extract_hi (x0 ++ x1 ++ x2 ++ x3) x4 16 8 (by decide))
      (Eq.trans (extract_hi (x0 ++ x1 ++ x2) x3 8 8 (by decide))
      (Eq.trans (extract_hi (x0 ++ x1) x2 4 8 (by decide))
      (Eq.trans (extract_hi x0 x1 2 8 (by decide))
      ((extract_all x0)))))),
    Eq.trans (extract_hi (x0 ++ x1 ++ x2 ++ x3 ++ x4) x5 22 2 (by decide))
      (Eq.trans (extract_hi (x0 ++ x1 ++ x2 ++ x3) x4 14 2 (by decide))
      (Eq.trans (extract_hi (x0 ++ x1 ++ x2) x3 6 2 (by decide))
      (Eq.trans (extract_hi (x0 ++ x1) x2 2 2 (by decide))
      (Eq.trans (extract_lo x0 x1 0 2 (by decide))
      ((extract_all x1)))))),
    Eq.trans (extract_hi (x0 ++ x1 ++ x2 ++ x3 ++ x4) x5 20 2 (by decide))
      (Eq.trans (extract_hi (x0 ++ x1 ++ x2 ++ x3) x4 12 2 (by decide))
      (Eq.trans (extract_hi (x0 ++ x1 ++ x2) x3 4 2 (by decide))
      (Eq.trans (extract_lo (x0 ++ x1) x2 0 2 (by decide))
      ((extract_all x2))))),
    Eq.trans (extract_hi (x0 ++ x1 ++ x2 ++ x3 ++ x4) x5 16 4 (by decide))
      (Eq.trans (extract_hi (x0 ++ x1 ++ x2 ++ x3) x4 8 4 (by decide))
      (Eq.trans (extract_lo (x0 ++ x1 ++ x2) x3 0 4 (by decide))
      ((extract_all x3)))),
    Eq.trans (extract_hi (x0 ++ x1 ++ x2 ++ x3 ++ x4) x5 8 8 (by decide))
      (Eq.trans (extract_lo (x0 ++ x1 ++ x2 ++ x3) x4 0 8 (by decide))
      ((extract_all x4))),
    Eq.trans (extract_lo (x0 ++ x1 ++ x2 ++ x3 ++ x4) x5 0 8 (by decide))
      ((extract_all x5))⟩

theorem fields_8_4_1_3_16 (x0 : BitVec 8) (x1 : BitVec 4) (x2 : BitVec 1) (x3 : BitVec 3) (x4 : BitVec 16) :
    let w : Word := x0 ++ x1 ++ x2 ++ x3 ++ x4
    w.extractLsb' 24 8 = x0 ∧
    w.extractLsb' 20 4 = x1 ∧
    w.extractLsb' 19 1 = x2 ∧
    w.extractLsb' 16 3 = x3 ∧
    w.extractLsb' 0 16 = x4 :=
  ⟨Eq.trans (extract_hi (x0 ++ x1 ++ x2 ++ x3) x4 24 8 (by decide))
      (Eq.trans (extract_hi (x0 ++ x1 ++ x2) x3 8 8 (by decide))
      (Eq.trans (extract_hi (x0 ++ x1) x2 5 8 (by decide))
      (Eq.trans (extract_hi x0 x1 4 8 (by decide))
      ((extract_all x0))))),
    Eq.trans (extract_hi (x0 ++ x1 ++ x2 ++ x3) x4 20 4 (by decide))
      (Eq.trans (extract_hi (x0 ++ x1 ++ x2) x3 4 4 (by decide))
      (Eq.trans (extract_hi (x0 ++ x1) x2 1 4 (by decide))
      (Eq.trans (extract_lo x0 x1 0 4 (by decide))
      ((extract_all x1))))),
    Eq.trans (extract_hi (x0 ++ x1 ++ x2 ++ x3) x4 19 1 (by decide))
      (Eq.trans (extract_hi (x0 ++ x1 ++ x2) x3 3 1 (by decide))
      (Eq.trans (extract_lo (x0 ++ x1) x2 0 1 (by decide))
      ((extract_all x2)))),
    Eq.trans (extract_hi (x0 ++ x1 ++ x2 ++ x3) x4 16 3 (by decide))
      (Eq.trans (extract_lo (x0 ++ x1 ++ x2) x3 0 3 (by decide))
      ((extract_all x3))),
    Eq.trans (extract_lo (x0 ++ x1 ++ x2 ++ x3) x4 0 16 (by decide))
      ((extract_all x4))⟩

theorem fields_8_4_1_3_8_8 (x0 : BitVec 8) (x1 : BitVec 4) (x2 : BitVec 1) (x3 : BitVec 3) (x4 : BitVec 8) (x5 : BitVec 8) :
    let w : Word := x0 ++ x1 ++ x2 ++ x3 ++ x4 ++ x5
    w.extractLsb' 24 8 = x0 ∧
    w.extractLsb' 20 4 = x1 ∧
    w.extractLsb' 19 1 = x2 ∧
    w.extractLsb' 16 3 = x3 ∧
    w.extractLsb' 8 8 = x4 ∧
    w.extractLsb' 0 8 = x5 :=
  ⟨Eq.trans (extract_hi (x0 ++ x1 ++ x2 ++ x3 ++ x4) x5 24 8 (by decide))
      (Eq.trans (extract_hi (x0 ++ x1 ++ x2 ++ x3) x4 16 8 (by decide))
      (Eq.trans (extract_hi (x0 ++ x1 ++ x2) x3 8 8 (by decide))
      (Eq.trans (extract_hi (x0 ++ x1) x2 5 8 (by decide))
      (Eq.trans (extract_hi x0 x1 4 8 (by decide))
      ((extract_all x0)))))),
    Eq.trans (extract_hi (x0 ++ x1 ++ x2 ++ x3 ++ x4) x5 20 4 (by decide))
      (Eq.trans (extract_hi (x0 ++ x1 ++ x2 ++ x3) x4 12 4 (by decide))
      (Eq.trans (extract_hi (x0 ++ x1 ++ x2) x3 4 4 (by decide))
      (Eq.trans (extract_hi (x0 ++ x1) x2 1 4 (by decide))
      (Eq.trans (extract_lo x0 x1 0 4 (by decide))
      ((extract_all x1)))))),
    Eq.trans (extract_hi (x0 ++ x1 ++ x2 ++ x3 ++ x4) x5 19 1 (by decide))
      (Eq.trans (extract_hi (x0 ++ x1 ++ x2 ++ x3) x4 11 1 (by decide))
      (Eq.trans (extract_hi (x0 ++ x1 ++ x2) x3 3 1 (by decide))
      (Eq.trans (extract_lo (x0 ++ x1) x2 0 1 (by decide))
      ((extract_all x2))))),
    Eq.trans (extract_hi (x0 ++ x1 ++ x2 ++ x3 ++ x4) x5 16 3 (by decide))
      (Eq.trans (extract_hi (x0 ++ x1 ++ x2 ++ x3) x4 8 3 (by decide))
      (Eq.trans (extract_lo (x0 ++ x1 ++ x2) x3 0 3 (by decide))
      ((extract_all x3)))),
    Eq.trans (extract_hi (x0 ++ x1 ++ x2 ++ x3 ++ x4) x5 8 8 (by decide))
      (Eq.trans (extract_lo (x0 ++ x1 ++ x2 ++ x3) x4 0 8 (by decide))
      ((extract_all x4))),
    Eq.trans (extract_lo (x0 ++ x1 ++ x2 ++ x3 ++ x4) x5 0 8 (by decide))
      ((extract_all x5))⟩

theorem fields_8_4_4_16 (x0 : BitVec 8) (x1 : BitVec 4) (x2 : BitVec 4) (x3 : BitVec 16) :
    let w : Word := x0 ++ x1 ++ x2 ++ x3
    w.extractLsb' 24 8 = x0 ∧
    w.extractLsb' 20 4 = x1 ∧
    w.extractLsb' 16 4 = x2 ∧
    w.extractLsb' 0 16 = x3 :=
  ⟨Eq.trans (extract_hi (x0 ++ x1 ++ x2) x3 24 8 (by decide))
      (Eq.trans (extract_hi (x0 ++ x1) x2 8 8 (by decide))
      (Eq.trans (extract_hi x0 x1 4 8 (by decide))
      ((extract_all x0)))),
    Eq.trans (extract_hi (x0 ++ x1 ++ x2) x3 20 4 (by decide))
      (Eq.trans (extract_hi (x0 ++ x1) x2 4 4 (by decide))
      (Eq.trans (extract_lo x0 x1 0 4 (by decide))
      ((extract_all x1)))),
    Eq.trans (extract_hi (x0 ++ x1 ++ x2) x3 16 4 (by decide))
      (Eq.trans (extract_lo (x0 ++ x1) x2 0 4 (by decide))
      ((extract_all x2))),
    Eq.trans (extract_lo (x0 ++ x1 ++ x2) x3 0 16 (by decide))
      ((extract_all x3))⟩

theorem fields_8_4_4_6_2_8 (x0 : BitVec 8) (x1 : BitVec 4) (x2 : BitVec 4) (x3 : BitVec 6) (x4 : BitVec 2) (x5 : BitVec 8) :
    let w : Word := x0 ++ x1 ++ x2 ++ x3 ++ x4 ++ x5
    w.extractLsb' 24 8 = x0 ∧
    w.extractLsb' 20 4 = x1 ∧
    w.extractLsb' 16 4 = x2 ∧
    w.extractLsb' 10 6 = x3 ∧
    w.extractLsb' 8 2 = x4 ∧
    w.extractLsb' 0 8 = x5 :=
  ⟨Eq.trans (extract_hi (x0 ++ x1 ++ x2 ++ x3 ++ x4) x5 24 8 (by decide))
      (Eq.trans (extract_hi (x0 ++ x1 ++ x2 ++ x3) x4 16 8 (by decide))
      (Eq.trans (extract_hi (x0 ++ x1 ++ x2) x3 14 8 (by decide))
      (Eq.trans (extract_hi (x0 ++ x1) x2 8 8 (by decide))
      (Eq.trans (extract_hi x0 x1 4 8 (by decide))
      ((extract_all x0)))))),
    Eq.trans (extract_hi (x0 ++ x1 ++ x2 ++ x3 ++ x4) x5 20 4 (by decide))
      (Eq.trans (extract_hi (x0 ++ x1 ++ x2 ++ x3) x4 12 4 (by decide))
      (Eq.trans (extract_hi (x0 ++ x1 ++ x2) x3 10 4 (by decide))
      (Eq.trans (extract_hi (x0 ++ x1) x2 4 4 (by decide))
      (Eq.trans (extract_lo x0 x1 0 4 (by decide))
      ((extract_all x1)))))),
    Eq.trans (extract_hi (x0 ++ x1 ++ x2 ++ x3 ++ x4) x5 16 4 (by decide))
      (Eq.trans (extract_hi (x0 ++ x1 ++ x2 ++ x3) x4 8 4 (by decide))
      (Eq.trans (extract_hi (x0 ++ x1 ++ x2) x3 6 4 (by decide))
      (Eq.trans (extract_lo (x0 ++ x1) x2 0 4 (by decide))
      ((extract_all x2))))),
    Eq.trans (extract_hi (x0 ++ x1 ++ x2 ++ x3 ++ x4) x5 10 6 (by decide))
      (Eq.trans (extract_hi (x0 ++ x1 ++ x2 ++ x3) x4 2 6 (by decide))
      (Eq.trans (extract_lo (x0 ++ x1 ++ x2) x3 0 6 (by decide))
      ((extract_all x3)))),
    Eq.trans (extract_hi (x0 ++ x1 ++ x2 ++ x3 ++ x4) x5 8 2 (by decide))
      (Eq.trans (extract_lo (x0 ++ x1 ++ x2 ++ x3) x4 0 2 (by decide))
      ((extract_all x4))),
    Eq.trans (extract_lo (x0 ++ x1 ++ x2 ++ x3 ++ x4) x5 0 8 (by decide))
      ((extract_all x5))⟩

theorem fields_8_4_4_8_8 (x0 : BitVec 8) (x1 : BitVec 4) (x2 : BitVec 4) (x3 : BitVec 8) (x4 : BitVec 8) :
    let w : Word := x0 ++ x1 ++ x2 ++ x3 ++ x4
    w.extractLsb' 24 8 = x0 ∧
    w.extractLsb' 20 4 = x1 ∧
    w.extractLsb' 16 4 = x2 ∧
    w.extractLsb' 8 8 = x3 ∧
    w.extractLsb' 0 8 = x4 :=
  ⟨Eq.trans (extract_hi (x0 ++ x1 ++ x2 ++ x3) x4 24 8 (by decide))
      (Eq.trans (extract_hi (x0 ++ x1 ++ x2) x3 16 8 (by decide))
      (Eq.trans (extract_hi (x0 ++ x1) x2 8 8 (by decide))
      (Eq.trans (extract_hi x0 x1 4 8 (by decide))
      ((extract_all x0))))),
    Eq.trans (extract_hi (x0 ++ x1 ++ x2 ++ x3) x4 20 4 (by decide))
      (Eq.trans (extract_hi (x0 ++ x1 ++ x2) x3 12 4 (by decide))
      (Eq.trans (extract_hi (x0 ++ x1) x2 4 4 (by decide))
      (Eq.trans (extract_lo x0 x1 0 4 (by decide))
      ((extract_all x1))))),
    Eq.trans (extract_hi (x0 ++ x1 ++ x2 ++ x3) x4 16 4 (by decide))
      (Eq.trans (extract_hi (x0 ++ x1 ++ x2) x3 8 4 (by decide))
      (Eq.trans (extract_lo (x0 ++ x1) x2 0 4 (by decide))
      ((extract_all x2)))),
    Eq.trans (extract_hi (x0 ++ x1 ++ x2 ++ x3) x4 8 8 (by decide))
      (Eq.trans (extract_lo (x0 ++ x1 ++ x2) x3 0 8 (by decide))
      ((extract_all x3))),
    Eq.trans (extract_lo (x0 ++ x1 ++ x2 ++ x3) x4 0 8 (by decide))
      ((extract_all x4))⟩

theorem fields_8_5_3_10_6 (x0 : BitVec 8) (x1 : BitVec 5) (x2 : BitVec 3) (x3 : BitVec 10) (x4 : BitVec 6) :
    let w : Word := x0 ++ x1 ++ x2 ++ x3 ++ x4
    w.extractLsb' 24 8 = x0 ∧
    w.extractLsb' 19 5 = x1 ∧
    w.extractLsb' 16 3 = x2 ∧
    w.extractLsb' 6 10 = x3 ∧
    w.extractLsb' 0 6 = x4 :=
  ⟨Eq.trans (extract_hi (x0 ++ x1 ++ x2 ++ x3) x4 24 8 (by decide))
      (Eq.trans (extract_hi (x0 ++ x1 ++ x2) x3 18 8 (by decide))
      (Eq.trans (extract_hi (x0 ++ x1) x2 8 8 (by decide))
      (Eq.trans (extract_hi x0 x1 5 8 (by decide))
      ((extract_all x0))))),
    Eq.trans (extract_hi (x0 ++ x1 ++ x2 ++ x3) x4 19 5 (by decide))
      (Eq.trans (extract_hi (x0 ++ x1 ++ x2) x3 13 5 (by decide))
      (Eq.trans (extract_hi (x0 ++ x1) x2 3 5 (by decide))
      (Eq.trans (extract_lo x0 x1 0 5 (by decide))
      ((extract_all x1))))),
    Eq.trans (extract_hi (x0 ++ x1 ++ x2 ++ x3) x4 16 3 (by decide))
      (Eq.trans (extract_hi (x0 ++ x1 ++ x2) x3 10 3 (by decide))
      (Eq.trans (extract_lo (x0 ++ x1) x2 0 3 (by decide))
      ((extract_all x2)))),
    Eq.trans (extract_hi (x0 ++ x1 ++ x2 ++ x3) x4 6 10 (by decide))
      (Eq.trans (extract_lo (x0 ++ x1 ++ x2) x3 0 10 (by decide))
      ((extract_all x3))),
    Eq.trans (extract_lo (x0 ++ x1 ++ x2 ++ x3) x4 0 6 (by decide))
      ((extract_all x4))⟩

theorem fields_8_6_2_16 (x0 : BitVec 8) (x1 : BitVec 6) (x2 : BitVec 2) (x3 : BitVec 16) :
    let w : Word := x0 ++ x1 ++ x2 ++ x3
    w.extractLsb' 24 8 = x0 ∧
    w.extractLsb' 18 6 = x1 ∧
    w.extractLsb' 16 2 = x2 ∧
    w.extractLsb' 0 16 = x3 :=
  ⟨Eq.trans (extract_hi (x0 ++ x1 ++ x2) x3 24 8 (by decide))
      (Eq.trans (extract_hi (x0 ++ x1) x2 8 8 (by decide))
      (Eq.trans (extract_hi x0 x1 6 8 (by decide))
      ((extract_all x0)))),
    Eq.trans (extract_hi (x0 ++ x1 ++ x2) x3 18 6 (by decide))
      (Eq.trans (extract_hi (x0 ++ x1) x2 2 6 (by decide))
      (Eq.trans (extract_lo x0 x1 0 6 (by decide))
      ((extract_all x1)))),
    Eq.trans (extract_hi (x0 ++ x1 ++ x2) x3 16 2 (by decide))
      (Eq.trans (extract_lo (x0 ++ x1) x2 0 2 (by decide))
      ((extract_all x2))),
    Eq.trans (extract_lo (x0 ++ x1 ++ x2) x3 0 16 (by decide))
      ((extract_all x3))⟩

theorem fields_8_6_2_4_4_4_4 (x0 : BitVec 8) (x1 : BitVec 6) (x2 : BitVec 2) (x3 : BitVec 4) (x4 : BitVec 4) (x5 : BitVec 4) (x6 : BitVec 4) :
    let w : Word := x0 ++ x1 ++ x2 ++ x3 ++ x4 ++ x5 ++ x6
    w.extractLsb' 24 8 = x0 ∧
    w.extractLsb' 18 6 = x1 ∧
    w.extractLsb' 16 2 = x2 ∧
    w.extractLsb' 12 4 = x3 ∧
    w.extractLsb' 8 4 = x4 ∧
    w.extractLsb' 4 4 = x5 ∧
    w.extractLsb' 0 4 = x6 :=
  ⟨Eq.trans (extract_hi (x0 ++ x1 ++ x2 ++ x3 ++ x4 ++ x5) x6 24 8 (by decide))
      (Eq.trans (extract_hi (x0 ++ x1 ++ x2 ++ x3 ++ x4) x5 20 8 (by decide))
      (Eq.trans (extract_hi (x0 ++ x1 ++ x2 ++ x3) x4 16 8 (by decide))
      (Eq.trans (extract_hi (x0 ++ x1 ++ x2) x3 12 8 (by decide))
      (Eq.trans (extract_hi (x0 ++ x1) x2 8 8 (by decide))
      (Eq.trans (extract_hi x0 x1 6 8 (by decide))
      ((extract_all x0))))))),
    Eq.trans (extract_hi (x0 ++ x1 ++ x2 ++ x3 ++ x4 ++ x5) x6 18 6 (by decide))
      (Eq.trans (extract_hi (x0 ++ x1 ++ x2 ++ x3 ++ x4) x5 14 6 (by decide))
      (Eq.trans (extract_hi (x0 ++ x1 ++ x2 ++ x3) x4 10 6 (by decide))
      (Eq.trans (extract_hi (x0 ++ x1 ++ x2) x3 6 6 (by decide))
      (Eq.trans (extract_hi (x0 ++ x1) x2 2 6 (by decide))
      (Eq.trans (extract_lo x0 x1 0 6 (by decide))
      ((extract_all x1))))))),
    Eq.trans (extract_hi (x0 ++ x1 ++ x2 ++ x3 ++ x4 ++ x5) x6 16 2 (by decide))
      (Eq.trans (extract_hi (x0 ++ x1 ++ x2 ++ x3 ++ x4) x5 12 2 (by decide))
      (Eq.trans (extract_hi (x0 ++ x1 ++ x2 ++ x3) x4 8 2 (by decide))
      (Eq.trans (extract_hi (x0 ++ x1 ++ x2) x3 4 2 (by decide))
      (Eq.trans (extract_lo (x0 ++ x1) x2 0 2 (by decide))
      ((extract_all x2)))))),
    Eq.trans (extract_hi (x0 ++ x1 ++ x2 ++ x3 ++ x4 ++ x5) x6 12 4 (by decide))
      (Eq.trans (extract_hi (x0 ++ x1 ++ x2 ++ x3 ++ x4) x5 8 4 (by decide))
      (Eq.trans (extract_hi (x0 ++ x1 ++ x2 ++ x3) x4 4 4 (by decide))
      (Eq.trans (extract_lo (x0 ++ x1 ++ x2) x3 0 4 (by decide))
      ((extract_all x3))))),
    Eq.trans (extract_hi (x0 ++ x1 ++ x2 ++ x3 ++ x4 ++ x5) x6 8 4 (by decide))
      (Eq.trans (extract_hi (x0 ++ x1 ++ x2 ++ x3 ++ x4) x5 4 4 (by decide))
      (Eq.trans (extract_lo (x0 ++ x1 ++ x2 ++ x3) x4 0 4 (by decide))
      ((extract_all x4)))),
    Eq.trans (extract_hi (x0 ++ x1 ++ x2 ++ x3 ++ x4 ++ x5) x6 4 4 (by decide))
      (Eq.trans (extract_lo (x0 ++ x1 ++ x2 ++ x3 ++ x4) x5 0 4 (by decide))
      ((extract_all x5))),
    Eq.trans (extract_lo (x0 ++ x1 ++ x2 ++ x3 ++ x4 ++ x5) x6 0 4 (by decide))
      ((extract_all x6))⟩

theorem fields_8_6_2_4_4_8 (x0 : BitVec 8) (x1 : BitVec 6) (x2 : BitVec 2) (x3 : BitVec 4) (x4 : BitVec 4) (x5 : BitVec 8) :
    let w : Word := x0 ++ x1 ++ x2 ++ x3 ++ x4 ++ x5
    w.extractLsb' 24 8 = x0 ∧
    w.extractLsb' 18 6 = x1 ∧
    w.extractLsb' 16 2 = x2 ∧
    w.extractLsb' 12 4 = x3 ∧
    w.extractLsb' 8 4 = x4 ∧
    w.extractLsb' 0 8 = x5 :=
  ⟨Eq.trans (extract_hi (x0 ++ x1 ++ x2 ++ x3 ++ x4) x5 24 8 (by decide))
      (Eq.trans (extract_hi (x0 ++ x1 ++ x2 ++ x3) x4 16 8 (by decide))
      (Eq.trans (extract_hi (x0 ++ x1 ++ x2) x3 12 8 (by decide))
      (Eq.trans (extract_hi (x0 ++ x1) x2 8 8 (by decide))
      (Eq.trans (extract_hi x0 x1 6 8 (by decide))
      ((extract_all x0)))))),
    Eq.trans (extract_hi (x0 ++ x1 ++ x2 ++ x3 ++ x4) x5 18 6 (by decide))
      (Eq.trans (extract_hi (x0 ++ x1 ++ x2 ++ x3) x4 10 6 (by decide))
      (Eq.trans (extract_hi (x0 ++ x1 ++ x2) x3 6 6 (by decide))
      (Eq.trans (extract_hi (x0 ++ x1) x2 2 6 (by decide))
      (Eq.trans (extract_lo x0 x1 0 6 (by decide))
      ((extract_all x1)))))),
    Eq.trans (extract_hi (x0 ++ x1 ++ x2 ++ x3 ++ x4) x5 16 2 (by decide))
      (Eq.trans (extract_hi (x0 ++ x1 ++ x2 ++ x3) x4 8 2 (by decide))
      (Eq.trans (extract_hi (x0 ++ x1 ++ x2) x3 4 2 (by decide))
      (Eq.trans (extract_lo (x0 ++ x1) x2 0 2 (by decide))
      ((extract_all x2))))),
    Eq.trans (extract_hi (x0 ++ x1 ++ x2 ++ x3 ++ x4) x5 12 4 (by decide))
      (Eq.trans (extract_hi (x0 ++ x1 ++ x2 ++ x3) x4 4 4 (by decide))
      (Eq.trans (extract_lo (x0 ++ x1 ++ x2) x3 0 4 (by decide))
      ((extract_all x3)))),
    Eq.trans (extract_hi (x0 ++ x1 ++ x2 ++ x3 ++ x4) x5 8 4 (by decide))
      (Eq.trans (extract_lo (x0 ++ x1 ++ x2 ++ x3) x4 0 4 (by decide))
      ((extract_all x4))),
    Eq.trans (extract_lo (x0 ++ x1 ++ x2 ++ x3 ++ x4) x5 0 8 (by decide))
      ((extract_all x5))⟩

theorem fields_8_6_2_7_1_8 (x0 : BitVec 8) (x1 : BitVec 6) (x2 : BitVec 2) (x3 : BitVec 7) (x4 : BitVec 1) (x5 : BitVec 8) :
    let w : Word := x0 ++ x1 ++ x2 ++ x3 ++ x4 ++ x5
    w.extractLsb' 24 8 = x0 ∧
    w.extractLsb' 18 6 = x1 ∧
    w.extractLsb' 16 2 = x2 ∧
    w.extractLsb' 9 7 = x3 ∧
    w.extractLsb' 8 1 = x4 ∧
    w.extractLsb' 0 8 = x5 :=
  ⟨Eq.trans (extract_hi (x0 ++ x1 ++ x2 ++ x3 ++ x4) x5 24 8 (by decide))
      (Eq.trans (extract_hi (x0 ++ x1 ++ x2 ++ x3) x4 16 8 (by decide))
      (Eq.trans (extract_hi (x0 ++ x1 ++ x2) x3 15 8 (by decide))
      (Eq.trans (extract_hi (x0 ++ x1) x2 8 8 (by decide))
      (Eq.trans (extract_hi x0 x1 6 8 (by decide))
      ((extract_all x0)))))),
    Eq.trans (extract_hi (x0 ++ x1 ++ x2 ++ x3 ++ x4) x5 18 6 (by decide))
      (Eq.trans (extract_hi (x0 ++ x1 ++ x2 ++ x3) x4 10 6 (by decide))
      (Eq.trans (extract_hi (x0 ++ x1 ++ x2) x3 9 6 (by decide))
      (Eq.trans (extract_hi (x0 ++ x1) x2 2 6 (by decide))
      (Eq.trans (extract_lo x0 x1 0 6 (by decide))
      ((extract_all x1)))))),
    Eq.trans (extract_hi (x0 ++ x1 ++ x2 ++ x3 ++ x4) x5 16 2 (by decide))
      (Eq.trans (extract_hi (x0 ++ x1 ++ x2 ++ x3) x4 8 2 (by decide))
      (Eq.trans (extract_hi (x0 ++ x1 ++ x2) x3 7 2 (by decide))
      (Eq.trans (extract_lo (x0 ++ x1) x2 0 2 (by decide))
      ((extract_all x2))))),
    Eq.trans (extract_hi (x0 ++ x1 ++ x2 ++ x3 ++ x4) x5 9 7 (by decide))
      (Eq.trans (extract_hi (x0 ++ x1 ++ x2 ++ x3) x4 1 7 (by decide))
      (Eq.trans (extract_lo (x0 ++ x1 ++ x2) x3 0 7 (by decide))
      ((extract_all x3)))),
    Eq.trans (extract_hi (x0 ++ x1 ++ x2 ++ x3 ++ x4) x5 8 1 (by decide))
      (Eq.trans (extract_lo (x0 ++ x1 ++ x2 ++ x3) x4 0 1 (by decide))
      ((extract_all x4))),
    Eq.trans (extract_lo (x0 ++ x1 ++ x2 ++ x3 ++ x4) x5 0 8 (by decide))
      ((extract_all x5))⟩

theorem fields_8_8_10_6 (x0 : BitVec 8) (x1 : BitVec 8) (x2 : BitVec 10) (x3 : BitVec 6) :
    let w : Word := x0 ++ x1 ++ x2 ++ x3
    w.extractLsb' 24 8 = x0 ∧
    w.extractLsb' 16 8 = x1 ∧
    w.extractLsb' 6 10 = x2 ∧
    w.extractLsb' 0 6 = x3 :=
  ⟨Eq.trans (extract_hi (x0 ++ x1 ++ x2) x3 24 8 (by decide))
      (Eq.trans (extract_hi (x0 ++ x1) x2 18 8 (by decide))
      (Eq.trans (extract_hi x0 x1 8 8 (by decide))
      ((extract_all x0)))),
    Eq.trans (extract_hi (x0 ++ x1 ++ x2) x3 16 8 (by decide))
      (Eq.trans (extract_hi (x0 ++ x1) x2 10 8 (by decide))
      (Eq.trans (extract_lo x0 x1 0 8 (by decide))
      ((extract_all x1)))),
    Eq.trans (extract_hi (x0 ++ x1 ++ x2) x3 6 10 (by decide))
      (Eq.trans (extract_lo (x0 ++ x1) x2 0 10 (by decide))
      ((extract_all x2))),
    Eq.trans (extract_lo (x0 ++ x1 ++ x2) x3 0 6 (by decide))
      ((extract_all x3))⟩

theorem fields_8_8_11_5 (x0 : BitVec 8) (x1 : BitVec 8) (x2 : BitVec 11) (x3 : BitVec 5) :
    let w : Word := x0 ++ x1 ++ x2 ++ x3
    w.extractLsb' 24 8 = x0 ∧
    w.extractLsb' 16 8 = x1 ∧
    w.extractLsb' 5 11 = x2 ∧
    w.extractLsb' 0 5 = x3 :=
  ⟨Eq.trans (extract_hi (x0 ++ x1 ++ x2) x3 24 8 (by decide))
      (Eq.trans (extract_hi (x0 ++ x1) x2 19 8 (by decide))
      (Eq.trans (extract_hi x0 x1 8 8 (by decide))
      ((extract_all x0)))),
    Eq.trans (extract_hi (x0 ++ x1 ++ x2) x3 16 8 (by decide))
      (Eq.trans (extract_hi (x0 ++ x1) x2 11 8 (by decide))
      (Eq.trans (extract_lo x0 x1 0 8 (by decide))
      ((extract_all x1)))),
    Eq.trans (extract_hi (x0 ++ x1 ++ x2) x3 5 11 (by decide))
      (Eq.trans (extract_lo (x0 ++ x1) x2 0 11 (by decide))
      ((extract_all x2))),
    Eq.trans (extract_lo (x0 ++ x1 ++ x2) x3 0 5 (by decide))
      ((extract_all x3))⟩

theorem fields_8_8_14_2 (x0 : BitVec 8) (x1 : BitVec 8) (x2 : BitVec 14) (x3 : BitVec 2) :
    let w : Word := x0 ++ x1 ++ x2 ++ x3
    w.extractLsb' 24 8 = x0 ∧
    w.extractLsb' 16 8 = x1 ∧
    w.extractLsb' 2 14 = x2 ∧
    w.extractLsb' 0 2 = x3 :=
  ⟨Eq.trans (extract_hi (x0 ++ x1 ++ x2) x3 24 8 (by decide))
      (Eq.trans (extract_hi (x0 ++ x1) x2 22 8 (by decide))
      (Eq.trans (extract_hi x0 x1 8 8 (by decide))
      ((extract_all x0)))),
    Eq.trans (extract_hi (x0 ++ x1 ++ x2) x3 16 8 (by decide))
      (Eq.trans (extract_hi (x0 ++ x1) x2 14 8 (by decide))
      (Eq.trans (extract_lo x0 x1 0 8 (by decide))
      ((extract_all x1)))),
    Eq.trans (extract_hi (x0 ++ x1 ++ x2) x3 2 14 (by decide))
      (Eq.trans (extract_lo (x0 ++ x1) x2 0 14 (by decide))
      ((extract_all x2))),
    Eq.trans (extract_lo (x0 ++ x1 ++ x2) x3 0 2 (by decide))
      ((extract_all x3))⟩

theorem fields_8_8_16 (x0 : BitVec 8) (x1 : BitVec 8) (x2 : BitVec 16) :
    let w : Word := x0 ++ x1 ++ x2
    w.extractLsb' 24 8 = x0 ∧
    w.extractLsb' 16 8 = x1 ∧
    w.extractLsb' 0 16 = x2 :=
  ⟨Eq.trans (extract_hi (x0 ++ x1) x2 24 8 (by decide))
      (Eq.trans (extract_hi x0 x1 8 8 (by decide))
      ((extract_all x0))),
    Eq.trans (extract_hi (x0 ++ x1) x2 16 8 (by decide))
      (Eq.trans (extract_lo x0 x1 0 8 (by decide))
      ((extract_all x1))),
    Eq.trans (extract_lo (x0 ++ x1) x2 0 16 (by decide))
      ((extract_all x2))⟩

theorem fields_8_8_1_3_4_8 (x0 : BitVec 8) (x1 : BitVec 8) (x2 : BitVec 1) (x3 : BitVec 3) (x4 : BitVec 4) (x5 : BitVec 8) :
    let w : Word := x0 ++ x1 ++ x2 ++ x3 ++ x4 ++ x5
    w.extractLsb' 24 8 = x0 ∧
    w.extractLsb' 16 8 = x1 ∧
    w.extractLsb' 15 1 = x2 ∧
    w.extractLsb' 12 3 = x3 ∧
    w.extractLsb' 8 4 = x4 ∧
    w.extractLsb' 0 8 = x5 :=
  ⟨Eq.trans (extract_hi (x0 ++ x1 ++ x2 ++ x3 ++ x4) x5 24 8 (by decide))
      (Eq.trans (extract_hi (x0 ++ x1 ++ x2 ++ x3) x4 16 8 (by decide))
      (Eq.trans (extract_hi (x0 ++ x1 ++ x2) x3 12 8 (by decide))
      (Eq.trans (extract_hi (x0 ++ x1) x2 9 8 (by decide))
      (Eq.trans (extract_hi x0 x1 8 8 (by decide))
      ((extract_all x0)))))),
    Eq.trans (extract_hi (x0 ++ x1 ++ x2 ++ x3 ++ x4) x5 16 8 (by decide))
      (Eq.trans (extract_hi (x0 ++ x1 ++ x2 ++ x3) x4 8 8 (by decide))
      (Eq.trans (extract_hi (x0 ++ x1 ++ x2) x3 4 8 (by decide))
      (Eq.trans (extract_hi (x0 ++ x1) x2 1 8 (by decide))
      (Eq.trans (extract_lo x0 x1 0 8 (by decide))
      ((extract_all x1)))))),
    Eq.trans (extract_hi (x0 ++ x1 ++ x2 ++ x3 ++ x4) x5 15 1 (by decide))
      (Eq.trans (extract_hi (x0 ++ x1 ++ x2 ++ x3) x4 7 1 (by decide))
      (Eq.trans (extract_hi (x0 ++ x1 ++ x2) x3 3 1 (by decide))
      (Eq.trans (extract_lo (x0 ++ x1) x2 0 1 (by decide))
      ((extract_all x2))))),
    Eq.trans (extract_hi (x0 ++ x1 ++ x2 ++ x3 ++ x4) x5 12 3 (by decide))
      (Eq.trans (extract_hi (x0 ++ x1 ++ x2 ++ x3) x4 4 3 (by decide))
      (Eq.trans (extract_lo (x0 ++ x1 ++ x2) x3 0 3 (by decide))
      ((extract_all x3)))),
    Eq.trans (extract_hi (x0 ++ x1 ++ x2 ++ x3 ++ x4) x5 8 4 (by decide))
      (Eq.trans (extract_lo (x0 ++ x1 ++ x2 ++ x3) x4 0 4 (by decide))
      ((extract_all x4))),
    Eq.trans (extract_lo (x0 ++ x1 ++ x2 ++ x3 ++ x4) x5 0 8 (by decide))
      ((extract_all x5))⟩

theorem fields_8_8_4_1_3_8 (x0 : BitVec 8) (x1 : BitVec 8) (x2 : BitVec 4) (x3 : BitVec 1) (x4 : BitVec 3) (x5 : BitVec 8) :
    let w : Word := x0 ++ x1 ++ x2 ++ x3 ++ x4 ++ x5
    w.extractLsb' 24 8 = x0 ∧
    w.extractLsb' 16 8 = x1 ∧
    w.extractLsb' 12 4 = x2 ∧
    w.extractLsb' 11 1 = x3 ∧
    w.extractLsb' 8 3 = x4 ∧
    w.extractLsb' 0 8 = x5 :=
  ⟨Eq.trans (extract_hi (x0 ++ x1 ++ x2 ++ x3 ++ x4) x5 24 8 (by decide))
      (Eq.trans (extract_hi (x0 ++ x1 ++ x2 ++ x3) x4 16 8 (by decide))
      (Eq.trans (extract_hi (x0 ++ x1 ++ x2) x3 13 8 (by decide))
      (Eq.trans (extract_hi (x0 ++ x1) x2 12 8 (by decide))
      (Eq.trans (extract_hi x0 x1 8 8 (by decide))
      ((extract_all x0)))))),
    Eq.trans (extract_hi (x0 ++ x1 ++ x2 ++ x3 ++ x4) x5 16 8 (by decide))
      (Eq.trans (extract_hi (x0 ++ x1 ++ x2 ++ x3) x4 8 8 (by decide))
      (Eq.trans (extract_hi (x0 ++ x1 ++ x2) x3 5 8 (by decide))
      (Eq.trans (extract_hi (x0 ++ x1) x2 4 8 (by decide))
      (Eq.trans (extract_lo x0 x1 0 8 (by decide))
      ((extract_all x1)))))),
    Eq.trans (extract_hi (x0 ++ x1 ++ x2 ++ x3 ++ x4) x5 12 4 (by decide))
      (Eq.trans (extract_hi (x0 ++ x1 ++ x2 ++ x3) x4 4 4 (by decide))
      (Eq.trans (extract_hi (x0 ++ x1 ++ x2) x3 1 4 (by decide))
      (Eq.trans (extract_lo (x0 ++ x1) x2 0 4 (by decide))
      ((extract_all x2))))),
    Eq.trans (extract_hi (x0 ++ x1 ++ x2 ++ x3 ++ x4) x5 11 1 (by decide))
      (Eq.trans (extract_hi (x0 ++ x1 ++ x2 ++ x3) x4 3 1 (by decide))
      (Eq.trans (extract_lo (x0 ++ x1 ++ x2) x3 0 1 (by decide))
      ((extract_all x3)))),
    Eq.trans (extract_hi (x0 ++ x1 ++ x2 ++ x3 ++ x4) x5 8 3 (by decide))
      (Eq.trans (extract_lo (x0 ++ x1 ++ x2 ++ x3) x4 0 3 (by decide))
      ((extract_all x4))),
    Eq.trans (extract_lo (x0 ++ x1 ++ x2 ++ x3 ++ x4) x5 0 8 (by decide))
      ((extract_all x5))⟩

theorem fields_8_8_4_4_8 (x0 : BitVec 8) (x1 : BitVec 8) (x2 : BitVec 4) (x3 : BitVec 4) (x4 : BitVec 8) :
    let w : Word := x0 ++ x1 ++ x2 ++ x3 ++ x4
    w.extractLsb' 24 8 = x0 ∧
    w.extractLsb' 16 8 = x1 ∧
    w.extractLsb' 12 4 = x2 ∧
    w.extractLsb' 8 4 = x3 ∧
    w.extractLsb' 0 8 = x4 :=
  ⟨Eq.trans (extract_hi (x0 ++ x1 ++ x2 ++ x3) x4 24 8 (by decide))
      (Eq.trans (extract_hi (x0 ++ x1 ++ x2) x3 16 8 (by decide))
      (Eq.trans (extract_hi (x0 ++ x1) x2 12 8 (by decide))
      (Eq.trans (extract_hi x0 x1 8 8 (by decide))
      ((extract_all x0))))),
    Eq.trans (extract_hi (x0 ++ x1 ++ x2 ++ x3) x4 16 8 (by decide))
      (Eq.trans (extract_hi (x0 ++ x1 ++ x2) x3 8 8 (by decide))
      (Eq.trans (extract_hi (x0 ++ x1) x2 4 8 (by decide))
      (Eq.trans (extract_lo x0 x1 0 8 (by decide))
      ((extract_all x1))))),
    Eq.trans (extract_hi (x0 ++ x1 ++ x2 ++ x3) x4 12 4 (by decide))
      (Eq.trans (extract_hi (x0 ++ x1 ++ x2) x3 4 4 (by decide))
      (Eq.trans (extract_lo (x0 ++ x1) x2 0 4 (by decide))
      ((extract_all x2)))),
    Eq.trans (extract_hi (x0 ++ x1 ++ x2 ++ x3) x4 8 4 (by decide))
      (Eq.trans (extract_lo (x0 ++ x1 ++ x2) x3 0 4 (by decide))
      ((extract_all x3))),
    Eq.trans (extract_lo (x0 ++ x1 ++ x2 ++ x3) x4 0 8 (by decide))
      ((extract_all x4))⟩

theorem fields_8_8_5_3_8 (x0 : BitVec 8) (x1 : BitVec 8) (x2 : BitVec 5) (x3 : BitVec 3) (x4 : BitVec 8) :
    let w : Word := x0 ++ x1 ++ x2 ++ x3 ++ x4
    w.extractLsb' 24 8 = x0 ∧
    w.extractLsb' 16 8 = x1 ∧
    w.extractLsb' 11 5 = x2 ∧
    w.extractLsb' 8 3 = x3 ∧
    w.extractLsb' 0 8 = x4 :=
  ⟨Eq.trans (extract_hi (x0 ++ x1 ++ x2 ++ x3) x4 24 8 (by decide))
      (Eq.trans (extract_hi (x0 ++ x1 ++ x2) x3 16 8 (by decide))
      (Eq.trans (extract_hi (x0 ++ x1) x2 13 8 (by decide))
      (Eq.trans (extract_hi x0 x1 8 8 (by decide))
      ((extract_all x0))))),
    Eq.trans (extract_hi (x0 ++ x1 ++ x2 ++ x3) x4 16 8 (by decide))
      (Eq.trans (extract_hi (x0 ++ x1 ++ x2) x3 8 8 (by decide))
      (Eq.trans (extract_hi (x0 ++ x1) x2 5 8 (by decide))
      (Eq.trans (extract_lo x0 x1 0 8 (by decide))
      ((extract_all x1))))),
    Eq.trans (extract_hi (x0 ++ x1 ++ x2 ++ x3) x4 11 5 (by decide))
      (Eq.trans (extract_hi (x0 ++ x1 ++ x2) x3 3 5 (by decide))
      (Eq.trans (extract_lo (x0 ++ x1) x2 0 5 (by decide))
      ((extract_all x2)))),
    Eq.trans (extract_hi (x0 ++ x1 ++ x2 ++ x3) x4 8 3 (by decide))
      (Eq.trans (extract_lo (x0 ++ x1 ++ x2) x3 0 3 (by decide))
      ((extract_all x3))),
    Eq.trans (extract_lo (x0 ++ x1 ++ x2 ++ x3) x4 0 8 (by decide))
      ((extract_all x4))⟩

theorem fields_8_8_5_5_6 (x0 : BitVec 8) (x1 : BitVec 8) (x2 : BitVec 5) (x3 : BitVec 5) (x4 : BitVec 6) :
    let w : Word := x0 ++ x1 ++ x2 ++ x3 ++ x4
    w.extractLsb' 24 8 = x0 ∧
    w.extractLsb' 16 8 = x1 ∧
    w.extractLsb' 11 5 = x2 ∧
    w.extractLsb' 6 5 = x3 ∧
    w.extractLsb' 0 6 = x4 :=
  ⟨Eq.trans (extract_hi (x0 ++ x1 ++ x2 ++ x3) x4 24 8 (by decide))
      (Eq.trans (extract_hi (x0 ++ x1 ++ x2) x3 18 8 (by decide))
      (Eq.trans (extract_hi (x0 ++ x1) x2 13 8 (by decide))
      (Eq.trans (extract_hi x0 x1 8 8 (by decide))
      ((extract_all x0))))),
    Eq.trans (extract_hi (x0 ++ x1 ++ x2 ++ x3) x4 16 8 (by decide))
      (Eq.trans (extract_hi (x0 ++ x1 ++ x2) x3 10 8 (by decide))
      (Eq.trans (extract_hi (x0 ++ x1) x2 5 8 (by decide))
      (Eq.trans (extract_lo x0 x1 0 8 (by decide))
      ((extract_all x1))))),
    Eq.trans (extract_hi (x0 ++ x1 ++ x2 ++ x3) x4 11 5 (by decide))
      (Eq.trans (extract_hi (x0 ++ x1 ++ x2) x3 5 5 (by decide))
      (Eq.trans (extract_lo (x0 ++ x1) x2 0 5 (by decide))
      ((extract_all x2)))),
    Eq.trans (extract_hi (x0 ++ x1 ++ x2 ++ x3) x4 6 5 (by decide))
      (Eq.trans (extract_lo (x0 ++ x1 ++ x2) x3 0 5 (by decide))
      ((extract_all x3))),
    Eq.trans (extract_lo (x0 ++ x1 ++ x2 ++ x3) x4 0 6 (by decide))
      ((extract_all x4))⟩

theorem fields_8_8_6_10 (x0 : BitVec 8) (x1 : BitVec 8) (x2 : BitVec 6) (x3 : BitVec 10) :
    let w : Word := x0 ++ x1 ++ x2 ++ x3
    w.extractLsb' 24 8 = x0 ∧
    w.extractLsb' 16 8 = x1 ∧
    w.extractLsb' 10 6 = x2 ∧
    w.extractLsb' 0 10 = x3 :=
  ⟨Eq.trans (extract_hi (x0 ++ x1 ++ x2) x3 24 8 (by decide))
      (Eq.trans (extract_hi (x0 ++ x1) x2 14 8 (by decide))
      (Eq.trans (extract_hi x0 x1 8 8 (by decide))
      ((extract_all x0)))),
    Eq.trans (extract_hi (x0 ++ x1 ++ x2) x3 16 8 (by decide))
      (Eq.trans (extract_hi (x0 ++ x1) x2 6 8 (by decide))
      (Eq.trans (extract_lo x0 x1 0 8 (by decide))
      ((extract_all x1)))),
    Eq.trans (extract_hi (x0 ++ x1 ++ x2) x3 10 6 (by decide))
      (Eq.trans (extract_lo (x0 ++ x1) x2 0 6 (by decide))
      ((extract_all x2))),
    Eq.trans (extract_lo (x0 ++ x1 ++ x2) x3 0 10 (by decide))
      ((extract_all x3))⟩

theorem fields_8_8_6_2_8 (x0 : BitVec 8) (x1 : BitVec 8) (x2 : BitVec 6) (x3 : BitVec 2) (x4 : BitVec 8) :
    let w : Word := x0 ++ x1 ++ x2 ++ x3 ++ x4
    w.extractLsb' 24 8 = x0 ∧
    w.extractLsb' 16 8 = x1 ∧
    w.extractLsb' 10 6 = x2 ∧
    w.extractLsb' 8 2 = x3 ∧
    w.extractLsb' 0 8 = x4 :=
  ⟨Eq.trans (extract_hi (x0 ++ x1 ++ x2 ++ x3) x4 24 8 (by decide))
      (Eq.trans (extract_hi (x0 ++ x1 ++ x2) x3 16 8 (by decide))
      (Eq.trans (extract_hi (x0 ++ x1) x2 14 8 (by decide))
      (Eq.trans (extract_hi x0 x1 8 8 (by decide))
      ((extract_all x0))))),
    Eq.trans (extract_hi (x0 ++ x1 ++ x2 ++ x3) x4 16 8 (by decide))
      (Eq.trans (extract_hi (x0 ++ x1 ++ x2) x3 8 8 (by decide))
      (Eq.trans (extract_hi (x0 ++ x1) x2 6 8 (by decide))
      (Eq.trans (extract_lo x0 x1 0 8 (by decide))
      ((extract_all x1))))),
    Eq.trans (extract_hi (x0 ++ x1 ++ x2 ++ x3) x4 10 6 (by decide))
      (Eq.trans (extract_hi (x0 ++ x1 ++ x2) x3 2 6 (by decide))
      (Eq.trans (extract_lo (x0 ++ x1) x2 0 6 (by decide))
      ((extract_all x2)))),
    Eq.trans (extract_hi (x0 ++ x1 ++ x2 ++ x3) x4 8 2 (by decide))
      (Eq.trans (extract_lo (x0 ++ x1 ++ x2) x3 0 2 (by decide))
      ((extract_all x3))),
    Eq.trans (extract_lo (x0 ++ x1 ++ x2 ++ x3) x4 0 8 (by decide))
      ((extract_all x4))⟩

theorem fields_8_8_8_1_3_4 (x0 : BitVec 8) (x1 : BitVec 8) (x2 : BitVec 8) (x3 : BitVec 1) (x4 : BitVec 3) (x5 : BitVec 4) :
    let w : Word := x0 ++ x1 ++ x2 ++ x3 ++ x4 ++ x5
    w.extractLsb' 24 8 = x0 ∧
    w.extractLsb' 16 8 = x1 ∧
    w.extractLsb' 8 8 = x2 ∧
    w.extractLsb' 7 1 = x3 ∧
    w.extractLsb' 4 3 = x4 ∧
    w.extractLsb' 0 4 = x5 :=
  ⟨Eq.trans (extract_hi (x0 ++ x1 ++ x2 ++ x3 ++ x4) x5 24 8 (by decide))
      (Eq.trans (extract_hi (x0 ++ x1 ++ x2 ++ x3) x4 20 8 (by decide))
      (Eq.trans (extract_hi (x0 ++ x1 ++ x2) x3 17 8 (by decide))
      (Eq.trans (extract_hi (x0 ++ x1) x2 16 8 (by decide))
      (Eq.trans (extract_hi x0 x1 8 8 (by decide))
      ((extract_all x0)))))),
    Eq.trans (extract_hi (x0 ++ x1 ++ x2 ++ x3 ++ x4) x5 16 8 (by decide))
      (Eq.trans (extract_hi (x0 ++ x1 ++ x2 ++ x3) x4 12 8 (by decide))
      (Eq.trans (extract_hi (x0 ++ x1 ++ x2) x3 9 8 (by decide))
      (Eq.trans (extract_hi (x0 ++ x1) x2 8 8 (by decide))
      (Eq.trans (extract_lo x0 x1 0 8 (by decide))
      ((extract_all x1)))))),
    Eq.trans (extract_hi (x0 ++ x1 ++ x2 ++ x3 ++ x4) x5 8 8 (by decide))
      (Eq.trans (extract_hi (x0 ++ x1 ++ x2 ++ x3) x4 4 8 (by decide))
      (Eq.trans (extract_hi (x0 ++ x1 ++ x2) x3 1 8 (by decide))
      (Eq.trans (extract_lo (x0 ++ x1) x2 0 8 (by decide))
      ((extract_all x2))))),
    Eq.trans (extract_hi (x0 ++ x1 ++ x2 ++ x3 ++ x4) x5 7 1 (by decide))
      (Eq.trans (extract_hi (x0 ++ x1 ++ x2 ++ x3) x4 3 1 (by decide))
      (Eq.trans (extract_lo (x0 ++ x1 ++ x2) x3 0 1 (by decide))
      ((extract_all x3)))),
    Eq.trans (extract_hi (x0 ++ x1 ++ x2 ++ x3 ++ x4) x5 4 3 (by decide))
      (Eq.trans (extract_lo (x0 ++ x1 ++ x2 ++ x3) x4 0 3 (by decide))
      ((extract_all x4))),
    Eq.trans (extract_lo (x0 ++ x1 ++ x2 ++ x3 ++ x4) x5 0 4 (by decide))
      ((extract_all x5))⟩

theorem fields_8_8_8_4_1_1_2 (x0 : BitVec 8) (x1 : BitVec 8) (x2 : BitVec 8) (x3 : BitVec 4) (x4 : BitVec 1) (x5 : BitVec 1) (x6 : BitVec 2) :
    let w : Word := x0 ++ x1 ++ x2 ++ x3 ++ x4 ++ x5 ++ x6
    w.extractLsb' 24 8 = x0 ∧
    w.extractLsb' 16 8 = x1 ∧
    w.extractLsb' 8 8 = x2 ∧
    w.extractLsb' 4 4 = x3 ∧
    w.extractLsb' 3 1 = x4 ∧
    w.extractLsb' 2 1 = x5 ∧
    w.extractLsb' 0 2 = x6 :=
  ⟨Eq.trans (extract_hi (x0 ++ x1 ++ x2 ++ x3 ++ x4 ++ x5) x6 24 8 (by decide))
      (Eq.trans (extract_hi (x0 ++ x1 ++ x2 ++ x3 ++ x4) x5 22 8 (by decide))
      (Eq.trans (extract_hi (x0 ++ x1 ++ x2 ++ x3) x4 21 8 (by decide))
      (Eq.trans (extract_hi (x0 ++ x1 ++ x2) x3 20 8 (by decide))
      (Eq.trans (extract_hi (x0 ++ x1) x2 16 8 (by decide))
      (Eq.trans (extract_hi x0 x1 8 8 (by decide))
      ((extract_all x0))))))),
    Eq.trans (extract_hi (x0 ++ x1 ++ x2 ++ x3 ++ x4 ++ x5) x6 16 8 (by decide))
      (Eq.trans (extract_hi (x0 ++ x1 ++ x2 ++ x3 ++ x4) x5 14 8 (by decide))
      (Eq.trans (extract_hi (x0 ++ x1 ++ x2 ++ x3) x4 13 8 (by decide))
      (Eq.trans (extract_hi (x0 ++ x1 ++ x2) x3 12 8 (by decide))
      (Eq.trans (extract_hi (x0 ++ x1) x2 8 8 (by decide))
      (Eq.trans (extract_lo x0 x1 0 8 (by decide))
      ((extract_all x1))))))),
    Eq.trans (extract_hi (x0 ++ x1 ++ x2 ++ x3 ++ x4 ++ x5) x6 8 8 (by decide))
      (Eq.trans (extract_hi (x0 ++ x1 ++ x2 ++ x3 ++ x4) x5 6 8 (by decide))
      (Eq.trans (extract_hi (x0 ++ x1 ++ x2 ++ x3) x4 5 8 (by decide))
      (Eq.trans (extract_hi (x0 ++ x1 ++ x2) x3 4 8 (by decide))
      (Eq.trans (extract_lo (x0 ++ x1) x2 0 8 (by decide))
      ((extract_all x2)))))),
    Eq.trans (extract_hi (x0 ++ x1 ++ x2 ++ x3 ++ x4 ++ x5) x6 4 4 (by decide))
      (Eq.trans (extract_hi (x0 ++ x1 ++ x2 ++ x3 ++ x4) x5 2 4 (by decide))
      (Eq.trans (extract_hi (x0 ++ x1 ++ x2 ++ x3) x4 1 4 (by decide))
      (Eq.trans (extract_lo (x0 ++ x1 ++ x2) x3 0 4 (by decide))
      ((extract_all x3))))),
    Eq.trans (extract_hi (x0 ++ x1 ++ x2 ++ x3 ++ x4 ++ x5) x6 3 1 (by decide))
      (Eq.trans (extract_hi (x0 ++ x1 ++ x2 ++ x3 ++ x4) x5 1 1 (by decide))
      (Eq.trans (extract_lo (x0 ++ x1 ++ x2 ++ x3) x4 0 1 (by decide))
      ((extract_all x4)))),
    Eq.trans (extract_hi (x0 ++ x1 ++ x2 ++ x3 ++ x4 ++ x5) x6 2 1 (by decide))
      (Eq.trans (extract_lo (x0 ++ x1 ++ x2 ++ x3 ++ x4) x5 0 1 (by decide))
      ((extract_all x5))),
    Eq.trans (extract_lo (x0 ++ x1 ++ x2 ++ x3 ++ x4 ++ x5) x6 0 2 (by decide))
      ((extract_all x6))⟩

theorem fields_8_8_8_4_1_3 (x0 : BitVec 8) (x1 : BitVec 8) (x2 : BitVec 8) (x3 : BitVec 4) (x4 : BitVec 1) (x5 : BitVec 3) :
    let w : Word := x0 ++ x1 ++ x2 ++ x3 ++ x4 ++ x5
    w.extractLsb' 24 8 = x0 ∧
    w.extractLsb' 16 8 = x1 ∧
    w.extractLsb' 8 8 = x2 ∧
    w.extractLsb' 4 4 = x3 ∧
    w.extractLsb' 3 1 = x4 ∧
    w.extractLsb' 0 3 = x5 :=
  ⟨Eq.trans (extract_hi (x0 ++ x1 ++ x2 ++ x3 ++ x4) x5 24 8 (by decide))
      (Eq.trans (extract_hi (x0 ++ x1 ++ x2 ++ x3) x4 21 8 (by decide))
      (Eq.trans (extract_hi (x0 ++ x1 ++ x2) x3 20 8 (by decide))
      (Eq.trans (extract_hi (x0 ++ x1) x2 16 8 (by decide))
      (Eq.trans (extract_hi x0 x1 8 8 (by decide))
      ((extract_all x0)))))),
    Eq.trans (extract_hi (x0 ++ x1 ++ x2 ++ x3 ++ x4) x5 16 8 (by decide))
      (Eq.trans (extract_hi (x0 ++ x1 ++ x2 ++ x3) x4 13 8 (by decide))
      (Eq.trans (extract_hi (x0 ++ x1 ++ x2) x3 12 8 (by decide))
      (Eq.trans (extract_hi (x0 ++ x1) x2 8 8 (by decide))
      (Eq.trans (extract_lo x0 x1 0 8 (by decide))
      ((extract_all x1)))))),
    Eq.trans (extract_hi (x0 ++ x1 ++ x2 ++ x3 ++ x4) x5 8 8 (by decide))
      (Eq.trans (extract_hi (x0 ++ x1 ++ x2 ++ x3) x4 5 8 (by decide))
      (Eq.trans (extract_hi (x0 ++ x1 ++ x2) x3 4 8 (by decide))
      (Eq.trans (extract_lo (x0 ++ x1) x2 0 8 (by decide))
      ((extract_all x2))))),
    Eq.trans (extract_hi (x0 ++ x1 ++ x2 ++ x3 ++ x4) x5 4 4 (by decide))
      (Eq.trans (extract_hi (x0 ++ x1 ++ x2 ++ x3) x4 1 4 (by decide))
      (Eq.trans (extract_lo (x0 ++ x1 ++ x2) x3 0 4 (by decide))
      ((extract_all x3)))),
    Eq.trans (extract_hi (x0 ++ x1 ++ x2 ++ x3 ++ x4) x5 3 1 (by decide))
      (Eq.trans (extract_lo (x0 ++ x1 ++ x2 ++ x3) x4 0 1 (by decide))
      ((extract_all x4))),
    Eq.trans (extract_lo (x0 ++ x1 ++ x2 ++ x3 ++ x4) x5 0 3 (by decide))
      ((extract_all x5))⟩

theorem fields_8_8_8_5_3 (x0 : BitVec 8) (x1 : BitVec 8) (x2 : BitVec 8) (x3 : BitVec 5) (x4 : BitVec 3) :
    let w : Word := x0 ++ x1 ++ x2 ++ x3 ++ x4
    w.extractLsb' 24 8 = x0 ∧
    w.extractLsb' 16 8 = x1 ∧
    w.extractLsb' 8 8 = x2 ∧
    w.extractLsb' 3 5 = x3 ∧
    w.extractLsb' 0 3 = x4 :=
  ⟨Eq.trans (extract_hi (x0 ++ x1 ++ x2 ++ x3) x4 24 8 (by decide))
      (Eq.trans (extract_hi (x0 ++ x1 ++ x2) x3 21 8 (by decide))
      (Eq.trans (extract_hi (x0 ++ x1) x2 16 8 (by decide))
      (Eq.trans (extract_hi x0 x1 8 8 (by decide))
      ((extract_all x0))))),
    Eq.trans (extract_hi (x0 ++ x1 ++ x2 ++ x3) x4 16 8 (by decide))
      (Eq.trans (extract_hi (x0 ++ x1 ++ x2) x3 13 8 (by decide))
      (Eq.trans (extract_hi (x0 ++ x1) x2 8 8 (by decide))
      (Eq.trans (extract_lo x0 x1 0 8 (by decide))
      ((extract_all x1))))),
    Eq.trans (extract_hi (x0 ++ x1 ++ x2 ++ x3) x4 8 8 (by decide))
      (Eq.trans (extract_hi (x0 ++ x1 ++ x2) x3 5 8 (by decide))
      (Eq.trans (extract_lo (x0 ++ x1) x2 0 8 (by decide))
      ((extract_all x2)))),
    Eq.trans (extract_hi (x0 ++ x1 ++ x2 ++ x3) x4 3 5 (by decide))
      (Eq.trans (extract_lo (x0 ++ x1 ++ x2) x3 0 5 (by decide))
      ((extract_all x3))),
    Eq.trans (extract_lo (x0 ++ x1 ++ x2 ++ x3) x4 0 3 (by decide))
      ((extract_all x4))⟩

theorem fields_8_8_8_6_2 (x0 : BitVec 8) (x1 : BitVec 8) (x2 : BitVec 8) (x3 : BitVec 6) (x4 : BitVec 2) :
    let w : Word := x0 ++ x1 ++ x2 ++ x3 ++ x4
    w.extractLsb' 24 8 = x0 ∧
    w.extractLsb' 16 8 = x1 ∧
    w.extractLsb' 8 8 = x2 ∧
    w.extractLsb' 2 6 = x3 ∧
    w.extractLsb' 0 2 = x4 :=
  ⟨Eq.trans (extract_hi (x0 ++ x1 ++ x2 ++ x3) x4 24 8 (by decide))
      (Eq.trans (extract_hi (x0 ++ x1 ++ x2) x3 22 8 (by decide))
      (Eq.trans (extract_hi (x0 ++ x1) x2 16 8 (by decide))
      (Eq.trans (extract_hi x0 x1 8 8 (by decide))
      ((extract_all x0))))),
    Eq.trans (extract_hi (x0 ++ x1 ++ x2 ++ x3) x4 16 8 (by decide))
      (Eq.trans (extract_hi (x0 ++ x1 ++ x2) x3 14 8 (by decide))
      (Eq.trans (extract_hi (x0 ++ x1) x2 8 8 (by decide))
      (Eq.trans (extract_lo x0 x1 0 8 (by decide))
      ((extract_all x1))))),
    Eq.trans (extract_hi (x0 ++ x1 ++ x2 ++ x3) x4 8 8 (by decide))
      (Eq.trans (extract_hi (x0 ++ x1 ++ x2) x3 6 8 (by decide))
      (Eq.trans (extract_lo (x0 ++ x1) x2 0 8 (by decide))
      ((extract_all x2)))),
    Eq.trans (extract_hi (x0 ++ x1 ++ x2 ++ x3) x4 2 6 (by decide))
      (Eq.trans (extract_lo (x0 ++ x1 ++ x2) x3 0 6 (by decide))
      ((extract_all x3))),
    Eq.trans (extract_lo (x0 ++ x1 ++ x2 ++ x3) x4 0 2 (by decide))
      ((extract_all x4))⟩

theorem fields_8_8_8_7_1 (x0 : BitVec 8) (x1 : BitVec 8) (x2 : BitVec 8) (x3 : BitVec 7) (x4 : BitVec 1) :
    let w : Word := x0 ++ x1 ++ x2 ++ x3 ++ x4
    w.extractLsb' 24 8 = x0 ∧
    w.extractLsb' 16 8 = x1 ∧
    w.extractLsb' 8 8 = x2 ∧
    w.extractLsb' 1 7 = x3 ∧
    w.extractLsb' 0 1 = x4 :=
  ⟨Eq.trans (extract_hi (x0 ++ x1 ++ x2 ++ x3) x4 24 8 (by decide))
      (Eq.trans (extract_hi (x0 ++ x1 ++ x2) x3 23 8 (by decide))
      (Eq.trans (extract_hi (x0 ++ x1) x2 16 8 (by decide))
      (Eq.trans (extract_hi x0 x1 8 8 (by decide))
      ((extract_all x0))))),
    Eq.trans (extract_hi (x0 ++ x1 ++ x2 ++ x3) x4 16 8 (by decide))
      (Eq.trans (extract_hi (x0 ++ x1 ++ x2) x3 15 8 (by decide))
      (Eq.trans (extract_hi (x0 ++ x1) x2 8 8 (by decide))
      (Eq.trans (extract_lo x0 x1 0 8 (by decide))
      ((extract_all x1))))),
    Eq.trans (extract_hi (x0 ++ x1 ++ x2 ++ x3) x4 8 8 (by decide))
      (Eq.trans (extract_hi (x0 ++ x1 ++ x2) x3 7 8 (by decide))
      (Eq.trans (extract_lo (x0 ++ x1) x2 0 8 (by decide))
      ((extract_all x2)))),
    Eq.trans (extract_hi (x0 ++ x1 ++ x2 ++ x3) x4 1 7 (by decide))
      (Eq.trans (extract_lo (x0 ++ x1 ++ x2) x3 0 7 (by decide))
      ((extract_all x3))),
    Eq.trans (extract_lo (x0 ++ x1 ++ x2 ++ x3) x4 0 1 (by decide))
      ((extract_all x4))⟩

theorem fields_8_8_8_8 (x0 : BitVec 8) (x1 : BitVec 8) (x2 : BitVec 8) (x3 : BitVec 8) :
    let w : Word := x0 ++ x1 ++ x2 ++ x3
    w.extractLsb' 24 8 = x0 ∧
    w.extractLsb' 16 8 = x1 ∧
    w.extractLsb' 8 8 = x2 ∧
    w.extractLsb' 0 8 = x3 :=
  ⟨Eq.trans (extract_hi (x0 ++ x1 ++ x2) x3 24 8 (by decide))
      (Eq.trans (extract_hi (x0 ++ x1) x2 16 8 (by decide))
      (Eq.trans (extract_hi x0 x1 8 8 (by decide))
      ((extract_all x0)))),
    Eq.trans (extract_hi (x0 ++ x1 ++ x2) x3 16 8 (by decide))
      (Eq.trans (extract_hi (x0 ++ x1) x2 8 8 (by decide))
      (Eq.trans (extract_lo x0 x1 0 8 (by decide))
      ((extract_all x1)))),
    Eq.trans (extract_hi (x0 ++ x1 ++ x2) x3 8 8 (by decide))
      (Eq.trans (extract_lo (x0 ++ x1) x2 0 8 (by decide))
      ((extract_all x2))),
    Eq.trans (extract_lo (x0 ++ x1 ++ x2) x3 0 8 (by decide))
      ((extract_all x3))⟩

theorem RoundTrip.nop : RoundTrip.Statement .nop := by
  intro word hw
  rw [← Option.some.inj hw]
  rfl

theorem RoundTrip.bra (i : BitVec 24) : RoundTrip.Statement (.bra i) := by
  intro word hw
  rw [← Option.some.inj hw]
  have hf := fields_8_24 0x02#8 i
  refine decode_ok (.bra i) rfl ?_
  rw [decodeFields, hf.1]
  show some (Instr.bra (BitVec.extractLsb' 0 24 _)) = _
  rw [hf.2]

theorem RoundTrip.bany (n : BitVec 1) (p : BitVec 3) (i : BitVec 16) : RoundTrip.Statement (.bany n p i) := by
  intro word hw
  rw [← Option.some.inj hw]
  have hf := fields_8_4_1_3_16 0x03#8 0#4 n p i
  refine decode_ok (.bany n p i) rfl ?_
  rw [decodeFields, hf.1]
  show some (Instr.bany (BitVec.extractLsb' 19 1 _) (BitVec.extractLsb' 16 3 _) (BitVec.extractLsb' 0 16 _)) = _
  rw [hf.2.2.1, hf.2.2.2.1, hf.2.2.2.2]

theorem RoundTrip.ball (n : BitVec 1) (p : BitVec 3) (i : BitVec 16) : RoundTrip.Statement (.ball n p i) := by
  intro word hw
  rw [← Option.some.inj hw]
  have hf := fields_8_4_1_3_16 0x04#8 0#4 n p i
  refine decode_ok (.ball n p i) rfl ?_
  rw [decodeFields, hf.1]
  show some (Instr.ball (BitVec.extractLsb' 19 1 _) (BitVec.extractLsb' 16 3 _) (BitVec.extractLsb' 0 16 _)) = _
  rw [hf.2.2.1, hf.2.2.2.1, hf.2.2.2.2]

theorem RoundTrip.call (i : BitVec 24) : RoundTrip.Statement (.call i) := by
  intro word hw
  rw [← Option.some.inj hw]
  have hf := fields_8_24 0x05#8 i
  refine decode_ok (.call i) rfl ?_
  rw [decodeFields, hf.1]
  show some (Instr.call (BitVec.extractLsb' 0 24 _)) = _
  rw [hf.2]

theorem RoundTrip.ret (a : Reg) : RoundTrip.Statement (.ret a) := by
  intro word hw
  rw [← Option.some.inj hw]
  have hf := fields_8_8_8_8 0x06#8 0#8 a 0#8
  refine decode_ok (.ret a) rfl ?_
  rw [decodeFields, hf.1]
  show some (Instr.ret (BitVec.extractLsb' 8 8 _)) = _
  rw [hf.2.2.1]

theorem RoundTrip.brr (a : Reg) : RoundTrip.Statement (.brr a) := by
  intro word hw
  rw [← Option.some.inj hw]
  have hf := fields_8_8_8_8 0x07#8 0#8 a 0#8
  refine decode_ok (.brr a) rfl ?_
  rw [decodeFields, hf.1]
  show decodeBrr (BitVec.extractLsb' 16 8 _).toNat _ = _
  rw [hf.2.1]
  show some (Instr.brr (BitVec.extractLsb' 8 8 _)) = _
  rw [hf.2.2.1]

theorem RoundTrip.brrL (a : Reg) : RoundTrip.Statement (.brrL a) := by
  intro word hw
  rw [← Option.some.inj hw]
  have hf := fields_8_8_8_8 0x07#8 1#8 a 0#8
  refine decode_ok (.brrL a) rfl ?_
  rw [decodeFields, hf.1]
  show decodeBrr (BitVec.extractLsb' 16 8 _).toNat _ = _
  rw [hf.2.1]
  show some (Instr.brrL (BitVec.extractLsb' 8 8 _)) = _
  rw [hf.2.2.1]

theorem RoundTrip.ifP (n : BitVec 1) (p : BitVec 3) (i : BitVec 16) : RoundTrip.Statement (.ifP n p i) := by
  intro word hw
  rw [← Option.some.inj hw]
  have hf := fields_8_4_1_3_16 0x08#8 0#4 n p i
  refine decode_ok (.ifP n p i) rfl ?_
  rw [decodeFields, hf.1]
  show some (Instr.ifP (BitVec.extractLsb' 19 1 _) (BitVec.extractLsb' 16 3 _) (BitVec.extractLsb' 0 16 _)) = _
  rw [hf.2.2.1, hf.2.2.2.1, hf.2.2.2.2]

theorem RoundTrip.elseP (i : BitVec 16) : RoundTrip.Statement (.elseP i) := by
  intro word hw
  rw [← Option.some.inj hw]
  have hf := fields_8_8_16 0x09#8 0#8 i
  refine decode_ok (.elseP i) rfl ?_
  rw [decodeFields, hf.1]
  show some (Instr.elseP (BitVec.extractLsb' 0 16 _)) = _
  rw [hf.2.2]

theorem RoundTrip.endif : RoundTrip.Statement .endif := by
  intro word hw
  rw [← Option.some.inj hw]
  rfl

theorem RoundTrip.loop (c : Reg) (i : BitVec 16) : RoundTrip.Statement (.loop c i) := by
  intro word hw
  rw [← Option.some.inj hw]
  have hf := fields_8_8_16 0x0B#8 c i
  refine decode_ok (.loop c i) rfl ?_
  rw [decodeFields, hf.1]
  show some (Instr.loop (BitVec.extractLsb' 16 8 _) (BitVec.extractLsb' 0 16 _)) = _
  rw [hf.2.1, hf.2.2]

theorem RoundTrip.loopr (d : Reg) (i : BitVec 16) : RoundTrip.Statement (.loopr d i) := by
  intro word hw
  rw [← Option.some.inj hw]
  have hf := fields_8_8_16 0x0C#8 d i
  refine decode_ok (.loopr d i) rfl ?_
  rw [decodeFields, hf.1]
  show some (Instr.loopr (BitVec.extractLsb' 16 8 _) (BitVec.extractLsb' 0 16 _)) = _
  rw [hf.2.1, hf.2.2]

theorem RoundTrip.lbrk : RoundTrip.Statement .lbrk := by
  intro word hw
  rw [← Option.some.inj hw]
  rfl

theorem RoundTrip.regang : RoundTrip.Statement .regang := by
  intro word hw
  rw [← Option.some.inj hw]
  rfl

theorem RoundTrip.exit : RoundTrip.Statement .exit := by
  intro word hw
  rw [← Option.some.inj hw]
  rfl

theorem RoundTrip.yield : RoundTrip.Statement .yield := by
  intro word hw
  rw [← Option.some.inj hw]
  rfl

theorem RoundTrip.mode (i : BitVec 16) : RoundTrip.Statement (.mode i) := by
  intro word hw
  rw [← Option.some.inj hw]
  have hf := fields_8_8_16 0x11#8 0#8 i
  refine decode_ok (.mode i) rfl ?_
  rw [decodeFields, hf.1]
  show some (Instr.mode (BitVec.extractLsb' 0 16 _)) = _
  rw [hf.2.2]

theorem RoundTrip.mtype (t : BitVec 4) : RoundTrip.Statement (.mtype t) := by
  intro word hw
  rw [← Option.some.inj hw]
  have hf := fields_8_20_4 0x12#8 0#20 t
  refine decode_ok (.mtype t) rfl ?_
  rw [decodeFields, hf.1]
  show some (Instr.mtype (BitVec.extractLsb' 0 4 _)) = _
  rw [hf.2.2]

theorem RoundTrip.mrnd (r : BitVec 3) : RoundTrip.Statement (.mrnd r) := by
  intro word hw
  rw [← Option.some.inj hw]
  have hf := fields_8_21_3 0x13#8 0#21 r
  refine decode_ok (.mrnd r) rfl ?_
  rw [decodeFields, hf.1]
  show some (Instr.mrnd (BitVec.extractLsb' 0 3 _)) = _
  rw [hf.2.2]

theorem RoundTrip.mguard (g : BitVec 1) (n : BitVec 1) (p : BitVec 3) : RoundTrip.Statement (.mguard g n p) := by
  intro word hw
  rw [← Option.some.inj hw]
  have hf := fields_8_19_1_1_3 0x14#8 0#19 g n p
  refine decode_ok (.mguard g n p) rfl ?_
  rw [decodeFields, hf.1]
  show some (Instr.mguard (BitVec.extractLsb' 4 1 _) (BitVec.extractLsb' 3 1 _) (BitVec.extractLsb' 0 3 _)) = _
  rw [hf.2.2.1, hf.2.2.2.1, hf.2.2.2.2]

theorem RoundTrip.mfs (d : Reg) (sr : BitVec 10) : RoundTrip.Statement (.mfs d sr) := by
  intro word hw
  rw [← Option.some.inj hw]
  have hf := fields_8_8_6_10 0x15#8 d 0#6 sr
  refine decode_ok (.mfs d sr) rfl ?_
  rw [decodeFields, hf.1]
  show some (Instr.mfs (BitVec.extractLsb' 16 8 _) (BitVec.extractLsb' 0 10 _)) = _
  rw [hf.2.1, hf.2.2.2]

theorem RoundTrip.mts (d : Reg) (sr : BitVec 10) : RoundTrip.Statement (.mts d sr) := by
  intro word hw
  rw [← Option.some.inj hw]
  have hf := fields_8_8_6_10 0x16#8 d 0#6 sr
  refine decode_ok (.mts d sr) rfl ?_
  rw [decodeFields, hf.1]
  show some (Instr.mts (BitVec.extractLsb' 16 8 _) (BitVec.extractLsb' 0 10 _)) = _
  rw [hf.2.1, hf.2.2.2]

theorem RoundTrip.trap (i : BitVec 16) : RoundTrip.Statement (.trap i) := by
  intro word hw
  rw [← Option.some.inj hw]
  have hf := fields_8_8_16 0x17#8 0#8 i
  refine decode_ok (.trap i) rfl ?_
  rw [decodeFields, hf.1]
  show some (Instr.trap (BitVec.extractLsb' 0 16 _)) = _
  rw [hf.2.2]

theorem RoundTrip.rti : RoundTrip.Statement .rti := by
  intro word hw
  rw [← Option.some.inj hw]
  rfl

theorem RoundTrip.sysKill : RoundTrip.Statement .sysKill := by
  intro word hw
  rw [← Option.some.inj hw]
  rfl

theorem RoundTrip.sysAbort (n : Reg) : RoundTrip.Statement (.sysAbort n) := by
  intro word hw
  rw [← Option.some.inj hw]
  have hf := fields_8_8_8_8 0x19#8 2#8 n 0#8
  refine decode_ok (.sysAbort n) rfl ?_
  rw [decodeFields, hf.1]
  show decodeSys (BitVec.extractLsb' 16 8 _).toNat _ = _
  rw [hf.2.1]
  show some (Instr.sysAbort (BitVec.extractLsb' 8 8 _)) = _
  rw [hf.2.2.1]

theorem RoundTrip.brk (i : BitVec 16) : RoundTrip.Statement (.brk i) := by
  intro word hw
  rw [← Option.some.inj hw]
  have hf := fields_8_8_16 0x1A#8 0#8 i
  refine decode_ok (.brk i) rfl ?_
  rw [decodeFields, hf.1]
  show some (Instr.brk (BitVec.extractLsb' 0 16 _)) = _
  rw [hf.2.2]

theorem RoundTrip.pause (i : BitVec 16) : RoundTrip.Statement (.pause i) := by
  intro word hw
  rw [← Option.some.inj hw]
  have hf := fields_8_8_16 0x1B#8 0#8 i
  refine decode_ok (.pause i) rfl ?_
  rw [decodeFields, hf.1]
  show some (Instr.pause (BitVec.extractLsb' 0 16 _)) = _
  rw [hf.2.2]

theorem RoundTrip.add (d : Reg) (a : Reg) (b : Reg) : RoundTrip.Statement (.add d a b) := by
  intro word hw
  rw [← Option.some.inj hw]
  have hf := fields_8_8_8_8 0x20#8 d a b
  refine decode_ok (.add d a b) rfl ?_
  rw [decodeFields, hf.1]
  show some (Instr.add (BitVec.extractLsb' 16 8 _) (BitVec.extractLsb' 8 8 _) (BitVec.extractLsb' 0 8 _)) = _
  rw [hf.2.1, hf.2.2.1, hf.2.2.2]

theorem RoundTrip.sub (d : Reg) (a : Reg) (b : Reg) : RoundTrip.Statement (.sub d a b) := by
  intro word hw
  rw [← Option.some.inj hw]
  have hf := fields_8_8_8_8 0x21#8 d a b
  refine decode_ok (.sub d a b) rfl ?_
  rw [decodeFields, hf.1]
  show some (Instr.sub (BitVec.extractLsb' 16 8 _) (BitVec.extractLsb' 8 8 _) (BitVec.extractLsb' 0 8 _)) = _
  rw [hf.2.1, hf.2.2.1, hf.2.2.2]

theorem RoundTrip.mul (d : Reg) (a : Reg) (b : Reg) : RoundTrip.Statement (.mul d a b) := by
  intro word hw
  rw [← Option.some.inj hw]
  have hf := fields_8_8_8_8 0x22#8 d a b
  refine decode_ok (.mul d a b) rfl ?_
  rw [decodeFields, hf.1]
  show some (Instr.mul (BitVec.extractLsb' 16 8 _) (BitVec.extractLsb' 8 8 _) (BitVec.extractLsb' 0 8 _)) = _
  rw [hf.2.1, hf.2.2.1, hf.2.2.2]

theorem RoundTrip.mulhi (d : Reg) (a : Reg) (b : Reg) : RoundTrip.Statement (.mulhi d a b) := by
  intro word hw
  rw [← Option.some.inj hw]
  have hf := fields_8_8_8_8 0x23#8 d a b
  refine decode_ok (.mulhi d a b) rfl ?_
  rw [decodeFields, hf.1]
  show some (Instr.mulhi (BitVec.extractLsb' 16 8 _) (BitVec.extractLsb' 8 8 _) (BitVec.extractLsb' 0 8 _)) = _
  rw [hf.2.1, hf.2.2.1, hf.2.2.2]

theorem RoundTrip.mad (d : Reg) (a : Reg) (b : Reg) : RoundTrip.Statement (.mad d a b) := by
  intro word hw
  rw [← Option.some.inj hw]
  have hf := fields_8_8_8_8 0x24#8 d a b
  refine decode_ok (.mad d a b) rfl ?_
  rw [decodeFields, hf.1]
  show some (Instr.mad (BitVec.extractLsb' 16 8 _) (BitVec.extractLsb' 8 8 _) (BitVec.extractLsb' 0 8 _)) = _
  rw [hf.2.1, hf.2.2.1, hf.2.2.2]

theorem RoundTrip.div (d : Reg) (a : Reg) (b : Reg) : RoundTrip.Statement (.div d a b) := by
  intro word hw
  rw [← Option.some.inj hw]
  have hf := fields_8_8_8_8 0x25#8 d a b
  refine decode_ok (.div d a b) rfl ?_
  rw [decodeFields, hf.1]
  show some (Instr.div (BitVec.extractLsb' 16 8 _) (BitVec.extractLsb' 8 8 _) (BitVec.extractLsb' 0 8 _)) = _
  rw [hf.2.1, hf.2.2.1, hf.2.2.2]

theorem RoundTrip.rem (d : Reg) (a : Reg) (b : Reg) : RoundTrip.Statement (.rem d a b) := by
  intro word hw
  rw [← Option.some.inj hw]
  have hf := fields_8_8_8_8 0x26#8 d a b
  refine decode_ok (.rem d a b) rfl ?_
  rw [decodeFields, hf.1]
  show some (Instr.rem (BitVec.extractLsb' 16 8 _) (BitVec.extractLsb' 8 8 _) (BitVec.extractLsb' 0 8 _)) = _
  rw [hf.2.1, hf.2.2.1, hf.2.2.2]

theorem RoundTrip.neg (d : Reg) (a : Reg) : RoundTrip.Statement (.neg d a) := by
  intro word hw
  rw [← Option.some.inj hw]
  have hf := fields_8_8_8_8 0x27#8 d a 0#8
  refine decode_ok (.neg d a) rfl ?_
  rw [decodeFields, hf.1]
  show some (Instr.neg (BitVec.extractLsb' 16 8 _) (BitVec.extractLsb' 8 8 _)) = _
  rw [hf.2.1, hf.2.2.1]

theorem RoundTrip.abs (d : Reg) (a : Reg) : RoundTrip.Statement (.abs d a) := by
  intro word hw
  rw [← Option.some.inj hw]
  have hf := fields_8_8_8_8 0x28#8 d a 0#8
  refine decode_ok (.abs d a) rfl ?_
  rw [decodeFields, hf.1]
  show some (Instr.abs (BitVec.extractLsb' 16 8 _) (BitVec.extractLsb' 8 8 _)) = _
  rw [hf.2.1, hf.2.2.1]

theorem RoundTrip.min (d : Reg) (a : Reg) (b : Reg) : RoundTrip.Statement (.min d a b) := by
  intro word hw
  rw [← Option.some.inj hw]
  have hf := fields_8_8_8_8 0x29#8 d a b
  refine decode_ok (.min d a b) rfl ?_
  rw [decodeFields, hf.1]
  show some (Instr.min (BitVec.extractLsb' 16 8 _) (BitVec.extractLsb' 8 8 _) (BitVec.extractLsb' 0 8 _)) = _
  rw [hf.2.1, hf.2.2.1, hf.2.2.2]

theorem RoundTrip.max (d : Reg) (a : Reg) (b : Reg) : RoundTrip.Statement (.max d a b) := by
  intro word hw
  rw [← Option.some.inj hw]
  have hf := fields_8_8_8_8 0x2A#8 d a b
  refine decode_ok (.max d a b) rfl ?_
  rw [decodeFields, hf.1]
  show some (Instr.max (BitVec.extractLsb' 16 8 _) (BitVec.extractLsb' 8 8 _) (BitVec.extractLsb' 0 8 _)) = _
  rw [hf.2.1, hf.2.2.1, hf.2.2.2]

theorem RoundTrip.and (d : Reg) (a : Reg) (b : Reg) : RoundTrip.Statement (.and d a b) := by
  intro word hw
  rw [← Option.some.inj hw]
  have hf := fields_8_8_8_8 0x2B#8 d a b
  refine decode_ok (.and d a b) rfl ?_
  rw [decodeFields, hf.1]
  show some (Instr.and (BitVec.extractLsb' 16 8 _) (BitVec.extractLsb' 8 8 _) (BitVec.extractLsb' 0 8 _)) = _
  rw [hf.2.1, hf.2.2.1, hf.2.2.2]

theorem RoundTrip.or (d : Reg) (a : Reg) (b : Reg) : RoundTrip.Statement (.or d a b) := by
  intro word hw
  rw [← Option.some.inj hw]
  have hf := fields_8_8_8_8 0x2C#8 d a b
  refine decode_ok (.or d a b) rfl ?_
  rw [decodeFields, hf.1]
  show some (Instr.or (BitVec.extractLsb' 16 8 _) (BitVec.extractLsb' 8 8 _) (BitVec.extractLsb' 0 8 _)) = _
  rw [hf.2.1, hf.2.2.1, hf.2.2.2]

theorem RoundTrip.xor (d : Reg) (a : Reg) (b : Reg) : RoundTrip.Statement (.xor d a b) := by
  intro word hw
  rw [← Option.some.inj hw]
  have hf := fields_8_8_8_8 0x2D#8 d a b
  refine decode_ok (.xor d a b) rfl ?_
  rw [decodeFields, hf.1]
  show some (Instr.xor (BitVec.extractLsb' 16 8 _) (BitVec.extractLsb' 8 8 _) (BitVec.extractLsb' 0 8 _)) = _
  rw [hf.2.1, hf.2.2.1, hf.2.2.2]

theorem RoundTrip.not (d : Reg) (a : Reg) : RoundTrip.Statement (.not d a) := by
  intro word hw
  rw [← Option.some.inj hw]
  have hf := fields_8_8_8_8 0x2E#8 d a 0#8
  refine decode_ok (.not d a) rfl ?_
  rw [decodeFields, hf.1]
  show some (Instr.not (BitVec.extractLsb' 16 8 _) (BitVec.extractLsb' 8 8 _)) = _
  rw [hf.2.1, hf.2.2.1]

theorem RoundTrip.andn (d : Reg) (a : Reg) (b : Reg) : RoundTrip.Statement (.andn d a b) := by
  intro word hw
  rw [← Option.some.inj hw]
  have hf := fields_8_8_8_8 0x2F#8 d a b
  refine decode_ok (.andn d a b) rfl ?_
  rw [decodeFields, hf.1]
  show some (Instr.andn (BitVec.extractLsb' 16 8 _) (BitVec.extractLsb' 8 8 _) (BitVec.extractLsb' 0 8 _)) = _
  rw [hf.2.1, hf.2.2.1, hf.2.2.2]

theorem RoundTrip.shl (d : Reg) (a : Reg) (b : Reg) : RoundTrip.Statement (.shl d a b) := by
  intro word hw
  rw [← Option.some.inj hw]
  have hf := fields_8_8_8_8 0x30#8 d a b
  refine decode_ok (.shl d a b) rfl ?_
  rw [decodeFields, hf.1]
  show some (Instr.shl (BitVec.extractLsb' 16 8 _) (BitVec.extractLsb' 8 8 _) (BitVec.extractLsb' 0 8 _)) = _
  rw [hf.2.1, hf.2.2.1, hf.2.2.2]

theorem RoundTrip.shr (d : Reg) (a : Reg) (b : Reg) : RoundTrip.Statement (.shr d a b) := by
  intro word hw
  rw [← Option.some.inj hw]
  have hf := fields_8_8_8_8 0x31#8 d a b
  refine decode_ok (.shr d a b) rfl ?_
  rw [decodeFields, hf.1]
  show some (Instr.shr (BitVec.extractLsb' 16 8 _) (BitVec.extractLsb' 8 8 _) (BitVec.extractLsb' 0 8 _)) = _
  rw [hf.2.1, hf.2.2.1, hf.2.2.2]

theorem RoundTrip.sar (d : Reg) (a : Reg) (b : Reg) : RoundTrip.Statement (.sar d a b) := by
  intro word hw
  rw [← Option.some.inj hw]
  have hf := fields_8_8_8_8 0x32#8 d a b
  refine decode_ok (.sar d a b) rfl ?_
  rw [decodeFields, hf.1]
  show some (Instr.sar (BitVec.extractLsb' 16 8 _) (BitVec.extractLsb' 8 8 _) (BitVec.extractLsb' 0 8 _)) = _
  rw [hf.2.1, hf.2.2.1, hf.2.2.2]

theorem RoundTrip.rol (d : Reg) (a : Reg) (b : Reg) : RoundTrip.Statement (.rol d a b) := by
  intro word hw
  rw [← Option.some.inj hw]
  have hf := fields_8_8_8_8 0x33#8 d a b
  refine decode_ok (.rol d a b) rfl ?_
  rw [decodeFields, hf.1]
  show some (Instr.rol (BitVec.extractLsb' 16 8 _) (BitVec.extractLsb' 8 8 _) (BitVec.extractLsb' 0 8 _)) = _
  rw [hf.2.1, hf.2.2.1, hf.2.2.2]

theorem RoundTrip.ror (d : Reg) (a : Reg) (b : Reg) : RoundTrip.Statement (.ror d a b) := by
  intro word hw
  rw [← Option.some.inj hw]
  have hf := fields_8_8_8_8 0x34#8 d a b
  refine decode_ok (.ror d a b) rfl ?_
  rw [decodeFields, hf.1]
  show some (Instr.ror (BitVec.extractLsb' 16 8 _) (BitVec.extractLsb' 8 8 _) (BitVec.extractLsb' 0 8 _)) = _
  rw [hf.2.1, hf.2.2.1, hf.2.2.2]

theorem RoundTrip.popc (d : Reg) (a : Reg) : RoundTrip.Statement (.popc d a) := by
  intro word hw
  rw [← Option.some.inj hw]
  have hf := fields_8_8_8_8 0x35#8 d a 0#8
  refine decode_ok (.popc d a) rfl ?_
  rw [decodeFields, hf.1]
  show some (Instr.popc (BitVec.extractLsb' 16 8 _) (BitVec.extractLsb' 8 8 _)) = _
  rw [hf.2.1, hf.2.2.1]

theorem RoundTrip.clz (d : Reg) (a : Reg) : RoundTrip.Statement (.clz d a) := by
  intro word hw
  rw [← Option.some.inj hw]
  have hf := fields_8_8_8_8 0x36#8 d a 0#8
  refine decode_ok (.clz d a) rfl ?_
  rw [decodeFields, hf.1]
  show some (Instr.clz (BitVec.extractLsb' 16 8 _) (BitVec.extractLsb' 8 8 _)) = _
  rw [hf.2.1, hf.2.2.1]

theorem RoundTrip.ctz (d : Reg) (a : Reg) : RoundTrip.Statement (.ctz d a) := by
  intro word hw
  rw [← Option.some.inj hw]
  have hf := fields_8_8_8_8 0x37#8 d a 0#8
  refine decode_ok (.ctz d a) rfl ?_
  rw [decodeFields, hf.1]
  show some (Instr.ctz (BitVec.extractLsb' 16 8 _) (BitVec.extractLsb' 8 8 _)) = _
  rw [hf.2.1, hf.2.2.1]

theorem RoundTrip.brev (d : Reg) (a : Reg) : RoundTrip.Statement (.brev d a) := by
  intro word hw
  rw [← Option.some.inj hw]
  have hf := fields_8_8_8_8 0x38#8 d a 0#8
  refine decode_ok (.brev d a) rfl ?_
  rw [decodeFields, hf.1]
  show some (Instr.brev (BitVec.extractLsb' 16 8 _) (BitVec.extractLsb' 8 8 _)) = _
  rw [hf.2.1, hf.2.2.1]

theorem RoundTrip.bfx (d : Reg) (a : Reg) (b : Reg) : RoundTrip.Statement (.bfx d a b) := by
  intro word hw
  rw [← Option.some.inj hw]
  have hf := fields_8_8_8_8 0x39#8 d a b
  refine decode_ok (.bfx d a b) rfl ?_
  rw [decodeFields, hf.1]
  show some (Instr.bfx (BitVec.extractLsb' 16 8 _) (BitVec.extractLsb' 8 8 _) (BitVec.extractLsb' 0 8 _)) = _
  rw [hf.2.1, hf.2.2.1, hf.2.2.2]

theorem RoundTrip.bfi (d : Reg) (a : Reg) (b : Reg) : RoundTrip.Statement (.bfi d a b) := by
  intro word hw
  rw [← Option.some.inj hw]
  have hf := fields_8_8_8_8 0x3A#8 d a b
  refine decode_ok (.bfi d a b) rfl ?_
  rw [decodeFields, hf.1]
  show some (Instr.bfi (BitVec.extractLsb' 16 8 _) (BitVec.extractLsb' 8 8 _) (BitVec.extractLsb' 0 8 _)) = _
  rw [hf.2.1, hf.2.2.1, hf.2.2.2]

theorem RoundTrip.mov (d : Reg) (b : Reg) : RoundTrip.Statement (.mov d b) := by
  intro word hw
  rw [← Option.some.inj hw]
  have hf := fields_8_8_8_8 0x3B#8 d 0#8 b
  refine decode_ok (.mov d b) rfl ?_
  rw [decodeFields, hf.1]
  show some (Instr.mov (BitVec.extractLsb' 16 8 _) (BitVec.extractLsb' 0 8 _)) = _
  rw [hf.2.1, hf.2.2.2]

theorem RoundTrip.movi (d : Reg) (i : BitVec 16) : RoundTrip.Statement (.movi d i) := by
  intro word hw
  rw [← Option.some.inj hw]
  have hf := fields_8_8_16 0x3C#8 d i
  refine decode_ok (.movi d i) rfl ?_
  rw [decodeFields, hf.1]
  show some (Instr.movi (BitVec.extractLsb' 16 8 _) (BitVec.extractLsb' 0 16 _)) = _
  rw [hf.2.1, hf.2.2]

theorem RoundTrip.movhi (d : Reg) (i : BitVec 16) : RoundTrip.Statement (.movhi d i) := by
  intro word hw
  rw [← Option.some.inj hw]
  have hf := fields_8_8_16 0x3D#8 d i
  refine decode_ok (.movhi d i) rfl ?_
  rw [decodeFields, hf.1]
  show some (Instr.movhi (BitVec.extractLsb' 16 8 _) (BitVec.extractLsb' 0 16 _)) = _
  rw [hf.2.1, hf.2.2]

theorem RoundTrip.addi (d : Reg) (i : BitVec 16) : RoundTrip.Statement (.addi d i) := by
  intro word hw
  rw [← Option.some.inj hw]
  have hf := fields_8_8_16 0x3E#8 d i
  refine decode_ok (.addi d i) rfl ?_
  rw [decodeFields, hf.1]
  show some (Instr.addi (BitVec.extractLsb' 16 8 _) (BitVec.extractLsb' 0 16 _)) = _
  rw [hf.2.1, hf.2.2]

theorem RoundTrip.fadd (d : Reg) (a : Reg) (b : Reg) : RoundTrip.Statement (.fadd d a b) := by
  intro word hw
  rw [← Option.some.inj hw]
  have hf := fields_8_8_8_8 0x60#8 d a b
  refine decode_ok (.fadd d a b) rfl ?_
  rw [decodeFields, hf.1]
  show some (Instr.fadd (BitVec.extractLsb' 16 8 _) (BitVec.extractLsb' 8 8 _) (BitVec.extractLsb' 0 8 _)) = _
  rw [hf.2.1, hf.2.2.1, hf.2.2.2]

theorem RoundTrip.fsub (d : Reg) (a : Reg) (b : Reg) : RoundTrip.Statement (.fsub d a b) := by
  intro word hw
  rw [← Option.some.inj hw]
  have hf := fields_8_8_8_8 0x61#8 d a b
  refine decode_ok (.fsub d a b) rfl ?_
  rw [decodeFields, hf.1]
  show some (Instr.fsub (BitVec.extractLsb' 16 8 _) (BitVec.extractLsb' 8 8 _) (BitVec.extractLsb' 0 8 _)) = _
  rw [hf.2.1, hf.2.2.1, hf.2.2.2]

theorem RoundTrip.fmul (d : Reg) (a : Reg) (b : Reg) : RoundTrip.Statement (.fmul d a b) := by
  intro word hw
  rw [← Option.some.inj hw]
  have hf := fields_8_8_8_8 0x62#8 d a b
  refine decode_ok (.fmul d a b) rfl ?_
  rw [decodeFields, hf.1]
  show some (Instr.fmul (BitVec.extractLsb' 16 8 _) (BitVec.extractLsb' 8 8 _) (BitVec.extractLsb' 0 8 _)) = _
  rw [hf.2.1, hf.2.2.1, hf.2.2.2]

theorem RoundTrip.fma (d : Reg) (a : Reg) (b : Reg) : RoundTrip.Statement (.fma d a b) := by
  intro word hw
  rw [← Option.some.inj hw]
  have hf := fields_8_8_8_8 0x63#8 d a b
  refine decode_ok (.fma d a b) rfl ?_
  rw [decodeFields, hf.1]
  show some (Instr.fma (BitVec.extractLsb' 16 8 _) (BitVec.extractLsb' 8 8 _) (BitVec.extractLsb' 0 8 _)) = _
  rw [hf.2.1, hf.2.2.1, hf.2.2.2]

theorem RoundTrip.fms (d : Reg) (a : Reg) (b : Reg) : RoundTrip.Statement (.fms d a b) := by
  intro word hw
  rw [← Option.some.inj hw]
  have hf := fields_8_8_8_8 0x64#8 d a b
  refine decode_ok (.fms d a b) rfl ?_
  rw [decodeFields, hf.1]
  show some (Instr.fms (BitVec.extractLsb' 16 8 _) (BitVec.extractLsb' 8 8 _) (BitVec.extractLsb' 0 8 _)) = _
  rw [hf.2.1, hf.2.2.1, hf.2.2.2]

theorem RoundTrip.fnma (d : Reg) (a : Reg) (b : Reg) : RoundTrip.Statement (.fnma d a b) := by
  intro word hw
  rw [← Option.some.inj hw]
  have hf := fields_8_8_8_8 0x65#8 d a b
  refine decode_ok (.fnma d a b) rfl ?_
  rw [decodeFields, hf.1]
  show some (Instr.fnma (BitVec.extractLsb' 16 8 _) (BitVec.extractLsb' 8 8 _) (BitVec.extractLsb' 0 8 _)) = _
  rw [hf.2.1, hf.2.2.1, hf.2.2.2]

theorem RoundTrip.fmin (d : Reg) (a : Reg) (b : Reg) : RoundTrip.Statement (.fmin d a b) := by
  intro word hw
  rw [← Option.some.inj hw]
  have hf := fields_8_8_8_8 0x66#8 d a b
  refine decode_ok (.fmin d a b) rfl ?_
  rw [decodeFields, hf.1]
  show some (Instr.fmin (BitVec.extractLsb' 16 8 _) (BitVec.extractLsb' 8 8 _) (BitVec.extractLsb' 0 8 _)) = _
  rw [hf.2.1, hf.2.2.1, hf.2.2.2]

theorem RoundTrip.fmax (d : Reg) (a : Reg) (b : Reg) : RoundTrip.Statement (.fmax d a b) := by
  intro word hw
  rw [← Option.some.inj hw]
  have hf := fields_8_8_8_8 0x67#8 d a b
  refine decode_ok (.fmax d a b) rfl ?_
  rw [decodeFields, hf.1]
  show some (Instr.fmax (BitVec.extractLsb' 16 8 _) (BitVec.extractLsb' 8 8 _) (BitVec.extractLsb' 0 8 _)) = _
  rw [hf.2.1, hf.2.2.1, hf.2.2.2]

theorem RoundTrip.fabs (d : Reg) (a : Reg) : RoundTrip.Statement (.fabs d a) := by
  intro word hw
  rw [← Option.some.inj hw]
  have hf := fields_8_8_8_8 0x68#8 d a 0#8
  refine decode_ok (.fabs d a) rfl ?_
  rw [decodeFields, hf.1]
  show some (Instr.fabs (BitVec.extractLsb' 16 8 _) (BitVec.extractLsb' 8 8 _)) = _
  rw [hf.2.1, hf.2.2.1]

theorem RoundTrip.fneg (d : Reg) (a : Reg) : RoundTrip.Statement (.fneg d a) := by
  intro word hw
  rw [← Option.some.inj hw]
  have hf := fields_8_8_8_8 0x69#8 d a 0#8
  refine decode_ok (.fneg d a) rfl ?_
  rw [decodeFields, hf.1]
  show some (Instr.fneg (BitVec.extractLsb' 16 8 _) (BitVec.extractLsb' 8 8 _)) = _
  rw [hf.2.1, hf.2.2.1]

theorem RoundTrip.fcps (d : Reg) (a : Reg) (b : Reg) : RoundTrip.Statement (.fcps d a b) := by
  intro word hw
  rw [← Option.some.inj hw]
  have hf := fields_8_8_8_8 0x6A#8 d a b
  refine decode_ok (.fcps d a b) rfl ?_
  rw [decodeFields, hf.1]
  show some (Instr.fcps (BitVec.extractLsb' 16 8 _) (BitVec.extractLsb' 8 8 _) (BitVec.extractLsb' 0 8 _)) = _
  rw [hf.2.1, hf.2.2.1, hf.2.2.2]

theorem RoundTrip.fdiv (d : Reg) (a : Reg) (b : Reg) : RoundTrip.Statement (.fdiv d a b) := by
  intro word hw
  rw [← Option.some.inj hw]
  have hf := fields_8_8_8_8 0x6B#8 d a b
  refine decode_ok (.fdiv d a b) rfl ?_
  rw [decodeFields, hf.1]
  show some (Instr.fdiv (BitVec.extractLsb' 16 8 _) (BitVec.extractLsb' 8 8 _) (BitVec.extractLsb' 0 8 _)) = _
  rw [hf.2.1, hf.2.2.1, hf.2.2.2]

theorem RoundTrip.rcp (d : Reg) (a : Reg) : RoundTrip.Statement (.rcp d a) := by
  intro word hw
  rw [← Option.some.inj hw]
  have hf := fields_8_8_8_8 0x6C#8 d a 0#8
  refine decode_ok (.rcp d a) rfl ?_
  rw [decodeFields, hf.1]
  show some (Instr.rcp (BitVec.extractLsb' 16 8 _) (BitVec.extractLsb' 8 8 _)) = _
  rw [hf.2.1, hf.2.2.1]

theorem RoundTrip.rsq (d : Reg) (a : Reg) : RoundTrip.Statement (.rsq d a) := by
  intro word hw
  rw [← Option.some.inj hw]
  have hf := fields_8_8_8_8 0x6D#8 d a 0#8
  refine decode_ok (.rsq d a) rfl ?_
  rw [decodeFields, hf.1]
  show some (Instr.rsq (BitVec.extractLsb' 16 8 _) (BitVec.extractLsb' 8 8 _)) = _
  rw [hf.2.1, hf.2.2.1]

theorem RoundTrip.sqrt (d : Reg) (a : Reg) : RoundTrip.Statement (.sqrt d a) := by
  intro word hw
  rw [← Option.some.inj hw]
  have hf := fields_8_8_8_8 0x6E#8 d a 0#8
  refine decode_ok (.sqrt d a) rfl ?_
  rw [decodeFields, hf.1]
  show some (Instr.sqrt (BitVec.extractLsb' 16 8 _) (BitVec.extractLsb' 8 8 _)) = _
  rw [hf.2.1, hf.2.2.1]

theorem RoundTrip.exp2 (d : Reg) (a : Reg) : RoundTrip.Statement (.exp2 d a) := by
  intro word hw
  rw [← Option.some.inj hw]
  have hf := fields_8_8_8_8 0x6F#8 d a 0#8
  refine decode_ok (.exp2 d a) rfl ?_
  rw [decodeFields, hf.1]
  show some (Instr.exp2 (BitVec.extractLsb' 16 8 _) (BitVec.extractLsb' 8 8 _)) = _
  rw [hf.2.1, hf.2.2.1]

theorem RoundTrip.log2 (d : Reg) (a : Reg) : RoundTrip.Statement (.log2 d a) := by
  intro word hw
  rw [← Option.some.inj hw]
  have hf := fields_8_8_8_8 0x70#8 d a 0#8
  refine decode_ok (.log2 d a) rfl ?_
  rw [decodeFields, hf.1]
  show some (Instr.log2 (BitVec.extractLsb' 16 8 _) (BitVec.extractLsb' 8 8 _)) = _
  rw [hf.2.1, hf.2.2.1]

theorem RoundTrip.sinpi (d : Reg) (a : Reg) : RoundTrip.Statement (.sinpi d a) := by
  intro word hw
  rw [← Option.some.inj hw]
  have hf := fields_8_8_8_8 0x71#8 d a 0#8
  refine decode_ok (.sinpi d a) rfl ?_
  rw [decodeFields, hf.1]
  show some (Instr.sinpi (BitVec.extractLsb' 16 8 _) (BitVec.extractLsb' 8 8 _)) = _
  rw [hf.2.1, hf.2.2.1]

theorem RoundTrip.cospi (d : Reg) (a : Reg) : RoundTrip.Statement (.cospi d a) := by
  intro word hw
  rw [← Option.some.inj hw]
  have hf := fields_8_8_8_8 0x72#8 d a 0#8
  refine decode_ok (.cospi d a) rfl ?_
  rw [decodeFields, hf.1]
  show some (Instr.cospi (BitVec.extractLsb' 16 8 _) (BitVec.extractLsb' 8 8 _)) = _
  rw [hf.2.1, hf.2.2.1]

theorem RoundTrip.tanh (d : Reg) (a : Reg) : RoundTrip.Statement (.tanh d a) := by
  intro word hw
  rw [← Option.some.inj hw]
  have hf := fields_8_8_8_8 0x73#8 d a 0#8
  refine decode_ok (.tanh d a) rfl ?_
  rw [decodeFields, hf.1]
  show some (Instr.tanh (BitVec.extractLsb' 16 8 _) (BitVec.extractLsb' 8 8 _)) = _
  rw [hf.2.1, hf.2.2.1]

theorem RoundTrip.frnd (d : Reg) (a : Reg) : RoundTrip.Statement (.frnd d a) := by
  intro word hw
  rw [← Option.some.inj hw]
  have hf := fields_8_8_8_8 0x74#8 d a 0#8
  refine decode_ok (.frnd d a) rfl ?_
  rw [decodeFields, hf.1]
  show some (Instr.frnd (BitVec.extractLsb' 16 8 _) (BitVec.extractLsb' 8 8 _)) = _
  rw [hf.2.1, hf.2.2.1]

theorem RoundTrip.fract (d : Reg) (a : Reg) : RoundTrip.Statement (.fract d a) := by
  intro word hw
  rw [← Option.some.inj hw]
  have hf := fields_8_8_8_8 0x75#8 d a 0#8
  refine decode_ok (.fract d a) rfl ?_
  rw [decodeFields, hf.1]
  show some (Instr.fract (BitVec.extractLsb' 16 8 _) (BitVec.extractLsb' 8 8 _)) = _
  rw [hf.2.1, hf.2.2.1]

theorem RoundTrip.ldexp (d : Reg) (a : Reg) (b : Reg) : RoundTrip.Statement (.ldexp d a b) := by
  intro word hw
  rw [← Option.some.inj hw]
  have hf := fields_8_8_8_8 0x76#8 d a b
  refine decode_ok (.ldexp d a b) rfl ?_
  rw [decodeFields, hf.1]
  show some (Instr.ldexp (BitVec.extractLsb' 16 8 _) (BitVec.extractLsb' 8 8 _) (BitVec.extractLsb' 0 8 _)) = _
  rw [hf.2.1, hf.2.2.1, hf.2.2.2]

theorem RoundTrip.fclass (d : Reg) (a : Reg) : RoundTrip.Statement (.fclass d a) := by
  intro word hw
  rw [← Option.some.inj hw]
  have hf := fields_8_8_8_8 0x77#8 d a 0#8
  refine decode_ok (.fclass d a) rfl ?_
  rw [decodeFields, hf.1]
  show some (Instr.fclass (BitVec.extractLsb' 16 8 _) (BitVec.extractLsb' 8 8 _)) = _
  rw [hf.2.1, hf.2.2.1]

theorem RoundTrip.fdot (d : Reg) (a : Reg) (b : Reg) : RoundTrip.Statement (.fdot d a b) := by
  intro word hw
  rw [← Option.some.inj hw]
  have hf := fields_8_8_8_8 0x78#8 d a b
  refine decode_ok (.fdot d a b) rfl ?_
  rw [decodeFields, hf.1]
  show some (Instr.fdot (BitVec.extractLsb' 16 8 _) (BitVec.extractLsb' 8 8 _) (BitVec.extractLsb' 0 8 _)) = _
  rw [hf.2.1, hf.2.2.1, hf.2.2.2]

theorem RoundTrip.cvt (d : Reg) (a : Reg) (k : BitVec 3) (t : BitVec 4) : RoundTrip.Statement (.cvt d a k t) := by
  intro word hw
  rw [← Option.some.inj hw]
  have hf := fields_8_8_8_1_3_4 0x80#8 d a 0#1 k t
  refine decode_ok (.cvt d a k t) rfl ?_
  rw [decodeFields, hf.1]
  show some (Instr.cvt (BitVec.extractLsb' 16 8 _) (BitVec.extractLsb' 8 8 _) (BitVec.extractLsb' 4 3 _) (BitVec.extractLsb' 0 4 _)) = _
  rw [hf.2.1, hf.2.2.1, hf.2.2.2.2.1, hf.2.2.2.2.2]

theorem RoundTrip.cvtfi (d : Reg) (a : Reg) (k : BitVec 3) (t : BitVec 4) : RoundTrip.Statement (.cvtfi d a k t) := by
  intro word hw
  rw [← Option.some.inj hw]
  have hf := fields_8_8_8_1_3_4 0x81#8 d a 0#1 k t
  refine decode_ok (.cvtfi d a k t) rfl ?_
  rw [decodeFields, hf.1]
  show some (Instr.cvtfi (BitVec.extractLsb' 16 8 _) (BitVec.extractLsb' 8 8 _) (BitVec.extractLsb' 4 3 _) (BitVec.extractLsb' 0 4 _)) = _
  rw [hf.2.1, hf.2.2.1, hf.2.2.2.2.1, hf.2.2.2.2.2]

theorem RoundTrip.cvtif (d : Reg) (a : Reg) (k : BitVec 3) (t : BitVec 4) : RoundTrip.Statement (.cvtif d a k t) := by
  intro word hw
  rw [← Option.some.inj hw]
  have hf := fields_8_8_8_1_3_4 0x82#8 d a 0#1 k t
  refine decode_ok (.cvtif d a k t) rfl ?_
  rw [decodeFields, hf.1]
  show some (Instr.cvtif (BitVec.extractLsb' 16 8 _) (BitVec.extractLsb' 8 8 _) (BitVec.extractLsb' 4 3 _) (BitVec.extractLsb' 0 4 _)) = _
  rw [hf.2.1, hf.2.2.1, hf.2.2.2.2.1, hf.2.2.2.2.2]

theorem RoundTrip.cvtii (d : Reg) (a : Reg) (k : BitVec 3) (t : BitVec 4) : RoundTrip.Statement (.cvtii d a k t) := by
  intro word hw
  rw [← Option.some.inj hw]
  have hf := fields_8_8_8_1_3_4 0x83#8 d a 0#1 k t
  refine decode_ok (.cvtii d a k t) rfl ?_
  rw [decodeFields, hf.1]
  show some (Instr.cvtii (BitVec.extractLsb' 16 8 _) (BitVec.extractLsb' 8 8 _) (BitVec.extractLsb' 4 3 _) (BitVec.extractLsb' 0 4 _)) = _
  rw [hf.2.1, hf.2.2.1, hf.2.2.2.2.1, hf.2.2.2.2.2]

theorem RoundTrip.pack (d : Reg) (a : Reg) (b : Reg) : RoundTrip.Statement (.pack d a b) := by
  intro word hw
  rw [← Option.some.inj hw]
  have hf := fields_8_8_8_8 0x84#8 d a b
  refine decode_ok (.pack d a b) rfl ?_
  rw [decodeFields, hf.1]
  show some (Instr.pack (BitVec.extractLsb' 16 8 _) (BitVec.extractLsb' 8 8 _) (BitVec.extractLsb' 0 8 _)) = _
  rw [hf.2.1, hf.2.2.1, hf.2.2.2]

theorem RoundTrip.unpk (d : Reg) (a : Reg) (h : BitVec 1) : RoundTrip.Statement (.unpk d a h) := by
  intro word hw
  rw [← Option.some.inj hw]
  have hf := fields_8_8_8_7_1 0x85#8 d a 0#7 h
  refine decode_ok (.unpk d a h) rfl ?_
  rw [decodeFields, hf.1]
  show some (Instr.unpk (BitVec.extractLsb' 16 8 _) (BitVec.extractLsb' 8 8 _) (BitVec.extractLsb' 0 1 _)) = _
  rw [hf.2.1, hf.2.2.1, hf.2.2.2.2]

theorem RoundTrip.cmp (any : BitVec 1) (cc : BitVec 3) (p : BitVec 3) (a : Reg) (b : Reg) : RoundTrip.Statement (.cmp any cc p a b) := by
  intro word hw
  rw [← Option.some.inj hw]
  have hf := fields_8_1_1_3_3_8_8 0x90#8 0#1 any cc p a b
  refine decode_ok (.cmp any cc p a b) rfl ?_
  rw [decodeFields, hf.1]
  show some (Instr.cmp (BitVec.extractLsb' 22 1 _) (BitVec.extractLsb' 19 3 _) (BitVec.extractLsb' 16 3 _) (BitVec.extractLsb' 8 8 _) (BitVec.extractLsb' 0 8 _)) = _
  rw [hf.2.2.1, hf.2.2.2.1, hf.2.2.2.2.1, hf.2.2.2.2.2.1, hf.2.2.2.2.2.2]

theorem RoundTrip.fcmp (any : BitVec 1) (cc : BitVec 3) (p : BitVec 3) (a : Reg) (b : Reg) : RoundTrip.Statement (.fcmp any cc p a b) := by
  intro word hw
  rw [← Option.some.inj hw]
  have hf := fields_8_1_1_3_3_8_8 0x91#8 0#1 any cc p a b
  refine decode_ok (.fcmp any cc p a b) rfl ?_
  rw [decodeFields, hf.1]
  show some (Instr.fcmp (BitVec.extractLsb' 22 1 _) (BitVec.extractLsb' 19 3 _) (BitVec.extractLsb' 16 3 _) (BitVec.extractLsb' 8 8 _) (BitVec.extractLsb' 0 8 _)) = _
  rw [hf.2.2.1, hf.2.2.2.1, hf.2.2.2.2.1, hf.2.2.2.2.2.1, hf.2.2.2.2.2.2]

theorem RoundTrip.tst (z : BitVec 1) (p : BitVec 3) (a : Reg) (b : Reg) : RoundTrip.Statement (.tst z p a b) := by
  intro word hw
  rw [← Option.some.inj hw]
  have hf := fields_8_4_1_3_8_8 0x92#8 0#4 z p a b
  refine decode_ok (.tst z p a b) rfl ?_
  rw [decodeFields, hf.1]
  show some (Instr.tst (BitVec.extractLsb' 19 1 _) (BitVec.extractLsb' 16 3 _) (BitVec.extractLsb' 8 8 _) (BitVec.extractLsb' 0 8 _)) = _
  rw [hf.2.2.1, hf.2.2.2.1, hf.2.2.2.2.1, hf.2.2.2.2.2]

theorem RoundTrip.sel (d : Reg) (a : Reg) (b : Reg) : RoundTrip.Statement (.sel d a b) := by
  intro word hw
  rw [← Option.some.inj hw]
  have hf := fields_8_8_8_8 0x93#8 d a b
  refine decode_ok (.sel d a b) rfl ?_
  rw [decodeFields, hf.1]
  show some (Instr.sel (BitVec.extractLsb' 16 8 _) (BitVec.extractLsb' 8 8 _) (BitVec.extractLsb' 0 8 _)) = _
  rw [hf.2.1, hf.2.2.1, hf.2.2.2]

theorem RoundTrip.plog (f : BitVec 4) (pd : BitVec 3) (pa : BitVec 3) (pb : BitVec 3) : RoundTrip.Statement (.plog f pd pa pb) := by
  intro word hw
  rw [← Option.some.inj hw]
  have hf := fields_8_1_4_3_5_3_5_3 0x94#8 0#1 f pd 0#5 pa 0#5 pb
  refine decode_ok (.plog f pd pa pb) rfl ?_
  rw [decodeFields, hf.1]
  show some (Instr.plog (BitVec.extractLsb' 19 4 _) (BitVec.extractLsb' 16 3 _) (BitVec.extractLsb' 8 3 _) (BitVec.extractLsb' 0 3 _)) = _
  rw [hf.2.2.1, hf.2.2.2.1, hf.2.2.2.2.2.1, hf.2.2.2.2.2.2.2]

theorem RoundTrip.pmovGet (d : Reg) : RoundTrip.Statement (.pmovGet d) := by
  intro word hw
  rw [← Option.some.inj hw]
  have hf := fields_8_8_8_8 0x95#8 d 0#8 0#8
  refine decode_ok (.pmovGet d) rfl ?_
  rw [decodeFields, hf.1]
  show decodePmov (BitVec.extractLsb' 0 8 _).toNat _ = _
  rw [hf.2.2.2]
  show some (Instr.pmovGet (BitVec.extractLsb' 16 8 _)) = _
  rw [hf.2.1]

theorem RoundTrip.pmovSet (a : Reg) : RoundTrip.Statement (.pmovSet a) := by
  intro word hw
  rw [← Option.some.inj hw]
  have hf := fields_8_8_8_8 0x95#8 0#8 a 1#8
  refine decode_ok (.pmovSet a) rfl ?_
  rw [decodeFields, hf.1]
  show decodePmov (BitVec.extractLsb' 0 8 _).toNat _ = _
  rw [hf.2.2.2]
  show some (Instr.pmovSet (BitVec.extractLsb' 8 8 _)) = _
  rw [hf.2.2.1]

theorem RoundTrip.clamp (d : Reg) (a : Reg) (b : Reg) : RoundTrip.Statement (.clamp d a b) := by
  intro word hw
  rw [← Option.some.inj hw]
  have hf := fields_8_8_8_8 0x96#8 d a b
  refine decode_ok (.clamp d a b) rfl ?_
  rw [decodeFields, hf.1]
  show some (Instr.clamp (BitVec.extractLsb' 16 8 _) (BitVec.extractLsb' 8 8 _) (BitVec.extractLsb' 0 8 _)) = _
  rw [hf.2.1, hf.2.2.1, hf.2.2.2]

theorem RoundTrip.fclamp (d : Reg) (a : Reg) (b : Reg) : RoundTrip.Statement (.fclamp d a b) := by
  intro word hw
  rw [← Option.some.inj hw]
  have hf := fields_8_8_8_8 0x97#8 d a b
  refine decode_ok (.fclamp d a b) rfl ?_
  rw [decodeFields, hf.1]
  show some (Instr.fclamp (BitVec.extractLsb' 16 8 _) (BitVec.extractLsb' 8 8 _) (BitVec.extractLsb' 0 8 _)) = _
  rw [hf.2.1, hf.2.2.1, hf.2.2.2]

theorem RoundTrip.red (d : Reg) (a : Reg) (o : BitVec 3) : RoundTrip.Statement (.red d a o) := by
  intro word hw
  rw [← Option.some.inj hw]
  have hf := fields_8_8_8_5_3 0x98#8 d a 0#5 o
  refine decode_ok (.red d a o) rfl ?_
  rw [decodeFields, hf.1]
  show some (Instr.red (BitVec.extractLsb' 16 8 _) (BitVec.extractLsb' 8 8 _) (BitVec.extractLsb' 0 3 _)) = _
  rw [hf.2.1, hf.2.2.1, hf.2.2.2.2]

theorem RoundTrip.fred (d : Reg) (a : Reg) (o : BitVec 2) : RoundTrip.Statement (.fred d a o) := by
  intro word hw
  rw [← Option.some.inj hw]
  have hf := fields_8_8_8_6_2 0x99#8 d a 0#6 o
  refine decode_ok (.fred d a o) rfl ?_
  rw [decodeFields, hf.1]
  show some (Instr.fred (BitVec.extractLsb' 16 8 _) (BitVec.extractLsb' 8 8 _) (BitVec.extractLsb' 0 2 _)) = _
  rw [hf.2.1, hf.2.2.1, hf.2.2.2.2]

theorem RoundTrip.scan (d : Reg) (a : Reg) (x : BitVec 1) (o : BitVec 3) : RoundTrip.Statement (.scan d a x o) := by
  intro word hw
  rw [← Option.some.inj hw]
  have hf := fields_8_8_8_4_1_3 0x9A#8 d a 0#4 x o
  refine decode_ok (.scan d a x o) rfl ?_
  rw [decodeFields, hf.1]
  show some (Instr.scan (BitVec.extractLsb' 16 8 _) (BitVec.extractLsb' 8 8 _) (BitVec.extractLsb' 3 1 _) (BitVec.extractLsb' 0 3 _)) = _
  rw [hf.2.1, hf.2.2.1, hf.2.2.2.2.1, hf.2.2.2.2.2]

theorem RoundTrip.fscan (d : Reg) (a : Reg) (x : BitVec 1) (o : BitVec 2) : RoundTrip.Statement (.fscan d a x o) := by
  intro word hw
  rw [← Option.some.inj hw]
  have hf := fields_8_8_8_4_1_1_2 0x9B#8 d a 0#4 x 0#1 o
  refine decode_ok (.fscan d a x o) rfl ?_
  rw [decodeFields, hf.1]
  show some (Instr.fscan (BitVec.extractLsb' 16 8 _) (BitVec.extractLsb' 8 8 _) (BitVec.extractLsb' 3 1 _) (BitVec.extractLsb' 0 2 _)) = _
  rw [hf.2.1, hf.2.2.1, hf.2.2.2.2.1, hf.2.2.2.2.2.2]

theorem RoundTrip.vote (d : Reg) (n : BitVec 1) (p : BitVec 3) : RoundTrip.Statement (.vote d n p) := by
  intro word hw
  rw [← Option.some.inj hw]
  have hf := fields_8_8_4_1_3_8 0x9C#8 d 0#4 n p 0#8
  refine decode_ok (.vote d n p) rfl ?_
  rw [decodeFields, hf.1]
  show some (Instr.vote (BitVec.extractLsb' 16 8 _) (BitVec.extractLsb' 11 1 _) (BitVec.extractLsb' 8 3 _)) = _
  rw [hf.2.1, hf.2.2.2.1, hf.2.2.2.2.1]

theorem RoundTrip.lid (d : Reg) : RoundTrip.Statement (.lid d) := by
  intro word hw
  rw [← Option.some.inj hw]
  have hf := fields_8_8_16 0x9D#8 d 0#16
  refine decode_ok (.lid d) rfl ?_
  rw [decodeFields, hf.1]
  show some (Instr.lid (BitVec.extractLsb' 16 8 _)) = _
  rw [hf.2.1]

theorem RoundTrip.ld8 (d : Reg) (a : Reg) (o : Reg) : RoundTrip.Statement (.ld8 d a o) := by
  intro word hw
  rw [← Option.some.inj hw]
  have hf := fields_8_8_8_8 0xA0#8 d a o
  refine decode_ok (.ld8 d a o) rfl ?_
  rw [decodeFields, hf.1]
  show some (Instr.ld8 (BitVec.extractLsb' 16 8 _) (BitVec.extractLsb' 8 8 _) (BitVec.extractLsb' 0 8 _)) = _
  rw [hf.2.1, hf.2.2.1, hf.2.2.2]

theorem RoundTrip.ld16 (d : Reg) (a : Reg) (o : Reg) : RoundTrip.Statement (.ld16 d a o) := by
  intro word hw
  rw [← Option.some.inj hw]
  have hf := fields_8_8_8_8 0xA1#8 d a o
  refine decode_ok (.ld16 d a o) rfl ?_
  rw [decodeFields, hf.1]
  show some (Instr.ld16 (BitVec.extractLsb' 16 8 _) (BitVec.extractLsb' 8 8 _) (BitVec.extractLsb' 0 8 _)) = _
  rw [hf.2.1, hf.2.2.1, hf.2.2.2]

theorem RoundTrip.ld32 (d : Reg) (a : Reg) (o : Reg) : RoundTrip.Statement (.ld32 d a o) := by
  intro word hw
  rw [← Option.some.inj hw]
  have hf := fields_8_8_8_8 0xA2#8 d a o
  refine decode_ok (.ld32 d a o) rfl ?_
  rw [decodeFields, hf.1]
  show some (Instr.ld32 (BitVec.extractLsb' 16 8 _) (BitVec.extractLsb' 8 8 _) (BitVec.extractLsb' 0 8 _)) = _
  rw [hf.2.1, hf.2.2.1, hf.2.2.2]

theorem RoundTrip.ld64 (d : Reg) (a : Reg) (o : Reg) : RoundTrip.Statement (.ld64 d a o) := by
  intro word hw
  rw [← Option.some.inj hw]
  have hf := fields_8_8_8_8 0xA3#8 d a o
  refine decode_ok (.ld64 d a o) rfl ?_
  rw [decodeFields, hf.1]
  show some (Instr.ld64 (BitVec.extractLsb' 16 8 _) (BitVec.extractLsb' 8 8 _) (BitVec.extractLsb' 0 8 _)) = _
  rw [hf.2.1, hf.2.2.1, hf.2.2.2]

theorem RoundTrip.ld128 (d : Reg) (a : Reg) (o : Reg) : RoundTrip.Statement (.ld128 d a o) := by
  intro word hw
  rw [← Option.some.inj hw]
  have hf := fields_8_8_8_8 0xA4#8 d a o
  refine decode_ok (.ld128 d a o) rfl ?_
  rw [decodeFields, hf.1]
  show some (Instr.ld128 (BitVec.extractLsb' 16 8 _) (BitVec.extractLsb' 8 8 _) (BitVec.extractLsb' 0 8 _)) = _
  rw [hf.2.1, hf.2.2.1, hf.2.2.2]

theorem RoundTrip.st8 (d : Reg) (a : Reg) (o : Reg) : RoundTrip.Statement (.st8 d a o) := by
  intro word hw
  rw [← Option.some.inj hw]
  have hf := fields_8_8_8_8 0xA5#8 d a o
  refine decode_ok (.st8 d a o) rfl ?_
  rw [decodeFields, hf.1]
  show some (Instr.st8 (BitVec.extractLsb' 16 8 _) (BitVec.extractLsb' 8 8 _) (BitVec.extractLsb' 0 8 _)) = _
  rw [hf.2.1, hf.2.2.1, hf.2.2.2]

theorem RoundTrip.st16 (d : Reg) (a : Reg) (o : Reg) : RoundTrip.Statement (.st16 d a o) := by
  intro word hw
  rw [← Option.some.inj hw]
  have hf := fields_8_8_8_8 0xA6#8 d a o
  refine decode_ok (.st16 d a o) rfl ?_
  rw [decodeFields, hf.1]
  show some (Instr.st16 (BitVec.extractLsb' 16 8 _) (BitVec.extractLsb' 8 8 _) (BitVec.extractLsb' 0 8 _)) = _
  rw [hf.2.1, hf.2.2.1, hf.2.2.2]

theorem RoundTrip.st32 (d : Reg) (a : Reg) (o : Reg) : RoundTrip.Statement (.st32 d a o) := by
  intro word hw
  rw [← Option.some.inj hw]
  have hf := fields_8_8_8_8 0xA7#8 d a o
  refine decode_ok (.st32 d a o) rfl ?_
  rw [decodeFields, hf.1]
  show some (Instr.st32 (BitVec.extractLsb' 16 8 _) (BitVec.extractLsb' 8 8 _) (BitVec.extractLsb' 0 8 _)) = _
  rw [hf.2.1, hf.2.2.1, hf.2.2.2]

theorem RoundTrip.st64 (d : Reg) (a : Reg) (o : Reg) : RoundTrip.Statement (.st64 d a o) := by
  intro word hw
  rw [← Option.some.inj hw]
  have hf := fields_8_8_8_8 0xA8#8 d a o
  refine decode_ok (.st64 d a o) rfl ?_
  rw [decodeFields, hf.1]
  show some (Instr.st64 (BitVec.extractLsb' 16 8 _) (BitVec.extractLsb' 8 8 _) (BitVec.extractLsb' 0 8 _)) = _
  rw [hf.2.1, hf.2.2.1, hf.2.2.2]

theorem RoundTrip.st128 (d : Reg) (a : Reg) (o : Reg) : RoundTrip.Statement (.st128 d a o) := by
  intro word hw
  rw [← Option.some.inj hw]
  have hf := fields_8_8_8_8 0xA9#8 d a o
  refine decode_ok (.st128 d a o) rfl ?_
  rw [decodeFields, hf.1]
  show some (Instr.st128 (BitVec.extractLsb' 16 8 _) (BitVec.extractLsb' 8 8 _) (BitVec.extractLsb' 0 8 _)) = _
  rw [hf.2.1, hf.2.2.1, hf.2.2.2]

theorem RoundTrip.ldw (d : Reg) (a : Reg) (o : Reg) : RoundTrip.Statement (.ldw d a o) := by
  intro word hw
  rw [← Option.some.inj hw]
  have hf := fields_8_8_8_8 0xAA#8 d a o
  refine decode_ok (.ldw d a o) rfl ?_
  rw [decodeFields, hf.1]
  show some (Instr.ldw (BitVec.extractLsb' 16 8 _) (BitVec.extractLsb' 8 8 _) (BitVec.extractLsb' 0 8 _)) = _
  rw [hf.2.1, hf.2.2.1, hf.2.2.2]

theorem RoundTrip.chk (i : BitVec 24) : RoundTrip.Statement (.chk i) := by
  intro word hw
  rw [← Option.some.inj hw]
  have hf := fields_8_24 0xAB#8 i
  refine decode_ok (.chk i) rfl ?_
  rw [decodeFields, hf.1]
  show some (Instr.chk (BitVec.extractLsb' 0 24 _)) = _
  rw [hf.2]

theorem RoundTrip.ldl (d : Reg) (a : Reg) (o : Reg) : RoundTrip.Statement (.ldl d a o) := by
  intro word hw
  rw [← Option.some.inj hw]
  have hf := fields_8_8_8_8 0xAC#8 d a o
  refine decode_ok (.ldl d a o) rfl ?_
  rw [decodeFields, hf.1]
  show some (Instr.ldl (BitVec.extractLsb' 16 8 _) (BitVec.extractLsb' 8 8 _) (BitVec.extractLsb' 0 8 _)) = _
  rw [hf.2.1, hf.2.2.1, hf.2.2.2]

theorem RoundTrip.stl (d : Reg) (a : Reg) (o : Reg) : RoundTrip.Statement (.stl d a o) := by
  intro word hw
  rw [← Option.some.inj hw]
  have hf := fields_8_8_8_8 0xAD#8 d a o
  refine decode_ok (.stl d a o) rfl ?_
  rw [decodeFields, hf.1]
  show some (Instr.stl (BitVec.extractLsb' 16 8 _) (BitVec.extractLsb' 8 8 _) (BitVec.extractLsb' 0 8 _)) = _
  rw [hf.2.1, hf.2.2.1, hf.2.2.2]

theorem RoundTrip.pfL1 (a : Reg) (o : Reg) : RoundTrip.Statement (.pfL1 a o) := by
  intro word hw
  rw [← Option.some.inj hw]
  have hf := fields_8_8_8_8 0xAE#8 0#8 a o
  refine decode_ok (.pfL1 a o) rfl ?_
  rw [decodeFields, hf.1]
  show decodePf (BitVec.extractLsb' 16 8 _).toNat _ = _
  rw [hf.2.1]
  show some (Instr.pfL1 (BitVec.extractLsb' 8 8 _) (BitVec.extractLsb' 0 8 _)) = _
  rw [hf.2.2.1, hf.2.2.2]

theorem RoundTrip.pfL2 (a : Reg) (o : Reg) : RoundTrip.Statement (.pfL2 a o) := by
  intro word hw
  rw [← Option.some.inj hw]
  have hf := fields_8_8_8_8 0xAE#8 1#8 a o
  refine decode_ok (.pfL2 a o) rfl ?_
  rw [decodeFields, hf.1]
  show decodePf (BitVec.extractLsb' 16 8 _).toNat _ = _
  rw [hf.2.1]
  show some (Instr.pfL2 (BitVec.extractLsb' 8 8 _) (BitVec.extractLsb' 0 8 _)) = _
  rw [hf.2.2.1, hf.2.2.2]

theorem RoundTrip.wb (a : Reg) (o : Reg) : RoundTrip.Statement (.wb a o) := by
  intro word hw
  rw [← Option.some.inj hw]
  have hf := fields_8_8_8_8 0xAF#8 0#8 a o
  refine decode_ok (.wb a o) rfl ?_
  rw [decodeFields, hf.1]
  show some (Instr.wb (BitVec.extractLsb' 8 8 _) (BitVec.extractLsb' 0 8 _)) = _
  rw [hf.2.2.1, hf.2.2.2]

theorem RoundTrip.inv (a : Reg) (o : Reg) : RoundTrip.Statement (.inv a o) := by
  intro word hw
  rw [← Option.some.inj hw]
  have hf := fields_8_8_8_8 0xB0#8 0#8 a o
  refine decode_ok (.inv a o) rfl ?_
  rw [decodeFields, hf.1]
  show some (Instr.inv (BitVec.extractLsb' 8 8 _) (BitVec.extractLsb' 0 8 _)) = _
  rw [hf.2.2.1, hf.2.2.2]

theorem RoundTrip.atadd (d : Reg) (a : Reg) (b : Reg) : RoundTrip.Statement (.atadd d a b) := by
  intro word hw
  rw [← Option.some.inj hw]
  have hf := fields_8_8_8_8 0xC0#8 d a b
  refine decode_ok (.atadd d a b) rfl ?_
  rw [decodeFields, hf.1]
  show some (Instr.atadd (BitVec.extractLsb' 16 8 _) (BitVec.extractLsb' 8 8 _) (BitVec.extractLsb' 0 8 _)) = _
  rw [hf.2.1, hf.2.2.1, hf.2.2.2]

theorem RoundTrip.atmin (d : Reg) (a : Reg) (b : Reg) : RoundTrip.Statement (.atmin d a b) := by
  intro word hw
  rw [← Option.some.inj hw]
  have hf := fields_8_8_8_8 0xC1#8 d a b
  refine decode_ok (.atmin d a b) rfl ?_
  rw [decodeFields, hf.1]
  show some (Instr.atmin (BitVec.extractLsb' 16 8 _) (BitVec.extractLsb' 8 8 _) (BitVec.extractLsb' 0 8 _)) = _
  rw [hf.2.1, hf.2.2.1, hf.2.2.2]

theorem RoundTrip.atmax (d : Reg) (a : Reg) (b : Reg) : RoundTrip.Statement (.atmax d a b) := by
  intro word hw
  rw [← Option.some.inj hw]
  have hf := fields_8_8_8_8 0xC2#8 d a b
  refine decode_ok (.atmax d a b) rfl ?_
  rw [decodeFields, hf.1]
  show some (Instr.atmax (BitVec.extractLsb' 16 8 _) (BitVec.extractLsb' 8 8 _) (BitVec.extractLsb' 0 8 _)) = _
  rw [hf.2.1, hf.2.2.1, hf.2.2.2]

theorem RoundTrip.atand (d : Reg) (a : Reg) (b : Reg) : RoundTrip.Statement (.atand d a b) := by
  intro word hw
  rw [← Option.some.inj hw]
  have hf := fields_8_8_8_8 0xC3#8 d a b
  refine decode_ok (.atand d a b) rfl ?_
  rw [decodeFields, hf.1]
  show some (Instr.atand (BitVec.extractLsb' 16 8 _) (BitVec.extractLsb' 8 8 _) (BitVec.extractLsb' 0 8 _)) = _
  rw [hf.2.1, hf.2.2.1, hf.2.2.2]

theorem RoundTrip.ator (d : Reg) (a : Reg) (b : Reg) : RoundTrip.Statement (.ator d a b) := by
  intro word hw
  rw [← Option.some.inj hw]
  have hf := fields_8_8_8_8 0xC4#8 d a b
  refine decode_ok (.ator d a b) rfl ?_
  rw [decodeFields, hf.1]
  show some (Instr.ator (BitVec.extractLsb' 16 8 _) (BitVec.extractLsb' 8 8 _) (BitVec.extractLsb' 0 8 _)) = _
  rw [hf.2.1, hf.2.2.1, hf.2.2.2]

theorem RoundTrip.atxor (d : Reg) (a : Reg) (b : Reg) : RoundTrip.Statement (.atxor d a b) := by
  intro word hw
  rw [← Option.some.inj hw]
  have hf := fields_8_8_8_8 0xC5#8 d a b
  refine decode_ok (.atxor d a b) rfl ?_
  rw [decodeFields, hf.1]
  show some (Instr.atxor (BitVec.extractLsb' 16 8 _) (BitVec.extractLsb' 8 8 _) (BitVec.extractLsb' 0 8 _)) = _
  rw [hf.2.1, hf.2.2.1, hf.2.2.2]

theorem RoundTrip.atxchg (d : Reg) (a : Reg) (b : Reg) : RoundTrip.Statement (.atxchg d a b) := by
  intro word hw
  rw [← Option.some.inj hw]
  have hf := fields_8_8_8_8 0xC6#8 d a b
  refine decode_ok (.atxchg d a b) rfl ?_
  rw [decodeFields, hf.1]
  show some (Instr.atxchg (BitVec.extractLsb' 16 8 _) (BitVec.extractLsb' 8 8 _) (BitVec.extractLsb' 0 8 _)) = _
  rw [hf.2.1, hf.2.2.1, hf.2.2.2]

theorem RoundTrip.atcas (d : Reg) (a : Reg) (b : Reg) : RoundTrip.Statement (.atcas d a b) := by
  intro word hw
  rw [← Option.some.inj hw]
  have hf := fields_8_8_8_8 0xC7#8 d a b
  refine decode_ok (.atcas d a b) rfl ?_
  rw [decodeFields, hf.1]
  show some (Instr.atcas (BitVec.extractLsb' 16 8 _) (BitVec.extractLsb' 8 8 _) (BitVec.extractLsb' 0 8 _)) = _
  rw [hf.2.1, hf.2.2.1, hf.2.2.2]

theorem RoundTrip.atqadd (d : Reg) (a : Reg) (b : Reg) : RoundTrip.Statement (.atqadd d a b) := by
  intro word hw
  rw [← Option.some.inj hw]
  have hf := fields_8_8_8_8 0xC8#8 d a b
  refine decode_ok (.atqadd d a b) rfl ?_
  rw [decodeFields, hf.1]
  show some (Instr.atqadd (BitVec.extractLsb' 16 8 _) (BitVec.extractLsb' 8 8 _) (BitVec.extractLsb' 0 8 _)) = _
  rw [hf.2.1, hf.2.2.1, hf.2.2.2]

theorem RoundTrip.acq (d : Reg) (a : Reg) : RoundTrip.Statement (.acq d a) := by
  intro word hw
  rw [← Option.some.inj hw]
  have hf := fields_8_8_8_8 0xC9#8 d a 0#8
  refine decode_ok (.acq d a) rfl ?_
  rw [decodeFields, hf.1]
  show some (Instr.acq (BitVec.extractLsb' 16 8 _) (BitVec.extractLsb' 8 8 _)) = _
  rw [hf.2.1, hf.2.2.1]

theorem RoundTrip.rel (d : Reg) (a : Reg) : RoundTrip.Statement (.rel d a) := by
  intro word hw
  rw [← Option.some.inj hw]
  have hf := fields_8_8_8_8 0xCA#8 d a 0#8
  refine decode_ok (.rel d a) rfl ?_
  rw [decodeFields, hf.1]
  show some (Instr.rel (BitVec.extractLsb' 16 8 _) (BitVec.extractLsb' 8 8 _)) = _
  rw [hf.2.1, hf.2.2.1]

theorem RoundTrip.bind (d : Reg) (a : Reg) (b : Reg) : RoundTrip.Statement (.bind d a b) := by
  intro word hw
  rw [← Option.some.inj hw]
  have hf := fields_8_8_8_8 0xCB#8 d a b
  refine decode_ok (.bind d a b) rfl ?_
  rw [decodeFields, hf.1]
  show some (Instr.bind (BitVec.extractLsb' 16 8 _) (BitVec.extractLsb' 8 8 _) (BitVec.extractLsb' 0 8 _)) = _
  rw [hf.2.1, hf.2.2.1, hf.2.2.2]

theorem RoundTrip.unbind (d : Reg) (a : Reg) (b : Reg) : RoundTrip.Statement (.unbind d a b) := by
  intro word hw
  rw [← Option.some.inj hw]
  have hf := fields_8_8_8_8 0xCC#8 d a b
  refine decode_ok (.unbind d a b) rfl ?_
  rw [decodeFields, hf.1]
  show some (Instr.unbind (BitVec.extractLsb' 16 8 _) (BitVec.extractLsb' 8 8 _) (BitVec.extractLsb' 0 8 _)) = _
  rw [hf.2.1, hf.2.2.1, hf.2.2.2]

theorem RoundTrip.fence (scope : Reg) : RoundTrip.Statement (.fence scope) := by
  intro word hw
  rw [← Option.some.inj hw]
  have hf := fields_8_8_16 0xCD#8 scope 0#16
  refine decode_ok (.fence scope) rfl ?_
  rw [decodeFields, hf.1]
  show some (Instr.fence (BitVec.extractLsb' 16 8 _)) = _
  rw [hf.2.1]

theorem RoundTrip.bar (id : BitVec 4) (n : BitVec 16) : RoundTrip.Statement (.bar id n) := by
  intro word hw
  rw [← Option.some.inj hw]
  have hf := fields_8_4_4_16 0xCE#8 0#4 id n
  refine decode_ok (.bar id n) rfl ?_
  rw [decodeFields, hf.1]
  show some (Instr.bar (BitVec.extractLsb' 16 4 _) (BitVec.extractLsb' 0 16 _)) = _
  rw [hf.2.2.1, hf.2.2.2]

theorem RoundTrip.barvArrive (id : Reg) (n : Reg) : RoundTrip.Statement (.barvArrive id n) := by
  intro word hw
  rw [← Option.some.inj hw]
  have hf := fields_8_8_8_8 0xCF#8 1#8 id n
  refine decode_ok (.barvArrive id n) rfl ?_
  rw [decodeFields, hf.1]
  show decodeSync (BitVec.extractLsb' 16 8 _).toNat _ = _
  rw [hf.2.1]
  show some (Instr.barvArrive (BitVec.extractLsb' 8 8 _) (BitVec.extractLsb' 0 8 _)) = _
  rw [hf.2.2.1, hf.2.2.2]

theorem RoundTrip.barvWait (id : Reg) : RoundTrip.Statement (.barvWait id) := by
  intro word hw
  rw [← Option.some.inj hw]
  have hf := fields_8_8_8_8 0xCF#8 2#8 id 0#8
  refine decode_ok (.barvWait id) rfl ?_
  rw [decodeFields, hf.1]
  show decodeSync (BitVec.extractLsb' 16 8 _).toNat _ = _
  rw [hf.2.1]
  show some (Instr.barvWait (BitVec.extractLsb' 8 8 _)) = _
  rw [hf.2.2.1]

theorem RoundTrip.fetake (a : Reg) : RoundTrip.Statement (.fetake a) := by
  intro word hw
  rw [← Option.some.inj hw]
  have hf := fields_8_8_8_8 0xCF#8 3#8 a 0#8
  refine decode_ok (.fetake a) rfl ?_
  rw [decodeFields, hf.1]
  show decodeSync (BitVec.extractLsb' 16 8 _).toNat _ = _
  rw [hf.2.1]
  show some (Instr.fetake (BitVec.extractLsb' 8 8 _)) = _
  rw [hf.2.2.1]

theorem RoundTrip.feput (a : Reg) (b : Reg) : RoundTrip.Statement (.feput a b) := by
  intro word hw
  rw [← Option.some.inj hw]
  have hf := fields_8_8_8_8 0xCF#8 4#8 a b
  refine decode_ok (.feput a b) rfl ?_
  rw [decodeFields, hf.1]
  show decodeSync (BitVec.extractLsb' 16 8 _).toNat _ = _
  rw [hf.2.1]
  show some (Instr.feput (BitVec.extractLsb' 8 8 _) (BitVec.extractLsb' 0 8 _)) = _
  rw [hf.2.2.1, hf.2.2.2]

theorem RoundTrip.fetest (p : BitVec 3) (b : Reg) : RoundTrip.Statement (.fetest p b) := by
  intro word hw
  rw [← Option.some.inj hw]
  have hf := fields_8_8_5_3_8 0xCF#8 5#8 0#5 p b
  refine decode_ok (.fetest p b) rfl ?_
  rw [decodeFields, hf.1]
  show decodeSync (BitVec.extractLsb' 16 8 _).toNat _ = _
  rw [hf.2.1]
  show some (Instr.fetest (BitVec.extractLsb' 8 3 _) (BitVec.extractLsb' 0 8 _)) = _
  rw [hf.2.2.2.1, hf.2.2.2.2]

theorem RoundTrip.wshare (a : Reg) (b : Reg) : RoundTrip.Statement (.wshare a b) := by
  intro word hw
  rw [← Option.some.inj hw]
  have hf := fields_8_8_8_8 0xCF#8 6#8 a b
  refine decode_ok (.wshare a b) rfl ?_
  rw [decodeFields, hf.1]
  show decodeSync (BitVec.extractLsb' 16 8 _).toNat _ = _
  rw [hf.2.1]
  show some (Instr.wshare (BitVec.extractLsb' 8 8 _) (BitVec.extractLsb' 0 8 _)) = _
  rw [hf.2.2.1, hf.2.2.2]

theorem RoundTrip.acqw (a : Reg) (b : Reg) : RoundTrip.Statement (.acqw a b) := by
  intro word hw
  rw [← Option.some.inj hw]
  have hf := fields_8_8_8_8 0xCF#8 7#8 a b
  refine decode_ok (.acqw a b) rfl ?_
  rw [decodeFields, hf.1]
  show decodeSync (BitVec.extractLsb' 16 8 _).toNat _ = _
  rw [hf.2.1]
  show some (Instr.acqw (BitVec.extractLsb' 8 8 _) (BitVec.extractLsb' 0 8 _)) = _
  rw [hf.2.2.1, hf.2.2.2]

theorem RoundTrip.cbar (id : BitVec 4) : RoundTrip.Statement (.cbar id) := by
  intro word hw
  rw [← Option.some.inj hw]
  have hf := fields_8_8_4_4_8 0xCF#8 8#8 0#4 id 0#8
  refine decode_ok (.cbar id) rfl ?_
  rw [decodeFields, hf.1]
  show decodeSync (BitVec.extractLsb' 16 8 _).toNat _ = _
  rw [hf.2.1]
  show some (Instr.cbar (BitVec.extractLsb' 8 4 _)) = _
  rw [hf.2.2.2.1]

theorem RoundTrip.cbarArrive (id : BitVec 4) : RoundTrip.Statement (.cbarArrive id) := by
  intro word hw
  rw [← Option.some.inj hw]
  have hf := fields_8_8_4_4_8 0xCF#8 9#8 0#4 id 0#8
  refine decode_ok (.cbarArrive id) rfl ?_
  rw [decodeFields, hf.1]
  show decodeSync (BitVec.extractLsb' 16 8 _).toNat _ = _
  rw [hf.2.1]
  show some (Instr.cbarArrive (BitVec.extractLsb' 8 4 _)) = _
  rw [hf.2.2.2.1]

theorem RoundTrip.cbarWait (id : BitVec 4) : RoundTrip.Statement (.cbarWait id) := by
  intro word hw
  rw [← Option.some.inj hw]
  have hf := fields_8_8_4_4_8 0xCF#8 10#8 0#4 id 0#8
  refine decode_ok (.cbarWait id) rfl ?_
  rw [decodeFields, hf.1]
  show decodeSync (BitVec.extractLsb' 16 8 _).toNat _ = _
  rw [hf.2.1]
  show some (Instr.cbarWait (BitVec.extractLsb' 8 4 _)) = _
  rw [hf.2.2.2.1]

theorem RoundTrip.tld (ch : BitVec 2) (t : BitVec 4) (a : Reg) (b : Reg) : RoundTrip.Statement (.tld ch t a b) := by
  intro word hw
  rw [← Option.some.inj hw]
  have hf := fields_8_2_2_4_8_8 0xD0#8 0#2 ch t a b
  refine decode_ok (.tld ch t a b) rfl ?_
  rw [decodeFields, hf.1]
  show some (Instr.tld (BitVec.extractLsb' 20 2 _) (BitVec.extractLsb' 16 4 _) (BitVec.extractLsb' 8 8 _) (BitVec.extractLsb' 0 8 _)) = _
  rw [hf.2.2.1, hf.2.2.2.1, hf.2.2.2.2.1, hf.2.2.2.2.2]

theorem RoundTrip.tsto (ch : BitVec 2) (t : BitVec 4) (a : Reg) (b : Reg) : RoundTrip.Statement (.tsto ch t a b) := by
  intro word hw
  rw [← Option.some.inj hw]
  have hf := fields_8_2_2_4_8_8 0xD1#8 0#2 ch t a b
  refine decode_ok (.tsto ch t a b) rfl ?_
  rw [decodeFields, hf.1]
  show some (Instr.tsto (BitVec.extractLsb' 20 2 _) (BitVec.extractLsb' 16 4 _) (BitVec.extractLsb' 8 8 _) (BitVec.extractLsb' 0 8 _)) = _
  rw [hf.2.2.1, hf.2.2.2.1, hf.2.2.2.2.1, hf.2.2.2.2.2]

theorem RoundTrip.tmma (c : BitVec 2) (a : BitVec 4) (b : BitVec 4) : RoundTrip.Statement (.tmma c a b) := by
  intro word hw
  rw [← Option.some.inj hw]
  have hf := fields_8_6_2_4_4_4_4 0xD2#8 0#6 c 0#4 a 0#4 b
  refine decode_ok (.tmma c a b) rfl ?_
  rw [decodeFields, hf.1]
  show some (Instr.tmma (BitVec.extractLsb' 16 2 _) (BitVec.extractLsb' 8 4 _) (BitVec.extractLsb' 0 4 _)) = _
  rw [hf.2.2.1, hf.2.2.2.2.1, hf.2.2.2.2.2.2]

theorem RoundTrip.ttr (c : BitVec 2) (a : BitVec 4) : RoundTrip.Statement (.ttr c a) := by
  intro word hw
  rw [← Option.some.inj hw]
  have hf := fields_8_6_2_4_4_8 0xD3#8 0#6 c 0#4 a 0#8
  refine decode_ok (.ttr c a) rfl ?_
  rw [decodeFields, hf.1]
  show some (Instr.ttr (BitVec.extractLsb' 16 2 _) (BitVec.extractLsb' 8 4 _)) = _
  rw [hf.2.2.1, hf.2.2.2.2.1]

theorem RoundTrip.tperm (c : BitVec 2) (a : BitVec 4) (b : Reg) : RoundTrip.Statement (.tperm c a b) := by
  intro word hw
  rw [← Option.some.inj hw]
  have hf := fields_8_6_2_4_4_8 0xD4#8 0#6 c 0#4 a b
  refine decode_ok (.tperm c a b) rfl ?_
  rw [decodeFields, hf.1]
  show some (Instr.tperm (BitVec.extractLsb' 16 2 _) (BitVec.extractLsb' 8 4 _) (BitVec.extractLsb' 0 8 _)) = _
  rw [hf.2.2.1, hf.2.2.2.2.1, hf.2.2.2.2.2]

theorem RoundTrip.tred (c : BitVec 2) (a : BitVec 4) : RoundTrip.Statement (.tred c a) := by
  intro word hw
  rw [← Option.some.inj hw]
  have hf := fields_8_6_2_4_4_8 0xD5#8 0#6 c 0#4 a 0#8
  refine decode_ok (.tred c a) rfl ?_
  rw [decodeFields, hf.1]
  show some (Instr.tred (BitVec.extractLsb' 16 2 _) (BitVec.extractLsb' 8 4 _)) = _
  rw [hf.2.2.1, hf.2.2.2.2.1]

theorem RoundTrip.azero (c : BitVec 2) : RoundTrip.Statement (.azero c) := by
  intro word hw
  rw [← Option.some.inj hw]
  have hf := fields_8_6_2_16 0xD6#8 0#6 c 0#16
  refine decode_ok (.azero c) rfl ?_
  rw [decodeFields, hf.1]
  show some (Instr.azero (BitVec.extractLsb' 16 2 _)) = _
  rw [hf.2.2.1]

theorem RoundTrip.amov (d : Reg) (e : BitVec 6) (c : BitVec 2) (col : Reg) : RoundTrip.Statement (.amov d e c col) := by
  intro word hw
  rw [← Option.some.inj hw]
  have hf := fields_8_8_6_2_8 0xD7#8 d e c col
  refine decode_ok (.amov d e c col) rfl ?_
  rw [decodeFields, hf.1]
  show some (Instr.amov (BitVec.extractLsb' 16 8 _) (BitVec.extractLsb' 10 6 _) (BitVec.extractLsb' 8 2 _) (BitVec.extractLsb' 0 8 _)) = _
  rw [hf.2.1, hf.2.2.1, hf.2.2.2.1, hf.2.2.2.2]

theorem RoundTrip.amovt (t : BitVec 4) (c : BitVec 2) (e : Reg) : RoundTrip.Statement (.amovt t c e) := by
  intro word hw
  rw [← Option.some.inj hw]
  have hf := fields_8_4_4_6_2_8 0xD8#8 0#4 t 0#6 c e
  refine decode_ok (.amovt t c e) rfl ?_
  rw [decodeFields, hf.1]
  show some (Instr.amovt (BitVec.extractLsb' 16 4 _) (BitVec.extractLsb' 8 2 _) (BitVec.extractLsb' 0 8 _)) = _
  rw [hf.2.2.1, hf.2.2.2.2.1, hf.2.2.2.2.2]

theorem RoundTrip.acvt (c : BitVec 2) (f : BitVec 1) (e : Reg) : RoundTrip.Statement (.acvt c f e) := by
  intro word hw
  rw [← Option.some.inj hw]
  have hf := fields_8_6_2_7_1_8 0xD9#8 0#6 c 0#7 f e
  refine decode_ok (.acvt c f e) rfl ?_
  rw [decodeFields, hf.1]
  show some (Instr.acvt (BitVec.extractLsb' 16 2 _) (BitVec.extractLsb' 8 1 _) (BitVec.extractLsb' 0 8 _)) = _
  rw [hf.2.2.1, hf.2.2.2.2.1, hf.2.2.2.2.2]

theorem RoundTrip.asave (c : BitVec 2) : RoundTrip.Statement (.asave c) := by
  intro word hw
  rw [← Option.some.inj hw]
  have hf := fields_8_6_2_16 0xDA#8 0#6 c 0#16
  refine decode_ok (.asave c) rfl ?_
  rw [decodeFields, hf.1]
  show some (Instr.asave (BitVec.extractLsb' 16 2 _)) = _
  rw [hf.2.2.1]

theorem RoundTrip.arest (c : BitVec 2) : RoundTrip.Statement (.arest c) := by
  intro word hw
  rw [← Option.some.inj hw]
  have hf := fields_8_6_2_16 0xDB#8 0#6 c 0#16
  refine decode_ok (.arest c) rfl ?_
  rw [decodeFields, hf.1]
  show some (Instr.arest (BitVec.extractLsb' 16 2 _)) = _
  rw [hf.2.2.1]

theorem RoundTrip.tmvGet (d : Reg) (t : BitVec 4) (row : Reg) : RoundTrip.Statement (.tmvGet d t row) := by
  intro word hw
  rw [← Option.some.inj hw]
  have hf := fields_8_8_1_3_4_8 0xDC#8 d 0#1 0#3 t row
  refine decode_ok (.tmvGet d t row) rfl ?_
  rw [decodeFields, hf.1]
  show decodeTmv (BitVec.extractLsb' 15 1 _).toNat _ = _
  rw [hf.2.2.1]
  show some (Instr.tmvGet (BitVec.extractLsb' 16 8 _) (BitVec.extractLsb' 8 4 _) (BitVec.extractLsb' 0 8 _)) = _
  rw [hf.2.1, hf.2.2.2.2.1, hf.2.2.2.2.2]

theorem RoundTrip.tmvPut (d : Reg) (t : BitVec 4) (row : Reg) : RoundTrip.Statement (.tmvPut d t row) := by
  intro word hw
  rw [← Option.some.inj hw]
  have hf := fields_8_8_1_3_4_8 0xDC#8 d 1#1 0#3 t row
  refine decode_ok (.tmvPut d t row) rfl ?_
  rw [decodeFields, hf.1]
  show decodeTmv (BitVec.extractLsb' 15 1 _).toNat _ = _
  rw [hf.2.2.1]
  show some (Instr.tmvPut (BitVec.extractLsb' 16 8 _) (BitVec.extractLsb' 8 4 _) (BitVec.extractLsb' 0 8 _)) = _
  rw [hf.2.1, hf.2.2.2.2.1, hf.2.2.2.2.2]

theorem RoundTrip.tfill (t : BitVec 4) (b : Reg) : RoundTrip.Statement (.tfill t b) := by
  intro word hw
  rw [← Option.some.inj hw]
  have hf := fields_8_4_4_8_8 0xDD#8 0#4 t 0#8 b
  refine decode_ok (.tfill t b) rfl ?_
  rw [decodeFields, hf.1]
  show some (Instr.tfill (BitVec.extractLsb' 16 4 _) (BitVec.extractLsb' 0 8 _)) = _
  rw [hf.2.2.1, hf.2.2.2.2]

theorem RoundTrip.copy (d : Reg) (a : Reg) (b : Reg) : RoundTrip.Statement (.copy d a b) := by
  intro word hw
  rw [← Option.some.inj hw]
  have hf := fields_8_8_8_8 0xE0#8 d a b
  refine decode_ok (.copy d a b) rfl ?_
  rw [decodeFields, hf.1]
  show some (Instr.copy (BitVec.extractLsb' 16 8 _) (BitVec.extractLsb' 8 8 _) (BitVec.extractLsb' 0 8 _)) = _
  rw [hf.2.1, hf.2.2.1, hf.2.2.2]

theorem RoundTrip.copyf (ch : BitVec 2) (t : BitVec 4) (a : Reg) (b : Reg) : RoundTrip.Statement (.copyf ch t a b) := by
  intro word hw
  rw [← Option.some.inj hw]
  have hf := fields_8_2_2_4_8_8 0xE1#8 0#2 ch t a b
  refine decode_ok (.copyf ch t a b) rfl ?_
  rw [decodeFields, hf.1]
  show some (Instr.copyf (BitVec.extractLsb' 20 2 _) (BitVec.extractLsb' 16 4 _) (BitVec.extractLsb' 8 8 _) (BitVec.extractLsb' 0 8 _)) = _
  rw [hf.2.2.1, hf.2.2.2.1, hf.2.2.2.2.1, hf.2.2.2.2.2]

theorem RoundTrip.gath (d : Reg) (a : Reg) (b : Reg) : RoundTrip.Statement (.gath d a b) := by
  intro word hw
  rw [← Option.some.inj hw]
  have hf := fields_8_8_8_8 0xE2#8 d a b
  refine decode_ok (.gath d a b) rfl ?_
  rw [decodeFields, hf.1]
  show some (Instr.gath (BitVec.extractLsb' 16 8 _) (BitVec.extractLsb' 8 8 _) (BitVec.extractLsb' 0 8 _)) = _
  rw [hf.2.1, hf.2.2.1, hf.2.2.2]

theorem RoundTrip.scat (d : Reg) (a : Reg) (b : Reg) : RoundTrip.Statement (.scat d a b) := by
  intro word hw
  rw [← Option.some.inj hw]
  have hf := fields_8_8_8_8 0xE3#8 d a b
  refine decode_ok (.scat d a b) rfl ?_
  rw [decodeFields, hf.1]
  show some (Instr.scat (BitVec.extractLsb' 16 8 _) (BitVec.extractLsb' 8 8 _) (BitVec.extractLsb' 0 8 _)) = _
  rw [hf.2.1, hf.2.2.1, hf.2.2.2]

theorem RoundTrip.mcast (d : Reg) (a : Reg) (b : Reg) : RoundTrip.Statement (.mcast d a b) := by
  intro word hw
  rw [← Option.some.inj hw]
  have hf := fields_8_8_8_8 0xE4#8 d a b
  refine decode_ok (.mcast d a b) rfl ?_
  rw [decodeFields, hf.1]
  show some (Instr.mcast (BitVec.extractLsb' 16 8 _) (BitVec.extractLsb' 8 8 _) (BitVec.extractLsb' 0 8 _)) = _
  rw [hf.2.1, hf.2.2.1, hf.2.2.2]

theorem RoundTrip.cfill (d : Reg) (a : Reg) (b : Reg) : RoundTrip.Statement (.cfill d a b) := by
  intro word hw
  rw [← Option.some.inj hw]
  have hf := fields_8_8_8_8 0xE5#8 d a b
  refine decode_ok (.cfill d a b) rfl ?_
  rw [decodeFields, hf.1]
  show some (Instr.cfill (BitVec.extractLsb' 16 8 _) (BitVec.extractLsb' 8 8 _) (BitVec.extractLsb' 0 8 _)) = _
  rw [hf.2.1, hf.2.2.1, hf.2.2.2]

theorem RoundTrip.wait (cls : BitVec 3) (n : BitVec 6) : RoundTrip.Statement (.wait cls n) := by
  intro word hw
  rw [← Option.some.inj hw]
  have hf := fields_8_5_3_10_6 0xE6#8 0#5 cls 0#10 n
  refine decode_ok (.wait cls n) rfl ?_
  rw [decodeFields, hf.1]
  show some (Instr.wait (BitVec.extractLsb' 16 3 _) (BitVec.extractLsb' 0 6 _)) = _
  rw [hf.2.2.1, hf.2.2.2.2]

theorem RoundTrip.cwp (d : Reg) (ch : BitVec 2) : RoundTrip.Statement (.cwp d ch) := by
  intro word hw
  rw [← Option.some.inj hw]
  have hf := fields_8_8_14_2 0xE7#8 d 0#14 ch
  refine decode_ok (.cwp d ch) rfl ?_
  rw [decodeFields, hf.1]
  show some (Instr.cwp (BitVec.extractLsb' 16 8 _) (BitVec.extractLsb' 0 2 _)) = _
  rw [hf.2.1, hf.2.2.2]

theorem RoundTrip.qcall (d : Reg) (r : BitVec 5) (n : BitVec 5) (c : BitVec 6) : RoundTrip.Statement (.qcall d r n c) := by
  intro word hw
  rw [← Option.some.inj hw]
  have hf := fields_8_8_5_5_6 0xE8#8 d r n c
  refine decode_ok (.qcall d r n c) rfl ?_
  rw [decodeFields, hf.1]
  show some (Instr.qcall (BitVec.extractLsb' 16 8 _) (BitVec.extractLsb' 11 5 _) (BitVec.extractLsb' 6 5 _) (BitVec.extractLsb' 0 6 _)) = _
  rw [hf.2.1, hf.2.2.1, hf.2.2.2.1, hf.2.2.2.2]

theorem RoundTrip.qwait (d : Reg) (r : BitVec 5) : RoundTrip.Statement (.qwait d r) := by
  intro word hw
  rw [← Option.some.inj hw]
  have hf := fields_8_8_11_5 0xE9#8 d 0#11 r
  refine decode_ok (.qwait d r) rfl ?_
  rw [decodeFields, hf.1]
  show some (Instr.qwait (BitVec.extractLsb' 16 8 _) (BitVec.extractLsb' 0 5 _)) = _
  rw [hf.2.1, hf.2.2.2]

theorem RoundTrip.qpoll (d : Reg) (c : BitVec 6) : RoundTrip.Statement (.qpoll d c) := by
  intro word hw
  rw [← Option.some.inj hw]
  have hf := fields_8_8_10_6 0xEA#8 d 0#10 c
  refine decode_ok (.qpoll d c) rfl ?_
  rw [decodeFields, hf.1]
  show some (Instr.qpoll (BitVec.extractLsb' 16 8 _) (BitVec.extractLsb' 0 6 _)) = _
  rw [hf.2.1, hf.2.2.2]

theorem RoundTrip.send (d : Reg) (c : BitVec 6) : RoundTrip.Statement (.send d c) := by
  intro word hw
  rw [← Option.some.inj hw]
  have hf := fields_8_8_10_6 0xEB#8 d 0#10 c
  refine decode_ok (.send d c) rfl ?_
  rw [decodeFields, hf.1]
  show some (Instr.send (BitVec.extractLsb' 16 8 _) (BitVec.extractLsb' 0 6 _)) = _
  rw [hf.2.1, hf.2.2.2]

theorem RoundTrip.recv (d : Reg) (c : BitVec 6) : RoundTrip.Statement (.recv d c) := by
  intro word hw
  rw [← Option.some.inj hw]
  have hf := fields_8_8_10_6 0xEC#8 d 0#10 c
  refine decode_ok (.recv d c) rfl ?_
  rw [decodeFields, hf.1]
  show some (Instr.recv (BitVec.extractLsb' 16 8 _) (BitVec.extractLsb' 0 6 _)) = _
  rw [hf.2.1, hf.2.2.2]

theorem RoundTrip.chinfo (d : Reg) (c : BitVec 6) : RoundTrip.Statement (.chinfo d c) := by
  intro word hw
  rw [← Option.some.inj hw]
  have hf := fields_8_8_10_6 0xED#8 d 0#10 c
  refine decode_ok (.chinfo d c) rfl ?_
  rw [decodeFields, hf.1]
  show some (Instr.chinfo (BitVec.extractLsb' 16 8 _) (BitVec.extractLsb' 0 6 _)) = _
  rw [hf.2.1, hf.2.2.2]

theorem RoundTrip.cluPbc (a : Reg) (id : Reg) : RoundTrip.Statement (.cluPbc a id) := by
  intro word hw
  rw [← Option.some.inj hw]
  have hf := fields_8_8_8_8 0xF0#8 1#8 a id
  refine decode_ok (.cluPbc a id) rfl ?_
  rw [decodeFields, hf.1]
  show decodeClu (BitVec.extractLsb' 16 8 _).toNat _ = _
  rw [hf.2.1]
  show some (Instr.cluPbc (BitVec.extractLsb' 8 8 _) (BitVec.extractLsb' 0 8 _)) = _
  rw [hf.2.2.1, hf.2.2.2]

theorem RoundTrip.cluCstat (a : Reg) (b : Reg) : RoundTrip.Statement (.cluCstat a b) := by
  intro word hw
  rw [← Option.some.inj hw]
  have hf := fields_8_8_8_8 0xF0#8 2#8 a b
  refine decode_ok (.cluCstat a b) rfl ?_
  rw [decodeFields, hf.1]
  show decodeClu (BitVec.extractLsb' 16 8 _).toNat _ = _
  rw [hf.2.1]
  show some (Instr.cluCstat (BitVec.extractLsb' 8 8 _) (BitVec.extractLsb' 0 8 _)) = _
  rw [hf.2.2.1, hf.2.2.2]

theorem RoundTrip.xltInv (a : Reg) (b : Reg) : RoundTrip.Statement (.xltInv a b) := by
  intro word hw
  rw [← Option.some.inj hw]
  have hf := fields_8_8_8_8 0xF1#8 1#8 a b
  refine decode_ok (.xltInv a b) rfl ?_
  rw [decodeFields, hf.1]
  show decodeXlt (BitVec.extractLsb' 16 8 _).toNat _ = _
  rw [hf.2.1]
  show some (Instr.xltInv (BitVec.extractLsb' 8 8 _) (BitVec.extractLsb' 0 8 _)) = _
  rw [hf.2.2.1, hf.2.2.2]

theorem RoundTrip.xltProbe (a : Reg) (b : Reg) : RoundTrip.Statement (.xltProbe a b) := by
  intro word hw
  rw [← Option.some.inj hw]
  have hf := fields_8_8_8_8 0xF1#8 2#8 a b
  refine decode_ok (.xltProbe a b) rfl ?_
  rw [decodeFields, hf.1]
  show decodeXlt (BitVec.extractLsb' 16 8 _).toNat _ = _
  rw [hf.2.1]
  show some (Instr.xltProbe (BitVec.extractLsb' 8 8 _) (BitVec.extractLsb' 0 8 _)) = _
  rw [hf.2.2.1, hf.2.2.2]

theorem RoundTrip.xltReplay (b : Reg) : RoundTrip.Statement (.xltReplay b) := by
  intro word hw
  rw [← Option.some.inj hw]
  have hf := fields_8_8_8_8 0xF1#8 3#8 0#8 b
  refine decode_ok (.xltReplay b) rfl ?_
  rw [decodeFields, hf.1]
  show decodeXlt (BitVec.extractLsb' 16 8 _).toNat _ = _
  rw [hf.2.1]
  show some (Instr.xltReplay (BitVec.extractLsb' 0 8 _)) = _
  rw [hf.2.2.2]

theorem RoundTrip.xltCancel (b : Reg) : RoundTrip.Statement (.xltCancel b) := by
  intro word hw
  rw [← Option.some.inj hw]
  have hf := fields_8_8_8_8 0xF1#8 4#8 0#8 b
  refine decode_ok (.xltCancel b) rfl ?_
  rw [decodeFields, hf.1]
  show decodeXlt (BitVec.extractLsb' 16 8 _).toNat _ = _
  rw [hf.2.1]
  show some (Instr.xltCancel (BitVec.extractLsb' 0 8 _)) = _
  rw [hf.2.2.2]

theorem RoundTrip.xltFblk (a : Reg) (b : Reg) : RoundTrip.Statement (.xltFblk a b) := by
  intro word hw
  rw [← Option.some.inj hw]
  have hf := fields_8_8_8_8 0xF1#8 5#8 a b
  refine decode_ok (.xltFblk a b) rfl ?_
  rw [decodeFields, hf.1]
  show decodeXlt (BitVec.extractLsb' 16 8 _).toNat _ = _
  rw [hf.2.1]
  show some (Instr.xltFblk (BitVec.extractLsb' 8 8 _) (BitVec.extractLsb' 0 8 _)) = _
  rw [hf.2.2.1, hf.2.2.2]

theorem RoundTrip.xltFmove (a : Reg) (b : Reg) : RoundTrip.Statement (.xltFmove a b) := by
  intro word hw
  rw [← Option.some.inj hw]
  have hf := fields_8_8_8_8 0xF1#8 6#8 a b
  refine decode_ok (.xltFmove a b) rfl ?_
  rw [decodeFields, hf.1]
  show decodeXlt (BitVec.extractLsb' 16 8 _).toNat _ = _
  rw [hf.2.1]
  show some (Instr.xltFmove (BitVec.extractLsb' 8 8 _) (BitVec.extractLsb' 0 8 _)) = _
  rw [hf.2.2.1, hf.2.2.2]

theorem RoundTrip.xltFunblk (a : Reg) (b : Reg) : RoundTrip.Statement (.xltFunblk a b) := by
  intro word hw
  rw [← Option.some.inj hw]
  have hf := fields_8_8_8_8 0xF1#8 7#8 a b
  refine decode_ok (.xltFunblk a b) rfl ?_
  rw [decodeFields, hf.1]
  show decodeXlt (BitVec.extractLsb' 16 8 _).toNat _ = _
  rw [hf.2.1]
  show some (Instr.xltFunblk (BitVec.extractLsb' 8 8 _) (BitVec.extractLsb' 0 8 _)) = _
  rw [hf.2.2.1, hf.2.2.2]

theorem RoundTrip.ckpPreg (a : Reg) (b : Reg) : RoundTrip.Statement (.ckpPreg a b) := by
  intro word hw
  rw [← Option.some.inj hw]
  have hf := fields_8_8_8_8 0xF2#8 1#8 a b
  refine decode_ok (.ckpPreg a b) rfl ?_
  rw [decodeFields, hf.1]
  show decodeCkp (BitVec.extractLsb' 16 8 _).toNat _ = _
  rw [hf.2.1]
  show some (Instr.ckpPreg (BitVec.extractLsb' 8 8 _) (BitVec.extractLsb' 0 8 _)) = _
  rw [hf.2.2.1, hf.2.2.2]

theorem RoundTrip.ckpGreg (a : Reg) (b : Reg) : RoundTrip.Statement (.ckpGreg a b) := by
  intro word hw
  rw [← Option.some.inj hw]
  have hf := fields_8_8_8_8 0xF2#8 2#8 a b
  refine decode_ok (.ckpGreg a b) rfl ?_
  rw [decodeFields, hf.1]
  show decodeCkp (BitVec.extractLsb' 16 8 _).toNat _ = _
  rw [hf.2.1]
  show some (Instr.ckpGreg (BitVec.extractLsb' 8 8 _) (BitVec.extractLsb' 0 8 _)) = _
  rw [hf.2.2.1, hf.2.2.2]

theorem RoundTrip.ckpUnreg (a : Reg) (b : Reg) : RoundTrip.Statement (.ckpUnreg a b) := by
  intro word hw
  rw [← Option.some.inj hw]
  have hf := fields_8_8_8_8 0xF2#8 3#8 a b
  refine decode_ok (.ckpUnreg a b) rfl ?_
  rw [decodeFields, hf.1]
  show decodeCkp (BitVec.extractLsb' 16 8 _).toNat _ = _
  rw [hf.2.1]
  show some (Instr.ckpUnreg (BitVec.extractLsb' 8 8 _) (BitVec.extractLsb' 0 8 _)) = _
  rw [hf.2.2.1, hf.2.2.2]

theorem RoundTrip.ckpGlaunch (a : Reg) (b : Reg) : RoundTrip.Statement (.ckpGlaunch a b) := by
  intro word hw
  rw [← Option.some.inj hw]
  have hf := fields_8_8_8_8 0xF2#8 4#8 a b
  refine decode_ok (.ckpGlaunch a b) rfl ?_
  rw [decodeFields, hf.1]
  show decodeCkp (BitVec.extractLsb' 16 8 _).toNat _ = _
  rw [hf.2.1]
  show some (Instr.ckpGlaunch (BitVec.extractLsb' 8 8 _) (BitVec.extractLsb' 0 8 _)) = _
  rw [hf.2.2.1, hf.2.2.2]

theorem RoundTrip.ckpGstat (a : Reg) (b : Reg) : RoundTrip.Statement (.ckpGstat a b) := by
  intro word hw
  rw [← Option.some.inj hw]
  have hf := fields_8_8_8_8 0xF2#8 5#8 a b
  refine decode_ok (.ckpGstat a b) rfl ?_
  rw [decodeFields, hf.1]
  show decodeCkp (BitVec.extractLsb' 16 8 _).toNat _ = _
  rw [hf.2.1]
  show some (Instr.ckpGstat (BitVec.extractLsb' 8 8 _) (BitVec.extractLsb' 0 8 _)) = _
  rw [hf.2.2.1, hf.2.2.2]

theorem RoundTrip.ckpTake (a : Reg) (b : Reg) : RoundTrip.Statement (.ckpTake a b) := by
  intro word hw
  rw [← Option.some.inj hw]
  have hf := fields_8_8_8_8 0xF2#8 6#8 a b
  refine decode_ok (.ckpTake a b) rfl ?_
  rw [decodeFields, hf.1]
  show decodeCkp (BitVec.extractLsb' 16 8 _).toNat _ = _
  rw [hf.2.1]
  show some (Instr.ckpTake (BitVec.extractLsb' 8 8 _) (BitVec.extractLsb' 0 8 _)) = _
  rw [hf.2.2.1, hf.2.2.2]

theorem RoundTrip.ckpRoll (a : Reg) (b : Reg) : RoundTrip.Statement (.ckpRoll a b) := by
  intro word hw
  rw [← Option.some.inj hw]
  have hf := fields_8_8_8_8 0xF2#8 7#8 a b
  refine decode_ok (.ckpRoll a b) rfl ?_
  rw [decodeFields, hf.1]
  show decodeCkp (BitVec.extractLsb' 16 8 _).toNat _ = _
  rw [hf.2.1]
  show some (Instr.ckpRoll (BitVec.extractLsb' 8 8 _) (BitVec.extractLsb' 0 8 _)) = _
  rw [hf.2.2.1, hf.2.2.2]

theorem RoundTrip.ckpDrain (a : Reg) (b : Reg) : RoundTrip.Statement (.ckpDrain a b) := by
  intro word hw
  rw [← Option.some.inj hw]
  have hf := fields_8_8_8_8 0xF2#8 8#8 a b
  refine decode_ok (.ckpDrain a b) rfl ?_
  rw [decodeFields, hf.1]
  show decodeCkp (BitVec.extractLsb' 16 8 _).toNat _ = _
  rw [hf.2.1]
  show some (Instr.ckpDrain (BitVec.extractLsb' 8 8 _) (BitVec.extractLsb' 0 8 _)) = _
  rw [hf.2.2.1, hf.2.2.2]

theorem RoundTrip.ckpRestore (a : Reg) (b : Reg) : RoundTrip.Statement (.ckpRestore a b) := by
  intro word hw
  rw [← Option.some.inj hw]
  have hf := fields_8_8_8_8 0xF2#8 9#8 a b
  refine decode_ok (.ckpRestore a b) rfl ?_
  rw [decodeFields, hf.1]
  show decodeCkp (BitVec.extractLsb' 16 8 _).toNat _ = _
  rw [hf.2.1]
  show some (Instr.ckpRestore (BitVec.extractLsb' 8 8 _) (BitVec.extractLsb' 0 8 _)) = _
  rw [hf.2.2.1, hf.2.2.2]

theorem RoundTrip.ckpEpnew (b : Reg) : RoundTrip.Statement (.ckpEpnew b) := by
  intro word hw
  rw [← Option.some.inj hw]
  have hf := fields_8_8_8_8 0xF2#8 10#8 0#8 b
  refine decode_ok (.ckpEpnew b) rfl ?_
  rw [decodeFields, hf.1]
  show decodeCkp (BitVec.extractLsb' 16 8 _).toNat _ = _
  rw [hf.2.1]
  show some (Instr.ckpEpnew (BitVec.extractLsb' 0 8 _)) = _
  rw [hf.2.2.2]

theorem RoundTrip.ckpDeadline (a : Reg) (b : Reg) : RoundTrip.Statement (.ckpDeadline a b) := by
  intro word hw
  rw [← Option.some.inj hw]
  have hf := fields_8_8_8_8 0xF2#8 11#8 a b
  refine decode_ok (.ckpDeadline a b) rfl ?_
  rw [decodeFields, hf.1]
  show decodeCkp (BitVec.extractLsb' 16 8 _).toNat _ = _
  rw [hf.2.1]
  show some (Instr.ckpDeadline (BitVec.extractLsb' 8 8 _) (BitVec.extractLsb' 0 8 _)) = _
  rw [hf.2.2.1, hf.2.2.2]

theorem RoundTrip.ckpBudget (a : Reg) (b : Reg) : RoundTrip.Statement (.ckpBudget a b) := by
  intro word hw
  rw [← Option.some.inj hw]
  have hf := fields_8_8_8_8 0xF2#8 12#8 a b
  refine decode_ok (.ckpBudget a b) rfl ?_
  rw [decodeFields, hf.1]
  show decodeCkp (BitVec.extractLsb' 16 8 _).toNat _ = _
  rw [hf.2.1]
  show some (Instr.ckpBudget (BitVec.extractLsb' 8 8 _) (BitVec.extractLsb' 0 8 _)) = _
  rw [hf.2.2.1, hf.2.2.2]

theorem RoundTrip.dbgAttach (a : Reg) (b : Reg) : RoundTrip.Statement (.dbgAttach a b) := by
  intro word hw
  rw [← Option.some.inj hw]
  have hf := fields_8_8_8_8 0xF3#8 1#8 a b
  refine decode_ok (.dbgAttach a b) rfl ?_
  rw [decodeFields, hf.1]
  show decodeDbg (BitVec.extractLsb' 16 8 _).toNat _ = _
  rw [hf.2.1]
  show some (Instr.dbgAttach (BitVec.extractLsb' 8 8 _) (BitVec.extractLsb' 0 8 _)) = _
  rw [hf.2.2.1, hf.2.2.2]

theorem RoundTrip.dbgDetach (b : Reg) : RoundTrip.Statement (.dbgDetach b) := by
  intro word hw
  rw [← Option.some.inj hw]
  have hf := fields_8_8_8_8 0xF3#8 2#8 0#8 b
  refine decode_ok (.dbgDetach b) rfl ?_
  rw [decodeFields, hf.1]
  show decodeDbg (BitVec.extractLsb' 16 8 _).toNat _ = _
  rw [hf.2.1]
  show some (Instr.dbgDetach (BitVec.extractLsb' 0 8 _)) = _
  rw [hf.2.2.2]

theorem RoundTrip.dbgWpset (w : Reg) (b : Reg) : RoundTrip.Statement (.dbgWpset w b) := by
  intro word hw
  rw [← Option.some.inj hw]
  have hf := fields_8_8_8_8 0xF3#8 3#8 w b
  refine decode_ok (.dbgWpset w b) rfl ?_
  rw [decodeFields, hf.1]
  show decodeDbg (BitVec.extractLsb' 16 8 _).toNat _ = _
  rw [hf.2.1]
  show some (Instr.dbgWpset (BitVec.extractLsb' 8 8 _) (BitVec.extractLsb' 0 8 _)) = _
  rw [hf.2.2.1, hf.2.2.2]

theorem RoundTrip.dbgStop (b : Reg) : RoundTrip.Statement (.dbgStop b) := by
  intro word hw
  rw [← Option.some.inj hw]
  have hf := fields_8_8_8_8 0xF3#8 4#8 0#8 b
  refine decode_ok (.dbgStop b) rfl ?_
  rw [decodeFields, hf.1]
  show decodeDbg (BitVec.extractLsb' 16 8 _).toNat _ = _
  rw [hf.2.1]
  show some (Instr.dbgStop (BitVec.extractLsb' 0 8 _)) = _
  rw [hf.2.2.2]

theorem RoundTrip.dbgGo (b : Reg) : RoundTrip.Statement (.dbgGo b) := by
  intro word hw
  rw [← Option.some.inj hw]
  have hf := fields_8_8_8_8 0xF3#8 5#8 0#8 b
  refine decode_ok (.dbgGo b) rfl ?_
  rw [decodeFields, hf.1]
  show decodeDbg (BitVec.extractLsb' 16 8 _).toNat _ = _
  rw [hf.2.1]
  show some (Instr.dbgGo (BitVec.extractLsb' 0 8 _)) = _
  rw [hf.2.2.2]

theorem RoundTrip.dbgStep (b : Reg) : RoundTrip.Statement (.dbgStep b) := by
  intro word hw
  rw [← Option.some.inj hw]
  have hf := fields_8_8_8_8 0xF3#8 6#8 0#8 b
  refine decode_ok (.dbgStep b) rfl ?_
  rw [decodeFields, hf.1]
  show decodeDbg (BitVec.extractLsb' 16 8 _).toNat _ = _
  rw [hf.2.1]
  show some (Instr.dbgStep (BitVec.extractLsb' 0 8 _)) = _
  rw [hf.2.2.2]

theorem RoundTrip.dbgRd (a : Reg) (b : Reg) : RoundTrip.Statement (.dbgRd a b) := by
  intro word hw
  rw [← Option.some.inj hw]
  have hf := fields_8_8_8_8 0xF3#8 7#8 a b
  refine decode_ok (.dbgRd a b) rfl ?_
  rw [decodeFields, hf.1]
  show decodeDbg (BitVec.extractLsb' 16 8 _).toNat _ = _
  rw [hf.2.1]
  show some (Instr.dbgRd (BitVec.extractLsb' 8 8 _) (BitVec.extractLsb' 0 8 _)) = _
  rw [hf.2.2.1, hf.2.2.2]

theorem RoundTrip.dbgWr (a : Reg) (b : Reg) : RoundTrip.Statement (.dbgWr a b) := by
  intro word hw
  rw [← Option.some.inj hw]
  have hf := fields_8_8_8_8 0xF3#8 8#8 a b
  refine decode_ok (.dbgWr a b) rfl ?_
  rw [decodeFields, hf.1]
  show decodeDbg (BitVec.extractLsb' 16 8 _).toNat _ = _
  rw [hf.2.1]
  show some (Instr.dbgWr (BitVec.extractLsb' 8 8 _) (BitVec.extractLsb' 0 8 _)) = _
  rw [hf.2.2.1, hf.2.2.2]

theorem RoundTrip.dbgWait (b : Reg) : RoundTrip.Statement (.dbgWait b) := by
  intro word hw
  rw [← Option.some.inj hw]
  have hf := fields_8_8_8_8 0xF3#8 9#8 0#8 b
  refine decode_ok (.dbgWait b) rfl ?_
  rw [decodeFields, hf.1]
  show decodeDbg (BitVec.extractLsb' 16 8 _).toNat _ = _
  rw [hf.2.1]
  show some (Instr.dbgWait (BitVec.extractLsb' 0 8 _)) = _
  rw [hf.2.2.2]

theorem RoundTrip.dbgFreeze (b : Reg) : RoundTrip.Statement (.dbgFreeze b) := by
  intro word hw
  rw [← Option.some.inj hw]
  have hf := fields_8_8_8_8 0xF3#8 16#8 0#8 b
  refine decode_ok (.dbgFreeze b) rfl ?_
  rw [decodeFields, hf.1]
  show decodeDbg (BitVec.extractLsb' 16 8 _).toNat _ = _
  rw [hf.2.1]
  show some (Instr.dbgFreeze (BitVec.extractLsb' 0 8 _)) = _
  rw [hf.2.2.2]

theorem RoundTrip.dbgThaw (b : Reg) : RoundTrip.Statement (.dbgThaw b) := by
  intro word hw
  rw [← Option.some.inj hw]
  have hf := fields_8_8_8_8 0xF3#8 17#8 0#8 b
  refine decode_ok (.dbgThaw b) rfl ?_
  rw [decodeFields, hf.1]
  show decodeDbg (BitVec.extractLsb' 16 8 _).toNat _ = _
  rw [hf.2.1]
  show some (Instr.dbgThaw (BitVec.extractLsb' 0 8 _)) = _
  rw [hf.2.2.2]

theorem RoundTrip.dbgWhy (a : Reg) (b : Reg) : RoundTrip.Statement (.dbgWhy a b) := by
  intro word hw
  rw [← Option.some.inj hw]
  have hf := fields_8_8_8_8 0xF3#8 18#8 a b
  refine decode_ok (.dbgWhy a b) rfl ?_
  rw [decodeFields, hf.1]
  show decodeDbg (BitVec.extractLsb' 16 8 _).toNat _ = _
  rw [hf.2.1]
  show some (Instr.dbgWhy (BitVec.extractLsb' 8 8 _) (BitVec.extractLsb' 0 8 _)) = _
  rw [hf.2.2.1, hf.2.2.2]

theorem RoundTrip.dbgVwpset (w : Reg) (b : Reg) : RoundTrip.Statement (.dbgVwpset w b) := by
  intro word hw
  rw [← Option.some.inj hw]
  have hf := fields_8_8_8_8 0xF3#8 19#8 w b
  refine decode_ok (.dbgVwpset w b) rfl ?_
  rw [decodeFields, hf.1]
  show decodeDbg (BitVec.extractLsb' 16 8 _).toNat _ = _
  rw [hf.2.1]
  show some (Instr.dbgVwpset (BitVec.extractLsb' 8 8 _) (BitVec.extractLsb' 0 8 _)) = _
  rw [hf.2.2.1, hf.2.2.2]

theorem RoundTrip.modgShare (a : Reg) (b : Reg) : RoundTrip.Statement (.modgShare a b) := by
  intro word hw
  rw [← Option.some.inj hw]
  have hf := fields_8_8_8_8 0xF4#8 1#8 a b
  refine decode_ok (.modgShare a b) rfl ?_
  rw [decodeFields, hf.1]
  show decodeModg (BitVec.extractLsb' 16 8 _).toNat _ = _
  rw [hf.2.1]
  show some (Instr.modgShare (BitVec.extractLsb' 8 8 _) (BitVec.extractLsb' 0 8 _)) = _
  rw [hf.2.2.1, hf.2.2.2]

theorem RoundTrip.modgUnshare (a : Reg) (b : Reg) : RoundTrip.Statement (.modgUnshare a b) := by
  intro word hw
  rw [← Option.some.inj hw]
  have hf := fields_8_8_8_8 0xF4#8 2#8 a b
  refine decode_ok (.modgUnshare a b) rfl ?_
  rw [decodeFields, hf.1]
  show decodeModg (BitVec.extractLsb' 16 8 _).toNat _ = _
  rw [hf.2.1]
  show some (Instr.modgUnshare (BitVec.extractLsb' 8 8 _) (BitVec.extractLsb' 0 8 _)) = _
  rw [hf.2.2.1, hf.2.2.2]

theorem RoundTrip.modgFork (a : Reg) (b : Reg) : RoundTrip.Statement (.modgFork a b) := by
  intro word hw
  rw [← Option.some.inj hw]
  have hf := fields_8_8_8_8 0xF4#8 3#8 a b
  refine decode_ok (.modgFork a b) rfl ?_
  rw [decodeFields, hf.1]
  show decodeModg (BitVec.extractLsb' 16 8 _).toNat _ = _
  rw [hf.2.1]
  show some (Instr.modgFork (BitVec.extractLsb' 8 8 _) (BitVec.extractLsb' 0 8 _)) = _
  rw [hf.2.2.1, hf.2.2.2]

theorem RoundTrip.modgKey (a : Reg) (b : Reg) : RoundTrip.Statement (.modgKey a b) := by
  intro word hw
  rw [← Option.some.inj hw]
  have hf := fields_8_8_8_8 0xF4#8 4#8 a b
  refine decode_ok (.modgKey a b) rfl ?_
  rw [decodeFields, hf.1]
  show decodeModg (BitVec.extractLsb' 16 8 _).toNat _ = _
  rw [hf.2.1]
  show some (Instr.modgKey (BitVec.extractLsb' 8 8 _) (BitVec.extractLsb' 0 8 _)) = _
  rw [hf.2.2.1, hf.2.2.2]

theorem RoundTrip.modgFassign (a : Reg) (b : Reg) : RoundTrip.Statement (.modgFassign a b) := by
  intro word hw
  rw [← Option.some.inj hw]
  have hf := fields_8_8_8_8 0xF4#8 5#8 a b
  refine decode_ok (.modgFassign a b) rfl ?_
  rw [decodeFields, hf.1]
  show decodeModg (BitVec.extractLsb' 16 8 _).toNat _ = _
  rw [hf.2.1]
  show some (Instr.modgFassign (BitVec.extractLsb' 8 8 _) (BitVec.extractLsb' 0 8 _)) = _
  rw [hf.2.2.1, hf.2.2.2]

theorem RoundTrip.modgMigr (a : Reg) (b : Reg) : RoundTrip.Statement (.modgMigr a b) := by
  intro word hw
  rw [← Option.some.inj hw]
  have hf := fields_8_8_8_8 0xF4#8 6#8 a b
  refine decode_ok (.modgMigr a b) rfl ?_
  rw [decodeFields, hf.1]
  show decodeModg (BitVec.extractLsb' 16 8 _).toNat _ = _
  rw [hf.2.1]
  show some (Instr.modgMigr (BitVec.extractLsb' 8 8 _) (BitVec.extractLsb' 0 8 _)) = _
  rw [hf.2.2.1, hf.2.2.2]

theorem RoundTrip.modgMdone (a : Reg) (b : Reg) : RoundTrip.Statement (.modgMdone a b) := by
  intro word hw
  rw [← Option.some.inj hw]
  have hf := fields_8_8_8_8 0xF4#8 7#8 a b
  refine decode_ok (.modgMdone a b) rfl ?_
  rw [decodeFields, hf.1]
  show decodeModg (BitVec.extractLsb' 16 8 _).toNat _ = _
  rw [hf.2.1]
  show some (Instr.modgMdone (BitVec.extractLsb' 8 8 _) (BitVec.extractLsb' 0 8 _)) = _
  rw [hf.2.2.1, hf.2.2.2]

theorem RoundTrip.modgHeal (a : Reg) (b : Reg) : RoundTrip.Statement (.modgHeal a b) := by
  intro word hw
  rw [← Option.some.inj hw]
  have hf := fields_8_8_8_8 0xF4#8 8#8 a b
  refine decode_ok (.modgHeal a b) rfl ?_
  rw [decodeFields, hf.1]
  show decodeModg (BitVec.extractLsb' 16 8 _).toNat _ = _
  rw [hf.2.1]
  show some (Instr.modgHeal (BitVec.extractLsb' 8 8 _) (BitVec.extractLsb' 0 8 _)) = _
  rw [hf.2.2.1, hf.2.2.2]

theorem RoundTrip.modgSopen (a : Reg) (b : Reg) : RoundTrip.Statement (.modgSopen a b) := by
  intro word hw
  rw [← Option.some.inj hw]
  have hf := fields_8_8_8_8 0xF4#8 9#8 a b
  refine decode_ok (.modgSopen a b) rfl ?_
  rw [decodeFields, hf.1]
  show decodeModg (BitVec.extractLsb' 16 8 _).toNat _ = _
  rw [hf.2.1]
  show some (Instr.modgSopen (BitVec.extractLsb' 8 8 _) (BitVec.extractLsb' 0 8 _)) = _
  rw [hf.2.2.1, hf.2.2.2]

theorem RoundTrip.modgSclose (a : Reg) (b : Reg) : RoundTrip.Statement (.modgSclose a b) := by
  intro word hw
  rw [← Option.some.inj hw]
  have hf := fields_8_8_8_8 0xF4#8 10#8 a b
  refine decode_ok (.modgSclose a b) rfl ?_
  rw [decodeFields, hf.1]
  show decodeModg (BitVec.extractLsb' 16 8 _).toNat _ = _
  rw [hf.2.1]
  show some (Instr.modgSclose (BitVec.extractLsb' 8 8 _) (BitVec.extractLsb' 0 8 _)) = _
  rw [hf.2.2.1, hf.2.2.2]

theorem RoundTrip.pauseExpiry : RoundTrip.Statement .pauseExpiry := fun _ h => by simp [encode] at h

theorem RoundTrip.resultWrite : RoundTrip.Statement .resultWrite := fun _ h => by simp [encode] at h

theorem RoundTrip.qcallAppend : RoundTrip.Statement .qcallAppend := fun _ h => by simp [encode] at h

theorem RoundTrip.sendAppend : RoundTrip.Statement .sendAppend := fun _ h => by simp [encode] at h

theorem RoundTrip.producerDelivery : RoundTrip.Statement .producerDelivery := fun _ h => by simp [encode] at h

theorem RoundTrip.returnRecord : RoundTrip.Statement .returnRecord := fun _ h => by simp [encode] at h

theorem RoundTrip.unitFaultTrap : RoundTrip.Statement .unitFaultTrap := fun _ h => by simp [encode] at h

theorem RoundTrip.trapEntry : RoundTrip.Statement .trapEntry := fun _ h => by simp [encode] at h

theorem RoundTrip.teamLaunch : RoundTrip.Statement .teamLaunch := fun _ h => by simp [encode] at h

theorem RoundTrip.teamExit : RoundTrip.Statement .teamExit := fun _ h => by simp [encode] at h

theorem RoundTrip.commandFire : RoundTrip.Statement .commandFire := fun _ h => by simp [encode] at h

theorem RoundTrip.commandRetire : RoundTrip.Statement .commandRetire := fun _ h => by simp [encode] at h

theorem RoundTrip.copyDelivery : RoundTrip.Statement .copyDelivery := fun _ h => by simp [encode] at h

theorem RoundTrip.followOnPush : RoundTrip.Statement .followOnPush := fun _ h => by simp [encode] at h

theorem RoundTrip.mxReset : RoundTrip.Statement .mxReset := fun _ h => by simp [encode] at h

theorem RoundTrip.crewLaunch : RoundTrip.Statement .crewLaunch := fun _ h => by simp [encode] at h

theorem RoundTrip.mcastFillLand : RoundTrip.Statement .mcastFillLand := fun _ h => by simp [encode] at h

theorem RoundTrip.drainSave : RoundTrip.Statement .drainSave := fun _ h => by simp [encode] at h

theorem RoundTrip.drainDeadline : RoundTrip.Statement .drainDeadline := fun _ h => by simp [encode] at h

theorem RoundTrip.timeSliceEnd : RoundTrip.Statement .timeSliceEnd := fun _ h => by simp [encode] at h

theorem RoundTrip.accessAtHome : RoundTrip.Statement .accessAtHome := fun _ h => by simp [encode] at h

theorem RoundTrip.leaseRenewal : RoundTrip.Statement .leaseRenewal := fun _ h => by simp [encode] at h

theorem RoundTrip.confirmationRequest : RoundTrip.Statement .confirmationRequest := fun _ h => by simp [encode] at h

theorem RoundTrip.watchConfirm : RoundTrip.Statement .watchConfirm := fun _ h => by simp [encode] at h

theorem RoundTrip.watchStrike : RoundTrip.Statement .watchStrike := fun _ h => by simp [encode] at h

theorem RoundTrip.watchTimeout : RoundTrip.Statement .watchTimeout := fun _ h => by simp [encode] at h

theorem RoundTrip.versionReport : RoundTrip.Statement .versionReport := fun _ h => by simp [encode] at h

theorem RoundTrip.stopRecords : RoundTrip.Statement .stopRecords := fun _ h => by simp [encode] at h

theorem RoundTrip.stepWindowClose : RoundTrip.Statement .stepWindowClose := fun _ h => by simp [encode] at h

theorem RoundTrip.recordReserve : RoundTrip.Statement .recordReserve := fun _ h => by simp [encode] at h

theorem RoundTrip.recordCommit : RoundTrip.Statement .recordCommit := fun _ h => by simp [encode] at h

theorem RoundTrip.instanceStart : RoundTrip.Statement .instanceStart := fun _ h => by simp [encode] at h

theorem RoundTrip.phaseComplete : RoundTrip.Statement .phaseComplete := fun _ h => by simp [encode] at h

theorem RoundTrip.budgetWindow : RoundTrip.Statement .budgetWindow := fun _ h => by simp [encode] at h

theorem RoundTrip.dieTemperature : RoundTrip.Statement .dieTemperature := fun _ h => by simp [encode] at h

theorem RoundTrip.thermtrip : RoundTrip.Statement .thermtrip := fun _ h => by simp [encode] at h

theorem RoundTrip.cutAttempt : RoundTrip.Statement .cutAttempt := fun _ h => by simp [encode] at h

theorem RoundTrip.cut : RoundTrip.Statement .cut := fun _ h => by simp [encode] at h

theorem RoundTrip.cutWaitExpiry : RoundTrip.Statement .cutWaitExpiry := fun _ h => by simp [encode] at h

theorem RoundTrip.cutRetry : RoundTrip.Statement .cutRetry := fun _ h => by simp [encode] at h

theorem RoundTrip.rollback : RoundTrip.Statement .rollback := fun _ h => by simp [encode] at h

theorem RoundTrip.vrOpen : RoundTrip.Statement .vrOpen := fun _ h => by simp [encode] at h

theorem RoundTrip.vrPrim : RoundTrip.Statement .vrPrim := fun _ h => by simp [encode] at h

theorem RoundTrip.vrDone : RoundTrip.Statement .vrDone := fun _ h => by simp [encode] at h

theorem RoundTrip.vrWaitf : RoundTrip.Statement .vrWaitf := fun _ h => by simp [encode] at h

theorem RoundTrip.vrSlotFinal : RoundTrip.Statement .vrSlotFinal := fun _ h => by simp [encode] at h

theorem RoundTrip.buOpenf : RoundTrip.Statement .buOpenf := fun _ h => by simp [encode] at h

theorem RoundTrip.buBin : RoundTrip.Statement .buBin := fun _ h => by simp [encode] at h

theorem RoundTrip.buClose : RoundTrip.Statement .buClose := fun _ h => by simp [encode] at h

theorem RoundTrip.bluOpen : RoundTrip.Statement .bluOpen := fun _ h => by simp [encode] at h

theorem RoundTrip.bluFrag : RoundTrip.Statement .bluFrag := fun _ h => by simp [encode] at h

theorem RoundTrip.bluDone : RoundTrip.Statement .bluDone := fun _ h => by simp [encode] at h

theorem RoundTrip.bluWaitf : RoundTrip.Statement .bluWaitf := fun _ h => by simp [encode] at h

theorem RoundTrip.bluCommit : RoundTrip.Statement .bluCommit := fun _ h => by simp [encode] at h

theorem RoundTrip.tfuSample : RoundTrip.Statement .tfuSample := fun _ h => by simp [encode] at h

theorem RoundTrip.ryuTrace : RoundTrip.Statement .ryuTrace := fun _ h => by simp [encode] at h

theorem RoundTrip.bvoStart : RoundTrip.Statement .bvoStart := fun _ h => by simp [encode] at h

theorem RoundTrip.bvoStop : RoundTrip.Statement .bvoStop := fun _ h => by simp [encode] at h

theorem RoundTrip.bvoSubtreeReplace : RoundTrip.Statement .bvoSubtreeReplace := fun _ h => by simp [encode] at h

theorem RoundTrip.fenOpens : RoundTrip.Statement .fenOpens := fun _ h => by simp [encode] at h

theorem RoundTrip.fenFrame : RoundTrip.Statement .fenFrame := fun _ h => by simp [encode] at h

theorem RoundTrip.fenRelease : RoundTrip.Statement .fenRelease := fun _ h => by simp [encode] at h

theorem RoundTrip.fenCloses : RoundTrip.Statement .fenCloses := fun _ h => by simp [encode] at h

theorem RoundTrip.unitReset : RoundTrip.Statement .unitReset := fun _ h => by simp [encode] at h

theorem RoundTrip.faultRecordWrite : RoundTrip.Statement .faultRecordWrite := fun _ h => by simp [encode] at h

theorem RoundTrip.gangUnpark : RoundTrip.Statement .gangUnpark := fun _ h => by simp [encode] at h

theorem RoundTrip.hang : RoundTrip.Statement .hang := fun _ h => by simp [encode] at h

theorem RoundTrip.uncorrectableError : RoundTrip.Statement .uncorrectableError := fun _ h => by simp [encode] at h

theorem RoundTrip.correctableError : RoundTrip.Statement .correctableError := fun _ h => by simp [encode] at h

theorem RoundTrip.pcmdCommit : RoundTrip.Statement .pcmdCommit := fun _ h => by simp [encode] at h

theorem RoundTrip.pcmdRelease : RoundTrip.Statement .pcmdRelease := fun _ h => by simp [encode] at h

theorem RoundTrip.doorbell : RoundTrip.Statement .doorbell := fun _ h => by simp [encode] at h

theorem RoundTrip.attcmdGo : RoundTrip.Statement .attcmdGo := fun _ h => by simp [encode] at h

theorem RoundTrip.attestationDone : RoundTrip.Statement .attestationDone := fun _ h => by simp [encode] at h

theorem RoundTrip.dbgcmdFreeze : RoundTrip.Statement .dbgcmdFreeze := fun _ h => by simp [encode] at h

theorem RoundTrip.dbgcmdThaw : RoundTrip.Statement .dbgcmdThaw := fun _ h => by simp [encode] at h

theorem RoundTrip.dbgdataRead : RoundTrip.Statement .dbgdataRead := fun _ h => by simp [encode] at h

theorem RoundTrip.dbgdataWrite : RoundTrip.Statement .dbgdataWrite := fun _ h => by simp [encode] at h

theorem RoundTrip.errCounterWrite : RoundTrip.Statement .errCounterWrite := fun _ h => by simp [encode] at h

theorem RoundTrip.mgmtRegisterWrite : RoundTrip.Statement .mgmtRegisterWrite := fun _ h => by simp [encode] at h

theorem RoundTrip.priResponse : RoundTrip.Statement .priResponse := fun _ h => by simp [encode] at h

theorem RoundTrip.atsTranslationResponse : RoundTrip.Statement .atsTranslationResponse := fun _ h => by simp [encode] at h

theorem RoundTrip.atsInvalidation : RoundTrip.Statement .atsInvalidation := fun _ h => by simp [encode] at h

theorem RoundTrip.moduleResetRelease : RoundTrip.Statement .moduleResetRelease := fun _ h => by simp [encode] at h

theorem RoundTrip.flitCheckFail : RoundTrip.Statement .flitCheckFail := fun _ h => by simp [encode] at h

theorem RoundTrip.portDown : RoundTrip.Statement .portDown := fun _ h => by simp [encode] at h

theorem RoundTrip.collectiveAllreduce : RoundTrip.Statement .collectiveAllreduce := fun _ h => by simp [encode] at h

theorem RoundTrip.collectiveBroadcast : RoundTrip.Statement .collectiveBroadcast := fun _ h => by simp [encode] at h

theorem RoundTrip.collectiveResult : RoundTrip.Statement .collectiveResult := fun _ h => by simp [encode] at h

theorem RoundTrip.illegalOpcode : RoundTrip.Statement .illegalOpcode := fun _ h => by simp [encode] at h

theorem RoundTrip.sequenceFetch : RoundTrip.Statement .sequenceFetch := fun _ h => by simp [encode] at h

theorem RoundTrip.hostPostedWrite : RoundTrip.Statement .hostPostedWrite := fun _ h => by simp [encode] at h

theorem RoundTrip.moduleReset : RoundTrip.Statement .moduleReset := fun _ h => by simp [encode] at h

theorem RoundTrip.moduleLeavesArmada : RoundTrip.Statement .moduleLeavesArmada := fun _ h => by simp [encode] at h

theorem RoundTrip.portRetrained : RoundTrip.Statement .portRetrained := fun _ h => by simp [encode] at h

theorem RoundTrip.routesRecomputed : RoundTrip.Statement .routesRecomputed := fun _ h => by simp [encode] at h

end Sys2Proof.Laws
end

