-- ==== Sys2Proof/Tests/Slice0.lean ====
section
/-! SUPPORT. Tests: words of the spec decoded, ill-formed terms refused, one step on small states, and states that meet
the hypotheses of the statements. Expected values are the spec's own words and examples, or worked out from them. -/

set_option Elab.async false
set_option maxRecDepth 100000

namespace Sys2Proof.Tests

open Sys2Proof.Machine

/-! Small states. -/

/-- The one gang of the test states. -/
def gang0 : GangRef := ⟨0, 0, 3⟩

/-- A team of one gang at PL3 on core 0, about to issue the word at address 0x1000. -/
def base : State :=
  { State.reset.loadCode [] with cur := ⟨gang0, 0, 0xFF, 0x1000, 0x1000, 0x1001, false, 0, 0, 0, none⟩ }

/-- The same with MODE `m` in every slice. -/
def inMode (m : ModeWord) : State :=
  base.updGang gang0 fun x => x.mapSlices 0xFF fun _ sl => { sl with mode := m }

/-- The same after a change of its gang, its team, its core. -/
def withGang (f : Gang → Gang) (s : State) : State := s.updGang gang0 f
def withTeam (f : Team → Team) (s : State) : State := s.updTeam 0 0 f
def withCore (f : CoreSt → CoreSt) (s : State) : State := s.setCore 0 (f (s.core 0))

/-- Uniform registers from k`n` on hold `ws`. -/
def withK (n : Nat) (ws : List Word) (s : State) : State :=
  match s.gang? gang0 with
  | none => s
  | some x => s.setCore 0 ((s.core 0).setRegs x (ws.mapIdx fun i w => (uniWord x (n + i), w)))

/-- Lane 0 is the only lane in the lane masks; or no lane is. -/
def oneLane (s : State) : State :=
  withGang (fun x => x.mapSlices 0xFF fun n sl => { sl with mask := if n = 0 then 1#4 else 0#4 }) s
def noLane (s : State) : State := withGang (fun x => x.mapSlices 0xFF fun _ sl => { sl with mask := 0#4 }) s

/-- The instruction issues in `s`, and `p` holds of GSTAT.RX's change, the view and the shape; or of the state in which
it takes effect, the view and the shape. -/
def meetsAt (i : Instr) (s : State) (p : Bool → View → Shape → Bool) : Bool :=
  match s.view? with
  | none => false
  | some v =>
    match checkSeq v i (shape i v.mode v.cur.lit.isSome) with
    | .go rx => p rx v (shape i v.mode v.cur.lit.isSome)
    | _ => false
def meets (i : Instr) (s : State) (p : State → View → Shape → Bool) : Bool :=
  meetsAt i s fun rx v sh => p (s.issued v i rx) v sh

theorem meets_issues {i : Instr} {s : State} {p : Bool → View → Shape → Bool} (h : meetsAt i s p = true) :
    ∃ v rx, s.Issues i v rx ∧ p rx v (shape i v.mode v.cur.lit.isSome) = true := by
  unfold meetsAt at h
  split at h
  · cases h
  · rename_i v hv
    split at h
    · rename_i rx hc
      exact ⟨v, rx, ⟨hv, hc⟩, h⟩
    · cases h

/-- The instructions of a list issue in MODE `m`. -/
def issueAll (m : ModeWord) (l : List Instr) : Bool :=
  l.all fun i => meets i (inMode m) fun _ _ _ => true

/-- MODE of the types of 32 bits, F32, F16×2, N16×2 and L6×5 (R16). -/
def i32 : ModeWord := 0
def f32 : ModeWord := 2 * 128
def f16 : ModeWord := 5 * 128
def n16 : ModeWord := 4 * 128
def l6 : ModeWord := 9 * 128
def i64 : ModeWord := 10 * 128

/-! Arithmetic, conversions, predicates and cross-lane instructions issue. -/

theorem test_IntegerArithmeticCompletes_met : issueAll i32
    [.add 3 2 2, .sub 3 2 1, .mul 3 2 2, .mulhi 3 2 2, .mad 3 2 2, .min 3 2 2, .max 3 2 2, .neg 3 2, .abs 3 2, .addi 63 0x8000]
    = true := by decide

theorem test_DivisionCompletes_met : (issueAll i32 [.div 3 2 1, .rem 3 2 1] && issueAll i64 [.div 2 4 6]) = true := by decide

theorem test_ShiftsAndCountsComplete_met : issueAll i32
    [.shl 3 2 1, .shr 3 2 1, .sar 3 2 1, .rol 3 2 1, .ror 3 2 1, .popc 3 2, .clz 3 2, .ctz 3 2, .brev 3 2] = true := by decide

theorem test_FieldsLogicAndMovesComplete_met : issueAll i32
    [.bfx 3 2 1, .bfi 3 2 1, .and 3 2 1, .or 3 2 1, .xor 3 2 1, .andn 3 2 1, .not 3 2, .mov 3 0xC9, .movi 3 0xFFFF, .movhi 3 1]
    = true := by decide

theorem test_FloatArithmeticCompletes_met : issueAll f32
    [.fadd 5 6 0xC3, .fsub 5 6 7, .fmul 5 6 7, .fma 5 6 7, .fms 5 6 7, .fnma 5 6 7, .fdiv 5 6 7, .rcp 5 6, .rsq 5 6, .sqrt 5 6]
    = true := by decide

theorem test_FloatFunctionsComplete_met :
    (issueAll f32 [.fmin 5 6 7, .fmax 5 6 7, .fabs 5 6, .fneg 5 6, .fcps 5 6 7, .exp2 5 6, .log2 5 6, .sinpi 5 6, .cospi 5 6,
      .tanh 5 6, .frnd 5 6, .fract 5 6, .ldexp 5 6 7, .fclass 5 6] && issueAll f16 [.fdot 5 6 7]) = true := by decide

theorem test_ConversionsComplete_met :
    (issueAll f32 [.cvt 5 6 1 5, .cvtif 5 6 0 0] && issueAll i32 [.cvtfi 5 6 0 2, .cvtii 5 6 3 8] &&
      issueAll n16 [.pack 5 6 7, .unpk 5 6 1] && issueAll f16 [.pack 5 6 7]) = true := by decide

theorem test_PredicateWritersComplete_met :
    (issueAll i32 [.cmp 0 5 7 6 7, .tst 1 0 6 7, .plog 8 7 6 5, .pmovSet 6] && issueAll f16 [.fcmp 1 7 2 0x20 0]) = true := by
  decide

theorem test_SelectionCompletes_met :
    (issueAll i32 [.sel 5 6 7, .clamp 5 6 7, .lid 5, .pmovGet 5, .vote 0xC5 1 7] && issueAll f32 [.fclamp 5 6 7]) = true := by
  decide

theorem test_ReductionsAndScansComplete_met :
    (issueAll i32 [.red 0xC5 6 5, .scan 5 6 1 0] && issueAll f32 [.fred 5 6 2, .fscan 5 6 0 1]) = true := by decide

theorem test_ReduceAddIsTheSum_met : meets (.red 5 6 0) (inMode i32)
    (fun _ v _ => decide (modeType v.mode = 0) && !modeSat v.mode) = true := by decide

/-! Control, mode and system instructions. -/

theorem test_BranchesAndCallsComplete_met : issueAll i32
    [.nop, .bra 0xFFFFFF, .bany 1 7 0x8000, .ball 0 0 0x7FFF, .brr 0xFE, .ret 0, .call 0x7FFFFF, .brrL 0] = true := by decide

/-- A gang whose slices hold `n` reconvergence entries of phase `ph` and `m` loop entries. -/
def nested (n : Nat) (ph : Bool) (m : Nat) : State :=
  withGang (fun x => x.mapSlices 0xFF fun _ sl =>
    { sl with rstack := List.replicate n ⟨ph, 0b1111#4, 0#4, 0⟩, lstack := List.replicate m ⟨0x1000, 0x1004, 2⟩ }) base

/-- `p` holds of every slice of the issuing group. -/
def allSlices (p : Slice → Bool) (_ : State) (v : View) (_ : Shape) : Bool := (slicesOf v.cur.slices).all fun n => p (v.gang.slice n)

theorem test_DivergenceCompletes_met :
    (meets (.ifP 0 1 2) (nested 15 false 0) (allSlices fun sl => decide (sl.rstack.length < 16)) &&
     meets (.elseP 2) (nested 1 false 0) (allSlices fun sl => sl.rstack.any fun e => !e.phase) &&
     meets .endif (nested 1 true 0) (allSlices fun sl => decide (sl.rstack ≠ [])) &&
     meets (.ifP 0 1 2) (nested 16 false 0) (allSlices fun sl => decide (16 ≤ sl.rstack.length)) &&
     meets (.elseP 2) (nested 1 true 0) (allSlices fun sl => sl.rstack.all (·.phase)) &&
     meets .endif (nested 0 true 0) (allSlices fun sl => decide (sl.rstack = []))) = true := by decide

theorem test_LoopsComplete_met :
    (meets (.loop 255 1) (nested 0 false 3) (allSlices fun sl => decide (sl.lstack.length < 4)) &&
     meets (.loopr 0xC0 0xFFFF) (nested 0 false 0) (allSlices fun sl => decide (sl.lstack.length < 4)) &&
     meets .lbrk (nested 0 false 1) (allSlices fun sl => decide (sl.lstack ≠ [])) &&
     meets (.loop 0 1) (nested 0 false 4) (allSlices fun sl => decide (4 ≤ sl.lstack.length)) &&
     meets (.loopr 5 1) (nested 0 false 4) (allSlices fun sl => decide (4 ≤ sl.lstack.length)) &&
     meets .lbrk (nested 0 false 0) (allSlices fun sl => decide (sl.lstack = []))) = true := by decide

theorem test_LoopEndRule_met :
    (issueAll i32 [.nop, .bra 1] && decide (((0x1004 : PC) - 0x1003).toNat < ((0x1005 : PC) - 0x1003).toNat) &&
      decide (¬((0x1004 : PC) - 0x1005).toNat < ((0x1006 : PC) - 0x1005).toNat) &&
      decide ((2 : Word) - 1 ≠ 0) && decide ((1 : Word) - 1 = 0)) = true := by decide

/-- A gang in which a cause has been raised, with a handler at 0x2000 or without, while one is handled or not. -/
def raised (handler : PC) (act : Bool) (cause : BitVec 8) : State :=
  let s := withGang (fun x => { x with
    trap := { x.trap with tcause := if act then 0x8001 else 0 }
    raised := some ⟨cause, 0, 0xFF, 0x1000, 0, 0, false, none, none⟩ }) base
  { (withTeam (fun t => { t with record := { t.record with handler := handler } }) s) with ev := .trapEntry gang0 }

/-- The gang inside a handler, with its slices saved. -/
def handling : State :=
  withGang (fun x => { x with
    trap := { x.trap with tcause := 0x8001, tsplit := 0x000000FF, tslice := x.slices.map Slice.saved } }) base

theorem test_BranchPopsLoops_met :
    (issueAll i32 [.bra 1, .brr 0, .call 2, .ret 0, .brrL 0] &&
     meets (.bany 1 0 4) base (fun _ v _ => (List.range 8).all fun k => decide (v.voters 0 1 k ≠ 0)) &&
     meets (.ball 1 0 4) base (fun _ v _ => (List.range 8).all fun k => decide (v.voters 0 1 k = v.lanes4 k)) &&
     (match (raised 0x2000 false 0x20).gang? gang0 with
      | some x => decide (x.raised.isSome = true ∧ x.trap.tcause.getLsbD 15 = false ∧
          (((raised 0x2000 false 0x20).core 0).recordOf x).handler ≠ 0) && !fatalOnly 0x20
      | none => false) &&
     meets .rti handling (fun _ v _ => v.gang.trap.tcause.getLsbD 15 && v.gang.rtiOk v.cur.slices)) = true := by decide

theorem test_ModeWritersComplete_met : issueAll i32 [.mode 0x0147, .mtype 15, .mrnd 4, .mguard 1 1 7] = true := by decide

/-- The gang at PL0: its session's base level is 0. -/
def user (s : State) : State := withTeam (fun t => { t with record := { t.record with base := 0 } }) s

theorem test_SpecialRegisterMovesComplete_met :
    (meets (.mfs 0xFC 0x10) base (fun _ v _ => decide (srReadLevel 0x10 ≤ v.core.level v.gang)) &&
     meets (.mfs 5 0x10) (user base) (fun _ v _ => decide (v.core.level v.gang < srReadLevel 0x10)) &&
     meets (.mts 0xC5 0x18) (user base) (fun _ v _ => decide (v.core.level v.gang < srWriteLevel 0x18)) &&
     meets (.mts 5 0x18) (noLane base) (fun _ v _ => decide (srWriteLevel 0x18 ≤ v.core.level v.gang) && decide (v.act = 0)) &&
     meets (.mts 0xC5 0x18) base (fun s v sh => match s.srWrite v 0x18 ((v.opC sh 0).setWidth 32) with
       | .done _ => true
       | _ => false)) = true := by decide

/-- Slices 0 to 3 in entry 0, which issues, and slices 4 to 7 in entry 1. -/
def split (s : State) : State :=
  let t := withGang (fun x => { x with split := [0x0F, 0xF0, 0, 0] }) s
  { t with cur := { t.cur with slices := 0x0F } }

theorem test_RejoinEndAndPauseComplete_met :
    (meets .regang base (fun _ v _ => decide (v.gang.liveSet ≠ 0) && (List.range 8).all fun n =>
       v.cur.slices.getLsbD n && decide ((v.gang.slice n).pc = 0x1000 ∧ (v.gang.slice n).mode = 0)) &&
     meets .regang (split base) (fun _ v _ => decide (v.cur.entry < v.gang.groups.length) && v.gang.live 7 &&
       !v.cur.slices.getLsbD 7 && decide ((v.gang.slice 7).stop ≠ .regang)) &&
     meets .exit base (fun _ v _ => decide (v.gang.liveSet &&& ~~~v.cur.slices = 0)) &&
     meets .exit (split base) (fun _ v _ => decide (v.gang.liveSet &&& ~~~v.cur.slices ≠ 0)) &&
     issueAll i32 [.yield, .pause 0, .pause 0xFFFF] &&
     (match (withGang (fun x => x.setGroup 0 { x.group 0 with wait := .pause, wake := 0 }) base).gang? gang0 with
      | some x => decide ((x.group 0).wait = .pause ∧ (x.group 0).wake ≤ (base.die 0).cyc)
      | none => false)) = true := by decide

/-- The crew of the test states under debug control or not, and its teams without their crew. -/
def attached (s : State) : State := { s with crews := s.crews.map fun c => { c with attached := true } }

theorem test_TrapInstructionsComplete_met :
    (issueAll i32 [.trap 0x2A, .brk 0, .sysKill, .sysAbort 255] &&
     meets (.brk 1) { base with crews := [] } (fun s v _ => (s.crewOf 0 v.gang).isNone) &&
     meets (.brk 1) base (fun s v _ => (s.crewOf 0 v.gang).any fun c => !c.attached) &&
     meets (.brk 1) (attached base) (fun s v _ => (s.crewOf 0 v.gang).any fun c => c.attached)) = true := by decide

theorem test_RtiRestores_met :
    (meets .rti handling (fun _ v _ => v.gang.trap.tcause.getLsbD 15 && v.gang.rtiOk v.cur.slices && decide (v.gang.parked = [])) &&
     meets .rti base (fun _ v _ => !v.gang.trap.tcause.getLsbD 15) &&
     meets .rti (split handling) (fun _ v _ => !v.gang.rtiOk v.cur.slices)) = true := by decide

theorem test_SpecialRegisterContents_met : (31 : Nat) < 32 := by decide

/-! Memory. -/

/-- The requests of instruction `i` reach their places in `s` (R132, R133), and the undo log has room for them. -/
def reaches (s : State) (i : Instr) (size align : Nat) (rs : View → Shape → List LaneReq) (rx : Bool) (v : View) (sh : Shape) :
    Bool :=
  ((rs v sh).all fun r => decide (r.va.toNat % align = 0)) &&
  match v.core.team? v.gang.team with
  | none => false
  | some t =>
    ((rs v sh).all fun r => !isAperture r.va || (s.aperture v.cur.gang.core t r.va.toNat size).isSome) &&
    let q := s.resolve v t (if size = 16 then 8 else size) ((rs v sh).flatMap (halves size))
    (q.1.all fun o => match o.out with
      | .ok _ => true
      | _ => false) &&
    (q.2.issued v i rx).logFits (v.core.sessionOf v.gang) (q.1.filterMap fun o => match o.out with
      | .ok p => if kindStores o.req.kind then some p else none
      | _ => none)

theorem reaches_of {s : State} {i : Instr} {size align : Nat} {rs : View → Shape → List LaneReq} {rx : Bool} {v : View}
    {sh : Shape} (h : reaches s i size align rs rx v sh = true) : ∃ os u, s.Reaches v i rx size align (rs v sh) os u := by
  unfold reaches at h
  simp only [Bool.and_eq_true, List.all_eq_true, decide_eq_true_eq] at h
  obtain ⟨ha, h⟩ := h
  cases ht : v.core.team? v.gang.team with
  | none => rw [ht] at h; cases h
  | some t =>
    rw [ht] at h
    simp only [Bool.and_eq_true, List.all_eq_true, Bool.or_eq_true, Bool.not_eq_true'] at h
    obtain ⟨hb, hc, hd⟩ := h
    refine ⟨_, _, ⟨ha, ⟨t, ht, ?_, (Prod.eta _).symm⟩, ?_, hd⟩⟩
    · intro r hr hv
      rcases hb r hr with h1 | h1
      · rw [hv] at h1; cases h1
      · exact Option.isSome_iff_exists.mp h1
    · intro o ho
      have := hc o ho
      split at this
      · rename_i p hp; exact ⟨p, hp⟩
      · cases this

/-- k0 and k1 name byte 0x80 of the core scratchpad, k4 and k5 byte 0x4080 of session 1, k6 and k7 a byte outside the
scratchpad, k8 and k9 an odd address; v0 and v1 of every lane name byte 0 of the scratchpad. -/
def pointed (s : State) : State :=
  let t := withK 0 [0x80, 0x01010000, 0, 0, 0x4080, 0, 0x10000, 0x01010000, 0x81, 0x01010000, 0x4000, 0, 1, 0] s
  match t.gang? gang0 with
  | none => t
  | some x => t.setCore 0 ((t.core 0).setRegs x ((List.range 32).flatMap fun l => [(l, (0 : Word)), (32 + l, 0x01010000)]))

/-- An instruction issues in MODE `m` with lane 0 alone, and its requests reach their places. -/
def sends (m : ModeWord) (i : Instr) (size align : Nat) (rs : View → Shape → List LaneReq) : Bool :=
  meetsAt i (pointed (oneLane (inMode m))) (reaches (pointed (oneLane (inMode m))) i size align rs)

theorem test_LoadsComplete_met :
    (sends i32 (.ld8 5 0xC0 255) 1 1 (fun v sh => v.loads sh 5 0xC0 255 1 1) &&
     sends i32 (.ld16 5 0 0) 2 2 (fun v sh => v.loads sh 5 0 0 2 1) &&
     sends i32 (.ld32 5 0xC4 1) 4 4 (fun v sh => v.loads sh 5 0xC4 1 4 1) &&
     sends i32 (.ld64 6 0 3) 8 8 (fun v sh => v.loads sh 6 0 3 8 2) &&
     sends i32 (.ld128 8 0xC0 0xFF) 16 16 (fun v sh => v.loads sh 8 0xC0 0xFF 16 4) &&
     sends i32 (.ldw 5 0 1) 4 4 (fun v sh => v.requests false (v.ea sh 1 4) fun l => .loadw [(l, [5 * 32 + l])])) = true := by
  decide

/-- Lane-private memory of 16 bytes a lane at address 0x4000 (R139). -/
def priv (s : State) : State :=
  withTeam (fun t => { t with record := { t.record with pbase := 0x4000, psize := 16 } }) s

theorem test_StoresComplete_met :
    (sends i32 (.st8 5 0 255) 1 1 (fun v sh => v.stores sh 5 255 1) == false &&
     sends i32 (.st8 5 0xC0 1) 1 1 (fun v sh => v.stores sh 5 1 1) &&
     sends i32 (.st16 5 0 0) 2 2 (fun v sh => v.stores sh 5 0 2) &&
     sends i32 (.st32 0xC2 0xC4 0) 4 4 (fun v sh => v.stores sh 0xC2 0 4) &&
     sends i32 (.st64 6 0 3) 8 8 (fun v sh => v.stores sh 6 3 8) &&
     sends i32 (.st128 8 0 0) 16 16 (fun v sh => v.stores sh 8 0 16) &&
     [Instr.stl 5 0xC2 3, .ldl 5 0xC2 3].all fun i => meetsAt i (priv (oneLane base)) fun rx v sh =>
       decide (((v.opA sh 0).setWidth 32 + 12 : Word).toNat < (v.core.recordOf v.gang).psize) &&
       reaches (priv (oneLane base)) i 4 4 (fun v sh => v.requests false (fun l => (v.core.recordOf v.gang).pbase +
         BitVec.ofNat 57 (v.gang.num * 32 * (v.core.recordOf v.gang).psize + 3 * 128 + l * 4)) fun l =>
           if i = .stl 5 0xC2 3 then .store ((bytesOfWords (v.slotWords sh.c v.cur.routeC l)).take 4)
           else .load [(l, [5 * 32 + l])]) rx v sh) = true := by decide

/-- Some request is no multiple of the size; or all are, and one lies outside its aperture. -/
def misaligned (size : Nat) (rs : View → Shape → List LaneReq) (_ : State) (v : View) (sh : Shape) : Bool :=
  (rs v sh).any fun r => decide (r.va.toNat % size ≠ 0)
def outside (size : Nat) (rs : View → Shape → List LaneReq) (s : State) (v : View) (sh : Shape) : Bool :=
  (rs v sh).all (fun r => decide (r.va.toNat % size = 0)) && (v.core.team? v.gang.team).any fun t =>
    (rs v sh).any fun r => isAperture r.va && (s.aperture v.cur.gang.core t r.va.toNat size).isNone

theorem test_BadAddressesTrap_met :
    (([(Instr.ld16 5 0xC8 0, 2, 1), (.ld32 5 0xC8 0, 4, 1), (.ld64 6 0xC8 0, 8, 2), (.ld128 8 0xC8 0, 16, 4)] :
        List (Instr × Nat × Nat)).all fun e => meets e.1 (pointed base)
          (misaligned e.2.1 fun v sh => v.loads sh 6 0xC8 0 e.2.1 e.2.2)) = true ∧
    (([(Instr.ld8 5 0xC6 0, 1, 1), (.ld16 5 0xC6 0, 2, 1), (.ld32 5 0xC6 0, 4, 1), (.ld64 6 0xC6 0, 8, 2),
        (.ld128 8 0xC6 0, 16, 4)] : List (Instr × Nat × Nat)).all fun e => meets e.1 (pointed base)
          (outside e.2.1 fun v sh => v.loads sh 6 0xC6 0 e.2.1 e.2.2)) = true ∧
    (([(Instr.st16 5 0xC8 0, 2), (.st32 5 0xC8 0, 4), (.st64 6 0xC8 0, 8), (.st128 8 0xC8 0, 16)] : List (Instr × Nat)).all
      fun e => meets e.1 (pointed (oneLane base)) (misaligned e.2 fun v sh => v.stores sh 6 0 e.2)) = true ∧
    (([(Instr.st8 5 0xC6 0, 1), (.st16 5 0xC6 0, 2), (.st32 5 0xC6 0, 4), (.st64 6 0xC6 0, 8), (.st128 8 0xC6 0, 16)] :
      List (Instr × Nat)).all fun e => meets e.1 (pointed (oneLane base)) (outside e.2 fun v sh => v.stores sh 6 0 e.2)) = true := by
  decide

/-- The watch table holds one entry of lane 0. -/
def watching (struck : Bool) (s : State) : State :=
  withGang (fun x => { x with watch := [⟨0x400, 0, 1, 0, 0, struck⟩] }) s

theorem test_CacheFormsComplete_met :
    (meets (.pfL1 0xC4 0) (pointed base) (fun _ _ _ => true) && meets (.pfL2 0xC0 0) (pointed base) (fun _ _ _ => true) &&
     [false, true].all (fun b =>
       let i : Instr := if b then .inv 0xC4 0 else .wb 0xC4 0
       meetsAt i (pointed base) (reaches (pointed base) i 1 1 fun v sh =>
         (v.requests true (v.ea sh 0 16) fun _ => .maint b).filter fun r => !isAperture r.va)) &&
     meets (.chk 5) (watching true base) (fun _ v _ => v.gang.watch.all (·.struck)) &&
     meets (.chk 5) base (fun _ v _ => decide (v.gang.watch = [])) &&
     meets (.chk 5) (watching false base) (fun _ v _ => v.gang.watch.any fun e => !e.struck && decide (e.own ≠ 0))) = true := by
  decide

/-- An access of lane 0 to byte 0x20080 of module memory. -/
def access0 (k : AccKind) : Access :=
  { gang := gang0, slices := 1, lane := 0, session := 1, level := 3, va := 0x4080, place := .mem 0x20080 2, size := 4,
    pc := 0x1000, seq := 0, lanes := 1, stale := false, kind := k }

theorem test_AccessesPerformed_met :
    ([AccKind.load [(0, [160])], .store [1, 2, 3, 4], .atomic .add 0 0 1 0 [(0, [160])], .version true [(0, [160])],
      .version false [(0, [160])]].all fun k =>
      let a := access0 k
      let s : State := { base with ev := .accessAtHome a }
      decide (s.ev = .accessAtHome a ∧ a.stale = false ∧ s.blocked = [] ∧ s.moved? a.place = .mem 0x20080 2 ∧ a.size ≠ 0 ∧
        s.copies = []) && (s.servedLoad? a).isNone && decide (s.blockedAt (accessPlaces a) = none) &&
        (accessPlaces a).all (fun p => !isRemote p.1) && !s.draining 0x20080 && !s.keyless (accessPlaces a)) = true := by decide

theorem test_AtomicsComplete_met :
    (([(Instr.atadd 5 0 7, AtOp.add), (.atmin 5 0 7, .min), (.atmax 5 0 7, .max), (.atand 5 0 7, .and), (.ator 5 0 7, .or),
       (.atxor 5 0 7, .xor), (.atxchg 5 0 7, .xchg), (.atcas 5 0 7, .cas)] : List (Instr × AtOp)).all fun e =>
       sends i32 e.1 4 4 fun v sh => v.atomics sh e.2 5 1) = true ∧
    sends i32 (.atqadd 6 0 8) 8 8 (fun v sh => v.atomics sh .qadd 6 2) = true ∧
    meets (.atadd 5 0xC8 7) (pointed base) (misaligned 4 fun v sh => v.atomics sh .add 5 1) = true := by decide

theorem test_AtomicValues_met : [0, 1, 2, 10].all (fun t => decide (modeType (BitVec.ofNat 16 (t * 128)) = t)) = true := by
  decide

theorem test_ObjectsComplete_met :
    [Instr.acq 0xC2 0xC4, .rel 0xC2 0xC4, .bind 0xC2 0xC4 0xCA, .unbind 0xC2 0xC4 0xCA].all (fun i =>
      meets i (noLane (pointed base)) fun _ v _ => decide (v.act = 0)) = true ∧
    meetsAt (.acq 0xC2 0xC4) (pointed base) (fun rx v sh => decide (v.act ≠ 0) &&
      reaches (pointed base) (.acq 0xC2 0xC4) 8 8 (fun v sh => [v.object sh false 0xC2]) rx v sh) = true ∧
    [false, true].all (fun b =>
      let i : Instr := if b then .unbind 0xC2 0xC4 0xC0 else .bind 0xC2 0xC4 0xC0
      meetsAt i (pointed base) (reaches (pointed base) i 8 8 fun v sh =>
        [⟨32, v.act, (v.opB sh 0).setWidth 57, .bind b ((v.opA sh 0).setWidth 57) [] (v.dest 0xC2 1)⟩])) = true ∧
    meetsAt (.rel 0xC2 0xC4) (pointed base) (fun rx v sh => decide (v.act ≠ 0 ∧ v.gang.watch = []) &&
      !(pointed base).accessPending v.cur.gang (fun q => decide (q.slices &&& v.cur.slices ≠ 0)) &&
      reaches (pointed base) (.rel 0xC2 0xC4) 8 8 (fun v sh => [v.object sh true 0xC2]) rx v sh) = true ∧
    meetsAt (.rel 0xC2 0xC4) (watching true (pointed base)) (fun _ v _ => decide (v.act ≠ 0) && v.gang.watch.any (·.struck) &&
      v.gang.watch.all (fun e => e.struck || decide (v.relStamp (pointed base) ≤ e.stamp)) &&
      !(pointed base).accessPending v.cur.gang (fun q => decide (q.slices &&& v.cur.slices ≠ 0))) = true ∧
    meetsAt (.rel 0xC2 0xC4) (watching false (pointed base)) (fun _ v _ => decide (v.act ≠ 0) &&
      v.gang.watch.any (fun e => !e.struck && decide (e.stamp < v.relStamp (pointed base)))) = true := by decide

/-- VERSION of the object at byte 0x4080 is `n`. -/
def versioned (n : Nat) (s : State) : State := { s with mem := Cells.write s.mem 0x20080 (bytesOf n 4) }

/-- `acqw` of the object of k4 asks for its version, and `p` holds of what the version exceeds B by. -/
def asks (p : Nat → Bool) (s : State) (v : View) (sh : Shape) : Bool :=
  let va : VAddr := (v.opA sh 0).setWidth 57
  let ask : LaneReq := ⟨32, v.act, va, .version false []⟩
  decide (v.act ≠ 0) && decide (va.toNat % 8 = 0) && !isAperture va && (v.core.team? v.gang.team).any fun t =>
    match s.resolve1 (laneAsk v.core v.cur.gang.core v.gang ask) t 8 ask with
    | (⟨_, .ok q, a⟩, u) => decide (a = va) &&
        !u.accessPending v.cur.gang (fun z => samePlace z.place q z.size 8) &&
        p (BitVec.ofNat 32 (natOfBytes (u.readPlace q 4)) - (v.opB sh 0).setWidth 32 : Word).toNat
    | _ => false

theorem test_WaitsOnMemoryComplete_met :
    (meets (.acqw 0xC4 0xCC) (noLane (pointed base)) (fun _ v _ => decide (v.act = 0)) &&
     meets (.acqw 0xC4 0xCC) (versioned 1 (pointed base)) (asks fun n => decide (n = 0)) &&
     meets (.acqw 0xC4 0xCC) (versioned 0x80000000 (pointed base)) (asks fun n => decide (n = 2 ^ 31 - 1)) &&
     meets (.acqw 0xC4 0xCC) (versioned 0 (pointed base)) (asks fun n => decide (2 ^ 31 ≤ n)) &&
     [0, 1, 3, 4].all (fun n => meets (.fence n) base fun s v _ =>
       !s.accessPending v.cur.gang (fun q => decide (q.slices &&& v.cur.slices ≠ 0))) &&
     meets (.fence 0) { base with agenda := [.accessAtHome (access0 (.store [1, 2, 3, 4]))] } (fun s v _ =>
       s.accessPending v.cur.gang (fun q => decide (q.slices &&& v.cur.slices ≠ 0)))) = true := by decide

/-! Barriers and handoff. -/

/-- Every slice has been let pass a barrier. -/
def passing (s : State) : State := withGang (fun x => x.mapSlices 0xFF fun _ sl => { sl with stop := .passed }) s

/-- The gang has arrived at barrier 3 in generation `g`, and the barrier is in generation 1. -/
def arrived (g : Nat) (s : State) : State :=
  let t := withTeam (fun t => { t with bars := t.bars.set 3 { t.bars.getD 3 default with gen := 1 } })
    (withGang (fun x => { x with bars := [(3, ⟨g, true, false⟩)], cbars := [(3, ⟨g, true, false⟩)] }) s)
  { t with crews := t.crews.map fun c => { c with bars := c.bars.set 3 { c.bars.getD 3 default with gen := 1 } } }

/-- The copies of v5 are in state `q` in lane 0. -/
def copyV5 (q : CopyState) (s : State) : State :=
  match s.gang? gang0 with
  | none => s
  | some x => s.setCore 0 ((s.core 0).setCopy x 160 q)

/-- No result of v5 is pending, and lane 0 alone is active, its copy in state `q`. -/
def holds5 (q : CopyState) (_ : State) (v : View) (_ : Shape) : Bool :=
  decide (v.gang.latency = []) && decide ((lanesOf v.act).map (fun l => 5 * 32 + l) = [160]) && decide (v.core.copy v.gang 160 = q)

/-- A second gang of the team, of four slices, in slot 1. -/
def second (s : State) : State :=
  match s.team? 0 0 with
  | none => s
  | some t => withCore (fun c => { c with gangs := c.gangs ++ [(1, launchGang { t.record with slices := 4 } 4 0 1 t.base)] }) s

theorem test_BarriersAndHandoffsComplete_met :
    ([Instr.bar 3 2, .barvArrive 3 1, .cbar 3, .cbarArrive 15].all (fun i =>
      meets i (passing base) (allSlices fun sl => decide (sl.stop = .passed)) &&
      meets i base (fun _ v _ => (v.core.team? v.gang.team).isSome && decide ((v.gang.slice 0).stop ≠ .passed))) &&
     meets (.barvWait 3) (arrived 0 base) (fun _ v _ => (Cells.find? v.gang.bars 3).any fun a =>
       (v.core.team? v.gang.team).any fun t => decide (a.gen < (t.bar 3).gen)) &&
     meets (.barvWait 3) base (fun _ v _ => (Cells.find? v.gang.bars 3).isNone) &&
     meets (.barvWait 3) (arrived 1 base) (fun _ v _ => (Cells.find? v.gang.bars 3).any fun a =>
       (v.core.team? v.gang.team).any fun t => decide ((t.bar 3).gen ≤ a.gen)) &&
     meets (.cbarWait 3) (arrived 0 base) (fun s v _ => (Cells.find? v.gang.cbars 3).any fun a =>
       (s.crewOf 0 v.gang).any fun c => decide (a.gen < (c.bar 3).gen)) &&
     meets (.cbarWait 3) (arrived 1 base) (fun s v _ => (Cells.find? v.gang.cbars 3).any fun a =>
       (s.crewOf 0 v.gang).any fun c => decide ((c.bar 3).gen ≤ a.gen))) = true ∧
    (meets (.fetest 7 5) base (fun _ _ _ => true) &&
     meets (.fetake 5) (oneLane base) (holds5 .full) && meets (.feput 5 6) (copyV5 (.empty .handoff) (oneLane base)) (holds5 (.empty .handoff)) &&
     meets (.fetake 5) (copyV5 (.empty .handoff) (oneLane base)) (holds5 (.empty .handoff)) &&
     meets (.feput 5 6) (oneLane base) (holds5 .full)) = true ∧
    meets (.wshare 8 0xC2) (withK 2 [0x00080801] (second base)) (fun _ v sh =>
      let kb : Word := (v.opB sh 0).setWidth 32
      decide (fieldNat kb 16 8 = 8) && v.gang.isWhole &&
      match (v.core.teamGangs v.gang.team).find? (fun e => decide (e.2.num = fieldNat kb 0 4)) with
      | none => false
      | some (slot, y) => decide (slot ≠ 0 ∧ y.liveSet ≠ 0 ∧ 8 + 8 ≤ v.gang.vcount ∧ 8 + 8 ≤ y.vcount ∧ v.gang.latency = []) &&
          !v.core.sharedRun 0 v.gang 8 8 && !v.core.sharedRun slot y 8 8 &&
          (List.range 256).all fun j => decide (v.core.copy v.gang (256 + j) = .full)) = true := by decide

/-! Engines, queues and channels. -/

/-- Every tile has 4 rows of 4 elements of type F32 at the start of the tile area; the crew has a block of 1 KiB of cluster
memory; k0 and k1 name the scratchpad, k2 holds `c`, k4 and k5 name the block, v0 and v1 the scratchpad. -/
def tiled (c : Word) (s : State) : State :=
  let t := withK 0 [0x80, 0x01010000, c, 0, 0, 0x01020000] (pointed (withTeam (fun t => { t with
    tctl := List.replicate 16 0x00020303, tbase := List.replicate 16 0 }) s))
  { t with crews := t.crews.map fun k => { k with cmcore := 1, cmbase := k.cores.map fun _ => 0 } }

/-- A command of instruction `i` passes its checks, and its queue and counter have room. -/
def pushes (i : Instr) (q : Nat) (check : State → View → Shape → Team → EngCheck) (s : State) : Bool :=
  meetsAt i s fun _ v sh => decide (v.act ≠ 0) && decide (v.gang.counters.getD q 0 < 63) &&
    decide (v.core.queued q < Config.queueDepth.getD q 0) && (v.core.team? v.gang.team).any fun t =>
      match check s v sh t with
      | .go op _ n => !s.pbcFull t op && s.logHolds (v.core.sessionOf v.gang) n
      | .trap .. => false

/-- It traps. -/
def refused (i : Instr) (check : State → View → Shape → Team → EngCheck) (s : State) : Bool :=
  meetsAt i s fun _ v sh => decide (v.act ≠ 0) && (v.core.team? v.gang.team).any fun t =>
    match check s v sh t with
    | .go .. => false
    | .trap .. => true

/-- The copy, gather and collective instructions, with their checks. -/
def copies : List (Instr × Nat × (State → View → Shape → Team → EngCheck)) :=
  [(.copy 0xC4 0xC0 0xC2, 0, fun s v sh t => copyCheck s v sh t false),
   (.cfill 0xC4 0xC8 0xC2, 0, fun s v sh t => copyCheck s v sh t true),
   (.tld 1 0 0xC0 0xC2, 0, fun s v sh t => tileCheck s v sh t 0 1 true),
   (.tsto 0 15 0xC0 0xC2, 0, fun s v sh t => tileCheck s v sh t 15 0 false),
   (.gath 0xC0 0 0xC2, 2, fun s v sh t => gatherCheck s v sh t true),
   (.scat 0xC0 0 0xC2, 2, fun s v sh t => gatherCheck s v sh t false),
   (.mcast 0xC4 0xC0 0xC2, 3, mcastCheck)]

theorem test_CopyCommandsPush_met :
    (copies.all fun e => pushes e.1 e.2.1 e.2.2 (tiled (if e.2.1 = 2 then 2 else 0x40) (oneLane base))) = true ∧
    (copies.all fun e => meets e.1 (tiled 0x40 (noLane base)) fun _ v _ => decide (v.act = 0)) = true ∧
    (copies.all fun e => refused e.1 e.2.2 (tiled 0xC0000002 (oneLane base))) = true ∧
    refused (.copy 0xC4 0xC6 0xC2) (fun s v sh t => copyCheck s v sh t false) (withK 6 [0, 0x01070000] (tiled 0x40 base)) = true := by
  decide

/-- The matrix instructions whose commands are pushed, with their plans (R192 to R199). -/
def matrixForms : List Instr :=
  [.tmma 1 0 1, .ttr 0 3, .tred 0 3, .tperm 3 2 7, .azero 0, .acvt 0 1 0xFF, .amov 10 0 0 3, .amovt 4 0 2, .tmvGet 10 2 3,
   .tmvPut 5 8 0, .tfill 9 0xC2, .arest 0]

theorem test_MatrixCommandsPush_met :
    (matrixForms.all fun i => meetsAt i (tiled 0 base) fun _ v sh => decide (v.act ≠ 0) &&
      decide (v.gang.counters.getD 1 0 < 63) && (v.core.team? v.gang.team).any fun t =>
        (mxPlan i v sh t).any fun p => (p.tileTrap t).isNone && match (tiled 0 base).checkAcc v t p with
          | .go u => (u.gang? gang0).isSome && decide ((u.core 0).queued 1 < Config.queueDepth.getD 1 0)
          | _ => false) = true ∧
    (matrixForms.all fun i => meets i (tiled 0 (noLane base)) fun _ v _ => decide (v.act = 0)) = true ∧
    ([Instr.tmma 1 0 1, .tmvGet 10 2 3, .tfill 9 0xC2].all fun i =>
      meets i (withTeam (fun t => { t with tbase := List.replicate 16 0xFFFF0 }) (tiled 0 base)) fun _ v sh =>
        decide (v.act ≠ 0) && (v.core.team? v.gang.team).any fun t =>
          (mxPlan i v sh t).any fun p => (p.tileTrap t).isSome) = true := by decide

/-- Accumulator 0 is the session's, or nobody's. -/
def owning (valid : Bool) (s : State) : State :=
  withCore (fun c => { c with accs := c.accs.set 0 { Acc.init with valid := valid, session := 1 } }) s

/-- The save area of session 1 is at 0x4000, and the page at 0xD000 is mapped. -/
def saving (s : State) : State :=
  State.setCtx { s with mem := Cells.write s.mem 0x14068 (bytesOf 0x2001F 8) } 1 0x30 8 0x4000

theorem test_SaveAndFollowOnPush_met :
    (meets (.asave 0) (noLane base) (fun _ v _ => decide (v.act = 0)) &&
     meets (.asave 0) (owning false base) (fun _ v _ => decide (v.act ≠ 0) && !(v.core.accs.getD 0 Acc.init).valid) &&
     meets (.asave 0) (saving (owning true base)) (fun s v _ => decide (v.act ≠ 0) && (v.core.accs.getD 0 Acc.init).valid &&
       !s.accBusy 0 0 1 && match s.spill 0 0 (v.core.accs.getD 0 Acc.init) with
         | .done _ u => (u.gang? gang0).isSome
         | _ => false) &&
     meets (.copyf 1 1 0xC0 0xC2) (withK 3 [0xD2000001] (tiled 0x40 base)) (fun s v sh => decide (v.act ≠ 0) &&
       (v.core.team? v.gang.team).any fun t => (followInstr ((v.opB sh 0).extractLsb' 32 32)).any fun j =>
         (mxPlan j v sh t).any fun p => (p.tileTrap t).isNone && match tileCheck s v sh t 1 1 true, s.checkAcc v t p with
           | .go _ _ n, .go u => (u.gang? gang0).isSome && u.logHolds 1 n
           | _, _ => false)) = true := by decide

theorem test_EngineWaitsComplete_met :
    (meets (.cwp 5 3) base (fun _ v _ => (v.core.team? v.gang.team).isSome) &&
     meets (.wait 4 0) base (fun _ v _ => decide (v.gang.counters.getD 4 0 - v.heldCmds 4 ≤ 0)) &&
     meets (.wait 1 0) (withGang (fun x => { x with counters := [0, 1, 0, 0, 0] }) base)
       (fun _ v _ => decide (0 < v.gang.counters.getD 1 0 - v.heldCmds 1)) &&
     meets (.qwait 5 0) (oneLane base) (holds5 .full) && meets (.qwait 5 0) (copyV5 .lost (oneLane base)) (holds5 .lost) &&
     meets (.qwait 5 0) (copyV5 (.empty .handoff) (oneLane base)) (holds5 (.empty .handoff))) = true := by decide

/-- The capability table is in the scratchpad and its entry 2 is `e`; session 1 has endpoint 0x12345 with `n` messages. -/
def capable (e : Nat) (n : Nat) (s : State) : State :=
  let t := withTeam (fun t => { t with record := { t.record with captab := 0x101000000000000 } }) s
  let u := match (t.team? 0 0).bind fun m => t.aperture 0 m 0x101000000000010 8 with
    | some (.store k off) => t.updStore k fun st =>
        Cells.put 0 (Cells.put 0 st (off / 4) (BitVec.ofNat 32 e)) (off / 4 + 1) (BitVec.ofNat 32 (e / 2 ^ 32))
    | _ => t
  u.setSes 1 { u.ses 1 with endpoints := [⟨0x12345, 0, List.replicate n (List.replicate 32 0)⟩] }

/-- The sequence issues in `s` and reads capability entry 2, and `p` holds of it and of what its endpoint names; `c` is
the claim of the entry. -/
def opens (i : Instr) (s : State) (p : View → DWord → Port → State → Option (Option Place) × State → Bool) : Bool :=
  meetsAt i s fun _ v _ =>
    match s.capRead v 2 with
    | (some (e, va, q), u) => p v e (u.port (v.core.sessionOf v.gang) 0 (capEp e)) u (u.capClaim v e va q)
    | _ => false

/-- Channel 0x12345 with its permissions and an ALLOW of 2; the first unit queue of the die; no permission; not valid. -/
def channelEntry : Nat := 0x0002000012345007
def queueEntry : Nat := 0xFFFF0000F0100003

theorem test_ChannelsComplete_met :
    (opens (.send 5 2) (capable channelEntry 7 base) (fun v e k _ c => match k with
       | .channel q => capValid e k && capSend e && decide (capAllow e = 2) && decide (q.msgs.length < 8) && !v.behind q.num &&
           c.1.any fun w => (c.2.issued v (.send 5 2) false).logFits 1 w.toList
       | _ => false) &&
     opens (.recv 5 2) (capable channelEntry 0 base) (fun v e k _ _ => match k with
       | .channel _ => capValid e k && capRecv e && decide (v.act ≠ 0)
       | _ => false) &&
     opens (.chinfo 5 2) (capable channelEntry 8 base) (fun _ _ _ _ _ => true) &&
     opens (.qpoll 5 2) (capable queueEntry 0 base) (fun _ e k _ _ => match k with
       | .queue .. => capValid e k
       | _ => false) &&
     opens (.qcall 4 1 2 2) (capable queueEntry 0 base) (fun v e k _ c => match k with
       | .queue die depth => capValid e k && capSend e && decide (capAllow e ≠ 0) && decide (v.act ≠ 0) &&
           decide (v.core.queued 4 < Config.queueDepth.getD 4 0) && !v.behind (capEp e) &&
           decide ((lanesOf v.act).length ≤ c.2.freeCalls 1 die (capEp e) depth) &&
           c.1.any fun w => (c.2.issued v (.qcall 4 1 2 2) false).logFits 1 w.toList
       | _ => false) &&
     [Instr.send 5 2, .recv 5 2].all (fun i => opens i (capable queueEntry 0 base) (fun _ _ k _ _ => match k with
       | .channel _ => false
       | _ => true)) &&
     opens (.send 5 2) (capable 0x0000000012345003 0 base) (fun _ e k _ _ => match k with
       | .channel _ => capValid e k && decide (capAllow e = 0)
       | _ => false)) = true := by decide
/-! Forms. -/

/-- A second crew of the same session with one team on core 1, in slot 1 of the cluster; k0 selects it. -/
def other (f : Crew → Crew) (s : State) : State :=
  let t := s.launchNow { loadLaunch with cores := [1] }
  withK 0 [0x10] { t with crews := t.crews.map fun c => if c.slot = 1 then f c else c }
def controlled (c : Crew) : Crew := { c with attached := true }
def halted (c : Crew) : Crew := { c with attached := true, stopped := true }

/-- R228 finds the second crew for what a form needs of it, and `p` holds of it. -/
def finds (n : DbgNeed) (p : State → View → Shape → Crew → Bool) (s : State) (v : View) (sh : Shape) : Bool :=
  decide (fieldNat (v.wordB sh 0) 16 16 = 0) && match s.dbgCrew v (v.wordB sh 0) n with
    | .ok c => p s v sh c
    | .error _ => false

def anyCrew (_ : State) (_ : View) (_ : Shape) (_ : Crew) : Bool := true

theorem test_ClusterAndDebugFormsComplete_met :
    (meets (.cluPbc 0xC2 15) base (fun s v _ => (s.crewOf 0 v.gang).isSome) &&
     meets (.cluCstat 0xC2 0xC0) base (fun _ v sh => decide (fieldNat (v.wordB sh 0) 16 16 = 0)) &&
     meets (.dbgAttach 0xC2 0xC0) (other id base) (finds ⟨some false, false, false, false⟩ fun _ v sh _ =>
       decide ((v.opA sh 0).toNat % 2 ^ 57 % 128 = 0)) &&
     meets (.dbgDetach 0xC0) (other halted base) (finds ⟨some true, false, false, false⟩ anyCrew) &&
     meets (.dbgStop 0xC0) (other controlled base) (finds ⟨some true, false, false, false⟩ fun _ _ _ c => !c.stopped) &&
     [Instr.dbgStop 0xC0, .dbgGo 0xC0, .dbgWait 0xC0].all (fun i =>
       meets i (other halted base) (finds ⟨some true, false, false, false⟩ fun _ _ _ c => c.stopped)) &&
     meets (.dbgWait 0xC0) (other controlled base) (finds ⟨some true, false, false, false⟩ fun _ _ _ c => !c.stopped) &&
     meets (.dbgStep 0xC0) (other halted base) (finds ⟨some true, true, true, true⟩ fun s v sh c =>
       c.window.isNone && (s.selGang c (v.wordB sh 0)).isSome) &&
     meets (.dbgRd 0xC2 0xC0) (other halted base) (finds ⟨some true, true, true, false⟩ fun s v sh c => (s.dbgPlace v sh c).isSome) &&
     meets (.dbgWr 0xC2 0xC0) (other halted base) (finds ⟨some true, true, true, false⟩ fun s v sh c =>
       (s.dbgPlace v sh c).any fun p => s.logFits p.2.2 [.store p.1 p.2.1])) = true ∧
    ([Instr.dbgFreeze 0xC0, .dbgThaw 0xC0].all (fun i => meets i (withK 0 [11] base) (fun s v sh =>
       decide (fieldNat (v.wordB sh 0) 4 28 = 0 ∧ fieldNat (v.wordB sh 0) 0 4 < 12 ∧
         fieldNat (v.wordB sh 0) 0 4 ≠ clusterOf v.cur.gang.core) && !s.isFrozen (0, 11)) &&
       meets i base (fun _ v sh => decide (fieldNat (v.wordB sh 0) 4 28 = 0 ∧
         fieldNat (v.wordB sh 0) 0 4 = clusterOf v.cur.gang.core))) &&
     meets (.dbgWhy 0xC2 0xC0) (withK 1 [7] (other id base)) (finds ⟨none, false, true, true⟩ fun s v sh c =>
       decide ((v.wordB sh 1).toNat = 7) && (s.selGang c (v.wordB sh 0)).isSome) &&
     meets (.dbgWpset 3 0xC0) (withK 1 [0x3A, 0x104] (other (fun c => { controlled c with cmcore := 1 }) base))
       (finds ⟨some true, false, false, false⟩ fun _ v sh c =>
         decide (fieldNat (v.wordB sh 1) 7 25 = 0 ∧ (v.wordB sh 2).toNat % 2 ^ fieldNat (v.wordB sh 1) 0 2 = 0 ∧
           (v.wordB sh 2).toNat + 2 ^ fieldNat (v.wordB sh 1) 0 2 ≤ c.cores.length * c.cmcore * 1024) && !(v.wordB sh 1).getLsbD 6) &&
     meets (.dbgVwpset 0 0xC0) (withK 1 [0x3A, 0x104, 0] (other controlled base))
       (finds ⟨some true, false, false, false⟩ fun _ v sh _ => decide (fieldNat (v.wordB sh 1) 7 25 = 0 ∧
         (dwordOf [v.wordB sh 2, v.wordB sh 3]).toNat % 2 ^ fieldNat (v.wordB sh 1) 0 2 = 0) &&
         !isAperture ((dwordOf [v.wordB sh 2, v.wordB sh 3]).setWidth 57)) &&
     meets (.dbgGo 0xC0) (other id base) (fun s v sh => decide (fieldNat (v.wordB sh 0) 16 16 = 0) &&
       match s.dbgCrew v (v.wordB sh 0) ⟨some true, false, false, false⟩ with
       | .error e => decide (e = (0x71, 1))
       | .ok _ => false) &&
     meets (.dbgGo 0xC0) (withK 0 [0x80000010] base) (fun _ v sh => decide (fieldNat (v.wordB sh 0) 16 16 ≠ 0))) = true ∧
    (meets (.cluCstat 0xC2 0xC0) (withK 0 [0x10000] base) (fun _ v sh => decide (fieldNat (v.wordB sh 0) 16 16 ≠ 0)) &&
     meets (.dbgAttach 0xC2 0xC0) (withK 2 [127] (other id base)) (finds ⟨some false, false, false, false⟩ fun _ v sh _ =>
       decide ((v.opA sh 0).toNat % 2 ^ 57 % 128 ≠ 0)) &&
     meets (.dbgStep 0xC0) (other (fun c => { halted c with window := some ⟨gang0, 0, 0, 0, [], false⟩ }) base)
       (finds ⟨some true, true, true, true⟩ fun _ _ _ c => c.window.isSome) &&
     [Instr.dbgRd 0xC2 0xC0, .dbgWr 0xC2 0xC0].all (fun i => meets i (withK 1 [2] (other halted base))
       (finds ⟨some true, true, true, false⟩ fun s v sh c => (s.dbgPlace v sh c).isNone)) &&
     [Instr.dbgFreeze 0xC0, .dbgThaw 0xC0].all (fun i =>
       meets i (withK 0 [12] base) (fun _ v sh => decide (fieldNat (v.wordB sh 0) 4 28 = 0 ∧ 12 ≤ fieldNat (v.wordB sh 0) 0 4)) &&
       meets i (withK 0 [0x10] base) (fun _ v sh => decide (fieldNat (v.wordB sh 0) 4 28 ≠ 0)) &&
       meets i (withK 0 [11] (base.setDie 0 { base.die 0 with frozenClusters := [11] })) (fun s _ _ => s.isFrozen (0, 11))) &&
     meets (.dbgWhy 0xC2 0xC0) (withK 1 [8] (other id base)) (finds ⟨none, false, true, true⟩ fun _ v sh _ =>
       decide ((v.wordB sh 1).toNat = 8)) &&
     meets (.dbgWpset 3 0xC0) (withK 1 [0x7A, 0x104] (other (fun c => { controlled c with cmcore := 1 }) base))
       (finds ⟨some true, false, false, false⟩ fun _ v sh _ => decide (fieldNat (v.wordB sh 1) 7 25 = 0) && (v.wordB sh 1).getLsbD 6) &&
     meets (.dbgVwpset 0 0xC0) (withK 1 [0x3A, 0, 0x01010000] (other controlled base)) (finds ⟨some true, false, false, false⟩
       fun _ v sh _ => isAperture ((dwordOf [v.wordB sh 2, v.wordB sh 3]).setWidth 57)) &&
     meets (.dbgVwpset 0 0xC0) (withK 1 [0x80] (other controlled base)) (fun _ v sh => decide (fieldNat (v.wordB sh 1) 7 25 ≠ 0)) &&
     meets (.dbgWpset 0 0xC0) (withK 0 [0x12] (other controlled base)) (fun s v sh => decide (fieldNat (v.wordB sh 0) 16 16 = 0 ∧
       fieldNat (v.wordB sh 1) 7 25 = 0) && match s.dbgCrew v (v.wordB sh 0) ⟨some true, false, false, false⟩ with
         | .error _ => true
         | .ok _ => false)) = true := by decide

/-- A gang may name a session: its own, or any from PL2 on. -/
def names (n : Nat) (v : View) : Bool := decide (n = v.core.sessionOf v.gang ∨ 2 ≤ v.core.level v.gang)

/-- The gang at PL1. -/
def kernel (s : State) : State := withTeam (fun t => { t with record := { t.record with base := 1 } }) s

/-- Die 0 holds a FID 9 of session `n`, or has discarded FID 9; k0 names it. -/
def faulted (n : Nat) (s : State) : State :=
  withK 0 [9] (s.setDie 0 { s.die 0 with fids := [⟨9, n, 0, 0x80, 0, false, []⟩] })
def discarding (s : State) : State := withK 0 [9] (s.setDie 0 { s.die 0 with discarded := [9] })

/-- Partition 0 holds every engine of die 0's pool. -/
def leased (s : State) : State := s.setDie 0 { s.die 0 with engines := List.replicate 16 0 }

/-- Form `i` has its turn in `s` at its issue, where its own checks `ok` hold, and again, where its group took it up with the
operands it read; `p` holds of the state, the view and the operands at both. -/
def turns (i : Instr) (dst : View → Dest) (s : State) (p : State → View → FormHold → Bool)
    (ok : View → Shape → Bool := fun _ _ => true) : Bool :=
  meetsAt i s fun rx v sh =>
    let f : FormHold := ⟨v.cur, i, v.opA sh 0, v.opB sh 0, dst v⟩
    let t := withGang (fun x => { x with forms := [f] }) s
    (v.gang.form? v.cur.entry).isNone && ok v sh && p (s.issued v i rx).formTurn v f &&
    t.view?.any fun w => decide (w.gang.form? w.cur.entry = some f) &&
      p (t.formTurn.updGang w.cur.gang (fun x => { x with forms := x.forms.filter (fun h => decide (h ≠ f)) })) w f

/-- It issues for the first time, and `p` holds. -/
def begins (i : Instr) (s : State) (p : View → Shape → Bool) : Bool :=
  meetsAt i s fun _ v sh => (v.gang.form? v.cur.entry).isNone && p v sh

/-- Frame 0x30 is blocked, and has moved to frame 0x31 or not; k0 and k1 name it and k2 and k3 frame 0x31. -/
def blocking (moved : Option Nat) (q : List Event) (s : State) : State :=
  withK 0 [0x30000, 0, 0x31000, 0] { s with blocked := [⟨0x30, moved, q⟩] }

/-- A frame that nothing blocks, and what is named. -/
def isFrame (fr : Nat) (x : DWord) : Bool := decide (x.toNat = fr * 4096) && inModule (fr * 4096)
def unblocked (fr : Nat) (u : State) : Bool := u.blocked.all fun k => decide (k.frame ≠ fr)

/-- Accesses of session 1 to the page at 0x4000 from die 0, and what `xlt.inv` of that page leaves at its first turn. -/
def usesPage (q : Access) : Bool := decide (q.session = 1) && decide (dieOf q.gang.core = 0) && !isAperture q.va &&
  decide (0x4000 ≤ q.va.toNat) && decide (q.va.toNat < 0x5000)
def invPage (u : State) : State :=
  (u.strike 1 (fun l => decide (0x4000 ≤ l * 128) && decide (l * 128 < 0x5000))).dropRange 1 0x4000 0x1000 (fun d => decide (d = 0))

theorem test_TranslationFormsComplete_met :
    (turns (.xltInv 0xC2 0xC0) (fun _ => []) (withK 0 [1, 0, 0x4000, 0] base) (fun u _ f =>
       decide (invRange (f.a.toNat % 2 ^ 57) (fieldNat f.sel 12 2) = (0x4000, 0x1000)) && [u, invPage u].all fun w =>
         !w.flying usesPage && !w.queuedAccess usesPage)
       (fun v sh => decide (fieldNat (v.sel sh) 15 17 = 0) && names (fieldNat (v.sel sh) 0 12) v) &&
     turns (.xltInv 0xC2 0xC0) (fun _ => []) { (withK 0 [1, 0, 0x4000, 0] base) with agenda := [.accessAtHome (access0 (.load []))] }
       (fun u _ _ => u.flying usesPage && (invPage u).flying usesPage)
       (fun v sh => decide (fieldNat (v.sel sh) 15 17 = 0) && names (fieldNat (v.sel sh) 0 12) v) &&
     begins (.xltInv 0xC2 0xC0) (withK 0 [0x8001] base) (fun v sh => decide (fieldNat (v.sel sh) 15 17 ≠ 0)) &&
     begins (.xltInv 0xC2 0xC0) (withK 0 [2] (kernel base)) (fun v sh => !names (fieldNat (v.sel sh) 0 12) v) &&
     turns (.xltProbe 0xC2 0xC0) (fun v => v.dest 0xC0 3) (withK 0 [1, 0, 0x4000, 0] base) (fun u _ f =>
       decide ((u.walkMem (fieldNat f.sel 0 12) (f.a.toNat % 2 ^ 57)).stop ≠ .blocked)) (fun v sh => names (fieldNat (v.sel sh) 0 12) v) &&
     turns (.xltProbe 0xC2 0xC0) (fun v => v.dest 0xC0 3)
       { (withK 0 [1, 0, 0x4000, 0] base) with blocked := [⟨0x14, none, []⟩] } (fun u _ f =>
         decide ((u.walkMem (fieldNat f.sel 0 12) (f.a.toNat % 2 ^ 57)).stop = .blocked))
       (fun v sh => names (fieldNat (v.sel sh) 0 12) v) &&
     begins (.xltProbe 0xC2 0xC0) (withK 0 [2] (kernel base)) (fun v sh => !names (fieldNat (v.sel sh) 0 12) v) &&
     [Instr.xltReplay 0xC0, .xltCancel 0xC0].all (fun i =>
       meets i (faulted 1 base) (fun s v sh => ((s.die 0).fids.find? fun x => decide (x.fid = v.sel sh)).any fun f =>
         names f.session v) &&
       meets i (faulted 2 (kernel base)) (fun s v sh => ((s.die 0).fids.find? fun x => decide (x.fid = v.sel sh)).any fun f =>
         !names f.session v) &&
       meets i (discarding base) (fun s v sh => decide ((s.die 0).fids = [] ∧ v.sel sh ∈ (s.die 0).discarded)) &&
       meets i (withK 0 [9] base) (fun s v sh => decide ((s.die 0).fids = [] ∧ v.sel sh ∉ (s.die 0).discarded)))) = true ∧
    (let one (v : View) : Dest := v.dest 0xC0 1
     meets (.xltFblk 0xC0 0xC2) (blocking none [] base) (fun u v sh => isFrame 0x30 (v.opA sh 0) && !unblocked 0x30 u) &&
     meets (.xltFblk 0xC2 0xC0) (blocking none [] base) (fun u v sh => isFrame 0x31 (v.opA sh 0) && unblocked 0x31 u) &&
     meets (.xltFblk 0xC0 0xC2) (withK 0 [0x30001] base) (fun _ v sh => decide ((v.opA sh 0).toNat % 4096 ≠ 0)) &&
     turns (.xltFunblk 0xC2 0xC0) one (blocking none [] base) (fun u _ f => isFrame 0x31 f.a && unblocked 0x31 u) &&
     turns (.xltFunblk 0xC0 0xC0) one (blocking none [] base) (fun u _ f => isFrame 0x30 f.a &&
       decide (u.blocked.find? (fun j => decide (j.frame = 0x30)) = some ⟨0x30, none, []⟩)) &&
     turns (.xltFunblk 0xC0 0xC0) one (blocking (some 0x31) [] base) (fun u _ f => isFrame 0x30 f.a &&
       decide (u.blocked.find? (fun j => decide (j.frame = 0x30)) = some ⟨0x30, some 0x31, []⟩)) &&
     turns (.xltFunblk 0xC0 0xC0) one (blocking (some 0x31) [.accessAtHome (access0 (.load []))] base) (fun u _ f => isFrame 0x30 f.a &&
       decide (u.blocked.find? (fun j => decide (j.frame = 0x30)) = some ⟨0x30, some 0x31, [.accessAtHome (access0 (.load []))]⟩)) &&
     turns (.xltFunblk 0xC0 0xC0) one (withK 0 [0x30001] base) (fun _ _ f => decide (f.a.toNat % 4096 ≠ 0)) &&
     [none, some 0x31].all (fun m => turns (.xltFmove 0xC0 0xC2) one (leased (blocking m [] base)) (fun u v f => u.pooled v &&
       isFrame 0x30 f.a && isFrame 0x31 f.b && decide (u.blocked.find? (fun j => decide (j.frame = 0x30)) = some ⟨0x30, m, []⟩))) &&
     turns (.xltFmove 0xC2 0xC0) one (leased (blocking none [] base)) (fun u v f => u.pooled v && isFrame 0x31 f.a &&
       unblocked 0x31 u && isFrame 0x30 f.b) &&
     turns (.xltFmove 0xC0 0xC2) one (leased (withK 0 [0x30001] base)) (fun u v f => u.pooled v && decide (f.a.toNat % 4096 ≠ 0)) &&
     turns (.xltFmove 0xC0 0xC2) one (blocking none [] base) (fun u v _ => !u.pooled v)) = true := by decide

/-- The second crew has been drained with ticket 5. -/
def ticketed (s : State) : State :=
  let t := other id s
  match t.crews.find? (fun c => decide (c.slot = 1)) with
  | none => t
  | some c => withK 2 [0x400005] { t.freeCrew c with saved := [t.savedCrew 5 { c with drain := .drained }] }

/-- What a restore comes to with placement `p`. -/
def restored (s : State) (c : SavedCrew) (p : List Nat) : Bool × State :=
  let t := s.placeCrew c c.crew.die p
  let u : State := { t with saved := t.saved.filter (fun x => decide (x.ticket ≠ c.ticket)) }
  match u.crew? c.crew.id with
  | none => (true, u)
  | some k => (true, (u.recheckAll k).graphSteps c.crew.session)

/-- The placement is open: what holds of every place holds of the restore. -/
theorem restoreCrew_mem {s u : State} {c : SavedCrew} {P : Bool × State → Prop} (hs : s.sesState c.crew.session = 2)
    (he : s.engineHeld c.crew.die c.crew.session 0 = true) (hm : c.hasMatrix = false) (hu : s.unshelve c.crew.session = some u)
    (hp : u.placesFor c c.crew.die ≠ []) (h : ∀ p ∈ u.placesFor c c.crew.die, P (restored u c p)) : P (s.restoreCrew c) := by
  have hlt := Nat.mod_lt (Config.placement u.tick).1 (List.length_pos_iff.mpr hp)
  have hq := h _ (List.getElem_mem hlt)
  have e : s.restoreCrew c = restored u c ((u.placesFor c c.crew.die)[(Config.placement u.tick).1 %
      (u.placesFor c c.crew.die).length]) := by
    unfold State.restoreCrew restored
    dsimp only
    rw [if_neg (by rw [hs]; decide), if_neg (by rw [he]; decide), if_neg (by rw [hm]; decide)]
    unfold State.placeSaved
    simp only [hu, Option.bind_some, if_neg hp, List.getD, List.getElem?_eq_getElem hlt, Option.getD_some, if_true] <;> rfl
  rw [e]
  exact hq

theorem test_RecoveryFormsComplete_met :
    ([(Instr.ckpPreg 0xC2 0xC0, State.preg), (.ckpGreg 0xC2 0xC0, State.greg)].all (fun e =>
       let one (v : View) : Dest := v.dest 0xC0 1
       turns e.1 one (withK 2 [0x4001] base) (fun u v f => match e.2 u v (f.a.toNat % 2 ^ 57) with
         | .ok w _ => decide (w = statusWord 2 0)
         | _ => false) &&
       turns e.1 one (withK 2 [0x8000] base) (fun u v f => match e.2 u v (f.a.toNat % 2 ^ 57) with
         | .wait _ => true
         | _ => false) &&
       turns e.1 one (withGang (fun x => x.setGroup 0 { x.group 0 with wake := 9 }) (withK 2 [0x8000] base)) (fun u v f =>
         match e.2 u v (f.a.toNat % 2 ^ 57) with
         | .bad _ _ => true
         | _ => false)) &&
     [Instr.ckpUnreg 0xC2 0xC0, .ckpGlaunch 0xC2 0xC0, .ckpGstat 0xC2 0xC0].all (fun i => meets i base fun _ _ _ => true) &&
     meets (.ckpTake 0xC2 0xC0) (withK 2 [7] (kernel base)) (fun _ v sh => !names (fieldNat (v.word sh) 0 12) v) &&
     meets (.ckpEpnew 0xC0) base (fun s _ _ => !s.endpointsFit 1 1) &&
     meets (.ckpEpnew 0xC0) { base with parts := Cells.put 0 base.parts 6 1 } (fun s _ _ => s.endpointsFit 1 1) &&
     meets (.ckpTake 0xC2 0xC0) (withK 2 [7] base) (fun s _ _ => decide (s.sesState 7 = 0)) &&
     meets (.ckpTake 0xC2 0xC0) (withK 2 [1] base) (fun s v _ => decide (s.sesState 1 ≠ 0) &&
       ((s.await (.take 1) .sched (v.dstList 0xC0 1)).ses 1).retryAt.isNone) &&
     meets (.ckpTake 0xC2 0xC0) (withK 2 [1] (base.setSes 1 { base.ses 1 with retryAt := some 1024 })) (fun s v _ =>
       decide (s.sesState 1 ≠ 0) && ((s.await (.take 1) .sched (v.dstList 0xC0 1)).ses 1).retryAt.isSome) &&
     meets (.ckpRoll 0xC2 0xC0) (withK 2 [1] base) (fun s _ _ => decide (s.sesState 1 ≠ 0 ∧ s.sesState 1 ≠ 4)) &&
     meets (.ckpRoll 0xC2 0xC0) (withK 2 [1] (base.setSesState 1 4)) (fun s _ _ => decide (s.sesState 1 = 4)) &&
     meets (.ckpDrain 0xC2 0xC0) (withK 2 [0x10000] base) (fun _ v sh => decide (fieldNat (v.word sh) 16 16 ≠ 0)) &&
     [DrainState.running, .drained].all (fun d => meets (.ckpDrain 0xC2 0xC0) (withK 2 [0x10] (other (fun c => { c with drain := d }) base))
       (fun s v sh => decide (fieldNat (v.word sh) 16 16 = 0) &&
         (s.crewAt 0 (v.word sh)).any fun c => names c.session v && decide (c.drain = d))) &&
     meets (.ckpDrain 0xC2 0xC0) (withK 2 [0x10] (other (fun c => { c with session := 2 }) (kernel base))) (fun s v sh =>
       decide (fieldNat (v.word sh) 16 16 = 0) && (s.crewAt 0 (v.word sh)).any fun c => !names c.session v) &&
     meets (.ckpDrain 0xC2 0xC0) (withK 2 [0x1F0] base) (fun s v sh => decide (fieldNat (v.word sh) 16 16 = 0) &&
       (s.crewAt 0 (v.word sh)).isNone)) = true ∧
    (meets (.ckpRestore 0xC2 0xC0) (leased (ticketed base)) (fun s v sh => decide (fieldNat (v.word sh) 20 12 = 4) &&
       (s.saved.find? fun x => decide (x.ticket = fieldNat (v.word sh) 0 20)).any fun c => names c.crew.session v &&
         decide (s.sesState c.crew.session = 2) && s.engineHeld c.crew.die c.crew.session 0 && !c.hasMatrix &&
         (s.unshelve c.crew.session).any fun u => decide (u.placesFor c c.crew.die ≠ []) &&
           (u.placesFor c c.crew.die).all fun p => (restored u c p).1 && decide ((restored u c p).2.sesState 1 ≠ 4)) &&
     meets (.ckpRestore 0xC2 0xC0) ((ticketed base).setSesState 1 1) (fun s v sh => decide (fieldNat (v.word sh) 20 12 = 4) &&
       (s.saved.find? fun x => decide (x.ticket = fieldNat (v.word sh) 0 20)).any fun c => names c.crew.session v &&
         !(s.restoreCrew c).1) &&
     meets (.ckpRestore 0xC2 0xC0) (withK 2 [0x400005] base) (fun s _ _ => decide (s.saved = [])) &&
     meets (.ckpDeadline 0xC2 0xC0) (withK 2 [0xFFFFFF1F] base) (fun _ v sh => decide (fieldNat (v.word sh) 5 3 = 0 ∧
       fieldNat (v.word sh) 0 5 = 31)) &&
     meets (.ckpDeadline 0xC2 0xC0) (withK 2 [0x20] base) (fun _ v sh => decide (fieldNat (v.word sh) 5 3 ≠ 0)) &&
     meets (.ckpBudget 0xC2 0xC0) (withK 2 [26000, 880] base) (fun _ v sh => decide (fieldNat (v.opA sh 0) 0 24 = 26000 ∧
       fieldNat (v.opA sh 0) 32 12 = 880 ∧ fieldNat (v.opA sh 0) 24 8 = 0 ∧ fieldNat (v.opA sh 0) 44 20 = 0)) &&
     meets (.ckpBudget 0xC2 0xC0) (withK 2 [26001, 0] base) (fun _ v sh => decide (26000 < fieldNat (v.opA sh 0) 0 24)) &&
     meets (.ckpBudget 0xC2 0xC0) (withK 2 [1, 0x1000] base) (fun _ v sh => decide (fieldNat (v.opA sh 0) 0 24 ≤ 26000 ∧
       fieldNat (v.opA sh 0) 24 8 = 0 ∧ fieldNat (v.opA sh 0) 44 20 ≠ 0))) = true := by decide

/-- Session 1 owns frame 0x20, die 0 holds a title key and a pool of 8 frames, and k0 and k2 ask to share the page at
0x4000 under T with k = 0. -/
def sharing (s : State) : State :=
  let t := withK 0 [0x01000001, 0, 0x4000, 0] { s with frameTag := [(0x20, 1)] }
  { t.setDie 0 { t.die 0 with keys := [(0, ⟨false, 1, 0, 0⟩), (1, ⟨true, t.sesGroup 1, 0, 0⟩)] } with
    cpool := t.cpool.set 0 (0x50000, 8) }

/-- The leaf of the page at 0x4000 is shared, and session 1 has a free frame on its stack. -/
def unsharing (s : State) : State :=
  let t := withK 0 [1, 0, 0x4000, 0] { s with mem := Cells.write s.mem 0x14020 (bytesOf 0x2011B 8) }
  ((t.setCtx 1 0x10 8 0x60000).setCtx 1 0x18 4 1).wr 0x60000 8 0x61000

/-- Frame 0x20 is a poisoned frame of die 0's slice with key `k`, and the copy offered is frame 0x21, at address 0x5000. -/
def poisoned (k : BitVec 128) (s : State) : State :=
  let t := withK 0 [0, 0, 0x5000, 0, 0x20000, 0] { s with mem := Cells.write s.mem 0x14028 (bytesOf 0x2101F 8) }
  t.setDie 0 { t.die 0 with atoll := [⟨0, k, 0x20, 1, true⟩] }

/-- The walk of the page at 0x4000 ends at a leaf of level 0 that nothing blocks. -/
def leafAt (u : State) (p : WalkEnd → Bool) : Bool :=
  let m := u.walkMem 1 0x4000
  m.addr.isSome && decide (m.stop ≠ .blocked ∧ m.level = 0) && m.valid && m.good && p m

/-- Bytes read for `heal`, as far as TLBs leave them open (log 9): of the copy's lines only the first is translated here. -/
theorem test_SharingFormsComplete_met :
    ([Instr.modgFork 0xC2 0xC0, .modgKey 0xC2 0xC0, .modgMigr 0xC2 0xC0, .modgMdone 0xC2 0xC0, .modgSopen 0xC2 0xC0,
       .modgSclose 0xC2 0xC0].all (fun i => meets i (withK 2 [1] base) (fun _ v sh => decide ((v.word sh).toNat = 1)) &&
         meets i (withK 2 [0x30001000] base) (fun _ v sh => decide (fieldNat (v.word sh) 12 4 ≠ 0))) &&
     meets (.modgFassign 0xC2 0xC0) (withK 0 [0x80000001] base) (fun _ v sh => decide (fieldNat (v.sel sh) 12 19 = 0)) &&
     meets (.modgFassign 0xC2 0xC0) (withK 0 [0x40000001] base) (fun _ v sh => decide (fieldNat (v.sel sh) 12 19 ≠ 0)) &&
     [true, false].all (fun b => turns (.modgFork 0xC2 0xC0) (fun v => v.dest 0xC0 1) ((if b then leased else id) (withK 2 [1] base))
       (fun u v _ => u.pooled v == b)
       (fun v sh => decide (fieldNat (v.word sh) 12 4 = 0 ∧ fieldNat (v.word sh) 28 4 = 0))) &&
     begins (.modgFork 0xC2 0xC0) (withK 2 [0x1000] base) (fun v sh => decide (fieldNat (v.word sh) 12 4 ≠ 0)) &&
     decide (base.sesState 9 = 0 ∧ base.sesState 1 ≠ 0) && !base.sesMoving 1) = true ∧
    (let dst (v : View) : Dest := v.destAt [0xC0, 0xC2, 0xC3]
     let ok (v : View) (sh : Shape) : Bool :=
       decide (fieldNat (v.sel sh) 12 4 = 0 ∧ fieldNat (v.sel sh) 25 7 = 0) && !(v.sel sh).getLsbD 23
     let share (s : State) (p : State → View → FormHold → Bool) : Bool := turns (.modgShare 0xC2 0xC0) dst s (fun u v f =>
       decide (fieldNat f.sel 0 12 = 1 ∧ f.a.toNat % 2 ^ 57 = 0x4000) && p u v f) ok
     begins (.modgShare 0xC2 0xC0) (withK 0 [0x02000001, 0, 0x4000, 0] base) (fun v sh => decide (fieldNat (v.sel sh) 25 7 ≠ 0)) &&
     share (sharing base) (fun u v _ => !u.pooled v) &&
     share (kernel (leased (sharing base))) (fun u v f => u.pooled v && f.sel.getLsbD 24 && decide (v.core.level v.gang < 2)) &&
     share (leased ((sharing base).setSesState 1 0)) (fun u v _ => u.pooled v && decide (u.sesState 1 = 0)) &&
     share (leased { (sharing base) with blocked := [⟨0x14, none, []⟩] }) (fun u v _ => u.pooled v && decide (u.sesState 1 ≠ 0) &&
       decide ((u.walkMem 1 0x4000).addr ≠ none ∧ (u.walkMem 1 0x4000).stop = .blocked)) &&
     share (leased (sharing { base with mem := Cells.write base.mem 0x14020 (bytesOf 0 8) })) (fun u v _ => u.pooled v &&
       decide (u.sesState 1 ≠ 0) && decide ((u.walkMem 1 0x4000).stop ≠ .blocked) && !(u.walkMem 1 0x4000).valid) &&
     share (leased { (sharing base) with blocked := [⟨0x20, none, []⟩] }) (fun u v _ => u.pooled v && decide (u.sesState 1 ≠ 0) &&
       leafAt u (fun m => u.shareable 1 m.entry && decide (pteFrame m.entry / 4096 = 0x20))) &&
     share (leased (sharing base)) (fun u v _ => u.pooled v && decide (u.sesState 1 ≠ 0 ∧ u.blocked = [] ∧ 2 ≤ v.core.level v.gang) &&
       leafAt u (fun m => u.shareable 1 m.entry && match u.sharePage 1 4 (m.addr.getD 0) m.caddr m.entry true 0 with
         | .done st _ _ _ => decide (st = 0)
         | .fail _ => false))) = true ∧
    (let one (v : View) : Dest := v.dest 0xC0 1
     let unshare (s : State) (p : State → View → FormHold → Bool) : Bool := turns (.modgUnshare 0xC2 0xC0) one s (fun u v f =>
       decide (fieldNat f.sel 0 12 = 1 ∧ f.a.toNat % 2 ^ 57 = 0x4000) && p u v f) (fun v sh => decide (fieldNat (v.sel sh) 12 20 = 0))
     begins (.modgUnshare 0xC2 0xC0) (withK 0 [0x1001, 0, 0x4000, 0] base) (fun v sh => decide (fieldNat (v.sel sh) 12 20 ≠ 0)) &&
     unshare (unsharing base) (fun u v _ => !u.pooled v) &&
     turns (.modgUnshare 0xC2 0xC0) one (kernel (leased (withK 0 [2, 0, 0x4000, 0] base))) (fun u v f => u.pooled v &&
       !names (fieldNat f.sel 0 12) v) (fun v sh => decide (fieldNat (v.sel sh) 12 20 = 0)) &&
     unshare (leased ((unsharing base).setSesState 1 0)) (fun u v _ => u.pooled v && names 1 v && decide (u.sesState 1 = 0)) &&
     unshare (leased { (unsharing base) with blocked := [⟨0x14, none, []⟩] }) (fun u v _ => u.pooled v && names 1 v &&
       decide (u.sesState 1 ≠ 0 ∧ (u.walkMem 1 0x4000).addr ≠ none ∧ (u.walkMem 1 0x4000).stop = .blocked)) &&
     unshare (leased (withK 0 [1, 0, 0x4000, 0] base)) (fun u v _ => u.pooled v && decide (u.sesState 1 ≠ 0) &&
       leafAt u (fun m => !pteShr m.entry)) &&
     unshare (leased ((unsharing base).setCtx 1 0x18 4 0)) (fun u v _ => u.pooled v && decide (u.sesState 1 ≠ 0) &&
       leafAt u (fun m => pteShr m.entry && !u.overlayBlocked m.companion && (u.takeFrame 1).isNone)) &&
     unshare (leased (unsharing base)) (fun u v _ => u.pooled v && decide (u.sesState 1 ≠ 0) &&
       leafAt u (fun m => pteShr m.entry && !u.overlayBlocked m.companion && decide (fieldNat m.companion 16 40 = 0) &&
         (u.takeFrame 1).isSome))) = true ∧
    (let one (v : View) : Dest := v.dest 0xC0 1
     turns (.modgHeal 0xC4 0xC0) one (poisoned 0 base) (fun u v _ => !u.pooled v) &&
     turns (.modgHeal 0xC2 0xC0) one (leased (poisoned 0 base)) (fun u v f => u.pooled v && decide (f.a.toNat % 4096 = 0) &&
       (u.atollOf (f.a.toNat / 4096)).isNone) &&
     turns (.modgHeal 0xC4 0xC0) one (leased (poisoned 0 base)) (fun u v f => u.pooled v && decide (f.a.toNat % 4096 = 0) &&
       (u.atollOf (f.a.toNat / 4096)).any (·.poison) &&
       match u.span { askOf v.core v.cur.gang.core v.gang 0 44 with engine := true } (f.b.toNat % 2 ^ 57) 128 with
       | (.ok ps, w) => decide (w.readSpan ps = Cells.bytes base.mem 0x21000 128)
       | _ => false)) = true := by
  decide

/-! Steps. -/

/-- The gang of a state, the team's record with a handler, a gang whose groups all wait. -/
def theGang (p : Gang → Bool) (s : State) : Bool := (s.gang? gang0).any p
def endpoint5 : Endpoint := ⟨5, 0, [List.replicate 32 7]⟩
def withEndpoint (s : State) : State := s.setSes 1 { s.ses 1 with endpoints := [endpoint5] }
def call0 (ws : List Word) : Call :=
  { ep := 0x10100, gang := gang0, team := 2, lane := 0, tag := 0, cap := 2, session := 1, level := 3, die := 0, words := ws, dst := [160] }

theorem test_ResultsReachRegisters_met :
    (theGang (fun x => decide ((x.latency.find? (fun m => decide (m.id = 2))) = some ⟨2, 5, 0, 0xFF, [(0, 5)], [(1, 0xFF, 1)]⟩))
       (withGang (fun x => { x with latency := [⟨2, 5, 0, 0xFF, [(0, 5)], [(1, 0xFF, 1)]⟩] }) base) &&
     theGang (fun x => ((copyV5 (.empty (.delivery gang0 0)) base).core 0).awaited gang0 x [(0, [160])])
       (copyV5 (.empty (.delivery gang0 0)) base) &&
     ((withEndpoint base).takeMsg 1 5).isSome && ((withEndpoint base).endpoint? 1 5 == some endpoint5) &&
     ((withGang (fun x => { x with held := [⟨base.cur, .qcall 4 1 2 2 none, 0xF0100⟩] }) base).unhold gang0 0).any (fun p =>
       decide (p.1.op = .qcall 4 1 2 2 none) && p.2.view?.any fun v =>
         let sh := shape (.qcall 4 1 2 2) v.mode false
         (match p.2.port (v.core.sessionOf v.gang) 0 p.1.ep with
          | .queue .. => true
          | _ => false) && decide ((newOnes v.logged (v.rowsWritten sh)).length ≤ v.room) && (p.2.takesEffect v sh false).canSpend 1 none) &&
     ((withGang (fun x => { x with held := [⟨base.cur, .send [1] none, 5⟩] }) (withEndpoint base)).unhold gang0 0).any (fun p =>
       decide (p.1.op = .send [1] none) && (p.2.gang? gang0).any fun x => p.2.canSpend ((p.2.core 0).sessionOf x) none) &&
     decide (fieldNat (([0, 7] : List Word).getD 0 0) 0 8 ≠ 1) && decide (fieldNat (([0xA001] : List Word).getD 0 0) 0 8 = 1) &&
     (base.gang? gang0).isSome && (base.gang? ⟨0, 1, 9⟩).isNone &&
     theGang (fun x => decide (x.groupSlices 0 ≠ 0 ∧ (x.group 0).wait = .ready) && base.mayIssue gang0 x 0 &&
       match base.fetch gang0 x 0 with
       | (.seq .., _) => true
       | _ => false) base) = true := by decide

/-- A unit fault of the gang is pending while its one group waits. -/
def unitFaulted : State :=
  withGang (fun x => { x.setGroup 0 { x.group 0 with wait := .acount, dog := Config.watchdogLimit } with
    unitFaults := [⟨call0 [], [0x01]⟩] }) base

/-- A sequence of the gang is parked for FID `f`; a lane whose FID has been replayed has FID 0. -/
def parkedFor (f : Word) (s : State) : State :=
  withGang (fun x => { x with parked := [⟨base.cur, true, false, [⟨f, none⟩], none⟩] }) s

theorem test_TrapsAreTaken_met :
    (theGang (fun x => (x.raised.any fun r => !fatalOnly r.cause && r.next.isNone) && !x.trap.tcause.getLsbD 15)
       (raised 0x2000 false 0x20) &&
     theGang (fun x => x.raised.isSome && x.trap.tcause.getLsbD 15) (raised 0x2000 true 0x20) &&
     theGang (fun x => !x.trap.tcause.getLsbD 15 && decide ((((raised 0 false 0x20).core 0).recordOf x).handler = 0)) (raised 0 false 0x20) &&
     theGang (fun x => (x.raised.any fun r => fatalOnly r.cause) && !x.trap.tcause.getLsbD 15) (raised 0x2000 false 0x91) &&
     decide (((base.core 0).gangs.map (·.1)).Pairwise (· < ·)) &&
     theGang (fun x => !x.trap.tcause.getLsbD 15 && x.raised.isNone && x.owesTrap && decide (x.unitTrapGroup = some 0) &&
       !((unitFaulted.owedTrap gang0 x 0).gang? gang0).any Gang.owesTrap) unitFaulted &&
     theGang (fun x => !((State.unparkAll gang0 x.parked (parkedFor 0 base)).1.any fun p => !p.saved)) (parkedFor 0 base) &&
     theGang (fun x => (State.unparkAll gang0 x.parked (faulted 1 (parkedFor 9 base))).1.any fun p => !p.saved)
       (faulted 1 (parkedFor 9 base)) &&
     theGang (fun x => decide (Config.watchdogLimit ≤ (x.group 0).dog)) unitFaulted &&
     theGang (fun x => decide ((x.group 0).dog < Config.watchdogLimit)) base) = true := by decide

/-- A pipeline of session 1 whose one stage is a source stage of single teams, and whose queue at 0x4800 holds record 0
committed, record 1 reserved by team 2 under identifier 7. -/
def pipe0 : Pipeline :=
  { num := 0, die := 0, stages := [⟨{ loadRecord with base := 0, entry := 0x1000 }, false, 1, 0, false, 0, 31, 0, 1, 1, 4, 1, 0, 1, 0⟩],
    queues := [⟨0x10200, 0x4800, 4, 64, 2, [(0, .committed false), (1, .reserved 7 2)]⟩], phase := some (0, 0), nextRid := 8 }
def graph0 : Graph :=
  { num := 0, entry := 0, cspad := 0, resbase := 0, argtab := 0x4900, nodes := [(0, [], 0)], state := 1, node := 0, stage := 0,
    waitr := 0, argsel := 0, waiting := false, queuedAt := 0 }
def piped (s : State) : State := s.setSes 1 { s.ses 1 with pipes := [pipe0], graphs := [graph0] }
def recordCall (ws : List Word) : Call := { call0 ws with ep := 0x10200 }

/-- A crew of two teams on cores 1 and 2, and the gangs of a team ended. -/
def pair (s : State) : State := s.launchNow { loadLaunch with cores := [1, 2] }
def ended (core : Nat) (s : State) : State := s.setCore core { s.core core with gangs := [] }

/-- What the exit of a team starts from: its crew has other teams (`more`), or not. -/
def exits (core : Nat) (more : Bool) (s : State) : Bool :=
  (s.team? core 0).any fun tm => (s.core core).teamEnded 0 && !s.teamPending core tm && match State.voidAll tm.tid (s.reservations tm.tid) s with
    | .done () u => ((((u.logRows tm.session (rangeRows core tm.base tm.bytes)).freeTeam core 0 true).updCrew tm.crew
        (fun c => { c with gone := c.gone.set tm.rank true })).crew? tm.crew).any fun c => decide (c.residents ≠ []) == more
    | _ => false

theorem single (k : Nat) : ([1] : List Nat)[k % 1]? = some 1 := by simp [Nat.mod_one]

theorem test_LaunchesAndRecords_met :
    (base.launchFits { loadLaunch with cores := [1] } && !base.launchFits { loadLaunch with cores := [] } &&
     exits 0 false (ended 0 base) && exits 1 true (ended 1 (pair base)) && !(base.core 0).teamEnded 0 &&
     badRecordCall [0, 0] && !badRecordCall [0, 0x0201] && !badRecordCall [0, 2, 7] &&
     ((piped base).callQueue (recordCall [0, 0x0201])).any (fun q => q.2.2.hasRoom 2 && !q.2.2.hasRoom 3) &&
     ((piped base).callQueue (recordCall [0, 2, 7])).any (fun q =>
       let seqs := q.2.2.reservedBy (fun r t => decide (BitVec.ofNat 32 r = 7) && decide (t = 2))
       decide (seqs = [1]) && match State.commitRecs 1 0 q.2.1 ((piped base).stageOf 2 (pipeKey 1 0)) false seqs (piped base) with
         | .done .. => true
         | _ => false) &&
     (base.callQueue (recordCall [0, 0x0201])).isNone &&
     decide (((piped base).die 0).mode ≠ 2) &&
     decide (((piped base).sess.map (·.1)).filter
       (fun n => (piped base).mayStart n 0 && decide ((piped base).candidates n 0 ≠ [])) = [1]) &&
     (bestCandidate ((piped base).candidates 1 0)).any fun c =>
       decide (0 ∈ (piped base).allowedClusters c.stage.record.session 0)) = true := by decide

/-- Commands 1 and 2 of the gang: `o` unfired or fired, behind one another in queue `q`. -/
def cmd0 (id : Nat) (o : CmdOp) (fired : Bool) : Cmd :=
  { id := id, gang := gang0, team := 0, session := 1, level := 3, pc := 0x1000, seq := 0, op := o, ch := 0, fired := fired, pos := 0,
    landed := [], stall := none, stallAt := 0, done := false, held := false, buf := [], inSlot := none, outSlot := none }
def queued (q : Nat) (o : CmdOp) (fired : Bool) (s : State) : State :=
  withCore (fun c => { c with queues := c.queues.set q [cmd0 1 o fired, cmd0 2 o fired] }) s
def copy0 : CmdOp := .copy 0x4100 0x4200 0x40
/-- Command 1 of queue `q` and its team, and `p` of them. -/
def commands (q id : Nat) (p : CoreSt → Cmd → Team → Bool) (s : State) : Bool :=
  ((s.core 0).cmd? q id).any fun k => (s.team? 0 k.team).any (p (s.core 0) k)

/-- A multicast that has read one byte of two. -/
def spread : State :=
  let s := tiled 0x40 base
  s.setCore 0 { s.core 0 with queues := (s.core 0).queues.set 3 [{ cmd0 1 (.mcast 0 0x4200 2 0) true with pos := 1, buf := [9] }] }

theorem one_byte (c o : Nat) (h : o % 128 = 0) : min 1 (min (1 + c % 128) (128 - o % 128)) = 1 := by omega

theorem test_EnginesAdvance_met :
    (commands 0 2 (fun _ _ _ => !(queued 0 copy0 false base).fireReady 0 0 2) (queued 0 copy0 false base) &&
     commands 0 1 (fun _ k _ => (queued 0 copy0 false base).fireReady 0 0 1 && k.op.ringIn.isNone && k.op.ringOut.isNone)
       (queued 0 copy0 false base) &&
     commands 1 1 (fun _ k _ => decide (k.op = .matrix (.azero 0)) && k.fired) (queued 1 (.matrix (.azero 0)) true base) &&
     commands 0 1 (fun c k t => !k.done && k.fired && !c.behindOlder 0 t k && decide (c.follow = []) && k.stall.isNone &&
         decide (c.queueOf 1 = 0) &&
         decide (((((queued 0 copy0 true base).updTeam 0 k.team (fun t => t.release k true)).finishCmd 0 0 1).core 0).follow = []))
       (queued 0 copy0 true base) &&
     commands 0 2 (fun c k t => c.behindOlder 0 t k) (queued 0 copy0 true base) &&
     commands 0 1 (fun c k _ => k.stall.isSome && decide (c.queueOf 1 = 0))
       (withCore (fun c => { c with queues := c.queues.set 0 [{ cmd0 1 copy0 true with stall := some 9 }] }) base) &&
     decide (((withCore (fun c => { c with follow := [cmd0 3 (.matrix (.azero 0)) false] }) base).core 0).follow.map (·.id) = [3]) &&
     decide ((base.core 0).queued 1 < Config.queueDepth.getD 1 0) &&
     decide (Config.arrayLimit ≤ ((withCore (fun c => { c with mxIdle := 2 ^ 22 }) base).core 0).mxIdle) &&
     decide ((base.core 0).mxIdle < Config.arrayLimit) &&
     commands 3 1 (fun _ k t => (spread.crew? t.crew).any fun c =>
       let o := Config.clusterShare + c.cmbase.getD 0 0 + 0 + k.landed.getD 0 0
       decide (o % 128 = 0) && decide (k.pos - k.landed.getD 0 0 = 1) &&
         !spread.engineFollows k (.store (c.cores.getD 0 0) o) 1 true && decide (k.landed.getD 0 0 + 1 = k.pos) &&
         !(((fitList 0 c.cores.length k.landed).set 0 1).all fun x => decide (x = 2))) spread) = true := by decide

/-- What a step about crew 1 needs, `p`, of the crew of the test states. -/
def theCrew (p : Crew → Bool) (s : State) : Bool := s.crews.head?.any fun c => decide (s.crew? c.id = some c) && p c
def drainingCrew (s : State) : State := { s with crews := s.crews.map fun c => { c with drain := .draining, drainSince := 0 } }
def withDie (f : DieSt → DieSt) (s : State) : State := s.setDie 0 (f (s.die 0))
def withSes (f : SessDev → SessDev) (s : State) : State := s.setSes 1 (f (s.ses 1))

/-- Partition 1 is SLICED and holds session 2, which has a running graph; the slice of `p` on die 0 is over. -/
def sliced (p : Nat) (s : State) : State :=
  let t := (withDie (fun d => { d with sliceOf := some p, sliceEnd := 0 }) s)
  let u := { t with parts := Cells.insert (Cells.insert t.parts 64 0x12) 65 0x00010002 }
  (u.setCtx 2 6 2 1).setSes 2 { u.ses 2 with graphs := [graph0] }

/-- The crews that must leave at the end of the slice, and the next partition. -/
def ofSlice (p : Nat) (s : State) : List Crew := s.crews.filter (fun c => decide (c.die = 0) && decide (s.sesPart c.session = p))

/-- An entry of the watch table is pending. -/
def watched (s : State) : State := withGang (fun x => { x with watch := [⟨0x401, 0, 1, 7, 0, false⟩] }) s

theorem test_RecoverySteps_met :
    (theCrew (fun c => decide (c.drain = .draining) && !(drainingCrew (watched base)).drainReady c) (drainingCrew (watched base)) &&
     [false, true].all (fun b =>
       let s := (if b then leased else id) (drainingCrew base)
       theCrew (fun c => decide (c.drain = .draining) && s.drainReady c && !s.crewMatrix c && (s.engineHeld c.die c.session 0 == b)) s) &&
     theCrew (fun c => decide (c.drainSince = 0 ∧ c.die = 0) && decide ((drainingCrew base).deadline c.session ≤ 2 ^ 40))
       (withDie (fun d => { d with cyc := 2 ^ 40 }) (drainingCrew base)) &&
     theCrew (fun c => decide (((drainingCrew base).die 0).cyc < (drainingCrew base).deadline c.session)) (drainingCrew base) &&
     decide ((sliced 0 base).nextSliced 0 0 = some 1 ∧ ofSlice 0 (sliced 0 base) ≠ []) &&
     decide ((sliced 5 base).nextSliced 0 5 = some 1 ∧ ofSlice 5 (sliced 5 base) = []) &&
     decide (((sliced 0 base).die 0).sliceOf = some 0 ∧ ((sliced 0 base).die 0).sliceEnd = ((sliced 0 base).die 0).winStart ∧
       ((sliced 0 base).die 0).sliceEnd ≤ ((sliced 0 base).die 0).cyc) &&
     decide (base.nextSliced 0 0 = none)) = true ∧
    (decide ((base.ses 1).attempt = none ∧ base.sesState 1 ≠ 0) &&
     (let s := withSes (fun d => { d with attempt := some 0 }) base
      decide ((s.ses 1).attempt = some 0) && s.cutReady 1 && s.unstruck 1) &&
     !(queued 0 copy0 false base).cutReady 1 &&
     (let s := withGang (fun x => { x with watch := [⟨5, 0, 1, 7, 0, true⟩] }) base
      s.cutReady 1 && !s.unstruck 1) &&
     (let s := withDie (fun d => { d with cyc := 2 ^ 23 }) (withSes (fun d => { d with attempt := some 0, retryAt := some 5 }) base)
      decide (0 + Config.cutWait ≤ (s.die (s.sesHome 1)).cyc ∧ (s.ses 1).retryAt = some 5 ∧ 5 ≤ (s.die (s.sesHome 1)).cyc ∧
        (s.ses 1).lastCut + Config.cutInterval ≤ (s.die (s.sesHome 1)).cyc + Config.cutRetry)) &&
     decide ((base.die (base.sesHome 1)).cyc < 0 + Config.cutWait ∧
       (base.die (base.sesHome 1)).cyc + Config.cutRetry < (base.ses 1).lastCut + Config.cutInterval) &&
     decide ((base.setCtx 1 0 8 4).sesState 1 = 4)) = true := by decide

/-- The line of byte 0x20080 is held in the L1 of core 0 for session 1, as version `n`. -/
def cached (n : Word) (s : State) : State :=
  { s with copies := [⟨.l1 0, 0x401, [(1, 0x81)], 0, n, some (List.replicate 128 0), 1000, false, none⟩] }

theorem test_HomesAnswer_met :
    (theGang (fun x => decide (base.version 0x401 = 0 ∧ base.blockOf 0x20080 = none ∧ lineOf (base.now (0x401 * 128)) = 0x401) &&
       decide ((x.watchOf 7).map (·.ver) = none)) base &&
     decide (({ base with blocked := [⟨0x20, none, []⟩] } : State).blockOf (0x401 * 128) = some 0x20) &&
     theGang (fun x => (x.watchOf 7).any fun e => decide (e.since = 0 ∧ (base.die 0).cyc < e.since + Config.watchLimit)) (watched base) &&
     theGang (fun x => decide ((x.group 0).wait = .acq)) (withGang (fun x => x.setGroup 0 { x.group 0 with wait := .acq }) base) &&
     ((cached 3 base).copy? (.l1 0) 0x401).any (fun c => !c.bytes.isNone && decide (c.ver ≠ (cached 3 base).version 0x401)) &&
     ((cached 0 base).copy? (.l1 0) 0x401).any (fun c =>
       decide (c.ver = (cached 0 base).version 0x401 ∧ homeDie (0x401 * 128) = 0) && !(cached 0 base).byVersion 0 (c.vlines.headD (0, 0)).1 &&
       (withSes (fun d => { d with renewUntil := [100, 0, 0, 0] }) (cached 0 base)).byVersion 0 (c.vlines.headD (0, 0)).1) &&
     base.started && base.fnEnabled 0 && (linePieces 5 0x20000 [1, 2, 3, 4]).all (fun p =>
       inModule p.1 && !inAtoll p.1 && (base.forward p.1).isSome) && !base.fnEnabled 9) = true := by decide

theorem test_PowerAndReset_met :
    (decide ((base.die 0).winStart + Config.windowCycles ≤ ((withDie (fun d => { d with cyc := 230000 }) base).die 0).cyc) &&
     decide ((base.die 0).cyc < (base.die 0).winStart + Config.windowCycles) &&
     decide ((base.die 0).tlim ≤ 800 ∧ 800 < 920 ∧ 784 < (base.die 0).tlim ∧ (base.die 0).tlim ≤ 784 + 16 ∧ 783 + 16 < (base.die 0).tlim) &&
     decide (920 ≤ ((withDie (fun d => { d with theta := 920 }) base).die 0).theta ∧ (base.die 0).theta < 920) &&
     base.powered) = true := by decide

/-! Units. -/

/-- The team's scratchpad is 32 KiB and holds `ws` from byte `off` on. -/
def inScratch (off : Nat) (ws : List Word) (s : State) : State :=
  let t := withTeam (fun t => { t with record := { t.record with scratch := 32768 } }) s
  match (t.team? 0 0).bind fun m => t.aperture 0 m (0x101000000000000 + off) 4 with
  | some (.store k o) => t.updStore k fun st => ws.zipIdx.foldl (fun c e => Cells.put 0 c (o / 4 + e.2) e.1) st
  | _ => t

def vrSlot0 (final : Bool) (dones : Nat) : VrSlot :=
  { final := final, session := 1, samp := 0, dfunc := 0, nsrc := 2, dones := dones, tx := 0, ty := 0, clear := 0,
    vbuf := 0x101000000000000, gang := gang0, team := 2, level := 3, samples := [(5, ⟨7, 8, some 9⟩)] }
def buFrame0 (cursor : Nat) : BuFrame :=
  { session := 1, vis := 0x101000000000000, tok := 0x101000000004000, arena := 0x101000000000000, asize := 65536, wtiles := 1,
    htiles := 1, samp := 0, dfunc := 0, clear := 0, tq := 0x10200, entries := [], resolved := [], resolving := false, bovf := 0,
    cursor := cursor, slot := none }
def bluSlot0 (final : Bool) (dones n : Nat) : BluSlot :=
  { final := final, session := 1, fp16 := false, overOp := false, nsrc := 2, dones := dones, base := 0x101000000000000, pitch := 128,
    gang := gang0, team := 2, level := 3, frags := List.replicate n ⟨33, 1, [0, 0, 0, 0]⟩ }
def withVr (v : VrSlot) (s : State) : State := withDie (fun d => { d with vr := [(0, v)] }) s
def withBu (f : BuFrame) (s : State) : State := withDie (fun d => { d with bu := [(0, f)] }) s
def withBlu (v : BluSlot) (s : State) : State := withDie (fun d => { d with blu := [(0, v)] }) s
/-- A triangle: three vertices of X, Y and depth, in units of 1/256. -/
def tri : List Word := [0, 0, 0, 256, 0, 0, 0, 256, 0]
def frameWords : List Word := [0, 0x01010000, 0x4000, 0x01010000, 0, 0x01010000, 65536, 0x00010001, 0, 0, 0x10200, 0, 0, 0, 0, 0]
/-- Each entry of a list gets its number modulo the length. -/
theorem some_entry {l : List Nat} (h : l ≠ []) (k : Nat) : ∃ x, l[k % l.length]? = some x :=
  ⟨_, List.getElem?_eq_getElem (Nat.mod_lt k (List.length_pos_iff.mpr h))⟩

theorem test_VisibilityAndBlendingServed_met :
    (callOk (call0 [0, 0x1001, 0, 0, 0, 0x01010000]) 1 6 16 false && !callOk (call0 [0, 0x1002]) 1 6 16 false &&
     (Cells.find? ((withVr (vrSlot0 false 0) base).die 0).vr (vrKey (call0 [0, 1]))).any (fun v => !v.final) &&
     !(Cells.find? (base.die 0).vr (vrKey (call0 [0, 1]))).any (fun v => !v.final) &&
     decide ((withVr (vrSlot0 false 0) base).vrSlot? (call0 [0, 3]) = some (vrSlot0 false 0)) &&
     callOk (call0 ([0, 2, 5] ++ tri)) 2 12 8 (triBad tri) && callOk (call0 [0, 3]) 3 2 8 false && callOk (call0 [0, 4]) 4 2 8 false &&
     (let s := inScratch 0 [] (withVr (vrSlot0 false 2) base)
      let bs := visBytes 0 0 [(5, ⟨7, 8, some 9⟩)]
      match s.slotPut (slotCall 0 1 3 2 2 0 0 gang0) 2 0 0 (.vrSlotFinal 0 0 0) 0x101000000000000 0x101000000000000 bs.length (fun _ => bs) with
      | .ok .. => true
      | .dealt _ => false) &&
     (withBu { buFrame0 0 with slot := some 0 } base).buHolds 0 0 && !base.buHolds 0 0) = true ∧
    (let s := inScratch 0 frameWords (piped base)
     (match s.unitRead (call0 [0, 1, 0, 0x01010000]) 0x101000000000000 64 with
      | .ok bs u => decide (wordsOfBytes bs = frameWords) && !frameBad frameWords (((u.stageQueue? 1 0x10200).map (fun q => q.2.2.rsz)).getD 0) &&
          decide ((List.range 8).filter (fun k => (Cells.find? (u.die 0).bu k).isNone) ≠ [])
      | .dealt _ => false) &&
     decide ((List.range 8).filter (fun k => (Cells.find? ((withDie (fun d => { d with bu := (List.range 8).map fun k => (k, buFrame0 0) })
       base).die 0).bu k).isNone) = []) && callOk (call0 [0, 1, 0, 0x01010000]) 1 4 4 false &&
     decide ((withBu (buFrame0 1) base).buFrame? (call0 [0, 3]) = some (buFrame0 1) ∧ 1 * 1 ≤ (buFrame0 1).cursor) &&
     decide ((buFrame0 0).tilesOf (tri.map (· - 512)) = [] ∧ (buFrame0 0).tilesOf tri = [0]) && callOk (call0 [0, 3]) 3 2 7 false &&
     callOk (call0 [0, 0x1001, 0, 0x01010000, 128]) 1 5 16 false &&
     decide ((withBlu (bluSlot0 false 0 1) base).bluSlot? (call0 [0, 2]) = some (bluSlot0 false 0 1)) &&
     callOk (call0 [0, 0x210002, 0, 0, 0, 0]) 2 6 26 false && !decide (4096 ≤ (bluSlot0 false 0 1).frags.length) &&
     decide (4096 ≤ (bluSlot0 false 0 4096).frags.length) &&
     (let v := bluSlot0 false 2 1
      match State.putPixels (slotCall 0 1 3 2 3 0 0 gang0) v 0 (.bluCommit 0 0) (v.pixels base.tick) (inScratch 0 [] (withBlu v base)) with
      | .ok .. => decide (v.pixels base.tick = [33])
      | .dealt _ => false)) = true ∧
    (decide (callAddr (call0 [0, 1, 8, 0x01010000]) 2 % 64 ≠ 0) && !(buFrame0 0).resolving &&
     decide (48 * ((buFrame0 0).entries.length + 1) ≤ (buFrame0 0).asize)) = true ∧
    (match State.writeArena (inScratch 0 [] base) (call0 ([0, 2, 5] ++ tri)) { buFrame0 0 with asize := 48 } 1 with
     | .ok .. => true
     | .dealt _ => false) = true := by
  refine ⟨?_, ?_, ?_, ?_⟩
  · decide
  · decide
  · decide
  · rw [State.writeArena, show ({ buFrame0 0 with asize := 48 } : BuFrame).asize - 47 = 1 from rfl, Nat.mod_one]
    decide

/-- A texture of one RGBA8 texel at the start of the scratchpad, with its descriptor at byte 128. -/
def textured (s : State) : State := inScratch 128 [0, 0x01010000, 0, 0, 0, 0, 0, 0] (inScratch 0 [0x80604020] s)
def sampleCall : Call := call0 [0, 1, 128, 0x01010000, 0, 0, 0]

/-- A BVH of three nodes at the start of the scratchpad: node 1 is a leaf of one triangle with ID 9 in the plane z = 1, node 2
is free. -/
def leafWords : List Word := [5, 9, 0, 0, 0, 0, 0x3F800000, 0x3F800000, 0, 0x3F800000, 0, 0x3F800000, 0x3F800000]
def treed (s : State) : State := inScratch 128 leafWords (inScratch 0 [1, 3, 2] s)
/-- A ray along z from (0.25, 0.25, 0). -/
def traceCall : Call := call0 [0, 1, 0, 0x01010000, 0x3E800000, 0x3E800000, 0, 0, 0, 0x3F800000, 0, 0x41200000]
def bvh0 : Bvh := ⟨1, 0x101000000000000, gang0, 2, 3, 3, 0, [], [], []⟩
def withBvo (bs : List Bvh) (s : State) : State := withDie (fun d => { d with bvo := bs }) s
def stream0 : FenStream :=
  { session := 1, codec := 0, depth10 := false, width := 8, height := 8, fps := 30, kbits := 0, base := 0x101000000001000,
    bytes := 4096, written := 0, free := 4096, frames := 0, forceKey := false, born := 0, served := 0 }

/-- The call of a FRAME whose planes stand in the scratchpad, and the state in which they have been read, if they can be: all zeros. -/
def frameCall : Call := call0 [0, 2, 0, 0x01010000, 64, 0x01010000, 8]
def frameRead (s : State) : Option State :=
  match State.readRows frameCall (callAddr frameCall 2) 8 8 8 s with
  | .ok l u => match State.readRows frameCall (callAddr frameCall 4) 8 8 4 u with
    | .ok c t => if l = List.replicate 64 0 ∧ c = List.replicate 32 0 then some t else none
    | .dealt _ => none
  | .dealt _ => none

/-- A stream of empty planes whose encoded unit, `bs`, fills the ring and has been moved before the call stalled. -/
def fullStream (bs : List Byte) : FenStream := { stream0 with height := 0, bytes := bs.length, free := bs.length }
def encoded (bs : List Byte) (s : State) : State :=
  withDie (fun d => { d with fen := [(0, fullStream bs)], seen := [(frameCall, 1, 0x101000000001000, bs)] }) s

theorem put_moved {u : State} {x : Call} {va : Nat} {bs : List Byte} (h : u.transferred x 1 va = bs) :
    ∃ w, u.unitPut x va bs = .ok () w := by
  simp [State.unitPut, h, State.unitSpan, State.unitSpanFrom]

theorem frame_fits (bs : List Byte) :
    (encoded bs base).stream? frameCall = some (fullStream bs) ∧ bs.length ≤ (fullStream bs).free ∧
    State.readRows frameCall (callAddr frameCall 2) 8 8 (fullStream bs).height (encoded bs base) = .ok [] (encoded bs base) ∧
    (encoded bs base).transferred frameCall 1 0x101000000001000 = bs ∧
    ∃ w, (encoded bs base).unitPut frameCall 0x101000000001000 bs = .ok () w :=
  ⟨rfl, Nat.le_refl _, rfl, rfl, put_moved rfl⟩

theorem test_SamplingTracingEncodingServed_met :
    (callOk sampleCall 1 7 12 false && (match (textured base).unitRead sampleCall 0x101000000000080 32 with
      | .ok bs u => (texture? (wordsOfBytes bs)).any fun t => match State.readTexels sampleCall t (t.taps sampleCall).1 u with
          | .ok ts _ => decide ((List.range 4).map (filtered ts (t.den * (t.taps sampleCall).2)) =
              [0x3E008081, 0x3E808081, 0x3EC0C0C1, 0x3F008081])
          | .dealt _ => false
      | .dealt _ => false) &&
     (match (inScratch 128 [1, 0x01010000, 0, 0, 0, 0, 0, 0] base).unitRead sampleCall 0x101000000000080 32 with
      | .ok bs _ => decide (texture? (wordsOfBytes bs) = none)
      | .dealt _ => false)) = true ∧
    (callOk traceCall 1 12 6 false && !(rayOf traceCall).idle && (match (treed base).unitRead traceCall 0x101000000000000 8 with
      | .ok bs u => !u.bvhWritten traceCall 0x101000000000000 &&
          match State.traverse traceCall (rayOf traceCall) 0x101000000000000 ((wordsOfBytes bs).getD 1 0).toNat 64
            ((wordsOfBytes bs).getD 0 0).toNat none u with
          | .found h _ => decide ((h.map (·.t), h.map (·.id)) = (some 0x3F800000, some 9))
          | _ => false
      | .dealt _ => false) &&
     callOk (call0 [0, 1, 0, 0x01010000]) 1 4 4 false && decide (((treed base).die 0).bvo = []) &&
     decide (16 ≤ ((withBvo (List.replicate 16 { bvh0 with session := 2 }) base).die 0).bvo.length) &&
     callOk (call0 [0, 2, 0, 0x01010000]) 2 4 4 false &&
     (((withBvo [bvh0] base).die 0).bvo.any fun b => decide (b.session = 1) && decide (b.base.toNat = 0x101000000000000))) = true ∧
    (let s := withBvo [bvh0] (treed base)
     let x := slotCall 0 1 3 2 6 0 0 gang0
     match s.bvhBytes x bvh0.base.toNat 3 with
     | none => false
     | some (m, u) =>
       let m1 := poolSet m 256 (fitList 0 32 leafWords)
       let m2 := poolSet m1 0 [2]
       decide (subtree m 3 64 (m.getD 0 0).toNat = some ([leafWords.drop 1 |>.take 1 |> (· ++ (leafWords.drop 4).take 9)], [1])) &&
       decide ((subtree m1 3 64 2).map (·.2) = some [2] ∧ (subtree m1 3 64 2).map (·.1) = (subtree m 3 64 1).map (·.1)) &&
       (subtree m2 3 64 (m2.getD 0 0).toNat).isSome && decide (bvh0.vers = u.bvhVersions 1 0x101000000000000 3) &&
       decide (freeNodes m 3 (m.getD 2 0).toNat = [2]) && boxesHold m1 3 [2] &&
       (subtree m 3 64 (m.getD (0 / 4) 0).toNat).any (fun t => sameBag t.1 t.1 && decide t.2.Nodup) &&
       (State.bvoWrites x bvh0 ([(8, [0])] ++ [(256, fitList 0 32 leafWords)] ++ [(0, [2])]) u).isSome &&
       decide ((s.freeLimbo 0 bvh0) = some s) && (s.freeLimbo 0 { bvh0 with limbo := [2] }).isSome &&
       (let y := { traceCall with ep := 0x10500 }
        ((withDie (fun d => { d with seen := [(y, 0, 0, [])] }) s).freeLimbo 0 { bvh0 with limbo := [2], rays := [y] }).isNone)) = true ∧
    (callOk (call0 [0, 1, 0x00080008, 30, 0x1000, 0x01010000, 4096]) 1 7 11 false && (Cells.find? (base.die 0).fen 0).isNone &&
     (let s := withDie (fun d => { d with fen := [(0, stream0)] }) (inScratch 0 [] base)
      let x := call0 [0, 2, 0, 0x01010000, 64, 0x01010000, 8]
      callOk x 2 7 10 false && decide (s.stream? x = some stream0) && callOk (call0 [0, 3, 8]) 3 3 9 false && callOk (call0 [0, 4]) 4 2 9 false &&
      (frameRead s).isSome) &&
     decide (Config.unitLimit ≤ Cells.get 0 ((withDie (fun d => { d with unitIdle := [(65536, 2 ^ 24)] }) base).die 0).unitIdle (1 * 65536 + 0)) &&
     decide (Cells.get 0 (base.die 0).unitIdle (1 * 65536 + 0) < Config.unitLimit)) = true := by
  refine ⟨?_, ?_, ?_, ?_⟩ <;> decide

def hostPf : Requester := ⟨true, 0, 2, 0⟩

theorem test_FaultsAreReported_met :
    (inModule 0x20000 && !inModule 0x8000000000000 &&
     ((withDie (fun d => { d with fids := [⟨9, 1, 4, 0x90, 0, true, []⟩] }) base).die 0).fids.any (fun y => decide (y.fid = 9) && y.host) &&
     (base.die 0).fids.all (fun y => !y.host) && decide (base.agenda = []) &&
     (match ({ base with agenda := [.accessAtHome { access0 (.load []) with place := .host 1 0x5010 }] } : State).agenda with
      | [.accessAtHome q] => decide (q.place = .host 1 0x5010 ∧ 0x5010 / 4096 = 0x5000 / 4096)
      | _ => false)) = true := by decide

/-- The crew has been triggered four cycles ago, its record area is the page at 0x4000; or a step window is open on its gang,
and its records reach no page. -/
def triggered (cyc : Nat) (s : State) : State :=
  withDie (fun d => { d with cyc := cyc })
    { s with crews := s.crews.map fun c => { c with area := 0x4000, trig := some ⟨0, 1, 0, some gang0, none, 0x1000, 0⟩ } }
def stepping (cyc : Nat) (g : GangRef) (s : State) : State :=
  withDie (fun d => { d with cyc := cyc })
    { s with crews := s.crews.map fun c => { c with area := 0x2000000000000, window := some ⟨g, 0, 0, 0, [], false⟩ } }

/-- Die 0 is frozen, and the debug port names `sel` and `a`. -/
def frozenAt (sel a : Word) : State := { (withDie (fun d => { d with frozen := true }) base) with dbgSel := sel, dbgAddr := a }

theorem test_ManagementServed_met :
    (manages hostPf && !manages ⟨true, 1, 2, 1⟩ && base.started && base.fnEnabled 0 && !base.fnEnabled 9 &&
     (({ base with attest := [(0, { base.att 0 with busy := true })] } : State).att 0).busy &&
     scopeOk 1 3 15 && !scopeOk 0 0 12 && !scopeOk 3 0 0 &&
     (let w : Word := 0x35
      decide (fieldNat w 0 2 = 1) && scopeOk (fieldNat w 2 2) (fieldNat w 4 2) (fieldNat w 8 4)) &&
     ({ base with parts := Cells.insert base.parts 64 0x12 } : State).fnEnabled 1) = true ∧
    (base.dbgSelected.isNone &&
     (match (frozenAt 0 8).dbgSelected, (frozenAt 2 4).dbgSelected, (frozenAt 0x50003 0x10).dbgSelected with
      | some (.word core o), some (.gangRec g x k), some (.special h y j n) =>
        decide (core = 0 ∧ o = 2) && decide (g = gang0 ∧ k = 4) && decide (h = gang0 ∧ j = 5 ∧ n = 0x10 ∧ x = y)
      | _, _, _ => false) &&
     theCrew (fun c => c.trig.any fun t => !c.stopped && decide (((triggered 3 base).die c.die).cyc < t.cycle + 4)) (triggered 3 base) &&
     theCrew (fun c => c.trig.any fun t => decide (t.cycle + 4 ≤ ((triggered 4 base).die c.die).cyc) && (triggered 4 base).quiet c &&
       (State.putRecords c t ((triggered 4 base).crewGangs c) (triggered 4 base)).isSome) (triggered 4 base) &&
     theCrew (fun c => c.window.any fun w => ((stepping 0 ⟨0, 9, 9⟩ base).gang? w.gang).isNone) (stepping 0 ⟨0, 9, 9⟩ base) &&
     theCrew (fun c => c.window.any fun w => theGang (fun x => (x.groupList.any (fun e => w.issued.all (fun m => decide (m &&& x.groupSlices e = 0)))) && !w.trapped &&
       decide (((stepping 9 gang0 base).die 0).cyc < w.since + 64)) (stepping 9 gang0 base)) (stepping 9 gang0 base) &&
     theCrew (fun c => c.window.any fun w => theGang (fun x =>
       let s := stepping 64 gang0 base
       decide (w.since + 64 ≤ (s.die c.die).cyc) && x.raised.isNone && s.settled w.gang x 0xFF &&
       ((s.putRecord c w.rank w.gnum 0 [dstatWord (x.groupList.any (s.groupWaits w.gang x)) (min 8 w.issued.length) 3 0
         (c.trig.any (fun t => decide (t.gang = some w.gang)))]).bind fun u =>
         (u.putRecord c w.rank w.gnum 16 [x.gstat, x.splitWord]).bind fun u => u.putRecord c w.rank w.gnum 32 x.recordTail).isSome)
         (stepping 64 gang0 base)) (stepping 64 gang0 base)) = true := by
  refine ⟨?_, ?_⟩ <;> decide

/-- A complete collective of one rank, which sums two words at 0x4100 of the scratchpad into 0x4200. -/
def collCall : Call := call0 [0, 1, 0, 0x01010000, 0, 2, 0x100, 0x01010000, 0x200, 0x01010000, 0]
def coll0 : Collective := ⟨5, 0, [(collCall, ⟨0, 0, 1, []⟩, [])], false, true, false⟩
/-- One of two ranks on two dies. -/
def coll2 : Collective := { coll0 with key := 6, calls := coll0.calls ++ [(collCall, ⟨0, 1, 1, []⟩, [])] }
def gathered (s : State) : State := { inScratch 0x100 [3, 4] s with collectives := [coll0] }

theorem test_FabricServed_met :
    (let up : State := { base with ports := [.up] }
     let training : State := { base with ports := [.retraining] }
     decide (up.ports.getD 0 .down = .up) && decide (training.ports.getD 0 .down = .retraining) &&
     ({ base with rerouting := true } : State).rerouting && !base.rerouting &&
     decide (coll0.own.filter (fun z => coll0.crossDie && !(gathered base).engineHeld z.die z.session 2) = []) &&
     decide (coll2.own.filter (fun z => coll2.crossDie && !(gathered base).engineHeld z.die z.session 2) ≠ []) &&
     decide (({ base with collectives := [coll2] } : State).collectives.find?
       (fun k => decide (k.key = 6) && decide (k.seq = 0) && k.complete && !k.returned) = some coll2) &&
     decide ((gathered base).collectives.find? (fun k => decide (k.key = 5) && decide (k.seq = 0) && k.complete && !k.returned) =
       some coll0) &&
     (match State.readSources coll0 2 4 coll0.calls (gathered base) with
      | .ok src u => decide (src = [(0, [3, 4])]) && match State.reachDests coll0 8 coll0.own u with
        | .ok ds _ => decide (ds.length = 1)
        | .dealt _ => false
      | .dealt _ => false) && decide (base.collectives = [])) = true := by decide

/-! The machine as a whole. -/

/-- How the checks of R72 end for the issuing sequence. -/
def checked (i : Instr) (s : State) : Option Verdict :=
  s.view?.map fun v => checkSeq v i (shape i v.mode v.cur.lit.isSome)
def traps (c : BitVec 8) (i : Instr) (s : State) : Bool :=
  (encode i).isSome && match checked i s with
    | some (.trap d _) => decide (d = c)
    | _ => false
def waits (r : WaitReason) (i : Instr) (s : State) : Bool :=
  (encode i).isSome && match checked i s with
    | some (.wait q) => decide (q = r)
    | _ => false
def routed (s : State) : State := { s with cur := { s.cur with routed := true } }

theorem test_ChecksComeFirst_met :
    ((base.view?.any fun v => decide (v.gang.form? v.cur.entry = none)) && traps 0x05 (.xltFblk 0xC0 0xC2) (user base) && traps 0x03 (.bra 1) (routed base) && traps 0x02 (.loop 1 0) base &&
     traps 0x04 (.fadd 5 6 7) (inMode i32) && traps 0x12 (.add 40 1 2) (withGang (fun x => { x with vcount := 32 }) base) &&
     waits .empty (.add 3 5 5) (copyV5 (.empty .handoff) base) &&
     waits .cklfull (.add 3 2 2) (State.setCtx base 1 0x28 4 0) &&
     ({ base with cur := { base.cur with gang := ⟨5, 0, 0⟩ } } : State).view?.isNone) = true := by decide

/-- What StepRuns needs of a state about to issue: the group that core 0 chooses, no watchpoint, and its first word fetched. -/
def runsFirst (w : Word) (s : State) : Bool :=
  let b := s.begin
  s.powered && decide (s.turn = .issue 0) && decide ((b.core 0).ports.port < 4) && match bestReady (b.readyGroups 0) with
  | none => false
  | some r => (Cells.find? (b.core 0).gangs r.slot).any fun x =>
      let pc := (x.slice (x.lead (x.groupSlices r.entry))).pc
      decide (x.form? r.entry = none) && !x.owesTrap && (b.watchFetch ⟨0, r.slot, x.gid⟩ x pc).isNone &&
        match b.fetchWord (askOf (b.core 0) 0 x 2 40) pc with
        | (.ok _, v, _) => decide (v = w)
        | _ => false

/-- The word `z` before the address 2^48, `l` and `w` behind it; the issuing gang stands before `z`. -/
def astride (z l w : Word) : State :=
  let s := State.reset.loadCode (bytesOf l.toNat 4 ++ bytesOf w.toNat 4)
  let m := [(0x10008, 0x11001), (0x11FF8, 0x12001), (0x12FF8, 0x13001), (0x13FF8, 0x14001), (0x14FF8, 0x2001F), (0x14000, 0x2001F)].foldl (fun m e => Cells.write m e.1 (bytesOf e.2 8)) s.mem
  withGang (fun x => x.mapSlices 0xFF fun _ sl => { sl with pc := 0x3FFFFFFFFFFF }) { s with mem := Cells.write m 0x20FFC (bytesOf z.toNat 4) }

/-- The word of a fetch of the issuing gang, and the state after it. -/
def codeAsk : Ask := askOf (base.core 0) 0 ((base.gang? gang0).getD default) 2 40
def fetched (s : State) (pc : PC) : Option Word × State :=
  match s.fetchWord codeAsk pc with
  | (.ok _, v, t) => (some v, t)
  | (_, _, t) => (none, t)

/-- A literal for an `add`: the state in which its prefix and its literal have been fetched. The next word is that of a page some of
whose entries a TLB holds; which of them serve the walk is open (log 9). -/
def literal : State := astride 0xFD000000 0x12345678 0x20030202
def twoFetched : State := (fetched (fetched literal.begin 0x3FFFFFFFFFFF).2 0x400000000000).2

theorem third_fetched : (fetched twoFetched 0x400000000001).1 = some 0x20030202 := by
  unfold fetched State.fetchWord State.translate State.walk
  rw [State.walkStart, State.walkStart, State.walkStart, State.walkStart]
  unfold State.held?
  generalize Config.tlbServes twoFetched.tick (codeAsk.salt * 8 + 0) = b0
  generalize Config.tlbServes twoFetched.tick (codeAsk.salt * 8 + (4 - 3)) = b1
  generalize Config.tlbServes twoFetched.tick (codeAsk.salt * 8 + (4 - 2)) = b2
  generalize Config.tlbServes twoFetched.tick (codeAsk.salt * 8 + (4 - 1)) = b3
  generalize Config.tlbServes twoFetched.tick (codeAsk.salt * 8 + (4 - 0)) = b4
  revert b0 b1 b2 b3 b4
  decide

/-- The gang is inside a form. -/
def form0 : FormHold := ⟨base.cur, .xltFblk 0xC0 0xC2, 0, 0, [(0, [])]⟩
def inForm (s : State) : State := withGang (fun x => { x with forms := [form0] }) s

/-- A word by itself, an unassigned word, a ROUTE with its word and a literal with its word; a form; an event that happens and one
that is held back; an input, and one that waits for its function. -/
theorem test_StepRuns_met :
    (runsFirst 0x20030202 (State.reset.withFetchWord 32 0x20030202) && runsFirst 0 (State.reset.withFetchWord 32 0) &&
     runsFirst 0xFC000000 (astride 0xFC000000 0x20030202 0) &&
     decide ((fetched literal.begin 0x3FFFFFFFFFFF).1 = some 0xFD000000) &&
     (let s := (astride 0xFC000000 0x20030202 0).begin
      decide ((fetched (fetched s 0x3FFFFFFFFFFF).2 0x400000000000).1 = some 0x20030202)) &&
     decide ((fetched (fetched literal.begin 0x3FFFFFFFFFFF).2 0x400000000000).1 = some 0x12345678)) = true ∧
    (let s := inForm (State.reset.withFetchWord 32 0)
     s.powered && decide (s.turn = .issue 0) && (bestReady (s.begin.readyGroups 0)).any fun r =>
       (Cells.find? (s.begin.core 0).gangs r.slot).any fun x => decide (x.form? r.entry = some form0)) = true ∧
    (let s : State := { base with agenda := [.mxReset 0], turn := .event 0 }
     s.powered && decide (s.turn = .event 0) && decide (s.begin.agenda[0]? = some (.mxReset 0)) && !s.begin.heldBack 0 (.mxReset 0)) = true ∧
    (let e : Event := .accessAtHome (access0 (.load []))
     let s : State := { base with agenda := [.accessAtHome (access0 (.store [1, 2, 3, 4])), e], turn := .event 1 }
     decide (s.begin.agenda[1]? = some e) && s.begin.heldBack 1 e) = true ∧
    (fromOutside .moduleReset && !sameFn base.begin.agenda .moduleReset && fromOutside (.dbgdataWrite 0) &&
      sameFn ({ base with agenda := [.dbgdataWrite 5] } : State).begin.agenda (.dbgdataWrite 0)) = true := by
  refine ⟨?_, ?_, ?_, ?_, ?_⟩ <;> decide

theorem test_PoweredMachineGoesOn_met : (State.reset.powered && !({ State.reset with powered := false } : State).powered) = true := by decide

theorem test_ResetAndLaunchLeave_met : (CoreSt.init.fits loadRecord && (CoreSt.init.freeSlots)[0]? == some 0) = true := by decide

theorem test_DecodeAndEncodeAgree_met : encode (.add 3 2 2) = some 0x20030202 := by decide

/-- A step from a state with canonical memories, and the row it runs. -/
theorem test_MemoriesStayCanonical_met :
    (Memory.wf base.mem && Memory.wf base.hostMem &&
      match step (State.reset.withFetchWord 32 0x20030202), exec .nop base with
      | .next _, .next _ => true
      | _, _ => false) = true := by decide

/-! Decoding: a word of every instruction, written out from its row of the opcode table: the fixed bits, and its fields from the
most significant. -/

def decodes (l : List (Word × Instr)) : Bool := l.all fun p => decide (decode p.1 = .ok p.2)

theorem test_decode_control : decodes
    [(0x01000000, .nop), (0x024C6C55, .bra 0x4C6C55), (0x03099295, .bany 1 1 0x9295), (0x040C22A8, .ball 1 4 0x22A8),
     (0x057C2EE8, .call 0x7C2EE8), (0x06001600, .ret 0x16), (0x07000D00, .brr 0xD), (0x07012800, .brrL 0x28),
     (0x080B1265, .ifP 1 3 0x1265), (0x0900ED9C, .elseP 0xED9C), (0x0A000000, .endif), (0x0BF86973, .loop 0xF8 0x6973),
     (0x0CC9CE92, .loopr 0xC9 0xCE92), (0x0D000000, .lbrk), (0x0E000000, .regang), (0x0F000000, .exit), (0x10000000, .yield),
     (0x1100242D, .mode 0x242D), (0x12000001, .mtype 1), (0x13000005, .mrnd 5), (0x1400001A, .mguard 1 1 2),
     (0x156503EF, .mfs 0x65 0x3EF), (0x16BC029A, .mts 0xBC 0x29A), (0x170006D5, .trap 0x6D5)] = true := by decide

theorem test_decode_control_2 : decodes
    [(0x18000000, .rti), (0x19010000, .sysKill), (0x19022F00, .sysAbort 0x2F), (0x1A006E0D, .brk 0x6E0D),
     (0x1B00C27D, .pause 0xC27D)] = true := by decide

theorem test_decode_integer : decodes
    [(0x20C0A0A1, .add 0xC0 0xA0 0xA1), (0x21DF238D, .sub 0xDF 0x23 0x8D), (0x22D2EBB9, .mul 0xD2 0xEB 0xB9),
     (0x2303BD8E, .mulhi 3 0xBD 0x8E), (0x2401CE3E, .mad 1 0xCE 0x3E), (0x25733279, .div 0x73 0x32 0x79),
     (0x26F1084C, .rem 0xF1 8 0x4C), (0x27523100, .neg 0x52 0x31), (0x28770A00, .abs 0x77 0xA),
     (0x29631BAD, .min 0x63 0x1B 0xAD), (0x2AE7798B, .max 0xE7 0x79 0x8B), (0x2B55211F, .and 0x55 0x21 0x1F),
     (0x2C1DDDB2, .or 0x1D 0xDD 0xB2), (0x2DA22C6F, .xor 0xA2 0x2C 0x6F), (0x2E560E00, .not 0x56 0xE),
     (0x2FD5F88B, .andn 0xD5 0xF8 0x8B), (0x302FF424, .shl 0x2F 0xF4 0x24), (0x318B9125, .shr 0x8B 0x91 0x25),
     (0x325E537F, .sar 0x5E 0x53 0x7F), (0x33C3D39F, .rol 0xC3 0xD3 0x9F), (0x3406EB6F, .ror 6 0xEB 0x6F),
     (0x35EAF200, .popc 0xEA 0xF2), (0x3679DE00, .clz 0x79 0xDE), (0x3771CE00, .ctz 0x71 0xCE)] = true := by decide

theorem test_decode_integer_2 : decodes
    [(0x38098B00, .brev 9 0x8B), (0x3930E8F6, .bfx 0x30 0xE8 0xF6), (0x3AA3E34A, .bfi 0xA3 0xE3 0x4A),
     (0x3B5D0012, .mov 0x5D 0x12), (0x3C0635C1, .movi 6 0x35C1), (0x3D1AFB84, .movhi 0x1A 0xFB84),
     (0x3ED444D8, .addi 0xD4 0x44D8)] = true := by decide

theorem test_decode_float : decodes
    [(0x60C9644A, .fadd 0xC9 0x64 0x4A), (0x61DCC5E0, .fsub 0xDC 0xC5 0xE0), (0x6224D92B, .fmul 0x24 0xD9 0x2B),
     (0x63E2DD9B, .fma 0xE2 0xDD 0x9B), (0x64D716B2, .fms 0xD7 0x16 0xB2), (0x65AE65EA, .fnma 0xAE 0x65 0xEA),
     (0x669F5D30, .fmin 0x9F 0x5D 0x30), (0x678860B5, .fmax 0x88 0x60 0xB5), (0x6855DD00, .fabs 0x55 0xDD),
     (0x69718200, .fneg 0x71 0x82), (0x6AB0940D, .fcps 0xB0 0x94 0xD), (0x6B50DD1B, .fdiv 0x50 0xDD 0x1B),
     (0x6C316A00, .rcp 0x31 0x6A), (0x6D379C00, .rsq 0x37 0x9C), (0x6E99DD00, .sqrt 0x99 0xDD), (0x6FDB0400, .exp2 0xDB 4),
     (0x70C07500, .log2 0xC0 0x75), (0x71A5FF00, .sinpi 0xA5 0xFF), (0x72E3BD00, .cospi 0xE3 0xBD),
     (0x7331F800, .tanh 0x31 0xF8), (0x74FE0200, .frnd 0xFE 2), (0x75DA1C00, .fract 0xDA 0x1C),
     (0x76CD51BD, .ldexp 0xCD 0x51 0xBD), (0x7757CB00, .fclass 0x57 0xCB)] = true := by decide

theorem test_decode_float_2 : decodes
    [(0x7873B655, .fdot 0x73 0xB6 0x55)] = true := by decide

theorem test_decode_conversion : decodes
    [(0x8036F711, .cvt 0x36 0xF7 1 1), (0x81082718, .cvtfi 8 0x27 1 8), (0x82FD1036, .cvtif 0xFD 0x10 3 6),
     (0x83937E37, .cvtii 0x93 0x7E 3 7), (0x8404FD6C, .pack 4 0xFD 0x6C), (0x85B64D01, .unpk 0xB6 0x4D 1)] = true := by decide

theorem test_decode_lanes : decodes
    [(0x904A1C95, .cmp 1 1 2 0x1C 0x95), (0x91752CC5, .fcmp 1 6 5 0x2C 0xC5), (0x920E5498, .tst 1 6 0x54 0x98),
     (0x93CF156B, .sel 0xCF 0x15 0x6B), (0x942A0403, .plog 5 2 4 3), (0x95590000, .pmovGet 0x59),
     (0x95005601, .pmovSet 0x56), (0x96B791DF, .clamp 0xB7 0x91 0xDF), (0x97156C18, .fclamp 0x15 0x6C 0x18),
     (0x98258C05, .red 0x25 0x8C 5), (0x997E5503, .fred 0x7E 0x55 3), (0x9A17DD09, .scan 0x17 0xDD 1 1),
     (0x9BE6120B, .fscan 0xE6 0x12 1 3), (0x9CD60E00, .vote 0xD6 1 6), (0x9D850000, .lid 0x85)] = true := by decide

theorem test_decode_memory : decodes
    [(0xA0322DF1, .ld8 0x32 0x2D 0xF1), (0xA197078B, .ld16 0x97 7 0x8B), (0xA28B0921, .ld32 0x8B 9 0x21),
     (0xA3AFD816, .ld64 0xAF 0xD8 0x16), (0xA40B3443, .ld128 0xB 0x34 0x43), (0xA5BB1377, .st8 0xBB 0x13 0x77),
     (0xA6F9B443, .st16 0xF9 0xB4 0x43), (0xA795E67C, .st32 0x95 0xE6 0x7C), (0xA86767B6, .st64 0x67 0x67 0xB6),
     (0xA9500D8C, .st128 0x50 0xD 0x8C), (0xAAD42C7F, .ldw 0xD4 0x2C 0x7F), (0xAB102F5E, .chk 0x102F5E),
     (0xAC6DCCCA, .ldl 0x6D 0xCC 0xCA), (0xADFB6DAC, .stl 0xFB 0x6D 0xAC), (0xAE00BA3C, .pfL1 0xBA 0x3C),
     (0xAE018007, .pfL2 0x80 7), (0xAF00DBC0, .wb 0xDB 0xC0), (0xB00012DA, .inv 0x12 0xDA)] = true := by decide

theorem test_decode_sync : decodes
    [(0xC078E14E, .atadd 0x78 0xE1 0x4E), (0xC1E09EBC, .atmin 0xE0 0x9E 0xBC), (0xC2219719, .atmax 0x21 0x97 0x19),
     (0xC32D3639, .atand 0x2D 0x36 0x39), (0xC474D0FB, .ator 0x74 0xD0 0xFB), (0xC5C3FD01, .atxor 0xC3 0xFD 1),
     (0xC69AF1BE, .atxchg 0x9A 0xF1 0xBE), (0xC7DA013E, .atcas 0xDA 1 0x3E), (0xC8843AD8, .atqadd 0x84 0x3A 0xD8),
     (0xC9E8DA00, .acq 0xE8 0xDA), (0xCABC9000, .rel 0xBC 0x90), (0xCBE90DBB, .bind 0xE9 0xD 0xBB),
     (0xCC52FD29, .unbind 0x52 0xFD 0x29), (0xCD540000, .fence 0x54), (0xCE0BBEA2, .bar 0xB 0xBEA2),
     (0xCF01FA63, .barvArrive 0xFA 0x63), (0xCF026700, .barvWait 0x67), (0xCF031200, .fetake 0x12),
     (0xCF040C84, .feput 0xC 0x84), (0xCF05014A, .fetest 1 0x4A), (0xCF06AA12, .wshare 0xAA 0x12),
     (0xCF077606, .acqw 0x76 6), (0xCF080100, .cbar 1), (0xCF090A00, .cbarArrive 0xA)] = true := by decide

theorem test_decode_sync_2 : decodes
    [(0xCF0A0200, .cbarWait 2)] = true := by decide

theorem test_decode_matrix : decodes
    [(0xD01DA8E1, .tld 1 0xD 0xA8 0xE1), (0xD11928BE, .tsto 1 9 0x28 0xBE), (0xD2030305, .tmma 3 3 5),
     (0xD3020A00, .ttr 2 0xA), (0xD4010CA5, .tperm 1 0xC 0xA5), (0xD5010C00, .tred 1 0xC), (0xD6010000, .azero 1),
     (0xD7476FA8, .amov 0x47 0x1B 3 0xA8), (0xD8070187, .amovt 7 1 0x87), (0xD901010B, .acvt 1 1 0xB),
     (0xDA010000, .asave 1), (0xDB020000, .arest 2), (0xDC3504A6, .tmvGet 0x35 4 0xA6), (0xDC868979, .tmvPut 0x86 9 0x79),
     (0xDD090004, .tfill 9 4)] = true := by decide

theorem test_decode_queues : decodes
    [(0xE09DD6C8, .copy 0x9D 0xD6 0xC8), (0xE13B07D0, .copyf 3 0xB 7 0xD0), (0xE2D4F088, .gath 0xD4 0xF0 0x88),
     (0xE34D1FD7, .scat 0x4D 0x1F 0xD7), (0xE494CB3C, .mcast 0x94 0xCB 0x3C), (0xE58E2895, .cfill 0x8E 0x28 0x95),
     (0xE606003F, .wait 6 0x3F), (0xE7010001, .cwp 1 1), (0xE81ABDC1, .qcall 0x1A 0x17 0x17 1), (0xE9D40002, .qwait 0xD4 2),
     (0xEA2A0038, .qpoll 0x2A 0x38), (0xEB50002B, .send 0x50 0x2B), (0xECB5002D, .recv 0xB5 0x2D),
     (0xEDE9003F, .chinfo 0xE9 0x3F)] = true := by decide

theorem test_decode_system : decodes
    [(0xF001F4EC, .cluPbc 0xF4 0xEC), (0xF002BCEA, .cluCstat 0xBC 0xEA), (0xF10162BE, .xltInv 0x62 0xBE),
     (0xF102A518, .xltProbe 0xA5 0x18), (0xF103003D, .xltReplay 0x3D), (0xF10400F2, .xltCancel 0xF2),
     (0xF1053F74, .xltFblk 0x3F 0x74), (0xF1067FD2, .xltFmove 0x7F 0xD2), (0xF107E82B, .xltFunblk 0xE8 0x2B),
     (0xF201E46B, .ckpPreg 0xE4 0x6B), (0xF202BA29, .ckpGreg 0xBA 0x29), (0xF203EA89, .ckpUnreg 0xEA 0x89),
     (0xF204921A, .ckpGlaunch 0x92 0x1A), (0xF205CBB8, .ckpGstat 0xCB 0xB8), (0xF2060B69, .ckpTake 0xB 0x69),
     (0xF2078443, .ckpRoll 0x84 0x43), (0xF2088344, .ckpDrain 0x83 0x44), (0xF209D137, .ckpRestore 0xD1 0x37),
     (0xF20A0014, .ckpEpnew 0x14), (0xF20B942D, .ckpDeadline 0x94 0x2D), (0xF20C609B, .ckpBudget 0x60 0x9B),
     (0xF30108D6, .dbgAttach 8 0xD6), (0xF3020049, .dbgDetach 0x49), (0xF303B30B, .dbgWpset 0xB3 0xB)] = true := by decide

theorem test_decode_system_2 : decodes
    [(0xF30400C6, .dbgStop 0xC6), (0xF3050040, .dbgGo 0x40), (0xF30600BA, .dbgStep 0xBA), (0xF307C8B9, .dbgRd 0xC8 0xB9),
     (0xF3084FCA, .dbgWr 0x4F 0xCA), (0xF309002C, .dbgWait 0x2C), (0xF310002D, .dbgFreeze 0x2D), (0xF3110042, .dbgThaw 0x42),
     (0xF312C0E2, .dbgWhy 0xC0 0xE2), (0xF3135CA7, .dbgVwpset 0x5C 0xA7), (0xF4013758, .modgShare 0x37 0x58),
     (0xF40243C8, .modgUnshare 0x43 0xC8), (0xF4038DB8, .modgFork 0x8D 0xB8), (0xF4049EB2, .modgKey 0x9E 0xB2),
     (0xF405DCEF, .modgFassign 0xDC 0xEF), (0xF406E831, .modgMigr 0xE8 0x31), (0xF40701A9, .modgMdone 1 0xA9),
     (0xF4085ED1, .modgHeal 0x5E 0xD1), (0xF4099751, .modgSopen 0x97 0x51), (0xF40AFCDD, .modgSclose 0xFC 0xDD)] = true := by decide

theorem test_decode_refuses :
    ([0, 0x1C000000, 0xFC000000, 0xFD000000, 0xFFFFFFFF, 0xF4000000, 0x19000000] : List Word).all (fun w =>
      decide (decode w = .unassigned w)) = true ∧
    decode 0x35000607 = .reserved (.popc 0 6) ∧ decode 0x01000001 = .reserved .nop ∧ decode 0x03100000 = .reserved (.bany 0 0 0) := by
  decide

/-! Fields out of their range (R64): each check of `wellFormed` refuses a term that breaks it. -/

theorem test_wellFormed_refuses :
    ([.loop 3 0, .loopr 5 0, .mode 0x50, .mrnd 5, .mfs 5 0x017, .mfs 0xC0 0x003, .mts 5 0x002, .mts 5 0x3FF, .cvt 1 2 0 11,
      .cvtfi 1 2 0 15, .cvtif 1 2 0 12, .cvtii 1 2 0 11, .cmp 0 6 0 1 2, .sel 0xC0 1 2, .pmovGet 0xC0, .pmovSet 0xC0, .red 1 2 6,
      .fred 1 2 3, .scan 0xC0 1 0 0, .scan 1 2 0 6, .fscan 0xC0 1 0 0, .fscan 1 2 0 3, .lid 0xC0, .ld32 0xC0 1 0, .st64 0xC0 1 0,
      .ldw 0xC0 1 0, .ldl 0xC0 1 0, .stl 0xC0 1 0] : List Instr).all (fun i => !i.wellFormed) = true ∧
    ([.atadd 0xC0 1 2, .atcas 0xC0 0xC2 2, .acq 1 2, .rel 1 2, .bind 1 2 0xC0, .unbind 1 0xC0 2, .fence 5, .bar 0 0, .bar 0 17,
      .barvArrive 16 1, .barvArrive 0 0, .barvWait 16, .fetake 0xC0, .feput 0xC0 1, .fetest 1 0xC0, .wshare 0xC0 0xC2, .wshare 8 9,
      .acqw 1 2, .tld 0 0 1 0xC0, .tsto 0 0 0xC0 1, .amov 0xC0 0 0 0, .tmvGet 0xC0 0 0, .tfill 0 1, .copy 1 0xC0 0xC0,
      .copyf 0 0 0xC0 0xFF, .gath 0xC0 0xC0 0xC0, .scat 1 1 0xC0, .mcast 0xC0 1 0xC0, .cfill 0xC0 0xC0 1] : List Instr).all (fun i =>
        !i.wellFormed) = true ∧
    ([.wait 5 0, .qcall 0xC0 1 1 0, .qwait 0xC0 0, .recv 0xC0 0, .cluPbc 1 0, .cluPbc 0xC0 16, .cluCstat 0xC0 1, .xltInv 1 0xC0,
      .xltProbe 0xC0 0xFE, .xltReplay 1, .xltFblk 0xC0 1, .ckpPreg 1 0xC0, .ckpEpnew 1, .dbgAttach 1 0xC0, .dbgStop 1, .dbgWpset 4 0xC0,
      .dbgWpset 0 0xFE, .dbgRd 0xC0 0xFF, .dbgVwpset 0 0xFD, .modgShare 0xC0 0xFD, .modgHeal 0xC0 0xC1, .modgFork 1 0xC0,
      .producerDelivery, .routesRecomputed] : List Instr).all (fun i => !i.wellFormed) = true := by
  refine ⟨?_, ?_, ?_⟩ <;> decide

/-! Effects, each of one step; expected values are those of the spec's examples and tables. -/

/-- v`n` holds `f l` in lane l. -/
def withV (n : Nat) (f : Nat → Word) (s : State) : State :=
  match s.gang? gang0 with
  | none => s
  | some x => s.setCore 0 ((s.core 0).setRegs x ((List.range 32).map fun l => (n * 32 + l, f l)))

/-- The result of `i` for lane 0 of v`d`. -/
def gives (i : Instr) (s : State) (d : Nat) (w : Word) : Bool :=
  match exec i s with
  | .next t => theGang (fun x => (x.latency.flatMap (·.writes)).any fun p => decide (p = (d * 32, w))) t
  | _ => false
/-- `i` of words `a` and `b` in v5 and v6, into v4. -/
def computes (m : ModeWord) (i : Instr) (a b w : Word) : Bool :=
  gives i (withV 5 (fun _ => a) (withV 6 (fun _ => b) (inMode m))) 4 w

/-- R107's table. -/
theorem test_div : (computes i32 (.div 4 5 6) 7 (-2) (-3) && computes i32 (.div 4 5 6) 0 0 0x7FFFFFFF &&
    computes i32 (.div 4 5 6) (-7) 0 0x80000000 && computes i32 (.div 4 5 6) 0x80000000 (-1) 0x80000000 &&
    computes (i32 + 8) (.div 4 5 6) 0x80000000 (-1) 0x7FFFFFFF) = true := by decide
theorem test_rem : (computes i32 (.rem 4 5 6) 7 (-2) 1 && computes i32 (.rem 4 5 6) (-7) 2 (-1) &&
    computes i32 (.rem 4 5 6) (-7) 0 (-7)) = true := by decide
/-- R115: the reciprocal of the least subnormal under RNE and RTZ. -/
theorem test_rcp : (computes f32 (.rcp 4 5) 1 0 0x7F800000 && computes (f32 + 16) (.rcp 4 5) 1 0 0x7F7FFFFF) = true := by decide
/-- R119: −0.3 into element 2 of five L6 zeros; R54: L6 code 0x39 in FP32. -/
theorem test_cvt : (gives (.cvt 4 5 2 2) (withV 4 (fun _ => 0x10410410) (withV 5 (fun _ => 0xBE99999A) (inMode l6))) 4 0x10439410 &&
    computes f32 (.cvt 4 5 0 9) 0x39 0 0xBE983800) = true := by decide
/-- R57: lanes 0 to 3 hold 2^24, 1, 1 and −2^24, and the others are inactive. -/
theorem test_fred : gives (.fred 4 5 0) (withGang (fun x => x.mapSlices 0xFF fun n sl => { sl with mask := if n = 0 then 0xF#4 else 0#4 })
    (withV 5 (fun l => [0x4B800000, 0x3F800000, 0x3F800000, 0xCB800000].getD l 0) (inMode f32))) 4 0x3F800000 = true := by decide
/-- R160: `chinfo` of an entry with SEND, RECV and ALLOW 5, with three messages queued. -/
theorem test_chinfo : gives (.chinfo 7 2) (capable 0x0005000012345007 3 base) 7 0x00053007 = true := by decide
/-- R148: the FP32 operand 0.1 contributes 0x1999_99A0 units. -/
theorem test_atqadd : qaddUnits 2 0x3DCCCCCD = 0x199999A0 := by decide
/-- The example after R101: `trap #0x2A` at word 0x40 of entry 0, while slices 4 to 7 stand in entry 1. -/
theorem test_trapEntry : (match exec .trapEntry (withGang (fun x => { (x.mapSlices 0xFF fun _ sl => { sl with pc := 0x41 }) with
      trap := { x.trap with tcause := 0 }
      raised := some ⟨0x06, 0x2A, 0x0F, 0x40, 0, 0, false, some 0x41, none⟩ }) (split (raised 0x2000 false 0x06))) with
    | .next t => theGang (fun x => decide (x.trap.tcause = 0x002A8006 ∧ x.trap.tpc = 0x40 ∧ x.trap.tsplit = 0x0000F00F) &&
        x.trap.tslice.any (fun v => decide (v.pc = 0x41)) && decide ((x.slice 0).pc = 0x2000 ∧ (x.slice 7).mask = 0xF#4)) t
    | _ => false) = true := by decide
/-- The decoding examples after R75: words that the first step fetches and traps; the team has no handler, so its gang ends. -/
theorem test_step_traps : ([(0, 0x01), (0xF4000000, 0x01), (0x35000607, 0x02), (0x20500102, 0x12)] : List (Nat × BitVec 8)).all (fun p =>
    match step (State.reset.withFetchWord 32 p.1) with
    | .next t => t.ends.any fun e => decide (e.tcause.extractLsb' 0 8 = p.2)
    | _ => false) = true := by decide
theorem test_step_add : (match step (State.reset.withFetchWord 32 0x20030202) with
    | .next t => theGang (fun x => decide ((x.slice 0).pc = 0x1001 ∧ (x.slice 7).pc = 0x1001) && decide (x.latency ≠ [])) t
    | _ => false) = true := by decide


end Sys2Proof.Tests
end

/-! PROOFS. Bits of a set, and the rules that several statements about control share: what a set of lanes holds, what
the slices of a group become, and what keeps a gang's slices. -/
namespace Sys2Proof.Machine

section Bits
variable (f g : Nat → Bool) (n : Nat)

theorem bitsNat_lt : bitsNat f n < 2 ^ n := by
  induction n with
  | zero => simp [bitsNat]
  | succ n ih =>
    rw [bitsNat, Nat.pow_succ]
    split <;> omega

theorem testBit_bitsNat {n i : Nat} (hi : i < n) : (bitsNat f n).testBit i = f i := by
  induction n with
  | zero => omega
  | succ n ih =>
    rw [bitsNat, Nat.add_comm]
    obtain hlt | rfl : i < n ∨ i = n := by omega
    · split
      · rw [Nat.testBit_two_pow_add_gt hlt, ih hlt]
      · rw [Nat.zero_add, ih hlt]
    · have htop : (bitsNat f i).testBit i = false := Nat.testBit_lt_two_pow (bitsNat_lt f i)
      split <;> simp_all [Nat.testBit_two_pow_add_eq]

theorem getLsbD_ofNat_bitsNat {n i : Nat} (hi : i < n) : (BitVec.ofNat n (bitsNat f n)).getLsbD i = f i := by
  rw [BitVec.getLsbD_ofNat, testBit_bitsNat f hi, decide_eq_true hi, Bool.true_and]

theorem ofNat_bitsNat_eq_iff :
    BitVec.ofNat n (bitsNat f n) = BitVec.ofNat n (bitsNat g n) ↔ ∀ i, i < n → f i = g i := by
  constructor
  · intro h i hi
    rw [← getLsbD_ofNat_bitsNat f hi, h, getLsbD_ofNat_bitsNat g hi]
  · intro h
    refine BitVec.eq_of_getLsbD_eq fun i hi => ?_
    rw [getLsbD_ofNat_bitsNat f hi, getLsbD_ofNat_bitsNat g hi, h i hi]

theorem ofNat_bitsNat_ne_zero_iff : BitVec.ofNat n (bitsNat f n) ≠ 0 ↔ ∃ i, i < n ∧ f i = true := by
  constructor
  · intro h
    by_contra hno
    refine h (BitVec.eq_of_getLsbD_eq fun i hi => ?_)
    rw [getLsbD_ofNat_bitsNat f hi]
    simpa using fun hf => hno ⟨i, hi, hf⟩
  · rintro ⟨i, hi, hf⟩ h0
    have := getLsbD_ofNat_bitsNat f hi
    rw [h0, hf] at this
    simp at this

end Bits

/-! What the slices of a group become. -/

/-- Two changes that agree on the slices of the group are one move. -/
theorem State.Moves.congr {s t : State} {v : View} {rx : Bool} {f g : Nat → Slice → Slice} (h : s.Moves t v rx f)
    (hfg : ∀ n, n < 8 → v.cur.slices.getLsbD n = true → f n = g n) : s.Moves t v rx g := by
  obtain ⟨y, hy, hslices, hrouted, hrest⟩ := h.gang
  refine ⟨h.frame, ⟨y, hy, fun n hn => ?_, hrouted, hrest⟩, h.agenda⟩
  rw [hslices n hn]
  split
  · rename_i hin
    rw [Bool.and_eq_true] at hin
    rw [hfg n hn hin.1]
  · rfl

/-- An instruction whose effect moves its slices as `f` says, in the slices of its group, does that and nothing else. -/
theorem sliceWise_of_moved {i : Instr} {ok : View → Shape → Prop} {f : View → Shape → Nat → Slice → Slice}
    {k : View → Shape → State → State} (he : ∀ s, exec i s = issue i s k)
    (hk : ∀ (s : State) v rx, s.Issues i v rx → ok v (shape i v.mode v.cur.lit.isSome) → ∃ g,
      k v (shape i v.mode v.cur.lit.isSome) (s.issued v i rx) = (s.issued v i rx).moved g ∧
        ∀ n, n < 8 → v.cur.slices.getLsbD n = true → g n = f v (shape i v.mode v.cur.lit.isSome) n) :
    SliceWise i ok f := by
  intro s v rx h hok
  obtain ⟨g, hg, hgf⟩ := hk s v rx h hok
  refine ⟨_, (he s).trans (issue_of_issues h k), ?_⟩
  rw [hg]
  exact (State.moves h g).congr hgf

/-- The slices that take a branch go by `take`. -/
theorem State.branch_eq_moved (s : State) (t : PC) (taken : Nat → Bool) :
    ∃ g, s.branch t taken = s.moved g ∧ ∀ n, taken n = true → g n = take t :=
  ⟨_, rfl, fun n hn => by funext sl; simp only [hn, if_true]; rfl⟩

/-- A branch that every slice of the group takes. -/
theorem sliceWise_of_branch {i : Instr} {ok : View → Shape → Prop} {t : View → PC} {taken : View → Nat → Bool}
    (he : ∀ s, exec i s = issue i s fun v _ s1 => s1.branch (t v) (taken v))
    (ht : ∀ v sh, ok v sh → ∀ n, n < 8 → v.cur.slices.getLsbD n = true → taken v n = true) :
    SliceWise i ok (fun v _ _ => take (t v)) := by
  refine sliceWise_of_moved he fun s v rx h hok => ?_
  obtain ⟨g, hg, htake⟩ := (s.issued v i rx).branch_eq_moved (t v) (taken v)
  exact ⟨g, hg, fun n hn hin => htake n (ht v _ hok n hn hin)⟩

theorem mem_sliceLanes_iff (k l : Nat) : l ∈ sliceLanes k ↔ ∃ j, j < 4 ∧ l = 4 * k + j := by
  simp only [sliceLanes, List.mem_cons, List.not_mem_nil, or_false]
  constructor
  · intro h
    exact ⟨l - 4 * k, by omega, by omega⟩
  · rintro ⟨j, hj, rfl⟩
    omega

/-- A lane of slice k that votes for a branch is one that `bany` finds (R86). -/
theorem View.voters_ne_zero_iff (v : View) (p : BitVec 3) (n : BitVec 1) (k : Nat) :
    v.voters p n k ≠ 0 ↔ (sliceLanes k).any (fun l => v.act.getLsbD l && v.holds p n l) = true := by
  unfold View.voters
  rw [ofNat_bitsNat_ne_zero_iff, List.any_eq_true]
  constructor
  · rintro ⟨j, hj, hvote⟩
    exact ⟨4 * k + j, (mem_sliceLanes_iff k _).2 ⟨j, hj, rfl⟩, hvote⟩
  · rintro ⟨l, hl, hvote⟩
    obtain ⟨j, hj, rfl⟩ := (mem_sliceLanes_iff k l).1 hl
    exact ⟨j, hj, hvote⟩

/-- All active lanes of slice k vote for a branch exactly where `ball` finds none that does not (R86). -/
theorem View.voters_eq_lanes4_iff (v : View) (p : BitVec 3) (n : BitVec 1) (k : Nat) :
    v.voters p n k = v.lanes4 k ↔ (sliceLanes k).all (fun l => !v.act.getLsbD l || v.holds p n l) = true := by
  unfold View.voters View.lanes4
  rw [ofNat_bitsNat_eq_iff, List.all_eq_true]
  have hlane : ∀ b c : Bool, ((b && c) = b) ↔ (!b || c) = true := by decide
  constructor
  · intro h l hl
    obtain ⟨j, hj, rfl⟩ := (mem_sliceLanes_iff k l).1 hl
    exact (hlane _ _).1 (h j hj)
  · intro h j hj
    exact (hlane _ _).2 (h _ ((mem_sliceLanes_iff k _).2 ⟨j, hj, rfl⟩))

theorem sliceWise_bra (j : BitVec 24) :
    SliceWise (.bra j) (fun _ _ => True) (fun v _ _ => take (v.cur.iaddr + j.signExtend 55)) :=
  sliceWise_of_branch (fun s => exec_bra j s) fun _ _ _ _ _ _ => rfl

theorem sliceWise_bany_taken (n : BitVec 1) (p : BitVec 3) (i : BitVec 16) :
    SliceWise (.bany n p i) (fun v _ => ∀ k, k < 8 → v.cur.slices.getLsbD k = true → v.voters p n k ≠ 0)
      (fun v _ _ => take (v.cur.iaddr + i.signExtend 55)) :=
  sliceWise_of_branch (fun s => exec_bany n p i s) fun v _ hall k hk hin =>
    (v.voters_ne_zero_iff p n k).1 (hall k hk hin)

theorem sliceWise_ball_taken (n : BitVec 1) (p : BitVec 3) (i : BitVec 16) :
    SliceWise (.ball n p i) (fun v _ => ∀ k, k < 8 → v.cur.slices.getLsbD k = true → v.voters p n k = v.lanes4 k)
      (fun v _ _ => take (v.cur.iaddr + i.signExtend 55)) :=
  sliceWise_of_branch (fun s => exec_ball n p i s) fun v _ hall k hk hin =>
    (v.voters_eq_lanes4_iff p n k).1 (hall k hk hin)

theorem sliceWise_brr (a : Reg) : SliceWise (.brr a) (fun _ _ => True) (fun v sh k => take (v.pairPc sh k)) :=
  sliceWise_of_moved (fun s => exec_brr a s) fun _ _ _ _ _ => ⟨_, rfl, fun _ _ _ => rfl⟩

theorem sliceWise_nop : SliceWise .nop (fun _ _ => True) (fun v _ _ => advance v) :=
  sliceWise_of_moved (f := fun v _ _ => advance v) exec_nop
    fun _ _ _ h _ => ⟨_, State.issued_retire h, fun _ _ _ => rfl⟩

/-! The issuing gang after the state's own operations. -/

theorem State.gang?_moved {s : State} {x : Gang} (h : s.gang? s.cur.gang = some x) (f : Nat → Slice → Slice) :
    (s.moved f).gang? s.cur.gang = some (x.moved s.cur.entry s.cur.slices f) := by
  rw [State.moved, State.updGang_some h]
  exact s.gang?_setGang_same _ _ (by simpa using State.gang?_gid h)

@[simp] theorem CoreSt.setRegs_gangs (c : CoreSt) (x : Gang) (ws : List (Nat × Word)) :
    (c.setRegs x ws).gangs = c.gangs := by
  induction ws generalizing c with
  | nil => rfl
  | cons p r ih =>
    rw [CoreSt.setRegs, ih]
    rfl

/-- A core replaced by one of the same gangs. -/
theorem State.gang?_setCore_of_gangs {s : State} {c : Nat} {d : CoreSt} (h : d.gangs = (s.core c).gangs) (g : GangRef) :
    (s.setCore c d).gang? g = s.gang? g := by
  unfold State.gang? CoreSt.gang?
  by_cases hc : g.core = c
  · rw [hc, State.core_setCore_same, h]
  · rw [State.core_setCore_other s c g.core d hc]

@[simp] theorem State.gang?_writeLink (s : State) (v : View) (g : GangRef) : (s.writeLink v).gang? g = s.gang? g :=
  State.gang?_setCore_of_gangs (CoreSt.setRegs_gangs _ _ _) g

@[simp] theorem State.writeLink_cur (s : State) (v : View) : (s.writeLink v).cur = s.cur := rfl

/-- `jump` sets PCs and leaves every loop stack as it was (R22, R87). -/
theorem State.jump_lstack {s : State} {x : Gang} (h : s.gang? s.cur.gang = some x) (t : Nat → PC) :
    ∃ y, (s.jump t).gang? s.cur.gang = some y ∧ ∀ n, n < 8 → (y.slice n).lstack = (x.slice n).lstack := by
  refine ⟨_, State.gang?_moved h _, fun n hn => ?_⟩
  rw [Gang.moved_slice _ _ _ _ _ hn]
  split <;> rfl

/-! What keeps the slices of a gang: the operations that `rti` ends with. -/

/-- Gang `g`, if it is resident in `s`, is so in `t` with the same slices. -/
def State.KeepsSlices (s t : State) (g : GangRef) : Prop :=
  ∀ x, s.gang? g = some x → ∃ y, t.gang? g = some y ∧ y.slices = x.slices

theorem State.KeepsSlices.of_eq {s t : State} {g : GangRef} (h : t.gang? g = s.gang? g) : s.KeepsSlices t g :=
  fun x hx => ⟨x, h.trans hx, rfl⟩

theorem State.KeepsSlices.trans {s t u : State} {g : GangRef} (h : s.KeepsSlices t g) (k : t.KeepsSlices u g) :
    s.KeepsSlices u g := by
  intro x hx
  obtain ⟨y, hy, hyx⟩ := h x hx
  obtain ⟨z, hz, hzy⟩ := k y hy
  exact ⟨z, hz, hzy.trans hyx⟩

theorem State.KeepsSlices.ite {s t u : State} {g : GangRef} (p : Prop) [Decidable p] (h : s.KeepsSlices t g)
    (k : s.KeepsSlices u g) : s.KeepsSlices (if p then t else u) g := by
  split <;> assumption

theorem State.keepsSlices_updGang (s : State) (g : GangRef) {f : Gang → Gang}
    (hf : ∀ x, (f x).gid = x.gid ∧ (f x).slices = x.slices) : s.KeepsSlices (s.updGang g f) g := by
  intro x hx
  obtain ⟨hgid, hslices⟩ := hf x
  refine ⟨f x, ?_, hslices⟩
  rw [State.updGang_some hx]
  exact s.gang?_setGang_same g _ (hgid.trans (State.gang?_gid hx))

theorem State.keepsSlices_postOnce (s : State) (e : Event) (g : GangRef) : s.KeepsSlices (s.postOnce e) g := by
  refine .of_eq ?_
  unfold State.postOnce
  split
  · rfl
  · exact s.gang?_post e g

/-- A map that keeps the keys of a table maps what is listed at a key. -/
theorem find?_map_of_key {α : Type} {f : Nat × α → Nat × α} (hf : ∀ e, (f e).1 = e.1) (c : Cells α) (n : Nat) :
    Cells.find? (c.map f) n = (Cells.find? c n).map fun v => (f (n, v)).2 := by
  induction c with
  | nil => rfl
  | cons e r ih =>
    obtain ⟨k, v⟩ := e
    have hpair : f (k, v) = (k, (f (k, v)).2) := Prod.ext (hf (k, v)) rfl
    rw [List.map_cons, hpair]
    simp only [Cells.find?]
    split
    · rfl
    · split
      · rename_i he
        subst he
        rfl
      · exact ih

/-- A core whose gangs change by a map that keeps keys, numbers and slices. -/
theorem CoreSt.gang?_map_gangs {c d : CoreSt} {f : Nat × Gang → Nat × Gang} (hd : d.gangs = c.gangs.map f)
    (hf : ∀ e, (f e).1 = e.1 ∧ (f e).2.gid = e.2.gid ∧ (f e).2.slices = e.2.slices) {g : GangRef} {x : Gang}
    (h : c.gang? g = some x) : ∃ y, d.gang? g = some y ∧ y.slices = x.slices := by
  have hfind := CoreSt.find?_of_gang? h
  obtain ⟨_, hgid, hslices⟩ := hf (g.slot, x)
  have hx : x.gid = g.gid := by
    unfold CoreSt.gang? at h
    rw [hfind] at h
    simpa using h
  refine ⟨(f (g.slot, x)).2, ?_, hslices⟩
  unfold CoreSt.gang?
  rw [hd, find?_map_of_key fun e => (hf e).1, hfind]
  simp [hgid, hx]

/-- Lost register copies set GSTAT.LOST and wake groups; slices stay as they were (R36, R38). -/
theorem CoreSt.gang?_lose (l : List Nat) {c : CoreSt} {g : GangRef} {x : Gang} (h : c.gang? g = some x) :
    ∃ y, (c.lose l).gang? g = some y ∧ y.slices = x.slices := by
  induction l generalizing c x with
  | nil => exact ⟨x, h, rfl⟩
  | cons off r ih =>
    unfold CoreSt.lose
    dsimp only
    split
    · obtain ⟨y, hy, hyx⟩ := CoreSt.gang?_map_gangs (d := { c with
          fe := Cells.put .full c.fe off .lost
          gangs := c.gangs.map fun e =>
            if c.maps off e.2 then (e.1, { e.2.wake wokenByCopy with lost := true }) else e })
        rfl (fun e => by split <;> exact ⟨rfl, rfl, rfl⟩) h
      obtain ⟨z, hz, hzy⟩ := ih hy
      exact ⟨z, hz, hzy.trans hyx⟩
    · exact ih (c := { c with fe := Cells.put .full c.fe off .full }) h

theorem State.keepsSlices_abandonDests (s : State) (g : GangRef) (d : Dest) : s.KeepsSlices (s.abandonDests g d) g := by
  intro x hx
  unfold State.abandonDests
  rw [hx]
  dsimp only
  unfold State.gang?
  rw [State.core_setCore_same]
  exact CoreSt.gang?_lose _ hx

end Sys2Proof.Machine

/-! PROOFS. O15: the loop end (R21). -/
namespace Sys2Proof.Machine

theorem inSequence_iff (first next a : PC) :
    inSequence first next a = true ↔ (a - first).toNat < (next - first).toNat := decide_eq_true_iff

section LoopStep
variable {a n : PC} {e : LoopEntry} (r : List LoopEntry)

/-- The sequence does not hold END: the stack stays. -/
theorem loopStep_outside (h : ¬(e.stop - a).toNat < (n - a).toNat) : loopStep a n (e :: r) = (n, e :: r) := by
  rw [loopStep, if_neg (mt (inSequence_iff a n e.stop).1 h)]

/-- COUNT has iterations left: back to START. -/
theorem loopStep_repeat (h : (e.stop - a).toNat < (n - a).toNat) (hc : e.count - 1 ≠ 0) :
    loopStep a n (e :: r) = (e.start, { e with count := e.count - 1 } :: r) := by
  rw [loopStep, if_pos ((inSequence_iff a n e.stop).2 h), if_pos hc]

/-- COUNT is exhausted: the entry is popped and the rule applies to the next. -/
theorem loopStep_exhausted (h : (e.stop - a).toNat < (n - a).toNat) (hc : e.count - 1 = 0) :
    loopStep a n (e :: r) = loopStep a n r := by
  rw [loopStep, if_pos ((inSequence_iff a n e.stop).2 h), if_neg (not_not.2 hc)]

end LoopStep

/-- A sequence of one word holds END exactly if it is END. -/
theorem inSequence_word_iff (a e : PC) : (e - a).toNat < (a + 1 - a).toNat ↔ e = a := by
  have hone : (a + 1 - a).toNat = 1 := by rw [BitVec.add_comm, BitVec.add_sub_cancel]; rfl
  rw [hone, Nat.lt_one_iff, ← BitVec.toNat_zero (w := 55), BitVec.toNat_inj]
  bv_omega

/-- Settles O15: the four cases of the loop end, read off `loopStep`, which `nop` applies in each slice and `bra`
does not. -/
theorem loopEndRule : Obligations.LoopEndRule :=
  ⟨fun _ _ _ r => ⟨rfl, loopStep_outside r, loopStep_repeat r, loopStep_exhausted r⟩,
    fun a e => inSequence_word_iff a e.stop, sliceWise_nop, sliceWise_bra⟩

end Sys2Proof.Machine

/-! PROOFS. O16: what a transfer does to the loop stack (R22). -/
namespace Sys2Proof.Machine

/-- The entries that a branch pops are the longest run from the top that does not hold its target. -/
theorem popOutside_eq_drop (t : PC) (l : List LoopEntry) : ∃ k, popOutside t l = l.drop k ∧
    (∀ e ∈ l.take k, ¬(t - e.start).toNat ≤ (e.stop - e.start).toNat) ∧
    (∀ e, (l.drop k).head? = some e → (t - e.start).toNat ≤ (e.stop - e.start).toNat) := by
  induction l with
  | nil => exact ⟨0, rfl, by simp, by simp⟩
  | cons e r ih =>
    unfold popOutside
    split
    · rename_i hin
      exact ⟨0, rfl, by simp, by simpa using hin⟩
    · rename_i hout
      obtain ⟨k, hdrop, hpopped, hkept⟩ := ih
      refine ⟨k + 1, hdrop, fun d hd => ?_, hkept⟩
      rw [List.take_succ_cons, List.mem_cons] at hd
      obtain rfl | hd := hd
      · exact hout
      · exact hpopped d hd

/-- What an instruction leaves that ends with a jump after it may have written its link. -/
theorem jump_keeps_loopStacks {i : Instr} {s : State} {v : View} {rx : Bool} (h : s.Issues i v rx) {u : State}
    (hcur : u.cur = (s.issued v i rx).cur) (hgang : ∀ g, u.gang? g = (s.issued v i rx).gang? g) (t : Nat → PC) :
    ∃ y, (u.jump t).gang? s.cur.gang = some y ∧ ∀ n, n < 8 → (y.slice n).lstack = (v.gang.slice n).lstack := by
  obtain ⟨_, _, hissued, hg⟩ := State.issued_spec i rx h.1
  have hu : u.cur = s.cur := hcur.trans hissued
  have hx : u.gang? u.cur.gang = some { v.gang with rx := v.gang.rx || rx } := by rw [hu, hgang, hg]
  obtain ⟨y, hy, hstacks⟩ := State.jump_lstack hx t
  rw [hu] at hy
  exact ⟨y, hy, hstacks⟩

/-- `call`, `ret` and `brr.l` leave every loop stack as it was. -/
theorem calls_keep_loopStacks (j : BitVec 24) (a : Reg) : ∀ x ∈ [Instr.call j, .ret a, .brrL a],
    ∀ s v rx, s.Issues x v rx → ∃ t y, exec x s = .next t ∧
      t.gang? s.cur.gang = some y ∧ ∀ k, k < 8 → (y.slice k).lstack = (v.gang.slice k).lstack := by
  intro x hx s v rx h
  have hmem : x = .call j ∨ x = .ret a ∨ x = .brrL a := by simpa using hx
  obtain rfl | rfl | rfl := hmem
  case inl =>
    obtain ⟨y, hy, hstacks⟩ := jump_keeps_loopStacks h (State.writeLink_cur _ v) (State.gang?_writeLink _ v) _
    exact ⟨_, y, (exec_call j s).trans (issue_of_issues h _), hy, hstacks⟩
  case inr.inl =>
    obtain ⟨y, hy, hstacks⟩ := jump_keeps_loopStacks h rfl (fun _ => rfl) _
    exact ⟨_, y, (exec_ret a s).trans (issue_of_issues h _), hy, hstacks⟩
  case inr.inr =>
    obtain ⟨y, hy, hstacks⟩ := jump_keeps_loopStacks h (State.writeLink_cur _ v) (State.gang?_writeLink _ v) _
    exact ⟨_, y, (exec_brrL a s).trans (issue_of_issues h _), hy, hstacks⟩

/-- A trap that is no completion and enters the handler: the gang becomes `Gang.entered` (R97). -/
theorem State.gang?_enterTrap {s : State} {g : GangRef} {x : Gang} {r : Raised} (hx : s.gang? g = some x)
    (hr : x.raised = some r) (hact : x.trap.tcause.getLsbD 15 = false) (hh : ((s.core g.core).recordOf x).handler ≠ 0)
    (hf : fatalOnly r.cause = false) (hn : r.next = none) :
    (s.enterTrap g).gang? g = some (x.entered r ((s.core g.core).recordOf x).handler) := by
  have hgid : (x.entered r ((s.core g.core).recordOf x).handler).gid = g.gid := State.gang?_gid (x := x) hx
  have hset := s.gang?_setGang_same g _ hgid
  unfold State.enterTrap
  simp only [hx, hr, hact, hh, hf, hn, Bool.false_eq_true, or_self, if_false]
  split <;> exact hset

/-- The trap record holds every slice's loop stack. -/
theorem Gang.entered_saved_lstack (x : Gang) (r : Raised) (handler : PC) (n : Nat) :
    ((x.entered r handler).trap.tslice.getD n default).lstack = (x.slice n).lstack := by
  have htslice : (x.entered r handler).trap.tslice = x.slices.map Slice.saved := rfl
  rw [htslice]
  unfold Gang.slice
  simp only [List.getD_eq_getElem?_getD, List.getElem?_map]
  cases x.slices[n]? <;> rfl

/-- Each live slice of a gang that returns is as its trap record holds it (R100). -/
theorem Gang.returned_slice {x : Gang} {n : Nat} (hn : n < 8) (hl : x.live n = true) :
    x.returned.slice n = (x.slice n).restored (x.trap.tslice.getD n default) := by
  have hslices : x.returned.slices = (List.range 8).map fun n =>
      if x.live n then (x.slice n).restored (x.trap.tslice.getD n default) else x.slice n := rfl
  rw [Gang.slice, hslices]
  simp [List.getD_eq_getElem?_getD, hn, hl]

/-- An `rti` that passes its checks leaves its gang with the slices of `Gang.returned`. -/
theorem execRti_slices {s : State} {v : View} {rx : Bool} (h : s.Issues .rti v rx)
    (hact : v.gang.trap.tcause.getLsbD 15 = true) (hok : v.gang.rtiOk v.cur.slices = true) :
    ∃ t y, exec .rti s = .next t ∧ t.gang? s.cur.gang = some y ∧ y.slices = v.gang.returned.slices := by
  obtain ⟨hme, hcur⟩ := State.view?_eq h.1
  have hgid : v.gang.returned.gid = v.cur.gang.gid := by
    rw [hcur]
    exact State.gang?_gid (x := v.gang) hme
  rw [exec_rti, execRti, issueChecked_of_issues h]
  simp only [hact, hok, Bool.not_true, Bool.false_eq_true, or_self, if_false]
  rw [← hcur]
  have hset := (s.issued v .rti rx).gang?_setGang_same v.cur.gang _ hgid
  suffices hkeeps : State.KeepsSlices _ _ v.cur.gang by
    obtain ⟨y, hy, hyx⟩ := hkeeps _ hset
    exact ⟨_, y, rfl, hy, hyx⟩
  have hparked : ∀ w : State, w.KeepsSlices ((w.updGang v.cur.gang Gang.faulted).postOnce (.gangUnpark v.cur.gang))
      v.cur.gang := fun w =>
    (w.keepsSlices_updGang v.cur.gang (f := Gang.faulted) fun _ => ⟨rfl, rfl⟩).trans (State.keepsSlices_postOnce _ _ _)
  exact ((State.keepsSlices_abandonDests _ _ _).trans (.ite _ (State.keepsSlices_postOnce _ _ _) (.of_eq rfl))).trans
    (.ite _ (.of_eq rfl) (hparked _))

theorem trapEntry_saves_loopStacks {s : State} {g : GangRef} {x : Gang} {r : Raised} (hx : s.gang? g = some x)
    (hev : s.ev = .trapEntry g) (hr : x.raised = some r) (hact : x.trap.tcause.getLsbD 15 = false)
    (hh : ((s.core g.core).recordOf x).handler ≠ 0) (hf : fatalOnly r.cause = false) (hn : r.next = none) :
    ∃ t y, exec .trapEntry s = .next t ∧ t.gang? g = some y ∧
      ∀ n, n < 8 → (y.trap.tslice.getD n default).lstack = (x.slice n).lstack := by
  refine ⟨s.enterTrap g, _, ?_, State.gang?_enterTrap hx hr hact hh hf hn, fun n _ => x.entered_saved_lstack r _ n⟩
  rw [exec_trapEntry, execTrapEntry, hev]

theorem rti_restores_loopStacks {s : State} {v : View} {rx : Bool} (h : s.Issues .rti v rx)
    (hact : v.gang.trap.tcause.getLsbD 15 = true) (hok : v.gang.rtiOk v.cur.slices = true) :
    ∃ t y, exec .rti s = .next t ∧ t.gang? s.cur.gang = some y ∧
      ∀ n, n < 8 → v.gang.live n = true → (y.slice n).lstack = (v.gang.trap.tslice.getD n default).lstack := by
  obtain ⟨t, y, hexec, hy, hslices⟩ := execRti_slices h hact hok
  refine ⟨t, y, hexec, hy, fun n hn hl => ?_⟩
  have hslice : y.slice n = v.gang.returned.slice n := by unfold Gang.slice; rw [hslices]
  rw [hslice, Gang.returned_slice hn hl]
  rfl

/-- Settles O16: the pops of a branch by induction on the stack; calls, trap entry and `rti` by what they do to the
issuing gang. -/
theorem branchPopsLoops : Obligations.BranchPopsLoops :=
  ⟨popOutside_eq_drop,
    fun n p i j a => ⟨sliceWise_bra j, sliceWise_bany_taken n p i, sliceWise_ball_taken n p i, sliceWise_brr a,
      calls_keep_loopStacks j a⟩,
    fun _ _ _ _ hx hev hr hact hh hf hn => trapEntry_saves_loopStacks hx hev hr hact hh hf hn,
    fun _ _ _ h hact hok => rti_restores_loopStacks h hact hok⟩

end Sys2Proof.Machine

/-! PROOFS. O58: words and instructions stand for each other (R61 to R64). -/
namespace Sys2Proof.Laws

/-- Every instruction's own word decodes to it: the rows of the table, one by one. -/
theorem roundTrip (i : Instr) : RoundTrip.Statement i :=
  match i with
  | .nop => RoundTrip.nop
  | .bra i => RoundTrip.bra i
  | .bany n p i => RoundTrip.bany n p i
  | .ball n p i => RoundTrip.ball n p i
  | .call i => RoundTrip.call i
  | .ret a => RoundTrip.ret a
  | .brr a => RoundTrip.brr a
  | .brrL a => RoundTrip.brrL a
  | .ifP n p i => RoundTrip.ifP n p i
  | .elseP i => RoundTrip.elseP i
  | .endif => RoundTrip.endif
  | .loop c i => RoundTrip.loop c i
  | .loopr d i => RoundTrip.loopr d i
  | .lbrk => RoundTrip.lbrk
  | .regang => RoundTrip.regang
  | .exit => RoundTrip.exit
  | .yield => RoundTrip.yield
  | .mode i => RoundTrip.mode i
  | .mtype t => RoundTrip.mtype t
  | .mrnd r => RoundTrip.mrnd r
  | .mguard g n p => RoundTrip.mguard g n p
  | .mfs d sr => RoundTrip.mfs d sr
  | .mts d sr => RoundTrip.mts d sr
  | .trap i => RoundTrip.trap i
  | .rti => RoundTrip.rti
  | .sysKill => RoundTrip.sysKill
  | .sysAbort n => RoundTrip.sysAbort n
  | .brk i => RoundTrip.brk i
  | .pause i => RoundTrip.pause i
  | .add d a b => RoundTrip.add d a b
  | .sub d a b => RoundTrip.sub d a b
  | .mul d a b => RoundTrip.mul d a b
  | .mulhi d a b => RoundTrip.mulhi d a b
  | .mad d a b => RoundTrip.mad d a b
  | .div d a b => RoundTrip.div d a b
  | .rem d a b => RoundTrip.rem d a b
  | .neg d a => RoundTrip.neg d a
  | .abs d a => RoundTrip.abs d a
  | .min d a b => RoundTrip.min d a b
  | .max d a b => RoundTrip.max d a b
  | .and d a b => RoundTrip.and d a b
  | .or d a b => RoundTrip.or d a b
  | .xor d a b => RoundTrip.xor d a b
  | .not d a => RoundTrip.not d a
  | .andn d a b => RoundTrip.andn d a b
  | .shl d a b => RoundTrip.shl d a b
  | .shr d a b => RoundTrip.shr d a b
  | .sar d a b => RoundTrip.sar d a b
  | .rol d a b => RoundTrip.rol d a b
  | .ror d a b => RoundTrip.ror d a b
  | .popc d a => RoundTrip.popc d a
  | .clz d a => RoundTrip.clz d a
  | .ctz d a => RoundTrip.ctz d a
  | .brev d a => RoundTrip.brev d a
  | .bfx d a b => RoundTrip.bfx d a b
  | .bfi d a b => RoundTrip.bfi d a b
  | .mov d b => RoundTrip.mov d b
  | .movi d i => RoundTrip.movi d i
  | .movhi d i => RoundTrip.movhi d i
  | .addi d i => RoundTrip.addi d i
  | .fadd d a b => RoundTrip.fadd d a b
  | .fsub d a b => RoundTrip.fsub d a b
  | .fmul d a b => RoundTrip.fmul d a b
  | .fma d a b => RoundTrip.fma d a b
  | .fms d a b => RoundTrip.fms d a b
  | .fnma d a b => RoundTrip.fnma d a b
  | .fmin d a b => RoundTrip.fmin d a b
  | .fmax d a b => RoundTrip.fmax d a b
  | .fabs d a => RoundTrip.fabs d a
  | .fneg d a => RoundTrip.fneg d a
  | .fcps d a b => RoundTrip.fcps d a b
  | .fdiv d a b => RoundTrip.fdiv d a b
  | .rcp d a => RoundTrip.rcp d a
  | .rsq d a => RoundTrip.rsq d a
  | .sqrt d a => RoundTrip.sqrt d a
  | .exp2 d a => RoundTrip.exp2 d a
  | .log2 d a => RoundTrip.log2 d a
  | .sinpi d a => RoundTrip.sinpi d a
  | .cospi d a => RoundTrip.cospi d a
  | .tanh d a => RoundTrip.tanh d a
  | .frnd d a => RoundTrip.frnd d a
  | .fract d a => RoundTrip.fract d a
  | .ldexp d a b => RoundTrip.ldexp d a b
  | .fclass d a => RoundTrip.fclass d a
  | .fdot d a b => RoundTrip.fdot d a b
  | .cvt d a k t => RoundTrip.cvt d a k t
  | .cvtfi d a k t => RoundTrip.cvtfi d a k t
  | .cvtif d a k t => RoundTrip.cvtif d a k t
  | .cvtii d a k t => RoundTrip.cvtii d a k t
  | .pack d a b => RoundTrip.pack d a b
  | .unpk d a h => RoundTrip.unpk d a h
  | .cmp any cc p a b => RoundTrip.cmp any cc p a b
  | .fcmp any cc p a b => RoundTrip.fcmp any cc p a b
  | .tst z p a b => RoundTrip.tst z p a b
  | .sel d a b => RoundTrip.sel d a b
  | .plog f pd pa pb => RoundTrip.plog f pd pa pb
  | .pmovGet d => RoundTrip.pmovGet d
  | .pmovSet a => RoundTrip.pmovSet a
  | .clamp d a b => RoundTrip.clamp d a b
  | .fclamp d a b => RoundTrip.fclamp d a b
  | .red d a o => RoundTrip.red d a o
  | .fred d a o => RoundTrip.fred d a o
  | .scan d a x o => RoundTrip.scan d a x o
  | .fscan d a x o => RoundTrip.fscan d a x o
  | .vote d n p => RoundTrip.vote d n p
  | .lid d => RoundTrip.lid d
  | .ld8 d a o => RoundTrip.ld8 d a o
  | .ld16 d a o => RoundTrip.ld16 d a o
  | .ld32 d a o => RoundTrip.ld32 d a o
  | .ld64 d a o => RoundTrip.ld64 d a o
  | .ld128 d a o => RoundTrip.ld128 d a o
  | .st8 d a o => RoundTrip.st8 d a o
  | .st16 d a o => RoundTrip.st16 d a o
  | .st32 d a o => RoundTrip.st32 d a o
  | .st64 d a o => RoundTrip.st64 d a o
  | .st128 d a o => RoundTrip.st128 d a o
  | .ldw d a o => RoundTrip.ldw d a o
  | .chk i => RoundTrip.chk i
  | .ldl d a o => RoundTrip.ldl d a o
  | .stl d a o => RoundTrip.stl d a o
  | .pfL1 a o => RoundTrip.pfL1 a o
  | .pfL2 a o => RoundTrip.pfL2 a o
  | .wb a o => RoundTrip.wb a o
  | .inv a o => RoundTrip.inv a o
  | .atadd d a b => RoundTrip.atadd d a b
  | .atmin d a b => RoundTrip.atmin d a b
  | .atmax d a b => RoundTrip.atmax d a b
  | .atand d a b => RoundTrip.atand d a b
  | .ator d a b => RoundTrip.ator d a b
  | .atxor d a b => RoundTrip.atxor d a b
  | .atxchg d a b => RoundTrip.atxchg d a b
  | .atcas d a b => RoundTrip.atcas d a b
  | .atqadd d a b => RoundTrip.atqadd d a b
  | .acq d a => RoundTrip.acq d a
  | .rel d a => RoundTrip.rel d a
  | .bind d a b => RoundTrip.bind d a b
  | .unbind d a b => RoundTrip.unbind d a b
  | .fence scope => RoundTrip.fence scope
  | .bar id n => RoundTrip.bar id n
  | .barvArrive id n => RoundTrip.barvArrive id n
  | .barvWait id => RoundTrip.barvWait id
  | .fetake a => RoundTrip.fetake a
  | .feput a b => RoundTrip.feput a b
  | .fetest p b => RoundTrip.fetest p b
  | .wshare a b => RoundTrip.wshare a b
  | .acqw a b => RoundTrip.acqw a b
  | .cbar id => RoundTrip.cbar id
  | .cbarArrive id => RoundTrip.cbarArrive id
  | .cbarWait id => RoundTrip.cbarWait id
  | .tld ch t a b => RoundTrip.tld ch t a b
  | .tsto ch t a b => RoundTrip.tsto ch t a b
  | .tmma c a b => RoundTrip.tmma c a b
  | .ttr c a => RoundTrip.ttr c a
  | .tperm c a b => RoundTrip.tperm c a b
  | .tred c a => RoundTrip.tred c a
  | .azero c => RoundTrip.azero c
  | .amov d e c col => RoundTrip.amov d e c col
  | .amovt t c e => RoundTrip.amovt t c e
  | .acvt c f e => RoundTrip.acvt c f e
  | .asave c => RoundTrip.asave c
  | .arest c => RoundTrip.arest c
  | .tmvGet d t row => RoundTrip.tmvGet d t row
  | .tmvPut d t row => RoundTrip.tmvPut d t row
  | .tfill t b => RoundTrip.tfill t b
  | .copy d a b => RoundTrip.copy d a b
  | .copyf ch t a b => RoundTrip.copyf ch t a b
  | .gath d a b => RoundTrip.gath d a b
  | .scat d a b => RoundTrip.scat d a b
  | .mcast d a b => RoundTrip.mcast d a b
  | .cfill d a b => RoundTrip.cfill d a b
  | .wait cls n => RoundTrip.wait cls n
  | .cwp d ch => RoundTrip.cwp d ch
  | .qcall d r n c => RoundTrip.qcall d r n c
  | .qwait d r => RoundTrip.qwait d r
  | .qpoll d c => RoundTrip.qpoll d c
  | .send d c => RoundTrip.send d c
  | .recv d c => RoundTrip.recv d c
  | .chinfo d c => RoundTrip.chinfo d c
  | .cluPbc a id => RoundTrip.cluPbc a id
  | .cluCstat a b => RoundTrip.cluCstat a b
  | .xltInv a b => RoundTrip.xltInv a b
  | .xltProbe a b => RoundTrip.xltProbe a b
  | .xltReplay b => RoundTrip.xltReplay b
  | .xltCancel b => RoundTrip.xltCancel b
  | .xltFblk a b => RoundTrip.xltFblk a b
  | .xltFmove a b => RoundTrip.xltFmove a b
  | .xltFunblk a b => RoundTrip.xltFunblk a b
  | .ckpPreg a b => RoundTrip.ckpPreg a b
  | .ckpGreg a b => RoundTrip.ckpGreg a b
  | .ckpUnreg a b => RoundTrip.ckpUnreg a b
  | .ckpGlaunch a b => RoundTrip.ckpGlaunch a b
  | .ckpGstat a b => RoundTrip.ckpGstat a b
  | .ckpTake a b => RoundTrip.ckpTake a b
  | .ckpRoll a b => RoundTrip.ckpRoll a b
  | .ckpDrain a b => RoundTrip.ckpDrain a b
  | .ckpRestore a b => RoundTrip.ckpRestore a b
  | .ckpEpnew b => RoundTrip.ckpEpnew b
  | .ckpDeadline a b => RoundTrip.ckpDeadline a b
  | .ckpBudget a b => RoundTrip.ckpBudget a b
  | .dbgAttach a b => RoundTrip.dbgAttach a b
  | .dbgDetach b => RoundTrip.dbgDetach b
  | .dbgWpset w b => RoundTrip.dbgWpset w b
  | .dbgStop b => RoundTrip.dbgStop b
  | .dbgGo b => RoundTrip.dbgGo b
  | .dbgStep b => RoundTrip.dbgStep b
  | .dbgRd a b => RoundTrip.dbgRd a b
  | .dbgWr a b => RoundTrip.dbgWr a b
  | .dbgWait b => RoundTrip.dbgWait b
  | .dbgFreeze b => RoundTrip.dbgFreeze b
  | .dbgThaw b => RoundTrip.dbgThaw b
  | .dbgWhy a b => RoundTrip.dbgWhy a b
  | .dbgVwpset w b => RoundTrip.dbgVwpset w b
  | .modgShare a b => RoundTrip.modgShare a b
  | .modgUnshare a b => RoundTrip.modgUnshare a b
  | .modgFork a b => RoundTrip.modgFork a b
  | .modgKey a b => RoundTrip.modgKey a b
  | .modgFassign a b => RoundTrip.modgFassign a b
  | .modgMigr a b => RoundTrip.modgMigr a b
  | .modgMdone a b => RoundTrip.modgMdone a b
  | .modgHeal a b => RoundTrip.modgHeal a b
  | .modgSopen a b => RoundTrip.modgSopen a b
  | .modgSclose a b => RoundTrip.modgSclose a b
  | .pauseExpiry => RoundTrip.pauseExpiry
  | .resultWrite => RoundTrip.resultWrite
  | .qcallAppend => RoundTrip.qcallAppend
  | .sendAppend => RoundTrip.sendAppend
  | .producerDelivery => RoundTrip.producerDelivery
  | .returnRecord => RoundTrip.returnRecord
  | .unitFaultTrap => RoundTrip.unitFaultTrap
  | .trapEntry => RoundTrip.trapEntry
  | .teamLaunch => RoundTrip.teamLaunch
  | .teamExit => RoundTrip.teamExit
  | .commandFire => RoundTrip.commandFire
  | .commandRetire => RoundTrip.commandRetire
  | .copyDelivery => RoundTrip.copyDelivery
  | .followOnPush => RoundTrip.followOnPush
  | .mxReset => RoundTrip.mxReset
  | .crewLaunch => RoundTrip.crewLaunch
  | .mcastFillLand => RoundTrip.mcastFillLand
  | .drainSave => RoundTrip.drainSave
  | .drainDeadline => RoundTrip.drainDeadline
  | .timeSliceEnd => RoundTrip.timeSliceEnd
  | .accessAtHome => RoundTrip.accessAtHome
  | .leaseRenewal => RoundTrip.leaseRenewal
  | .confirmationRequest => RoundTrip.confirmationRequest
  | .watchConfirm => RoundTrip.watchConfirm
  | .watchStrike => RoundTrip.watchStrike
  | .watchTimeout => RoundTrip.watchTimeout
  | .versionReport => RoundTrip.versionReport
  | .stopRecords => RoundTrip.stopRecords
  | .stepWindowClose => RoundTrip.stepWindowClose
  | .recordReserve => RoundTrip.recordReserve
  | .recordCommit => RoundTrip.recordCommit
  | .instanceStart => RoundTrip.instanceStart
  | .phaseComplete => RoundTrip.phaseComplete
  | .budgetWindow => RoundTrip.budgetWindow
  | .dieTemperature => RoundTrip.dieTemperature
  | .thermtrip => RoundTrip.thermtrip
  | .cutAttempt => RoundTrip.cutAttempt
  | .cut => RoundTrip.cut
  | .cutWaitExpiry => RoundTrip.cutWaitExpiry
  | .cutRetry => RoundTrip.cutRetry
  | .rollback => RoundTrip.rollback
  | .vrOpen => RoundTrip.vrOpen
  | .vrPrim => RoundTrip.vrPrim
  | .vrDone => RoundTrip.vrDone
  | .vrWaitf => RoundTrip.vrWaitf
  | .vrSlotFinal => RoundTrip.vrSlotFinal
  | .buOpenf => RoundTrip.buOpenf
  | .buBin => RoundTrip.buBin
  | .buClose => RoundTrip.buClose
  | .bluOpen => RoundTrip.bluOpen
  | .bluFrag => RoundTrip.bluFrag
  | .bluDone => RoundTrip.bluDone
  | .bluWaitf => RoundTrip.bluWaitf
  | .bluCommit => RoundTrip.bluCommit
  | .tfuSample => RoundTrip.tfuSample
  | .ryuTrace => RoundTrip.ryuTrace
  | .bvoStart => RoundTrip.bvoStart
  | .bvoStop => RoundTrip.bvoStop
  | .bvoSubtreeReplace => RoundTrip.bvoSubtreeReplace
  | .fenOpens => RoundTrip.fenOpens
  | .fenFrame => RoundTrip.fenFrame
  | .fenRelease => RoundTrip.fenRelease
  | .fenCloses => RoundTrip.fenCloses
  | .unitReset => RoundTrip.unitReset
  | .faultRecordWrite => RoundTrip.faultRecordWrite
  | .gangUnpark => RoundTrip.gangUnpark
  | .hang => RoundTrip.hang
  | .uncorrectableError => RoundTrip.uncorrectableError
  | .correctableError => RoundTrip.correctableError
  | .pcmdCommit => RoundTrip.pcmdCommit
  | .pcmdRelease => RoundTrip.pcmdRelease
  | .doorbell => RoundTrip.doorbell
  | .attcmdGo => RoundTrip.attcmdGo
  | .attestationDone => RoundTrip.attestationDone
  | .dbgcmdFreeze => RoundTrip.dbgcmdFreeze
  | .dbgcmdThaw => RoundTrip.dbgcmdThaw
  | .dbgdataRead => RoundTrip.dbgdataRead
  | .dbgdataWrite => RoundTrip.dbgdataWrite
  | .errCounterWrite => RoundTrip.errCounterWrite
  | .mgmtRegisterWrite => RoundTrip.mgmtRegisterWrite
  | .priResponse => RoundTrip.priResponse
  | .atsTranslationResponse => RoundTrip.atsTranslationResponse
  | .atsInvalidation => RoundTrip.atsInvalidation
  | .moduleResetRelease => RoundTrip.moduleResetRelease
  | .flitCheckFail => RoundTrip.flitCheckFail
  | .portDown => RoundTrip.portDown
  | .collectiveAllreduce => RoundTrip.collectiveAllreduce
  | .collectiveBroadcast => RoundTrip.collectiveBroadcast
  | .collectiveResult => RoundTrip.collectiveResult
  | .illegalOpcode => RoundTrip.illegalOpcode
  | .sequenceFetch => RoundTrip.sequenceFetch
  | .hostPostedWrite => RoundTrip.hostPostedWrite
  | .moduleReset => RoundTrip.moduleReset
  | .moduleLeavesArmada => RoundTrip.moduleLeavesArmada
  | .portRetrained => RoundTrip.portRetrained
  | .routesRecomputed => RoundTrip.routesRecomputed

/-- What a word decodes to has that word (R64). -/
theorem encode_of_decode {i : Instr} {w : Word} (h : decode w = .ok i) : encode i = some w := by
  unfold decode at h
  split at h
  · cases h
  · split at h
    · rename_i hw
      cases h
      exact hw
    · cases h

theorem decode_eq_ok_iff (i : Instr) (w : Word) : decode w = .ok i ↔ encode i = some w :=
  ⟨encode_of_decode, roundTrip i w⟩

/-- No two instructions have one word. -/
theorem encode_injective {i j : Instr} {w : Word} (hi : encode i = some w) (hj : encode j = some w) : i = j := by
  have h := (roundTrip i w hi).symm.trans (roundTrip j w hj)
  injection h

/-- A step of the device has no word. -/
theorem encode_row (e : Event) : encode e.row = none := by
  cases e <;> rfl

/-- Bit i of a word whose lowest byte is `b`. -/
theorem getLsbD_wordOfBytes_cons (b : Byte) (bs : List Byte) {i : Nat} (hi : i < 32) :
    (wordOfBytes (b :: bs)).getLsbD i = if i < 8 then b.getLsbD i else (wordOfBytes bs).getLsbD (i - 8) := by
  have hout : ¬i < 8 → b.getLsbD i = false := fun h => BitVec.getLsbD_of_ge b i (by omega)
  rw [wordOfBytes]
  split
  · simp_all
  · rename_i h
    simp [hout h, hi, h, BitVec.getLsbD_eq_getElem (show i - 8 < 32 by omega)]

/-- A word is the word of its four bytes, lowest first (R61). -/
theorem wordOfBytes_bytesOfWord (w : Word) : wordOfBytes (bytesOfWord w) = w := by
  refine BitVec.eq_of_getLsbD_eq fun i hi => ?_
  have hbyte : ∀ j k, (w.extractLsb' j 8).getLsbD k = (decide (k < 8) && w.getLsbD (j + k)) := fun j k => by simp
  unfold bytesOfWord
  rw [getLsbD_wordOfBytes_cons _ _ hi, getLsbD_wordOfBytes_cons _ _ (by omega), getLsbD_wordOfBytes_cons _ _ (by omega),
    getLsbD_wordOfBytes_cons _ _ (by omega)]
  simp only [hbyte]
  split_ifs with h0 h1 h2 h3
  · simp [h0]
  · simp [h1, show 8 + (i - 8) = i by omega]
  · simp [h2, show 16 + (i - 8 - 8) = i by omega]
  · simp [h3, show 24 + (i - 8 - 8 - 8) = i by omega]
  · omega

theorem decodeTableWord_eq {i : Instr} {w : Word} (h : encode i = some w) : decodeTableWord 32 w.toNat = some i := by
  have hd := roundTrip i w h
  unfold decodeTableWord
  rw [if_pos (Nat.le_refl 32), BitVec.ofNat_toNat, BitVec.setWidth_eq, wordOfBytes_bytesOfWord, hd]

/-- Settles O58: each instruction's word decodes to it, and the decoder checks that a word is the one of the
instruction it selects. -/
theorem decodeAndEncodeAgree : Obligations.DecodeAndEncodeAgree :=
  ⟨decode_eq_ok_iff, fun _ _ _ => encode_injective, encode_row, fun _ _ => decodeTableWord_eq⟩

end Sys2Proof.Laws

/-! PROOFS. O56: the machine goes on (R381). -/
namespace Sys2Proof.Machine

/-- The outcome is a next state. -/
def Answers (o : Host.Outcome State Fault Refusal) : Prop := ∃ t, o = .next t

theorem answers_next (t : State) : Answers (.next t) := ⟨t, rfl⟩

/-- A form that may have to wait answers at its issue and at each later turn (R393). -/
theorem issueForm_answers (i : Instr) (s : State) (trap : View → Shape → Option (BitVec 8)) (dst : View → Dest)
    (k : View → FormHold → Bool → State → State) : Answers (issueForm i s trap dst k) := by
  unfold issueForm
  split <;> exact answers_next _

theorem waitingForms_answer (a b : Reg) (s : State) :
    ∀ i ∈ [Instr.xltInv a b, .xltProbe a b, .xltFmove a b, .xltFunblk a b, .ckpPreg a b, .ckpGreg a b, .modgShare a b,
      .modgUnshare a b, .modgFork a b, .modgHeal a b], Answers (exec i s) := by
  simp only [List.forall_mem_cons, List.not_mem_nil, false_imp_iff, implies_true, and_true]
  simp only [exec_xltInv, execXltInv, exec_xltProbe, execXltProbe, exec_xltFmove, execXltFmove, exec_xltFunblk,
    execXltFunblk, exec_ckpPreg, execCkpPreg, exec_ckpGreg, execCkpGreg, exec_modgShare, execModgShare,
    exec_modgUnshare, execModgUnshare, exec_modgFork, execModgFork, exec_modgHeal, execModgHeal]
  refine ⟨?_, ?_, ?_, ?_, ?_, ?_, ?_, ?_, ?_, ?_⟩
  all_goals exact issueForm_answers _ _ _ _ _

theorem queueSteps_answer (s : State) :
    ∀ i ∈ [Instr.qcallAppend, .sendAppend, .returnRecord, .unitFaultTrap], Answers (exec i s) := by
  simp only [List.forall_mem_cons, List.not_mem_nil, false_imp_iff, implies_true, and_true]
  simp only [exec_qcallAppend, execQcallAppend, exec_sendAppend, execSendAppend, exec_returnRecord, execReturnRecord,
    exec_unitFaultTrap, execUnitFaultTrap]
  refine ⟨?_, ?_, ?_, ?_⟩
  all_goals
    repeat' split
    all_goals exact answers_next _

theorem cpSteps_answer (s : State) :
    ∀ i ∈ [Instr.teamExit, .drainSave, .drainDeadline, .timeSliceEnd, .budgetWindow, .dieTemperature, .thermtrip,
      .cutAttempt, .cut, .cutWaitExpiry, .cutRetry], Answers (exec i s) := by
  simp only [List.forall_mem_cons, List.not_mem_nil, false_imp_iff, implies_true, and_true]
  simp only [exec_teamExit, execTeamExit, exec_drainSave, execDrainSave, exec_drainDeadline, execDrainDeadline,
    exec_timeSliceEnd, execTimeSliceEnd, exec_budgetWindow, execBudgetWindow, exec_dieTemperature, execDieTemperature,
    exec_thermtrip, execThermtrip, exec_cutAttempt, execCutAttempt, exec_cut, execCut, exec_cutWaitExpiry,
    execCutWaitExpiry, exec_cutRetry, execCutRetry]
  refine ⟨?_, ?_, ?_, ?_, ?_, ?_, ?_, ?_, ?_, ?_, ?_⟩
  all_goals
    repeat' split
    all_goals exact answers_next _

theorem homeSteps_answer (s : State) :
    ∀ i ∈ [Instr.accessAtHome, .leaseRenewal, .confirmationRequest, .watchConfirm, .watchStrike, .watchTimeout,
      .versionReport, .hostPostedWrite], Answers (exec i s) := by
  simp only [List.forall_mem_cons, List.not_mem_nil, false_imp_iff, implies_true, and_true]
  simp only [exec_accessAtHome, execAccessAtHome, exec_leaseRenewal, execLeaseRenewal, exec_confirmationRequest,
    execConfirmationRequest, exec_watchConfirm, execWatchConfirm, exec_watchStrike, execWatchStrike,
    exec_watchTimeout, execWatchTimeout, exec_versionReport, execVersionReport, exec_hostPostedWrite,
    execHostPostedWrite]
  refine ⟨?_, ?_, ?_, ?_, ?_, ?_, ?_, ?_⟩
  all_goals
    repeat' split
    all_goals exact answers_next _

theorem debugSteps_answer (s : State) :
    ∀ i ∈ [Instr.stopRecords, .stepWindowClose, .dbgcmdFreeze, .dbgcmdThaw], Answers (exec i s) := by
  simp only [List.forall_mem_cons, List.not_mem_nil, false_imp_iff, implies_true, and_true]
  simp only [exec_stopRecords, execStopRecords, exec_stepWindowClose, execStepWindowClose, exec_dbgcmdFreeze,
    execDbgcmdFreeze, exec_dbgcmdThaw, execDbgcmdThaw]
  refine ⟨?_, ?_, ?_, ?_⟩
  all_goals
    repeat' split
    all_goals exact answers_next _

theorem visibilitySteps_answer (s : State) :
    ∀ i ∈ [Instr.vrOpen, .vrPrim, .vrDone, .vrWaitf, .vrSlotFinal, .buOpenf, .buBin, .buClose], Answers (exec i s) := by
  simp only [List.forall_mem_cons, List.not_mem_nil, false_imp_iff, implies_true, and_true]
  simp only [exec_vrOpen, execVrOpen, exec_vrPrim, execVrPrim, exec_vrDone, execVrDone, exec_vrWaitf, execVrWaitf,
    exec_vrSlotFinal, execVrSlotFinal, exec_buOpenf, execBuOpenf, exec_buBin, execBuBin, exec_buClose, execBuClose]
  refine ⟨?_, ?_, ?_, ?_, ?_, ?_, ?_, ?_⟩
  all_goals
    repeat' split
    all_goals exact answers_next _

theorem blendSteps_answer (s : State) :
    ∀ i ∈ [Instr.bluOpen, .bluFrag, .bluDone, .bluWaitf, .bluCommit], Answers (exec i s) := by
  simp only [List.forall_mem_cons, List.not_mem_nil, false_imp_iff, implies_true, and_true]
  simp only [exec_bluOpen, execBluOpen, exec_bluFrag, execBluFrag, exec_bluDone, execBluDone, exec_bluWaitf,
    execBluWaitf, exec_bluCommit, execBluCommit]
  refine ⟨?_, ?_, ?_, ?_, ?_⟩
  all_goals
    repeat' split
    all_goals exact answers_next _

theorem xltSteps_answer (s : State) :
    ∀ i ∈ [Instr.faultRecordWrite, .gangUnpark, .uncorrectableError, .correctableError, .priResponse,
      .atsTranslationResponse, .atsInvalidation], Answers (exec i s) := by
  simp only [List.forall_mem_cons, List.not_mem_nil, false_imp_iff, implies_true, and_true]
  simp only [exec_faultRecordWrite, execFaultRecordWrite, exec_gangUnpark, execGangUnpark, exec_uncorrectableError,
    execUncorrectableError, exec_correctableError, execCorrectableError, exec_priResponse, execPriResponse,
    exec_atsTranslationResponse, execAtsTranslationResponse, exec_atsInvalidation, execAtsInvalidation]
  refine ⟨?_, ?_, ?_, ?_, ?_, ?_, ?_⟩
  all_goals
    repeat' split
    all_goals exact answers_next _

theorem fabricSteps_answer (s : State) :
    ∀ i ∈ [Instr.flitCheckFail, .portDown, .collectiveAllreduce, .collectiveBroadcast, .collectiveResult,
      .moduleLeavesArmada, .portRetrained, .routesRecomputed], Answers (exec i s) := by
  simp only [List.forall_mem_cons, List.not_mem_nil, false_imp_iff, implies_true, and_true]
  simp only [exec_flitCheckFail, execFlitCheckFail, exec_portDown, execPortDown, exec_collectiveAllreduce,
    execCollectiveAllreduce, exec_collectiveBroadcast, execCollectiveBroadcast, exec_collectiveResult,
    execCollectiveResult, exec_moduleLeavesArmada, execModuleLeavesArmada, exec_portRetrained, execPortRetrained,
    exec_routesRecomputed, execRoutesRecomputed]
  refine ⟨?_, ?_, ?_, ?_, ?_, ?_, ?_, ?_⟩
  all_goals
    repeat' split
    all_goals exact answers_next _

theorem gangSteps_answer (s : State) :
    ∀ i ∈ [Instr.pauseExpiry, .resultWrite, .producerDelivery, .trapEntry, .teamLaunch, .crewLaunch, .hang,
      .sequenceFetch], Answers (exec i s) := by
  simp only [List.forall_mem_cons, List.not_mem_nil, false_imp_iff, implies_true, and_true]
  simp only [exec_pauseExpiry, execPauseExpiry, exec_resultWrite, execResultWrite, exec_producerDelivery,
    execProducerDelivery, exec_trapEntry, execTrapEntry, exec_teamLaunch, execTeamLaunch, exec_crewLaunch,
    execCrewLaunch, exec_hang, execHang, exec_sequenceFetch, execSequenceFetch]
  refine ⟨?_, ?_, ?_, ?_, ?_, ?_, ?_, ?_⟩
  all_goals
    repeat' split
    all_goals exact answers_next _

theorem engineSteps_answer (s : State) :
    ∀ i ∈ [Instr.commandFire, .commandRetire, .copyDelivery, .followOnPush, .mcastFillLand, .mxReset], Answers (exec i s) := by
  simp only [List.forall_mem_cons, List.not_mem_nil, false_imp_iff, implies_true, and_true]
  simp only [exec_commandFire, execCommandFire, exec_commandRetire, execCommandRetire, exec_copyDelivery,
    execCopyDelivery, exec_followOnPush, execFollowOnPush, exec_mcastFillLand, execMcastFillLand, exec_mxReset,
    execMxReset]
  refine ⟨?_, ?_, ?_, ?_, ?_, ?_⟩
  all_goals
    repeat' split
    all_goals exact answers_next _

theorem pipelineSteps_answer (s : State) :
    ∀ i ∈ [Instr.recordReserve, .recordCommit, .instanceStart, .phaseComplete, .rollback], Answers (exec i s) := by
  simp only [List.forall_mem_cons, List.not_mem_nil, false_imp_iff, implies_true, and_true]
  simp only [exec_recordReserve, execRecordReserve, exec_recordCommit, execRecordCommit, exec_instanceStart,
    execInstanceStart, exec_phaseComplete, execPhaseComplete, exec_rollback, execRollback]
  refine ⟨?_, ?_, ?_, ?_, ?_⟩
  all_goals
    repeat' split
    all_goals exact answers_next _

theorem raySteps_answer (s : State) :
    ∀ i ∈ [Instr.tfuSample, .ryuTrace, .bvoStart, .bvoStop, .bvoSubtreeReplace], Answers (exec i s) := by
  simp only [List.forall_mem_cons, List.not_mem_nil, false_imp_iff, implies_true, and_true]
  simp only [exec_tfuSample, execTfuSample, exec_ryuTrace, execRyuTrace, exec_bvoStart, execBvoStart, exec_bvoStop,
    execBvoStop, exec_bvoSubtreeReplace, execBvoSubtreeReplace]
  refine ⟨?_, ?_, ?_, ?_, ?_⟩
  all_goals
    repeat' split
    all_goals exact answers_next _

theorem encoderSteps_answer (s : State) :
    ∀ i ∈ [Instr.fenOpens, .fenFrame, .fenRelease, .fenCloses, .unitReset], Answers (exec i s) := by
  simp only [List.forall_mem_cons, List.not_mem_nil, false_imp_iff, implies_true, and_true]
  simp only [exec_fenOpens, execFenOpens, exec_fenFrame, execFenFrame, exec_fenRelease, execFenRelease,
    exec_fenCloses, execFenCloses, exec_unitReset, execUnitReset]
  refine ⟨?_, ?_, ?_, ?_, ?_⟩
  all_goals
    repeat' split
    all_goals exact answers_next _

theorem mgmtSteps_answer (s : State) :
    ∀ i ∈ [Instr.pcmdCommit, .pcmdRelease, .doorbell, .attcmdGo, .attestationDone, .dbgdataRead, .dbgdataWrite,
      .errCounterWrite, .mgmtRegisterWrite, .moduleResetRelease], Answers (exec i s) := by
  simp only [List.forall_mem_cons, List.not_mem_nil, false_imp_iff, implies_true, and_true]
  simp only [exec_pcmdCommit, execPcmdCommit, exec_pcmdRelease, execPcmdRelease, exec_doorbell, execDoorbell,
    exec_attcmdGo, execAttcmdGo, exec_attestationDone, execAttestationDone, exec_dbgdataRead, execDbgdataRead,
    exec_dbgdataWrite, execDbgdataWrite, exec_errCounterWrite, execErrCounterWrite, exec_mgmtRegisterWrite,
    execMgmtRegisterWrite, exec_moduleResetRelease, execModuleResetRelease]
  refine ⟨?_, ?_, ?_, ?_, ?_, ?_, ?_, ?_, ?_, ?_⟩
  all_goals
    repeat' split
    all_goals exact answers_next _

/-- Every row of the opcode table answers a next state in every state: an instruction word by the shape of its issue, a
step of the device in each branch of its meaning. -/
theorem exec_answers (i : Instr) (s : State) : Answers (exec i s) := by
  cases i
  case xltInv a b | xltProbe a b | xltFmove a b | xltFunblk a b | ckpPreg a b | ckpGreg a b | modgShare a b |
    modgUnshare a b | modgFork a b | modgHeal a b =>
    exact waitingForms_answer a b s _ (by simp)
  case qcallAppend | sendAppend | returnRecord | unitFaultTrap =>
    exact queueSteps_answer s _ (by simp)
  case teamExit | drainSave | drainDeadline | timeSliceEnd | budgetWindow | dieTemperature | thermtrip | cutAttempt |
    cut | cutWaitExpiry | cutRetry =>
    exact cpSteps_answer s _ (by simp)
  case accessAtHome | leaseRenewal | confirmationRequest | watchConfirm | watchStrike | watchTimeout | versionReport |
    hostPostedWrite =>
    exact homeSteps_answer s _ (by simp)
  case stopRecords | stepWindowClose | dbgcmdFreeze | dbgcmdThaw =>
    exact debugSteps_answer s _ (by simp)
  case vrOpen | vrPrim | vrDone | vrWaitf | vrSlotFinal | buOpenf | buBin | buClose =>
    exact visibilitySteps_answer s _ (by simp)
  case bluOpen | bluFrag | bluDone | bluWaitf | bluCommit =>
    exact blendSteps_answer s _ (by simp)
  case faultRecordWrite | gangUnpark | uncorrectableError | correctableError | priResponse | atsTranslationResponse |
    atsInvalidation =>
    exact xltSteps_answer s _ (by simp)
  case flitCheckFail | portDown | collectiveAllreduce | collectiveBroadcast | collectiveResult | moduleLeavesArmada |
    portRetrained | routesRecomputed =>
    exact fabricSteps_answer s _ (by simp)
  case pauseExpiry | resultWrite | producerDelivery | trapEntry | teamLaunch | crewLaunch | hang | sequenceFetch =>
    exact gangSteps_answer s _ (by simp)
  case commandFire | commandRetire | copyDelivery | followOnPush | mcastFillLand | mxReset =>
    exact engineSteps_answer s _ (by simp)
  case recordReserve | recordCommit | instanceStart | phaseComplete | rollback =>
    exact pipelineSteps_answer s _ (by simp)
  case tfuSample | ryuTrace | bvoStart | bvoStop | bvoSubtreeReplace =>
    exact raySteps_answer s _ (by simp)
  case fenOpens | fenFrame | fenRelease | fenCloses | unitReset =>
    exact encoderSteps_answer s _ (by simp)
  case pcmdCommit | pcmdRelease | doorbell | attcmdGo | attestationDone | dbgdataRead | dbgdataWrite | errCounterWrite
    | mgmtRegisterWrite | moduleResetRelease =>
    exact mgmtSteps_answer s _ (by simp)
  all_goals exact answers_next _

theorem step_unpowered {s : State} (h : s.powered = false) : step s = .fault .noPower := by
  simp [step, h]

/-- Every step of a module that has power answers a next state. -/
theorem step_answers {s : State} (h : s.powered = true) : Answers (step s) := by
  unfold step
  rw [if_neg (by simp [h])]
  dsimp only
  split
  · exact answers_next _
  · split
    · exact answers_next _
    · split
      · exact answers_next _
      · exact exec_answers _ _
  · split
    · exact exec_answers _ _
    · exact answers_next _
  · exact answers_next _
  · exact answers_next _
  · split
    · exact answers_next _
    · split
      · exact answers_next _
      · exact exec_answers _ _

/-- A run goes on while there is power, and stops where there is none. -/
theorem safeRun (n : Nat) (s : State) : SafeRun n s := by
  induction n generalizing s with
  | zero => trivial
  | succ n ih =>
    rw [SafeRun]
    cases hp : s.powered with
    | false => rw [step_unpowered hp]
    | true =>
      obtain ⟨t, ht⟩ := step_answers hp
      rw [ht]
      exact ih t

/-- Settles O56: every row answers a next state, by its meaning; a step is such a row, a step of the model's own, or the
stop of a module without power. -/
theorem poweredMachineGoesOn : Obligations.PoweredMachineGoesOn := by
  refine ⟨exec_answers, fun _ => step_answers, fun s n => safeRun n s, fun s r => ?_, fun i s f => ?_,
    fun _ => step_unpowered⟩
  · cases hp : s.powered with
    | false => simp [step_unpowered hp]
    | true =>
      obtain ⟨t, ht⟩ := step_answers hp
      simp [ht]
  · obtain ⟨t, ht⟩ := exec_answers i s
    simp [ht]

end Sys2Proof.Machine

/-! PROOFS. O1: integer arithmetic (R106, R108, R112). -/
namespace Sys2Proof.Machine

theorem wrapInt_cast_emod (w : Nat) (x : Int) :
    ((wrapInt w x : Nat) : Int) % ((2 ^ w : Nat) : Int) = x % ((2 ^ w : Nat) : Int) := by
  have hpos : (0 : Int) < ((2 ^ w : Nat) : Int) := by exact_mod_cast Nat.two_pow_pos w
  unfold wrapInt
  rw [Int.toNat_of_nonneg (Int.emod_nonneg x (ne_of_gt hpos)), Int.emod_emod]

/-- A number of the type, reduced modulo 2^w, is the pattern that stands for it. -/
theorem intVal_wrapInt {signed : Bool} {w : Nat} (hw : 0 < w) {x : Int} (hlo : intMin signed w ≤ x)
    (hhi : x ≤ intMax signed w) : intVal signed w (wrapInt w x) = x := by
  obtain ⟨k, rfl⟩ : ∃ k, w = k + 1 := ⟨w - 1, by omega⟩
  have hsplit : (2 ^ (k + 1) : Nat) = 2 * 2 ^ k := by rw [Nat.pow_succ, Nat.mul_comm]
  have hhalf := Nat.two_pow_pos k
  simp only [intVal, wrapInt, intMin, intMax, Nat.add_sub_cancel, hsplit] at *
  generalize 2 ^ k = h at *
  cases signed
  · simp only [Bool.false_eq_true, if_false, false_and] at *
    rw [Int.emod_eq_of_lt hlo (by omega)]
    omega
  · simp only [if_true, true_and] at *
    by_cases hneg : x < 0
    · have hx : x % ((2 * h : Nat) : Int) = x + (2 * h : Nat) := by
        rw [← Int.add_emod_right, Int.emod_eq_of_lt (by omega) (by omega)]
      rw [hx, if_pos (by omega)]
      omega
    · rw [Int.emod_eq_of_lt (by omega) (by omega), if_neg (by omega)]
      omega

theorem clampInt_eq_max_min {lo hi : Int} (h : lo ≤ hi) (x : Int) : clampInt lo hi x = max lo (min hi x) := by
  unfold clampInt
  split
  · omega
  · split <;> omega

theorem intMin_le_intMax (signed : Bool) (w : Nat) : intMin signed w ≤ intMax signed w := by
  have h1 := Nat.two_pow_pos w
  have h2 := Nat.two_pow_pos (w - 1)
  cases signed <;> simp only [intMin, intMax, if_true, Bool.false_eq_true, if_false] <;> omega

/-- A result put into its type is the number wrapped or clamped (R42). -/
theorem inType_fitInt (sat signed : Bool) {w : Nat} (hw : 0 < w) (x : Int) : InType sat signed w x (fitInt sat signed w x) := by
  refine ⟨fitInt_lt sat signed w x, ?_⟩
  have hle := intMin_le_intMax signed w
  unfold fitInt
  cases sat
  · simpa using wrapInt_cast_emod w x
  · simp only [if_true]
    rw [clampInt_eq_max_min hle]
    exact intVal_wrapInt hw (by omega) (by omega)

/-- An element of an integer operation given by its exact value (R106). -/
theorem elem_onInts (m : ModeWord) (g : Int → Int → Int → Int) (x y z : DWord) {k : Nat} (hk : k < elemCount (modeType m)) :
    elem (modeType m) (onInts m g x y z) k =
      fitInt (modeSat m) (signedType (modeType m)) (elemWidth (modeType m)) (g (elemInt m x k) (elemInt m y k) (elemInt m z k)) := by
  unfold onInts elemInt
  dsimp only
  rw [elem_onElems _ _ _ _ _ _ hk]
  exact Nat.mod_eq_of_lt (fitInt_lt _ _ _ _)

theorem intElems_onInts (m : ModeWord) {f g : Int → Int → Int → Int} {a b c x y z : DWord}
    (h : ∀ k, g (elemInt m x k) (elemInt m y k) (elemInt m z k) = f (elemInt m a k) (elemInt m b k) (elemInt m c k)) :
    IntElems f m a b c (onInts m g x y z) := by
  intro k hk
  rw [elem_onInts m g x y z hk, h k]
  exact inType_fitInt _ _ (elemWidth_pos _) _

theorem intElems_addEl (m : ModeWord) (a b c : DWord) : IntElems (fun x y _ => x + y) m a b c (addEl m a b) :=
  intElems_onInts m fun _ => rfl

theorem intElems_minEl (m : ModeWord) (a b c : DWord) :
    IntElems (fun x y _ => if x ≤ y then x else y) m a b c (minEl m a b) :=
  intElems_onInts m fun _ => Int.min_def _ _

theorem intElems_maxEl (m : ModeWord) (a b c : DWord) :
    IntElems (fun x y _ => if x ≤ y then y else x) m a b c (maxEl m a b) :=
  intElems_onInts m fun _ => Int.max_def _ _

/-- An integer instruction whose destination has the width of the type. -/
theorem laneWise_int {i : Instr} {d : Reg} {f : ModeWord → Int → Int → Int → Int}
    {g : ModeWord → DWord → DWord → DWord → DWord} (he : ∀ s, exec i s = lanesOp i d s g)
    (hd : ∀ m l, ∃ t r, (shape i m l).dst = t :: r ∧ t.words = typeRegs m)
    (hg : ∀ m a b c, IntElems (f m) m a b c (g m a b c)) : LaneWise i d typeRegs (fun m => IntElems (f m) m) :=
  laneWise_of he hd fun m _ _ a b c => hg m a b c

/-- Settles O1: each instruction is `lanesOp` of its exact value, put into its type element by element. -/
theorem integerArithmeticCompletes : Obligations.IntegerArithmeticCompletes := by
  intro d a b i
  refine ⟨laneWise_int (exec_add d a b) ?_ fun m x y z => intElems_addEl m x y z,
    laneWise_int (exec_sub d a b) ?_ fun m _ _ _ => intElems_onInts m fun _ => rfl,
    laneWise_int (exec_mul d a b) ?_ fun m _ _ _ => intElems_onInts m fun _ => rfl,
    laneWise_int (exec_mulhi d a b) ?_ fun m _ _ _ => intElems_onInts m fun _ => ?mulhi,
    laneWise_int (exec_mad d a b) ?_ fun m _ _ _ => intElems_onInts m fun _ => rfl,
    laneWise_int (exec_min d a b) ?_ fun m x y z => intElems_minEl m x y z,
    laneWise_int (exec_max d a b) ?_ fun m x y z => intElems_maxEl m x y z,
    laneWise_int (exec_neg d a) ?_ fun m _ _ _ => intElems_onInts m fun _ => rfl,
    laneWise_int (exec_abs d a) ?_ fun m _ _ _ => intElems_onInts m fun _ => ?abs,
    laneWise_int (exec_addi d i) ?_ fun m _ _ _ => intElems_onInts m fun _ => rfl⟩
  case mulhi => exact (Int.fdiv_eq_ediv_of_nonneg _ (Int.natCast_nonneg _)).symm
  case abs => split <;> omega
  all_goals exact fun _ _ => ⟨_, _, rfl, rfl⟩

end Sys2Proof.Machine

/-! PROOFS. O2: division and remainder (R107). -/
namespace Sys2Proof.Machine

theorem elemCount_pos (t : Nat) : 0 < elemCount t := by
  unfold elemCount
  split_ifs <;> omega

/-- A pattern of w bits stands for a number of its type (R42). -/
theorem intVal_mem_range (signed : Bool) {w p : Nat} (hw : 0 < w) (hp : p < 2 ^ w) :
    intMin signed w ≤ intVal signed w p ∧ intVal signed w p ≤ intMax signed w := by
  obtain ⟨k, rfl⟩ : ∃ k, w = k + 1 := ⟨w - 1, by omega⟩
  rw [Nat.pow_succ] at hp
  simp only [intVal, intMin, intMax, Nat.add_sub_cancel, Nat.pow_succ]
  generalize 2 ^ k = h at *
  cases signed
  · simp only [Bool.false_eq_true, if_false, false_and]
    omega
  · simp only [if_true, true_and]
    split <;> omega

theorem intVal_eq_zero_iff (signed : Bool) {w p : Nat} (hp : p < 2 ^ w) : intVal signed w p = 0 ↔ p = 0 := by
  unfold intVal
  have := Nat.two_pow_pos (w - 1)
  split <;> omega

theorem elemInt_mem_range (m : ModeWord) (x : DWord) (k : Nat) :
    intMin (signedType (modeType m)) (elemWidth (modeType m)) ≤ elemInt m x k ∧
      elemInt m x k ≤ intMax (signedType (modeType m)) (elemWidth (modeType m)) :=
  intVal_mem_range _ (elemWidth_pos _) (elem_lt _ _ _)

theorem elemInt_eq_zero_iff (m : ModeWord) (x : DWord) (k : Nat) : elemInt m x k = 0 ↔ elem (modeType m) x k = 0 :=
  intVal_eq_zero_iff _ (elem_lt _ _ _)

theorem intMin_nonpos (signed : Bool) (w : Nat) : intMin signed w ≤ 0 := by
  unfold intMin
  split
  · exact neg_nonpos.2 (Int.natCast_nonneg _)
  · exact le_refl _

theorem intMax_nonneg (signed : Bool) (w : Nat) : 0 ≤ intMax signed w := by
  have hpow : ∀ n, (0 : Int) < ((2 ^ n : Nat) : Int) := fun n => by exact_mod_cast Nat.two_pow_pos n
  have h1 := hpow w
  have h2 := hpow (w - 1)
  unfold intMax
  split <;> omega

/-- A remainder has the sign of the dividend and is no farther from zero. -/
theorem tmod_between (x y : Int) : (0 ≤ x → 0 ≤ x.tmod y ∧ x.tmod y ≤ x) ∧ (x ≤ 0 → x ≤ x.tmod y ∧ x.tmod y ≤ 0) := by
  have hnonneg : ∀ z : Int, 0 ≤ z → 0 ≤ z.tmod y ∧ z.tmod y ≤ z := fun z hz => by
    have habs : (z.tmod y).natAbs ≤ z.natAbs := Int.natAbs_tmod z y ▸ Nat.mod_le _ _
    have := Int.tmod_nonneg y hz
    omega
  refine ⟨hnonneg x, fun hx => ?_⟩
  have := hnonneg (-x) (by omega)
  rw [Int.neg_tmod] at this
  omega

theorem elem_divEl (m : ModeWord) (x y : DWord) {k : Nat} (hk : k < elemCount (modeType m)) :
    elem (modeType m) (divEl m x y) k =
      if elemInt m y k = 0 then
        wrapInt (elemWidth (modeType m)) (if signedType (modeType m) ∧ elemInt m x k < 0
          then intMin true (elemWidth (modeType m)) else intMax (signedType (modeType m)) (elemWidth (modeType m)))
      else fitInt (modeSat m) (signedType (modeType m)) (elemWidth (modeType m)) ((elemInt m x k).tdiv (elemInt m y k)) := by
  unfold divEl
  dsimp only
  rw [elem_onElems _ _ _ _ _ _ hk]
  simp only [elemInt_eq_zero_iff]
  split
  · exact Nat.mod_eq_of_lt (wrapInt_lt _ _)
  · exact Nat.mod_eq_of_lt (fitInt_lt _ _ _ _)

theorem elem_remEl (m : ModeWord) (x y : DWord) {k : Nat} (hk : k < elemCount (modeType m)) :
    elem (modeType m) (remEl m x y) k =
      if elemInt m y k = 0 then elem (modeType m) x k
      else wrapInt (elemWidth (modeType m)) ((elemInt m x k).tmod (elemInt m y k)) := by
  unfold remEl
  dsimp only
  rw [elem_onElems _ _ _ _ _ _ hk]
  simp only [elemInt_eq_zero_iff]
  split
  · exact Nat.mod_eq_of_lt (elem_lt _ _ _)
  · exact Nat.mod_eq_of_lt (wrapInt_lt _ _)

/-- The remainder is a number of the type, so its pattern stands for it. -/
theorem elemInt_remEl (m : ModeWord) (x y : DWord) {k : Nat} (hk : k < elemCount (modeType m)) (hy : elemInt m y k ≠ 0) :
    elemInt m (remEl m x y) k = (elemInt m x k).tmod (elemInt m y k) := by
  obtain ⟨hlo, hhi⟩ := elemInt_mem_range m x k
  obtain ⟨hpos, hneg⟩ := tmod_between (elemInt m x k) (elemInt m y k)
  have hmin := intMin_nonpos (signedType (modeType m)) (elemWidth (modeType m))
  have hmax := intMax_nonneg (signedType (modeType m)) (elemWidth (modeType m))
  rw [show elemInt m (remEl m x y) k = intVal _ _ (elem (modeType m) (remEl m x y) k) from rfl, elem_remEl m x y hk, if_neg hy]
  exact intVal_wrapInt (elemWidth_pos _) (by omega) (by omega)

/-- The greatest number of an unsigned type and both ends of a signed one, as patterns. -/
theorem wrapInt_intMax_unsigned (w : Nat) : wrapInt w (intMax false w) = 2 ^ w - 1 := by
  have := Nat.two_pow_pos w
  simp only [wrapInt, intMax, Bool.false_eq_true, if_false]
  rw [Int.emod_eq_of_lt (by omega) (by omega)]
  omega

theorem wrapInt_intMax_signed {w : Nat} (hw : 0 < w) : wrapInt w (intMax true w) = 2 ^ (w - 1) - 1 := by
  have := Nat.two_pow_pos (w - 1)
  have hlt : 2 ^ (w - 1) < 2 ^ w := Nat.pow_lt_pow_right (by omega) (by omega)
  simp only [wrapInt, intMax, if_true]
  rw [Int.emod_eq_of_lt (by omega) (by omega)]
  omega

theorem wrapInt_intMin_signed {w : Nat} (hw : 0 < w) : wrapInt w (intMin true w) = 2 ^ (w - 1) := by
  obtain ⟨k, rfl⟩ : ∃ k, w = k + 1 := ⟨w - 1, by omega⟩
  have := Nat.two_pow_pos k
  simp only [wrapInt, intMin, if_true, Nat.add_sub_cancel, Nat.pow_succ]
  rw [← Int.add_emod_right, Int.emod_eq_of_lt (by omega) (by omega)]
  omega

/-- Settles O2: the cases are those of `elem_divEl` and `elem_remEl`. -/
theorem divisionCompletes : Obligations.DivisionCompletes := by
  intro d a b
  refine ⟨laneWise_of (exec_div d a b) (fun _ _ => ⟨_, _, rfl, rfl⟩) fun m _ _ x y z => ?div,
    laneWise_of (exec_rem d a b) (fun _ _ => ⟨_, _, rfl, rfl⟩) fun m _ _ x y z => ?rem⟩
  case div =>
    have hw := elemWidth_pos (modeType m)
    simp only [elem_divEl m x y (elemCount_pos _)]
    refine ⟨fun hy => ?_, fun hy hs => ?_, fun hy hs hx => ?_, fun hy hs hx => ?_⟩
    · rw [if_neg hy]
      exact inType_fitInt _ _ hw _
    · rw [if_pos hy, hs, if_neg (by simp)]
      exact wrapInt_intMax_unsigned _
    · rw [if_pos hy, hs, if_neg (by omega)]
      exact wrapInt_intMax_signed hw
    · rw [if_pos hy, hs, if_pos ⟨rfl, hx⟩]
      exact wrapInt_intMin_signed hw
  case rem =>
    refine ⟨fun hy => ?_, fun hy => ?_⟩
    · rw [elemInt_remEl m x y (elemCount_pos _) hy, Int.tmod_def]
    · rw [elem_remEl m x y (elemCount_pos _), if_pos hy]

end Sys2Proof.Machine

/-! PROOFS. O3: shifts, rotates and bit counts (R108, R109). -/
namespace Sys2Proof.Machine

/-- An operation on patterns whose result has w bits, taken element by element. -/
theorem bitElems_onBits {f : Nat → Nat → Nat → Nat} {P : Nat → Nat → Nat → Nat → Nat → Prop} (m : ModeWord) (x y z : DWord)
    (hlt : ∀ {w p} n, 0 < w → p < 2 ^ w → f w p n < 2 ^ w)
    (hP : ∀ {w p} n q, 0 < w → p < 2 ^ w → P w p n q (f w p n)) (b : DWord)
    (hb : ∀ w p q s r, P w p (elem (modeType m) b s) q r → P w p (elem (modeType m) y s) q r) :
    BitElems P m x y z (onBits m f x b) := by
  intro k hk
  have hw := elemWidth_pos (modeType m)
  unfold onBits
  rw [elem_onElems _ _ _ _ _ _ hk, Nat.mod_eq_of_lt (hlt _ hw (elem_lt _ _ _))]
  exact hb _ _ _ _ _ (hP _ _ hw (elem_lt _ _ _))

/-- A shift or a rotate: both operands are the instruction's. -/
theorem bitElems_shift {f : Nat → Nat → Nat → Nat} {P : Nat → Nat → Nat → Nat → Nat → Prop} (m : ModeWord) (x y z : DWord)
    (hlt : ∀ {w p} n, 0 < w → p < 2 ^ w → f w p n < 2 ^ w)
    (hP : ∀ {w p} n q, 0 < w → p < 2 ^ w → P w p n q (f w p n)) : BitElems P m x y z (onBits m f x y) :=
  bitElems_onBits m x y z hlt hP y fun _ _ _ _ _ h => h

/-- A count or a reversal: the second operand is not read. -/
theorem bitElems_unary {f : Nat → Nat → Nat} {P : Nat → Nat → Nat → Prop} (m : ModeWord) (x y z : DWord)
    (hlt : ∀ {w p}, 0 < w → p < 2 ^ w → f w p < 2 ^ w) (hP : ∀ {w p}, 0 < w → p < 2 ^ w → P w p (f w p)) :
    BitElems (fun w p _ _ r => P w p r) m x y z (onBits m (fun w p _ => f w p) x 0) :=
  bitElems_onBits m x y z (fun _ => hlt) (fun _ _ => hP) 0 fun _ _ _ _ _ h => h

/-! The left shift. -/

/-- Shifting by more than the width is shifting by the width: the number is reduced to 0, or clamped to the same end. -/
theorem inType_shl (sat signed : Bool) {w p : Nat} (hw : 0 < w) (hp : p < 2 ^ w) (n : Nat) :
    InType sat signed w (intVal signed w p * ((2 ^ n : Nat) : Int))
      (fitInt sat signed w (intVal signed w p * ((2 ^ min n w : Nat) : Int))) := by
  have hfit := inType_fitInt sat signed hw (intVal signed w p * ((2 ^ min n w : Nat) : Int))
  obtain hn | hn : n ≤ w ∨ w < n := by omega
  · rwa [Nat.min_eq_left hn] at hfit ⊢
  rw [Nat.min_eq_right hn.le] at hfit ⊢
  obtain ⟨j, rfl⟩ := Nat.exists_eq_add_of_lt hn
  obtain ⟨hlt, hval⟩ := hfit
  refine ⟨hlt, ?_⟩
  have hpow : ((2 ^ (w + j + 1) : Nat) : Int) = ((2 ^ w : Nat) : Int) * ((2 ^ (j + 1) : Nat) : Int) := by
    rw [Nat.add_assoc, Nat.pow_add, Nat.cast_mul]
  cases sat
  · simp only [Bool.false_eq_true, if_false] at hval ⊢
    rw [hval, hpow, Int.mul_emod_left, mul_left_comm, Int.mul_emod_right]
  · simp only [if_true] at hval ⊢
    rw [hval]
    obtain ⟨hlo, hhi⟩ := intVal_mem_range signed hw hp
    have hbig : (1 : Int) ≤ ((2 ^ (j + 1) : Nat) : Int) := by exact_mod_cast Nat.two_pow_pos _
    have hW : (0 : Int) < ((2 ^ w : Nat) : Int) := by exact_mod_cast Nat.two_pow_pos w
    have hmax : intMax signed w < ((2 ^ w : Nat) : Int) := by
      have : (2 ^ (w - 1) : Nat) ≤ 2 ^ w := Nat.pow_le_pow_right (by omega) (by omega)
      unfold intMax
      split <;> omega
    have hmin : -((2 ^ w : Nat) : Int) ≤ intMin signed w := by
      have : (2 ^ (w - 1) : Nat) ≤ 2 ^ w := Nat.pow_le_pow_right (by omega) (by omega)
      unfold intMin
      split <;> omega
    have h0 := intMin_nonpos signed w
    have h1 := intMax_nonneg signed w
    rw [hpow]
    generalize intVal signed w p = a at *
    generalize ((2 ^ w : Nat) : Int) = W at *
    generalize ((2 ^ (j + 1) : Nat) : Int) = c at *
    obtain hneg | rfl | hpos : a < 0 ∨ a = 0 ∨ 0 < a := by omega
    · have e1 : a * W ≤ -W := by nlinarith
      have e2 : a * (W * c) ≤ -W := by nlinarith
      omega
    · simp
    · have e1 : W ≤ a * W := by nlinarith
      have e2 : W ≤ a * (W * c) := by nlinarith
      omega

theorem elem_shlEl (m : ModeWord) (x y : DWord) {k : Nat} (hk : k < elemCount (modeType m)) :
    elem (modeType m) (shlEl m x y) k =
      fitInt (modeSat m) (signedType (modeType m)) (elemWidth (modeType m))
        (elemInt m x k * ((2 ^ min (elem (modeType m) y k) (elemWidth (modeType m)) : Nat) : Int)) := by
  unfold shlEl
  dsimp only
  rw [elem_onElems _ _ _ _ _ _ hk]
  exact Nat.mod_eq_of_lt (fitInt_lt _ _ _ _)

/-! The right shifts. -/

theorem testBit_shr {w p : Nat} (hp : p < 2 ^ w) (n j : Nat) :
    (if w ≤ n then 0 else p / 2 ^ n).testBit j = (decide (j + n < w) && p.testBit (j + n)) := by
  split
  · rw [Nat.zero_testBit, decide_eq_false (by omega), Bool.false_and]
  · rw [Nat.testBit_div_two_pow]
    by_cases h : j + n < w
    · rw [decide_eq_true h, Bool.true_and]
    · rw [Nat.testBit_lt_two_pow (Nat.lt_of_lt_of_le hp (Nat.pow_le_pow_right (by omega) (by omega))), Bool.and_false]

theorem shr_lt {w p : Nat} (hp : p < 2 ^ w) (n : Nat) : (if w ≤ n then 0 else p / 2 ^ n) < 2 ^ w := by
  split
  · exact Nat.two_pow_pos w
  · exact Nat.lt_of_le_of_lt (Nat.div_le_self _ _) hp

theorem intVal_signed_eq_toInt {w p : Nat} (hw : 0 < w) (hp : p < 2 ^ w) : intVal true w p = (BitVec.ofNat w p).toInt := by
  obtain ⟨k, rfl⟩ : ∃ k, w = k + 1 := ⟨w - 1, by omega⟩
  rw [BitVec.toInt_eq_toNat_cond, BitVec.toNat_ofNat, Nat.mod_eq_of_lt hp]
  have hpow : 2 ^ (k + 1) = 2 ^ k * 2 := pow_succ 2 k
  simp only [intVal, Nat.add_sub_cancel, true_and]
  by_cases h : 2 ^ k ≤ p
  · rw [if_pos h, if_neg (by omega)]
  · rw [if_neg h, if_pos (by omega)]

theorem wrapInt_eq_toNat_ofInt (w : Nat) (x : Int) : wrapInt w x = (BitVec.ofInt w x).toNat :=
  (BitVec.toNat_ofInt x).symm

/-- The arithmetic shift reads the sign bit above the top; a count above the width acts as the width. -/
theorem testBit_sar {w p : Nat} (hw : 0 < w) (hp : p < 2 ^ w) (n : Nat) {j : Nat} (hj : j < w) :
    (wrapInt w (intVal true w p / ((2 ^ min n w : Nat) : Int))).testBit j = p.testBit (min (j + n) (w - 1)) := by
  have hshift : intVal true w p / ((2 ^ min n w : Nat) : Int) = (BitVec.ofNat w p).toInt >>> min n w := by
    rw [intVal_signed_eq_toInt hw hp, Int.shiftRight_eq_div_pow]
  have hread : ∀ i, i < w → (BitVec.ofNat w p).getLsbD i = p.testBit i := fun i hi => by
    rw [BitVec.getLsbD_ofNat, decide_eq_true hi, Bool.true_and]
  rw [hshift, wrapInt_eq_toNat_ofInt, BitVec.testBit_toNat, ← BitVec.sshiftRight, BitVec.getLsbD_sshiftRight,
    decide_eq_false (by omega : ¬w ≤ j), Bool.not_false, Bool.true_and]
  split
  · rw [hread _ (by omega)]
    congr 1
    omega
  · rw [BitVec.msb_eq_getLsbD_last, hread _ (by omega)]
    congr 1
    omega

/-! Rotates. -/

/-- A number of w bits rotated left by r: the low w - r bits move up, the others come in below. -/
theorem rotate_eq {w p r : Nat} (hr : r ≤ w) :
    p * 2 ^ r % 2 ^ w + p / 2 ^ (w - r) = 2 ^ r * (p % 2 ^ (w - r)) + p / 2 ^ (w - r) := by
  obtain ⟨k, rfl⟩ := Nat.exists_eq_add_of_le hr
  rw [Nat.add_sub_cancel_left, Nat.add_comm r k, Nat.pow_add, Nat.mul_mod_mul_right, Nat.mul_comm (2 ^ r)]

theorem rotate_high_lt {w p r : Nat} (hr : r ≤ w) (hp : p < 2 ^ w) : p / 2 ^ (w - r) < 2 ^ r := by
  rw [Nat.div_lt_iff_lt_mul (Nat.two_pow_pos _), ← Nat.pow_add]
  rwa [Nat.add_sub_cancel' hr]

theorem rotate_lt {w p r : Nat} (hr : r ≤ w) (hp : p < 2 ^ w) : p * 2 ^ r % 2 ^ w + p / 2 ^ (w - r) < 2 ^ w := by
  have hhigh := rotate_high_lt hr hp
  have hlow : p % 2 ^ (w - r) < 2 ^ (w - r) := Nat.mod_lt _ (Nat.two_pow_pos _)
  have hpow : 2 ^ r * 2 ^ (w - r) = 2 ^ w := by rw [← Nat.pow_add, Nat.add_sub_cancel' hr]
  have := Nat.mul_le_mul_left (2 ^ r) (Nat.succ_le_of_lt hlow)
  rw [rotate_eq hr]
  rw [Nat.mul_succ] at this
  omega

theorem testBit_rotate {w p r : Nat} (hr : r ≤ w) (hp : p < 2 ^ w) {i : Nat} (hi : i < w) :
    (p * 2 ^ r % 2 ^ w + p / 2 ^ (w - r)).testBit i = p.testBit (if i < r then i + (w - r) else i - r) := by
  rw [rotate_eq hr, Nat.testBit_two_pow_mul_add _ (rotate_high_lt hr hp)]
  split
  · rw [Nat.testBit_div_two_pow]
  · rw [Nat.testBit_mod_two_pow, decide_eq_true (by omega), Bool.true_and]

theorem add_mod_of_lt {w j : Nat} (n : Nat) (hj : j < w) :
    (j + n) % w = if j + n % w < w then j + n % w else j + n % w - w := by
  have hn : n % w < w := Nat.mod_lt _ (by omega)
  rw [Nat.add_mod, Nat.mod_eq_of_lt hj]
  split
  · exact Nat.mod_eq_of_lt ‹_›
  · rw [Nat.mod_eq_sub_mod (by omega), Nat.mod_eq_of_lt (by omega)]

theorem testBit_rol {w p : Nat} (hp : p < 2 ^ w) (n : Nat) {j : Nat} (hj : j < w) :
    (p * 2 ^ (n % w) % 2 ^ w + p / 2 ^ (w - n % w)).testBit ((j + n) % w) = p.testBit j := by
  have hn : n % w < w := Nat.mod_lt _ (by omega)
  rw [testBit_rotate hn.le hp (Nat.mod_lt _ (by omega)), add_mod_of_lt n hj]
  congr 1
  split <;> split <;> omega

theorem testBit_ror {w p : Nat} (hp : p < 2 ^ w) (n : Nat) {j : Nat} (hj : j < w) :
    (p / 2 ^ (n % w) + p * 2 ^ (w - n % w) % 2 ^ w).testBit j = p.testBit ((j + n) % w) := by
  have hn : n % w < w := Nat.mod_lt _ (by omega)
  have h := testBit_rotate (Nat.sub_le w (n % w)) hp hj
  rw [Nat.sub_sub_self hn.le] at h
  rw [Nat.add_comm, h, add_mod_of_lt n hj]
  congr 1
  split <;> split <;> omega

/-! Counts and the reversal. -/

theorem popCount_eq_length (p n : Nat) : popCount p n = ((List.range n).filter p.testBit).length := by
  induction n with
  | zero => rfl
  | succ n ih =>
    rw [popCount, ih, List.range_succ, List.filter_append, List.length_append, List.filter_singleton]
    split <;> simp_all

theorem popCount_le (p n : Nat) : popCount p n ≤ n := by
  rw [popCount_eq_length]
  exact (List.length_filter_le _ _).trans (List.length_range (n := n)).le

/-- The zeros above the highest bit that is set. -/
theorem leadZeros_spec {w p : Nat} (hp : p < 2 ^ w) :
    leadZeros w p ≤ w ∧ (∀ j, w - leadZeros w p ≤ j → j < w → p.testBit j = false) ∧
      (leadZeros w p < w → p.testBit (w - 1 - leadZeros w p) = true) := by
  unfold leadZeros
  split
  · rename_i h0
    subst h0
    exact ⟨le_rfl, fun j _ _ => Nat.zero_testBit j, fun h => absurd h (lt_irrefl w)⟩
  · rename_i h0
    have hlog : p.log2 < w := (Nat.log2_lt h0).2 hp
    refine ⟨by omega, fun j hlo _ => ?_, fun _ => ?_⟩
    · exact Nat.testBit_lt_two_pow (Nat.lt_of_lt_of_le Nat.lt_log2_self (Nat.pow_le_pow_right (by omega) (by omega)))
    · rw [show w - 1 - (w - 1 - p.log2) = p.log2 by omega]
      exact Nat.testBit_log2 h0

/-- The first index that satisfies `f`, or `w` where none does. -/
theorem lowest?_getD_spec (w : Nat) (f : Nat → Bool) :
    (lowest? w f).getD w ≤ w ∧ (∀ j, j < (lowest? w f).getD w → f j = false) ∧
      ((lowest? w f).getD w < w → f ((lowest? w f).getD w) = true) := by
  unfold lowest?
  cases h : (List.range w).find? f with
  | none =>
    rw [List.find?_range_eq_none] at h
    exact ⟨le_rfl, fun j hj => by simpa using h j hj, fun hlt => absurd hlt (lt_irrefl w)⟩
  | some i =>
    obtain ⟨hf, hi, hbelow⟩ := List.find?_range_eq_some.1 h
    exact ⟨(List.mem_range.1 hi).le, fun j hj => by simpa using hbelow j hj, fun _ => hf⟩

/-- Settles O3: `elem_shlEl` for the left shift, the others pattern by pattern. -/
theorem shiftsAndCountsComplete : Obligations.ShiftsAndCountsComplete := by
  intro d a b
  have hcount : ∀ {w c : Nat}, c ≤ w → c < 2 ^ w := fun h => Nat.lt_of_le_of_lt h Nat.lt_two_pow_self
  refine ⟨laneWise_of (exec_shl d a b) (fun _ _ => ⟨_, _, rfl, rfl⟩) fun m _ _ x y _ k hk => ?shl,
    laneWise_of (exec_shr d a b) (fun _ _ => ⟨_, _, rfl, rfl⟩) fun m _ _ x y z => bitElems_shift m x y z
      (fun n _ hp => shr_lt hp n) fun n _ _ hp j _ => testBit_shr hp n j,
    laneWise_of (exec_sar d a b) (fun _ _ => ⟨_, _, rfl, rfl⟩) fun m _ _ x y z => bitElems_shift m x y z
      (fun _ _ _ => wrapInt_lt _ _) fun n _ hw hp j hj => testBit_sar hw hp n hj,
    laneWise_of (exec_rol d a b) (fun _ _ => ⟨_, _, rfl, rfl⟩) fun m _ _ x y z => bitElems_shift m x y z
      (fun n hw hp => rotate_lt (Nat.mod_lt n hw).le hp) fun n _ _ hp j hj => testBit_rol hp n hj,
    laneWise_of (exec_ror d a b) (fun _ _ => ⟨_, _, rfl, rfl⟩) fun m _ _ x y z => bitElems_shift m x y z
      ?ror fun n _ _ hp j hj => testBit_ror hp n hj,
    laneWise_of (exec_popc d a) (fun _ _ => ⟨_, _, rfl, rfl⟩) fun m _ _ x y z => bitElems_unary m x y z
      (fun {w p} _ _ => hcount (popCount_le p w)) fun {w p} _ _ => popCount_eq_length p w,
    laneWise_of (exec_clz d a) (fun _ _ => ⟨_, _, rfl, rfl⟩) fun m _ _ x y z => bitElems_unary m x y z
      (fun _ hp => hcount (leadZeros_spec hp).1) fun _ hp => leadZeros_spec hp,
    laneWise_of (exec_ctz d a) (fun _ _ => ⟨_, _, rfl, rfl⟩) fun m _ _ x y z => bitElems_unary m x y z
      (fun {w _} _ _ => hcount (lowest?_getD_spec w _).1) fun {w _} _ _ => lowest?_getD_spec w _,
    laneWise_of (exec_brev d a) (fun _ _ => ⟨_, _, rfl, rfl⟩) fun m _ _ x y z => bitElems_unary m x y z
      (fun _ _ => bitsNat_lt _ _) fun _ _ _ hj => testBit_bitsNat _ hj⟩
  case shl =>
    rw [elem_shlEl m x y hk]
    exact inType_shl _ _ (elemWidth_pos _) (elem_lt _ _ _) _
  case ror =>
    intro w p n hw hp
    have h := rotate_lt (Nat.sub_le w (n % w)) hp
    rwa [Nat.sub_sub_self (Nat.mod_lt n hw).le, Nat.add_comm] at h

end Sys2Proof.Machine

/-! PROOFS. O4: bit fields, logic and moves (R110 to R112). -/
namespace Sys2Proof.Machine

/-- A bit of the low word of an operation on words. -/
theorem getLsbD_onWord (f : Word → Word → Word → Word) (a b c : DWord) {j : Nat} (hj : j < 32) :
    (onWord f a b c).getLsbD j = (f (a.setWidth 32) (b.setWidth 32) (c.setWidth 32)).getLsbD j := by
  rw [onWord, BitVec.getLsbD_setWidth, decide_eq_true (by omega), Bool.true_and]

theorem setWidth_onWord (f : Word → Word → Word → Word) (a b c : DWord) :
    (onWord f a b c).setWidth 32 = f (a.setWidth 32) (b.setWidth 32) (c.setWidth 32) :=
  BitVec.setWidth_setWidth_of_le _ (by omega)

/-- An operation on words that does not read MODE (R111). -/
theorem laneWise_word {i : Instr} {d : Reg} {f : Word → Word → Word → Word} {g : DWord → DWord → DWord → DWord}
    (he : ∀ s, exec i s = lanesOp i d s fun _ x y z => g x y z)
    (hd : ∀ m l, ∃ t r, (shape i m l).dst = t :: r ∧ t.words = 1)
    (hg : ∀ x y z : DWord, (g x y z).setWidth 32 = f (x.setWidth 32) (y.setWidth 32) (z.setWidth 32)) :
    LaneWise i d (fun _ => 1) (WordOp f) :=
  laneWise_of he hd fun _ _ _ x y z => hg x y z

/-- The field that B names (R110): `bitField` reads it in the low word. -/
theorem bitField_setWidth (y : DWord) :
    bitField (y.setWidth 32) =
      ((y.extractLsb' 0 5).toNat, min (y.extractLsb' 8 6).toNat (32 - (y.extractLsb' 0 5).toNat)) := by
  have hpos : fieldNat (y.setWidth 32) 0 5 = (y.extractLsb' 0 5).toNat := by
    simp only [fieldNat, BitVec.toNat_setWidth, BitVec.extractLsb'_toNat, Nat.shiftRight_eq_div_pow]
    omega
  have hlen : fieldNat (y.setWidth 32) 8 6 = (y.extractLsb' 8 6).toNat := by
    simp only [fieldNat, BitVec.toNat_setWidth, BitVec.extractLsb'_toNat, Nat.shiftRight_eq_div_pow]
    omega
  simp only [bitField, hpos, hlen]

theorem testBit_fieldNat {w : Nat} (x : BitVec w) (lo n j : Nat) :
    (fieldNat x lo n).testBit j = (decide (j < n) && x.getLsbD (lo + j)) := by
  rw [fieldNat, Nat.testBit_mod_two_pow, Nat.testBit_shiftRight, BitVec.testBit_toNat]

theorem getLsbD_setField {w : Nat} (x : BitVec w) (lo n v j : Nat) (hj : j < w) :
    (setField x lo n v).getLsbD j = if lo ≤ j ∧ j < lo + n then v.testBit (j - lo) else x.getLsbD j := by
  have hmask : (BitVec.ofNat w ((2 ^ n - 1) <<< lo)).getLsbD j = decide (lo ≤ j ∧ j < lo + n) := by
    rw [BitVec.getLsbD_ofNat, Nat.testBit_shiftLeft, Nat.testBit_two_pow_sub_one, decide_eq_true hj, Bool.true_and, ← Bool.decide_and]
    exact decide_eq_decide.2 (by omega)
  have hnew : (BitVec.ofNat w ((v % 2 ^ n) <<< lo)).getLsbD j = (decide (lo ≤ j ∧ j < lo + n) && v.testBit (j - lo)) := by
    rw [BitVec.getLsbD_ofNat, Nat.testBit_shiftLeft, Nat.testBit_mod_two_pow, decide_eq_true hj, Bool.true_and, ← Bool.and_assoc,
      ← Bool.decide_and]
    exact congrArg (· && _) (decide_eq_decide.2 (by omega))
  rw [setField, BitVec.getLsbD_or, BitVec.getLsbD_and, BitVec.getLsbD_not, hmask, hnew, decide_eq_true hj]
  by_cases h : lo ≤ j ∧ j < lo + n <;> simp [h]

/-- A field read as a number and extended to a word: zeros above it, or its top bit if it is signed. -/
theorem getLsbD_ofInt_fieldNat (signed : Bool) (a : Word) (pos : Nat) {n : Nat} (hn : 0 < n) {j : Nat} (hj : j < 32) :
    (BitVec.ofInt 32 (intVal signed n (fieldNat a pos n))).getLsbD j =
      if j < n then a.getLsbD (pos + j) else signed && a.getLsbD (pos + n - 1) := by
  have hlt : fieldNat a pos n < 2 ^ n := Nat.mod_lt _ (Nat.two_pow_pos n)
  have hread : ∀ i, i < n → (BitVec.ofNat n (fieldNat a pos n)).getLsbD i = a.getLsbD (pos + i) := fun i hi => by
    rw [BitVec.getLsbD_ofNat, testBit_fieldNat, decide_eq_true hi, Bool.true_and, Bool.true_and]
  cases signed
  · have hval : intVal false n (fieldNat a pos n) = (fieldNat a pos n : Int) := by simp [intVal]
    rw [hval, BitVec.ofInt_natCast, BitVec.getLsbD_ofNat, testBit_fieldNat, decide_eq_true hj, Bool.true_and]
    by_cases h : j < n <;> simp [h]
  · rw [intVal_signed_eq_toInt hn hlt, ← BitVec.signExtend, BitVec.getLsbD_signExtend, decide_eq_true hj, Bool.true_and,
      Bool.true_and]
    split
    · exact hread j ‹_›
    · rw [BitVec.msb_eq_getLsbD_last, hread _ (by omega)]
      congr 1
      omega

theorem getLsbD_bfxWord (signed : Bool) (x y : DWord) {j : Nat} (hj : j < 32) :
    (bfxWord signed (x.setWidth 32) (y.setWidth 32)).getLsbD j =
      let pos := (y.extractLsb' 0 5).toNat
      let m := min (y.extractLsb' 8 6).toNat (32 - pos)
      if j < m then x.getLsbD (pos + j) else signed && decide (m ≠ 0) && x.getLsbD (pos + m - 1) := by
  simp only [bfxWord, bitField_setWidth]
  have hpos := (y.extractLsb' 0 5).isLt
  generalize (y.extractLsb' 0 5).toNat = pos at *
  generalize (y.extractLsb' 8 6).toNat = len
  split
  · rename_i h0
    simp [h0]
  · rename_i h0
    rw [getLsbD_ofInt_fieldNat _ _ _ (by omega) hj, decide_eq_true h0, Bool.and_true]
    split
    · rw [BitVec.getLsbD_setWidth, decide_eq_true (by omega), Bool.true_and]
    · rw [BitVec.getLsbD_setWidth, decide_eq_true (by omega), Bool.true_and]

theorem getLsbD_bfiWord (x y z : DWord) {j : Nat} (hj : j < 32) :
    (bfiWord (x.setWidth 32) (y.setWidth 32) (z.setWidth 32)).getLsbD j =
      let pos := (y.extractLsb' 0 5).toNat
      let m := min (y.extractLsb' 8 6).toNat (32 - pos)
      if pos ≤ j ∧ j < pos + m then x.getLsbD (j - pos) else z.getLsbD j := by
  simp only [bfiWord, bitField_setWidth]
  generalize (y.extractLsb' 0 5).toNat = pos
  generalize (y.extractLsb' 8 6).toNat = len
  have hlow : ∀ (u : DWord) i, i < 32 → (u.setWidth 32).getLsbD i = u.getLsbD i := fun u i hi => by
    rw [BitVec.getLsbD_setWidth, decide_eq_true hi, Bool.true_and]
  split
  · rw [if_neg (by omega), hlow _ _ hj]
  · rw [getLsbD_setField _ _ _ _ _ hj, BitVec.testBit_toNat, hlow z _ hj]
    split
    · exact hlow x _ (by omega)
    · rfl

/-- Settles O4: `getLsbD_bfxWord` and `getLsbD_bfiWord` for the fields, `setWidth_onWord` for logic and moves. -/
theorem fieldsLogicAndMovesComplete : Obligations.FieldsLogicAndMovesComplete := by
  intro d a b i
  refine ⟨laneWise_of (exec_bfx d a b) ?_ fun m _ _ x y _ j hj =>
      (getLsbD_onWord _ x y 0 hj).trans (getLsbD_bfxWord _ x y hj),
    laneWise_of (exec_bfi d a b) ?_ fun m _ _ x y z j hj => (getLsbD_onWord _ x y z hj).trans (getLsbD_bfiWord x y z hj),
    laneWise_word (exec_and d a b) ?_ fun x y _ => setWidth_onWord _ x y 0,
    laneWise_word (exec_or d a b) ?_ fun x y _ => setWidth_onWord _ x y 0,
    laneWise_word (exec_xor d a b) ?_ fun x y _ => setWidth_onWord _ x y 0,
    laneWise_word (exec_andn d a b) ?_ fun x y _ => setWidth_onWord _ x y 0,
    laneWise_word (exec_not d a) ?_ fun x _ _ => setWidth_onWord _ x 0 0,
    laneWise_word (exec_mov d b) ?_ fun _ y _ => setWidth_onWord _ 0 y 0,
    laneWise_word (exec_movi d i) ?_ fun _ _ _ => BitVec.setWidth_setWidth_of_le _ (by omega),
    laneWise_word (exec_movhi d i) ?_ fun _ _ z => setWidth_onWord _ 0 0 z⟩
  all_goals exact fun _ _ => ⟨_, _, rfl, rfl⟩

end Sys2Proof.Machine

/-! PROOFS. O5 and O6: float arithmetic and the float functions (R113 to R118). Every result fits the format it is
rounded to, so an element holds it whole. -/
namespace Sys2Proof.Machine

/-! Results fit their format. -/

theorem ite_lt_of {c : Prop} [Decidable c] {a b n : Nat} (ha : a < n) (hb : b < n) : (if c then a else b) < n := by
  split
  · exact ha
  · exact hb

theorem Fmt.bits_eq (f : Fmt) : f.bits = f.eb + f.fb + 1 := by
  unfold Fmt.bits
  omega

theorem Fmt.two_pow_bits (f : Fmt) : 2 ^ f.bits = 2 ^ (f.eb + f.fb) * 2 := by
  rw [f.bits_eq, pow_succ]

theorem Fmt.inf_add_ulp (f : Fmt) : f.inf + 2 ^ f.fb = 2 ^ (f.eb + f.fb) := by
  have h : 1 ≤ 2 ^ f.eb := Nat.two_pow_pos _
  rw [Fmt.inf, Nat.pow_add, Nat.sub_mul, Nat.one_mul]
  exact Nat.sub_add_cancel (Nat.le_mul_of_pos_left _ (Nat.two_pow_pos _))

theorem Fmt.inf_lt (f : Fmt) : f.inf < 2 ^ (f.eb + f.fb) := by
  have := f.inf_add_ulp
  have := Nat.two_pow_pos f.fb
  omega

theorem Fmt.sign_le (f : Fmt) (neg : Bool) : f.sign neg ≤ 2 ^ (f.eb + f.fb) := by
  unfold Fmt.sign
  split
  · exact le_rfl
  · exact Nat.zero_le _

/-- A magnitude up to infinity, with a sign, fits the format. -/
theorem Fmt.sign_add_lt (f : Fmt) (neg : Bool) {p : Nat} (hp : p ≤ f.inf) : f.sign neg + p < 2 ^ f.bits := by
  have h1 := f.sign_le neg
  have h2 := f.inf_lt
  rw [f.two_pow_bits]
  omega

theorem Fmt.sign_lt (f : Fmt) (neg : Bool) : f.sign neg < 2 ^ f.bits :=
  f.sign_add_lt neg (Nat.zero_le _)

theorem Fmt.inf_lt_bits (f : Fmt) : f.inf < 2 ^ f.bits := by
  simpa [Fmt.sign] using f.sign_add_lt false le_rfl

theorem Fmt.overflow_le (f : Fmt) (rnd : Nat) (neg : Bool) : f.overflow rnd neg ≤ f.inf := by
  unfold Fmt.overflow
  split <;> (try split) <;> omega

/-- A format with a fraction, wide enough for a class mask: each float type of R43 is one. -/
def Fmt.Usual (f : Fmt) : Prop := 0 < f.fb ∧ 16 ≤ f.bits

section
variable {f : Fmt} (hf : f.Usual)
include hf

theorem Fmt.nan_lt : f.nan < 2 ^ f.bits := by
  have h : 2 ^ (f.fb - 1) < 2 ^ f.fb := Nat.pow_lt_pow_right (by omega) (Nat.sub_lt hf.1 Nat.one_pos)
  have := f.inf_add_ulp
  rw [Fmt.nan, f.two_pow_bits]
  omega

theorem Fmt.round_lt (rnd : Nat) (v : FVal) : f.round rnd v < 2 ^ f.bits := by
  unfold Fmt.round
  split
  · exact Fmt.nan_lt hf
  · exact f.sign_add_lt _ le_rfl
  · split
    · exact f.sign_lt _
    · refine f.sign_add_lt _ ?_
      split
      · exact f.overflow_le _ _
      · omega

theorem Fmt.between_lt (fn pat rnd : Nat) (neg : Bool) (lo hi : Nat) (u : Int) : f.between fn pat rnd neg lo hi u < 2 ^ f.bits := by
  unfold Fmt.between
  dsimp only
  split
  · exact Fmt.round_lt hf _ _
  · exact Nat.mod_lt _ (Nat.two_pow_pos _)

theorem Fmt.exp2_lt (rnd p : Nat) : f.exp2 rnd p < 2 ^ f.bits := by
  have hround := Fmt.round_lt hf rnd
  unfold Fmt.exp2
  split
  · exact Fmt.nan_lt hf
  · exact ite_lt_of (Nat.two_pow_pos _) f.inf_lt_bits
  · exact ite_lt_of (hround _) (ite_lt_of (hround _) (ite_lt_of (hround _) (ite_lt_of (hround _)
      (Fmt.between_lt hf _ _ _ _ _ _ _))))

theorem Fmt.log2_lt (rnd p : Nat) : f.log2 rnd p < 2 ^ f.bits := by
  unfold Fmt.log2
  split
  · exact Fmt.nan_lt hf
  · exact ite_lt_of (Fmt.nan_lt hf) f.inf_lt_bits
  · exact ite_lt_of (f.sign_add_lt _ le_rfl) (ite_lt_of (Fmt.nan_lt hf) (ite_lt_of (Fmt.round_lt hf _ _)
      (Fmt.between_lt hf _ _ _ _ _ _ _)))

theorem Fmt.sinHalf_lt (fn pat rnd : Nat) (neg : Bool) (m : Nat) (e : Int) : f.sinHalf fn pat rnd neg m e < 2 ^ f.bits := by
  unfold Fmt.sinHalf
  exact Fmt.between_lt hf _ _ _ _ _ _ _

theorem Fmt.sinpi_lt (rnd p : Nat) : f.sinpi rnd p < 2 ^ f.bits := by
  unfold Fmt.sinpi
  split
  · exact Fmt.nan_lt hf
  · exact Fmt.nan_lt hf
  · exact ite_lt_of (f.sign_lt _) (ite_lt_of (Fmt.round_lt hf _ _) (Fmt.sinHalf_lt hf _ _ _ _ _ _))

theorem Fmt.cospi_lt (rnd p : Nat) : f.cospi rnd p < 2 ^ f.bits := by
  have hround := Fmt.round_lt hf rnd
  unfold Fmt.cospi
  split
  · exact Fmt.nan_lt hf
  · exact Fmt.nan_lt hf
  · exact ite_lt_of (hround _) (ite_lt_of (hround _) (ite_lt_of (Nat.two_pow_pos _) (Fmt.sinHalf_lt hf _ _ _ _ _ _)))

theorem Fmt.tanh_lt (rnd p : Nat) : f.tanh rnd p < 2 ^ f.bits := by
  have hround := Fmt.round_lt hf rnd
  unfold Fmt.tanh
  split
  · exact Fmt.nan_lt hf
  · exact hround _
  · exact ite_lt_of (f.sign_lt _) (ite_lt_of (hround _) (ite_lt_of (hround _) (ite_lt_of (hround _)
      (Fmt.between_lt hf _ _ _ _ _ _ _))))

theorem Fmt.fract_lt (p : Nat) : f.fract p < 2 ^ f.bits := by
  unfold Fmt.fract
  split
  · exact Fmt.nan_lt hf
  · exact Fmt.nan_lt hf
  · exact ite_lt_of (Nat.two_pow_pos _) (ite_lt_of (Nat.two_pow_pos _) (Fmt.round_lt hf _ _))

theorem Fmt.integral_lt (rnd : Nat) {p : Nat} (hp : p < 2 ^ f.bits) : f.integral rnd p < 2 ^ f.bits := by
  unfold Fmt.integral
  split
  · exact Fmt.nan_lt hf
  · exact hp
  · exact Fmt.round_lt hf _ _

theorem Fmt.class_lt (p : Nat) : f.class p < 2 ^ f.bits := by
  refine Nat.pow_lt_pow_right (by omega) (Nat.lt_of_lt_of_le ?_ hf.2)
  repeat' split
  all_goals omega

theorem Fmt.least_lt {a b : Nat} (ha : a < 2 ^ f.bits) (hb : b < 2 ^ f.bits) : f.least a b < 2 ^ f.bits := by
  unfold Fmt.least
  repeat' split
  all_goals simp [Fmt.nan_lt hf, ha, hb]

theorem Fmt.greatest_lt {a b : Nat} (ha : a < 2 ^ f.bits) (hb : b < 2 ^ f.bits) : f.greatest a b < 2 ^ f.bits := by
  unfold Fmt.greatest
  repeat' split
  all_goals simp [Fmt.nan_lt hf, ha, hb]

end

/-! The sign of a pattern. -/

theorem Fmt.bits_sub_one (f : Fmt) : f.bits - 1 = f.eb + f.fb := by
  rw [f.bits_eq, Nat.add_sub_cancel]

theorem Fmt.sign_testBit (f : Fmt) {p : Nat} (hp : p < 2 ^ f.bits) :
    f.sign (p.testBit (f.eb + f.fb)) = p / 2 ^ (f.eb + f.fb) * 2 ^ (f.eb + f.fb) := by
  rw [f.two_pow_bits] at hp
  have hdiv : p / 2 ^ (f.eb + f.fb) < 2 := Nat.div_lt_of_lt_mul hp
  have hcases : p / 2 ^ (f.eb + f.fb) = 0 ∨ p / 2 ^ (f.eb + f.fb) = 1 := by
    generalize p / 2 ^ (f.eb + f.fb) = q at hdiv ⊢
    omega
  rw [Nat.testBit_eq_decide_div_mod_eq, Nat.mod_eq_of_lt hdiv, Fmt.sign]
  obtain h | h := hcases
  · simp [h]
  · simp [h]

theorem Fmt.sign_not (f : Fmt) (neg : Bool) : f.sign (!neg) + f.sign neg = 2 ^ (f.eb + f.fb) := by
  cases neg <;> simp [Fmt.sign]

/-- Clearing the sign and setting the other one adds half of the range, modulo the range (R114). -/
theorem unsign_add_sign_not (f : Fmt) {p : Nat} (hp : p < 2 ^ f.bits) :
    unsign f p + f.sign (!p.testBit (f.eb + f.fb)) = (p + 2 ^ (f.bits - 1)) % 2 ^ f.bits := by
  have hs := f.sign_testBit hp
  have hdm := Nat.div_add_mod' p (2 ^ (f.eb + f.fb))
  have hlt : p % 2 ^ (f.eb + f.fb) < 2 ^ (f.eb + f.fb) := Nat.mod_lt _ (Nat.two_pow_pos _)
  have hn := f.sign_not (p.testBit (f.eb + f.fb))
  have hset : f.sign (p.testBit (f.eb + f.fb)) = 0 ∨ f.sign (p.testBit (f.eb + f.fb)) = 2 ^ (f.eb + f.fb) := by
    cases p.testBit (f.eb + f.fb)
    · exact .inl rfl
    · exact .inr rfl
  rw [← hs] at hdm
  rw [f.bits_sub_one, f.two_pow_bits, unsign]
  generalize f.sign (p.testBit (f.eb + f.fb)) = a at *
  generalize f.sign (!p.testBit (f.eb + f.fb)) = b at *
  generalize p % 2 ^ (f.eb + f.fb) = r at *
  generalize 2 ^ (f.eb + f.fb) = h at *
  obtain rfl | rfl := hset
  · rw [Nat.mod_eq_of_lt (by omega)]
    omega
  · rw [Nat.mod_eq_sub_mod (by omega), Nat.mod_eq_of_lt (by omega)]
    omega

theorem unsign_add_sign (f : Fmt) (p : Nat) {q : Nat} (hq : q < 2 ^ f.bits) :
    unsign f p + f.sign (q.testBit (f.eb + f.fb)) =
      p % 2 ^ (f.bits - 1) + q / 2 ^ (f.bits - 1) * 2 ^ (f.bits - 1) := by
  rw [f.sign_testBit hq, f.bits_sub_one, unsign]

theorem unsign_add_lt (f : Fmt) (p : Nat) (neg : Bool) : unsign f p + f.sign neg < 2 ^ f.bits := by
  have h1 := f.sign_le neg
  have h2 : unsign f p < 2 ^ (f.eb + f.fb) := Nat.mod_lt _ (Nat.two_pow_pos _)
  rw [f.two_pow_bits]
  omega

theorem unsign_lt (f : Fmt) (p : Nat) : unsign f p < 2 ^ f.bits :=
  Nat.lt_of_le_of_lt (Nat.le_add_right _ _) (unsign_add_lt f p false)

/-! Elements. -/

/-- MODE.TYPE is a float type. -/
theorem usual_fmtOf {t : Nat} (ht : t ∈ fltTypes) : (fmtOf t).Usual ∧ elemWidth t = (fmtOf t).bits := by
  simp only [fltTypes, List.mem_cons, List.not_mem_nil, or_false] at ht
  rcases ht with rfl | rfl | rfl <;> exact ⟨⟨by decide, by decide⟩, by decide⟩

/-- An operation on patterns whose results fit the format. -/
theorem fmtElems_onFmt (m : ModeWord) (ht : modeType m ∈ fltTypes) {f g : Fmt → Nat → Nat → Nat → Nat → Nat} {a b c x y z : DWord}
    (hlt : ∀ h : Fmt, h.Usual → ∀ r p q u, p < 2 ^ h.bits → q < 2 ^ h.bits → g h r p q u < 2 ^ h.bits)
    (hg : ∀ h : Fmt, h.Usual → ∀ r k, elem (modeType m) x k < 2 ^ h.bits → elem (modeType m) y k < 2 ^ h.bits →
      g h r (elem (modeType m) x k) (elem (modeType m) y k) (elem (modeType m) z k) =
        f h r (elem (modeType m) a k) (elem (modeType m) b k) (elem (modeType m) c k)) :
    FmtElems f m a b c (onFmt m g x y z) := by
  obtain ⟨hu, hw⟩ := usual_fmtOf ht
  have hfits : ∀ u k, elem (modeType m) u k < 2 ^ (fmtOf (modeType m)).bits := fun u k => hw ▸ elem_lt _ _ _
  intro k hk
  unfold onFmt
  rw [elem_onElems _ _ _ _ _ _ hk, ← hg _ hu _ _ (hfits x k) (hfits y k), hw]
  exact Nat.mod_eq_of_lt (hlt _ hu _ _ _ _ (hfits x k) (hfits y k))

/-- A rounded float operation: its results fit by `Fmt.round_lt`. -/
theorem fltElems_onFloats (m : ModeWord) (ht : modeType m ∈ fltTypes) {f g : Nat → FVal → FVal → FVal → FVal} {a b c x y z : DWord}
    (hg : ∀ r k, g r (elemFlt m x k) (elemFlt m y k) (elemFlt m z k) = f r (elemFlt m a k) (elemFlt m b k) (elemFlt m c k)) :
    FltElems f m a b c (onFloats m g x y z) := by
  obtain ⟨hu, hw⟩ := usual_fmtOf ht
  intro k hk
  unfold onFloats
  dsimp only
  rw [elem_onElems _ _ _ _ _ _ hk, ← hg, hw]
  exact Nat.mod_eq_of_lt (Fmt.round_lt hu _ _)

theorem typeOk_some {sh : Shape} {m : ModeWord} {ts : List Nat} (ht : sh.types = some ts) (h : sh.typeOk m = true) :
    modeType m ∈ ts := by
  simp only [Shape.typeOk, ht, Bool.and_eq_true, decide_eq_true_eq] at h
  exact h.2

/-- A rounded float instruction. -/
theorem laneWise_flt {i : Instr} {d : Reg} {f : Nat → FVal → FVal → FVal → FVal} {g : ModeWord → DWord → DWord → DWord → DWord}
    (he : ∀ s, exec i s = lanesOp i d s g)
    (hd : ∀ m l, ∃ t r, (shape i m l).dst = t :: r ∧ t.words = 1)
    (ht : ∀ m l, (shape i m l).types = some fltTypes)
    (hg : ∀ m a b c, modeType m ∈ fltTypes → FltElems f m a b c (g m a b c)) : LaneWise i d (fun _ => 1) (FltElems f) :=
  laneWise_of he hd fun m l hok a b c => hg m a b c (typeOk_some (ht m l) hok)

/-- Settles O5: each instruction is `lanesOp` of its exact value rounded element by element. -/
theorem floatArithmeticCompletes : Obligations.FloatArithmeticCompletes := by
  intro d a b
  refine ⟨laneWise_flt (exec_fadd d a b) (fun _ _ => ⟨_, _, rfl, rfl⟩) (fun _ _ => rfl) fun m _ _ _ h =>
      fltElems_onFloats m h fun _ _ => rfl,
    laneWise_flt (exec_fsub d a b) (fun _ _ => ⟨_, _, rfl, rfl⟩) (fun _ _ => rfl) fun m _ _ _ h =>
      fltElems_onFloats m h fun _ _ => rfl,
    laneWise_flt (exec_fmul d a b) (fun _ _ => ⟨_, _, rfl, rfl⟩) (fun _ _ => rfl) fun m _ _ _ h =>
      fltElems_onFloats m h fun _ _ => rfl,
    laneWise_flt (exec_fma d a b) (fun _ _ => ⟨_, _, rfl, rfl⟩) (fun _ _ => rfl) fun m _ _ _ h =>
      fltElems_onFloats m h fun _ _ => rfl,
    laneWise_flt (exec_fms d a b) (fun _ _ => ⟨_, _, rfl, rfl⟩) (fun _ _ => rfl) fun m _ _ _ h =>
      fltElems_onFloats m h fun _ _ => rfl,
    laneWise_flt (exec_fnma d a b) (fun _ _ => ⟨_, _, rfl, rfl⟩) (fun _ _ => rfl) fun m _ _ _ h =>
      fltElems_onFloats m h fun _ _ => rfl,
    laneWise_flt (exec_fdiv d a b) (fun _ _ => ⟨_, _, rfl, rfl⟩) (fun _ _ => rfl) fun m _ _ _ h =>
      fltElems_onFloats m h fun _ _ => rfl,
    laneWise_flt (exec_rcp d a) (fun _ _ => ⟨_, _, rfl, rfl⟩) (fun _ _ => rfl) fun m _ _ _ h =>
      fltElems_onFloats m h fun _ _ => rfl,
    laneWise_flt (exec_rsq d a) (fun _ _ => ⟨_, _, rfl, rfl⟩) (fun _ _ => rfl) fun m _ _ _ h =>
      fltElems_onFloats m h fun _ _ => rfl,
    laneWise_flt (exec_sqrt d a) (fun _ _ => ⟨_, _, rfl, rfl⟩) (fun _ _ => rfl) fun m _ _ _ h =>
      fltElems_onFloats m h fun _ _ => rfl⟩

/-- A float instruction on patterns. -/
theorem laneWise_fmt {i : Instr} {d : Reg} {f : Fmt → Nat → Nat → Nat → Nat → Nat} {g : ModeWord → DWord → DWord → DWord → DWord}
    (he : ∀ s, exec i s = lanesOp i d s g)
    (hd : ∀ m l, ∃ t r, (shape i m l).dst = t :: r ∧ t.words = 1)
    (ht : ∀ m l, (shape i m l).types = some fltTypes)
    (hg : ∀ m a b c, modeType m ∈ fltTypes → FmtElems f m a b c (g m a b c)) : LaneWise i d (fun _ => 1) (FmtElems f) :=
  laneWise_of he hd fun m l hok a b c => hg m a b c (typeOk_some (ht m l) hok)

theorem toNat_fdotLane (m : ModeWord) (x y z : DWord) :
    (fdotLane m x y z).toNat = fp32.round (modeRnd m) (FVal.sum (modeRnd m)
      [(elemFlt m x 0).mul (elemFlt m y 0), (elemFlt m x 1).mul (elemFlt m y 1), fp32.value (z.toNat % 2 ^ 32)]) := by
  have hlt : ∀ r v, fp32.round r v < 2 ^ 64 := fun r v =>
    Nat.lt_of_lt_of_le (Fmt.round_lt (f := fp32) ⟨by decide, by decide⟩ r v) (Nat.pow_le_pow_right (by omega) (by decide))
  unfold fdotLane
  rw [BitVec.toNat_ofNat, Nat.mod_eq_of_lt (hlt _ _)]
  rfl

/-- Settles O6: each function's result fits its format, so the element holds it. -/
theorem floatFunctionsComplete : Obligations.FloatFunctionsComplete := by
  intro d a b
  refine ⟨laneWise_fmt (exec_fmin d a b) (fun _ _ => ⟨_, _, rfl, rfl⟩) (fun _ _ => rfl) fun m _ _ _ h =>
      fmtElems_onFmt m h (fun _ hu _ _ _ _ hp hq => Fmt.least_lt hu hp hq) fun _ _ _ _ _ _ => rfl,
    laneWise_fmt (exec_fmax d a b) (fun _ _ => ⟨_, _, rfl, rfl⟩) (fun _ _ => rfl) fun m _ _ _ h =>
      fmtElems_onFmt m h (fun _ hu _ _ _ _ hp hq => Fmt.greatest_lt hu hp hq) fun _ _ _ _ _ _ => rfl,
    laneWise_fmt (exec_fabs d a) (fun _ _ => ⟨_, _, rfl, rfl⟩) (fun _ _ => rfl) fun m _ _ _ h =>
      fmtElems_onFmt m h (fun f _ _ _ _ _ _ _ => unsign_lt f _)
        fun f _ _ _ _ _ => (congrArg (_ % 2 ^ ·) f.bits_sub_one).symm,
    laneWise_fmt (exec_fneg d a) (fun _ _ => ⟨_, _, rfl, rfl⟩) (fun _ _ => rfl) fun m _ _ _ h =>
      fmtElems_onFmt m h (fun f _ _ _ _ _ _ _ => unsign_add_lt f _ _)
        fun f _ _ _ hx _ => unsign_add_sign_not f hx,
    laneWise_fmt (exec_fcps d a b) (fun _ _ => ⟨_, _, rfl, rfl⟩) (fun _ _ => rfl) fun m _ _ _ h =>
      fmtElems_onFmt m h (fun f _ _ _ _ _ _ _ => unsign_add_lt f _ _)
        fun f _ _ _ _ hy => unsign_add_sign f _ hy,
    laneWise_fmt (exec_exp2 d a) (fun _ _ => ⟨_, _, rfl, rfl⟩) (fun _ _ => rfl) fun m _ _ _ h =>
      fmtElems_onFmt m h (fun _ hu _ _ _ _ _ _ => Fmt.exp2_lt hu _ _) fun _ _ _ _ _ _ => rfl,
    laneWise_fmt (exec_log2 d a) (fun _ _ => ⟨_, _, rfl, rfl⟩) (fun _ _ => rfl) fun m _ _ _ h =>
      fmtElems_onFmt m h (fun _ hu _ _ _ _ _ _ => Fmt.log2_lt hu _ _) fun _ _ _ _ _ _ => rfl,
    laneWise_fmt (exec_sinpi d a) (fun _ _ => ⟨_, _, rfl, rfl⟩) (fun _ _ => rfl) fun m _ _ _ h =>
      fmtElems_onFmt m h (fun _ hu _ _ _ _ _ _ => Fmt.sinpi_lt hu _ _) fun _ _ _ _ _ _ => rfl,
    laneWise_fmt (exec_cospi d a) (fun _ _ => ⟨_, _, rfl, rfl⟩) (fun _ _ => rfl) fun m _ _ _ h =>
      fmtElems_onFmt m h (fun _ hu _ _ _ _ _ _ => Fmt.cospi_lt hu _ _) fun _ _ _ _ _ _ => rfl,
    laneWise_fmt (exec_tanh d a) (fun _ _ => ⟨_, _, rfl, rfl⟩) (fun _ _ => rfl) fun m _ _ _ h =>
      fmtElems_onFmt m h (fun _ hu _ _ _ _ _ _ => Fmt.tanh_lt hu _ _) fun _ _ _ _ _ _ => rfl,
    laneWise_fmt (exec_frnd d a) (fun _ _ => ⟨_, _, rfl, rfl⟩) (fun _ _ => rfl) fun m _ _ _ h =>
      fmtElems_onFmt m h (fun _ hu _ _ _ _ hp _ => Fmt.integral_lt hu _ hp) fun _ _ _ _ _ _ => rfl,
    laneWise_fmt (exec_fract d a) (fun _ _ => ⟨_, _, rfl, rfl⟩) (fun _ _ => rfl) fun m _ _ _ h =>
      fmtElems_onFmt m h (fun _ hu _ _ _ _ _ _ => Fmt.fract_lt hu _) fun _ _ _ _ _ _ => rfl,
    laneWise_fmt (exec_ldexp d a b) (fun _ _ => ⟨_, _, rfl, rfl⟩) (fun _ _ => rfl) fun m _ _ _ h =>
      fmtElems_onFmt m h (fun _ hu _ _ _ _ _ _ => Fmt.round_lt hu _ _) fun _ _ _ _ _ _ => ?ldexp,
    laneWise_fmt (exec_fclass d a) (fun _ _ => ⟨_, _, rfl, rfl⟩) (fun _ _ => rfl) fun m _ _ _ h =>
      fmtElems_onFmt m h (fun _ hu _ _ _ _ _ _ => Fmt.class_lt hu _) fun _ _ _ _ _ _ => rfl,
    laneWise_of (exec_fdot d a b) (fun _ _ => ⟨_, _, rfl, rfl⟩) fun m _ _ => toNat_fdotLane m⟩
  case ldexp =>
    exact congrArg (fun n => Fmt.round _ _ (FVal.scale _ n)) (clampInt_eq_max_min (by decide) _)

end Sys2Proof.Machine

/-! PROOFS. O7: conversions, `pack` and `unpk` (R55, R119, R120). -/
namespace Sys2Proof.Machine

/-! The placement of R119. -/

/-- The place that step j of a conversion reads or writes on a side of `n` elements. -/
def cvtPlace (n m k j : Nat) : Nat := if n < m then k * n + j else j

theorem find?_decide_eq_some {α : Type} {l : List α} {p : α → Prop} [DecidablePred p] {x : α}
    (h : l.find? (fun e => decide (p e)) = some x) : p x := by
  simpa using List.find?_some h

theorem cvtPlace_injective {n m k i j : Nat} (h : cvtPlace n m k i = cvtPlace n m k j) : i = j := by
  unfold cvtPlace at h
  split at h <;> omega

theorem mem_cvtPairs {ns nd k : Nat} {e : Nat × Nat} :
    e ∈ cvtPairs ns nd k ↔ ∃ j, j < min ns nd ∧ e = (cvtPlace (min ns nd) nd k j, cvtPlace (min ns nd) ns k j) ∧
      e.1 < nd ∧ e.2 < ns := by
  simp only [cvtPairs, List.mem_filter, List.mem_map, List.mem_range, Bool.and_eq_true, decide_eq_true_eq]
  constructor
  · rintro ⟨⟨j, hj, rfl⟩, h⟩
    exact ⟨j, hj, rfl, h⟩
  · rintro ⟨j, hj, rfl, h⟩
    exact ⟨⟨j, hj, rfl⟩, h⟩

/-- The element that a step writes comes from the element that the step reads. -/
theorem find?_cvtPairs_of_step {ns nd k j : Nat} (hj : j < min ns nd) (hs : cvtPlace (min ns nd) ns k j < ns)
    (hd : cvtPlace (min ns nd) nd k j < nd) :
    (cvtPairs ns nd k).find? (fun e => decide (e.1 = cvtPlace (min ns nd) nd k j)) =
      some (cvtPlace (min ns nd) nd k j, cvtPlace (min ns nd) ns k j) := by
  have hmem : (cvtPlace (min ns nd) nd k j, cvtPlace (min ns nd) ns k j) ∈ cvtPairs ns nd k :=
    mem_cvtPairs.2 ⟨j, hj, rfl, hd, hs⟩
  cases h : (cvtPairs ns nd k).find? (fun e => decide (e.1 = cvtPlace (min ns nd) nd k j)) with
  | none => exact absurd (decide_eq_true rfl) (List.find?_eq_none.1 h _ hmem)
  | some e =>
    have hkey := find?_decide_eq_some h
    obtain ⟨i, _, rfl, _⟩ := mem_cvtPairs.1 (List.mem_of_find?_eq_some h)
    rw [cvtPlace_injective hkey]

theorem elem_convert_of_find {m : ModeWord} {st k : Nat} {g : Nat → Nat} {a c : DWord} {di : Nat} {e : Nat × Nat}
    (hdi : di < elemCount (modeType m))
    (h : (cvtPairs (elemCount st) (elemCount (modeType m)) k).find? (fun e => decide (e.1 = di)) = some e) :
    elem (modeType m) (convert m st k g a c) di = g (elem st a e.2) % 2 ^ elemWidth (modeType m) := by
  unfold convert
  dsimp only
  rw [elem_joinElems _ _ _ _ hdi (elemBits_le _), h]

theorem elem_convert_of_no_find {m : ModeWord} {st k : Nat} {g : Nat → Nat} {a c : DWord} {di : Nat}
    (hdi : di < elemCount (modeType m))
    (h : (cvtPairs (elemCount st) (elemCount (modeType m)) k).find? (fun e => decide (e.1 = di)) = none) :
    elem (modeType m) (convert m st k g a c) di = elem (modeType m) c di := by
  unfold convert
  dsimp only
  rw [elem_joinElems _ _ _ _ hdi (elemBits_le _), h]
  exact Nat.mod_eq_of_lt (elem_lt _ _ _)

/-- A conversion puts what `g` gives of each element read into the element written, and leaves the others. -/
theorem converts_convert (m : ModeWord) (st k : Nat) {g : Nat → Nat} {P : ModeWord → Nat → Nat → Prop} (a c : DWord)
    (hg : ∀ p, p < 2 ^ elemWidth st → g p < 2 ^ elemWidth (modeType m) ∧ P m p (g p)) :
    Converts st k P m a c (convert m st k g a c) := by
  refine ⟨fun j hj hs hd => ?_, fun di hdi hno => ?_⟩
  · obtain ⟨hlt, hP⟩ := hg (elem st a (cvtPlace (min (elemCount st) (elemCount (modeType m))) (elemCount st) k j)) (elem_lt _ _ _)
    have hread := elem_convert_of_find (g := g) (a := a) (c := c) hd (find?_cvtPairs_of_step hj hs hd)
    rw [Nat.mod_eq_of_lt hlt] at hread
    exact hread ▸ hP
  · cases h : (cvtPairs (elemCount st) (elemCount (modeType m)) k).find? (fun e => decide (e.1 = di)) with
    | none => exact elem_convert_of_no_find hdi h
    | some e =>
      have hkey := find?_decide_eq_some h
      obtain ⟨j, hj, rfl, _, hs⟩ := mem_cvtPairs.1 (List.mem_of_find?_eq_some h)
      exact absurd ⟨hs, hkey.symm⟩ (hno j hj)

/-! Elements of each kind. -/

theorem toL6_lt {p : Nat} (hp : p < 2 ^ 32) : toL6 p < 2 ^ 6 := by
  unfold toL6
  dsimp only
  split
  · decide
  split
  · decide
  · have hq := wrapInt_lt 5 (((((List.range 31).map (fun i : Nat => (i : Int) - 15)).filter
      (fun q => decide (l6Tau q ≤ p % 2 ^ 31))).getLast?).getD (-15))
    have hsign : p / 2 ^ 31 < 2 := Nat.div_lt_of_lt_mul hp
    calc p / 2 ^ 31 * 32 + wrapInt 5 _ < p / 2 ^ 31 * 32 + 2 ^ 5 := Nat.add_lt_add_left hq _
      _ ≤ 2 ^ 6 := by omega

theorem toFloatElem_lt {t : Nat} (ht : t ∈ cvtTypes) (rnd : Nat) (v : FVal) : toFloatElem t rnd v < 2 ^ elemWidth t := by
  unfold toFloatElem
  split
  · rename_i h
    subst h
    exact toL6_lt (Fmt.round_lt (f := fp32) ⟨by decide, by decide⟩ _ _)
  · have hflt : t ∈ fltTypes := by
      simp only [cvtTypes, fltTypes, List.mem_cons, List.not_mem_nil, or_false] at ht ⊢
      omega
    obtain ⟨hu, hw⟩ := usual_fmtOf hflt
    rw [hw]
    exact Fmt.round_lt hu _ _

theorem clampInt_mem {lo hi : Int} (h : lo ≤ hi) (x : Int) : lo ≤ clampInt lo hi x ∧ clampInt lo hi x ≤ hi := by
  rw [clampInt_eq_max_min h]
  omega

/-- A float converted to an integer type is a number of the type (R55). -/
theorem toInt_mem_range (v : FVal) (rnd : Nat) (signed : Bool) (w : Nat) :
    intMin signed w ≤ v.toInt rnd signed w ∧ v.toInt rnd signed w ≤ intMax signed w := by
  have hle := intMin_le_intMax signed w
  unfold FVal.toInt
  split
  · exact ⟨intMin_nonpos _ _, intMax_nonneg _ _⟩
  · split
    · exact ⟨le_rfl, hle⟩
    · exact ⟨hle, le_rfl⟩
  · exact clampInt_mem hle _

/-- A number of a type, wrapped, is in the type whether it saturates or not. -/
theorem inType_wrapInt_of_mem {signed : Bool} {w : Nat} (hw : 0 < w) {x : Int} (h : intMin signed w ≤ x ∧ x ≤ intMax signed w) :
    InType true signed w x (wrapInt w x) := by
  refine ⟨wrapInt_lt _ _, ?_⟩
  rw [if_pos rfl, intVal_wrapInt hw h.1 h.2]
  omega

theorem inType_false_wrapInt (signed : Bool) (w : Nat) (x : Int) : InType false signed w x (wrapInt w x) :=
  ⟨wrapInt_lt _ _, by simpa using wrapInt_cast_emod w x⟩

/-- An integer converted to another type (R55): extended to a wider one, else wrapped or clamped. -/
theorem inType_cvtInt (dt st p : Nat) (sat : Bool) :
    InType (sat && decide (elemWidth dt ≤ elemWidth st)) (signedType dt) (elemWidth dt)
      (intVal (signedType st) (elemWidth st) p) (cvtInt dt sat st p) := by
  unfold cvtInt
  dsimp only
  split
  · rw [decide_eq_false (by omega), Bool.and_false]
    exact inType_false_wrapInt _ _ _
  · rw [decide_eq_true (by omega), Bool.and_true]
    exact inType_fitInt _ _ (elemWidth_pos _) _

theorem fieldNat_eq_div {w : Nat} (x : BitVec w) (lo n : Nat) : fieldNat x lo n = x.toNat / 2 ^ lo % 2 ^ n := by
  rw [fieldNat, Nat.shiftRight_eq_div_pow]

/-- The source element of `pack` for element i of the result (R120). -/
def packSource (t : Nat) (a b : DWord) (i : Nat) : Nat :=
  if i < elemCount t / 2 then a.toNat / 2 ^ (2 * elemWidth t * i) % 2 ^ (2 * elemWidth t)
  else b.toNat / 2 ^ (2 * elemWidth t * (i - elemCount t / 2)) % 2 ^ (2 * elemWidth t)

theorem elem_packLane (m : ModeWord) (a b : DWord) {i : Nat} (hi : i < elemCount (modeType m)) :
    elem (modeType m) (packLane m a b) i =
      (if modeType m = 5 ∨ modeType m = 6 then
        (fmtOf (modeType m)).round (modeRnd m) (fp32.value (packSource (modeType m) a b i))
      else fitInt (modeSat m) (signedType (modeType m)) (elemWidth (modeType m))
        (intVal (signedType (modeType m)) (2 * elemWidth (modeType m)) (packSource (modeType m) a b i))) := by
  unfold packLane
  dsimp only
  rw [elem_joinElems _ _ _ _ hi (elemBits_le _)]
  simp only [fieldNat_eq_div, packSource]
  split
  · rename_i ht
    obtain ⟨hu, hw⟩ := usual_fmtOf (t := modeType m) (by rcases ht with h | h <;> simp [h, fltTypes])
    rw [hw]
    exact Nat.mod_eq_of_lt (Fmt.round_lt hu _ _)
  · exact Nat.mod_eq_of_lt (fitInt_lt _ _ _ _)

/-- Half an element, extended to the whole one (R120). -/
theorem elemInt_unpkLane (m : ModeWord) (h : Nat) (a : DWord) {i : Nat} (hi : i < elemCount (modeType m)) :
    elemInt m (unpkLane m h a) i = intVal (signedType (modeType m)) (elemWidth (modeType m) / 2)
      (a.toNat / 2 ^ (16 * h + elemWidth (modeType m) / 2 * i) % 2 ^ (elemWidth (modeType m) / 2)) := by
  have hhalf : 0 < elemWidth (modeType m) / 2 := by
    unfold elemWidth
    split_ifs <;> decide
  have hread : elem (modeType m) (unpkLane m h a) i = wrapInt (elemWidth (modeType m))
      (intVal (signedType (modeType m)) (elemWidth (modeType m) / 2)
        (a.toNat / 2 ^ (16 * h + elemWidth (modeType m) / 2 * i) % 2 ^ (elemWidth (modeType m) / 2))) := by
    unfold unpkLane
    dsimp only
    rw [elem_joinElems _ _ _ _ hi (elemBits_le _), Nat.mod_eq_of_lt (wrapInt_lt _ _), fieldNat_eq_div]
  obtain ⟨hlo, hhi⟩ := intVal_mem_range (signedType (modeType m)) hhalf
    (Nat.mod_lt (a.toNat / 2 ^ (16 * h + elemWidth (modeType m) / 2 * i)) (Nat.two_pow_pos _))
  have hpow : (2 : Nat) ^ (elemWidth (modeType m) / 2) ≤ 2 ^ elemWidth (modeType m) := Nat.pow_le_pow_right (by omega) (by omega)
  have hpow' : (2 : Nat) ^ (elemWidth (modeType m) / 2 - 1) ≤ 2 ^ (elemWidth (modeType m) - 1) :=
    Nat.pow_le_pow_right (by omega) (by omega)
  rw [show elemInt m (unpkLane m h a) i = intVal _ _ (elem (modeType m) (unpkLane m h a) i) from rfl, hread]
  refine intVal_wrapInt (elemWidth_pos _) (le_trans ?_ hlo) (le_trans hhi ?_)
  · unfold intMin
    split <;> omega
  · unfold intMax
    split <;> omega

theorem laneWise_cvt {i : Instr} {d : Reg} {st k : Nat} {P : ModeWord → Nat → Nat → Prop} {g : ModeWord → Nat → Nat} {ts : List Nat}
    (he : ∀ s, exec i s = lanesOp i d s fun m x _ z => convert m st k (g m) x z)
    (hd : ∀ m l, ∃ t r, (shape i m l).dst = t :: r ∧ t.words = typeRegs m)
    (ht : ∀ m l, (shape i m l).types = some ts)
    (hg : ∀ m, modeType m ∈ ts → ∀ p, p < 2 ^ elemWidth st → g m p < 2 ^ elemWidth (modeType m) ∧ P m p (g m p)) :
    LaneWise i d typeRegs (fun m x _ z => Converts st k P m x z) :=
  laneWise_of he hd fun m l hok x _ z => converts_convert m st k x z (hg m (typeOk_some (ht m l) hok))

theorem cvtElem_spec {m : ModeWord} (ht : modeType m ∈ cvtTypes) (t : BitVec 4) {p : Nat} (hp : p < 2 ^ elemWidth t.toNat) :
    cvtElem (modeType m) (modeRnd m) t.toNat p < 2 ^ elemWidth (modeType m) ∧
      cvtElem (modeType m) (modeRnd m) t.toNat p =
        if t = 9 ∧ modeType m = 9 then p else toFloatElem (modeType m) (modeRnd m) (floatElem t.toNat p) := by
  have hnine : t.toNat = 9 ↔ t = 9 := ⟨fun h => BitVec.eq_of_toNat_eq h, fun h => h ▸ rfl⟩
  unfold cvtElem
  simp only [hnine]
  refine ⟨?_, trivial⟩
  split
  · rename_i h
    rw [h.2]
    rwa [hnine.2 h.1] at hp
  · exact toFloatElem_lt ht _ _

/-- Settles O7: `converts_convert` places the elements; each kind of element fits its type. -/
theorem conversionsComplete : Obligations.ConversionsComplete := by
  intro d a b k t h
  refine ⟨laneWise_cvt (exec_cvt d a k t) (fun _ _ => ⟨_, _, rfl, rfl⟩) (fun _ _ => rfl) fun m hm p hp =>
      cvtElem_spec hm t hp,
    laneWise_cvt (exec_cvtfi d a k t) (fun _ _ => ⟨_, _, rfl, rfl⟩) (fun _ _ => rfl) fun m _ p _ =>
      ⟨wrapInt_lt _ _, inType_wrapInt_of_mem (elemWidth_pos _) (toInt_mem_range _ _ _ _)⟩,
    laneWise_cvt (exec_cvtif d a k t) (fun _ _ => ⟨_, _, rfl, rfl⟩) (fun _ _ => rfl) fun m hm p _ => ⟨toFloatElem_lt hm _ _, rfl⟩,
    laneWise_cvt (exec_cvtii d a k t) (fun _ _ => ⟨_, _, rfl, rfl⟩) (fun _ _ => rfl) fun m _ p _ =>
      ⟨(inType_cvtInt _ _ _ _).1, inType_cvtInt _ _ _ _⟩,
    laneWise_of (exec_pack d a b) (fun _ _ => ⟨_, _, rfl, rfl⟩) fun m _ _ x y _ i hi => ?pack,
    laneWise_of (exec_unpk d a h) (fun _ _ => ⟨_, _, rfl, rfl⟩) fun m _ _ x _ _ i hi => elemInt_unpkLane m _ x hi⟩
  case pack =>
    have hread := elem_packLane m x y hi
    dsimp only
    split
    · rwa [if_pos ‹_›] at hread
    · rw [if_neg ‹_›] at hread
      rw [hread]
      exact inType_fitInt _ _ (elemWidth_pos _) _

end Sys2Proof.Machine

/-! PROOFS. O8 and O9: compares, predicate logic and selection (R121 to R124, R128). -/
namespace Sys2Proof.Machine

/-! What the static checks let through. -/

/-- A sequence that issues has passed steps 2 to 6 of R72. -/
theorem State.Issues.static {s : State} {i : Instr} {v : View} {rx : Bool} (h : s.Issues i v rx) :
    staticCause v i (shape i v.mode v.cur.lit.isSome) = none := by
  obtain ⟨_, hc⟩ := h
  unfold checkSeq at hc
  split at hc
  · cases hc
  · assumption

theorem State.Issues.wellFormed {s : State} {i : Instr} {v : View} {rx : Bool} (h : s.Issues i v rx) : i.wellFormed = true := by
  have hs := h.static
  unfold staticCause at hs
  split_ifs at hs with _ _ hf
  simp only [Bool.not_eq_true', Bool.not_eq_false, Bool.and_eq_true] at hf
  exact hf.1.1

theorem State.Issues.typeOk {s : State} {i : Instr} {v : View} {rx : Bool} (h : s.Issues i v rx) :
    (shape i v.mode v.cur.lit.isSome).typeOk v.mode = true := by
  have hs := h.static
  unfold staticCause at hs
  split_ifs at hs with _ _ _ ht
  simpa using ht

/-- An instruction that writes the results `ws` and `ps` and has no other effect. -/
theorem completes_of {i : Instr} {ws : View → Shape → List (Nat × Word)} {ps : View → Shape → List (Nat × LaneSet × LaneSet)}
    (he : ∀ s, exec i s = issue i s fun v sh s1 => (s1.result v sh (ws v sh) (ps v sh)).retire) : Completes i ws ps := by
  intro s v rx h
  exact ⟨_, (he s).trans (issue_of_issues h _), State.delivers h _ _⟩

/-! Sets of lanes. -/

theorem getLsbD_laneSet (f : Nat → Bool) {l : Nat} (hl : l < 32) : (laneSet f).getLsbD l = f l :=
  getLsbD_ofNat_bitsNat f hl

/-- An instruction that writes one predicate in its active lanes. -/
theorem predWise_of {i : Instr} {p : BitVec 3} {f : View → Shape → Nat → Bool} {P : View → Shape → Nat → Prop}
    (he : ∀ s, exec i s = predOp i p s f)
    (hP : ∀ s v rx, State.Issues s i v rx → ∀ l, f v (shape i v.mode v.cur.lit.isSome) l = true ↔ P v (shape i v.mode v.cur.lit.isSome) l) :
    PredWise i p P := by
  intro s v rx h
  refine ⟨_, laneSet (f v _), (he s).trans (issue_of_issues h _), State.delivers h _ _, fun l hl => ?_⟩
  rw [getLsbD_laneSet _ hl]
  exact hP s v rx h l

/-! Conditions. -/

/-- A flag bit is set exactly where the field is 1. -/
theorem getLsbD_zero_iff (b : BitVec 1) : b.getLsbD 0 = true ↔ b = 1 := by
  revert b
  decide

theorem eq_zero_iff_ne_one (b : BitVec 1) : b = 0 ↔ ¬b = 1 := by
  revert b
  decide

theorem overElems_iff (t : Nat) (any : BitVec 1) {f : Nat → Bool} {c : Nat → Prop} (h : ∀ k, k < elemCount t → (f k = true ↔ c k)) :
    overElems t (any.getLsbD 0) f = true ↔ overAll t any c := by
  unfold overElems overAll
  simp only [getLsbD_zero_iff]
  split
  · simp only [List.any_eq_true, List.mem_range]
    exact exists_congr fun k => and_congr_right (h k)
  · simp only [List.all_eq_true, List.mem_range]
    exact forall₂_congr h

/-- A condition code of `cmp` that is not reserved, on the order of two numbers. -/
theorem condHolds_compare_iff {cc : Nat} (hcc : cc ≤ 5) (x y : Int) : condHolds cc (some (compare x y)) = true ↔ intCond cc x y := by
  obtain h | h | h := lt_trichotomy x y
  · rw [compare_lt_iff_lt.2 h]
    interval_cases cc <;> simp [condHolds, intCond] <;> omega
  · rw [compare_eq_iff_eq.2 h]
    interval_cases cc <;> simp [condHolds, intCond] <;> omega
  · rw [compare_gt_iff_gt.2 h]
    interval_cases cc <;> simp [condHolds, intCond] <;> omega

/-- The number by which patterns of a format compare (R121): −0 equals +0. -/
def Fmt.rank (f : Fmt) (p : Nat) : Int := if p < 2 ^ (f.bits - 1) then p else 2 ^ (f.bits - 1) - (p : Int)

theorem Fmt.rank_eq (f : Fmt) {p : Nat} (hp : p < 2 ^ f.bits) :
    (if p.testBit (f.eb + f.fb) then -((p % 2 ^ (f.eb + f.fb) : Nat) : Int) else ((p % 2 ^ (f.eb + f.fb) : Nat) : Int)) = f.rank p := by
  rw [f.two_pow_bits] at hp
  have hcast : (2 : Int) ^ (f.eb + f.fb) = ((2 ^ (f.eb + f.fb) : Nat) : Int) := by norm_num
  rw [Fmt.rank, f.bits_sub_one, hcast]
  by_cases h : p < 2 ^ (f.eb + f.fb)
  · rw [Nat.testBit_lt_two_pow h, if_neg (by decide), Nat.mod_eq_of_lt h, if_pos h]
  · have hbit : p.testBit (f.eb + f.fb) = true := by
      rw [Nat.testBit_eq_decide_div_mod_eq, Nat.div_eq_of_lt_le (by omega) (by omega) (k := 1)]
      rfl
    rw [hbit, if_pos rfl, if_neg h, Nat.mod_eq_sub_mod (by omega), Nat.mod_eq_of_lt (by omega)]
    omega

/-- What `fcmp` finds of two patterns: unordered where either is a NaN. -/
theorem Fmt.compare_eq (f : Fmt) {x y : Nat} (hx : x < 2 ^ f.bits) (hy : y < 2 ^ f.bits) :
    f.compare x y = if f.value x = .nan ∨ f.value y = .nan then none else some (Ord.compare (f.rank x) (f.rank y)) := by
  unfold Fmt.compare
  simp only [FVal.isNan, Bool.or_eq_true, decide_eq_true_eq]
  split
  · rfl
  · rw [← f.rank_eq hx, ← f.rank_eq hy]
    rfl

theorem condHolds_float_iff (f : Fmt) {cc x y : Nat} (hcc : cc < 8) (hx : x < 2 ^ f.bits) (hy : y < 2 ^ f.bits) :
    condHolds cc (f.compare x y) = true ↔ fltCond cc f x y := by
  rw [f.compare_eq hx hy]
  have hcond : fltCond cc f x y = if cc = 6 then f.value x = .nan ∨ f.value y = .nan
      else if cc = 7 then ¬(f.value x = .nan ∨ f.value y = .nan)
      else if cc = 1 then (f.value x = .nan ∨ f.value y = .nan) ∨ intCond 1 (f.rank x) (f.rank y)
      else ¬(f.value x = .nan ∨ f.value y = .nan) ∧ intCond cc (f.rank x) (f.rank y) := by
    interval_cases cc <;> rfl
  rw [hcond]
  by_cases hun : f.value x = .nan ∨ f.value y = .nan
  · rw [if_pos hun]
    interval_cases cc <;> simp [condHolds, hun]
  · rw [if_neg hun]
    obtain h5 | h6 : cc ≤ 5 ∨ 5 < cc := by omega
    · rw [condHolds_compare_iff h5]
      interval_cases cc <;> simp [hun]
    · interval_cases cc <;> simp [condHolds, hun]

/-- Settles O8: the conditions by `condHolds_compare_iff` and `condHolds_float_iff`, over the elements. -/
theorem predicateWritersComplete : Obligations.PredicateWritersComplete := by
  intro any cc p pa pb z f a b
  refine ⟨predWise_of (exec_cmp any cc p a b) fun s v rx h l => overElems_iff _ _ fun k _ => condHolds_compare_iff ?cmp _ _,
    predWise_of (exec_fcmp any cc p a b) fun s v rx h l => overElems_iff _ _ fun k _ => ?fcmp,
    predWise_of (exec_tst z p a b) fun s v rx h l => ?tst,
    predWise_of (exec_plog f p pa pb) fun _ _ _ _ _ => Iff.rfl,
    completes_of (exec_pmovSet a)⟩
  case cmp => exact of_decide_eq_true h.wellFormed
  case fcmp =>
    obtain ⟨_, hw⟩ := usual_fmtOf (typeOk_some rfl h.typeOk)
    exact condHolds_float_iff _ cc.isLt (hw ▸ elem_lt _ _ _) (hw ▸ elem_lt _ _ _)
  case tst =>
    have hz := getLsbD_zero_iff z
    rw [eq_zero_iff_ne_one, ← hz]
    cases z.getLsbD 0 <;> simp

/-- A number of the type is neither wrapped nor clamped. -/
theorem intVal_fitInt (sat : Bool) {signed : Bool} {w : Nat} (hw : 0 < w) {x : Int} (hlo : intMin signed w ≤ x)
    (hhi : x ≤ intMax signed w) : intVal signed w (fitInt sat signed w x) = x := by
  have hfit : fitInt sat signed w x = wrapInt w x := by
    unfold fitInt
    split
    · rw [clampInt_eq_max_min (intMin_le_intMax signed w), min_eq_right hhi, max_eq_right hlo]
    · rfl
  rw [hfit, intVal_wrapInt hw hlo hhi]

theorem elemInt_maxEl (m : ModeWord) (x y : DWord) {k : Nat} (hk : k < elemCount (modeType m)) :
    elemInt m (maxEl m x y) k = max (elemInt m x k) (elemInt m y k) := by
  obtain ⟨hxl, hxh⟩ := elemInt_mem_range m x k
  obtain ⟨hyl, hyh⟩ := elemInt_mem_range m y k
  unfold maxEl
  rw [show elemInt m (onInts m _ x y 0) k = intVal _ _ (elem (modeType m) (onInts m _ x y 0) k) from rfl,
    elem_onInts m _ x y 0 hk]
  exact intVal_fitInt _ (elemWidth_pos _) (by omega) (by omega)

/-- The middle of three numbers, as `clamp` takes it: the greater of C and A, or B where that is less. -/
theorem intElems_clamp (m : ModeWord) (x y z : DWord) :
    IntElems (fun x y z => if (if x ≤ z then z else x) ≤ y then (if x ≤ z then z else x) else y) m x y z (minEl m (maxEl m z x) y) := by
  intro k hk
  unfold minEl
  rw [elem_onInts m _ _ _ _ hk, elemInt_maxEl m z x hk, max_comm, max_def, min_def]
  exact inType_fitInt _ _ (elemWidth_pos _) _

theorem elem_fmaxEl (m : ModeWord) (ht : modeType m ∈ fltTypes) (x y : DWord) {k : Nat} (hk : k < elemCount (modeType m)) :
    elem (modeType m) (fmaxEl m x y) k = (fmtOf (modeType m)).greatest (elem (modeType m) x k) (elem (modeType m) y k) :=
  fmtElems_onFmt m ht (a := x) (b := y) (c := 0) (f := fun f _ x y _ => f.greatest x y)
    (fun _ hu _ _ _ _ hp hq => Fmt.greatest_lt hu hp hq) (fun _ _ _ _ _ _ => rfl) k hk

theorem elem_fminEl (m : ModeWord) (ht : modeType m ∈ fltTypes) (x y : DWord) {k : Nat} (hk : k < elemCount (modeType m)) :
    elem (modeType m) (fminEl m x y) k = (fmtOf (modeType m)).least (elem (modeType m) x k) (elem (modeType m) y k) :=
  fmtElems_onFmt m ht (a := x) (b := y) (c := 0) (f := fun f _ x y _ => f.least x y)
    (fun _ hu _ _ _ _ hp hq => Fmt.least_lt hu hp hq) (fun _ _ _ _ _ _ => rfl) k hk

theorem View.selects_iff (v : View) (l : Nat) :
    v.selects l = true ↔ modeGen v.mode = false ∨ v.gang.pred (modeGpred v.mode) l ≠ v.mode.getLsbD 14 := by
  rw [View.selects, Bool.or_eq_true, Bool.not_eq_true', bne_iff_ne]

/-- Settles O9: the clamps by what their inner maximum is; the others write what their definitions say. -/
theorem selectionCompletes : Obligations.SelectionCompletes := by
  intro d a b n p
  refine ⟨?sel, laneWise_of (exec_clamp d a b) (fun _ _ => ⟨_, _, rfl, rfl⟩) fun m _ _ => intElems_clamp m,
    laneWise_fmt (exec_fclamp d a b) (fun _ _ => ⟨_, _, rfl, rfl⟩) (fun _ _ => rfl) fun m x y z ht k hk => ?fclamp,
    completes_of (exec_lid d), completes_of (exec_pmovGet d), completes_of (exec_vote d n p)⟩
  case sel =>
    simp only [← View.selects_iff]
    exact completes_of (exec_sel d a b)
  case fclamp => rw [elem_fminEl m ht _ _ hk, elem_fmaxEl m ht _ _ hk]

end Sys2Proof.Machine

/-! PROOFS. O10 and O11: reductions, scans and the sum of `red.add` (R56, R57, R125 to R127). -/
namespace Sys2Proof.Machine

theorem isNode_redNode (m : ModeWord) (o : BitVec 3) : IsNode m o (redNode m o.toNat) := by
  unfold IsNode
  intro a b
  match o.toNat with
  | 0 => exact intElems_addEl m a b 0
  | 1 => exact intElems_minEl m a b 0
  | 2 => exact intElems_maxEl m a b 0
  | 3 | 4 | _ + 5 => rfl

theorem fltElems_faddEl {m : ModeWord} (ht : modeType m ∈ fltTypes) (a b : DWord) :
    FltElems (fun r x y _ => FVal.sum r [x, y]) m a b 0 (faddEl m a b) := by
  unfold faddEl
  exact fltElems_onFloats m ht fun _ _ => rfl

theorem isFloatNode_fredNode {m : ModeWord} (ht : modeType m ∈ fltTypes) (o : BitVec 2) : IsFloatNode m o (fredNode m o.toNat) := by
  unfold IsFloatNode
  intro a b
  match o.toNat with
  | 0 => exact fltElems_faddEl ht a b
  | 1 => exact fun k hk => elem_fminEl m ht a b hk
  | _ + 2 => exact fun k hk => elem_fmaxEl m ht a b hk

theorem scanLeaf_eq (x : BitVec 1) (l : Nat) :
    scanLeaf x l = fun k => if x = 1 then decide (k < l) else decide (k ≤ l) := by
  funext k
  unfold scanLeaf
  by_cases hx : x = 1
  · rw [(getLsbD_zero_iff x).2 hx, if_pos hx, Bool.not_true, Bool.and_false, Bool.or_false]
  · rw [Bool.eq_false_iff.2 (mt (getLsbD_zero_iff x).1 hx), if_neg hx, Bool.not_false, Bool.and_true, ← Bool.decide_or]
    exact decide_eq_decide.2 (by omega)

/-- A reduction whose node is `node` completes. -/
theorem reduces_of {i : Instr} {d : Reg} {n : ModeWord → Nat} {op : ModeWord → DWord → DWord → DWord}
    {node : ModeWord → (DWord → DWord → DWord) → Prop}
    (he : ∀ s, exec i s = issue i s fun v sh s1 =>
      (s1.result v sh (v.laneResults d (n v.mode) (fun _ => v.tree sh (op v.mode) (fun _ => true))) []).retire)
    (hn : ∀ s v rx, State.Issues s i v rx → node v.mode (op v.mode)) : Reduces i d n node := by
  intro s v rx h
  exact ⟨_, op v.mode, (he s).trans (issue_of_issues h _), hn s v rx h, State.delivers h _ _⟩

/-- A scan whose node is `node` completes. -/
theorem scans_of {i : Instr} {d : Reg} {x : BitVec 1} {n : ModeWord → Nat} {op : ModeWord → DWord → DWord → DWord}
    {node : ModeWord → (DWord → DWord → DWord) → Prop}
    (he : ∀ s, exec i s = issue i s fun v sh s1 =>
      (s1.result v sh (v.laneResults d (n v.mode) (fun l => v.tree sh (op v.mode) (scanLeaf x l))) []).retire)
    (hn : ∀ s v rx, State.Issues s i v rx → node v.mode (op v.mode)) : Scans i d x n node := by
  simp only [scanLeaf_eq] at he
  intro s v rx h
  exact ⟨_, op v.mode, (he s).trans (issue_of_issues h _), hn s v rx h, State.delivers h _ _⟩

/-- Settles O10. -/
theorem reductionsAndScansComplete : Obligations.ReductionsAndScansComplete := by
  intro d a o f x
  refine ⟨reduces_of (op := fun m => redNode m o.toNat) (exec_red d a o) fun _ v _ _ => isNode_redNode v.mode o,
    reduces_of (op := fun m => fredNode m f.toNat) (exec_fred d a f) fun _ v _ h => isFloatNode_fredNode (typeOk_some rfl h.typeOk) f,
    scans_of (op := fun m => redNode m o.toNat) (exec_scan d a x o) fun _ v _ _ => isNode_redNode v.mode o,
    scans_of (op := fun m => fredNode m f.toNat) (exec_fscan d a x f) fun _ v _ h => isFloatNode_fredNode (typeOk_some rfl h.typeOk) f⟩

/-! The tree of additions. -/

/-- The numbers of the leaves, an absent leaf counting 0. -/
def leafSum (l : List (Option DWord)) : Nat := (l.map fun o => (o.getD 0).toNat).sum

/-- A level of at most one node stays as it is. -/
theorem treeLevel_of_short {α : Type} (op : α → α → α) {l : List (Option α)}
    (h : ∀ a b r, l = a :: b :: r → False) : treeLevel op l = l := by
  match l, h with
  | [], _ | [_], _ => simp only [treeLevel]
  | a :: b :: r, h => exact absurd rfl (h a b r)

theorem length_treeLevel {α : Type} (op : α → α → α) (l : List (Option α)) : (treeLevel op l).length = (l.length + 1) / 2 := by
  induction l using treeLevel.induct with
  | case1 a b r ih =>
    simp only [treeLevel, List.length_cons, ih]
    omega
  | case2 l h =>
    rw [treeLevel_of_short op h]
    match l, h with
    | [], _ | [_], _ => simp
    | a :: b :: r, h => exact absurd rfl (h a b r)

section
variable {op : DWord → DWord → DWord} {n : Nat} (hop : ∀ a b : DWord, (op a b).toNat = (a.toNat + b.toNat) % n)
include hop

/-- A level of the tree keeps the sum of its nodes modulo n. -/
theorem leafSum_treeLevel (l : List (Option DWord)) : leafSum (treeLevel op l) % n = leafSum l % n := by
  induction l using treeLevel.induct with
  | case1 a b r ih =>
    have hnode : ∀ c : Option DWord, (c.getD 0).toNat % n = ((a.getD 0).toNat + (b.getD 0).toNat) % n →
        leafSum (c :: treeLevel op r) % n = leafSum (a :: b :: r) % n := fun c hc => by
      calc leafSum (c :: treeLevel op r) % n = ((c.getD 0).toNat % n + leafSum (treeLevel op r) % n) % n := by
            rw [← Nat.add_mod]
            rfl
        _ = (((a.getD 0).toNat + (b.getD 0).toNat) % n + leafSum r % n) % n := by rw [hc, ih]
        _ = leafSum (a :: b :: r) % n := by
            rw [← Nat.add_mod, Nat.add_assoc]
            rfl
    refine hnode _ ?_
    cases a <;> cases b <;> simp [hop]
  | case2 l h => rw [treeLevel_of_short op h]

theorem treeLevel_lt {l : List (Option DWord)} (hn : 0 < n) (hl : ∀ o ∈ l, (o.getD 0).toNat < n) :
    ∀ o ∈ treeLevel op l, (o.getD 0).toNat < n := by
  induction l using treeLevel.induct with
  | case1 a b r ih =>
    have ha := hl a (by simp)
    have hb := hl b (by simp)
    refine List.forall_mem_cons.2 ⟨?_, ih fun o h => hl o (by simp [h])⟩
    cases a <;> cases b <;> simp_all [Nat.mod_lt]
  | case2 l h => rwa [treeLevel_of_short op h]

/-- The root of a tree of additions is the sum of its leaves modulo n. -/
theorem toNat_treeRoot (hn : 0 < n) : ∀ (k : Nat) (l : List (Option DWord)), l.length ≤ 2 ^ k → (∀ o ∈ l, (o.getD 0).toNat < n) →
    ((treeRoot op k l).getD 0).toNat = leafSum l % n := by
  intro k
  induction k with
  | zero =>
    intro l hlen hl
    match l, hlen with
    | [], _ => simp [treeRoot, leafSum]
    | [o], _ =>
      have := hl o (by simp)
      simp only [treeRoot, leafSum, List.head?_cons, Option.join_some, List.map_cons, List.map_nil, List.sum_cons, List.sum_nil, Nat.add_zero]
      exact (Nat.mod_eq_of_lt this).symm
  | succ k ih =>
    intro l hlen hl
    rw [treeRoot, ih (treeLevel op l) ?_ (treeLevel_lt hop hn hl), leafSum_treeLevel hop]
    rw [length_treeLevel]
    rw [Nat.pow_succ] at hlen
    omega

end

theorem intVal_emod (signed : Bool) (w p : Nat) : intVal signed w p % ((2 ^ w : Nat) : Int) = (p : Int) % ((2 ^ w : Nat) : Int) := by
  unfold intVal
  split
  · exact Int.sub_emod_right _ _
  · rfl

/-- A result of one element is that element. -/
theorem toNat_onElems_one {t : Nat} (hc : elemCount t = 1) (f : Nat → Nat → Nat → Nat) (a b c : DWord) :
    (onElems t f a b c).toNat = elem t (onElems t f a b c) 0 := by
  have hle : elemWidth t ≤ 64 := by
    have := elemBits_le t
    rwa [hc, Nat.mul_one] at this
  rw [elem_onElems _ _ _ _ _ _ (by omega), onElems, joinElems, hc, BitVec.toNat_ofNat]
  simp only [List.range_one, List.map_cons, List.map_nil, List.sum_cons, List.sum_nil, Nat.mul_zero, Nat.pow_zero, Nat.mul_one,
    Nat.add_zero]
  exact Nat.mod_eq_of_lt (Nat.lt_of_lt_of_le (Nat.mod_lt _ (Nat.two_pow_pos _)) (Nat.pow_le_pow_right (by omega) hle))

/-- The addition of a node under a 32-bit type without saturation. -/
theorem toNat_addEl {m : ModeWord} (ht : modeType m = 0 ∨ modeType m = 1) (hs : modeSat m = false) (a b : DWord) :
    (addEl m a b).toNat = (a.toNat + b.toNat) % 2 ^ 32 := by
  have hc : elemCount (modeType m) = 1 := by rcases ht with h | h <;> rw [h] <;> rfl
  have hw : elemWidth (modeType m) = 32 := by rcases ht with h | h <;> rw [h] <;> rfl
  have hread : ∀ x : DWord, elem (modeType m) x 0 = x.toNat % 2 ^ 32 := fun x => by
    rw [elem, fieldNat_eq_div, hw, Nat.mul_zero, Nat.pow_zero, Nat.div_one]
  have hone : (addEl m a b).toNat = elem (modeType m) (addEl m a b) 0 := toNat_onElems_one hc _ _ _ _
  have ha : elemInt m a 0 = intVal (signedType (modeType m)) 32 (a.toNat % 2 ^ 32) := by rw [elemInt, hw, hread]
  have hb : elemInt m b 0 = intVal (signedType (modeType m)) 32 (b.toNat % 2 ^ 32) := by rw [elemInt, hw, hread]
  have hsum := wrapInt_cast_emod 32 (elemInt m a 0 + elemInt m b 0)
  have hlt := wrapInt_lt 32 (elemInt m a 0 + elemInt m b 0)
  rw [hone, addEl, elem_onInts m _ _ _ _ (by omega), fitInt, hs, if_neg (by decide), hw]
  rw [Int.add_emod, ha, hb, intVal_emod, intVal_emod, ← Int.add_emod, ← ha, ← hb] at hsum
  generalize wrapInt 32 (elemInt m a 0 + elemInt m b 0) = r at hsum hlt
  omega

theorem toNat_opA_lt {v : View} {sh : Shape} {sl : Slot} (ha : sh.a = some sl) (hw : sl.words = 1) (l : Nat) :
    (v.opA sh l).toNat < 2 ^ 32 := by
  have hlist : (List.range 1).map (v.slotWord sl v.cur.routeA l) = [v.slotWord sl v.cur.routeA l 0] := rfl
  unfold View.opA View.slotWords
  rw [ha]
  dsimp only
  rw [hw, hlist, dwordOf, BitVec.toNat_setWidth]
  have := (v.slotWord sl v.cur.routeA l 0).isLt
  omega

/-- Settles O11: the tree of `addEl` is the sum modulo 2^32. -/
theorem reduceAddIsTheSum : Obligations.ReduceAddIsTheSum := by
  intro d a s v rx h ht hs
  have hw : typeWords (modeType v.mode) = 1 := by rcases ht with h | h <;> rw [h] <;> rfl
  have hwords : v.words = 1 := hw
  refine ⟨_, v.tree (shape (.red d a 0) v.mode v.cur.lit.isSome) (redNode v.mode 0) (fun _ => true),
    (exec_red d a 0 s).trans (issue_of_issues h _), hwords ▸ State.delivers h _ _, ?_⟩
  have hleaf : ∀ o ∈ leavesOf v (shape (.red d a 0) v.mode v.cur.lit.isSome) (fun _ => true), (o.getD 0).toNat < 2 ^ 32 := by
    intro o ho
    obtain ⟨l, _, rfl⟩ := List.mem_map.1 ho
    split
    · exact toNat_opA_lt rfl hw l
    · exact Nat.two_pow_pos 32
  have hroot := toNat_treeRoot (op := redNode v.mode 0) (toNat_addEl ht hs) (Nat.two_pow_pos 32) 5 _ (by simp [leavesOf]) hleaf
  refine hroot.trans (congrArg (· % 2 ^ 32) ?_)
  rw [leafSum, leavesOf, List.map_map]
  refine congrArg List.sum (List.map_congr_left fun l _ => ?_)
  dsimp only [Function.comp]
  rw [Bool.and_true]
  split <;> rfl

end Sys2Proof.Machine

/-! PROOFS. O12, O13, O14 and O17: branches, structured divergence, loops and the writers of MODE (R86 to R92). -/
namespace Sys2Proof.Machine

/-! Branches and calls. -/

/-- A branch that some slices take: the others advance. -/
theorem sliceWise_of_branch_or_advance {i : Instr} {t : View → PC} {taken : View → Nat → Bool} {P : View → Nat → Prop}
    [∀ v k, Decidable (P v k)] (he : ∀ s, exec i s = issue i s fun v _ s1 => s1.branch (t v) (taken v))
    (hP : ∀ v k, P v k ↔ taken v k = true) :
    SliceWise i (fun _ _ => True) (fun v _ k => if P v k then take (t v) else advance v) := by
  refine sliceWise_of_moved he fun s v rx h _ => ⟨_, rfl, fun k _ _ => ?_⟩
  obtain ⟨_, hcur⟩ := State.view?_eq h.1
  obtain ⟨_, _, hissued, _⟩ := State.issued_spec i rx h.1
  funext sl
  simp only [hP, hissued, ← hcur]
  split <;> rfl

theorem exec_call_eq {s : State} {v : View} {rx : Bool} (j : BitVec 24) (h : s.Issues (.call j) v rx) :
    exec (.call j) s = .next (((s.issued v (.call j) rx).writeLink v).jump fun _ => v.cur.iaddr + j.signExtend 55) :=
  (exec_call j s).trans (issue_of_issues h _)

theorem exec_brrL_eq {s : State} {v : View} {rx : Bool} (a : Reg) (h : s.Issues (.brrL a) v rx) :
    exec (.brrL a) s = .next (((s.issued v (.brrL a) rx).writeLink v).jump (v.pairPc (shape (.brrL a) v.mode v.cur.lit.isSome))) :=
  (exec_brrL a s).trans (issue_of_issues h _)

/-- Settles O12: branches slice by slice; calls are `writeLink` and a jump. -/
theorem branchesAndCallsComplete : Obligations.BranchesAndCallsComplete :=
  ⟨fun n p i j a => ⟨sliceWise_nop, sliceWise_bra j,
      sliceWise_of_branch_or_advance (exec_bany n p i) fun v k => v.voters_ne_zero_iff p n k,
      sliceWise_of_branch_or_advance (exec_ball n p i) fun v k => v.voters_eq_lanes4_iff p n k,
      sliceWise_brr a, sliceWise_of_moved (exec_ret a) fun _ _ _ _ _ => ⟨_, rfl, fun _ _ _ => rfl⟩⟩,
    fun j a _ _ _ => ⟨exec_call_eq j, exec_brrL_eq a⟩⟩

/-! Instructions that check a stack of every slice first. -/

theorem mem_slicesOf {m : SliceSet} {n : Nat} : n ∈ slicesOf m ↔ n < 8 ∧ m.getLsbD n = true := by
  simp [slicesOf]

theorem View.anySlice_iff_not_all (v : View) {bad : Slice → Bool} {good : Slice → Prop} (hbad : ∀ sl, bad sl = true ↔ ¬good sl) :
    v.anySlice bad = true ↔ ¬v.all good := by
  simp only [View.anySlice, View.all, List.any_eq_true, mem_slicesOf, hbad]
  push Not
  exact exists_congr fun n => and_assoc

section
variable {i : Instr} {bad : Slice → Bool} {good : Slice → Prop} {trap : View → Shape → State → State}
  {g : View → Shape → Nat → Slice → Slice}
  (he : ∀ s, exec i s = issueChecked i s fun v sh s1 go =>
    if v.anySlice bad then trap v sh s1 else (go s1).moved (g v sh))
  (hbad : ∀ sl, bad sl = true ↔ ¬good sl)
include he hbad

/-- Where every slice of the group is as it has to be, the slices change by `g`. -/
theorem sliceWise_of_checked {f : View → Shape → Nat → Slice → Slice} (hf : ∀ v sh n, g v sh n = f v sh n) :
    SliceWise i (fun v _ => v.all good) f := by
  intro s v rx h hok
  refine ⟨_, (he s).trans (issueChecked_of_issues h _), ?_⟩
  rw [if_neg (mt (v.anySlice_iff_not_all hbad).1 (not_not.2 hok))]
  exact (State.moves h _).congr fun n _ _ => hf _ _ n

/-- Where some slice is not, the group traps. -/
theorem exec_of_failed_check {s : State} {v : View} {rx : Bool} (h : s.Issues i v rx) (hno : ¬v.all good) :
    exec i s = .next (trap v (shape i v.mode v.cur.lit.isSome) s) := by
  rw [he s, issueChecked_of_issues h, if_pos ((v.anySlice_iff_not_all hbad).2 hno)]

end

theorem full_rstack_iff (sl : Slice) : decide (16 ≤ sl.rstack.length) = true ↔ ¬sl.rstack.length < 16 := by
  rw [decide_eq_true_eq, Nat.not_lt]

theorem full_lstack_iff (sl : Slice) : decide (4 ≤ sl.lstack.length) = true ↔ ¬sl.lstack.length < 4 := by
  rw [decide_eq_true_eq, Nat.not_lt]

theorem empty_rstack_iff (sl : Slice) : decide (sl.rstack = []) = true ↔ ¬sl.rstack ≠ [] := by
  rw [decide_eq_true_eq, not_not]

theorem empty_lstack_iff (sl : Slice) : decide (sl.lstack = []) = true ↔ ¬sl.lstack ≠ [] := by
  rw [decide_eq_true_eq, not_not]

/-- The entry on top is missing, or belongs to a path already turned (R88). -/
def Slice.noElse (sl : Slice) : Bool := match sl.rstack with | e :: _ => e.phase | [] => true

theorem Slice.noElse_iff (sl : Slice) : sl.noElse = true ↔ ¬∃ e r, sl.rstack = e :: r ∧ e.phase = false := by
  unfold Slice.noElse
  split
  · rename_i e r h
    simp [h]
  · rename_i h
    simp [h]

/-- Settles O13: each instruction checks its stack, then moves its slices. -/
theorem divergenceCompletes : Obligations.DivergenceCompletes := by
  intro n p i
  have hif := exec_ifP n p i
  have helse : ∀ s, exec (.elseP i) s = issueChecked (.elseP i) s fun v sh s1 go =>
      if v.anySlice Slice.noElse then s1.trapNow 0x14 0 (v.tlanes sh) 0
      else (go s1).moved _ := fun s => exec_elseP i s
  refine ⟨sliceWise_of_checked hif full_rstack_iff fun v sh k => ?_, sliceWise_of_checked helse Slice.noElse_iff fun v sh k => ?_,
    sliceWise_of_checked exec_endif empty_rstack_iff fun v sh k => ?_,
    fun _ _ _ h hno => exec_of_failed_check hif full_rstack_iff h hno,
    fun _ _ _ h hno => exec_of_failed_check helse Slice.noElse_iff h hno,
    fun _ _ _ h hno => exec_of_failed_check exec_endif empty_rstack_iff h hno⟩
  · rfl
  · funext sl
    obtain ⟨_, _, _, _, _ | ⟨e, r⟩, _, _⟩ := sl <;> rfl
  · funext sl
    obtain ⟨_, _, _, _, _ | ⟨e, r⟩, _, _⟩ := sl <;> rfl

/-- Settles O14: `loop` and `loopr` are `pushLoop` with a count for each slice. -/
theorem loopsComplete : Obligations.LoopsComplete := by
  intro c d i enter
  have hloop := exec_loop c i
  have hloopr := exec_loopr d i
  refine ⟨sliceWise_of_checked hloop full_lstack_iff fun v sh k => ?_, sliceWise_of_checked hloopr full_lstack_iff fun v sh k => ?_,
    sliceWise_of_checked exec_lbrk empty_lstack_iff fun v sh k => ?_,
    fun _ _ _ h hno => exec_of_failed_check hloop full_lstack_iff h hno,
    fun _ _ _ h hno => exec_of_failed_check hloopr full_lstack_iff h hno,
    fun _ _ _ h hno => exec_of_failed_check exec_lbrk empty_lstack_iff h hno⟩
  · rfl
  · rfl
  · funext sl
    obtain ⟨_, _, _, _, _, _ | ⟨e, r⟩, _⟩ := sl <;> rfl

/-! The writers of MODE. -/

/-- An instruction that completes and then changes each slice by `f`. -/
theorem sliceWise_of_retireWith {i : Instr} {f : Slice → Slice} {g : View → Shape → Nat → Slice → Slice}
    (he : ∀ s, exec i s = issue i s fun _ _ s1 => s1.retireWith f) (hf : ∀ v sh n sl, f (advance v sl) = g v sh n sl) :
    SliceWise i (fun _ _ => True) g := by
  refine sliceWise_of_moved he fun s v rx h _ => ⟨_, rfl, fun k _ _ => ?_⟩
  obtain ⟨_, hcur⟩ := State.view?_eq h.1
  obtain ⟨_, _, hissued, _⟩ := State.issued_spec i rx h.1
  funext sl
  rw [← hf, hissued, ← hcur]
  rfl

/-- A field of MODE written, as the bits above it, the field and the bits below it. -/
theorem setField_mode_eq_append (m : ModeWord) (lo n : Nat) (x : BitVec n) (h : 16 - (lo + n) + n + lo = 16) :
    setField m lo n x.toNat = (m.extractLsb' (lo + n) (16 - (lo + n)) ++ x ++ m.extractLsb' 0 lo).cast h := by
  refine BitVec.eq_of_getLsbD_eq fun j hj => ?_
  rw [getLsbD_setField _ _ _ _ _ hj, BitVec.testBit_toNat, BitVec.getLsbD_cast, BitVec.getLsbD_append, BitVec.getLsbD_append,
    BitVec.getLsbD_extractLsb', BitVec.getLsbD_extractLsb']
  obtain hlow | hin | hhigh : j < lo ∨ (lo ≤ j ∧ j < lo + n) ∨ lo + n ≤ j := by omega
  · rw [if_neg (by omega), if_pos hlow, decide_eq_true hlow, Bool.true_and, Nat.zero_add]
  · rw [if_pos hin, if_neg (by omega), if_pos (by omega)]
  · rw [if_neg (by omega), if_neg (by omega), if_neg (by omega), decide_eq_true (by omega), Bool.true_and]
    congr 1
    omega

theorem modeGuard_eq (m : ModeWord) (g n : BitVec 1) (p : BitVec 3) :
    modeGuard m (g.getLsbD 0) (n.getLsbD 0) p = g ++ n ++ p ++ m.extractLsb' 0 11 := by
  have hbit : ∀ b : BitVec 1, BitVec.ofBool (b.getLsbD 0) = b := by decide
  rw [modeGuard, hbit, hbit]

/-- Settles O17. -/
theorem modeWritersComplete : Obligations.ModeWritersComplete := fun i t r p g n =>
  ⟨sliceWise_of_retireWith (exec_mode i) fun _ _ _ _ => rfl,
    sliceWise_of_retireWith (exec_mtype t) fun v _ _ sl => congrArg (fun m => { advance v sl with mode := m }) (setField_mode_eq_append _ 7 4 t rfl),
    sliceWise_of_retireWith (exec_mrnd r) fun v _ _ sl => congrArg (fun m => { advance v sl with mode := m }) (setField_mode_eq_append _ 4 3 r rfl),
    sliceWise_of_retireWith (exec_mguard g n p) fun v _ _ sl =>
      congrArg (fun m => { advance v sl with mode := m }) (modeGuard_eq _ g n p)⟩

end Sys2Proof.Machine

/-! PROOFS. O18, O19 and O21: special registers, traps and ends of a gang that a program asks for (R93 to R101). -/
namespace Sys2Proof.Machine

/-! What the issue of a sequence leaves. -/

theorem State.Issues.cur {s : State} {i : Instr} {v : View} {rx : Bool} (h : s.Issues i v rx) : v.cur = s.cur :=
  (State.view?_eq h.1).2

theorem State.Issues.gang {s : State} {i : Instr} {v : View} {rx : Bool} (h : s.Issues i v rx) :
    s.gang? s.cur.gang = some v.gang :=
  (State.view?_eq h.1).1

theorem State.issued_cur {s : State} {i : Instr} {v : View} {rx : Bool} (h : s.Issues i v rx) : (s.issued v i rx).cur = s.cur :=
  (State.issued_spec i rx h.1).2.2.1

/-- The issuing gang once its sequence has issued: GSTAT.RX may be set (R27). -/
def View.issuedGang (v : View) (rx : Bool) : Gang := { v.gang with rx := v.gang.rx || rx }

@[simp] theorem View.issuedGang_gid (v : View) (rx : Bool) : (v.issuedGang rx).gid = v.gang.gid := rfl
@[simp] theorem View.issuedGang_rx (v : View) (rx : Bool) : (v.issuedGang rx).rx = (v.gang.rx || rx) := rfl
@[simp] theorem View.issuedGang_slice (v : View) (rx : Bool) (n : Nat) : (v.issuedGang rx).slice n = v.gang.slice n := rfl
@[simp] theorem View.issuedGang_live (v : View) (rx : Bool) (n : Nat) : (v.issuedGang rx).live n = v.gang.live n := rfl
@[simp] theorem View.issuedGang_liveSet (v : View) (rx : Bool) : (v.issuedGang rx).liveSet = v.gang.liveSet := rfl
@[simp] theorem View.issuedGang_groups (v : View) (rx : Bool) : (v.issuedGang rx).groups = v.gang.groups := rfl

theorem State.issued_gang {s : State} {i : Instr} {v : View} {rx : Bool} (h : s.Issues i v rx) :
    (s.issued v i rx).gang? s.cur.gang = some (v.issuedGang rx) :=
  (State.issued_spec i rx h.1).2.2.2

theorem State.issued_onlyGang {s : State} {i : Instr} {v : View} {rx : Bool} (h : s.Issues i v rx) :
    s.OnlyGang (s.issued v i rx) s.cur.gang :=
  (State.issued_spec i rx h.1).1

theorem State.issued_die {s : State} {i : Instr} {v : View} {rx : Bool} (h : s.Issues i v rx) (d : Nat) :
    (s.issued v i rx).die d = s.die d := by
  rw [(State.issued_onlyGang h).rest]
  rfl

/-! `mfs` and `mts`. -/

section
variable {s : State} {v : View} {rx : Bool} {d : Reg} {sr : BitVec 10}

theorem exec_mfs_readable (h : s.Issues (.mfs d sr) v rx) (hl : srReadLevel sr.toNat ≤ v.core.level v.gang) :
    ∃ t, exec (.mfs d sr) s = .next t ∧ s.Delivers t v (shape (.mfs d sr) v.mode v.cur.lit.isSome) rx (v.laneResults d 1 fun l =>
      (s.srRead v.cur.gang v.gang sr.toNat (if isUniform d then v.gang.lead v.cur.slices else l / 4) l).setWidth 64) [] := by
  refine ⟨_, (exec_mfs d sr s).trans (issueChecked_of_issues h _), ?_⟩
  rw [if_neg (by omega)]
  exact State.delivers h _ _

theorem exec_mfs_privileged (h : s.Issues (.mfs d sr) v rx) (hl : v.core.level v.gang < srReadLevel sr.toNat) :
    exec (.mfs d sr) s = .next (s.trapNow 0x05 0 0 0) := by
  rw [exec_mfs, execMfs, issueChecked_of_issues h, if_pos hl]

theorem exec_mts_privileged (h : s.Issues (.mts d sr) v rx) (hl : v.core.level v.gang < srWriteLevel sr.toNat) :
    exec (.mts d sr) s = .next (s.trapNow 0x05 0 0 0) := by
  rw [exec_mts, execMts, issueChecked_of_issues h, if_pos hl]

theorem exec_mts_inactive (h : s.Issues (.mts d sr) v rx) (hl : srWriteLevel sr.toNat ≤ v.core.level v.gang)
    (hd : isVector d = true ∧ v.act = 0) : ∃ t, exec (.mts d sr) s = .next t ∧ s.Moves t v rx (fun _ => advance v) := by
  refine ⟨_, (exec_mts d sr s).trans (issueChecked_of_issues h _), ?_⟩
  rw [if_neg (by omega), if_pos hd, State.issued_retire h]
  exact State.moves h _

theorem exec_mts_done (h : s.Issues (.mts d sr) v rx) (hl : srWriteLevel sr.toNat ≤ v.core.level v.gang)
    (hd : ¬(isVector d = true ∧ v.act = 0)) {u : State} (hr : (s.issued v (.mts d sr) rx).srWrite v sr.toNat
      ((v.opC (shape (.mts d sr) v.mode v.cur.lit.isSome) (((lanesOf v.act).head?).getD 0)).setWidth 32) = .done u) :
    exec (.mts d sr) s = .next u.retire := by
  rw [exec_mts, execMts, issueChecked_of_issues h, if_neg (by omega), if_neg hd]
  dsimp only
  rw [hr]

theorem exec_mts_refused (h : s.Issues (.mts d sr) v rx) (hl : srWriteLevel sr.toNat ≤ v.core.level v.gang)
    (hd : ¬(isVector d = true ∧ v.act = 0)) {c : BitVec 8} (hr : (s.issued v (.mts d sr) rx).srWrite v sr.toNat
      ((v.opC (shape (.mts d sr) v.mode v.cur.lit.isSome) (((lanesOf v.act).head?).getD 0)).setWidth 32) = .trap c) :
    exec (.mts d sr) s = .next (s.trapNow c 0 0 0) := by
  rw [exec_mts, execMts, issueChecked_of_issues h, if_neg (by omega), if_neg hd]
  dsimp only
  rw [hr]

end

/-- Settles O18: below its level each traps; above it `mfs` delivers and `mts` ends as its write does. -/
theorem specialRegisterMovesComplete : Obligations.SpecialRegisterMovesComplete := fun _ _ =>
  ⟨fun _ _ _ h hl => exec_mfs_readable h hl, fun _ _ _ h hl => exec_mfs_privileged h hl,
    fun _ _ _ h hl => exec_mts_privileged h hl, fun _ _ _ h hl hd ha => exec_mts_inactive h hl ⟨hd, ha⟩,
    fun _ _ _ _ h hl hd hr => exec_mts_done h hl hd hr, fun _ _ _ _ h hl hd hr => exec_mts_refused h hl hd hr⟩

/-! What the special registers read as. -/

theorem toNat_append_eq {m n : Nat} (x : BitVec m) (y : BitVec n) : (x ++ y).toNat = x.toNat * 2 ^ n + y.toNat := by
  rw [BitVec.toNat_append, ← Nat.shiftLeft_add_eq_or_of_lt y.isLt, Nat.shiftLeft_eq]

/-- The two halves of a register pair are the number. -/
theorem high_append_low {w : Nat} (x : BitVec w) :
    ((x >>> 32).setWidth 32 ++ x.setWidth 32 : BitVec 64) = x.setWidth 64 := by
  refine BitVec.eq_of_getLsbD_eq fun j hj => ?_
  rw [BitVec.getLsbD_append, BitVec.getLsbD_setWidth, BitVec.getLsbD_setWidth, BitVec.getLsbD_setWidth, BitVec.getLsbD_ushiftRight,
    decide_eq_true hj, Bool.true_and]
  split
  · rw [decide_eq_true ‹_›, Bool.true_and]
  · rw [decide_eq_true (by omega), Bool.true_and]
    congr 1
    omega

theorem lmask_eq (sl : Slice) : sl.lmask =
    BitVec.ofNat 32 (sl.mask.toNat + 16 * (sl.rstack.length % 32) + 512 * (sl.lstack.length % 8)) := by
  refine BitVec.eq_of_toNat_eq ?_
  have := sl.mask.isLt
  rw [Slice.lmask, BitVec.toNat_ofNat]
  simp only [toNat_append_eq, BitVec.toNat_ofNat]
  omega

theorem placeWord_eq (mid core : Nat) : placeWord mid core =
    BitVec.ofNat 32 (core % 8 + 16 * (core % 96 / 8 % 16) + 256 * (core / 96 % 4) + 1024 * (mid % 16)) := by
  refine BitVec.eq_of_toNat_eq ?_
  rw [placeWord, BitVec.toNat_ofNat]
  simp only [toNat_append_eq, BitVec.toNat_ofNat, dieOf, clusterOf, coreOf]
  omega

theorem extractLsb'_gstat (x : Gang) : x.gstat.extractLsb' 16 8 = x.liveSet := by
  refine BitVec.eq_of_getLsbD_eq fun j hj => ?_
  unfold Gang.gstat
  rw [BitVec.getLsbD_extractLsb', decide_eq_true hj, Bool.true_and]
  iterate 7 rw [BitVec.getLsbD_append, if_neg (by omega)]
  rw [BitVec.getLsbD_append, if_pos (by omega)]
  congr 1
  omega

theorem getLsbD_gstat_lost (x : Gang) : x.gstat.getLsbD 2 = x.lost := by
  unfold Gang.gstat
  simp only [BitVec.getLsbD_append, Nat.reduceLT, Nat.reduceSub, if_true, if_false, BitVec.getLsbD_ofBool, decide_true, Bool.true_and]

theorem getLsbD_gstat_rx (x : Gang) : x.gstat.getLsbD 0 = x.rx := by
  unfold Gang.gstat
  simp only [BitVec.getLsbD_append, Nat.reduceLT, Nat.reduceSub, if_true, BitVec.getLsbD_ofBool, decide_true, Bool.true_and]

/-- Settles O19: each number names one register of `srRead`. -/
theorem specialRegisterContents : Obligations.SpecialRegisterContents := by
  intro s g x k l _
  simp only [State.srRead, Nat.reduceEqDiff, OfNat.ofNat_ne_zero, OfNat.ofNat_ne_one, one_ne_zero, if_true, if_false]
  exact ⟨trivial, lmask_eq _, trivial, trivial, placeWord_eq _ _, trivial, trivial, high_append_low _, trivial, high_append_low _,
    high_append_low _, trivial, trivial, extractLsb'_gstat x, getLsbD_gstat_lost x, getLsbD_gstat_rx x⟩

/-! Traps and ends. -/

/-- A trap that a completed sequence raises (R99). -/
theorem State.trapAfter_issued {s : State} {i : Instr} {v : View} {rx : Bool} (h : s.Issues i v rx) (cause : BitVec 8) (info : BitVec 16) :
    (s.issued v i rx).trapAfter cause info = (s.issued v i rx).raise s.cur.gang
      { cause := cause, info := info, slices := v.cur.slices, addr := v.cur.addr, taddr := 0, tlanes := 0, bu := false,
        next := some v.cur.next, cycle := some (s.die (dieOf s.cur.gang.core)).cyc } := by
  rw [State.trapAfter, State.issued_cur h, State.issued_die h, h.cur]

theorem State.endNow_issued {s : State} {i : Instr} {v : View} {rx : Bool} (h : s.Issues i v rx) (cause : BitVec 8) (info : BitVec 16) :
    (s.issued v i rx).endNow cause info = (s.issued v i rx).fatal s.cur.gang cause
      (setField (setField v.gang.trap.tcause 16 16 info.toNat) 0 8 cause.toNat) v.cur.addr v.gang.trap.taddr := by
  have hme : (s.issued v i rx).me? = some (v.issuedGang rx) := by
    rw [State.me?, State.issued_cur h, State.issued_gang h]
  unfold State.endNow
  rw [hme]
  dsimp only
  rw [State.issued_cur h, h.cur]
  rfl

theorem exec_brk_eq {s : State} {v : View} {rx : Bool} {i : BitVec 16} (h : s.Issues (.brk i) v rx) :
    exec (.brk i) s = .next (match (s.issued v (.brk i) rx).crewOf s.cur.gang.core v.gang with
      | some c =>
        if c.attached then ((s.issued v (.brk i) rx).trigger c
          { cycle := (s.die (dieOf s.cur.gang.core)).cyc, why := 2, wp := 0, gang := some s.cur.gang,
            seq := some v.gang.seqs, pc := v.cur.addr, addr := 0 }).retire
        else (s.issued v (.brk i) rx).trapAfter 0x07 i
      | none => (s.issued v (.brk i) rx).trapAfter 0x07 i) := by
  rw [exec_brk, execBrk, issue_of_issues h, State.issued_die h, h.cur] <;> rfl

/-- The cause held before, as INFO (R101). -/
theorem toNat_cause (w : Word) : ((w.setWidth 8).setWidth 16).toNat = fieldNat w 0 8 := by
  simp only [BitVec.toNat_setWidth, fieldNat, Nat.shiftRight_zero]
  omega

/-- Settles O21. -/
theorem trapInstructionsComplete : Obligations.TrapInstructionsComplete := by
  intro i n s v rx entry
  refine ⟨fun h => ?trap, fun h hc => ?crewless, fun c h hc ha => ?detached, fun c h hc ha => ?attached, fun h => ?kill, fun h => ?abort⟩
  case trap => rw [exec_trap, execTrap, issue_of_issues h, State.trapAfter_issued h]
  case crewless => rw [exec_brk_eq h, hc, State.trapAfter_issued h]
  case detached =>
    rw [exec_brk_eq h, hc]
    dsimp only
    rw [ha, if_neg Bool.false_ne_true, State.trapAfter_issued h]
  case attached =>
    rw [exec_brk_eq h, hc]
    dsimp only
    rw [if_pos ha]
  case kill =>
    rw [exec_sysKill, execSysKill, issue_of_issues h, State.endNow_issued h, toNat_cause]
    rfl
  case abort =>
    rw [exec_sysAbort, execSysAbort, issue_of_issues h, State.endNow_issued h,
    BitVec.toNat_setWidth, Nat.mod_eq_of_lt (by omega)]
    rfl

end Sys2Proof.Machine

/-! PROOFS. O20: rejoining, ending and pausing (R25, R91). -/
namespace Sys2Proof.Machine

/-! Sets of slices. -/

theorem getLsbD_sliceSet (f : Nat → Bool) {n : Nat} (hn : n < 8) : (sliceSet f).getLsbD n = f n :=
  getLsbD_ofNat_bitsNat f hn

theorem Gang.getLsbD_liveSet (x : Gang) {n : Nat} (hn : n < 8) : x.liveSet.getLsbD n = x.live n :=
  getLsbD_sliceSet x.live hn

theorem Gang.mem_slicesOf_liveSet (x : Gang) {n : Nat} : n ∈ slicesOf x.liveSet ↔ n < 8 ∧ x.live n = true := by
  rw [mem_slicesOf]
  exact and_congr_right fun hn => by rw [x.getLsbD_liveSet hn]

theorem setOfSlices_slicesOf (m : SliceSet) : setOfSlices (slicesOf m) = m := by
  refine BitVec.eq_of_getLsbD_eq fun n hn => ?_
  rw [setOfSlices, getLsbD_sliceSet _ hn]
  simp [mem_slicesOf, hn]

theorem sliceSet_congr {f g : Nat → Bool} (h : ∀ n, n < 8 → f n = g n) : sliceSet f = sliceSet g :=
  (ofNat_bitsNat_eq_iff f g 8).2 h

theorem slicesOf_ne_nil {m : SliceSet} (h : m ≠ 0) : slicesOf m ≠ [] := by
  intro hnil
  refine h (BitVec.eq_of_getLsbD_eq fun n hn => ?_)
  have hnot : n ∉ slicesOf m := by simp [hnil]
  rw [mem_slicesOf] at hnot
  simpa [hn] using hnot

/-! What stopping the slices of a group leaves. -/

/-- The gang whose group `e` stands at a `regang` (R25). -/
def Gang.atRegang (x : Gang) (e : Nat) (g : SliceSet) : Gang :=
  (x.mapSlices g (fun _ sl => { sl with stop := .regang })).setGroup e { (default : GroupSt) with wait := .regang }

theorem Gang.atRegang_slice (x : Gang) (e : Nat) (g : SliceSet) {n : Nat} (hn : n < 8) :
    (x.atRegang e g).slice n = if g.getLsbD n && x.live n then { x.slice n with stop := .regang } else x.slice n :=
  x.mapSlices_slice g (fun _ sl => { sl with stop := .regang }) n hn

theorem Gang.atRegang_live (x : Gang) (e : Nat) (g : SliceSet) {n : Nat} (hn : n < 8) : (x.atRegang e g).live n = x.live n := by
  rw [Gang.live, Gang.atRegang_slice x e g hn]
  split <;> rfl

theorem Gang.atRegang_liveSet (x : Gang) (e : Nat) (g : SliceSet) : (x.atRegang e g).liveSet = x.liveSet :=
  sliceSet_congr fun _ hn => x.atRegang_live e g hn

theorem Gang.atRegang_pc (x : Gang) (e : Nat) (g : SliceSet) {n : Nat} (hn : n < 8) :
    ((x.atRegang e g).slice n).pc = (x.slice n).pc := by
  rw [Gang.atRegang_slice x e g hn]
  split <;> rfl

theorem Gang.atRegang_mode (x : Gang) (e : Nat) (g : SliceSet) {n : Nat} (hn : n < 8) :
    ((x.atRegang e g).slice n).mode = (x.slice n).mode := by
  rw [Gang.atRegang_slice x e g hn]
  split <;> rfl

theorem Gang.atRegang_lstack (x : Gang) (e : Nat) (g : SliceSet) {n : Nat} (hn : n < 8) :
    ((x.atRegang e g).slice n).lstack = (x.slice n).lstack := by
  rw [Gang.atRegang_slice x e g hn]
  split <;> rfl

/-- A live slice stands at a `regang` if it is one of the group, or stood at one before. -/
theorem Gang.atRegang_stop_iff (x : Gang) (e : Nat) (g : SliceSet) {n : Nat} (hn : n < 8) (hl : x.live n = true) :
    ((x.atRegang e g).slice n).stop = .regang ↔ g.getLsbD n = true ∨ (x.slice n).stop = .regang := by
  rw [Gang.atRegang_slice x e g hn, hl, Bool.and_true]
  split <;> simp_all

/-- Completing sets the stop anew. -/
theorem Gang.atRegang_completed (x : Gang) (e : Nat) (g : SliceSet) {n : Nat} (hn : n < 8) (a b : PC) :
    ({ ((x.atRegang e g).slice n).completed a b with stop := .running } : Slice) =
      { (x.slice n).completed a b with stop := .running } := by
  rw [Gang.atRegang_slice x e g hn]
  split <;> rfl

/-- Every live slice stands at a `regang`. -/
def Gang.Rejoins (x : Gang) : Prop := ∀ n, n < 8 → x.live n = true → (x.slice n).stop = .regang

theorem Gang.rejoins_iff (x : Gang) :
    (slicesOf x.liveSet).all (fun n => decide ((x.slice n).stop = .regang)) = true ↔ x.Rejoins := by
  simp only [List.all_eq_true, x.mem_slicesOf_liveSet, decide_eq_true_eq, and_imp]
  rfl

/-! The lowest live slice. -/

theorem lowest?_eq_some {n k : Nat} {f : Nat → Bool} (hk : k < n) (hf : f k = true) (hlow : ∀ j, j < k → f j = false) :
    lowest? n f = some k :=
  List.find?_range_eq_some.2 ⟨hf, List.mem_range.2 hk, fun j hj => by simp [hlow j hj]⟩

theorem Gang.lead_liveSet_eq (x : Gang) {j : Nat} (hj : j < 8) (hl : x.live j = true) (hlow : ∀ n, n < j → x.live n = false) :
    x.lead x.liveSet = j := by
  rw [Gang.lead, lowest?_eq_some hj]
  · rfl
  · rw [x.getLsbD_liveSet hj, hl, Bool.and_self]
  · intro n hn
    rw [hlow n hn, Bool.and_false]

theorem Gang.exists_lead {x : Gang} (h : x.liveSet ≠ 0) :
    ∃ j, j < 8 ∧ x.live j = true ∧ (∀ n, n < j → x.live n = false) ∧ x.lead x.liveSet = j := by
  obtain ⟨n, hn⟩ := List.exists_mem_of_ne_nil _ (slicesOf_ne_nil h)
  obtain ⟨hn8, hln⟩ := x.mem_slicesOf_liveSet.1 hn
  have hex : ∃ k, x.live k = true := ⟨n, hln⟩
  refine ⟨Nat.find hex, Nat.lt_of_le_of_lt (Nat.find_min' hex hln) hn8, Nat.find_spec hex, fun k hk => ?_, ?_⟩
  · simpa using Nat.find_min hex hk
  · exact x.lead_liveSet_eq (Nat.lt_of_le_of_lt (Nat.find_min' hex hln) hn8) (Nat.find_spec hex) fun k hk => by
      simpa using Nat.find_min hex hk

/-! The three ends of a `regang`. -/

theorem State.settleRegang_waits {s : State} {g : GangRef} {x : Gang} (hx : s.gang? g = some x) (h : ¬x.Rejoins) :
    s.settleRegang g = s := by
  unfold State.settleRegang
  rw [hx]
  dsimp only
  rw [if_neg fun hc => h ((x.rejoins_iff).1 hc.2)]

/-- The live slices agree on PC and MODE with slice j. -/
def Gang.AgreeWith (x : Gang) (j : Nat) : Prop :=
  ∀ n, n < 8 → x.live n = true → (x.slice n).pc = (x.slice j).pc ∧ (x.slice n).mode = (x.slice j).mode

theorem Gang.agreeWith_iff (x : Gang) (j : Nat) :
    (slicesOf x.liveSet).all (fun n => decide ((x.slice n).pc = (x.slice j).pc) && decide ((x.slice n).mode = (x.slice j).mode)) = true ↔
      x.AgreeWith j := by
  simp only [List.all_eq_true, x.mem_slicesOf_liveSet, Bool.and_eq_true, decide_eq_true_eq, and_imp]
  rfl

theorem State.settleRegang_rejoins {s : State} {g : GangRef} {x : Gang} (hx : s.gang? g = some x) (hl : x.liveSet ≠ 0)
    (h : x.Rejoins) (ha : x.AgreeWith (x.lead x.liveSet)) :
    s.settleRegang g = s.setGang g (x.whole.moved 0 x.liveSet (fun _ sl => { sl.completed sl.pc (sl.pc + 1) with stop := .running })) := by
  unfold State.settleRegang
  rw [hx]
  dsimp only
  rw [if_pos ⟨slicesOf_ne_nil hl, (x.rejoins_iff).2 h⟩, if_pos ((x.agreeWith_iff _).2 ha)]

theorem State.settleRegang_mismatch {s : State} {g : GangRef} {x : Gang} (hx : s.gang? g = some x) (hl : x.liveSet ≠ 0)
    (h : x.Rejoins) (ha : ¬x.AgreeWith (x.lead x.liveSet)) :
    s.settleRegang g = s.raise g
      { cause := 0x16, info := 0, slices := x.groupSlices (x.groupOf (x.lead x.liveSet)),
        addr := (x.slice (x.lead x.liveSet)).pc, taddr := 0, tlanes := 0, bu := false, next := none, cycle := none } := by
  unfold State.settleRegang
  rw [hx]
  dsimp only
  rw [if_pos ⟨slicesOf_ne_nil hl, (x.rejoins_iff).2 h⟩, if_neg (mt (x.agreeWith_iff _).1 ha)]

/-! Slices that agree form one group. -/

theorem classAdd_agreeing {x : Gang} {m : Nat} {c : List Nat} {n : Nat}
    (h : (x.slice m).pc = (x.slice n).pc ∧ (x.slice m).mode = (x.slice n).mode) :
    classAdd x n [m :: c] = [m :: (c ++ [n])] := by
  simp [classAdd, h]

/-- Slices of one PC and MODE are one class. -/
theorem classesOf_agreeing {x : Gang} {p : PC} {md : ModeWord} {l : List Nat} (hne : l ≠ [])
    (h : ∀ n ∈ l, (x.slice n).pc = p ∧ (x.slice n).mode = md) : classesOf x l = [l] := by
  have hfold : ∀ (r : List Nat) (m : Nat) (c : List Nat), (∀ n ∈ m :: r, (x.slice n).pc = p ∧ (x.slice n).mode = md) →
      r.foldl (fun acc n => classAdd x n acc) [m :: c] = [m :: (c ++ r)] := by
    intro r
    induction r with
    | nil => intro m c _; simp
    | cons n r ih =>
      intro m c hr
      obtain ⟨hm, hrest⟩ := List.forall_mem_cons.1 hr
      obtain ⟨hn, hr'⟩ := List.forall_mem_cons.1 hrest
      rw [List.foldl_cons, classAdd_agreeing ⟨hm.1.trans hn.1.symm, hm.2.trans hn.2.symm⟩,
        ih m (c ++ [n]) (List.forall_mem_cons.2 ⟨hm, hr'⟩), List.append_assoc, List.singleton_append]
  obtain ⟨m, r, rfl⟩ := List.exists_cons_of_ne_nil hne
  rw [classesOf, List.foldl_cons]
  exact hfold r m [] h

theorem Gang.moved_live (x : Gang) (e : Nat) (g : SliceSet) {f : Nat → Slice → Slice} (hf : ∀ n sl, (f n sl).live = sl.live)
    {n : Nat} (hn : n < 8) : (x.moved e g f).live n = x.live n := by
  rw [Gang.live, Gang.moved_slice _ _ _ _ _ hn]
  split
  · exact hf _ _
  · rfl

/-- A whole gang whose live slices agree after they have moved stays one group. -/
theorem Gang.whole_moved_split {x : Gang} {f : Nat → Slice → Slice} {p : PC} {md : ModeWord} (hl : x.liveSet ≠ 0)
    (hf : ∀ n sl, (f n sl).live = sl.live)
    (h : ∀ n, n < 8 → x.live n = true → (f n (x.slice n)).pc = p ∧ (f n (x.slice n)).mode = md) :
    (x.whole.moved 0 x.liveSet f).split = [x.liveSet, 0, 0, 0] ∧ (x.whole.moved 0 x.liveSet f).single = 0 := by
  have hslice : ∀ n, n < 8 → ((x.whole.setGroup 0 default).mapSlices x.liveSet f).slice n =
      if x.liveSet.getLsbD n && x.live n then f n (x.slice n) else x.slice n := fun n hn =>
    (x.whole.setGroup 0 default).mapSlices_slice _ _ n hn
  have hlive : ∀ n, n < 8 → ((x.whole.setGroup 0 default).mapSlices x.liveSet f).live n = x.live n := fun n hn => by
    rw [Gang.live, hslice n hn]
    split
    · exact hf _ _
    · rfl
  have hgroup : ((x.whole.setGroup 0 default).mapSlices x.liveSet f).groupSlices 0 = x.liveSet := by
    rw [Gang.groupSlices, if_pos (by decide)]
    have hset : ((x.whole.setGroup 0 default).mapSlices x.liveSet f).liveSet = x.liveSet := sliceSet_congr hlive
    rw [hset]
    exact BitVec.and_self
  have hclass : classesOf ((x.whole.setGroup 0 default).mapSlices x.liveSet f) (slicesOf x.liveSet) = [slicesOf x.liveSet] := by
    refine classesOf_agreeing (p := p) (md := md) (slicesOf_ne_nil hl) fun n hn => ?_
    obtain ⟨hn8, hln⟩ := x.mem_slicesOf_liveSet.1 hn
    rw [hslice n hn8, x.getLsbD_liveSet hn8, hln, Bool.and_self, if_pos rfl]
    exact h n hn8 hln
  unfold Gang.moved Gang.regroup
  rw [if_pos (by decide), hgroup, hclass]
  dsimp only [List.foldl_nil]
  rw [setOfSlices_slicesOf]
  exact ⟨rfl, rfl⟩

/-! `regang`. -/

theorem State.Issues.gid {s : State} {i : Instr} {v : View} {rx : Bool} (h : s.Issues i v rx) : v.gang.gid = s.cur.gang.gid :=
  State.gang?_gid h.gang

section
variable {s : State} {v : View} {rx : Bool} (h : s.Issues .regang v rx)
include h

/-- The gang where its group has come to a `regang`. -/
theorem gang?_atRegang : ((s.issued v .regang rx).updGang v.cur.gang fun x => x.atRegang v.cur.entry v.cur.slices).gang? s.cur.gang =
    some ((v.issuedGang rx).atRegang v.cur.entry v.cur.slices) := by
  have hg := State.issued_gang h
  rw [h.cur, State.updGang_some hg]
  exact State.gang?_setGang_same _ _ _ h.gid

theorem exec_regang_eq : exec .regang s = .next
    (((s.issued v .regang rx).updGang v.cur.gang fun x => x.atRegang v.cur.entry v.cur.slices).settleRegang s.cur.gang) := by
  rw [exec_regang, execRegang, issue_of_issues h, ← h.cur]
  rfl

theorem onlyGang_atRegang :
    s.OnlyGang ((s.issued v .regang rx).updGang v.cur.gang fun x => x.atRegang v.cur.entry v.cur.slices) s.cur.gang := by
  have hg := State.issued_gang h
  rw [h.cur, State.updGang_some hg]
  exact (State.issued_onlyGang h).trans (State.onlyGang_setGang hg h.gid)

theorem exec_regang_waits {k : Nat} (he : v.cur.entry < v.gang.groups.length) (hk : k < 8) (hl : v.gang.live k = true)
    (hout : v.cur.slices.getLsbD k = false) (hrun : (v.gang.slice k).stop ≠ .regang) :
    ∃ t y, exec .regang s = .next t ∧ s.OnlyGang t s.cur.gang ∧ t.gang? s.cur.gang = some y ∧
      (y.group v.cur.entry).wait = .regang ∧
      ∀ n, n < 8 → y.slice n = if v.cur.slices.getLsbD n && v.gang.live n
        then { v.gang.slice n with stop := .regang } else v.gang.slice n := by
  have hno : ¬((v.issuedGang rx).atRegang v.cur.entry v.cur.slices).Rejoins := fun hre => by
    have hstop := ((v.issuedGang rx).atRegang_stop_iff v.cur.entry v.cur.slices hk hl).1
      (hre k hk (((v.issuedGang rx).atRegang_live _ _ hk).trans hl))
    rw [hout] at hstop
    exact hstop.elim Bool.false_ne_true hrun
  refine ⟨_, _, (exec_regang_eq h).trans ?_, onlyGang_atRegang h, gang?_atRegang h, ?_,
    fun n hn => (v.issuedGang rx).atRegang_slice _ _ hn⟩
  · rw [State.settleRegang_waits (gang?_atRegang h) hno]
  · simp [Gang.group, Gang.atRegang, Gang.setGroup, Gang.mapSlices, he]

end

end Sys2Proof.Machine

/-! PROOFS. O20, continued: the rejoin, the ends of slices and gangs, and the pauses. -/
namespace Sys2Proof.Machine

/-- A sequence of one word that is no loop end goes on at the next. -/
theorem completed_of_no_loop_end {sl : Slice} {p : PC} (h : ∀ e, sl.lstack.head? = some e → e.stop ≠ p) :
    (sl.completed p (p + 1)).pc = p + 1 := by
  have hstep : loopStep p (p + 1) sl.lstack = (p + 1, sl.lstack) := by
    match hs : sl.lstack with
    | [] => rfl
    | e :: r =>
      have hne : e.stop ≠ p := h e (by rw [hs]; rfl)
      exact loopStep_outside r (mt (inSequence_word_iff p e.stop).1 hne)
  rw [Slice.completed, hstep]

/-! A gang whose live slices have all come to one `regang` in one MODE. -/

/-- The gang that goes on from the `regang` at which its slices stand (R25). -/
def Gang.rejoined (x : Gang) : Gang :=
  x.whole.moved 0 x.liveSet (fun _ sl => { sl.completed sl.pc (sl.pc + 1) with stop := .running })

@[simp] theorem Gang.rejoined_gid (x : Gang) : x.rejoined.gid = x.gid := Gang.moved_gid _ _ _ _
@[simp] theorem Gang.rejoined_rx (x : Gang) : x.rejoined.rx = x.rx := Gang.moved_rx _ _ _ _

/-- The gangs that differ only in their slices, in how these form groups, and in GSTAT.RX. -/
def Gang.Rearranged (x y : Gang) : Prop :=
  y = { x with slices := y.slices, split := y.split, single := y.single, groups := y.groups, rx := y.rx }

theorem Gang.Rearranged.trans {x y z : Gang} (h : x.Rearranged y) (k : y.Rearranged z) : x.Rearranged z := by
  unfold Gang.Rearranged at *
  rw [k, h]

theorem View.issuedGang_rearranged (v : View) (rx : Bool) : v.gang.Rearranged (v.issuedGang rx) := rfl

theorem Gang.atRegang_rearranged (x : Gang) (e : Nat) (g : SliceSet) : x.Rearranged (x.atRegang e g) := rfl

theorem Gang.moved_rearranged (x : Gang) (e : Nat) (g : SliceSet) (f : Nat → Slice → Slice) : x.Rearranged (x.moved e g f) := by
  unfold Gang.Rearranged
  rw [Gang.moved_rx]
  exact x.moved_rest e g f

theorem Gang.whole_rearranged (x : Gang) : x.Rearranged x.whole := rfl

theorem Gang.rejoined_rearranged (x : Gang) : x.Rearranged x.rejoined :=
  x.whole_rearranged.trans (x.whole.moved_rearranged 0 x.liveSet _)

section
variable {x : Gang} {p : PC} {m : ModeWord} (hpc : ∀ n, n < 8 → x.live n = true → (x.slice n).pc = p)
include hpc

theorem Gang.rejoined_slice {n : Nat} (hn : n < 8) : x.rejoined.slice n =
    if x.live n then { (x.slice n).completed p (p + 1) with stop := .running } else x.slice n := by
  have hmoved := x.whole.moved_slice 0 x.liveSet (fun _ sl => { sl.completed sl.pc (sl.pc + 1) with stop := .running }) n hn
  have hcond : (x.liveSet.getLsbD n && x.whole.live n) = x.live n := by
    rw [x.getLsbD_liveSet hn]
    exact Bool.and_self _
  rw [hcond] at hmoved
  refine hmoved.trans ?_
  by_cases hl : x.live n = true
  · rw [if_pos hl, if_pos hl, ← hpc n hn hl]
    rfl
  · rw [if_neg hl, if_neg hl]
    rfl

theorem Gang.agreeWith_lead (hl : x.liveSet ≠ 0) (hmode : ∀ n, n < 8 → x.live n = true → (x.slice n).mode = m) :
    x.AgreeWith (x.lead x.liveSet) := by
  obtain ⟨j, hj, hlj, -, hlead⟩ := Gang.exists_lead hl
  intro n hn hln
  rw [hlead, hpc n hn hln, hpc j hj hlj, hmode n hn hln, hmode j hj hlj]
  exact ⟨rfl, rfl⟩

/-- Where no loop ends at the `regang`, the slices go on as one group. -/
theorem Gang.rejoined_whole (hl : x.liveSet ≠ 0) (hmode : ∀ n, n < 8 → x.live n = true → (x.slice n).mode = m)
    (hend : ∀ n, n < 8 → x.live n = true → ∀ e, (x.slice n).lstack.head? = some e → e.stop ≠ p) :
    x.rejoined.split = [x.liveSet, 0, 0, 0] ∧ x.rejoined.single = 0 ∧
      ∀ n, n < 8 → x.live n = true → (x.rejoined.slice n).pc = p + 1 := by
  obtain ⟨hsplit, hsingle⟩ := Gang.whole_moved_split (x := x) (p := p + 1) (md := m)
    (f := fun _ sl => { sl.completed sl.pc (sl.pc + 1) with stop := .running }) hl (fun _ _ => rfl) fun n hn hln => by
      refine ⟨?_, hmode n hn hln⟩
      dsimp only
      rw [hpc n hn hln]
      exact completed_of_no_loop_end (hend n hn hln)
  refine ⟨hsplit, hsingle, fun n hn hln => ?_⟩
  rw [Gang.rejoined_slice hpc hn, if_pos hln]
  exact completed_of_no_loop_end (hend n hn hln)

end

/-- The groups of a gang are those of its split table, its single slices and its live slices. -/
theorem Gang.groupSlices_congr {x y : Gang} (hsplit : x.split = y.split) (hsingle : x.single = y.single)
    (hlive : ∀ n, n < 8 → x.live n = y.live n) (e : Nat) : x.groupSlices e = y.groupSlices e := by
  have hset : x.liveSet = y.liveSet := sliceSet_congr hlive
  have hone : (x.single.getLsbD (e - 4) && x.live (e - 4)) = (y.single.getLsbD (e - 4) && y.live (e - 4)) := by
    rw [hsingle]
    obtain hlt | hge : e - 4 < 8 ∨ 8 ≤ e - 4 := by omega
    · rw [hlive _ hlt]
    · rw [BitVec.getLsbD_of_ge _ _ hge, Bool.false_and, Bool.false_and]
  unfold Gang.groupSlices
  rw [hsplit, hset, hone]

theorem Gang.groupOf_congr {x y : Gang} (hsplit : x.split = y.split) (n : Nat) : x.groupOf n = y.groupOf n := by
  unfold Gang.groupOf
  rw [hsplit]

section
variable {s : State} {v : View} {rx : Bool} (h : s.Issues .regang v rx)
include h

theorem exec_regang_rejoins {p : PC} {m : ModeWord} (hl : v.gang.liveSet ≠ 0)
    (hall : ∀ n, n < 8 → v.gang.live n = true → (v.cur.slices.getLsbD n = true ∨ (v.gang.slice n).stop = .regang) ∧
      (v.gang.slice n).pc = p ∧ (v.gang.slice n).mode = m) :
    ∃ t y, exec .regang s = .next t ∧ s.OnlyGang t s.cur.gang ∧ t.agenda = s.agenda ∧ t.gang? s.cur.gang = some y ∧
      v.gang.Moves y v.gang.liveSet (fun _ sl => { sl.completed p (p + 1) with stop := .running }) rx ∧
      ((∀ n, n < 8 → v.gang.live n = true → ∀ e, (v.gang.slice n).lstack.head? = some e → e.stop ≠ p) →
        y.split = [v.gang.liveSet, 0, 0, 0] ∧ y.single = 0 ∧
        ∀ n, n < 8 → v.gang.live n = true → (y.slice n).pc = p + 1) := by
  have hx := gang?_atRegang h
  have hagenda : ((s.issued v .regang rx).updGang v.cur.gang fun x => x.atRegang v.cur.entry v.cur.slices).agenda = s.agenda :=
    (State.updGang_agenda _ _ _).trans (State.issued_spec .regang rx h.1).2.1
  obtain ⟨x, hxdef⟩ : ∃ x, x = (v.issuedGang rx).atRegang v.cur.entry v.cur.slices := ⟨_, rfl⟩
  have hlive : ∀ n, n < 8 → x.live n = v.gang.live n := fun n hn => hxdef ▸ (v.issuedGang rx).atRegang_live _ _ hn
  have hset : x.liveSet = v.gang.liveSet := sliceSet_congr hlive
  have hpc : ∀ n, n < 8 → x.live n = true → (x.slice n).pc = p := fun n hn hln => by
    rw [hxdef, (v.issuedGang rx).atRegang_pc _ _ hn]
    exact (hall n hn (hlive n hn ▸ hln)).2.1
  have hmode : ∀ n, n < 8 → x.live n = true → (x.slice n).mode = m := fun n hn hln => by
    rw [hxdef, (v.issuedGang rx).atRegang_mode _ _ hn]
    exact (hall n hn (hlive n hn ▸ hln)).2.2
  have hre : x.Rejoins := fun n hn hln => by
    rw [hlive n hn] at hln
    rw [hxdef, (v.issuedGang rx).atRegang_stop_iff _ _ hn hln]
    exact (hall n hn hln).1
  rw [← hxdef] at hx
  have hxl : x.liveSet ≠ 0 := hset ▸ hl
  have hid : x.rejoined.gid = s.cur.gang.gid := by
    rw [Gang.rejoined_gid, hxdef]
    exact h.gid
  refine ⟨_, x.rejoined, (exec_regang_eq h).trans (congrArg _ (State.settleRegang_rejoins hx hxl hre (Gang.agreeWith_lead hpc hxl hmode))),
    (onlyGang_atRegang h).trans (State.onlyGang_setGang hx hid), (State.setGang_agenda _ _ _).trans hagenda, State.gang?_setGang_same _ _ _ hid,
    ⟨fun n hn => ?slices, ?routed, ?rest⟩, fun hend => ?whole⟩
  case slices =>
    rw [Gang.rejoined_slice hpc hn, hlive n hn, v.gang.getLsbD_liveSet hn, Bool.and_self]
    split
    · exact hxdef ▸ (v.issuedGang rx).atRegang_completed _ _ hn _ _
    · rename_i hdead
      rw [hxdef, (v.issuedGang rx).atRegang_slice _ _ hn, v.issuedGang_live, Bool.eq_false_iff.2 hdead, Bool.and_false]
      rfl
  case routed =>
    rw [Gang.rejoined_rx, hxdef]
    rfl
  case rest =>
    have hstop : v.gang.Rearranged x := hxdef ▸ (v.issuedGang_rearranged rx).trans (Gang.atRegang_rearranged _ _ _)
    exact hstop.trans x.rejoined_rearranged
  case whole =>
    have hout := Gang.rejoined_whole hpc hxl hmode fun n hn hln => by
      rw [hxdef, (v.issuedGang rx).atRegang_lstack _ _ hn]
      exact hend n hn (hlive n hn ▸ hln)
    rw [hset] at hout
    exact ⟨hout.1, hout.2.1, fun n hn hln => hout.2.2 n hn ((hlive n hn).trans hln)⟩

theorem exec_regang_mismatch {j k : Nat}
    (hall : ∀ n, n < 8 → v.gang.live n = true → v.cur.slices.getLsbD n = true ∨ (v.gang.slice n).stop = .regang)
    (hj : j < 8) (hk : k < 8) (hlj : v.gang.live j = true) (hlk : v.gang.live k = true)
    (hlow : ∀ n, n < j → v.gang.live n = false)
    (hne : ¬((v.gang.slice k).pc = (v.gang.slice j).pc ∧ (v.gang.slice k).mode = (v.gang.slice j).mode)) :
    exec .regang s = .next (((s.issued v .regang rx).updGang v.cur.gang fun x => x.atRegang v.cur.entry v.cur.slices).raise v.cur.gang
      { cause := 0x16, info := 0, slices := v.gang.groupSlices (v.gang.groupOf j), addr := (v.gang.slice j).pc,
        taddr := 0, tlanes := 0, bu := false, next := none, cycle := none }) := by
  have hx := gang?_atRegang h
  obtain ⟨x, hxdef⟩ : ∃ x, x = (v.issuedGang rx).atRegang v.cur.entry v.cur.slices := ⟨_, rfl⟩
  have hlive : ∀ n, n < 8 → x.live n = v.gang.live n := fun n hn => hxdef ▸ (v.issuedGang rx).atRegang_live _ _ hn
  have hset : x.liveSet = v.gang.liveSet := sliceSet_congr hlive
  have hpc : ∀ n, n < 8 → (x.slice n).pc = (v.gang.slice n).pc := fun n hn => hxdef ▸ (v.issuedGang rx).atRegang_pc _ _ hn
  have hmode : ∀ n, n < 8 → (x.slice n).mode = (v.gang.slice n).mode := fun n hn =>
    hxdef ▸ (v.issuedGang rx).atRegang_mode _ _ hn
  have hre : x.Rejoins := fun n hn hln => by
    rw [hlive n hn] at hln
    rw [hxdef, (v.issuedGang rx).atRegang_stop_iff _ _ hn hln]
    exact hall n hn hln
  have hlead : x.lead x.liveSet = j := x.lead_liveSet_eq hj ((hlive j hj).trans hlj) fun n hn =>
    (hlive n (by omega)).trans (hlow n hn)
  have hxl : x.liveSet ≠ 0 := fun h0 => by
    have hbit := x.getLsbD_liveSet hj
    rw [h0, hlive j hj, hlj] at hbit
    simp at hbit
  have hno : ¬x.AgreeWith (x.lead x.liveSet) := fun ha => by
    have := ha k hk ((hlive k hk).trans hlk)
    rw [hlead, hpc k hk, hpc j hj, hmode k hk, hmode j hj] at this
    exact hne this
  have hgroup : x.groupSlices (x.groupOf j) = v.gang.groupSlices (v.gang.groupOf j) := by
    have hsplit : x.split = v.gang.split := hxdef ▸ rfl
    have hsingle : x.single = v.gang.single := hxdef ▸ rfl
    rw [Gang.groupOf_congr hsplit, Gang.groupSlices_congr hsplit hsingle hlive]
  rw [← hxdef] at hx
  rw [exec_regang_eq h, State.settleRegang_mismatch hx hxl hre hno, hlead, hpc j hj, hgroup, h.cur]

end

/-! Ends. -/

theorem State.exitSlices_some {s : State} {g : GangRef} {x : Gang} (hx : s.gang? g = some x) (dead : SliceSet) :
    s.exitSlices g dead = if x.liveSet &&& ~~~dead = 0 then (s.setCore g.core ((s.core g.core).endSlices g dead)).removeGang g x.team
      else ((s.setCore g.core ((s.core g.core).endSlices g dead)).settleRegang g).settleBars g.core x.team := by
  unfold State.exitSlices
  rw [hx]

theorem exec_exit_eq {s : State} {v : View} {rx : Bool} (h : s.Issues .exit v rx) :
    exec .exit s = .next (if v.gang.liveSet &&& ~~~v.cur.slices = 0 then
      ((s.issued v .exit rx).setCore v.cur.gang.core
        (((s.issued v .exit rx).core v.cur.gang.core).endSlices v.cur.gang v.cur.slices)).removeGang v.cur.gang v.gang.team
      else (((s.issued v .exit rx).setCore v.cur.gang.core
        (((s.issued v .exit rx).core v.cur.gang.core).endSlices v.cur.gang v.cur.slices)).settleRegang
          v.cur.gang).settleBars v.cur.gang.core v.gang.team) := by
  rw [exec_exit, execExit, issue_of_issues h, State.exitSlices_some (h.cur ▸ State.issued_gang h)]
  rfl

theorem Gang.dropSlices_live (x : Gang) (dead : SliceSet) {n : Nat} (hn : n < 8) :
    (x.dropSlices dead).live n = (x.live n && !dead.getLsbD n) := by
  have hslice : (x.dropSlices dead).slice n =
      if dead.getLsbD n then { x.slice n with live := false, stop := .running } else x.slice n := by
    simp [Gang.dropSlices, Gang.slice, List.getD, hn]
  rw [Gang.live, hslice]
  cases dead.getLsbD n <;> simp [Gang.live]

theorem CoreSt.endSlices_live {c : CoreSt} {g : GangRef} {x : Gang} (hx : c.gang? g = some x) (dead : SliceSet) :
    ∃ y, (c.endSlices g dead).gang? g = some y ∧ ∀ n, n < 8 → y.live n = (x.live n && !dead.getLsbD n) := by
  have hgid : x.gid = g.gid := by
    have hfind := CoreSt.find?_of_gang? hx
    unfold CoreSt.gang? at hx
    rw [hfind] at hx
    simpa using hx
  unfold CoreSt.endSlices
  rw [hx]
  dsimp only
  obtain ⟨y, hy, hslices⟩ := CoreSt.gang?_lose ((c.setGang g.slot (x.dropSlices dead)).pendingOf g (inSlices dead))
    (CoreSt.gang?_setGang_same c g (x.dropSlices dead) hgid)
  refine ⟨y, hy, fun n hn => ?_⟩
  rw [← x.dropSlices_live dead hn, Gang.live, Gang.slice, hslices]
  rfl

/-! The slots of a core's gangs. -/

theorem keys_insert_of_find? {α : Type} {c : Cells α} {n : Nat} {x y : α} (h : Cells.find? c n = some x) :
    (Cells.insert c n y).map (·.1) = c.map (·.1) := by
  induction c with
  | nil => cases h
  | cons e r ih =>
    obtain ⟨k, v⟩ := e
    simp only [Cells.find?] at h
    simp only [Cells.insert]
    split at h
    · cases h
    · rename_i hlt
      rw [if_neg hlt]
      split at h
      · rename_i heq
        rw [if_pos heq, heq]
        rfl
      · rename_i hne
        rw [if_neg hne, List.map_cons, ih h]
        rfl

theorem find?_below_keys {α : Type} {c : Cells α} {n : Nat} (h : ∀ k ∈ c.map (·.1), n < k) : Cells.find? c n = none := by
  cases c with
  | nil => rfl
  | cons e r => exact if_pos (h e.1 (by simp))

/-- A key erased from a table of rising keys is not listed. -/
theorem find?_erase_of_rising {α : Type} {c : Cells α} {n : Nat} (h : (c.map (·.1)).Pairwise (· < ·)) :
    Cells.find? (Cells.erase c n) n = none := by
  induction c with
  | nil => rfl
  | cons e r ih =>
    obtain ⟨k, v⟩ := e
    rw [List.map_cons, List.pairwise_cons] at h
    simp only [Cells.erase]
    split
    · rename_i hlt
      exact if_pos hlt
    · rename_i hlt
      split
      · rename_i heq
        exact find?_below_keys fun j hj => heq ▸ h.1 j hj
      · rename_i hne
        simp only [Cells.find?, if_neg hlt, if_neg hne]
        exact ih h.2

/-- The slots at which a core's gangs are listed. -/
def CoreSt.slots (c : CoreSt) : List Nat := c.gangs.map (·.1)

theorem CoreSt.keepShare_slots {c : CoreSt} {n : Nat} {y : Gang} (hf : Cells.find? c.gangs n = some y) (k : Share) :
    (c.keepShare n y k).slots = c.slots :=
  keys_insert_of_find? hf

theorem CoreSt.dropShare_slots (c : CoreSt) (x : Gang) (k : Share) : (c.dropShare x k).slots = c.slots := by
  unfold CoreSt.dropShare CoreSt.slots
  rw [List.map_map]
  refine List.map_congr_left fun e _ => ?_
  dsimp only [Function.comp]
  split <;> rfl

theorem foldl_slots {α : Type} {f : CoreSt → α → CoreSt} (hf : ∀ c a, (f c a).slots = c.slots) (l : List α) (c : CoreSt) :
    (l.foldl f c).slots = c.slots := by
  induction l generalizing c with
  | nil => rfl
  | cons a r ih => rw [List.foldl_cons, ih, hf]

theorem CoreSt.unshareGang_slots (c : CoreSt) (slot : Nat) (x : Gang) : (c.unshareGang slot x).slots = c.slots := by
  unfold CoreSt.unshareGang
  dsimp only
  refine (foldl_slots (fun d e => foldl_slots (fun d' k => ?_) e.2.shares d) c.gangs _).trans
    (foldl_slots (fun d k => d.dropShare_slots x k) x.shares c)
  split
  · split
    · exact CoreSt.keepShare_slots ‹_› k
    · rfl
  · rfl

theorem CoreSt.removeGang_gang? {c : CoreSt} {g : GangRef} (hs : c.slots.Pairwise (· < ·)) : (c.removeGang g).gang? g = none := by
  unfold CoreSt.removeGang
  split
  · assumption
  · rename_i x _
    unfold CoreSt.gang?
    dsimp only
    have hslots : ((c.unshareGang g.slot x).freeWindow x).gangs.map (·.1) = c.slots := c.unshareGang_slots g.slot x
    rw [find?_erase_of_rising (by rw [hslots]; exact hs)]

/-! Pauses. -/

theorem Gang.setGroup_groupSlices (x : Gang) (e : Nat) (v : GroupSt) (k : Nat) : (x.setGroup e v).groupSlices k = x.groupSlices k := rfl

theorem Gang.holdUntil_eq (x : Gang) (sl : SliceSet) (r : WaitReason) (cyc : Nat) : ∃ gs, x.holdUntil sl r cyc = { x with groups := gs } := by
  unfold Gang.holdUntil
  generalize x.groupList = l
  induction l generalizing x with
  | nil => exact ⟨_, rfl⟩
  | cons e l ih =>
    rw [List.foldl_cons]
    split
    · obtain ⟨gs, hgs⟩ := ih (x.setGroup e { x.group e with wait := r, age := 0, wake := cyc })
      exact ⟨gs, hgs⟩
    · exact ih x

/-- One step of `holdUntil`: a group that holds a slice of `sl` waits, the others stay. -/
def Gang.holdOne (sl : SliceSet) (r : WaitReason) (cyc : Nat) (y : Gang) (e : Nat) : Gang :=
  if y.groupSlices e &&& sl ≠ 0 then y.setGroup e { y.group e with wait := r, age := 0, wake := cyc } else y

/-- A group waits until a cycle, with its watchdog at zero (R91). -/
def GroupSt.Held (gr : GroupSt) (r : WaitReason) (cyc : Nat) : Prop := gr.wait = r ∧ gr.wake = cyc ∧ gr.age = 0

section
variable {sl : SliceSet} {r : WaitReason} {cyc : Nat}

theorem Gang.holdOne_groupSlices (y : Gang) (e k : Nat) : (Gang.holdOne sl r cyc y e).groupSlices k = y.groupSlices k := by
  unfold Gang.holdOne
  split <;> rfl

theorem Gang.holdOne_length (y : Gang) (e : Nat) : (Gang.holdOne sl r cyc y e).groups.length = y.groups.length := by
  unfold Gang.holdOne
  split
  · exact List.length_set
  · rfl

theorem Gang.holdOne_held {y : Gang} {e : Nat} (he : e < y.groups.length) (hs : y.groupSlices e &&& sl ≠ 0) :
    ((Gang.holdOne sl r cyc y e).group e).Held r cyc := by
  unfold Gang.holdOne
  rw [if_pos hs]
  simp [Gang.group, Gang.setGroup, he, GroupSt.Held]

/-- A group that waits so stays so. -/
theorem Gang.holdOne_keeps_held {y : Gang} {e k : Nat} (hk : k < y.groups.length) (h : (y.group k).Held r cyc) :
    ((Gang.holdOne sl r cyc y e).group k).Held r cyc := by
  by_cases hek : e = k
  · subst hek
    by_cases hs : y.groupSlices e &&& sl ≠ 0
    · exact Gang.holdOne_held hk hs
    · unfold Gang.holdOne
      rwa [if_neg hs]
  · unfold Gang.holdOne
    split
    · simpa [Gang.group, Gang.setGroup, List.getElem?_set_ne hek] using h
    · exact h

theorem Gang.foldl_holdOne_keeps_held (l : List Nat) {y : Gang} {k : Nat} (hk : k < y.groups.length) (h : (y.group k).Held r cyc) :
    ((l.foldl (Gang.holdOne sl r cyc) y).group k).Held r cyc := by
  induction l generalizing y with
  | nil => exact h
  | cons e l ih => exact ih (by rwa [Gang.holdOne_length]) (Gang.holdOne_keeps_held hk h)

theorem Gang.foldl_holdOne_held {l : List Nat} {y : Gang} {k : Nat} (hmem : k ∈ l) (hk : k < y.groups.length)
    (hs : y.groupSlices k &&& sl ≠ 0) : ((l.foldl (Gang.holdOne sl r cyc) y).group k).Held r cyc := by
  induction l generalizing y with
  | nil => cases hmem
  | cons e l ih =>
    rw [List.foldl_cons]
    have hlen : k < (Gang.holdOne sl r cyc y e).groups.length := by rwa [Gang.holdOne_length]
    obtain rfl | hmem := List.mem_cons.1 hmem
    · exact Gang.foldl_holdOne_keeps_held l hlen (Gang.holdOne_held hk hs)
    · exact ih hmem hlen (by rwa [Gang.holdOne_groupSlices])

/-- Every group that holds a slice of `sl` waits until the cycle. -/
theorem Gang.group_holdUntil {x : Gang} {e : Nat} (hlen : x.groups.length = 12) (hs : x.groupSlices e &&& sl ≠ 0) (he : e < 12) :
    ((x.holdUntil sl r cyc).group e).Held r cyc := by
  have hne : x.groupSlices e ≠ 0 := fun h0 => hs (by
    rw [h0]
    exact BitVec.zero_and)
  have hmem : e ∈ x.groupList := List.mem_filter.2 ⟨List.mem_range.2 he, decide_eq_true hne⟩
  exact Gang.foldl_holdOne_held (sl := sl) hmem (hlen ▸ he) hs

end

theorem exec_yield_eq {s : State} {v : View} {rx : Bool} (h : s.Issues .yield v rx) :
    exec .yield s = .next (((s.issued v .yield rx).moved fun _ => advance v).updGang s.cur.gang
      fun x => x.holdUntil v.cur.slices .yield ((s.die (dieOf s.cur.gang.core)).cyc + 2)) := by
  rw [exec_yield, execYield, issue_of_issues h, State.issued_retire h, h.cur]

theorem exec_pause_eq {s : State} {v : View} {rx : Bool} {i : BitVec 16} (h : s.Issues (.pause i) v rx) (hi : i ≠ 0) :
    exec (.pause i) s = .next (((s.issued v (.pause i) rx).moved fun _ => advance v).updGang s.cur.gang
      fun x => x.holdUntil v.cur.slices .pause ((s.die (dieOf s.cur.gang.core)).cyc + i.toNat + 1)) := by
  rw [exec_pause, execPause, issue_of_issues h, if_neg hi, State.issued_retire h, h.cur]

/-- A sequence that completes and whose groups then wait. -/
theorem State.Moves.holdUntil {s u : State} {v : View} {rx : Bool} {f : Nat → Slice → Slice} (h : s.Moves u v rx f)
    (sl : SliceSet) (r : WaitReason) (cyc : Nat) :
    ∃ y, s.OnlyGang (u.updGang s.cur.gang fun x => x.holdUntil sl r cyc) s.cur.gang ∧
      (u.updGang s.cur.gang fun x => x.holdUntil sl r cyc).agenda = s.agenda ∧
      (u.updGang s.cur.gang fun x => x.holdUntil sl r cyc).gang? s.cur.gang = some (y.holdUntil sl r cyc) ∧
      v.gang.Moves y v.cur.slices f rx := by
  obtain ⟨hframe, ⟨y, hy, hmoves⟩, hagenda⟩ := h
  obtain ⟨gs, hgs⟩ := y.holdUntil_eq sl r cyc
  have hid : (y.holdUntil sl r cyc).gid = s.cur.gang.gid := by
    rw [hgs]
    exact State.gang?_gid (x := y) hy
  rw [State.updGang_some hy]
  exact ⟨y, hframe.trans (State.onlyGang_setGang hy hid), hagenda, State.gang?_setGang_same _ _ _ hid, hmoves⟩

theorem exec_pause_zero {s : State} {v : View} {rx : Bool} (h : s.Issues (.pause 0) v rx) :
    ∃ t, exec (.pause 0) s = .next t ∧ s.Moves t v rx (fun _ => advance v) := by
  refine ⟨_, (exec_pause 0 s).trans (issue_of_issues h _), ?_⟩
  rw [if_pos rfl, State.issued_retire h]
  exact State.moves h _

theorem exec_pauseExpiry_eq {s : State} {g : GangRef} {e : Nat} {x : Gang} (hev : s.ev = .pauseExpiry g e) (hx : s.gang? g = some x)
    (hw : (x.group e).wait = .pause) (hc : (x.group e).wake ≤ (s.die (dieOf g.core)).cyc) :
    exec .pauseExpiry s = .next (s.setGang g (x.setGroup e { x.group e with wait := .ready })) := by
  rw [exec_pauseExpiry, execPauseExpiry, hev]
  dsimp only
  rw [State.updGang_some hx, if_pos ⟨hw, hc⟩]

/-- Settles O20. -/
theorem rejoinEndAndPauseComplete : Obligations.RejoinEndAndPauseComplete := by
  refine ⟨fun i x _ s _ _ _ => exec_answers x s, fun _ _ _ _ _ h hl hall => exec_regang_rejoins h hl hall,
    fun _ _ _ _ h he hk hl hout hrun => exec_regang_waits h he hk hl hout hrun,
    fun _ _ _ _ _ h hall hj hk hlj hlk hlow hne => exec_regang_mismatch h hall hj hk hlj hlk hlow hne,
    fun _ _ _ h hd => (exec_exit_eq h).trans (congrArg _ (if_pos hd)), fun _ _ _ h hd => (exec_exit_eq h).trans (congrArg _ (if_neg hd)),
    fun _ _ _ dead hx => CoreSt.endSlices_live hx dead, fun _ _ _ _ hs => CoreSt.removeGang_gang? hs,
    fun s v rx h => ?yield, fun i s v rx h hi => ?pause, fun _ _ _ _ _ hlen hs he => Gang.group_holdUntil hlen hs he,
    fun _ _ _ h => exec_pause_zero h, fun _ _ _ _ hev hx hw hc => exec_pauseExpiry_eq hev hx hw hc⟩
  case yield =>
    obtain ⟨y, hrest⟩ := (State.moves h fun _ => advance v).holdUntil v.cur.slices .yield ((s.die (dieOf s.cur.gang.core)).cyc + 2)
    exact ⟨_, y, exec_yield_eq h, hrest⟩
  case pause =>
    obtain ⟨y, hrest⟩ := (State.moves h fun _ => advance v).holdUntil v.cur.slices .pause ((s.die (dieOf s.cur.gang.core)).cyc + i.toNat + 1)
    exact ⟨_, y, exec_pause_eq h hi, hrest⟩

end Sys2Proof.Machine

/-! PROOFS. O22: the return from a trap handler (R100). -/
namespace Sys2Proof.Machine

/-! What `rti` gives back. -/

theorem Gang.returned_trap (x : Gang) : x.returned.trap = { x.trap with tcause := setField x.trap.tcause 15 1 0 } := rfl

theorem Gang.returned_parked_nil {x : Gang} (h : x.parked = []) : x.returned.parked = [] := by
  unfold Gang.returned
  dsimp only
  rw [h]
  rfl

theorem Gang.returned_slice_dead {x : Gang} {n : Nat} (hn : n < 8) (hl : x.live n = false) : x.returned.slice n = x.slice n := by
  have hslices : x.returned.slices = (List.range 8).map fun n =>
      if x.live n then (x.slice n).restored (x.trap.tslice.getD n default) else x.slice n := rfl
  rw [Gang.slice, hslices]
  simp [List.getD_eq_getElem?_getD, hn, hl]

theorem Gang.returned_live (x : Gang) {n : Nat} (hn : n < 8) : x.returned.live n = x.live n := by
  cases hl : x.live n
  · rw [Gang.live, Gang.returned_slice_dead hn hl]
    exact hl
  · rw [Gang.live, Gang.returned_slice hn hl]
    exact hl

theorem Gang.returned_split (x : Gang) {e : Nat} (he : e < 4) :
    x.returned.split.getD e 0 = x.trap.tsplit.extractLsb' (8 * e) 8 &&& x.liveSet := by
  have hsplit : x.returned.split = (List.range 4).map fun e => x.trap.tsplit.extractLsb' (8 * e) 8 &&& x.liveSet := rfl
  rw [hsplit]
  simp [List.getD_eq_getElem?_getD, he]

theorem getLsbD_act_cleared (w : Word) : (setField w 15 1 0).getLsbD 15 = false := by
  rw [getLsbD_setField _ _ _ _ _ (by decide), if_pos ⟨le_rfl, by decide⟩]
  rfl

/-! The state that `rti` leaves. -/

theorem State.core_setCore_self (s : State) (c d : Nat) : (s.setCore c (s.core c)).core d = s.core d := by
  by_cases h : d = c
  · rw [h, State.core_setCore_same]
  · exact State.core_setCore_other s c d _ h

/-- With no destination open nothing is lost. -/
theorem State.abandonDests_nil (s : State) (g : GangRef) :
    (s.abandonDests g []).mem = s.mem ∧ (∀ c, (s.abandonDests g []).core c = s.core c) := by
  unfold State.abandonDests
  split
  · exact ⟨rfl, fun _ => rfl⟩
  · exact ⟨rfl, fun c => s.core_setCore_self g.core c⟩

theorem State.postOnce_places (s : State) (e : Event) : (s.postOnce e).mem = s.mem ∧ ∀ c, (s.postOnce e).core c = s.core c := by
  unfold State.postOnce
  split <;> exact ⟨rfl, fun _ => rfl⟩

/-- An `rti` with no sequence parked puts the returned gang in place of its own, and may post a trap that is owed. -/
theorem execRti_unparked {s : State} {v : View} {rx : Bool} (h : s.Issues .rti v rx) (hact : v.gang.trap.tcause.getLsbD 15 = true)
    (hok : v.gang.rtiOk v.cur.slices = true) (hp : v.gang.parked = []) :
    ∃ t, exec .rti s = .next t ∧ t.mem = ((s.issued v .rti rx).setGang s.cur.gang v.gang.returned).mem ∧
      ∀ c, t.core c = ((s.issued v .rti rx).setGang s.cur.gang v.gang.returned).core c := by
  have hy := Gang.returned_parked_nil hp
  rw [h.cur] at hok
  rw [exec_rti, execRti, issueChecked_of_issues h, h.cur]
  simp only [hact, hok, hp, hy, Bool.not_true, Bool.false_eq_true, or_self, if_false, List.filter_nil, List.flatMap_nil, if_true]
  refine ⟨_, rfl, ?_⟩
  obtain ⟨hmem, hcore⟩ := ((s.issued v .rti rx).setGang s.cur.gang v.gang.returned).abandonDests_nil s.cur.gang
  split
  · obtain ⟨hmem', hcore'⟩ := State.postOnce_places
      (((s.issued v .rti rx).setGang s.cur.gang v.gang.returned).abandonDests s.cur.gang []) (.unitFaultTrap s.cur.gang)
    exact ⟨hmem'.trans hmem, fun c => (hcore' c).trans (hcore c)⟩
  · exact ⟨hmem, hcore⟩

theorem exec_rti_refused {s : State} {v : View} {rx : Bool} (h : s.Issues .rti v rx)
    (hno : v.gang.trap.tcause.getLsbD 15 = false ∨ v.gang.rtiOk v.cur.slices = false) :
    exec .rti s = .next (s.trapNow 0x08 0 0 0) := by
  rw [exec_rti, execRti, issueChecked_of_issues h, if_pos]
  rwa [Bool.not_eq_true', Bool.not_eq_true']

/-- Settles O22: the gang becomes `Gang.returned`, whose parts are what trap entry saved. -/
theorem rtiRestores : Obligations.RtiRestores := by
  refine ⟨fun s v rx h hact hok hp => ?_, fun _ _ _ h hno => exec_rti_refused h hno⟩
  obtain ⟨t, hexec, hmem, hcore⟩ := execRti_unparked h hact hok hp
  have hid : v.gang.returned.gid = s.cur.gang.gid := h.gid
  have hframe := (State.issued_onlyGang h).trans (State.onlyGang_setGang (State.issued_gang h) hid)
  have hgang : ∀ g, t.gang? g = ((s.issued v .rti rx).setGang s.cur.gang v.gang.returned).gang? g := fun g => by
    rw [State.gang?, hcore]
    rfl
  refine ⟨t, v.gang.returned, hexec, (hgang _).trans (State.gang?_setGang_same _ _ _ hid), fun a => ?_, fun c => ?_,
    fun g hg => (hgang g).trans (hframe.gangs g hg), rfl, getLsbD_act_cleared _, rfl,
    sliceSet_congr fun n hn => v.gang.returned_live hn, rfl, rfl, fun e he => v.gang.returned_split he, fun n hn hl => ?_⟩
  · rw [hmem]
    exact hframe.memory a
  · rw [hcore, hframe.cores c]
  · rw [Gang.returned_slice hn hl]
    exact ⟨rfl, rfl, rfl, rfl, rfl⟩

end Sys2Proof.Machine

/-! PROOFS. O23 to O25: loads, stores and the traps of their addresses. -/

namespace Sys2Proof.Machine

section
variable {i : Instr} {size align : Nat} {rs reqs : View → Shape → List LaneReq}

/-- Instruction `i` issues the accesses `reqs`, and completes once they have set out. -/
def IssuesAccesses (i : Instr) (size align : Nat) (reqs : View → Shape → List LaneReq) : Prop :=
  ∀ s, exec i s = issueChecked i s fun v sh s1 go => s1.issueAccess go v size align (reqs v sh) State.retire

theorem IssuesAccesses.sends (he : IssuesAccesses i size align reqs) (hr : reqs = rs) : Sends i size align rs := by
  subst hr
  intro s v rx os u h hreach
  rw [he, issueChecked_of_issues h, State.issueAccess_sent _ hreach]

theorem IssuesAccesses.trapsMisaligned (he : IssuesAccesses i size align reqs) (hr : reqs = rs) :
    TrapsMisaligned i align rs := by
  subst hr
  intro s v rx r q h hbad
  rw [he, issueChecked_of_issues h, State.issueAccess_misaligned _ _ hbad]

theorem IssuesAccesses.trapsBounds (he : IssuesAccesses i size align reqs) (hr : reqs = rs) : TrapsBounds i size align rs := by
  subst hr
  intro s v rx t r q h ht hal hbad
  rw [he, issueChecked_of_issues h, State.issueAccess_bounds _ _ hal ht hbad]

end

/-! The requests that the model makes are those of R134 and R135. -/

theorem lt_of_mem_lanesOf {m : LaneSet} {l : Nat} (h : l ∈ lanesOf m) : l < 32 :=
  List.mem_range.1 (List.mem_filter.1 h).1

theorem mem_lanesOf_iff {m : LaneSet} {l : Nat} (hl : l < 32) : l ∈ lanesOf m ↔ m.getLsbD l = true := by
  simp [lanesOf, hl]

theorem effAddr_opA (v : View) (sh : Shape) (off : BitVec 8) (size l : Nat) : effAddr (v.opA sh l) off size = v.ea sh off size l :=
  effAddr_eq _ _ _

/-- One request for a uniform access, or one in each active lane, is what `View.requests` says, if the kinds agree. -/
theorem requests_eq (v : View) {one : Bool} {ea : Nat → VAddr} {k k' : Nat → AccKind} {u : AccKind} (hu : k 32 = u)
    (hk : ∀ l, l < 32 → k l = k' l) :
    (if v.act = 0 then [] else if one then [⟨32, v.act, ea 0, u⟩]
      else (lanesOf v.act).map fun l => ⟨l, BitVec.ofNat 32 (2 ^ l), ea l, k' l⟩) = v.requests one ea k := by
  have hlanes : ((lanesOf v.act).map fun l => (⟨l, BitVec.ofNat 32 (2 ^ l), ea l, k' l⟩ : LaneReq)) =
      (lanesOf v.act).map fun l => ⟨l, BitVec.ofNat 32 (2 ^ l), ea l, k l⟩ :=
    List.map_congr_left fun l hl => by rw [hk l (lt_of_mem_lanesOf hl)]
  unfold View.requests
  by_cases hact : v.act = 0
  · simp [hact, lanesOf]
  · simp only [hact, if_false, hu, hlanes]

theorem laneRequests_eq (v : View) {ea : Nat → VAddr} {k : Nat → AccKind} :
    ((lanesOf v.act).map fun l => ⟨l, BitVec.ofNat 32 (2 ^ l), ea l, k l⟩) = v.requests false ea k := rfl

theorem loadReqs_eq (d a : Reg) (o : BitVec 8) (size n : Nat) :
    (fun v sh => View.loadReqs v sh d a o size n) = fun v sh => v.loads sh d a o size n := by
  funext v sh
  unfold View.loadReqs View.loads
  simp only [effAddr_opA]
  exact requests_eq v (congrArg AccKind.load (if_pos rfl)) fun l hl => congrArg AccKind.load (if_neg (by omega))

theorem storeReqs_eq (d : Reg) (o : BitVec 8) (size : Nat) :
    (fun v sh => View.storeReqs v sh d o size) = fun v sh => v.stores sh d o size := by
  funext v sh
  unfold View.storeReqs View.stores
  simp only [effAddr_opA]
  exact requests_eq v rfl fun l hl => by rw [if_neg (by omega)]

theorem ldwReqs_eq (d : Reg) (o : BitVec 8) :
    (fun (v : View) sh => (lanesOf v.act).map fun l =>
      (⟨l, BitVec.ofNat 32 (2 ^ l), effAddr (v.opA sh l) o 4, .loadw (laneDest d 1 l)⟩ : LaneReq)) =
      fun v sh => v.requests false (v.ea sh o 4) fun l => .loadw [(l, [d.toNat * 32 + l])] := by
  funext v sh
  simp only [effAddr_opA]
  exact laneRequests_eq v

section
variable (d a : Reg) (o : BitVec 8)

theorem ld8_issues : IssuesAccesses (.ld8 d a o) 1 1 fun v sh => v.loadReqs sh d a o 1 1 := exec_ld8 d a o
theorem ld16_issues : IssuesAccesses (.ld16 d a o) 2 2 fun v sh => v.loadReqs sh d a o 2 1 := exec_ld16 d a o
theorem ld32_issues : IssuesAccesses (.ld32 d a o) 4 4 fun v sh => v.loadReqs sh d a o 4 1 := exec_ld32 d a o
theorem ld64_issues : IssuesAccesses (.ld64 d a o) 8 8 fun v sh => v.loadReqs sh d a o 8 2 := exec_ld64 d a o
theorem ld128_issues : IssuesAccesses (.ld128 d a o) 16 16 fun v sh => v.loadReqs sh d a o 16 4 := exec_ld128 d a o
theorem ldw_issues : IssuesAccesses (.ldw d a o) 4 4 fun v sh => (lanesOf v.act).map fun l =>
    ⟨l, BitVec.ofNat 32 (2 ^ l), effAddr (v.opA sh l) o 4, .loadw (laneDest d 1 l)⟩ := exec_ldw d a o
theorem st8_issues : IssuesAccesses (.st8 d a o) 1 1 fun v sh => v.storeReqs sh d o 1 := exec_st8 d a o
theorem st16_issues : IssuesAccesses (.st16 d a o) 2 2 fun v sh => v.storeReqs sh d o 2 := exec_st16 d a o
theorem st32_issues : IssuesAccesses (.st32 d a o) 4 4 fun v sh => v.storeReqs sh d o 4 := exec_st32 d a o
theorem st64_issues : IssuesAccesses (.st64 d a o) 8 8 fun v sh => v.storeReqs sh d o 8 := exec_st64 d a o
theorem st128_issues : IssuesAccesses (.st128 d a o) 16 16 fun v sh => v.storeReqs sh d o 16 := exec_st128 d a o

end

/-- Settles O23. -/
theorem loadsComplete : Obligations.LoadsComplete := fun d a o =>
  ⟨(ld8_issues d a o).sends (loadReqs_eq ..), (ld16_issues d a o).sends (loadReqs_eq ..),
    (ld32_issues d a o).sends (loadReqs_eq ..), (ld64_issues d a o).sends (loadReqs_eq ..),
    (ld128_issues d a o).sends (loadReqs_eq ..), (ldw_issues d a o).sends (ldwReqs_eq ..)⟩

/-- Lane-private accesses whose offsets are all aligned and below PSIZE set out and complete (R139). -/
theorem privateOp_sent {i : Instr} {off : BitVec 8} {k : View → Shape → Nat → AccKind} {s u : State} {v : View} {rx : Bool}
    {os : List Resolved} (h : s.Issues i v rx)
    (hin : ∀ l, v.act.getLsbD l = true → (privOffset (v.opA (shape i v.mode v.cur.lit.isSome) l) off).toNat % 4 = 0 ∧
      (privOffset (v.opA (shape i v.mode v.cur.lit.isSome) l) off).toNat < (v.core.recordOf v.gang).psize)
    {rs : List LaneReq} (hrs : rs = (lanesOf v.act).map fun l => ⟨l, BitVec.ofNat 32 (2 ^ l),
      v.privAddr l (privOffset (v.opA (shape i v.mode v.cur.lit.isSome) l) off), k v (shape i v.mode v.cur.lit.isSome) l⟩)
    (hr : s.Reaches v i rx 4 4 rs os u) :
    privateOp i off k s = .next ((u.issued v i rx).sent v 4 rs os).retire := by
  subst hrs
  have hlane : ∀ l ∈ lanesOf v.act, v.act.getLsbD l = true := fun l hl => (List.mem_filter.1 hl).2
  rw [privateOp, issueChecked_of_issues h]
  dsimp only
  rw [filter_nil fun l hl => decide_eq_false fun hodd => hodd (hin l (hlane l hl)).1,
    filter_nil fun l hl => decide_eq_false (Nat.not_le.2 (hin l (hlane l hl)).2)]
  simp only [ne_eq, not_true_eq_false, if_false]
  rw [State.issueAccess_sent _ hr]

/-- Settles O24. -/
theorem storesComplete : Obligations.StoresComplete := by
  intro d a o
  refine ⟨(st8_issues d a o).sends (storeReqs_eq ..), (st16_issues d a o).sends (storeReqs_eq ..),
    (st32_issues d a o).sends (storeReqs_eq ..), (st64_issues d a o).sends (storeReqs_eq ..),
    (st128_issues d a o).sends (storeReqs_eq ..), ?stl, ?ldl⟩
  case stl =>
    intro s v rx os u h hin rs hr
    rw [exec_stl]
    exact privateOp_sent h hin rfl hr
  case ldl =>
    intro s v rx os u h hin rs hr
    rw [exec_ldl]
    exact privateOp_sent h hin rfl hr

/-- Settles O25. -/
theorem badAddressesTrap : Obligations.BadAddressesTrap := by
  have both : ∀ {i size reqs rs}, IssuesAccesses i size size reqs → reqs = rs →
      TrapsMisaligned i size rs ∧ TrapsBounds i size size rs := fun he hr => ⟨he.trapsMisaligned hr, he.trapsBounds hr⟩
  intro d a o
  refine ⟨?loads, ?stores, (ld8_issues d a o).trapsBounds (loadReqs_eq ..), (st8_issues d a o).trapsBounds (storeReqs_eq ..)⟩
  case loads =>
    intro i size n hm
    simp only [List.mem_cons, List.not_mem_nil, or_false, Prod.mk.injEq] at hm
    obtain ⟨rfl, rfl, rfl⟩ | ⟨rfl, rfl, rfl⟩ | ⟨rfl, rfl, rfl⟩ | ⟨rfl, rfl, rfl⟩ := hm
    · exact both (ld16_issues d a o) (loadReqs_eq ..)
    · exact both (ld32_issues d a o) (loadReqs_eq ..)
    · exact both (ld64_issues d a o) (loadReqs_eq ..)
    · exact both (ld128_issues d a o) (loadReqs_eq ..)
  case stores =>
    intro i size hm
    simp only [List.mem_cons, List.not_mem_nil, or_false, Prod.mk.injEq] at hm
    obtain ⟨rfl, rfl⟩ | ⟨rfl, rfl⟩ | ⟨rfl, rfl⟩ | ⟨rfl, rfl⟩ := hm
    · exact both (st16_issues d a o) (storeReqs_eq ..)
    · exact both (st32_issues d a o) (storeReqs_eq ..)
    · exact both (st64_issues d a o) (storeReqs_eq ..)
    · exact both (st128_issues d a o) (storeReqs_eq ..)

end Sys2Proof.Machine

/-! PROOFS. O28 and O29: the atomics (R146 to R148). -/

namespace Sys2Proof.Machine

theorem atomicReqs_eq (v : View) (sh : Shape) (op : AtOp) (d : Reg) (n : Nat) :
    atomicReqs op n d v sh = v.atomics sh op d n := by
  have h := requests_eq v (one := isUniform d) (ea := fun l => (v.opA sh l).setWidth 57)
    (k := fun l => .atomic op (modeType v.mode) v.mode (v.opB sh (l % 32)) (v.opC sh (l % 32))
      (if l = 32 then v.dest d n else laneDest d n l))
    (k' := fun l => .atomic op (modeType v.mode) v.mode (v.opB sh (l % 32)) (v.opC sh (l % 32)) (laneDest d n l))
    rfl fun l hl => by rw [if_neg (by omega)]
  rw [View.atomics]
  refine Eq.trans ?_ h
  have hlanes : ∀ l ∈ lanesOf v.act, l % 32 = l := fun l hl => Nat.mod_eq_of_lt (lt_of_mem_lanesOf hl)
  unfold atomicReqs
  dsimp only
  congr 2
  exact List.map_congr_left fun l hl => by rw [hlanes l hl]

section
variable {i : Instr} {op : AtOp} {d : Reg}

/-- What `AtomicsComplete` says of one instruction. -/
theorem atomic_completes (he : ∀ s, exec i s = atomicOp i op d s) {s : State} {v : View} {rx : Bool} (h : s.Issues i v rx) :
    let size := if op = .qadd ∨ modeType v.mode = 10 then 8 else 4
    let rs := v.atomics (shape i v.mode v.cur.lit.isSome) op d (size / 4)
    (∀ os u, s.Reaches v i rx size size rs os u → exec i s = .next ((u.issued v i rx).sent v size rs os).retire) ∧
    (∀ r q, rs.filter (fun r => decide (r.va.toNat % size ≠ 0)) = r :: q →
      exec i s = .next (s.trapNow 0x20 0 (lanesIn (r :: q)) r.va)) := by
  intro size rs
  have hx : exec i s = .next (s.issueAccess (fun t => t.issued v i rx) v size size rs State.retire) := by
    simp only [he, atomicOp, issueChecked_of_issues h, atomicReqs_eq, size, rs]
  exact ⟨fun os u hr => by rw [hx, State.issueAccess_sent _ hr], fun r q hb => by rw [hx, State.issueAccess_misaligned _ _ hb]⟩

end

/-- Settles O28. -/
theorem atomicsComplete : Obligations.AtomicsComplete := by
  intro d a b i op hm s v rx h
  simp only [List.mem_cons, List.not_mem_nil, or_false, Prod.mk.injEq] at hm
  rcases hm with ⟨rfl, rfl⟩ | ⟨rfl, rfl⟩ | ⟨rfl, rfl⟩ | ⟨rfl, rfl⟩ | ⟨rfl, rfl⟩ | ⟨rfl, rfl⟩ | ⟨rfl, rfl⟩ | ⟨rfl, rfl⟩ | ⟨rfl, rfl⟩
  · exact atomic_completes (exec_atadd d a b) h
  · exact atomic_completes (exec_atmin d a b) h
  · exact atomic_completes (exec_atmax d a b) h
  · exact atomic_completes (exec_atand d a b) h
  · exact atomic_completes (exec_ator d a b) h
  · exact atomic_completes (exec_atxor d a b) h
  · exact atomic_completes (exec_atxchg d a b) h
  · exact atomic_completes (exec_atcas d a b) h
  · exact atomic_completes (exec_atqadd d a b) h

/-! The new value of memory. -/

theorem atomicNew_add (m : ModeWord) (x b c : DWord) :
    atomicNew .add m x b c = if modeType m = 2 then faddEl m x b else addEl m x b := by simp [atomicNew]

theorem atomicNew_min (m : ModeWord) (x b c : DWord) :
    atomicNew .min m x b c = if modeType m = 2 then fminEl m x b else minEl m x b := by simp [atomicNew]

theorem atomicNew_max (m : ModeWord) (x b c : DWord) :
    atomicNew .max m x b c = if modeType m = 2 then fmaxEl m x b else maxEl m x b := by simp [atomicNew]

theorem atomicNew_qadd (m : ModeWord) (x b c : DWord) :
    atomicNew .qadd m x b c = x + BitVec.ofInt 64 (qaddUnits (modeType m) b) := rfl

theorem integerType_ne_float {t : Nat} (ht : t ∈ [0, 1, 10]) : t ≠ 2 := by
  rintro rfl
  simp at ht

/-- Rounding toward zero truncates. -/
theorem roundAt_truncates (neg : Bool) (n : Nat) (e : Int) :
    roundAt 1 neg n e 0 = if 0 ≤ e then n * 2 ^ e.toNat else n / 2 ^ (-e).toNat := by
  unfold roundAt
  simp only [Int.sub_zero, Int.zero_sub, roundUp, Bool.false_eq_true, if_false]

/-- A signed magnitude clamped to a symmetric range. -/
theorem clampInt_signed (s : Bool) (k : Nat) {top : Nat} :
    clampInt (-(top : Int)) top (if s then -(k : Int) else k) = if s then -((min k top : Nat) : Int) else ((min k top : Nat) : Int) := by
  unfold clampInt
  split <;> split <;> (try split) <;> omega

theorem qaddUnits_int (b : DWord) : qaddUnits 0 b = ((b.setWidth 32 : Word)).toInt := by simp [qaddUnits]

theorem qaddUnits_long (b : DWord) : qaddUnits 10 b = b.toInt := rfl

theorem qaddUnits_fin {b : DWord} {s : Bool} {n : Nat} {e : Int} (h : (fp32.value (fieldNat b 0 32)).scale 32 = .fin s n e) :
    qaddUnits 2 b = (let k : Nat := min (if 0 ≤ e then n * 2 ^ e.toNat else n / 2 ^ (-e).toNat) (2 ^ 63 - 1)
      if s then -(k : Int) else k) := by
  unfold qaddUnits
  rw [if_neg (by decide), if_pos rfl, h]
  dsimp only
  rw [roundAt_truncates]
  exact clampInt_signed s _ (top := 2 ^ 63 - 1)

theorem qaddUnits_nan {b : DWord} (h : fp32.value (fieldNat b 0 32) = .nan) : qaddUnits 2 b = 0 := by
  unfold qaddUnits
  rw [if_neg (by decide), if_pos rfl, h]
  rfl

theorem qaddUnits_inf {b : DWord} {s : Bool} (h : fp32.value (fieldNat b 0 32) = .inf s) :
    qaddUnits 2 b = if s then -(2 ^ 63 - 1) else 2 ^ 63 - 1 := by
  unfold qaddUnits
  rw [if_neg (by decide), if_pos rfl, h]
  rfl

/-- Settles O29. -/
theorem atomicValues : Obligations.AtomicValues := by
  intro m t
  refine ⟨?int, ?flt, fun _ _ _ => rfl, fun _ _ _ => rfl, fun _ _ _ => rfl, fun _ _ _ => rfl, ?cas, ?qadd⟩
  case int =>
    intro ht
    have hne : modeType m ≠ 2 := integerType_ne_float ht
    refine ⟨fun x b c => ?_, fun x b c => ?_, fun x b c => ?_⟩
    · rw [atomicNew_add, if_neg hne]; exact intElems_addEl m x b 0
    · rw [atomicNew_min, if_neg hne]; exact intElems_minEl m x b 0
    · rw [atomicNew_max, if_neg hne]; exact intElems_maxEl m x b 0
  case flt =>
    intro ht
    have hf : modeType m ∈ fltTypes := by rw [show modeType m = 2 from ht]; decide
    refine ⟨fun x b c => ?_, fun x b c => ?_, fun x b c => ?_⟩
    · rw [atomicNew_add, if_pos ht]; exact fltElems_faddEl hf x b
    · rw [atomicNew_min, if_pos ht]; exact fun k hk => elem_fminEl m hf x b hk
    · rw [atomicNew_max, if_pos ht]; exact fun k hk => elem_fmaxEl m hf x b hk
  case cas =>
    intro x b c
    by_cases h : modeType m = 10 <;> simp [atomicNew, t, h]
  case qadd =>
    intro x b c
    dsimp only
    rw [atomicNew_qadd]
    refine ⟨fun ht => ?_, fun ht => ?_, fun ht s n e hv => ?_, fun ht hv => ?_, fun ht s hv => ?_⟩
    all_goals rw [show modeType m = _ from ht]
    · rw [qaddUnits_long, BitVec.ofInt_toInt]
    · rw [qaddUnits_int]; rfl
    · rw [qaddUnits_fin hv]
    · rw [qaddUnits_nan hv]; exact BitVec.add_zero x
    · rw [qaddUnits_inf hv]

end Sys2Proof.Machine

/-! PROOFS. O30: synchronisation objects (R145, R150 to R152), and what a group that is held waits for. -/

namespace Sys2Proof.Machine

theorem State.exists_of_gang?_updGang {s : State} {g : GangRef} {f : Gang → Gang} {y : Gang} (hf : ∀ x, (f x).gid = x.gid)
    (h : (s.updGang g f).gang? g = some y) : ∃ x, s.gang? g = some x ∧ y = f x := by
  cases hx : s.gang? g with
  | none => rw [State.updGang_none hx, hx] at h; cases h
  | some x =>
    rw [State.updGang_some hx, State.gang?_setGang_same _ _ _ ((hf x).trans (State.gang?_gid hx))] at h
    exact ⟨x, rfl, (Option.some.inj h).symm⟩

theorem Gang.group_setGroup (x : Gang) {e : Nat} (he : e < x.groups.length) (gr : GroupSt) : (x.setGroup e gr).group e = gr := by
  simp [Gang.group, Gang.setGroup, he]

theorem Gang.hold_wait (x : Gang) (e : Nat) (r : WaitReason) :
    ((x.hold e r).group e).wait = r ∨ (x.hold e r).groups.length ≤ e := by
  by_cases he : e < x.groups.length
  · left
    rw [Gang.hold, Gang.group_setGroup x he]
  · right
    simpa [Gang.hold, Gang.setGroup] using he

/-- A held group waits with its reason. -/
theorem State.hold_wait {s : State} {r : WaitReason} {y : Gang} (h : (s.hold r).gang? s.cur.gang = some y) :
    (y.group s.cur.entry).wait = r ∨ y.groups.length ≤ s.cur.entry := by
  obtain ⟨x, -, rfl⟩ := State.exists_of_gang?_updGang (f := fun x => x.hold s.cur.entry r) (fun _ => rfl) h
  exact x.hold_wait s.cur.entry r

theorem Gang.setGroup_wake_wait {x : Gang} {e wake : Nat} {r : WaitReason} (h : (x.group e).wait = r ∨ x.groups.length ≤ e) :
    ((x.setGroup e { x.group e with wake := wake }).group e).wait = r ∨
      (x.setGroup e { x.group e with wake := wake }).groups.length ≤ e := by
  by_cases he : e < x.groups.length
  · left
    rw [Gang.group_setGroup x he]
    exact h.resolve_right (by omega)
  · right
    simpa [Gang.setGroup] using he

/-- A held group that also keeps a number to wait for waits with its reason. -/
theorem State.hold_wake_wait {s : State} {r : WaitReason} {wake : Nat} {y : Gang}
    (h : ((s.hold r).updGang s.cur.gang fun x => x.setGroup s.cur.entry { x.group s.cur.entry with wake := wake }).gang?
      s.cur.gang = some y) : (y.group s.cur.entry).wait = r ∨ y.groups.length ≤ s.cur.entry := by
  obtain ⟨x, hx, rfl⟩ := State.exists_of_gang?_updGang (s := s.hold r)
    (f := fun x => x.setGroup s.cur.entry { x.group s.cur.entry with wake := wake }) (fun _ => rfl) h
  exact Gang.setGroup_wake_wait (State.hold_wait hx)

/-! `acq`, `bind` and `unbind`. -/

section
variable {s : State} {v : View} {rx : Bool} {i : Instr}

theorem object_inactive {k : View → Shape → State → (State → State) → State} (h : s.Issues i v rx) (hact : v.act = 0)
    (he : ∀ s, exec i s = issueChecked i s fun v sh s1 go => if v.act = 0 then (go s1).retire else k v sh s1 go) :
    exec i s = .next (s.issued v i rx).retire := by
  rw [he, issueChecked_of_issues h, if_pos hact]

theorem object_active {k : View → Shape → State → (State → State) → State} (h : s.Issues i v rx) (hact : v.act ≠ 0)
    (he : ∀ s, exec i s = issueChecked i s fun v sh s1 go => if v.act = 0 then (go s1).retire else k v sh s1 go) :
    exec i s = .next (k v (shape i v.mode v.cur.lit.isSome) s fun t => t.issued v i rx) := by
  rw [he, issueChecked_of_issues h, if_neg hact]

/-- An object form that makes one access and completes. -/
theorem object_sends {req : View → Shape → LaneReq} {os : List Resolved} {u : State} (h : s.Issues i v rx) (hact : v.act ≠ 0)
    (he : ∀ s, exec i s = issueChecked i s fun v sh s1 go => if v.act = 0 then (go s1).retire
      else s1.issueAccess go v 8 8 [req v sh] State.retire)
    (hr : s.Reaches v i rx 8 8 [req v (shape i v.mode v.cur.lit.isSome)] os u) :
    exec i s = .next ((u.issued v i rx).sent v 8 [req v (shape i v.mode v.cur.lit.isSome)] os).retire := by
  rw [object_active h hact he, State.issueAccess_sent _ hr]

end

/-! `rel`. -/

theorem State.BackOnly.logFits {s t : State} (h : s.BackOnly t) (n : Nat) (ps : List Place) : t.logFits n ps = s.logFits n ps := by
  rw [h]
  rfl

/-- `State.issueAccess_sent` for a sequence that takes effect by more than `issued`, if that takes no room of the undo log. -/
theorem State.issueAccess_sent_of {s u : State} {v : View} {i : Instr} {rx : Bool} {size align : Nat} {rs : List LaneReq}
    {os : List Resolved} {go : State → State} (after : State → State) (h : s.Reaches v i rx size align rs os u)
    (hgo : ∀ n ps, (go u).logFits n ps = (u.issued v i rx).logFits n ps) :
    s.issueAccess go v size align rs after = after ((go u).sent v size rs os) := by
  obtain ⟨ha, ⟨t, ht, hp, hr⟩, ho, hl⟩ := h
  have halign : rs.filter (fun r => decide (r.va.toNat % align ≠ 0)) = [] :=
    filter_nil fun x hx => by simp [ha x hx]
  have hplace : rs.filter (fun r => isAperture r.va && (s.aperture v.cur.gang.core t r.va.toNat size).isNone) = [] := by
    refine filter_nil fun x hx => ?_
    cases hb : isAperture x.va
    · rfl
    · obtain ⟨p, hp⟩ := hp x hx hb
      simp [hp]
  have hats : os.any (fun o => decide (o.out = .ats)) = false := by
    rw [List.any_eq_false]
    intro o hm
    obtain ⟨p, e⟩ := ho o hm
    simp [e]
  unfold State.issueAccess
  simp only [halign, ht, hplace, hr, hats, Bool.false_eq_true, if_false]
  rw [if_neg (by rw [hgo, Bool.not_eq_true, Bool.not_eq_false']; exact hl), List.find?_eq_none.2 ?fatal]
  case fatal =>
    intro o hm
    obtain ⟨p, e⟩ := ho o hm
    simp [e]
  dsimp only
  rw [filter_nil fun o hm => by obtain ⟨p, e⟩ := ho o hm; simp [e]]
  rfl

section
variable {s : State} {v : View} {rx : Bool} {d a : Reg}

/-- What a `rel` must wait for before it may trap or go on (R145, R152). -/
def View.relWaits (v : View) (s : State) : Bool :=
  s.accessPending v.cur.gang (fun q => decide (q.slices &&& v.cur.slices ≠ 0)) ||
    v.gang.watch.any (fun e => !e.struck && decide (e.stamp < v.relStamp s))

theorem View.relWaits_iff (v : View) (s : State) : v.relWaits s = true ↔
    s.accessPending v.cur.gang (fun q => decide (q.slices &&& v.cur.slices ≠ 0)) = true ∨
      ∃ e ∈ v.gang.watch, e.struck = false ∧ e.stamp < v.relStamp s := by
  simp [View.relWaits]

theorem exec_rel_active (h : s.Issues (.rel d a) v rx) (hact : v.act ≠ 0) : exec (.rel d a) s = .next
    (if v.relWaits s then
      (s.hold .release).updGang v.cur.gang fun x => x.setGroup v.cur.entry { x.group v.cur.entry with wake := v.relStamp s }
    else if v.gang.watch.any (·.struck) then
      (s.updGang v.cur.gang (fun x => { x with watch := [] })).trapNow 0x21 0 v.gang.struckLanes 0
    else
      s.issueAccess (fun t => (t.issued v (.rel d a) rx).publish v.cur.gang.core (v.core.sessionOf v.gang)
          (v.object (shape (.rel d a) v.mode v.cur.lit.isSome) true d).va) v 8 8
        [v.object (shape (.rel d a) v.mode v.cur.lit.isSome) true d]
        (fun t => t.retireAwaiting .release (destWord (v.dest d 1)))) :=
  object_active h hact (exec_rel d a)

end

/-- Settles O30. -/
theorem objectsComplete : Obligations.ObjectsComplete := by
  intro d a b
  refine ⟨?inactive, ?acq, ?bind, ?rel⟩
  case inactive =>
    intro s v rx i hm h hact
    simp only [List.mem_cons, List.not_mem_nil, or_false] at hm
    rcases hm with rfl | rfl | rfl | rfl
    · exact object_inactive h hact (exec_acq d a)
    · exact object_inactive h hact (exec_rel d a)
    · exact object_inactive h hact (exec_bind d a b)
    · exact object_inactive h hact (exec_unbind d a b)
  case acq =>
    intro s v rx os u h hact rs hr
    exact object_sends (req := objectReq false d) h hact (exec_acq d a) hr
  case bind =>
    intro s v rx os u undo i hm h hact sh rs hr
    simp only [List.mem_cons, List.not_mem_nil, or_false, Prod.mk.injEq] at hm
    obtain ⟨rfl, rfl⟩ | ⟨rfl, rfl⟩ := hm
    · exact object_sends (req := bindReq false d) h hact (exec_bind d a b) hr
    · exact object_sends (req := bindReq true d) h hact (exec_unbind d a b) hr
  case rel =>
    intro s v rx h hact older late
    have hgo : late = false → ¬older → ¬v.relWaits s = true := fun hlate holder hw =>
      ((v.relWaits_iff s).1 hw).elim (fun hp => Bool.noConfusion (hlate.symm.trans hp)) holder
    rw [exec_rel_active h hact]
    refine ⟨?_, fun hw => ⟨_, rfl, fun y hy => ?_⟩, fun hlate holder hstruck => ?_⟩
    · intro os u hlate holder hstruck r hr
      rw [if_neg (hgo hlate holder), if_neg (by simpa using hstruck), State.issueAccess_sent_of _ hr fun n ps =>
        State.BackOnly.logFits (State.writeBack_backOnly _ _) n ps]
      rfl
    · rw [if_pos ((v.relWaits_iff s).2 hw), h.cur] at hy
      exact State.hold_wake_wait hy
    · rw [if_neg (hgo hlate holder), if_pos (by simpa using hstruck)]
      rfl

end Sys2Proof.Machine

/-! PROOFS. O31: `acqw` and `fence` (R151, R154). -/

namespace Sys2Proof.Machine

/-! What writing dirty copies back leaves of the gangs: everything but the versions that their watch entries hold (R143). -/

theorem find?_mapValues {α : Type} (f : α → α) (c : Cells α) (n : Nat) :
    Cells.find? (c.map fun e => (e.1, f e.2)) n = (Cells.find? c n).map f := by
  induction c with
  | nil => rfl
  | cons e r ih =>
    obtain ⟨k, x⟩ := e
    simp only [List.map_cons, Cells.find?, ih]
    split
    · rfl
    · split <;> rfl

/-- Gang `x` becomes `y` by a change of its watch table alone. -/
def Gang.WatchOnly (x y : Gang) : Prop := y = { x with watch := y.watch }

theorem Gang.WatchOnly.refl (x : Gang) : x.WatchOnly x := rfl

theorem Gang.WatchOnly.trans {x y z : Gang} (h : x.WatchOnly y) (k : y.WatchOnly z) : x.WatchOnly z := by
  unfold Gang.WatchOnly at *
  rw [k, h]

theorem Gang.ownStore_watchOnly (x : Gang) (l : Nat) : x.WatchOnly (x.ownStore l) := rfl

theorem Gang.foldl_watchOnly {α : Type} {f : Gang → α → Gang} (hf : ∀ (x : Gang) a, x.WatchOnly (f x a)) (l : List α) (x : Gang) :
    x.WatchOnly (l.foldl f x) := by
  induction l generalizing x with
  | nil => exact .refl x
  | cons a r ih => exact (hf x a).trans (ih _)

/-- From `s` to `t` no gang has changed but in its watch table, and no core's scratchpad has. -/
structure State.WatchesOnly (s t : State) : Prop where
  store : ∀ c, (t.core c).store = (s.core c).store
  gangs : ∀ g x, s.gang? g = some x → ∃ y, t.gang? g = some y ∧ x.WatchOnly y

theorem State.WatchesOnly.refl (s : State) : s.WatchesOnly s := ⟨fun _ => rfl, fun _ x h => ⟨x, h, .refl x⟩⟩

theorem State.WatchesOnly.trans {s t u : State} (h : s.WatchesOnly t) (k : t.WatchesOnly u) : s.WatchesOnly u := by
  refine ⟨fun c => (k.store c).trans (h.store c), fun g x hx => ?_⟩
  obtain ⟨y, hy, hxy⟩ := h.gangs g x hx
  obtain ⟨z, hz, hyz⟩ := k.gangs g y hy
  exact ⟨z, hz, hxy.trans hyz⟩

theorem State.watchesOnly_of_cores {s t : State} (h : t.cores = s.cores) : s.WatchesOnly t := by
  have hc : ∀ c, t.core c = s.core c := fun c => by unfold State.core; rw [h]
  exact ⟨fun c => by rw [hc], fun g x hx => ⟨x, by unfold State.gang? at *; rw [hc]; exact hx, .refl x⟩⟩

theorem State.watchesOnly_mapGangs (s : State) (core : Nat) {f : Gang → Gang} (hf : ∀ x : Gang, x.WatchOnly (f x)) :
    s.WatchesOnly (s.setCore core { s.core core with gangs := (s.core core).gangs.map fun e => (e.1, f e.2) }) := by
  refine ⟨fun c => ?_, fun g x hx => ?_⟩
  · by_cases hc : c = core
    · subst hc; simp
    · rw [State.core_setCore_other _ _ _ _ hc]
  · by_cases hc : g.core = core
    · have hfind := CoreSt.find?_of_gang? hx
      have hgid := State.gang?_gid hx
      refine ⟨f x, ?_, hf x⟩
      have hfg : (f x).gid = x.gid := by rw [hf x]
      rw [hc] at hfind
      simp [State.gang?, CoreSt.gang?, hc, find?_mapValues, hfind, hfg, hgid]
    · exact ⟨x, by unfold State.gang?; rw [State.core_setCore_other _ _ _ _ hc]; exact hx, .refl x⟩

/-- The watch entries of a gang of core `q` once the core has written a dirty copy back (R143). -/
def CoreSt.ownStores (q : CoreSt) (c : Copy) (x : Gang) : Gang :=
  c.vlines.foldl (fun x w => if w.1 = q.sessionOf x then x.ownStore w.2 else x) x

theorem CoreSt.ownStores_watchOnly (q : CoreSt) (c : Copy) (x : Gang) : x.WatchOnly (q.ownStores c x) := by
  refine Gang.foldl_watchOnly (fun y w => ?_) _ _
  split
  · exact y.ownStore_watchOnly _
  · exact .refl y

/-- A line written back but for the watch entries of the core that held it. -/
def State.lineBacked (s : State) (c : Copy) : State :=
  { s with
    lineVer := Cells.put 0 s.lineVer c.line (s.version c.line + 1)
    predictor := Cells.put 0 s.predictor c.line 0
    copies := s.copies.map fun k =>
      if k.line ≠ c.line then k
      else
        let k1 := if k.bytes.isNone then { k with ver := s.version c.line + 1 } else k
        if k.holder = c.holder then { k1 with dirty := false, privateHome := none } else k1 }

theorem State.writeBackOne_eq (s : State) (c : Copy) : s.writeBackOne c = s.lineBacked c ∨ ∃ core, s.writeBackOne c =
    (s.lineBacked c).setCore core { (s.lineBacked c).core core with
      gangs := ((s.lineBacked c).core core).gangs.map fun e => (e.1, ((s.lineBacked c).core core).ownStores c e.2) } := by
  unfold State.writeBackOne
  dsimp only
  split
  · exact .inr ⟨_, rfl⟩
  · exact .inl rfl

theorem State.writeBackOne_watchesOnly (s : State) (c : Copy) : s.WatchesOnly (s.writeBackOne c) := by
  have hline : s.WatchesOnly (s.lineBacked c) := State.watchesOnly_of_cores rfl
  obtain h | ⟨core, h⟩ := s.writeBackOne_eq c
  · rw [h]
    exact hline
  · rw [h]
    exact hline.trans (State.watchesOnly_mapGangs _ _ (CoreSt.ownStores_watchOnly _ c))

theorem State.writeBack_watchesOnly (s : State) (p : Copy → Bool) : s.WatchesOnly (s.writeBack p) := by
  unfold State.writeBack
  generalize s.copies.filter _ = cs
  induction cs generalizing s with
  | nil => exact .refl s
  | cons c r ih => exact (s.writeBackOne_watchesOnly c).trans (ih _)

/-! What a write-back leaves dirty. -/

/-- The copies of a holder and line that are dirty, all of them also dirty in `s`. -/
def State.DirtyWithin (s t : State) : Prop :=
  ∀ c ∈ t.copies, c.dirty = true → ∃ k ∈ s.copies, k.dirty = true ∧ k.holder = c.holder ∧ k.line = c.line

theorem State.DirtyWithin.trans {s t u : State} (h : s.DirtyWithin t) (k : t.DirtyWithin u) : s.DirtyWithin u := by
  intro c hc hd
  obtain ⟨c1, h1, hd1, hh1, hl1⟩ := k c hc hd
  obtain ⟨c2, h2, hd2, hh2, hl2⟩ := h c1 h1 hd1
  exact ⟨c2, h2, hd2, hh2.trans hh1, hl2.trans hl1⟩

theorem State.writeBackOne_copies (s : State) (c : Copy) : (s.writeBackOne c).copies = (s.lineBacked c).copies := by
  obtain h | ⟨core, h⟩ := s.writeBackOne_eq c
  · rw [h]
  · rw [h, State.setCore_copies]

/-- A copy that is dirty after a write-back was dirty before it, and is not the one written back. -/
theorem State.dirty_of_writeBackOne {s : State} {c k : Copy} (hk : k ∈ (s.writeBackOne c).copies) (hd : k.dirty = true) :
    (∃ q ∈ s.copies, q.dirty = true ∧ q.holder = k.holder ∧ q.line = k.line) ∧ ¬(k.holder = c.holder ∧ k.line = c.line) := by
  rw [State.writeBackOne_copies, State.lineBacked, List.mem_map] at hk
  obtain ⟨q, hq, rfl⟩ := hk
  dsimp only at hd ⊢
  by_cases hl : q.line ≠ c.line
  · rw [if_pos hl] at hd ⊢
    exact ⟨⟨q, hq, hd, rfl, rfl⟩, fun h => hl h.2⟩
  · rw [if_neg hl] at hd ⊢
    by_cases hh : q.holder = c.holder
    · rw [if_pos hh] at hd
      cases hd
    · rw [if_neg hh] at hd ⊢
      by_cases hb : q.bytes.isNone = true
      · rw [if_pos hb] at hd ⊢
        exact ⟨⟨q, hq, hd, rfl, rfl⟩, fun h => hh h.1⟩
      · rw [if_neg hb] at hd ⊢
        exact ⟨⟨q, hq, hd, rfl, rfl⟩, fun h => hh h.1⟩

theorem State.dirty_of_foldl_writeBackOne {cs : List Copy} {s : State} {k : Copy} (hk : k ∈ (cs.foldl State.writeBackOne s).copies)
    (hd : k.dirty = true) : (∃ q ∈ s.copies, q.dirty = true ∧ q.holder = k.holder ∧ q.line = k.line) ∧
      ∀ c ∈ cs, ¬(k.holder = c.holder ∧ k.line = c.line) := by
  induction cs generalizing s with
  | nil => exact ⟨⟨k, hk, hd, rfl, rfl⟩, fun c hc => absurd hc (List.not_mem_nil)⟩
  | cons c r ih =>
    obtain ⟨⟨q, hq, hqd, hqh, hql⟩, hr⟩ := ih hk
    obtain ⟨hq', hc⟩ := State.dirty_of_writeBackOne hq hqd
    rw [hqh, hql] at hq' hc
    exact ⟨hq', fun e he => (List.mem_cons.1 he).elim (fun h => h ▸ hc) (hr e)⟩

/-- No copy that satisfies a property of its holder and line is dirty once those are written back. -/
theorem State.clean_of_writeBack {s : State} {p : Copy → Bool} {k : Copy}
    (hp : ∀ q, q.holder = k.holder → q.line = k.line → p q = true) (hk : k ∈ (s.writeBack p).copies) : k.dirty = false := by
  by_contra hd
  rw [Bool.not_eq_false] at hd
  obtain ⟨⟨q, hq, hqd, hqh, hql⟩, hnone⟩ := State.dirty_of_foldl_writeBackOne hk hd
  refine hnone q (List.mem_filter.2 ⟨hq, ?_⟩) ⟨hqh.symm, hql.symm⟩
  rw [hqd, hp q hqh hql]
  rfl

/-! `fence`. -/

/-- The L1 copies as a fence writes them back (R154). -/
def State.fenceBacked (s : State) (core scope : Nat) : State :=
  s.writeBack fun c => decide (c.holder = .l1 core) && (decide (1 ≤ scope) || Config.evicts s.tick c.line)

/-- A fence after its write-back only drops copies. -/
theorem State.fenced_copies (s : State) (core scope : Nat) : ∃ cs, s.fenced core scope = { s.fenceBacked core scope with copies := cs } ∧
    ∀ c ∈ cs, c ∈ (s.fenceBacked core scope).copies ∧
      (1 ≤ scope → c.holder = .l1 core → c.bytes = none) ∧
      (3 ≤ scope → c.holder = .l2 (dieOf core) → c.bytes.isSome = true →
        homeDie (c.line * 128) = dieOf core ∨ (inModule (c.line * 128) = false ∧ ¬4 ≤ scope)) := by
  have hfirst : ∃ cs, (if 1 ≤ scope then (s.fenceBacked core scope).dropL1S core (fun _ => true) else s.fenceBacked core scope) =
      { s.fenceBacked core scope with copies := cs } ∧
      ∀ c ∈ cs, c ∈ (s.fenceBacked core scope).copies ∧ (1 ≤ scope → c.holder = .l1 core → c.bytes = none) := by
    by_cases h1 : 1 ≤ scope
    · rw [if_pos h1]
      refine ⟨_, rfl, fun c hc => ?_⟩
      obtain ⟨hc, hkeep⟩ := List.mem_filter.1 hc
      refine ⟨hc, fun _ hh => ?_⟩
      simpa [hh] using hkeep
    · rw [if_neg h1]
      exact ⟨_, rfl, fun c hc => ⟨hc, fun h => absurd h h1⟩⟩
  obtain ⟨cs, hcs, hmem⟩ := hfirst
  have hfenced : s.fenced core scope = if 3 ≤ scope then
      ({ s.fenceBacked core scope with copies := cs } : State).show core
        (fun l => decide (homeDie (l * 128) ≠ dieOf core) && (inModule (l * 128) || decide (4 ≤ scope)))
      else { s.fenceBacked core scope with copies := cs } := by
    rw [← hcs]
    rfl
  rw [hfenced]
  by_cases h3 : 3 ≤ scope
  · rw [if_pos h3]
    refine ⟨_, rfl, fun c hc => ?_⟩
    obtain ⟨hc, hkeep⟩ := List.mem_filter.1 hc
    obtain ⟨hback, hl1⟩ := hmem c hc
    refine ⟨hback, hl1, fun _ hh hb => ?_⟩
    simp only [hh, hb, Bool.true_and, decide_true, Bool.and_true, Bool.not_eq_true', Bool.and_eq_false_iff, Bool.or_eq_false_iff,
      decide_eq_false_iff_not, ne_eq, Decidable.not_not] at hkeep
    exact hkeep
  · rw [if_neg h3]
    exact ⟨_, rfl, fun c hc => ⟨(hmem c hc).1, (hmem c hc).2, fun h => absurd h h3⟩⟩

/-- What a fence leaves: only copies, versions and watch tables have changed. -/
theorem State.fenced_spec (s : State) (core scope : Nat) :
    (s.fenced core scope).mem = s.mem ∧ (s.fenced core scope).agenda = s.agenda ∧ (s.fenced core scope).cur = s.cur ∧
      s.WatchesOnly (s.fenced core scope) := by
  obtain ⟨cs, hcs, -⟩ := s.fenced_copies core scope
  have hback := State.writeBack_backOnly s
    fun c => decide (c.holder = .l1 core) && (decide (1 ≤ scope) || Config.evicts s.tick c.line)
  have hwatch : s.WatchesOnly (s.fenceBacked core scope) := State.writeBack_watchesOnly _ _
  rw [hcs]
  refine ⟨?_, ?_, ?_, hwatch.trans (State.watchesOnly_of_cores rfl)⟩
  all_goals
    change State.BackOnly s (s.fenceBacked core scope) at hback
    dsimp only
    rw [hback]

theorem State.fenceBacked_clean {s : State} {core scope : Nat} (h1 : 1 ≤ scope) {c : Copy}
    (hc : c ∈ (s.fenceBacked core scope).copies) (hh : c.holder = .l1 core) : c.dirty = false := by
  refine State.clean_of_writeBack (fun q hq _ => ?_) hc
  simp [hq, hh, h1]

section
variable {s : State} {v : View} {rx : Bool} {scope : BitVec 8}

theorem exec_fence_eq (h : s.Issues (.fence scope) v rx) : exec (.fence scope) s = .next
    (if s.accessPending v.cur.gang (fun q => decide (q.slices &&& v.cur.slices ≠ 0)) then s.hold .fence
      else ((s.issued v (.fence scope) rx).fenced v.cur.gang.core scope.toNat).retire) := by
  rw [exec_fence, execFence, issueChecked_of_issues h]

/-- The fence once the older accesses are performed. -/
theorem fence_completes (h : s.Issues (.fence scope) v rx)
    (hp : s.accessPending v.cur.gang (fun q => decide (q.slices &&& v.cur.slices ≠ 0)) = false) :
    ∃ (w : State) (x : Gang), exec (.fence scope) s = .next w.retire ∧
      w.mem = s.mem ∧ w.agenda = s.agenda ∧ w.cur = s.cur ∧ (∀ c, (w.core c).store = (s.core c).store) ∧
      w.gang? s.cur.gang = some x ∧ x = { v.gang with rx := v.gang.rx || rx, watch := x.watch } ∧
      (1 ≤ scope.toNat → ∀ c ∈ w.copies, c.holder = .l1 v.cur.gang.core → c.bytes = none ∧ c.dirty = false) ∧
      (3 ≤ scope.toNat → ∀ c ∈ w.copies, c.holder = .l2 (dieOf v.cur.gang.core) → c.bytes.isSome = true →
        homeDie (c.line * 128) = dieOf v.cur.gang.core ∨ (scope.toNat = 3 ∧ inModule (c.line * 128) = false)) := by
  obtain ⟨honly, hagenda, hcur, hgang⟩ := State.issued_spec (.fence scope) rx h.1
  obtain ⟨hmem', hagenda', hcur', hwatch⟩ := State.fenced_spec (s.issued v (.fence scope) rx) v.cur.gang.core scope.toNat
  obtain ⟨x, hx, hwx⟩ := hwatch.gangs _ _ hgang
  obtain ⟨cs, hcs, hkeep⟩ := State.fenced_copies (s.issued v (.fence scope) rx) v.cur.gang.core scope.toNat
  have hmem : (s.issued v (.fence scope) rx).mem = s.mem := by rw [honly.rest]
  refine ⟨_, x, ?_, hmem'.trans hmem, hagenda'.trans hagenda, hcur'.trans hcur, fun c => ?_, hx, hwx, fun h1 c hc hh => ?_,
    fun h3 c hc hh hb => ?_⟩
  · rw [exec_fence_eq h, hp, if_neg Bool.false_ne_true]
  · rw [hwatch.store c, honly.cores c]
  · rw [hcs] at hc
    obtain ⟨hback, hbytes, -⟩ := hkeep c hc
    exact ⟨hbytes h1 hh, State.fenceBacked_clean h1 hback hh⟩
  · rw [hcs] at hc
    obtain ⟨-, -, hl2⟩ := hkeep c hc
    exact (hl2 h3 hh hb).imp id fun ⟨hin, h4⟩ => ⟨by omega, hin⟩

end

/-! `acqw`. -/

theorem State.cur_trigger (s : State) (c : Crew) (t : Trigger) : (s.trigger c t).cur = s.cur := by
  have hskids : ∀ (f : State → GangRef × Gang → State) (ps : List (GangRef × Gang)) (u : State), (∀ u p, (f u p).cur = u.cur) →
      (ps.foldl f u).cur = u.cur := fun f ps u hf => foldl_cur hf ps u
  unfold State.trigger
  split
  · rfl
  · dsimp only
    split
    · exact hskids _ _ _ fun u p => State.updGang_cur ..
    · exact hskids _ _ _ fun u p => State.updGang_cur ..

theorem State.cur_watchVirtual (s : State) (g : GangRef) (pc : PC) (bit : Nat) (eas : List VAddr) (n : Nat) :
    (s.watchVirtual g pc bit eas n).cur = s.cur := by
  unfold State.watchVirtual
  split
  · rfl
  · split
    · rfl
    · dsimp only
      split
      · rfl
      · exact State.cur_trigger ..

theorem State.cur_place1 (s : State) (q : Ask) (t : Team) (va : VAddr) (n : Nat) : (s.place1 q t va n).2.cur = s.cur := by
  unfold State.place1
  split
  · split <;> rfl
  · exact State.cur_translate ..

theorem State.cur_resolve1_version (s : State) (q : Ask) (t : Team) (n lane : Nat) (lanes : LaneSet) (va : VAddr) (dst : Dest) :
    (s.resolve1 q t n ⟨lane, lanes, va, .version false dst⟩).2.cur = s.cur := by
  have hplace := s.cur_place1 q t va n
  unfold State.resolve1
  split
  · rename_i p s1 hp
    rw [hp] at hplace
    exact hplace
  · rename_i x s1 hx hp
    rw [hp] at hplace
    exact hplace

section
variable {s u : State} {v : View} {rx : Bool} {a b : Reg} {t : Team} {p : Place} {r : LaneReq}

/-- The byte of module memory that a place begins at, and 0 elsewhere: what a group that waits on VERSION waits for. -/
def placeByte : Place → Nat
  | .mem pa _ => pa
  | _ => 0

/-- The address and the request of `acqw`. -/
def View.versionAddr (v : View) (sh : Shape) : VAddr := (v.opA sh 0).setWidth 57
def View.versionAsk (v : View) (sh : Shape) : LaneReq := ⟨32, v.act, v.versionAddr sh, .version false []⟩

/-- `acqw` where its address reaches a place: it tests VERSION there, and goes on or waits (R151). -/
theorem exec_acqw_placed (h : s.Issues (.acqw a b) v rx) (hact : v.act ≠ 0) (ht : v.core.team? v.gang.team = some t)
    (hal : (v.versionAddr (shape (.acqw a b) v.mode v.cur.lit.isSome)).toNat % 8 = 0)
    (hap : isAperture (v.versionAddr (shape (.acqw a b) v.mode v.cur.lit.isSome)) = true →
      ∃ q, s.aperture v.cur.gang.core t (v.versionAddr (shape (.acqw a b) v.mode v.cur.lit.isSome)).toNat 8 = some q)
    (hr : s.resolve1 (laneAsk v.core v.cur.gang.core v.gang (v.versionAsk (shape (.acqw a b) v.mode v.cur.lit.isSome))) t 8
      (v.versionAsk (shape (.acqw a b) v.mode v.cur.lit.isSome)) =
        (⟨r, .ok p, v.versionAddr (shape (.acqw a b) v.mode v.cur.lit.isSome)⟩, u)) :
    exec (.acqw a b) s = .next
      (if u.accessPending v.cur.gang (fun q => samePlace q.place p q.size 8) ||
          !versionReached (BitVec.ofNat 32 (natOfBytes (u.readPlace p 4)))
            ((v.opB (shape (.acqw a b) v.mode v.cur.lit.isSome) 0).setWidth 32) then
        ((u.watchVirtual v.cur.gang v.cur.addr 2 [v.versionAddr (shape (.acqw a b) v.mode v.cur.lit.isSome)] 4).hold .acq).updGang
          v.cur.gang fun x => x.setGroup v.cur.entry
            { x.group v.cur.entry with wake := placeByte p }
      else (((u.watchVirtual v.cur.gang v.cur.addr 2 [v.versionAddr (shape (.acqw a b) v.mode v.cur.lit.isSome)] 4).issued v
        (.acqw a b) rx).acquire v.cur.gang.core (v.core.sessionOf v.gang)
          (v.versionAddr (shape (.acqw a b) v.mode v.cur.lit.isSome))).retire) := by
  have hno : ¬(isAperture (v.versionAddr (shape (.acqw a b) v.mode v.cur.lit.isSome)) = true ∧
      (s.aperture v.cur.gang.core t (v.versionAddr (shape (.acqw a b) v.mode v.cur.lit.isSome)).toNat 8).isNone = true) := by
    rintro ⟨hb, hn⟩
    obtain ⟨q, hq⟩ := hap hb
    rw [hq] at hn
    cases hn
  rw [object_active h hact (exec_acqw a b)]
  unfold View.versionAsk View.versionAddr at *
  simp only [hal, ne_eq, not_true_eq_false, if_false, ht, hr]
  rw [if_neg hno]
  rfl

end

/-- `State.hold_wake_wait` with the present sequence named. -/
theorem State.held_wait {w : State} {cur : IssueCtx} (hcur : w.cur = cur) {r : WaitReason} {wake : Nat} {y : Gang}
    (h : ((w.hold r).updGang cur.gang fun x => x.setGroup cur.entry { x.group cur.entry with wake := wake }).gang?
      cur.gang = some y) : (y.group cur.entry).wait = r ∨ y.groups.length ≤ cur.entry := by
  subst hcur
  exact State.hold_wake_wait h

/-- Settles O31. -/
theorem waitsOnMemoryComplete : Obligations.WaitsOnMemoryComplete := by
  intro a b scope
  refine ⟨fun s v rx h hact => object_inactive h hact (exec_acqw a b), ?acqw, fun s v rx h hp => fence_completes h hp,
    fun s v rx h hp => ?pending⟩
  case acqw =>
    intro s v rx t p u r h hact ht sh va ask hal hap hr hpend
    have hexec := exec_acqw_placed h hact ht hal hap hr
    rw [hpend, Bool.false_or] at hexec
    refine ⟨fun hreached => ?_, fun hearly => ⟨_, hexec, fun y hy => ?_⟩⟩
    · rw [hexec, versionReached, decide_eq_true hreached]
      rfl
    · have hcur : (u.watchVirtual v.cur.gang v.cur.addr 2 [va] 4).cur = v.cur := by
        rw [State.cur_watchVirtual, h.cur, ← State.cur_resolve1_version s _ t 8 32 v.act va [], hr]
      rw [versionReached, decide_eq_false (Nat.not_lt.2 hearly), ← h.cur, Bool.not_false, if_pos rfl] at hy
      rw [← h.cur]
      exact State.held_wait hcur hy
  case pending => rw [exec_fence_eq h, hp, if_pos rfl]

end Sys2Proof.Machine

/-! PROOFS. O32: barriers, register handoff and shared windows (R155 to R157, R218). -/

namespace Sys2Proof.Machine

/-! Completing or waiting at a barrier. -/

section
variable {s : State} {v : View} {rx : Bool} {i : Instr}

theorem State.moves_retire (h : s.Issues i v rx) : s.Moves (s.issued v i rx).retire v rx fun _ => advance v := by
  rw [State.issued_retire h]
  exact State.moves h _

theorem View.allPassed_iff (v : View) :
    v.allPassed = true ↔ ∀ k, k < 8 → v.cur.slices.getLsbD k = true → (v.gang.slice k).stop = .passed := by
  simp [View.allPassed, mem_slicesOf]

theorem barrier_passed {k : View → Shape → State → (State → State) → State}
    (he : ∀ s, exec i s = issueChecked i s fun v sh s1 go => if v.allPassed then (go s1).retire else k v sh s1 go) :
    SliceWise i (fun v _ => ∀ k, k < 8 → v.cur.slices.getLsbD k = true → (v.gang.slice k).stop = .passed)
      (fun v _ _ => advance v) := by
  intro s v rx h hpass
  refine ⟨_, (he s).trans (issueChecked_of_issues h _), ?_⟩
  rw [if_pos (v.allPassed_iff.2 hpass)]
  exact State.moves_retire h

theorem barrier_stands {k : View → Shape → State → (State → State) → State}
    (he : ∀ s, exec i s = issueChecked i s fun v sh s1 go => if v.allPassed then (go s1).retire else k v sh s1 go)
    (h : s.Issues i v rx) (hpass : ¬∀ k, k < 8 → v.cur.slices.getLsbD k = true → (v.gang.slice k).stop = .passed) :
    exec i s = .next (k v (shape i v.mode v.cur.lit.isSome) s fun t => t.issued v i rx) := by
  rw [he, issueChecked_of_issues h, if_neg (mt v.allPassed_iff.1 hpass)]

theorem crewBarrier_stands {n : Nat} {split : Bool} {t : Team} (he : ∀ s, exec i s = cbarOp i n split s) (h : s.Issues i v rx)
    (hpass : ¬∀ k, k < 8 → v.cur.slices.getLsbD k = true → (v.gang.slice k).stop = .passed)
    (ht : v.core.team? v.gang.team = some t) :
    exec i s = .next ((s.standAt v (.cbar n split) .cbar).settleCbar t.crew n 4) := by
  rw [barrier_stands he h hpass, ht]

theorem State.standAt_eq (h : s.Issues i v rx) (st : Stop) (r : WaitReason) : s.standAt v st r =
    (s.hold r).updGang s.cur.gang fun x =>
      x.mapSlices s.cur.slices fun _ sl => if sl.stop = .passed then sl else { sl with stop := st } := by
  rw [State.standAt, h.cur]

end

section
variable {s : State} {v : View} {rx : Bool} {i8 : BitVec 8} {id : BitVec 4}

theorem exec_barvWait_unarrived (h : s.Issues (.barvWait i8) v rx)
    (hno : Cells.find? v.gang.bars i8.toNat = none ∨ v.core.team? v.gang.team = none) :
    exec (.barvWait i8) s = .next (s.issued v (.barvWait i8) rx).retire := by
  rw [exec_barvWait, execBarvWait, issueChecked_of_issues h]
  dsimp only
  split
  · rename_i a t ha ht
    rw [ha, ht] at hno
    simp at hno
  · rfl

theorem exec_barvWait_arrived {a : Arrival} {t : Team} (h : s.Issues (.barvWait i8) v rx)
    (ha : Cells.find? v.gang.bars i8.toNat = some a) (ht : v.core.team? v.gang.team = some t) :
    exec (.barvWait i8) s = .next (if (t.bar i8.toNat).gen ≤ a.gen ∨ (t.bar i8.toNat).older ≠ [] then s.hold .barrier
      else (s.issued v (.barvWait i8) rx).retire) := by
  rw [exec_barvWait, execBarvWait, issueChecked_of_issues h, ha, ht]

theorem barvWait_completes : SliceWise (.barvWait i8) (fun v _ => ∀ a t, Cells.find? v.gang.bars i8.toNat = some a →
    v.core.team? v.gang.team = some t → a.gen < (t.bar i8.toNat).gen ∧ (t.bar i8.toNat).older = [])
    (fun v _ _ => advance v) := by
  intro s v rx h hok
  refine ⟨_, ?_, State.moves_retire h⟩
  cases ha : Cells.find? v.gang.bars i8.toNat with
  | none => exact exec_barvWait_unarrived h (.inl ha)
  | some a =>
    cases ht : v.core.team? v.gang.team with
    | none => exact exec_barvWait_unarrived h (.inr ht)
    | some t =>
      obtain ⟨hgen, holder⟩ := hok a t ha ht
      rw [exec_barvWait_arrived h ha ht, if_neg (by simp [holder]; omega)]

theorem exec_cbarWait_unarrived (h : s.Issues (.cbarWait id) v rx)
    (hno : Cells.find? v.gang.cbars id.toNat = none ∨ s.crewOf s.cur.gang.core v.gang = none) :
    exec (.cbarWait id) s = .next (s.issued v (.cbarWait id) rx).retire := by
  rw [exec_cbarWait, execCbarWait, issueChecked_of_issues h, h.cur]
  dsimp only
  split
  · rename_i a c ha hc
    rw [ha, hc] at hno
    simp at hno
  · rfl

theorem exec_cbarWait_arrived {a : Arrival} {c : Crew} (h : s.Issues (.cbarWait id) v rx)
    (ha : Cells.find? v.gang.cbars id.toNat = some a) (hc : s.crewOf s.cur.gang.core v.gang = some c) :
    exec (.cbarWait id) s = .next (if (c.bar id.toNat).gen ≤ a.gen ∨ (c.bar id.toNat).older ≠ [] then s.hold .cbar
      else ((s.issued v (.cbarWait id) rx).dropL1S s.cur.gang.core (fun _ => true)).retire) := by
  rw [exec_cbarWait, execCbarWait, issueChecked_of_issues h, h.cur, ha, hc]

end

/-! `fetake` and `feput`. -/

theorem laneSet_eq_zero {f : Nat → Bool} (h : ∀ l, l < 32 → f l = false) : laneSet f = 0 := by
  refine BitVec.eq_of_getLsbD_eq fun l hl => ?_
  rw [getLsbD_laneSet f hl, h l hl]
  simp

theorem View.unwritten_eq_false {v : View} {ws : List Nat} (h : ∀ m ∈ v.gang.latency, ∀ e ∈ m.writes, e.1 ∉ ws) :
    v.unwritten ws = false := by
  simpa [View.unwritten] using h

theorem View.lostLanes_eq_zero {v : View} {a : Reg} (h : ∀ w ∈ v.handWords a, v.core.copy v.gang w ≠ .lost) :
    v.lostLanes a = 0 := by
  refine laneSet_eq_zero fun l hl => ?_
  rw [Bool.and_eq_false_iff, decide_eq_false_iff_not]
  by_cases hact : v.act.getLsbD l = true
  · exact .inr (h _ (List.mem_map_of_mem ((mem_lanesOf_iff hl).2 hact)))
  · exact .inl (by simpa using hact)

section
variable {s : State} {v : View} {rx : Bool} {a b : Reg}

/-- `fetake` where no result of the gang is on its way to the copies and none of them is lost. -/
theorem exec_fetake_ready (h : s.Issues (.fetake a) v rx)
    (hready : ∀ m ∈ v.gang.latency, ∀ e ∈ m.writes, e.1 ∉ v.handWords a)
    (hlost : ∀ w ∈ v.handWords a, v.core.copy v.gang w ≠ .lost) :
    exec (.fetake a) s = .next (if (v.handWords a).any (fun w => decide (v.core.copy v.gang w ≠ .full)) then s.hold .empty
      else ((s.issued v (.fetake a) rx).setCore s.cur.gang.core
        (((v.handWords a).foldl (fun k w => k.setCopy v.gang w (.empty .handoff))
          ((s.issued v (.fetake a) rx).core s.cur.gang.core)).wakeMapping wokenByHandoff
            ((v.handWords a).map (v.core.phys v.gang)))).retire) := by
  rw [exec_fetake, execFetake, issueChecked_of_issues h, ← h.cur]
  dsimp only
  rw [View.unwritten_eq_false hready, View.lostLanes_eq_zero hlost, if_neg Bool.false_ne_true, if_neg (not_not.2 rfl)]

/-- `feput` under the same conditions. -/
theorem exec_feput_ready (h : s.Issues (.feput a b) v rx)
    (hready : ∀ m ∈ v.gang.latency, ∀ e ∈ m.writes, e.1 ∉ v.handWords a)
    (hlost : ∀ w ∈ v.handWords a, v.core.copy v.gang w ≠ .lost) :
    exec (.feput a b) s = .next
      (if (v.handWords a).any (fun w => decide (v.core.copy v.gang w ≠ .empty .handoff)) then s.hold .full
      else ((s.issued v (.feput a b) rx).setCore s.cur.gang.core
        ((((s.issued v (.feput a b) rx).core s.cur.gang.core).setRegs v.gang ((lanesOf v.act).map fun l => (a.toNat * 32 + l,
          (v.opB (shape (.feput a b) v.mode v.cur.lit.isSome) l).setWidth 32))).wakeMapping wokenByHandoff
            ((v.handWords a).map (v.core.phys v.gang)))).retire) := by
  rw [exec_feput, execFeput, issueChecked_of_issues h, ← h.cur]
  dsimp only
  rw [View.unwritten_eq_false hready, View.lostLanes_eq_zero hlost, if_neg Bool.false_ne_true, if_neg (not_not.2 rfl)]

theorem any_copy_ne_eq_false {ws : List Nat} {st : CopyState} (h : ∀ w ∈ ws, v.core.copy v.gang w = st) :
    ¬(ws.any fun w => decide (v.core.copy v.gang w ≠ st)) = true := by
  simpa using h

theorem any_copy_ne {ws : List Nat} {st : CopyState} {w : Nat} (hw : w ∈ ws) (h : v.core.copy v.gang w ≠ st) :
    (ws.any fun w => decide (v.core.copy v.gang w ≠ st)) = true :=
  List.any_eq_true.2 ⟨w, hw, decide_eq_true h⟩

end

/-! `wshare`. -/

theorem CoreSt.foldl_setCopy_fe (x : Gang) (f : CopyState) (ws : List Nat) (c : CoreSt) :
    ∃ fe, ws.foldl (fun k w => k.setCopy x w f) c = { c with fe := fe } := by
  induction ws generalizing c with
  | nil => exact ⟨c.fe, rfl⟩
  | cons w r ih =>
    obtain ⟨fe, hfe⟩ := ih (c.setCopy x w f)
    exact ⟨fe, hfe⟩

/-- A change of the full/empty states of a core changes no gang and no scratchpad. -/
theorem State.gang?_setCore_fe (s : State) (core : Nat) (fe : Cells CopyState) (g : GangRef) :
    (s.setCore core { s.core core with fe := fe }).gang? g = s.gang? g := by
  unfold State.gang?
  by_cases hc : g.core = core
  · rw [hc, State.core_setCore_same]
    rfl
  · rw [State.core_setCore_other _ _ _ _ hc]

theorem State.store_setCore_fe (s : State) (core : Nat) (fe : Cells CopyState) (c : Nat) :
    ((s.setCore core { s.core core with fe := fe }).core c).store = (s.core c).store := by
  by_cases hc : c = core
  · rw [hc, State.core_setCore_same]
  · rw [State.core_setCore_other _ _ _ _ hc]

theorem State.store_setGang (s : State) (g : GangRef) (x : Gang) (c : Nat) : ((s.setGang g x).core c).store = (s.core c).store := by
  rw [State.core_setGang]

/-- What two changes of the present gang leave, the second its completion. -/
theorem State.updGang_retire_spec {u : State} {x : Gang} {f : Gang → Gang} (hx : u.gang? u.cur.gang = some x)
    (hf : ∀ y : Gang, (f y).gid = y.gid) :
    ∃ y, (u.updGang u.cur.gang f).retire.gang? u.cur.gang = some y ∧ y.shares = (f x).shares ∧
      (∀ c, ((u.updGang u.cur.gang f).retire.core c).store = (u.core c).store) ∧
      (u.updGang u.cur.gang f).retire.mem = u.mem ∧
      ∀ h, h ≠ u.cur.gang → (u.updGang u.cur.gang f).retire.gang? h = u.gang? h := by
  have hgid := State.gang?_gid hx
  have hfx : (f x).gid = u.cur.gang.gid := (hf x).trans hgid
  have hfirst : (u.setGang u.cur.gang (f x)).gang? u.cur.gang = some (f x) := State.gang?_setGang_same _ _ _ hfx
  rw [State.updGang_some hx, State.retire_eq (s := u.setGang u.cur.gang (f x)) hfirst]
  refine ⟨_, State.gang?_setGang_same _ _ _ ((Gang.moved_gid ..).trans hfx), ?_, fun c => ?_, rfl, fun h hne => ?_⟩
  · rw [Gang.moved_rest]
  · rw [State.store_setGang, State.store_setGang]
  · exact (State.gang?_setGang_other hfirst ((Gang.moved_gid ..).trans hfx) h hne).trans
      (State.gang?_setGang_other hx hfx h hne)

section
variable {s : State} {v : View} {rx : Bool} {a b : Reg}

/-- The refusals of `wshare` (R157). -/
def View.wshareRefused (v : View) (a : Reg) (kb : Word) (slot : Nat) (y : Gang) : Prop :=
  !v.gang.isWhole ∨ fieldNat kb 4 4 ≠ 0 ∨ fieldNat kb 24 8 ≠ 0 ∨ fieldNat kb 16 8 = 0 ∨ slot = v.cur.gang.slot ∨
    y.liveSet = 0 ∨ v.gang.vcount < a.toNat + fieldNat kb 16 8 ∨ y.vcount < fieldNat kb 8 8 + fieldNat kb 16 8 ∨
    v.core.sharedRun v.cur.gang.slot v.gang a.toNat (fieldNat kb 16 8) ∨ v.core.sharedRun slot y (fieldNat kb 8 8) (fieldNat kb 16 8)

/-- The register words of the range that `wshare` maps. -/
def shareWords (a : Reg) (n : Nat) : List Nat := (List.range (n * 32)).map fun j => a.toNat * 32 + j

/-- `wshare` where nothing refuses it and no copy of the range is on its way: every copy of the range is full, and the
gang's own table of shares names the partner's range. -/
theorem exec_wshare_ready {slot : Nat} {y : Gang} {kb : Word} (h : s.Issues (.wshare a b) v rx)
    (hkb : (v.opB (shape (.wshare a b) v.mode v.cur.lit.isSome) 0).setWidth 32 = kb)
    (hp : (v.core.teamGangs v.gang.team).find? (fun e => decide (e.2.num = fieldNat kb 0 4)) = some (slot, y))
    (hok : ¬v.wshareRefused a kb slot y) (hw : v.unwritten (shareWords a (fieldNat kb 16 8)) = false)
    (hfull : ∀ w ∈ shareWords a (fieldNat kb 16 8), ∀ q, v.core.copy v.gang w ≠ .empty q) :
    exec (.wshare a b) s = .next ((((s.issued v (.wshare a b) rx).setCore v.cur.gang.core
      ((shareWords a (fieldNat kb 16 8)).foldl (fun k w => k.setCopy v.gang w .full)
        ((s.issued v (.wshare a b) rx).core v.cur.gang.core))).updGang v.cur.gang fun x =>
          { x with shares := x.shares ++ [⟨a.toNat, fieldNat kb 16 8, slot, fieldNat kb 8 8⟩] }).retire) := by
  subst hkb
  unfold View.wshareRefused at hok
  unfold shareWords at hw hfull ⊢
  rw [exec_wshare, execWshare, issueChecked_of_issues h]
  dsimp only
  rw [hp]
  dsimp only
  rw [if_neg hok, hw, if_neg Bool.false_ne_true, if_neg ?empty]
  case empty =>
    rw [List.any_eq_true]
    rintro ⟨w, hmem, hc⟩
    split at hc
    · exact hfull w hmem _ ‹_›
    · cases hc

theorem wshare_completes {slot : Nat} {y : Gang} {kb : Word} (h : s.Issues (.wshare a b) v rx)
    (hkb : (v.opB (shape (.wshare a b) v.mode v.cur.lit.isSome) 0).setWidth 32 = kb)
    (hp : (v.core.teamGangs v.gang.team).find? (fun e => decide (e.2.num = fieldNat kb 0 4)) = some (slot, y))
    (hok : ¬v.wshareRefused a kb slot y) (hw : v.unwritten (shareWords a (fieldNat kb 16 8)) = false)
    (hfull : ∀ w ∈ shareWords a (fieldNat kb 16 8), ∀ q, v.core.copy v.gang w ≠ .empty q) :
    ∃ t, exec (.wshare a b) s = .next t ∧ ∃ x, t.gang? s.cur.gang = some x ∧
      x.shares = v.gang.shares ++ [⟨a.toNat, fieldNat kb 16 8, slot, fieldNat kb 8 8⟩] ∧
      (∀ c, (t.core c).store = (s.core c).store) ∧ (∀ c, Cells.get 0 t.mem c = Cells.get 0 s.mem c) ∧
      ∀ g, g ≠ s.cur.gang → t.gang? g = s.gang? g := by
  obtain ⟨honly, -, hcur, hgang⟩ := State.issued_spec (.wshare a b) rx h.1
  obtain ⟨fe, hfe⟩ := CoreSt.foldl_setCopy_fe v.gang .full (shareWords a (fieldNat kb 16 8))
    ((s.issued v (.wshare a b) rx).core v.cur.gang.core)
  rw [exec_wshare_ready h hkb hp hok hw hfull, hfe, h.cur]
  have hx := (State.gang?_setCore_fe (s.issued v (.wshare a b) rx) s.cur.gang.core fe s.cur.gang).trans hgang
  obtain ⟨z, hz, hshares, hstore, hmem, hother⟩ := State.updGang_retire_spec
    (u := (s.issued v (.wshare a b) rx).setCore s.cur.gang.core { (s.issued v (.wshare a b) rx).core s.cur.gang.core with fe := fe })
    (f := fun x => { x with shares := x.shares ++ [⟨a.toNat, fieldNat kb 16 8, slot, fieldNat kb 8 8⟩] })
    (by rw [State.setCore_cur, hcur]; exact hx) (fun _ => rfl)
  rw [State.setCore_cur, hcur] at hz hstore hmem hother
  refine ⟨_, rfl, z, hz, hshares, fun c => ?_, fun c => ?_, fun g hg => ?_⟩
  · rw [hstore, State.store_setCore_fe, honly.cores c]
  · rw [hmem, State.setCore_mem, honly.memory]
  · rw [hother g hg, State.gang?_setCore_fe, honly.gangs g hg]

end

theorem barriersComplete (id : BitVec 4) (n : BitVec 16) (i8 n8 : BitVec 8) {i : Instr}
    (hm : i ∈ [Instr.bar id n, .barvArrive i8 n8, .cbar id, .cbarArrive id]) :
    SliceWise i (fun v _ => ∀ k, k < 8 → v.cur.slices.getLsbD k = true → (v.gang.slice k).stop = .passed)
      (fun v _ _ => advance v) := by
  simp only [List.mem_cons, List.not_mem_nil, or_false] at hm
  rcases hm with rfl | rfl | rfl | rfl
  · exact barrier_passed (exec_bar id n)
  · exact barrier_passed (exec_barvArrive i8 n8)
  · exact barrier_passed (exec_cbar id)
  · exact barrier_passed (exec_cbarArrive id)

/-- Settles O32. -/
theorem barriersAndHandoffsComplete : Obligations.BarriersAndHandoffsComplete := by
  refine ⟨fun id n i8 n8 => ?barriers, fun a b p => ?handoff⟩
  case barriers =>
    refine ⟨fun i hm => barriersComplete id n i8 n8 hm, fun s v rx h hp => ?_, fun s v rx h hp => ?_, fun s v rx t h hp ht => ?_,
      fun s v rx t h hp ht => ?_, barvWait_completes, fun s v rx a t h ha ht hwait => ?_, fun s v rx h hno => ?_,
      fun s v rx a c h ha hc hgen holder => ?_, fun s v rx a c h ha hc hwait => ?_⟩
    · rw [barrier_stands (exec_bar id n) h hp, State.standAt_eq h, h.cur]
    · rw [barrier_stands (exec_barvArrive i8 n8) h hp, State.standAt_eq h, h.cur]
    · rw [crewBarrier_stands (exec_cbar id) h hp ht, State.standAt_eq h]
    · rw [crewBarrier_stands (exec_cbarArrive id) h hp ht, State.standAt_eq h]
    · rw [exec_barvWait_arrived h ha ht, if_pos hwait]
    · exact ⟨_, exec_cbarWait_unarrived h hno, State.moves_retire h⟩
    · rw [exec_cbarWait_arrived h ha hc, if_neg (by simp [holder]; omega)]
    · rw [exec_cbarWait_arrived h ha hc, if_pos hwait]
  case handoff =>
    refine ⟨predWise_of (exec_fetest p b) fun s v rx h l => decide_eq_true_iff, fun s v rx h hr hfull => ?_,
      fun s v rx h hr hempty => ?_, fun s v rx w h hr hw hne hlost => ?_, fun s v rx w h hr hw hne hlost => ?_, ?wshare⟩
    · rw [exec_fetake_ready h hr fun w hw hl => CopyState.noConfusion ((hfull w hw).symm.trans hl), if_neg (any_copy_ne_eq_false (ws := v.handWords a) hfull)]
      rfl
    · rw [exec_feput_ready h hr fun w hw hl => CopyState.noConfusion ((hempty w hw).symm.trans hl), if_neg (any_copy_ne_eq_false (ws := v.handWords a) hempty)]
      rfl
    · rw [exec_fetake_ready h hr hlost, if_pos (any_copy_ne (ws := v.handWords a) hw hne)]
    · rw [exec_feput_ready h hr hlost, if_pos (any_copy_ne (ws := v.handWords a) hw hne)]
    case wshare =>
      intro s v rx h kb n slot y hp hwhole hz4 hz24 hn hslot hlive hva hpf hs1 hs2 hlat hcopies
      refine wshare_completes h rfl hp ?_ (View.unwritten_eq_false fun m hm e he hin => ?_) fun w hw => ?_
      · rw [← h.cur] at hslot hs1
        unfold View.wshareRefused
        simp only [hwhole, Bool.not_true, Bool.false_eq_true, false_or, not_or]
        exact ⟨not_not.2 hz4, not_not.2 hz24, hn, hslot, hlive, by omega, by omega, Bool.eq_false_iff.1 hs1, Bool.eq_false_iff.1 hs2⟩
      · obtain ⟨j, hj, hje⟩ := List.mem_map.1 hin
        have hj := List.mem_range.1 hj
        exact hlat m hm e he (by constructor <;> omega)
      · obtain ⟨j, hj, rfl⟩ := List.mem_map.1 hw
        exact hcopies j (List.mem_range.1 hj)

end Sys2Proof.Machine

/-! PROOFS. O33: copy, gather and collective instructions push their commands (R190, R192, R200, R204, R220). -/

namespace Sys2Proof.Machine

/-! A core or a gang replaced. -/

section
variable (s : State) {core : Nat} {k : CoreSt}

theorem State.gang?_setCore_gangs (h : k.gangs = (s.core core).gangs) (g : GangRef) : (s.setCore core k).gang? g = s.gang? g := by
  unfold State.gang? CoreSt.gang?
  by_cases hc : g.core = core
  · rw [hc, State.core_setCore_same, h]
  · rw [State.core_setCore_other _ _ _ _ hc]

theorem State.store_setCore (h : k.store = (s.core core).store) (c : Nat) : ((s.setCore core k).core c).store = (s.core c).store := by
  by_cases hc : c = core
  · rw [hc, State.core_setCore_same, h]
  · rw [State.core_setCore_other _ _ _ _ hc]

/-- A core keeps all but its gangs when one is updated. -/
theorem State.core_updGang (g : GangRef) (f : Gang → Gang) (c : Nat) :
    (s.updGang g f).core c = { s.core c with gangs := ((s.updGang g f).core c).gangs } := by
  cases hx : s.gang? g with
  | none => rw [State.updGang_none hx]
  | some x =>
    rw [State.updGang_some hx]
    exact State.core_setGang s g (f x) c

end

theorem State.gang?_updGang_same {s : State} {g : GangRef} {x : Gang} {f : Gang → Gang} (hx : s.gang? g = some x)
    (hf : (f x).gid = x.gid) : (s.updGang g f).gang? g = some (f x) := by
  rw [State.updGang_some hx]
  exact State.gang?_setGang_same _ _ _ (hf.trans (State.gang?_gid hx))

theorem State.gang?_updGang_other {s : State} {g h : GangRef} {f : Gang → Gang} (hf : ∀ x : Gang, (f x).gid = x.gid) (hne : h ≠ g) :
    (s.updGang g f).gang? h = s.gang? h := by
  cases hx : s.gang? g with
  | none => rw [State.updGang_none hx]
  | some x =>
    rw [State.updGang_some hx]
    exact State.gang?_setGang_other hx ((hf x).trans (State.gang?_gid hx)) h hne

/-! What matching the operands of a command against watchpoints leaves (R230, R328): everything but the crews, what is on
its way, and the skids of gangs. -/

/-- Gang `x` becomes `y` by a change of its skid alone. -/
def Gang.SkidOnly (x y : Gang) : Prop := y = { x with skid := y.skid }

theorem Gang.SkidOnly.trans {x y z : Gang} (h : x.SkidOnly y) (k : y.SkidOnly z) : x.SkidOnly z := by
  unfold Gang.SkidOnly at *
  rw [k, h]

/-- From `u` to `t` nothing that a command rests on has changed. -/
structure State.KeepsCommands (u t : State) : Prop where
  memory : t.mem = u.mem
  cur : t.cur = u.cur
  cores : ∀ c, t.core c = { u.core c with gangs := (t.core c).gangs }
  gangs : ∀ g x, u.gang? g = some x → ∃ y, t.gang? g = some y ∧ x.SkidOnly y

theorem State.KeepsCommands.refl (u : State) : u.KeepsCommands u := ⟨rfl, rfl, fun _ => rfl, fun _ x h => ⟨x, h, rfl⟩⟩

theorem State.KeepsCommands.trans {s t u : State} (h : s.KeepsCommands t) (k : t.KeepsCommands u) : s.KeepsCommands u := by
  refine ⟨k.memory.trans h.memory, k.cur.trans h.cur, fun c => ?_, fun g x hx => ?_⟩
  · rw [k.cores c, h.cores c]
  · obtain ⟨y, hy, hxy⟩ := h.gangs g x hx
    obtain ⟨z, hz, hyz⟩ := k.gangs g y hy
    exact ⟨z, hz, hxy.trans hyz⟩

theorem State.foldl_keepsCommands {α : Type} {f : State → α → State} (hf : ∀ (s : State) a, s.KeepsCommands (f s a)) (l : List α) (s : State) :
    s.KeepsCommands (l.foldl f s) := by
  induction l generalizing s with
  | nil => exact .refl s
  | cons a r ih => exact (hf s a).trans (ih _)

theorem State.updCrew_keepsCommands (s : State) (id : Nat) (f : Crew → Crew) : s.KeepsCommands (s.updCrew id f) :=
  ⟨rfl, rfl, fun _ => rfl, fun _ x h => ⟨x, h, rfl⟩⟩

theorem State.post_keepsCommands (s : State) (e : Event) : s.KeepsCommands (s.post e) :=
  ⟨rfl, rfl, fun _ => rfl, fun _ x h => ⟨x, h, rfl⟩⟩

theorem State.updGang_keepsCommands (s : State) (g : GangRef) {f : Gang → Gang} (hf : ∀ x : Gang, x.SkidOnly (f x)) :
    s.KeepsCommands (s.updGang g f) := by
  have hgid : ∀ x : Gang, (f x).gid = x.gid := fun x => by rw [hf x]
  refine ⟨State.updGang_mem .., State.updGang_cur .., s.core_updGang g f, fun h x hx => ?_⟩
  by_cases hne : h = g
  · subst hne
    exact ⟨f x, State.gang?_updGang_same hx (hgid x), hf x⟩
  · exact ⟨x, (State.gang?_updGang_other hgid hne).trans hx, rfl⟩

theorem State.trigger_keepsCommands (s : State) (c : Crew) (t : Trigger) : s.KeepsCommands (s.trigger c t) := by
  have hskids : ∀ (u : State) (p : GangRef × Gang) (now : Bool),
      u.KeepsCommands (u.updGang p.1 fun y => { y with skid := if now then y.burst else 0 }) :=
    fun u p now => u.updGang_keepsCommands p.1 fun _ => rfl
  unfold State.trigger
  split
  · exact .refl s
  · have hcrew := s.updCrew_keepsCommands c.id fun k => { k with trig := some t }
    dsimp only
    split
    · exact hcrew.trans (State.foldl_keepsCommands (fun u p => hskids u p _) _ _)
    · exact (hcrew.trans (State.foldl_keepsCommands (fun u p => hskids u p _) _ _)).trans (State.post_keepsCommands _ _)

theorem State.watchVirtual_keepsCommands (s : State) (g : GangRef) (pc : PC) (bit : Nat) (eas : List VAddr) (n : Nat) :
    s.KeepsCommands (s.watchVirtual g pc bit eas n) := by
  unfold State.watchVirtual
  split
  · exact .refl s
  · split
    · exact .refl s
    · dsimp only
      split
      · exact .refl s
      · exact State.trigger_keepsCommands ..

theorem State.watchRuns_keepsCommands (s : State) (v : View) (t : Team) (k : Cmd) : s.KeepsCommands (s.watchRuns v t k) := by
  unfold State.watchRuns
  exact (State.foldl_keepsCommands (fun u p => u.watchVirtual_keepsCommands ..) _ _).trans
    (State.foldl_keepsCommands (fun u p => u.watchVirtual_keepsCommands ..) _ _)

theorem State.raisePbc_keepsCommands (s : State) (t : Team) (op : CmdOp) : s.KeepsCommands (s.raisePbc t op) := by
  unfold State.raisePbc
  split
  · exact State.updCrew_keepsCommands ..
  · exact .refl s

/-! A push and the completion after it. -/

/-- The command that a push of the present sequence appends. -/
def State.pushed (s : State) (v : View) (op : CmdOp) (ch : Nat) : Cmd :=
  { v.cmdOf op ch with id := s.nextId }

/-- A push on the state of the core: its queue has one more command. -/
def State.queueCore (s : State) (v : View) (q : Nat) (op : CmdOp) (ch : Nat) : CoreSt :=
  { s.core v.cur.gang.core with queues := (s.core v.cur.gang.core).queues.modify q (· ++ [s.pushed v op ch]) }

def State.queuePush (s : State) (v : View) (q : Nat) (op : CmdOp) (ch : Nat) : State :=
  s.fresh.setCore v.cur.gang.core (s.queueCore v q op ch)

theorem State.push_eq (s : State) (v : View) (q : Nat) (op : CmdOp) (ch : Nat) : s.push v q op ch =
    ((s.queuePush v q op ch).updGang v.cur.gang (fun x => x.count q)).post (.commandFire v.cur.gang.core q s.nextId) := rfl

theorem State.queuePush_gang? (s : State) (v : View) (q : Nat) (op : CmdOp) (ch : Nat) (g : GangRef) :
    (s.queuePush v q op ch).gang? g = s.gang? g :=
  State.gang?_setCore_gangs s.fresh (k := s.queueCore v q op ch) rfl g

section
variable (s : State) (v : View) (q : Nat) (op : CmdOp) (ch : Nat)

theorem State.push_core (c : Nat) : ((s.push v q op ch).core c).store = (s.core c).store ∧
    ((s.push v q op ch).core v.cur.gang.core).queues = (s.core v.cur.gang.core).queues.modify q (· ++ [s.pushed v op ch]) ∧
    ((s.push v q op ch).core v.cur.gang.core).follow = (s.core v.cur.gang.core).follow := by
  have hgang := fun c => (s.queuePush v q op ch).core_updGang v.cur.gang (fun x => x.count q) c
  have hpush : ∀ c, (s.push v q op ch).core c = ((s.queuePush v q op ch).updGang v.cur.gang (fun x => x.count q)).core c :=
    fun _ => rfl
  have hsame : (s.queuePush v q op ch).core v.cur.gang.core = s.queueCore v q op ch := State.core_setCore_same ..
  refine ⟨?_, ?_, ?_⟩
  · rw [hpush, hgang]
    exact State.store_setCore s.fresh (k := s.queueCore v q op ch) rfl c
  · rw [hpush, hgang, hsame]
    rfl
  · rw [hpush, hgang, hsame]
    rfl

theorem State.push_gang? {x : Gang} (hx : s.gang? v.cur.gang = some x) :
    (s.push v q op ch).gang? v.cur.gang = some (x.count q) :=
  State.gang?_updGang_same ((s.queuePush_gang? v q op ch v.cur.gang).trans hx) rfl

theorem State.push_mem : (s.push v q op ch).mem = s.mem := State.updGang_mem ..

theorem State.push_cur : (s.push v q op ch).cur = s.cur := State.updGang_cur ..

end

/-- The present sequence completes by `retire`: what it leaves of a core, and of its own gang. -/
theorem State.retire_core (s : State) (c : Nat) : s.retire.core c = { s.core c with gangs := (s.retire.core c).gangs } :=
  s.core_updGang _ _ c

theorem State.retire_gang? {s : State} {x : Gang} (hx : s.gang? s.cur.gang = some x) : s.retire.gang? s.cur.gang =
    some (x.moved s.cur.entry s.cur.slices fun _ sl => { sl.completed s.cur.addr s.cur.next with stop := .running }) :=
  State.gang?_updGang_same hx (Gang.moved_gid ..)

theorem State.retire_mem (s : State) : s.retire.mem = s.mem := State.updGang_mem ..
theorem State.retire_agenda (s : State) : s.retire.agenda = s.agenda := State.updGang_agenda ..

/-- A command pushed by a sequence that completes. -/
theorem State.KeepsCommands.pushed {u w : State} {v : View} (h : u.KeepsCommands w) (hcur : u.cur = v.cur) (q : Nat) (op : CmdOp) (ch : Nat) :
    u.Pushed (w.push v q op ch).retire v q op ch := by
  have hwcur : (w.push v q op ch).cur = v.cur := (w.push_cur v q op ch).trans (h.cur.trans hcur)
  refine ⟨⟨w.pushed v op ch, ?_, rfl, rfl, rfl, rfl, rfl, rfl, ?_⟩, fun x hx => ?_, fun a => ?_, fun c => ?_⟩
  · rw [State.retire_core, (w.push_core v q op ch v.cur.gang.core).2.1, h.cores]
  · rw [State.retire_agenda]
    exact List.mem_append_right _ (List.mem_singleton.2 rfl)
  · obtain ⟨y, hy, hxy⟩ := h.gangs _ x hx
    have hpush := w.push_gang? v q op ch hy
    rw [← hwcur] at hpush
    have hdone := State.retire_gang? hpush
    rw [hwcur] at hdone
    refine ⟨_, hdone, ?_, ?_, ?_, fun n hn => ?_⟩
    · rw [Gang.moved_rest, hxy]; rfl
    · rw [Gang.moved_rest, hxy]; rfl
    · rw [Gang.moved_rest, hxy]; rfl
    · rw [Gang.moved_slice _ _ _ _ _ hn, hxy]; rfl
  · rw [State.retire_mem, State.push_mem, h.memory]
  · rw [State.retire_core, (w.push_core v q op ch c).1, h.cores]

/-! Engine instructions. -/

theorem State.pushWait_none {s : State} {v : View} {q : Nat} (hc : v.gang.counters.getD q 0 < 63)
    (hq : (s.core v.cur.gang.core).queued q < Config.queueDepth.getD q 0) : s.pushWait v q = none := by
  rw [State.pushWait, if_neg (by omega), if_neg (by omega)]

theorem State.Issues.core {s : State} {i : Instr} {v : View} {rx : Bool} (h : s.Issues i v rx) : v.core = s.core v.cur.gang.core := by
  obtain ⟨hv, -⟩ := h
  unfold State.view? at hv
  split at hv
  · cases hv
  · obtain rfl := Option.some.inj hv
    rfl

theorem pushesWhen_of {i : Instr} {q : Nat} {check : State → View → Shape → Team → EngCheck}
    (he : ∀ s, exec i s = engineOp i q check s) : PushesWhen i q check := by
  intro s v rx h
  have hexec := (he s).trans (issueChecked_of_issues h _)
  dsimp only at hexec ⊢
  refine ⟨fun hact => ?_, fun t c info lanes addr hact ht hcheck => ?_, fun t op ch n hact ht hcheck hcount hqueue hpbc hlog => ?_⟩
  · rw [hexec, if_pos hact]
  · rw [hexec, if_neg hact, ht]
    dsimp only
    rw [hcheck]
  · rw [h.core] at hqueue
    refine ⟨_, ?_, State.KeepsCommands.pushed (((s.issued v i rx).watchRuns_keepsCommands v t (v.cmdOf op ch)).trans
      (State.raisePbc_keepsCommands _ t op)) ((State.issued_cur h).trans h.cur.symm) q op ch⟩
    rw [hexec, if_neg hact, ht]
    dsimp only
    rw [hcheck]
    dsimp only
    rw [State.pushWait_none hcount hqueue]
    dsimp only
    rw [hpbc, if_neg Bool.false_ne_true, hlog, Bool.not_true, if_neg Bool.false_ne_true]

/-! The conditions of `copy`, where neither side is a ring (R200, R201). -/

theorem fieldNat_copy_ctl (c : Word) : cctlLen c = c.toNat % 2 ^ 20 ∧ fieldNat c 20 2 = c.toNat / 2 ^ 20 % 4 := by
  constructor
  · simp [cctlLen, fieldNat]
  · simp [fieldNat, Nat.shiftRight_eq_div_pow]

theorem fieldNat_top_eq_zero_iff (c : Word) : fieldNat c 30 2 = 0 ↔ c.getLsbD 30 = false ∧ c.getLsbD 31 = false := by
  have h30 : c.getLsbD 30 = (c.extractLsb' 30 2).getLsbD 0 := by simp
  have h31 : c.getLsbD 31 = (c.extractLsb' 30 2).getLsbD 1 := by simp
  have hf : fieldNat c 30 2 = (c.extractLsb' 30 2).toNat := by simp [fieldNat]
  rw [h30, h31, hf]
  generalize c.extractLsb' 30 2 = x
  revert x
  decide

section
variable {s : State} {v : View} {sh : Shape} {t : Team}

/-- `copyCheck` of a `copy` with no ring on either side. -/
theorem copyCheck_plain {c : Word} (hc : (v.opB sh 0).setWidth 32 = c) (hout : c.getLsbD 22 = false) (hin : c.getLsbD 26 = false) :
    copyCheck s v sh t false =
      if fieldNat c 30 2 ≠ 0 then .trap 0x02 0 v.act 0
      else if s.rangeOk v.cur.gang.core t ((v.opA sh 0).setWidth 57) 0 (cctlLen c) = false then
        .trap 0x40 0x300 v.act ((v.opA sh 0).setWidth 57)
      else if s.rangeOk v.cur.gang.core t ((v.opC sh 0).setWidth 57) 0 (cctlLen c) = false then
        .trap 0x40 0x302 v.act ((v.opC sh 0).setWidth 57)
      else .go (.copy ((v.opC sh 0).setWidth 57) ((v.opA sh 0).setWidth 57) c) (fieldNat c 20 2) (cctlLen c / 128 + 2) := by
  have hringIn : ∀ dst src, (CmdOp.copy dst src c).ringIn = none := fun _ _ => if_neg (by rw [hin]; decide)
  have hringOut : ∀ dst src, (CmdOp.copy dst src c).ringOut = none := fun _ _ => if_neg (by rw [hout]; decide)
  unfold copyCheck
  simp only [hc, hringIn, hringOut, ringShort, ringOff, Bool.false_eq_true, if_false, false_and, or_false, Bool.not_false,
    true_and, Option.isNone_none, Option.any_none, Bool.not_eq_true', or_self]

end

/-- Settles O33. -/
theorem copyCommandsPush : Obligations.CopyCommandsPush := by
  intro d a b ch n
  refine ⟨pushesWhen_of (exec_copy d a b), pushesWhen_of (exec_cfill d a b), pushesWhen_of (exec_tld ch n a b),
    pushesWhen_of (exec_tsto ch n a b), pushesWhen_of (exec_gath d a b), pushesWhen_of (exec_scat d a b),
    pushesWhen_of (exec_mcast d a b), ?_⟩
  intro s v sh t c len src dst hout hin
  obtain ⟨hlen, hch⟩ := fieldNat_copy_ctl c
  rw [copyCheck_plain rfl hout hin, hlen, hch]
  refine ⟨fun h30 h31 hsrc hdst => ?_, fun htop => ?_, fun h30 h31 hsrc => ?_⟩
  · rw [if_neg (not_not.2 ((fieldNat_top_eq_zero_iff c).2 ⟨h30, h31⟩)), if_neg (by rw [hsrc]; decide), if_neg (by rw [hdst]; decide)]
  · rw [if_pos]
    rintro hz
    obtain ⟨h30, h31⟩ := (fieldNat_top_eq_zero_iff c).1 hz
    rw [h30, h31] at htop
    simp at htop
  · rw [if_neg (not_not.2 ((fieldNat_top_eq_zero_iff c).2 ⟨h30, h31⟩)), if_pos hsrc]

end Sys2Proof.Machine

/-! PROOFS. O34 and O35: matrix instructions, `asave` and `copyf` push their commands (R185, R192 to R199, R202). -/

namespace Sys2Proof.Machine

theorem State.cur_issued (u : State) (v : View) (i : Instr) (rx : Bool) : (u.issued v i rx).cur = u.cur := by
  unfold State.issued State.takesEffect
  rw [State.logRows_cur]
  split
  · exact State.updGang_cur ..
  · rfl

theorem State.cur_expect (u : State) (d : Dest) : (u.expect d).cur = u.cur := by
  unfold State.expect
  split <;> rfl

theorem plansWhen_of {i : Instr} {p : View → Shape → Team → MxPlan} {dst : View → Dest} {dsts : MxOp → Dest}
    (he : ∀ s, exec i s = matrixOp i dsts s) (hp : ∀ v sh t, mxPlan i v sh t = some (p v sh t))
    (hd : ∀ v sh t, dsts (p v sh t).op = dst v) : PlansWhen i p dst := by
  intro s v rx t h ht
  have hexec := (he s).trans (issueChecked_of_issues h _)
  dsimp only at hexec ⊢
  refine ⟨fun hact => ?_, fun c info hact htile => ?_, fun u x hact htile hacc hx hcount hqueue => ?_⟩
  · rw [hexec, if_pos hact]
  · rw [hexec, if_neg hact, ht]
    dsimp only
    rw [hp]
    dsimp only
    rw [htile]
  · refine ⟨_, ?_, State.KeepsCommands.pushed (.refl _) ?_ 1 _ 0⟩
    · rw [hexec, if_neg hact, ht]
      dsimp only
      rw [hp]
      dsimp only
      rw [htile]
      dsimp only
      rw [hacc]
      dsimp only
      rw [State.pushWait_none hcount (h.cur ▸ hqueue), hd]
    · rw [State.cur_expect, State.cur_issued, State.cur_checkAcc hacc, h.cur]

/-- The rows that `tperm` takes, from the values that its active lanes hold (R196). -/
theorem mxPlan_tperm (c : BitVec 2) (a : BitVec 4) (b : Reg) (v : View) (sh : Shape) (t : Team) : mxPlan (.tperm c a b) v sh t =
    some ⟨.tperm c.toNat a.toNat ((List.range 32).map fun l =>
        let x := ((v.opB sh l).setWidth 32 : Word).toNat
        if v.act.getLsbD l = true ∧ x < (t.tile a.toNat).rows then some x else none),
      [(a.toNat, true)], none, some c.toNat, some a.toNat⟩ := by
  have hrow : ∀ l, (if v.act.getLsbD l then
        let x := ((v.opB sh l).setWidth 32 : Word).toNat
        if x < (t.tile a.toNat).rows then some x else none
      else none) = (if v.act.getLsbD l = true ∧ ((v.opB sh l).setWidth 32 : Word).toNat < (t.tile a.toNat).rows then
        some ((v.opB sh l).setWidth 32 : Word).toNat else none) := fun l => (ite_and _ _ _ _).symm
  unfold mxPlan
  simp only [hrow]

/-- Settles O34. -/
theorem matrixCommandsPush : Obligations.MatrixCommandsPush := by
  intro d b c m n e6 e8 k f none' lanes
  have hlanes : ∀ v : View, ((lanesOf v.act).map fun l => (l, d.toNat * 32 + l)).map (fun e => (e.1, [e.2])) = lanes v :=
    fun v => List.map_map ..
  exact ⟨plansWhen_of (exec_tmma c m n) (fun _ _ _ => rfl) (fun _ _ _ => rfl),
    plansWhen_of (exec_ttr c m) (fun _ _ _ => rfl) (fun _ _ _ => rfl),
    plansWhen_of (exec_tred c m) (fun _ _ _ => rfl) (fun _ _ _ => rfl),
    plansWhen_of (exec_tperm c m b) (mxPlan_tperm c m b) (fun _ _ _ => rfl),
    plansWhen_of (exec_azero c) (fun _ _ _ => rfl) (fun _ _ _ => rfl),
    plansWhen_of (exec_acvt c f e8) (fun _ _ _ => rfl) (fun _ _ _ => rfl),
    plansWhen_of (exec_amov d e6 c k) (fun _ _ _ => rfl) (fun v _ _ => hlanes v),
    plansWhen_of (exec_amovt m c e8) (fun _ _ _ => rfl) (fun _ _ _ => rfl),
    plansWhen_of (exec_tmvGet d m k) (fun _ _ _ => rfl) (fun v _ _ => hlanes v),
    plansWhen_of (exec_tmvPut d m k) (fun _ _ _ => rfl) (fun _ _ _ => rfl),
    plansWhen_of (exec_tfill m b) (fun _ _ _ => rfl) (fun _ _ _ => rfl),
    plansWhen_of (exec_arest c) (fun _ _ _ => rfl) (fun _ _ _ => rfl)⟩

/-! `asave`. -/

section
variable {s : State} {v : View} {rx : Bool} {c : BitVec 2}

theorem State.gang?_updAcc (s : State) (core k : Nat) (f : Acc → Acc) (g : GangRef) : (s.updAcc core k f).gang? g = s.gang? g :=
  State.gang?_setCore_gangs s (k := { s.core core with accs := (s.core core).accs.modify k f }) rfl g

/-- `asave` where its counter and queue have room: the accumulator goes unowned, or its image is written first. -/
theorem exec_asave_unowned (h : s.Issues (.asave c) v rx) (hact : v.act ≠ 0) (hwait : s.pushWait v 1 = none)
    (hx : (v.core.accs.getD c.toNat Acc.init).valid = false) :
    exec (.asave c) s = .next ((s.issued v (.asave c) rx).push v 1 (.matrix (.asave c.toNat)) 0).retire := by
  have hgang : s.gang? v.cur.gang = some v.gang := by rw [h.cur]; exact h.gang
  rw [exec_asave, execAsave, issueChecked_of_issues h]
  dsimp only
  rw [if_neg hact, hwait, hx]
  dsimp only
  rw [Bool.not_false, if_pos rfl, hgang, Option.isNone_some, if_neg Bool.false_ne_true]

theorem exec_asave_owned {u : State} {g : Gang} (h : s.Issues (.asave c) v rx) (hact : v.act ≠ 0) (hwait : s.pushWait v 1 = none)
    (hx : (v.core.accs.getD c.toNat Acc.init).valid = true)
    (hbusy : s.accBusy v.cur.gang.core c.toNat (v.core.accs.getD c.toNat Acc.init).session = false)
    (hspill : s.spill v.cur.gang.core c.toNat (v.core.accs.getD c.toNat Acc.init) = .done () u)
    (hg : u.gang? v.cur.gang = some g) :
    exec (.asave c) s = .next (((u.disown v.cur.gang.core c.toNat).issued v (.asave c) rx).push v 1
      (.matrix (.asave c.toNat)) 0).retire := by
  have hgang : (u.disown v.cur.gang.core c.toNat).gang? v.cur.gang = some g := (State.gang?_updAcc ..).trans hg
  rw [exec_asave, execAsave, issueChecked_of_issues h]
  dsimp only
  rw [if_neg hact, hwait, hx]
  dsimp only
  rw [if_neg (by decide), hbusy, if_neg (by decide), hspill]
  dsimp only
  rw [hgang, Option.isNone_some, if_neg Bool.false_ne_true]

end

/-! `copyf`. -/

theorem State.issued_counts (u : State) (v : View) (i : Instr) (rx : Bool) :
    (u.issued v i rx).mem = u.mem ∧ (∀ c, ((u.issued v i rx).core c).follow = (u.core c).follow) ∧
      ∀ x, u.gang? v.cur.gang = some x → ∃ y, (u.issued v i rx).gang? v.cur.gang = some y ∧ y.counters = x.counters := by
  have hlog : ∀ w : State, ∀ n ks, (w.logRows n ks).mem = w.mem := fun w n ks => by
    obtain ⟨ss, hs, -⟩ := State.logRows_eq w n ks
    rw [hs]
  unfold State.issued State.takesEffect
  refine ⟨?_, fun c => ?_, fun x hx => ?_⟩
  · rw [hlog]
    split
    · exact State.updGang_mem ..
    · rfl
  · rw [State.core_logRows]
    split
    · rw [State.core_updGang]
    · rfl
  · rw [State.gang?_logRows]
    split
    · exact ⟨_, State.gang?_updGang_same hx rfl, rfl⟩
    · exact ⟨x, hx, rfl⟩

/-- The follow-on command of a `copyf` (R202). -/
def State.followCmd (s : State) (v : View) (op : CmdOp) : Cmd := { v.cmdOf op 0 with id := s.nextId }

/-- The core with the follow-on command among those to be pushed. -/
def State.followCore (s : State) (v : View) (op : CmdOp) : CoreSt :=
  { s.core v.cur.gang.core with follow := (s.core v.cur.gang.core).follow ++ [s.followCmd v op] }

theorem State.pushFollow_eq (s : State) (v : View) (op : CmdOp) : s.pushFollow v op =
    (s.fresh.setCore v.cur.gang.core (s.followCore v op)).updGang v.cur.gang fun x => x.count 1 := rfl

theorem State.pushFollow_spec (s : State) (v : View) (op : CmdOp) :
    (s.pushFollow v op).mem = s.mem ∧ (s.pushFollow v op).cur = s.cur ∧
      ((s.pushFollow v op).core v.cur.gang.core).follow = (s.core v.cur.gang.core).follow ++ [s.followCmd v op] ∧
      ∀ x, s.gang? v.cur.gang = some x → (s.pushFollow v op).gang? v.cur.gang = some (x.count 1) := by
  rw [State.pushFollow_eq]
  refine ⟨State.updGang_mem .., State.updGang_cur .., ?_, fun x hx => State.gang?_updGang_same ?_ rfl⟩
  · rw [State.core_updGang, State.core_setCore_same]
    rfl
  · exact (State.gang?_setCore_gangs s.fresh (k := s.followCore v op) rfl _).trans hx

theorem extract_high (x : DWord) : x.extractLsb' 32 32 = (x >>> 32).setWidth 32 := by
  apply BitVec.eq_of_toNat_eq
  simp

/-- The tile load of a `copyf` and its follow-on command are pushed together. -/
theorem copyf_pushed {u w : State} {v : View} {x : Gang} {op fop : CmdOp} {n : Nat} {i : Instr} {rx : Bool}
    (hk : (u.issued v i rx).KeepsCommands w) (hcur : u.cur = v.cur) (hx : u.gang? v.cur.gang = some x) :
    (((w.push v 0 op n).pushFollow v fop).retire.core v.cur.gang.core).follow =
        (u.core v.cur.gang.core).follow ++ [(w.push v 0 op n).followCmd v fop] ∧
      (∃ y, ((w.push v 0 op n).pushFollow v fop).retire.gang? v.cur.gang = some y ∧
        y.counters = (x.counters.set 0 (x.counters.getD 0 0 + 1)).set 1 ((x.counters.set 0 (x.counters.getD 0 0 + 1)).getD 1 0 + 1)) ∧
      ((w.push v 0 op n).pushFollow v fop).retire.mem = u.mem := by
  obtain ⟨himem, hifollow, higang⟩ := u.issued_counts v i rx
  obtain ⟨hfmem, hfcur, hffollow, hfgang⟩ := (w.push v 0 op n).pushFollow_spec v fop
  obtain ⟨y, hy, hyx⟩ := higang x hx
  obtain ⟨z, hz, hzy⟩ := hk.gangs _ y hy
  have hwcur : ((w.push v 0 op n).pushFollow v fop).cur = v.cur := by
    rw [hfcur, State.push_cur, hk.cur, State.cur_issued, hcur]
  have hdone := hfgang _ (w.push_gang? v 0 op n hz)
  rw [← hwcur] at hdone
  have hend := State.retire_gang? hdone
  rw [hwcur] at hend
  refine ⟨?_, ⟨_, hend, ?_⟩, ?_⟩
  · rw [State.retire_core, hffollow, (w.push_core v 0 op n v.cur.gang.core).2.2, hk.cores]
    dsimp only
    rw [hifollow]
  · rw [Gang.moved_rest, hzy, ← hyx]
    rfl
  · rw [State.retire_mem, hfmem, State.push_mem, hk.memory, himem]

/-- Settles O35. -/
theorem saveAndFollowOnPush : Obligations.SaveAndFollowOnPush := by
  intro c ch m a b
  refine ⟨fun s v rx h hact => ?inactive, fun s v rx h hact hcount hqueue => ?asave, ?copyf⟩
  case inactive => rw [exec_asave, execAsave, issueChecked_of_issues h, if_pos hact]
  case asave =>
    intro x
    rw [h.core] at hqueue
    have hwait := State.pushWait_none hcount hqueue
    refine ⟨fun hx => ⟨_, exec_asave_unowned h hact hwait hx, ?_⟩, fun u g hx hbusy hspill hg => ?_⟩
    · exact State.KeepsCommands.pushed (.refl _) ((State.issued_cur h).trans h.cur.symm) 1 _ 0
    · rw [← h.cur] at hbusy hspill hg ⊢
      refine ⟨_, exec_asave_owned h hact hwait hx hbusy hspill hg, State.KeepsCommands.pushed (.refl _) ?_ 1 _ 0⟩
      rw [State.cur_issued, State.cur_updAcc, State.cur_spill hspill, h.cur]
  case copyf =>
    intro s v rx t j p op n k u x h hact ht sh hfollow hplan hcheck htile hacc hx hc0 hc1 hqueue hlog
    rw [extract_high] at hfollow
    rw [← h.cur] at hx hqueue ⊢
    obtain ⟨hf, hg, hm⟩ := copyf_pushed (n := n) (op := op) (fop := .matrix p.op)
      ((u.issued v (.copyf ch m a b) rx).watchRuns_keepsCommands v t (v.cmdOf op n))
      ((State.cur_checkAcc hacc).trans h.cur.symm) hx
    refine ⟨_, _, ?_, hf, rfl, rfl, rfl, hg, fun z => by rw [hm]⟩
    rw [exec_copyf, execCopyf, issueChecked_of_issues h]
    dsimp only
    rw [if_neg hact, ht, hfollow]
    dsimp only
    rw [hcheck, hplan]
    dsimp only
    rw [htile]
    dsimp only
    rw [hacc]
    dsimp only
    rw [State.pushWait_none hc0 hqueue]
    dsimp only
    rw [if_neg (by omega), hlog, Bool.not_true, if_neg Bool.false_ne_true]

end Sys2Proof.Machine

/-! PROOFS. O36: `cwp`, `wait` and `qwait` (R205, R206, R208, R213). -/

namespace Sys2Proof.Machine

section
variable {s : State} {v : View} {rx : Bool} {d : Reg} {r : BitVec 5} {c : BitVec 3} {n : BitVec 6}

theorem exec_wait_eq (h : s.Issues (.wait c n) v rx) : exec (.wait c n) s = .next
    (if v.gang.counters.getD c.toNat 0 - v.heldCmds c.toNat ≤ n.toNat then (s.issued v (.wait c n) rx).retire
      else s.hold .acount) := by
  rw [exec_wait, execWait, issueChecked_of_issues h]

theorem View.heldCmds_eq_zero (v : View) {k : Nat} (h : k ≠ 1 ∨ v.gang.trap.tcause.getLsbD 15 = false) : v.heldCmds k = 0 := by
  refine if_neg fun ⟨h1, hact⟩ => ?_
  exact h.elim (fun hne => hne h1) fun hoff => Bool.noConfusion (hoff.symm.trans hact)

/-- The return registers of a `qwait` in one lane, and in every active lane. -/
def qwaitLane (d : Reg) (r : BitVec 5) (l : Nat) : List Nat := (List.range (r.toNat + 1)).map fun i => (d.toNat + i) * 32 + l
def View.qwaitWords (v : View) (d : Reg) (r : BitVec 5) : List Nat := (lanesOf v.act).flatMap (qwaitLane d r)

/-- The lanes some return register of which is lost. -/
def View.qwaitLost (v : View) (d : Reg) (r : BitVec 5) : LaneSet :=
  laneSet fun l => v.act.getLsbD l && decide (∃ i, i < r.toNat + 1 ∧ v.core.copy v.gang ((d.toNat + i) * 32 + l) = .lost)

theorem any_lost_eq (v : View) (d : Reg) (r : BitVec 5) (l : Nat) :
    ((qwaitLane d r l).any fun w => decide (v.core.copy v.gang w = .lost)) =
      decide (∃ i, i < r.toNat + 1 ∧ v.core.copy v.gang ((d.toNat + i) * 32 + l) = .lost) := by
  rw [Bool.eq_iff_iff]
  simp [qwaitLane]

theorem exec_qwait_eq (h : s.Issues (.qwait d r) v rx) : exec (.qwait d r) s = .next
    (if v.qwaitLost d r ≠ 0 then s.trapNow 0x11 0 (v.qwaitLost d r) 0
      else if (v.qwaitWords d r).any (fun w => decide (v.core.copy v.gang w ≠ .full)) then s.hold .empty
      else (s.issued v (.qwait d r) rx).retire) := by
  rw [exec_qwait, execQwait, issueChecked_of_issues h]
  have hlost : v.qwaitLost d r = laneSet fun l => v.act.getLsbD l &&
      (qwaitLane d r l).any fun w => decide (v.core.copy v.gang w = .lost) := by
    simp only [any_lost_eq]
    rfl
  rw [hlost]
  rfl

theorem View.mem_qwaitWords {w : Nat} : w ∈ v.qwaitWords d r ↔
    ∃ l, l < 32 ∧ v.act.getLsbD l = true ∧ ∃ i, i < r.toNat + 1 ∧ (d.toNat + i) * 32 + l = w := by
  unfold View.qwaitWords qwaitLane
  simp only [List.mem_flatMap, List.mem_map, List.mem_range]
  exact ⟨fun ⟨l, hl, hi⟩ => ⟨l, lt_of_mem_lanesOf hl, (mem_lanesOf_iff (lt_of_mem_lanesOf hl)).1 hl, hi⟩,
    fun ⟨l, hlt, hl, hi⟩ => ⟨l, (mem_lanesOf_iff hlt).2 hl, hi⟩⟩

theorem View.qwaitLost_eq_zero (h : ∀ w ∈ v.qwaitWords d r, v.core.copy v.gang w ≠ .lost) : v.qwaitLost d r = 0 := by
  refine laneSet_eq_zero fun l hl => ?_
  rw [Bool.and_eq_false_iff, decide_eq_false_iff_not]
  by_cases hact : v.act.getLsbD l = true
  · exact .inr fun ⟨i, hi, hlost⟩ => h _ (View.mem_qwaitWords.2 ⟨l, hl, hact, i, hi, rfl⟩) hlost
  · exact .inl (by simpa using hact)

theorem View.qwaitLost_ne_zero {w : Nat} (hw : w ∈ v.qwaitWords d r) (hlost : v.core.copy v.gang w = .lost) :
    v.qwaitLost d r ≠ 0 := by
  obtain ⟨l, hl, hact, i, hi, rfl⟩ := View.mem_qwaitWords.1 hw
  intro hzero
  have hbit := getLsbD_laneSet
    (fun l => v.act.getLsbD l && decide (∃ i, i < r.toNat + 1 ∧ v.core.copy v.gang ((d.toNat + i) * 32 + l) = .lost)) hl
  rw [show laneSet _ = (0 : LaneSet) from hzero, hact, decide_eq_true ⟨i, hi, hlost⟩] at hbit
  simp at hbit

end

/-- Settles O36. -/
theorem engineWaitsComplete : Obligations.EngineWaitsComplete := by
  intro d ch c n r regs
  refine ⟨fun s v rx t h ht => ?cwp, fun s v rx h hle => ?wait, fun s v rx h hlt => ?waits, fun v hv => v.heldCmds_eq_zero hv,
    fun s v rx h hfull => ?full, fun s v rx w h hw hlost => ?lost, fun s v rx w h hw hne hlost => ?empty⟩
  case cwp =>
    refine ⟨_, (exec_cwp d ch s).trans (issue_of_issues h _), ?_⟩
    rw [ht]
    exact State.delivers h _ _
  case wait =>
    refine ⟨_, exec_wait_eq h, ?_⟩
    rw [if_pos hle]
    exact State.moves_retire h
  case waits => rw [exec_wait_eq h, if_neg (Nat.not_le.2 hlt)]
  case full =>
    refine ⟨_, exec_qwait_eq h, ?_⟩
    rw [View.qwaitLost_eq_zero fun w hw hl => CopyState.noConfusion ((hfull w hw).symm.trans hl), if_neg (not_not.2 rfl),
      if_neg (any_copy_ne_eq_false (ws := v.qwaitWords d r) hfull)]
    exact State.moves_retire h
  case lost =>
    rw [exec_qwait_eq h, if_pos (View.qwaitLost_ne_zero hw hlost)]
    rfl
  case empty =>
    rw [exec_qwait_eq h, View.qwaitLost_eq_zero hlost, if_neg (not_not.2 rfl),
      if_pos (any_copy_ne (ws := v.qwaitWords d r) hw hne)]

end Sys2Proof.Machine

/-! PROOFS. O37: channel and queue instructions once their capability entry is read (R158 to R160, R208). -/

namespace Sys2Proof.Machine

section
variable {s u : State} {v : View} {rx : Bool} {d : Reg} {c : BitVec 6} {r n : BitVec 5} {e : DWord} {va : VAddr} {p : Option Place}
  {i : Instr}

/-- A permission bit and ALLOW, as the model checks them. -/
theorem not_permitted_iff (e : DWord) : ((!capSend e) = true ∨ capAllow e = 0) ↔ (capSend e = false ∨ capAllow e = 0) := by
  rw [Bool.not_eq_true']

/-- `send` to a channel whose entry is read and valid (R159). -/
theorem exec_send_channel {q : Endpoint} (h : s.Issues (.send d c) v rx) (hr : s.capRead v c.toNat = (some (e, va, p), u))
    (hport : u.port (v.core.sessionOf v.gang) (dieOf v.cur.gang.core) (capEp e) = .channel q)
    (hvalid : capValid e (.channel q) = true) :
    exec (.send d c) s = .next (if capSend e = false ∨ capAllow e = 0 then
        u.trapNow 0x23 0 (v.tlanes (shape (.send d c) v.mode v.cur.lit.isSome)) 0
      else
        match u.capClaim v e va p with
        | (none, s2) => s2
        | (some w, s2) =>
          if 8 ≤ q.msgs.length ∨ v.behind q.num then
            (s2.issued v (.send d c) rx).holdOp v (.send (v.message (shape (.send d c) v.mode v.cur.lit.isSome)) w) q.num .chanFull
              (.sendAppend v.cur.gang v.cur.entry)
          else if !(s2.issued v (.send d c) rx).logFits (v.core.sessionOf v.gang) w.toList then s2.logFull (v.core.sessionOf v.gang)
          else ((s2.issued v (.send d c) rx).sends v.cur.gang.core (v.core.sessionOf v.gang) q.num
            (v.message (shape (.send d c) v.mode v.cur.lit.isSome)) w).retire) := by
  rw [exec_send, execSend, issueChecked_of_issues h]
  dsimp only
  rw [hr]
  dsimp only
  rw [hport]
  dsimp only
  rw [hvalid, Bool.not_true, if_neg Bool.false_ne_true]
  simp only [not_permitted_iff] <;> rfl

theorem exec_send_other (h : s.Issues (.send d c) v rx) (hr : s.capRead v c.toNat = (some (e, va, p), u))
    (hport : ∀ q, u.port (v.core.sessionOf v.gang) (dieOf v.cur.gang.core) (capEp e) ≠ .channel q) :
    exec (.send d c) s = .next (u.trapNow 0x22 0 (v.tlanes (shape (.send d c) v.mode v.cur.lit.isSome)) 0) := by
  rw [exec_send, execSend, issueChecked_of_issues h]
  dsimp only
  rw [hr]
  dsimp only
  split
  · rename_i q hq
    exact absurd hq (hport q)
  · rfl

theorem exec_recv_other (h : s.Issues (.recv d c) v rx) (hr : s.capRead v c.toNat = (some (e, va, p), u))
    (hport : ∀ q, u.port (v.core.sessionOf v.gang) (dieOf v.cur.gang.core) (capEp e) ≠ .channel q) :
    exec (.recv d c) s = .next (u.trapNow 0x22 0 (v.tlanes (shape (.recv d c) v.mode v.cur.lit.isSome)) 0) := by
  rw [exec_recv, execRecv, issueChecked_of_issues h]
  dsimp only
  rw [hr]
  dsimp only
  split
  · rename_i q hq
    exact absurd hq (hport q)
  · rfl

theorem exec_recv_waits {q : Endpoint} (h : s.Issues (.recv d c) v rx) (hr : s.capRead v c.toNat = (some (e, va, p), u))
    (hport : u.port (v.core.sessionOf v.gang) (dieOf v.cur.gang.core) (capEp e) = .channel q)
    (hvalid : capValid e (.channel q) = true) (hperm : capRecv e = true) (hact : v.act ≠ 0) :
    exec (.recv d c) s = .next ((((u.issued v (.recv d c) rx).expect (v.dest d 1)).post
      (.channelDelivery v.cur.gang (v.core.sessionOf v.gang) q.num (v.dest d 1))).retire) := by
  rw [exec_recv, execRecv, issueChecked_of_issues h]
  dsimp only
  rw [hr]
  dsimp only
  rw [hport]
  dsimp only
  rw [hvalid, hperm, Bool.not_true, if_neg Bool.false_ne_true, if_neg Bool.false_ne_true, if_neg hact]

theorem exec_chinfo_read (h : s.Issues (.chinfo d c) v rx) (hr : s.capRead v c.toNat = (some (e, va, p), u)) :
    exec (.chinfo d c) s = .next (((u.issued v (.chinfo d c) rx).result v (shape (.chinfo d c) v.mode v.cur.lit.isSome)
      (v.laneResults d 1 fun _ => (chinfoWord e (u.port (v.core.sessionOf v.gang) (dieOf v.cur.gang.core) (capEp e))).setWidth 64)
        []).retire) := by
  rw [exec_chinfo, execChinfo, issueChecked_of_issues h]
  dsimp only
  rw [hr]

theorem setWidth_ofNat_word (x : Nat) : (BitVec.ofNat 32 x).setWidth 64 = BitVec.ofNat 64 (x % 2 ^ 32) := by
  apply BitVec.eq_of_toNat_eq
  simp

theorem exec_qpoll_read {die depth : Nat} (h : s.Issues (.qpoll d c) v rx) (hr : s.capRead v c.toNat = (some (e, va, p), u))
    (hport : u.port (v.core.sessionOf v.gang) (dieOf v.cur.gang.core) (capEp e) = .queue die depth)
    (hvalid : capValid e (.queue die depth) = true) :
    exec (.qpoll d c) s = .next (((u.issued v (.qpoll d c) rx).result v (shape (.qpoll d c) v.mode v.cur.lit.isSome)
      (v.laneResults d 1 fun _ => BitVec.ofNat 64
        ((depth * 65536 + u.freeCalls (v.core.sessionOf v.gang) die (capEp e) depth) % 2 ^ 32)) []).retire) := by
  rw [exec_qpoll, execQpoll, issueChecked_of_issues h]
  dsimp only
  rw [hr]
  dsimp only
  rw [hport]
  dsimp only
  rw [hvalid, Bool.not_true, if_neg Bool.false_ne_true, setWidth_ofNat_word]

/-- `qcall` whose calls find room (R208). -/
theorem exec_qcall_enters {die depth : Nat} {w : Option Place} {u2 : State} (h : s.Issues (.qcall d r n c) v rx)
    (hr : s.capRead v c.toNat = (some (e, va, p), u))
    (hport : u.port (v.core.sessionOf v.gang) (dieOf v.cur.gang.core) (capEp e) = .queue die depth)
    (hvalid : capValid e (.queue die depth) = true) (hsend : capSend e = true) (hallow : capAllow e ≠ 0) (hact : v.act ≠ 0)
    (hcount : v.gang.counters.getD 4 0 < 63) (hqueue : v.core.queued 4 < Config.queueDepth.getD 4 0)
    (hclaim : u.capClaim v e va p = (some w, u2))
    (hfree : (lanesOf v.act).length ≤ u2.freeCalls (v.core.sessionOf v.gang) die (capEp e) depth)
    (hbehind : v.behind (capEp e) = false)
    (hlog : (u2.issued v (.qcall d r n c) rx).logFits (v.core.sessionOf v.gang) w.toList = true) :
    exec (.qcall d r n c) s = .next (((u2.issued v (.qcall d r n c) rx).calls v
      (shape (.qcall d r n c) v.mode v.cur.lit.isSome) (capEp e) die c.toNat r.toNat d w).retire) := by
  rw [exec_qcall, execQcall, issueChecked_of_issues h]
  dsimp only
  rw [if_neg hact, hr]
  dsimp only
  rw [hport]
  dsimp only
  rw [hvalid, hsend, Bool.not_true, if_neg Bool.false_ne_true, if_neg (not_or.2 ⟨Bool.false_ne_true, hallow⟩),
    if_neg (Nat.not_le.2 hcount), if_neg (Nat.not_le.2 hqueue), hclaim]
  dsimp only
  rw [if_neg (not_or.2 ⟨Nat.not_lt.2 hfree, by rw [hbehind]; exact Bool.false_ne_true⟩), hlog, Bool.not_true,
    if_neg Bool.false_ne_true]

end

/-- Settles O37. -/
theorem channelsComplete : Obligations.ChannelsComplete := by
  intro d c r n s v rx e va p u entry ses port sh bad
  refine ⟨fun q w u2 he hport hvalid hsend hallow hclaim hroom hbehind => ?send, fun q he hport hvalid hperm hact => ?recv,
    fun he => ?chinfo, fun die depth he hport hvalid => ?qpoll,
    fun die depth w u2 he hport hvalid hsend hallow hact hcount hqueue hclaim hfree hbehind => ?qcall,
    fun i hm he hport => ?bad, fun q he hport hvalid hperm => ?perm⟩
  case send =>
    intro u3 hlog
    obtain ⟨h, hr⟩ := he
    have hport : u.port (v.core.sessionOf v.gang) (dieOf v.cur.gang.core) (capEp e) = .channel q := by rw [h.cur]; exact hport
    rw [exec_send_channel h hr hport hvalid, if_neg (by simp [hsend, hallow]), hclaim]
    dsimp only
    rw [if_neg (not_or.2 ⟨by omega, by rw [hbehind]; exact Bool.false_ne_true⟩),
      show (u2.issued v (.send d c) rx).logFits (v.core.sessionOf v.gang) w.toList = true from hlog, Bool.not_true,
      if_neg Bool.false_ne_true, h.cur]
    rfl
  case recv =>
    obtain ⟨h, hr⟩ := he
    have hport : u.port (v.core.sessionOf v.gang) (dieOf v.cur.gang.core) (capEp e) = .channel q := by rw [h.cur]; exact hport
    rw [exec_recv_waits h hr hport hvalid hperm hact, h.cur]
  case chinfo =>
    obtain ⟨h, hr⟩ := he
    have hexec := exec_chinfo_read h hr
    rw [h.cur] at hexec
    exact hexec
  case qpoll =>
    obtain ⟨h, hr⟩ := he
    rw [show port = _ from hport] at hvalid
    have hport : u.port (v.core.sessionOf v.gang) (dieOf v.cur.gang.core) (capEp e) = .queue die depth := by rw [h.cur]; exact hport
    exact exec_qpoll_read h hr hport hvalid
  case qcall =>
    intro u3 hlog xs
    obtain ⟨h, hr⟩ := he
    rw [show port = _ from hport] at hvalid
    have hport : u.port (v.core.sessionOf v.gang) (dieOf v.cur.gang.core) (capEp e) = .queue die depth := by rw [h.cur]; exact hport
    rw [exec_qcall_enters h hr hport hvalid hsend hallow hact hcount hqueue hclaim hfree hbehind hlog, State.calls, h.cur]
    rfl
  case bad =>
    simp only [List.mem_cons, List.not_mem_nil, or_false] at hm
    obtain rfl | rfl := hm
    · obtain ⟨h, hr⟩ := he
      exact exec_send_other h hr (by rw [h.cur]; exact hport)
    · obtain ⟨h, hr⟩ := he
      exact exec_recv_other h hr (by rw [h.cur]; exact hport)
  case perm =>
    obtain ⟨h, hr⟩ := he
    have hport : u.port (v.core.sessionOf v.gang) (dieOf v.cur.gang.core) (capEp e) = .channel q := by rw [h.cur]; exact hport
    rw [exec_send_channel h hr hport hvalid, if_pos hperm]

end Sys2Proof.Machine

/-! PROOFS. O38: the `clu` and `dbg` forms (R225 to R235, R327 to R331). -/

namespace Sys2Proof.Machine

section
variable {s : State} {v : View} {rx : Bool} {i : Instr} {n : DbgNeed} {c : Crew} {extra : View → Shape → Bool}
  {k : View → Shape → Crew → State → (State → State) → State}

/-- A `dbg` form whose crew R228 finds. -/
theorem dbgOp_found (h : s.Issues i v rx) (hextra : extra v (shape i v.mode v.cur.lit.isSome) = true)
    (hsel : fieldNat (v.wordB (shape i v.mode v.cur.lit.isSome) 0) 16 16 = 0)
    (hok : s.dbgCrew v (v.wordB (shape i v.mode v.cur.lit.isSome) 0) n = .ok c) :
    dbgOp i n s extra k = .next (k v (shape i v.mode v.cur.lit.isSome) c s (fun t => t.issued v i rx)) := by
  rw [dbgOp, issueChecked_of_issues h]
  dsimp only
  rw [if_neg (by simp [hsel, hextra]), hok]

/-- Reserved bits of the operands of a `dbg` form (R228). -/
theorem dbgOp_reserved (h : s.Issues i v rx) (hbad : fieldNat (v.wordB (shape i v.mode v.cur.lit.isSome) 0) 16 16 ≠ 0 ∨
      extra v (shape i v.mode v.cur.lit.isSome) = false) :
    dbgOp i n s extra k = .next (s.trapNow 0x02 0 (v.tlanes (shape i v.mode v.cur.lit.isSome)) 0) := by
  rw [dbgOp, issueChecked_of_issues h]
  dsimp only
  rw [if_pos (by simpa using hbad)]

/-- A `dbg` form where a check of R228 fails. -/
theorem dbgOp_failed {x : BitVec 8} {m : BitVec 16} (h : s.Issues i v rx)
    (hextra : extra v (shape i v.mode v.cur.lit.isSome) = true)
    (hsel : fieldNat (v.wordB (shape i v.mode v.cur.lit.isSome) 0) 16 16 = 0)
    (hbad : s.dbgCrew v (v.wordB (shape i v.mode v.cur.lit.isSome) 0) n = .error (x, m)) :
    dbgOp i n s extra k = .next (s.trapNow x m (v.tlanes (shape i v.mode v.cur.lit.isSome)) 0) := by
  rw [dbgOp, issueChecked_of_issues h]
  dsimp only
  rw [if_neg (by simp [hsel, hextra]), hbad]

/-- The form goes by `dbgOp`. -/
def DbgForm (i : Instr) (n : DbgNeed) (extra : View → Shape → Bool)
    (k : View → Shape → Crew → State → (State → State) → State) : Prop :=
  ∀ s, exec i s = dbgOp i n s extra k

theorem DbgForm.actsWhen (e : DbgForm i n extra k) {ok : State → State → View → Shape → Prop}
    {act : State → State → View → Shape → State}
    (hok : ∀ s u v sh, ok s u v sh → extra v sh = true ∧ fieldNat (v.wordB sh 0) 16 16 = 0 ∧
      s.dbgCrew v (v.wordB sh 0) n = .ok c)
    (hact : ∀ s v rx, s.Issues i v rx → ok s (s.issued v i rx) v (shape i v.mode v.cur.lit.isSome) →
      k v (shape i v.mode v.cur.lit.isSome) c s (fun t => t.issued v i rx) =
        act s (s.issued v i rx) v (shape i v.mode v.cur.lit.isSome)) : ActsWhen i ok act := by
  intro s v rx h u sh ho
  obtain ⟨hextra, hsel, hcrew⟩ := hok _ _ _ _ ho
  rw [e s, dbgOp_found h hextra hsel hcrew, hact s v rx h ho]

theorem DbgForm.reserved (e : DbgForm i n extra k) {ok : State → State → View → Shape → Prop}
    (hok : ∀ s u v sh, ok s u v sh → fieldNat (v.wordB sh 0) 16 16 ≠ 0 ∨ extra v sh = false) :
    ActsWhen i ok (trapWith 0x02 0) := by
  intro s v rx h u sh ho
  rw [e s, dbgOp_reserved h (hok _ _ _ _ ho), trapWith]

theorem DbgForm.failed {x : BitVec 8} {m : BitVec 16} (e : DbgForm i n extra k) {ok : State → State → View → Shape → Prop}
    (hok : ∀ s u v sh, ok s u v sh → extra v sh = true ∧ fieldNat (v.wordB sh 0) 16 16 = 0 ∧
      s.dbgCrew v (v.wordB sh 0) n = .error (x, m)) :
    ActsWhen i ok (trapWith x m) := by
  intro s v rx h u sh ho
  obtain ⟨hextra, hsel, hcrew⟩ := hok _ _ _ _ ho
  rw [e s, dbgOp_failed h hextra hsel hcrew, trapWith]

end

section
variable {s : State} {v : View} {rx : Bool} {i : Instr} {k : View → Nat → Nat → State → State}

/-- `dbg.freeze` and `dbg.thaw` past their checks (R330). -/
theorem freezeOp_acts (h : s.Issues i v rx) (hsel : fieldNat (v.wordB (shape i v.mode v.cur.lit.isSome) 0) 4 28 = 0)
    (hlt : fieldNat (v.wordB (shape i v.mode v.cur.lit.isSome) 0) 0 4 < 12)
    (hother : fieldNat (v.wordB (shape i v.mode v.cur.lit.isSome) 0) 0 4 ≠ clusterOf v.cur.gang.core) :
    freezeOp i s k = .next (k v (dieOf v.cur.gang.core) (fieldNat (v.wordB (shape i v.mode v.cur.lit.isSome) 0) 0 4)
      (s.issued v i rx)) := by
  rw [freezeOp, issueChecked_of_issues h]
  dsimp only
  rw [if_neg (not_not.2 hsel), if_neg (Nat.not_le.2 hlt), if_neg hother]

/-- The checks of `dbg.freeze` and `dbg.thaw`, in their order (R330). -/
theorem freezeOp_traps (e : ∀ s, exec i s = freezeOp i s k) :
    ActsWhen i (fun _ _ v sh => fieldNat (v.wordB sh 0) 4 28 = 0 ∧ fieldNat (v.wordB sh 0) 0 4 < 12 ∧
      fieldNat (v.wordB sh 0) 0 4 = clusterOf v.cur.gang.core) (trapWith 0x71 7) ∧
    ActsWhen i (fun _ _ v sh => fieldNat (v.wordB sh 0) 4 28 = 0 ∧ 12 ≤ fieldNat (v.wordB sh 0) 0 4) (trapWith 0x71 3) ∧
    ActsWhen i (fun _ _ v sh => fieldNat (v.wordB sh 0) 4 28 ≠ 0) (trapWith 0x02 0) := by
  refine ⟨fun s v rx h ⟨hsel, hlt, hown⟩ => ?_, fun s v rx h ⟨hsel, hge⟩ => ?_, fun s v rx h hsel => ?_⟩ <;>
    rw [e, freezeOp, issueChecked_of_issues h, trapWith] <;> dsimp only
  · rw [if_neg (not_not.2 hsel), if_neg (Nat.not_le.2 hlt), if_pos hown]
  · rw [if_neg (not_not.2 hsel), if_pos hge]
  · rw [if_pos hsel]

end

section
variable (a b : Reg) (w id : BitVec 8) (c : Crew)

theorem exec_cluPbc_crew {s : State} {v : View} {rx : Bool} (h : s.Issues (.cluPbc a id) v rx)
    (hc : (s.issued v (.cluPbc a id) rx).crewOf v.cur.gang.core v.gang = some c) :
    exec (.cluPbc a id) s = .next ((s.issued v (.cluPbc a id) rx).formResult v a
      (BitVec.setWidth 32 (BitVec.ofNat 28 ((c.bar id.toNat).pbc.getD (c.rankOf v.cur.gang.core) 0)))) := by
  rw [exec_cluPbc, execCluPbc, issue_of_issues h]
  dsimp only
  rw [hc]

theorem cluCstat_acts : ActsWhen (.cluCstat a b) (fun _ _ v sh => fieldNat (v.wordB sh 0) 16 16 = 0) fun s u v sh =>
    u.formResult v a (s.cstat (s.crewAt (dieOf v.cur.gang.core) (v.wordB sh 0))) := by
  intro s v rx h u sh hsel
  rw [exec_cluCstat, execCluCstat, issueChecked_of_issues h]
  dsimp only
  rw [if_neg (not_not.2 hsel)]

theorem cluCstat_reserved : ActsWhen (.cluCstat a b) (fun _ _ v sh => fieldNat (v.wordB sh 0) 16 16 ≠ 0) (trapWith 0x02 0) := by
  intro s v rx h u sh hsel
  rw [exec_cluCstat, execCluCstat, issueChecked_of_issues h, trapWith]
  dsimp only
  rw [if_pos hsel]

theorem State.resume_of_running {u : State} (h : c.stopped = false) : u.resume c = u := by
  rw [State.resume, h, if_neg Bool.false_ne_true]

end

section
variable (a b : Reg) (w : BitVec 8) (c : Crew)

/-- R228 finds the crew that the selector names. -/
def Crew.FoundAs (c : Crew) (n : DbgNeed) (s _ : State) (v : View) (sh : Shape) : Prop :=
  fieldNat (v.wordB sh 0) 16 16 = 0 ∧ s.dbgCrew v (v.wordB sh 0) n = .ok c

/-- The control word of a watchpoint has no reserved bit set (R229). -/
def View.ctlGood (v : View) (sh : Shape) : Prop := fieldNat (v.wordB sh 1) 7 25 = 0

/-- A form without operands of its own, on the crew that R228 finds. -/
theorem DbgForm.onCrew {c : Crew} {i : Instr} {n : DbgNeed} {k : View → Shape → Crew → State → (State → State) → State}
    (e : DbgForm i n (fun _ _ => true) k) {ok : State → State → View → Shape → Prop} {act : State → State → View → Shape → State}
    (hact : ∀ s v rx, s.Issues i v rx → ok s (s.issued v i rx) v (shape i v.mode v.cur.lit.isSome) →
      k v (shape i v.mode v.cur.lit.isSome) c s (fun t => t.issued v i rx) =
        act s (s.issued v i rx) v (shape i v.mode v.cur.lit.isSome)) :
    ActsWhen i (fun s u v sh => c.FoundAs n s u v sh ∧ ok s u v sh) act :=
  e.actsWhen (fun _ _ _ _ h => ⟨rfl, h.1⟩) fun s v rx h ho => hact s v rx h ho.2

/-- A form on a watchpoint, on the crew that R228 finds. -/
theorem DbgForm.onWatch {c : Crew} {i : Instr} {n : DbgNeed} {k : View → Shape → Crew → State → (State → State) → State}
    (e : DbgForm i n (fun v sh => decide (fieldNat (v.wordB sh 1) 7 25 = 0)) k) {ok : State → State → View → Shape → Prop}
    {act : State → State → View → Shape → State}
    (hact : ∀ s v rx, s.Issues i v rx → ok s (s.issued v i rx) v (shape i v.mode v.cur.lit.isSome) →
      k v (shape i v.mode v.cur.lit.isSome) c s (fun t => t.issued v i rx) =
        act s (s.issued v i rx) v (shape i v.mode v.cur.lit.isSome)) :
    ActsWhen i (fun s u v sh => c.FoundAs n s u v sh ∧ v.ctlGood sh ∧ ok s u v sh) act :=
  e.actsWhen (fun _ _ _ _ h => ⟨decide_eq_true h.2.1, h.1⟩) fun s v rx h ho => hact s v rx h ho.2.2

theorem dbgAttach_acts : ActsWhen (.dbgAttach a b) (fun s u v sh => c.FoundAs ⟨some false, false, false, false⟩ s u v sh ∧
      ((v.opA sh 0).toNat % 2 ^ 57) % 128 = 0) fun _ u v sh =>
    (u.updCrew c.id (fun k => { k with
      attached := true, area := (v.opA sh 0).setWidth 57, asess := v.core.sessionOf v.gang })).retire :=
  DbgForm.onCrew (fun _ => rfl) fun s v rx h ho => by
    dsimp only
    rw [if_neg (not_not.2 (by simpa using ho))]

theorem dbgAttach_misaligned : ActsWhen (.dbgAttach a b) (fun s u v sh => c.FoundAs ⟨some false, false, false, false⟩ s u v sh ∧
      ((v.opA sh 0).toNat % 2 ^ 57) % 128 ≠ 0) (trapWith 0x71 5) :=
  DbgForm.onCrew (fun _ => rfl) fun s v rx h ho => by
    dsimp only
    rw [if_pos (by simpa using ho), State.badOperand, trapWith]

theorem dbgStop_running : ActsWhen (.dbgStop b) (fun s u v sh => c.FoundAs needControl s u v sh ∧ c.stopped = false)
    fun s u v _ => (u.trigger c ⟨(s.die (dieOf v.cur.gang.core)).cyc + 2, 1, 0, none, none, 0, 0⟩).await (.stop c.id) .debug [] :=
  DbgForm.onCrew (fun _ => rfl) fun s v rx h ho => by
    dsimp only
    rw [ho, if_neg Bool.false_ne_true]

theorem dbgStop_stopped : ActsWhen (.dbgStop b) (fun s u v sh => c.FoundAs needControl s u v sh ∧ c.stopped = true)
    fun _ u v _ => (u.showRecords c v.cur.gang.core).retire :=
  DbgForm.onCrew (fun _ => rfl) fun s v rx h ho => by
    dsimp only
    rw [ho, if_pos rfl]

theorem dbgWait_stopped : ActsWhen (.dbgWait b) (fun s u v sh => c.FoundAs needControl s u v sh ∧ c.stopped = true)
    fun _ u v _ => (u.showRecords c v.cur.gang.core).retire :=
  DbgForm.onCrew (fun _ => rfl) fun s v rx h ho => by
    dsimp only
    rw [ho, if_pos rfl]

theorem dbgWait_running : ActsWhen (.dbgWait b) (fun s u v sh => c.FoundAs needControl s u v sh ∧ c.stopped = false)
    fun s _ _ _ => s.hold .debug :=
  DbgForm.onCrew (fun _ => rfl) fun s v rx h ho => by
    dsimp only
    rw [ho, if_neg Bool.false_ne_true]

theorem dbgStep_begins (g : GangRef) (x : Gang) : ActsWhen (.dbgStep b) (fun s u v sh =>
      c.FoundAs ⟨some true, true, true, true⟩ s u v sh ∧ c.window = none ∧ s.selGang c (v.wordB sh 0) = some (g, x))
    fun s u v sh => ((u.updCrew c.id (fun k => { k with
        window := some ⟨g, fieldNat (v.wordB sh 0) 9 3, x.num, (s.die c.die).cyc, [], false⟩ })).postOnce
      (.stepWindowClose c.id)).await (.step c.id) .debug [] :=
  DbgForm.onCrew (fun _ => rfl) fun s v rx h ho => by
    obtain ⟨hwindow, hgang⟩ := ho
    dsimp only
    rw [hwindow, Option.isSome_none, if_neg Bool.false_ne_true, hgang]

theorem dbgStep_waits : ActsWhen (.dbgStep b) (fun s u v sh => c.FoundAs ⟨some true, true, true, true⟩ s u v sh ∧ c.window ≠ none)
    fun s _ _ _ => s.hold .debug :=
  DbgForm.onCrew (fun _ => rfl) fun s v rx h ho => by
    dsimp only
    rw [if_pos (Option.isSome_iff_ne_none.2 ho)]

theorem dbgRd_acts (core o n : Nat) : ActsWhen (.dbgRd a b) (fun s u v sh =>
      c.FoundAs ⟨some true, true, true, false⟩ s u v sh ∧ s.dbgPlace v sh c = some (core, o, n))
    fun s u v _ => u.formResult v a (Cells.get 0 (s.core core).store (o / 4)) :=
  DbgForm.onCrew (fun _ => rfl) fun s v rx h ho => by
    dsimp only
    rw [ho]

theorem dbgRd_outside : ActsWhen (.dbgRd a b) (fun s u v sh =>
      c.FoundAs ⟨some true, true, true, false⟩ s u v sh ∧ s.dbgPlace v sh c = none) (trapWith 0x71 5) :=
  DbgForm.onCrew (fun _ => rfl) fun s v rx h ho => by
    dsimp only
    rw [ho, State.badOperand, trapWith]

theorem dbgWr_acts (core o n : Nat) : ActsWhen (.dbgWr a b) (fun s u v sh => c.FoundAs ⟨some true, true, true, false⟩ s u v sh ∧
      s.dbgPlace v sh c = some (core, o, n) ∧ s.logFits n [.store core o] = true)
    fun _ u v sh => ((u.logRows n [storeRow core o]).updStore core (fun st => Cells.put 0 st (o / 4) (v.word sh))).retire :=
  DbgForm.onCrew (fun _ => rfl) fun s v rx h ho => by
    obtain ⟨hplace, hlog⟩ := ho
    dsimp only
    rw [hplace]
    dsimp only
    rw [hlog, Bool.not_true, if_neg Bool.false_ne_true, View.word, View.wordA]

theorem dbgWr_full (core o n : Nat) : ActsWhen (.dbgWr a b) (fun s u v sh => c.FoundAs ⟨some true, true, true, false⟩ s u v sh ∧
      s.dbgPlace v sh c = some (core, o, n) ∧ s.logFits n [.store core o] = false) fun s _ _ _ => s.logFull n :=
  DbgForm.onCrew (fun _ => rfl) fun s v rx h ho => by
    obtain ⟨hplace, hlog⟩ := ho
    dsimp only
    rw [hplace]
    dsimp only
    rw [hlog, Bool.not_false, if_pos rfl]

theorem dbgWr_outside : ActsWhen (.dbgWr a b) (fun s u v sh =>
      c.FoundAs ⟨some true, true, true, false⟩ s u v sh ∧ s.dbgPlace v sh c = none) (trapWith 0x71 5) :=
  DbgForm.onCrew (fun _ => rfl) fun s v rx h ho => by
    dsimp only
    rw [ho, State.badOperand, trapWith]

theorem dbgWhy_acts (n : Nat) (g : GangRef) (x : Gang) (hn : n < 8) : ActsWhen (.dbgWhy a b) (fun s u v sh =>
      c.FoundAs ⟨none, false, true, true⟩ s u v sh ∧ (v.wordB sh 1).toNat = n ∧ s.selGang c (v.wordB sh 0) = some (g, x))
    fun s u v _ =>
      let e := x.groupOf n
      u.formResult v a (BitVec.ofNat 32 (min 0xFFFF ((x.group e).dog / 1024) * 65536 + (if e < 4 then e else 0xFF) * 256 +
        if x.live n then (s.reason g x e).code else 0)) :=
  DbgForm.onCrew (fun _ => rfl) fun s v rx h ho => by
    obtain ⟨hnum, hgang⟩ := ho
    dsimp only
    rw [if_neg (by omega), hgang]
    dsimp only
    rw [hnum]

theorem dbgWhy_outside : ActsWhen (.dbgWhy a b) (fun s u v sh =>
      c.FoundAs ⟨none, false, true, true⟩ s u v sh ∧ 8 ≤ (v.wordB sh 1).toNat) (trapWith 0x71 5) :=
  DbgForm.onCrew (fun _ => rfl) fun s v rx h ho => by
    dsimp only
    rw [if_pos ho, State.badOperand, trapWith]

/-- The range of a store watchpoint lies in the crew's stores (R229). -/
def View.wpFits (v : View) (sh : Shape) (c : Crew) : Prop :=
  (v.wordB sh 1).getLsbD 6 = false ∧ (v.wordB sh 2).toNat % 2 ^ fieldNat (v.wordB sh 1) 0 2 = 0 ∧
    (v.wordB sh 2).toNat + 2 ^ fieldNat (v.wordB sh 1) 0 2 ≤ c.cores.length * c.cmcore * 1024

theorem not_wpFits_iff (v : View) (sh : Shape) : ¬ v.wpFits sh c ↔
    ((v.wordB sh 1).getLsbD 6 = true ∨ (v.wordB sh 2).toNat % 2 ^ fieldNat (v.wordB sh 1) 0 2 ≠ 0 ∨
      c.cores.length * c.cmcore * 1024 < (v.wordB sh 2).toNat + 2 ^ fieldNat (v.wordB sh 1) 0 2) := by
  rw [View.wpFits, not_and_or, not_and_or, Bool.not_eq_false, Nat.not_le]

theorem dbgWpset_acts : ActsWhen (.dbgWpset w b) (fun s u v sh => c.FoundAs needControl s u v sh ∧ v.ctlGood sh ∧ v.wpFits sh c)
    fun _ u v sh =>
      (u.updCrew c.id (fun k => { k with wps := k.wps.set w.toNat ⟨v.wordB sh 1, false, (v.wordB sh 2).toNat⟩ })).retire :=
  DbgForm.onWatch (fun _ => rfl) fun s v rx h ho => by
    dsimp only
    rw [if_neg (mt (not_wpFits_iff c v _).2 (not_not.2 ho)), State.setWatch]

theorem dbgWpset_outside : ActsWhen (.dbgWpset w b) (fun s u v sh =>
      c.FoundAs needControl s u v sh ∧ v.ctlGood sh ∧ ¬ v.wpFits sh c) (trapWith 0x71 5) :=
  DbgForm.onWatch (fun _ => rfl) fun s v rx h ho => by
    dsimp only
    rw [if_pos ((not_wpFits_iff c v _).1 ho), State.badOperand, trapWith]

/-- The virtual address of a watchpoint (R328). -/
def View.wpAddr (v : View) (sh : Shape) : VAddr := (dwordOf [v.wordB sh 2, v.wordB sh 3]).setWidth 57

/-- The address of a watchpoint lies in no aperture and is aligned (R328). -/
def View.vwpFits (v : View) (sh : Shape) : Prop :=
  isAperture (v.wpAddr sh) = false ∧ (v.wpAddr sh).toNat % 2 ^ fieldNat (v.wordB sh 1) 0 2 = 0

theorem not_vwpFits_iff (v : View) (sh : Shape) : ¬ v.vwpFits sh ↔
    (isAperture (v.wpAddr sh) = true ∨ (v.wpAddr sh).toNat % 2 ^ fieldNat (v.wordB sh 1) 0 2 ≠ 0) := by
  rw [View.vwpFits, not_and_or, Bool.not_eq_false]

theorem dbgVwpset_acts : ActsWhen (.dbgVwpset w b) (fun s u v sh => c.FoundAs needControl s u v sh ∧ v.ctlGood sh ∧ v.vwpFits sh)
    fun _ u v sh =>
      (u.updCrew c.id (fun k => { k with wps := k.wps.set w.toNat ⟨v.wordB sh 1, true, (v.wpAddr sh).toNat⟩ })).retire :=
  DbgForm.onWatch (fun _ => rfl) fun s v rx h ho => by
    dsimp only
    rw [← View.wpAddr, if_neg (mt (not_vwpFits_iff v _).2 (not_not.2 ho)), State.setWatch]

theorem dbgVwpset_outside : ActsWhen (.dbgVwpset w b) (fun s u v sh =>
      c.FoundAs needControl s u v sh ∧ v.ctlGood sh ∧ ¬ v.vwpFits sh) (trapWith 0x71 5) :=
  DbgForm.onWatch (fun _ => rfl) fun s v rx h ho => by
    dsimp only
    rw [← View.wpAddr, if_pos ((not_vwpFits_iff v _).1 ho), State.badOperand, trapWith]

end

section
variable (b : Reg) (c : Crew)

theorem dbgFreeze_begins : ActsWhen (.dbgFreeze b) (fun _ u v sh => (fieldNat (v.wordB sh 0) 4 28 = 0 ∧
      fieldNat (v.wordB sh 0) 0 4 < 12 ∧ fieldNat (v.wordB sh 0) 0 4 ≠ clusterOf v.cur.gang.core) ∧
      u.isFrozen (dieOf v.cur.gang.core, fieldNat (v.wordB sh 0) 0 4) = false) fun _ u v sh =>
    ((u.setDie (dieOf v.cur.gang.core) ((u.die (dieOf v.cur.gang.core)).setFreezing (fieldNat (v.wordB sh 0) 0 4) true)).postOnce
      (.dbgcmdFreeze 0 (dieOf v.cur.gang.core) (fieldNat (v.wordB sh 0) 0 4))).await
        (.freeze (dieOf v.cur.gang.core * 16 + fieldNat (v.wordB sh 0) 0 4)) .debug [] := by
  intro s v rx h u sh ho
  obtain ⟨⟨hsel, hlt, hother⟩, hfrozen⟩ := ho
  rw [exec_dbgFreeze, execDbgFreeze, freezeOp_acts h hsel hlt hother]
  dsimp only
  rw [if_neg (Bool.eq_false_iff.1 hfrozen), State.mapDies, List.foldl_cons, List.foldl_nil]

theorem dbgFreeze_frozen : ActsWhen (.dbgFreeze b) (fun _ u v sh => (fieldNat (v.wordB sh 0) 4 28 = 0 ∧
      fieldNat (v.wordB sh 0) 0 4 < 12 ∧ fieldNat (v.wordB sh 0) 0 4 ≠ clusterOf v.cur.gang.core) ∧
      u.isFrozen (dieOf v.cur.gang.core, fieldNat (v.wordB sh 0) 0 4) = true) fun _ u _ _ => u.retire := by
  intro s v rx h u sh ho
  obtain ⟨⟨hsel, hlt, hother⟩, hfrozen⟩ := ho
  rw [exec_dbgFreeze, execDbgFreeze, freezeOp_acts h hsel hlt hother]
  dsimp only
  rw [if_pos hfrozen]

theorem dbgThaw_acts : ActsWhen (.dbgThaw b) (fun _ _ v sh => fieldNat (v.wordB sh 0) 4 28 = 0 ∧
      fieldNat (v.wordB sh 0) 0 4 < 12 ∧ fieldNat (v.wordB sh 0) 0 4 ≠ clusterOf v.cur.gang.core) fun _ u v sh =>
    (u.thawStep 0 (dieOf v.cur.gang.core) (fieldNat (v.wordB sh 0) 0 4)).retire := by
  intro s v rx h u sh ho
  obtain ⟨hsel, hlt, hother⟩ := ho
  rw [exec_dbgThaw, execDbgThaw, freezeOp_acts h hsel hlt hother]

/-- A form on a crew traps at reserved bits of its selector, and where R228 finds a cause. -/
theorem DbgForm.traps {i : Instr} {n : DbgNeed} {k : View → Shape → Crew → State → (State → State) → State}
    (e : DbgForm i n (fun _ _ => true) k) :
    ActsWhen i (fun _ _ v sh => fieldNat (v.wordB sh 0) 16 16 ≠ 0) (trapWith 0x02 0) ∧
    ∀ x m, ActsWhen i (fun s _ v sh => fieldNat (v.wordB sh 0) 16 16 = 0 ∧ s.dbgCrew v (v.wordB sh 0) n = .error (x, m))
      (trapWith x m) :=
  ⟨e.reserved fun _ _ _ _ h => Or.inl h, fun _ _ => e.failed fun _ _ _ _ h => ⟨rfl, h⟩⟩

/-- A form on a watchpoint traps at reserved bits of its selector or control word, and where R228 finds a cause. -/
theorem DbgForm.watch_traps {i : Instr} {n : DbgNeed} {k : View → Shape → Crew → State → (State → State) → State}
    (e : DbgForm i n (fun v sh => decide (fieldNat (v.wordB sh 1) 7 25 = 0)) k) :
    ActsWhen i (fun _ _ v sh => fieldNat (v.wordB sh 0) 16 16 ≠ 0 ∨ ¬ v.ctlGood sh) (trapWith 0x02 0) ∧
    ∀ x m, ActsWhen i (fun s _ v sh => fieldNat (v.wordB sh 0) 16 16 = 0 ∧ v.ctlGood sh ∧
      s.dbgCrew v (v.wordB sh 0) n = .error (x, m)) (trapWith x m) :=
  ⟨e.reserved fun _ _ _ _ h => h.imp_right decide_eq_false,
    fun _ _ => e.failed fun _ _ _ _ ⟨hsel, hctl, hbad⟩ => ⟨decide_eq_true hctl, hsel, hbad⟩⟩

end

/-- The forms that act on a crew, with what each needs of it (R228). -/
def crewForms (a b : Reg) : List (Instr × DbgNeed) :=
  [(.dbgAttach a b, ⟨some false, false, false, false⟩), (.dbgDetach b, needControl), (.dbgGo b, needControl),
    (.dbgStop b, needControl), (.dbgWait b, needControl), (.dbgStep b, ⟨some true, true, true, true⟩),
    (.dbgRd a b, ⟨some true, true, true, false⟩), (.dbgWr a b, ⟨some true, true, true, false⟩),
    (.dbgWhy a b, ⟨none, false, true, true⟩)]

theorem crewForms_dbgForm (a b : Reg) (e : Instr × DbgNeed) (he : e ∈ crewForms a b) :
    ∃ k, DbgForm e.1 e.2 (fun _ _ => true) k := by
  simp only [crewForms, List.mem_cons, List.not_mem_nil, or_false] at he
  obtain rfl | rfl | rfl | rfl | rfl | rfl | rfl | rfl | rfl := he <;> exact ⟨_, fun _ => rfl⟩

theorem freezeForms_freezeOp (b : Reg) (i : Instr) (hi : i ∈ [Instr.dbgFreeze b, .dbgThaw b]) :
    ∃ k, ∀ s, exec i s = freezeOp i s k := by
  simp only [List.mem_cons, List.not_mem_nil, or_false] at hi
  obtain rfl | rfl := hi
  · exact ⟨_, exec_dbgFreeze b⟩
  · exact ⟨_, exec_dbgThaw b⟩

theorem watchForms_dbgForm (w : BitVec 8) (b : Reg) (i : Instr) (hi : i ∈ [Instr.dbgWpset w b, .dbgVwpset w b]) :
    ∃ k, DbgForm i needControl (fun v sh => decide (fieldNat (v.wordB sh 1) 7 25 = 0)) k := by
  simp only [List.mem_cons, List.not_mem_nil, or_false] at hi
  obtain rfl | rfl := hi
  · exact ⟨_, exec_dbgWpset w b⟩
  · exact ⟨_, exec_dbgVwpset w b⟩

theorem dbgDetach_acts (b : Reg) (c : Crew) : ActsWhen (.dbgDetach b) (c.FoundAs needControl) fun _ u _ _ =>
    ((((u.resume c).updCrew c.id (fun k => { k with
      attached := false, trig := none, wps := List.replicate 4 ⟨0, false, 0⟩ })).drop
      (fun e => decide (e = .stopRecords c.id))).answerAll (fun x => decide (x = .stop c.id)) []).retire :=
  DbgForm.actsWhen (c := c) (exec_dbgDetach b) (fun _ _ _ _ h => ⟨rfl, h⟩) fun _ _ _ _ _ => rfl

theorem dbgGo_acts (b : Reg) (c : Crew) : ActsWhen (.dbgGo b) (c.FoundAs needControl) fun _ u _ _ => (u.resume c).retire :=
  DbgForm.actsWhen (c := c) (exec_dbgGo b) (fun _ _ _ _ h => ⟨rfl, h⟩) fun _ _ _ _ _ => rfl

/-- Settles O38. -/
theorem clusterAndDebugFormsComplete : Obligations.ClusterAndDebugFormsComplete := by
  intro a b id w c found held inRank inGang die at_ cluster own ctl size
  refine ⟨fun s v rx h hc => exec_cluPbc_crew a id c h hc, cluCstat_acts a b, cluCstat_reserved a b,
    dbgAttach_acts a b c, dbgAttach_misaligned a b c, dbgDetach_acts b c, dbgGo_acts b c,
    fun u h => State.resume_of_running c h,
    dbgStop_running b c, dbgStop_stopped b c, dbgWait_stopped b c, dbgWait_running b c,
    dbgStep_begins b c, dbgStep_waits b c, dbgRd_acts a b c, dbgWr_acts a b c, dbgWr_full a b c, dbgRd_outside a b c,
    dbgWr_outside a b c, dbgFreeze_begins b, dbgFreeze_frozen b, dbgThaw_acts b, ?freezeTraps,
    fun n g x hn => dbgWhy_acts a b c n g x hn, dbgWhy_outside a b c,
    ⟨dbgWpset_acts b w c, dbgWpset_outside b w c⟩, ⟨dbgVwpset_acts b w c, dbgVwpset_outside b w c⟩, ?crewTraps, ?watchTraps⟩
  case freezeTraps =>
    intro i hi
    obtain ⟨k, hk⟩ := freezeForms_freezeOp b i hi
    exact freezeOp_traps hk
  case crewTraps =>
    intro e he
    obtain ⟨k, hk⟩ := crewForms_dbgForm a b e he
    exact hk.traps
  case watchTraps =>
    intro i hi
    obtain ⟨k, hk⟩ := watchForms_dbgForm w b i hi
    exact hk.watch_traps

end Sys2Proof.Machine

/-! PROOFS. O39: the `xlt` forms (R313 to R323), with the rules of a form that may wait (R280, R393). -/

namespace Sys2Proof.Machine

section
variable {s : State} {v : View} {i : Instr} {trap : View → Shape → Option (BitVec 8)} {dst : View → Dest}
  {k : View → FormHold → Bool → State → State} {bad : View → Shape → Prop}

theorem State.expect_mem (u : State) (d : Dest) : (u.expect d).mem = u.mem := by
  unfold State.expect
  split <;> rfl

theorem State.retireAwaiting_mem (u : State) (r : WaitReason) (w : Nat) : (u.retireAwaiting r w).mem = u.mem := by
  rw [State.retireAwaiting, State.updGang_mem, State.retire_mem]

theorem State.retireAwaiting_agenda (u : State) (r : WaitReason) (w : Nat) : (u.retireAwaiting r w).agenda = u.agenda := by
  rw [State.retireAwaiting, State.updGang_agenda, State.retire_agenda]

/-- A form that is done has answered. -/
theorem State.formDone_answered (u : State) (v : View) (b : Reg) (ws : List Word) :
    u.Answered (u.formDone v b .sched ws) v b ws where
  state := rfl
  coming e he := by
    rw [State.formDone, State.retireAwaiting_agenda]
    exact List.mem_append_right _ he
  memory := by
    rw [State.formDone, State.retireAwaiting_mem]
    exact State.expect_mem ..

/-- At its turn a form acts, with the operands of its issue. -/
theorem issueForm_of_turn {f : FormHold} {u : State} {again : Bool} (htrap : ∀ v sh, ¬ bad v sh → trap v sh = none)
    (h : s.Turn i bad dst v f u again) : issueForm i s trap dst k = .next (k v f again u) := by
  cases h with
  | first rx issues fresh good operands state =>
    subst operands state
    rw [issueForm, issues.1, Option.bind_some, fresh, Option.map_none]
    dsimp only
    rw [issueChecked_of_issues issues]
    dsimp only
    rw [htrap _ _ good]
  | again present held state =>
    subst state
    rw [issueForm, present, Option.bind_some, held, Option.map_some]

/-- A form whose own check fails at its issue traps. -/
theorem issueForm_traps {rx : Bool} {c : BitVec 8} (h : s.Issues i v rx) (fresh : v.gang.form? v.cur.entry = none)
    (hbad : trap v (shape i v.mode v.cur.lit.isSome) = some c) :
    issueForm i s trap dst k = .next (s.trapNow c 0 (v.tlanes (shape i v.mode v.cur.lit.isSome)) 0) := by
  rw [issueForm, h.1, Option.bind_some, fresh, Option.map_none]
  dsimp only
  rw [issueChecked_of_issues h]
  dsimp only
  rw [hbad]

theorem turnActs_of (e : ∀ s, exec i s = issueForm i s trap dst k) (htrap : ∀ v sh, ¬ bad v sh → trap v sh = none)
    {ok : State → View → FormHold → Bool → Prop} {act : State → View → FormHold → Bool → State}
    (hact : ∀ u v f again, ok u v f again → k v f again u = act u v f again) : TurnActs i bad dst ok act := by
  intro s v f u again h ho
  rw [e, issueForm_of_turn htrap h, hact u v f again ho]

theorem turnAnswers_of {b : Reg} {n : Nat} (e : ∀ s, exec i s = issueForm i s trap (fun v => v.dest b n) k)
    (htrap : ∀ v sh, ¬ bad v sh → trap v sh = none)
    {ok : State → View → FormHold → Prop} {act : State → View → FormHold → State} {ws : State → View → FormHold → List Word}
    (hact : ∀ u v f again, ok u v f → k v f again u = (act u v f).formDone v b .sched (ws u v f)) :
    TurnAnswers i bad b n ok act ws := by
  intro s v f u again h ho
  exact ⟨_, by rw [e, issueForm_of_turn htrap h, hact u v f again ho], State.formDone_answered ..⟩

theorem formTraps_of {c : BitVec 8} (e : ∀ s, exec i s = issueForm i s trap dst k) {P : View → Shape → Prop}
    (hbad : ∀ v sh, P v sh → trap v sh = some c) :
    ActsWhen i (fun _ _ v sh => v.gang.form? v.cur.entry = none ∧ P v sh) (trapWith c 0) := by
  intro s v rx h u sh ho
  rw [e, issueForm_traps h ho.1 (hbad _ _ ho.2), trapWith]

theorem answersWhen_of {b : Reg} {k : View → Shape → State → State} (e : ∀ s, exec i s = issue i s k)
    {ok : State → View → Shape → Prop} {act : State → View → Shape → State} {ws : State → View → Shape → List Word}
    (hact : ∀ u v sh, ok u v sh → k v sh u = (act u v sh).formDone v b .sched (ws u v sh)) : AnswersWhen i b ok act ws := by
  intro s v rx h u sh ho
  exact ⟨_, by rw [e, issue_of_issues h, hact u v sh ho], State.formDone_answered ..⟩

end

theorem View.mayName_iff (v : View) (n : Nat) : v.mayName n = true ↔ v.names n := by
  simp [View.mayName, View.names]

theorem View.denied_iff (v : View) (n : Nat) : (n ≠ v.core.sessionOf v.gang ∧ v.core.level v.gang < 2) ↔ ¬ v.names n := by
  rw [View.names, not_or, Nat.not_le]

/-- The frame of module memory that a pair names. -/
theorem frameOf_eq_some_iff (x : DWord) (fr : Nat) :
    frameOf x = some fr ↔ x.toNat = fr * 4096 ∧ inModule (fr * 4096) = true := by
  unfold frameOf
  constructor
  · intro h
    split at h
    · rename_i hx
      obtain rfl := Option.some.inj h
      have : x.toNat / 4096 * 4096 = x.toNat := Nat.div_mul_cancel (Nat.dvd_of_mod_eq_zero hx.1)
      exact ⟨this.symm, by rw [this]; exact hx.2⟩
    · cases h
  · rintro ⟨hx, hm⟩
    rw [hx, if_pos ⟨Nat.mul_mod_left .., hm⟩, Nat.mul_div_cancel _ (by decide)]

theorem frameOf_eq_none_iff (x : DWord) : frameOf x = none ↔ (x.toNat % 4096 ≠ 0 ∨ inModule x.toNat = false) := by
  unfold frameOf
  split
  · rename_i h
    simp [h.1, h.2]
  · rename_i h
    rw [not_and_or, Bool.not_eq_true] at h
    simpa using h

/-! `xlt.inv` and `xlt.probe`. -/

/-- The range of an `xlt.inv`, and whether a die is in its scope (R314). -/
def FormHold.invLo (f : FormHold) : Nat := (invRange (f.a.toNat % 2 ^ 57) (fieldNat f.sel 12 2)).1
def FormHold.invLen (f : FormHold) : Nat := (invRange (f.a.toNat % 2 ^ 57) (fieldNat f.sel 12 2)).2
def FormHold.invScope (f : FormHold) (v : View) (d : Nat) : Bool := f.sel.getLsbD 14 || decide (d = dieOf v.cur.gang.core)

/-- An access that used a translation of the range (R314). -/
def FormHold.invUsed (f : FormHold) (v : View) (q : Access) : Bool :=
  decide (q.session = fieldNat f.sel 0 12) && f.invScope v (dieOf q.gang.core) && !isAperture q.va &&
    decide (f.invLo ≤ q.va.toNat) && decide (q.va.toNat < f.invLo + f.invLen)

/-- The range struck and dropped, which the first turn does (R314). -/
def FormHold.invDropped (f : FormHold) (u : State) (v : View) (again : Bool) : State :=
  if again then u
  else (u.strike (fieldNat f.sel 0 12)
    (fun l => decide (f.invLo ≤ l * 128) && decide (l * 128 < f.invLo + f.invLen))).dropRange
    (fieldNat f.sel 0 12) f.invLo f.invLen (f.invScope v)

/-- The cause of a check of `xlt.inv` that fails, and its turn. -/
def invTrap (v : View) (sh : Shape) : Option (BitVec 8) :=
  if fieldNat (v.sel sh) 15 17 ≠ 0 then some 0x02 else if v.mayName (fieldNat (v.sel sh) 0 12) then none else some 0x05
def invTurn (v : View) (f : FormHold) (again : Bool) (u : State) : State :=
  if (f.invDropped u v again).flying (f.invUsed v) ∨ (f.invDropped u v again).queuedAccess (f.invUsed v) then
    (f.invDropped u v again).holdForm f .sched
  else (f.invDropped u v again).retire

theorem exec_xltInv_form (a b : Reg) (s : State) :
    exec (.xltInv a b) s = issueForm (.xltInv a b) s invTrap (fun _ => []) invTurn := rfl

theorem invTrap_eq_none {v : View} {sh : Shape} (h : ¬ (fieldNat (v.sel sh) 15 17 ≠ 0 ∨ ¬ v.names (fieldNat (v.sel sh) 0 12))) :
    invTrap v sh = none := by
  rw [not_or, not_not (a := View.names ..)] at h
  rw [invTrap, if_neg h.1, if_pos ((v.mayName_iff _).2 h.2)]

theorem invTrap_field {v : View} {sh : Shape} (h : fieldNat (v.sel sh) 15 17 ≠ 0) : invTrap v sh = some 0x02 := if_pos h

theorem invTrap_privilege {v : View} {sh : Shape}
    (h : ¬ fieldNat (v.sel sh) 15 17 ≠ 0 ∧ ¬ v.names (fieldNat (v.sel sh) 0 12)) : invTrap v sh = some 0x05 := by
  rw [invTrap, if_neg h.1, if_neg (mt (v.mayName_iff _).1 h.2)]

/-- The session that an `xlt.probe` names, and its walk (R315). -/
def FormHold.probeWalk (f : FormHold) (u : State) : WalkEnd := u.walkMem (fieldNat f.sel 0 12) (f.a.toNat % 2 ^ 57)

def probeTrap (v : View) (sh : Shape) : Option (BitVec 8) := if v.mayName (fieldNat (v.sel sh) 0 12) then none else some 0x05
def probeTurn (b : Reg) (v : View) (f : FormHold) (_ : Bool) (u : State) : State :=
  if (f.probeWalk u).stop = .blocked then u.holdForm f .sched
  else u.formDone v b .sched (wordsOf (f.probeWalk u).entry 2 ++
    [BitVec.ofNat 32 ((f.probeWalk u).level + if (f.probeWalk u).valid && (f.probeWalk u).good then 8 else 0)])

theorem exec_xltProbe_form (a b : Reg) (s : State) :
    exec (.xltProbe a b) s = issueForm (.xltProbe a b) s probeTrap (fun v => v.dest b 3) (probeTurn b) := rfl

theorem probeTrap_eq_none {v : View} {sh : Shape} (h : ¬ ¬ v.names (fieldNat (v.sel sh) 0 12)) : probeTrap v sh = none :=
  if_pos ((v.mayName_iff _).2 (not_not.1 h))

theorem probeTrap_privilege {v : View} {sh : Shape} (h : ¬ v.names (fieldNat (v.sel sh) 0 12)) : probeTrap v sh = some 0x05 :=
  if_neg (mt (v.mayName_iff _).1 h)

/-! `xlt.replay`, `xlt.cancel` and `xlt.fblk`. -/

section
variable {b : Reg} {i : Instr} {act : State → Nat → Fid → State}

theorem fidOp_acts (e : ∀ s, exec i s = fidOp i b s act) (f : Fid) :
    AnswersWhen i b (fun u v sh => (u.die (dieOf v.cur.gang.core)).fids.find? (fun x => decide (x.fid = v.sel sh)) = some f ∧
      v.names f.session) (fun u v _ => act u (dieOf v.cur.gang.core) f) (status 0) :=
  answersWhen_of e fun u v sh ⟨hfind, hnames⟩ => by
    rw [show View.sel v sh = (v.opB sh 0).setWidth 32 from rfl] at hfind
    dsimp only
    rw [hfind]
    dsimp only
    rw [if_neg (mt (v.denied_iff _).1 (not_not.2 hnames)), status]

theorem fidOp_refused (e : ∀ s, exec i s = fidOp i b s act) (f : Fid) :
    AnswersWhen i b (fun u v sh => (u.die (dieOf v.cur.gang.core)).fids.find? (fun x => decide (x.fid = v.sel sh)) = some f ∧
      ¬ v.names f.session) asWas (status 5) :=
  answersWhen_of e fun u v sh ⟨hfind, hnames⟩ => by
    rw [show View.sel v sh = (v.opB sh 0).setWidth 32 from rfl] at hfind
    dsimp only
    rw [hfind]
    dsimp only
    rw [if_pos ((v.denied_iff _).2 hnames), status, asWas]

theorem fidOp_gone (e : ∀ s, exec i s = fidOp i b s act) :
    AnswersWhen i b (fun u v sh => (∀ x ∈ (u.die (dieOf v.cur.gang.core)).fids, x.fid ≠ v.sel sh) ∧
      v.sel sh ∈ (u.die (dieOf v.cur.gang.core)).discarded) asWas (status 9) ∧
    AnswersWhen i b (fun u v sh => (∀ x ∈ (u.die (dieOf v.cur.gang.core)).fids, x.fid ≠ v.sel sh) ∧
      v.sel sh ∉ (u.die (dieOf v.cur.gang.core)).discarded) asWas (status 4) := by
  refine ⟨answersWhen_of e fun u v sh ⟨hgone, hkept⟩ => ?_, answersWhen_of e fun u v sh ⟨hgone, hkept⟩ => ?_⟩ <;>
    rw [show View.sel v sh = (v.opB sh 0).setWidth 32 from rfl] at hgone hkept <;> dsimp only <;>
    rw [List.find?_eq_none.2 fun x hx => by simpa using hgone x hx] <;> dsimp only
  · rw [if_pos hkept, status, asWas]
  · rw [if_neg hkept, status, asWas]

end

theorem blocked_any_iff (u : State) (fr : Nat) :
    (u.blocked.any (fun k => decide (k.frame = fr))) = true ↔ ¬ ∀ k ∈ u.blocked, k.frame ≠ fr := by
  simp

theorem blocked_find?_none {u : State} {fr : Nat} (h : ∀ k ∈ u.blocked, k.frame ≠ fr) :
    u.blocked.find? (fun k => decide (k.frame = fr)) = none :=
  List.find?_eq_none.2 fun k hk => by simpa using h k hk

section
variable (a b : Reg) (fr : Nat)

/-- The frame blocked, its D copies recalled (R323). -/
def State.blockFrame (u : State) (fr : Nat) : State :=
  let dcopy (c : Copy) : Bool := decide (c.line / 32 = fr) && c.bytes.isNone
  let u1 := (u.writeBack dcopy).dropCopies dcopy
  { u1 with blocked := u1.blocked ++ [⟨fr, none, []⟩] }

theorem fblk_blocks : AnswersWhen (.xltFblk a b) b (fun u v sh => ((v.opA sh 0).toNat = fr * 4096 ∧ inModule (fr * 4096) = true) ∧
    ∀ k ∈ u.blocked, k.frame ≠ fr) (fun u _ _ => u.blockFrame fr) (status 0) :=
  answersWhen_of (exec_xltFblk a b) fun u v sh ⟨his, hfree⟩ => by
    dsimp only
    rw [(frameOf_eq_some_iff _ _).2 his]
    dsimp only
    rw [if_neg (mt (blocked_any_iff u fr).1 (not_not.2 hfree)), status]
    rfl

theorem fblk_busy : AnswersWhen (.xltFblk a b) b (fun u v sh => ((v.opA sh 0).toNat = fr * 4096 ∧ inModule (fr * 4096) = true) ∧
    ¬ ∀ k ∈ u.blocked, k.frame ≠ fr) asWas (status 6) :=
  answersWhen_of (exec_xltFblk a b) fun u v sh ⟨his, hfree⟩ => by
    dsimp only
    rw [(frameOf_eq_some_iff _ _).2 his]
    dsimp only
    rw [if_pos ((blocked_any_iff u fr).2 hfree), status, asWas]

theorem fblk_noFrame : AnswersWhen (.xltFblk a b) b (fun _ v sh => (v.opA sh 0).toNat % 4096 ≠ 0 ∨ inModule (v.opA sh 0).toNat = false)
    asWas (status 2) :=
  answersWhen_of (exec_xltFblk a b) fun u v sh hnone => by
    dsimp only
    rw [(frameOf_eq_none_iff _).2 hnone, status, asWas]

end

/-! `xlt.funblk` and `xlt.fmove`. -/

/-- The frame moved with its bytes, versions and undo lines, its first queued access sent on (R323). -/
def State.moveFrame (u : State) (fr nw : Nat) (k : Blocked) : State :=
  let u1 := ((u.dropFrame nw).copyFrame fr nw true).moveUndo fr nw
  let u2 : State := { u1 with blocked := u1.blocked.map fun j => if j.frame = fr then { j with moved := some nw } else j }
  u2.postAll ((k.queue.take 1).filter queuedAlone)

section
variable (a b : Reg) (fr : Nat) (k : Blocked)

theorem noTrap (bad : View → Shape → Prop) : ∀ v sh, ¬ bad v sh → (fun (_ : View) (_ : Shape) => (none : Option (BitVec 8))) v sh = none :=
  fun _ _ _ => rfl

theorem funblk_free : TurnAnswers (.xltFunblk a b) (fun _ _ => False) b 1
    (fun u _ f => (f.a.toNat = fr * 4096 ∧ inModule (fr * 4096) = true) ∧ ∀ k ∈ u.blocked, k.frame ≠ fr) turnAsWas (turnStatus 4) :=
  turnAnswers_of (exec_xltFunblk a b) (noTrap _) fun u v f _ ⟨his, hfree⟩ => by
    dsimp only
    rw [(frameOf_eq_some_iff _ _).2 his]
    dsimp only
    rw [blocked_find?_none hfree, turnStatus, turnAsWas]

/-- A blocked frame that a form names. -/
def FormHold.onBlocked (f : FormHold) (u : State) (fr : Nat) (k : Blocked) : Prop :=
  (f.a.toNat = fr * 4096 ∧ inModule (fr * 4096) = true) ∧ u.blocked.find? (fun j => decide (j.frame = fr)) = some k

theorem funblk_unmoved : TurnAnswers (.xltFunblk a b) (fun _ _ => False) b 1
    (fun u _ f => f.onBlocked u fr k ∧ k.moved = none) turnAsWas (turnStatus 4) :=
  turnAnswers_of (exec_xltFunblk a b) (noTrap _) fun u v f _ ⟨⟨his, hfind⟩, hmoved⟩ => by
    dsimp only
    rw [(frameOf_eq_some_iff _ _).2 his]
    dsimp only
    rw [hfind]
    dsimp only
    rw [hmoved, Option.isNone_none, if_pos rfl, turnStatus, turnAsWas]

theorem funblk_done : TurnAnswers (.xltFunblk a b) (fun _ _ => False) b 1
    (fun u _ f => f.onBlocked u fr k ∧ k.moved.isSome = true ∧ k.queue = [])
    (fun u _ _ => { u with blocked := u.blocked.filter (fun j => decide (j.frame ≠ fr)) }) (turnStatus 0) :=
  turnAnswers_of (exec_xltFunblk a b) (noTrap _) fun u v f _ ⟨⟨his, hfind⟩, hmoved, hqueue⟩ => by
    dsimp only
    rw [(frameOf_eq_some_iff _ _).2 his]
    dsimp only
    rw [hfind]
    dsimp only
    rw [if_neg (by rw [Option.isNone_iff_eq_none]; exact Option.isSome_iff_ne_none.1 hmoved), if_neg (not_not.2 hqueue), turnStatus]

theorem funblk_waits : TurnActs (.xltFunblk a b) (fun _ _ => False) (fun v => v.dest b 1)
    (fun u _ f _ => f.onBlocked u fr k ∧ k.moved.isSome = true ∧ k.queue ≠ []) waits :=
  turnActs_of (exec_xltFunblk a b) (noTrap _) fun u v f _ ⟨⟨his, hfind⟩, hmoved, hqueue⟩ => by
    dsimp only
    rw [(frameOf_eq_some_iff _ _).2 his]
    dsimp only
    rw [hfind]
    dsimp only
    rw [if_neg (by rw [Option.isNone_iff_eq_none]; exact Option.isSome_iff_ne_none.1 hmoved), if_pos hqueue, waits]

theorem funblk_noFrame : TurnAnswers (.xltFunblk a b) (fun _ _ => False) b 1
    (fun _ _ f => f.a.toNat % 4096 ≠ 0 ∨ inModule f.a.toNat = false) turnAsWas (turnStatus 2) :=
  turnAnswers_of (exec_xltFunblk a b) (noTrap _) fun u v f _ hnone => by
    dsimp only
    rw [(frameOf_eq_none_iff _).2 hnone, turnStatus, turnAsWas]

/-- What `xlt.fmove` does with its engine (R323). -/
def fmoveTurn (b : Reg) (v : View) (f : FormHold) (_ : Bool) (u : State) : State :=
  if !u.pooled v then (u.wantPool v).holdForm f .sched
  else
    match frameOf f.a, frameOf f.b with
    | some fr, some nw =>
      match u.blocked.find? (fun k => decide (k.frame = fr)) with
      | none => u.formDone v b .sched [statusWord 4 0]
      | some k =>
        if k.moved.isSome then u.formDone v b .sched [statusWord 6 0]
        else (u.moveFrame fr nw k).formDone v b .sched [statusWord 0 0]
    | _, _ => u.formDone v b .sched [statusWord 2 0]

theorem exec_xltFmove_form (s : State) : exec (.xltFmove a b) s =
    issueForm (.xltFmove a b) s (fun _ _ => none) (fun v => v.dest b 1) (fmoveTurn b) := rfl

theorem fmove_engine : TurnActs (.xltFmove a b) (fun _ _ => False) (fun v => v.dest b 1) (fun u v _ _ => u.pooled v = false)
    (fun u v f _ => (u.wantPool v).holdForm f .sched) :=
  turnActs_of (exec_xltFmove_form a b) (noTrap _) fun u v f _ h => by
    rw [fmoveTurn, h, Bool.not_false, if_pos rfl]

/-- The other frame that a move names. -/
def FormHold.onto (f : FormHold) (nw : Nat) : Prop := f.b.toNat = nw * 4096 ∧ inModule (nw * 4096) = true

variable (nw : Nat)

theorem fmove_moves : TurnAnswers (.xltFmove a b) (fun _ _ => False) b 1
    (fun u v f => u.pooled v = true ∧ f.onBlocked u fr k ∧ f.onto nw ∧ k.moved = none) (fun u _ _ => u.moveFrame fr nw k)
    (turnStatus 0) :=
  turnAnswers_of (exec_xltFmove_form a b) (noTrap _) fun u v f _ ⟨hpool, ⟨his, hfind⟩, honto, hmoved⟩ => by
    rw [fmoveTurn, hpool, Bool.not_true, if_neg Bool.false_ne_true, (frameOf_eq_some_iff _ _).2 his, (frameOf_eq_some_iff _ _).2 honto]
    dsimp only
    rw [hfind]
    dsimp only
    rw [hmoved, Option.isSome_none, if_neg Bool.false_ne_true, turnStatus]

theorem fmove_busy : TurnAnswers (.xltFmove a b) (fun _ _ => False) b 1
    (fun u v f => u.pooled v = true ∧ f.onBlocked u fr k ∧ f.onto nw ∧ k.moved.isSome = true) turnAsWas (turnStatus 6) :=
  turnAnswers_of (exec_xltFmove_form a b) (noTrap _) fun u v f _ ⟨hpool, ⟨his, hfind⟩, honto, hmoved⟩ => by
    rw [fmoveTurn, hpool, Bool.not_true, if_neg Bool.false_ne_true, (frameOf_eq_some_iff _ _).2 his, (frameOf_eq_some_iff _ _).2 honto]
    dsimp only
    rw [hfind]
    dsimp only
    rw [if_pos hmoved, turnStatus, turnAsWas]

theorem fmove_free : TurnAnswers (.xltFmove a b) (fun _ _ => False) b 1
    (fun u v f => u.pooled v = true ∧ (f.a.toNat = fr * 4096 ∧ inModule (fr * 4096) = true) ∧ (∀ k ∈ u.blocked, k.frame ≠ fr) ∧
      f.onto nw) turnAsWas (turnStatus 4) :=
  turnAnswers_of (exec_xltFmove_form a b) (noTrap _) fun u v f _ ⟨hpool, his, hfree, honto⟩ => by
    rw [fmoveTurn, hpool, Bool.not_true, if_neg Bool.false_ne_true, (frameOf_eq_some_iff _ _).2 his, (frameOf_eq_some_iff _ _).2 honto]
    dsimp only
    rw [blocked_find?_none hfree, turnStatus, turnAsWas]

theorem fmove_noFrame : TurnAnswers (.xltFmove a b) (fun _ _ => False) b 1
    (fun u v f => u.pooled v = true ∧ ((f.a.toNat % 4096 ≠ 0 ∨ inModule f.a.toNat = false) ∨
      (f.b.toNat % 4096 ≠ 0 ∨ inModule f.b.toNat = false))) turnAsWas (turnStatus 2) :=
  turnAnswers_of (exec_xltFmove_form a b) (noTrap _) fun u v f _ ⟨hpool, hnone⟩ => by
    rw [← frameOf_eq_none_iff, ← frameOf_eq_none_iff] at hnone
    rw [fmoveTurn, hpool, Bool.not_true, if_neg Bool.false_ne_true, turnStatus, turnAsWas]
    obtain h | h := hnone
    · rw [h]
    · rw [h]
      cases frameOf f.a <;> rfl

theorem fidForms_fidOp (b : Reg) (i : Instr) (hi : i ∈ [Instr.xltReplay b, .xltCancel b]) :
    ∃ act, ∀ s, exec i s = fidOp i b s act := by
  simp only [List.mem_cons, List.not_mem_nil, or_false] at hi
  obtain rfl | rfl := hi
  · exact ⟨_, exec_xltReplay b⟩
  · exact ⟨_, exec_xltCancel b⟩

end

theorem inv_completes (a b : Reg) : TurnActs (.xltInv a b)
    (fun v sh => fieldNat (v.sel sh) 15 17 ≠ 0 ∨ ¬ v.names (fieldNat (v.sel sh) 0 12)) (fun _ => [])
    (fun u v f again => ¬ ((f.invDropped u v again).flying (f.invUsed v) = true ∨ (f.invDropped u v again).queuedAccess (f.invUsed v) = true))
    fun u v f again => (f.invDropped u v again).retire :=
  turnActs_of (exec_xltInv_form a b) (fun _ _ => invTrap_eq_none) fun _ _ _ _ h => if_neg h

theorem inv_waits (a b : Reg) : TurnActs (.xltInv a b)
    (fun v sh => fieldNat (v.sel sh) 15 17 ≠ 0 ∨ ¬ v.names (fieldNat (v.sel sh) 0 12)) (fun _ => [])
    (fun u v f again => (f.invDropped u v again).flying (f.invUsed v) = true ∨ (f.invDropped u v again).queuedAccess (f.invUsed v) = true)
    fun u v f again => (f.invDropped u v again).holdForm f .sched :=
  turnActs_of (exec_xltInv_form a b) (fun _ _ => invTrap_eq_none) fun _ _ _ _ h => if_pos h

/-- Settles O39. -/
theorem translationFormsComplete : Obligations.TranslationFormsComplete := by
  intro a b die
  have hdrop : ∀ (f : FormHold) u v again, (if again = true then u
      else (u.strike (fieldNat f.sel 0 12) (fun l => decide (f.invLo ≤ l * 128) && decide (l * 128 < f.invLo + f.invLen))).dropRange
        (fieldNat f.sel 0 12) f.invLo (f.invLo + f.invLen - f.invLo) (f.invScope v)) = f.invDropped u v again := fun f u v again => by
    rw [Nat.add_sub_cancel_left, FormHold.invDropped]
  refine ⟨?inv, ?probe, fun f => ⟨fidOp_acts (exec_xltReplay b) f, fidOp_acts (exec_xltCancel b) f, ?refused⟩, ?gone, fun fr =>
    ⟨fblk_blocks a b fr, fblk_busy a b fr, funblk_free a b fr, fun k => ⟨funblk_unmoved a b fr k, funblk_done a b fr k,
      funblk_waits a b fr k, fun nw => ⟨fmove_moves a b fr k nw, fmove_busy a b fr k nw⟩⟩, fun nw => fmove_free a b fr nw,
      fmove_engine a b⟩, fblk_noFrame a b, funblk_noFrame a b, fmove_noFrame a b⟩
  case inv =>
    intro reserved bad n lo hi inScope used dropped pending
    have hdropped : dropped = fun u v f again => f.invDropped u v again := by
      funext u v f again
      exact hdrop f u v again
    rw [hdropped]
    exact ⟨inv_completes a b, inv_waits a b, formTraps_of (exec_xltInv_form a b) fun _ _ h => invTrap_field h,
      formTraps_of (exec_xltInv_form a b) fun _ _ h => invTrap_privilege h⟩
  case probe =>
    intro bad walk
    refine ⟨turnAnswers_of (exec_xltProbe_form a b) (fun _ _ => probeTrap_eq_none) fun u v f _ h =>
        (if_neg (show (f.probeWalk u).stop ≠ .blocked from h)).trans ?_,
      turnActs_of (exec_xltProbe_form a b) (fun _ _ => probeTrap_eq_none) fun u v f _ h => if_pos h,
      formTraps_of (exec_xltProbe_form a b) fun _ _ h => probeTrap_privilege h⟩
    rfl
  case refused =>
    intro i hi
    obtain ⟨act, hact⟩ := fidForms_fidOp b i hi
    exact fidOp_refused hact f
  case gone =>
    intro gone kept i hi
    obtain ⟨act, hact⟩ := fidForms_fidOp b i hi
    exact fidOp_gone hact

end Sys2Proof.Machine

/-! PROOFS. O40: the `ckp` forms (R264, R270, R275 to R280). -/

namespace Sys2Proof.Machine

theorem fieldNat_statusWord (n x : Nat) : fieldNat (statusWord n x) 24 8 = n % 256 := by
  unfold fieldNat statusWord
  rw [BitVec.toNat_append, Nat.shiftRight_or_distrib, BitVec.toNat_ofNat, BitVec.toNat_ofNat, Nat.shiftLeft_shiftRight,
    Nat.shiftRight_eq_div_pow (_ % _), Nat.div_eq_of_lt (Nat.mod_lt _ (by decide)), Nat.or_zero]
  omega

section
variable {i : Instr} {b : Reg}

theorem actsWhen_of {k : View → Shape → State → State} (e : ∀ s, exec i s = issue i s k)
    {ok : State → State → View → Shape → Prop} {act : State → State → View → Shape → State}
    (hact : ∀ s u v sh, ok s u v sh → k v sh u = act s u v sh) : ActsWhen i ok act := by
  intro s v rx h u sh ho
  rw [e, issue_of_issues h, hact _ _ _ _ ho]

theorem actsWhen_checked {k : View → Shape → State → (State → State) → State} (e : ∀ s, exec i s = issueChecked i s k)
    {ok : State → State → View → Shape → Prop} {act : State → State → View → Shape → State}
    (hact : ∀ s go v sh, ok s (go s) v sh → k v sh s go = act s (go s) v sh) : ActsWhen i ok act := by
  intro s v rx h u sh ho
  rw [e, issueChecked_of_issues h, hact s _ v _ ho]

theorem answersWhen_checked {k : View → Shape → State → (State → State) → State} (e : ∀ s, exec i s = issueChecked i s k)
    {ok : State → View → Shape → Prop} {act : State → View → Shape → State} {ws : State → View → Shape → List Word}
    (hact : ∀ s go v sh, ok (go s) v sh → k v sh s go = (act (go s) v sh).formDone v b .sched (ws (go s) v sh)) :
    AnswersWhen i b ok act ws := by
  intro s v rx h u sh ho
  exact ⟨_, by rw [e, issueChecked_of_issues h, hact s _ v _ ho], State.formDone_answered ..⟩

end

theorem View.denied_eq_true_iff (v : View) (n : Nat) : v.denied n = true ↔ ¬ v.names n := by
  rw [← v.denied_iff, View.denied]
  simp

theorem View.wordA_eq (v : View) (sh : Shape) : v.wordA sh = v.word sh := rfl

/-! `ckp.preg` and `ckp.greg`. -/

theorem State.preg_misplaced (u : State) (v : View) {va : Nat} (h : va % 64 ≠ 0) : u.preg v va = .ok (statusWord 2 0) u := by
  rw [State.preg, if_pos (Or.inl h)]

theorem State.greg_misplaced (u : State) (v : View) {va : Nat} (h : va % 64 ≠ 0) : u.greg v va = .ok (statusWord 2 0) u := by
  rw [State.greg, if_pos (Or.inl h)]

theorem status_ne_of_done {n x : Nat} {w : Word} {s t : State} (hw : fieldNat w 24 8 = 0) (hn : n % 256 ≠ 0) :
    Got.ok (statusWord n x) s ≠ Got.ok w t := fun he => by
  rw [← (Got.ok.inj he).1, fieldNat_statusWord] at hw
  exact hn hw

/-- A pipeline registered without error is the last of its session, and has begun no phase (R264). -/
theorem State.preg_registers {u t : State} {v : View} {va : Nat} {w : Word} (h : u.preg v va = .ok w t) (hw : fieldNat w 24 8 = 0) :
    ∃ p, (t.ses (v.core.sessionOf v.gang)).pipes.getLast? = some p ∧ w = statusWord 0 (0x100000 + p.num) ∧ p.phase = none := by
  unfold State.preg at h
  dsimp only at h
  split at h
  · exact (status_ne_of_done hw (by decide) h).elim
  split at h
  · cases h
  · cases h
  · exact (status_ne_of_done hw (by decide) h).elim
  split at h
  · exact (status_ne_of_done hw (by decide) h).elim
  split at h
  · cases h
  · cases h
  · exact (status_ne_of_done hw (by decide) h).elim
  split at h
  · exact (status_ne_of_done hw (by decide) h).elim
  split at h
  · cases h
  · cases h
  · injection h with hword hstate
    refine ⟨?made, ?last, ?word, ?idle⟩
    case last => rw [← hstate, State.ses_setSes_same, List.getLast?_append_of_ne_nil _ (List.cons_ne_nil _ _), List.getLast?_singleton]
    case word => exact hword.symm
    case idle => rfl

/-- A graph registered without error is the last of its session, and is idle (R270). -/
theorem State.greg_registers {u t : State} {v : View} {va : Nat} {w : Word} (h : u.greg v va = .ok w t) (hw : fieldNat w 24 8 = 0) :
    ∃ g, (t.ses (v.core.sessionOf v.gang)).graphs.getLast? = some g ∧ w = statusWord 0 (0x200000 + g.num) ∧ g.state = 0 := by
  unfold State.greg at h
  dsimp only at h
  split at h
  · exact (status_ne_of_done hw (by decide) h).elim
  split at h
  · cases h
  · cases h
  · exact (status_ne_of_done hw (by decide) h).elim
  split at h
  · exact (status_ne_of_done hw (by decide) h).elim
  split at h
  · exact (status_ne_of_done hw (by decide) h).elim
  · injection h with hword hstate
    refine ⟨?made, ?last, ?word, ?idle⟩
    case last => rw [← hstate, State.ses_setSes_same, List.getLast?_append_of_ne_nil _ (List.cons_ne_nil _ _), List.getLast?_singleton]
    case word => exact hword.symm
    case idle => rfl

/-- A form on a descriptor answers, or waits, as its reading comes out (R264, R270, R395). -/
theorem descriptorForm_of {i : Instr} {b : Reg} {r : State → View → Nat → Got Word}
    (e : ∀ s, exec i s = issueForm i s (fun _ _ => none) (fun v => v.dest b 1) fun v f _ u =>
      State.formEnd v f b (r u v (f.a.toNat % 2 ^ 57))) :
    (∀ w t, TurnAnswers i (fun _ _ => False) b 1 (fun u v f => r u v (f.a.toNat % 2 ^ 57) = .ok w t) (fun _ _ _ => t) fun _ _ _ => [w]) ∧
    (∀ o t, TurnAnswers i (fun _ _ => False) b 1 (fun u v f => r u v (f.a.toNat % 2 ^ 57) = .bad o t) (fun _ _ _ => t)
      fun _ _ _ => [statusWord 2 o]) ∧
    (∀ t, TurnActs i (fun _ _ => False) (fun v => v.dest b 1) (fun u v f _ => r u v (f.a.toNat % 2 ^ 57) = .wait t)
      fun _ _ f _ => t.holdForm f .sched) := by
  refine ⟨fun w t => turnAnswers_of e (noTrap _) fun u v f _ h => ?_, fun o t => turnAnswers_of e (noTrap _) fun u v f _ h => ?_,
    fun t => turnActs_of e (noTrap _) fun u v f _ h => ?_⟩ <;> rw [h, State.formEnd]

/-! `ckp.unreg`, `ckp.take` and `ckp.roll`. -/

theorem unreg_pipeline {s : State} {n k : Nat} {h : Word} {p : Pipeline} (h24 : fieldNat h 24 8 = 0) (h20 : fieldNat h 20 4 = 1)
    (h0 : fieldNat h 0 20 = k) (hp : s.pipe? n k = some p) (hphase : p.phase = none)
    (hfree : ∀ g ∈ (s.ses n).graphs, ∀ e ∈ g.nodes, e.1 ≠ k) :
    s.unreg n h = (0, s.setSes n { s.ses n with pipes := (s.ses n).pipes.filter (fun q => decide (q.num ≠ k)) }) := by
  have hany : ((s.ses n).graphs.any fun g => g.nodes.any fun e => decide (e.1 = k)) = false := by
    rw [List.any_eq_false]
    intro g hg
    rw [Bool.not_eq_true, List.any_eq_false]
    exact fun e he => by simpa using hfree g hg e he
  rw [State.unreg]
  dsimp only
  rw [if_neg (not_not.2 h24), if_pos h20, h0, hp]
  dsimp only
  rw [hany, if_neg (not_or.2 ⟨not_not.2 hphase, Bool.false_ne_true⟩)]

section
variable (a b : Reg)

/-- `ckp.take` and `ckp.roll` of a session that the issuer may not name, and of a FREE one. -/
theorem take_refused : AnswersWhen (.ckpTake a b) b (fun _ v sh => ¬ v.names (fieldNat (v.word sh) 0 12)) asWas (status 5) :=
  answersWhen_of (exec_ckpTake a b) fun u v sh h => by
    dsimp only
    rw [View.wordA_eq, if_pos ((v.denied_eq_true_iff _).2 h), status, asWas]

theorem take_free : AnswersWhen (.ckpTake a b) b (fun u v sh => v.names (fieldNat (v.word sh) 0 12) ∧
    u.sesState (fieldNat (v.word sh) 0 12) = 0) asWas (status 4) :=
  answersWhen_of (exec_ckpTake a b) fun u v sh h => by
    dsimp only
    rw [View.wordA_eq, if_neg (mt (v.denied_eq_true_iff _).1 (not_not.2 h.1)), if_pos h.2, status, asWas]

theorem roll_refused : AnswersWhen (.ckpRoll a b) b (fun _ v sh => ¬ v.names (fieldNat (v.word sh) 0 12)) asWas (status 5) :=
  answersWhen_of (exec_ckpRoll a b) fun u v sh h => by
    dsimp only
    rw [View.wordA_eq, if_pos ((v.denied_eq_true_iff _).2 h), status, asWas]

theorem roll_free : AnswersWhen (.ckpRoll a b) b (fun u v sh => v.names (fieldNat (v.word sh) 0 12) ∧
    u.sesState (fieldNat (v.word sh) 0 12) = 0) asWas (status 4) :=
  answersWhen_of (exec_ckpRoll a b) fun u v sh h => by
    dsimp only
    rw [View.wordA_eq, if_neg (mt (v.denied_eq_true_iff _).1 (not_not.2 h.1)), if_pos h.2, status, asWas]

theorem take_starts : ActsWhen (.ckpTake a b) (fun _ u v sh => (v.names (fieldNat (v.word sh) 0 12) ∧
      u.sesState (fieldNat (v.word sh) 0 12) ≠ 0) ∧
      ((u.await (.take (fieldNat (v.word sh) 0 12)) .sched (v.dstList b 1)).ses (fieldNat (v.word sh) 0 12)).retryAt = none)
    fun _ u v sh => (u.await (.take (fieldNat (v.word sh) 0 12)) .sched (v.dstList b 1)).startAttempt (fieldNat (v.word sh) 0 12) true :=
  actsWhen_of (exec_ckpTake a b) fun _ u v sh ⟨⟨hnames, hused⟩, hretry⟩ => by
    dsimp only
    rw [View.wordA_eq, if_neg (mt (v.denied_eq_true_iff _).1 (not_not.2 hnames)), if_neg hused, hretry, Option.isSome_none,
      if_neg Bool.false_ne_true]

theorem take_waits : ActsWhen (.ckpTake a b) (fun _ u v sh => (v.names (fieldNat (v.word sh) 0 12) ∧
      u.sesState (fieldNat (v.word sh) 0 12) ≠ 0) ∧
      ((u.await (.take (fieldNat (v.word sh) 0 12)) .sched (v.dstList b 1)).ses (fieldNat (v.word sh) 0 12)).retryAt ≠ none)
    fun _ u v sh => u.await (.take (fieldNat (v.word sh) 0 12)) .sched (v.dstList b 1) :=
  actsWhen_of (exec_ckpTake a b) fun _ u v sh ⟨⟨hnames, hused⟩, hretry⟩ => by
    dsimp only
    rw [View.wordA_eq, if_neg (mt (v.denied_eq_true_iff _).1 (not_not.2 hnames)), if_neg hused,
      if_pos (Option.isSome_iff_ne_none.2 hretry)]

theorem roll_starts : ActsWhen (.ckpRoll a b) (fun _ u v sh => (v.names (fieldNat (v.word sh) 0 12) ∧
      u.sesState (fieldNat (v.word sh) 0 12) ≠ 0) ∧ u.sesState (fieldNat (v.word sh) 0 12) ≠ 4)
    fun _ u v sh => (u.await (.roll (fieldNat (v.word sh) 0 12)) .sched (v.dstList b 1)).postOnce (.rollback (fieldNat (v.word sh) 0 12)) :=
  actsWhen_of (exec_ckpRoll a b) fun _ u v sh ⟨⟨hnames, hused⟩, hrun⟩ => by
    dsimp only
    rw [View.wordA_eq, if_neg (mt (v.denied_eq_true_iff _).1 (not_not.2 hnames)), if_neg hused, if_neg hrun]

theorem roll_lost : AnswersWhen (.ckpRoll a b) b (fun u v sh => v.names (fieldNat (v.word sh) 0 12) ∧
    u.sesState (fieldNat (v.word sh) 0 12) = 4) asWas (status 7) :=
  answersWhen_of (exec_ckpRoll a b) fun u v sh ⟨hnames, hlost⟩ => by
    dsimp only
    rw [View.wordA_eq, if_neg (mt (v.denied_eq_true_iff _).1 (not_not.2 hnames)), hlost, if_neg (by decide), if_pos rfl, status, asWas]

/-! `ckp.drain` and `ckp.restore`. -/

theorem drain_reserved : ActsWhen (.ckpDrain a b) (fun _ _ v sh => ¬ fieldNat (v.word sh) 16 16 = 0) (trapWith 0x02 0) :=
  actsWhen_checked (exec_ckpDrain a b) fun s go v sh h => by
    dsimp only
    rw [View.wordA_eq, if_pos h, trapWith]

theorem drain_none : AnswersWhen (.ckpDrain a b) b (fun u v sh => fieldNat (v.word sh) 16 16 = 0 ∧
    u.crewAt (dieOf v.cur.gang.core) (v.word sh) = none) asWas (status 4) :=
  answersWhen_checked (exec_ckpDrain a b) fun s go v sh ⟨hplain, hcrew⟩ => by
    dsimp only
    rw [View.wordA_eq, if_neg (not_not.2 hplain), hcrew, status, asWas]

variable (c : Crew)

theorem drain_refused : AnswersWhen (.ckpDrain a b) b (fun u v sh => fieldNat (v.word sh) 16 16 = 0 ∧
    u.crewAt (dieOf v.cur.gang.core) (v.word sh) = some c ∧ ¬ v.names c.session) asWas (status 5) :=
  answersWhen_checked (exec_ckpDrain a b) fun s go v sh ⟨hplain, hcrew, hnames⟩ => by
    dsimp only
    rw [View.wordA_eq, if_neg (not_not.2 hplain), hcrew]
    dsimp only
    rw [if_pos ((v.denied_eq_true_iff _).2 hnames), status, asWas]

theorem drain_busy : AnswersWhen (.ckpDrain a b) b (fun u v sh => fieldNat (v.word sh) 16 16 = 0 ∧
    u.crewAt (dieOf v.cur.gang.core) (v.word sh) = some c ∧ v.names c.session ∧ c.drain ≠ .running) asWas (status 6) :=
  answersWhen_checked (exec_ckpDrain a b) fun s go v sh ⟨hplain, hcrew, hnames, hdrain⟩ => by
    dsimp only
    rw [View.wordA_eq, if_neg (not_not.2 hplain), hcrew]
    dsimp only
    rw [if_neg (mt (v.denied_eq_true_iff _).1 (not_not.2 hnames)), if_pos hdrain, status, asWas]

theorem drain_starts : ActsWhen (.ckpDrain a b) (fun _ u v sh => fieldNat (v.word sh) 16 16 = 0 ∧
    u.crewAt (dieOf v.cur.gang.core) (v.word sh) = some c ∧ v.names c.session ∧ c.drain = .running)
    fun _ u v _ => (u.startDrain c).await (.drain c.id) .sched (v.dstList b 1) :=
  actsWhen_checked (exec_ckpDrain a b) fun s go v sh ⟨hplain, hcrew, hnames, hdrain⟩ => by
    dsimp only
    rw [View.wordA_eq, if_neg (not_not.2 hplain), hcrew]
    dsimp only
    rw [if_neg (mt (v.denied_eq_true_iff _).1 (not_not.2 hnames)), if_neg (not_not.2 hdrain)]

theorem restore_none : AnswersWhen (.ckpRestore a b) b (fun u v sh =>
    u.saved.find? (fun x => decide (x.ticket = fieldNat (v.word sh) 0 20)) = none ∨ fieldNat (v.word sh) 20 12 ≠ 4) asWas (status 4) :=
  answersWhen_of (exec_ckpRestore a b) fun u v sh h => by
    dsimp only
    rw [View.wordA_eq, status, asWas]
    cases hsaved : u.saved.find? (fun x => decide (x.ticket = fieldNat (v.word sh) 0 20)) with
    | none => rfl
    | some c =>
      dsimp only
      rw [if_pos (h.resolve_left (by rw [hsaved]; exact Option.some_ne_none c))]

variable (x : SavedCrew)

/-- The saved crew that a ticket names (R275). -/
def State.ticketNames (u : State) (v : View) (sh : Shape) (x : SavedCrew) : Prop :=
  u.saved.find? (fun y => decide (y.ticket = fieldNat (v.word sh) 0 20)) = some x ∧ fieldNat (v.word sh) 20 12 = 4

theorem restore_refused : AnswersWhen (.ckpRestore a b) b (fun u v sh => u.ticketNames v sh x ∧ ¬ v.names x.crew.session) asWas (status 5) :=
  answersWhen_of (exec_ckpRestore a b) fun u v sh ⟨⟨hsaved, hkind⟩, hnames⟩ => by
    dsimp only
    rw [View.wordA_eq, hsaved]
    dsimp only
    rw [if_neg (not_not.2 hkind), if_pos ((v.denied_eq_true_iff _).2 hnames), status, asWas]

theorem restore_done : AnswersWhen (.ckpRestore a b) b (fun u v sh =>
      u.ticketNames v sh x ∧ v.names x.crew.session ∧ (u.restoreCrew x).1 = true) (fun u _ _ => (u.restoreCrew x).2)
    fun u _ _ => [statusWord (if (u.restoreCrew x).2.sesState x.crew.session = 4 then 7 else 0) 0] :=
  answersWhen_of (exec_ckpRestore a b) fun u v sh ⟨⟨hsaved, hkind⟩, hnames, hdone⟩ => by
    dsimp only
    rw [View.wordA_eq, hsaved]
    dsimp only
    rw [if_neg (not_not.2 hkind), if_neg (mt (v.denied_eq_true_iff _).1 (not_not.2 hnames)), if_pos hdone]

theorem restore_waits : ActsWhen (.ckpRestore a b) (fun _ u v sh =>
      u.ticketNames v sh x ∧ v.names x.crew.session ∧ (u.restoreCrew x).1 = false)
    fun _ u v _ => (u.restoreCrew x).2.await (.restore x.ticket) .sched (v.dstList b 1) :=
  actsWhen_of (exec_ckpRestore a b) fun _ u v sh ⟨⟨hsaved, hkind⟩, hnames, hdone⟩ => by
    dsimp only
    rw [View.wordA_eq, hsaved]
    dsimp only
    rw [if_neg (not_not.2 hkind), if_neg (mt (v.denied_eq_true_iff _).1 (not_not.2 hnames)), if_neg (Bool.eq_false_iff.1 hdone)]

/-! `ckp.epnew`, `ckp.deadline` and `ckp.budget`. -/

theorem epnew_made (ep : Nat) : AnswersWhen (.ckpEpnew b) b (fun u v _ => u.endpointsFit (v.core.sessionOf v.gang) 1 = true ∧
      (unused (Config.newNumber u.tick) 0xE0000 1 (u.ses (v.core.sessionOf v.gang)).endpointNumbers).headD 0 = ep)
    (fun u v _ => u.setSes (v.core.sessionOf v.gang) { u.ses (v.core.sessionOf v.gang) with
      endpoints := (u.ses (v.core.sessionOf v.gang)).endpoints ++ [⟨ep, u.sesHome (v.core.sessionOf v.gang), []⟩] })
    fun _ _ _ => [statusWord 0 (0x300000 + ep)] :=
  answersWhen_of (exec_ckpEpnew b) fun u v sh ⟨hfit, hep⟩ => by
    dsimp only
    rw [hfit, Bool.not_true, if_neg Bool.false_ne_true, hep]

theorem epnew_full : AnswersWhen (.ckpEpnew b) b (fun u v _ => u.endpointsFit (v.core.sessionOf v.gang) 1 = false) asWas (status 1) :=
  answersWhen_of (exec_ckpEpnew b) fun u v sh hfit => by
    dsimp only
    rw [hfit, Bool.not_false, if_pos rfl, status, asWas]

theorem deadline_set (p : Nat) : AnswersWhen (.ckpDeadline a b) b (fun _ v sh => fieldNat (v.word sh) 5 3 = 0 ∧ fieldNat (v.word sh) 0 5 = p)
    (fun u v sh => { u with
      parts := Cells.put 0 u.parts (64 * p + 3) (setField (Cells.get 0 u.parts (64 * p + 3)) 0 24 (fieldNat (v.word sh) 8 24)) })
    (status 0) :=
  answersWhen_of (exec_ckpDeadline a b) fun u v sh ⟨hplain, hp⟩ => by
    dsimp only
    rw [View.wordA_eq, if_neg (not_not.2 hplain), hp, status]

theorem deadline_reserved : AnswersWhen (.ckpDeadline a b) b (fun _ v sh => fieldNat (v.word sh) 5 3 ≠ 0) asWas (status 2) :=
  answersWhen_of (exec_ckpDeadline a b) fun u v sh h => by
    dsimp only
    rw [View.wordA_eq, if_pos h, status, asWas]

/-- The low half of the operand of `ckp.budget` is in range (R280). -/
def View.budgetLow (v : View) (sh : Shape) : Prop := fieldNat (v.opA sh 0) 0 24 ≤ 26000 ∧ fieldNat (v.opA sh 0) 24 8 = 0

theorem budgetLow_iff (v : View) (sh : Shape) :
    ¬ v.budgetLow sh ↔ (fieldNat (v.opA sh 0) 24 8 ≠ 0 ∨ 26000 < fieldNat (v.opA sh 0) 0 24) := by
  rw [View.budgetLow, not_and_or, Nat.not_le, or_comm]

theorem budget_set : AnswersWhen (.ckpBudget a b) b (fun _ v sh => v.budgetLow sh ∧ fieldNat (v.opA sh 0) 44 20 = 0)
    (fun u v sh => u.setDie (dieOf v.cur.gang.core) (DieSt.heated { u.die (dieOf v.cur.gang.core) with
      budget := if fieldNat (v.opA sh 0) 0 24 = 0 then Config.budgetDefault else fieldNat (v.opA sh 0) 0 24
      tlim := if fieldNat (v.opA sh 0) 32 12 = 0 then Config.tlimDefault else fieldNat (v.opA sh 0) 32 12 })) (status 0) :=
  answersWhen_of (exec_ckpBudget a b) fun u v sh ⟨hlow, hhigh⟩ => by
    dsimp only
    rw [if_neg (mt (budgetLow_iff v sh).2 (not_not.2 hlow)), if_neg (not_not.2 hhigh), status]

theorem budget_low : AnswersWhen (.ckpBudget a b) b (fun _ v sh => ¬ v.budgetLow sh) asWas (status 2) :=
  answersWhen_of (exec_ckpBudget a b) fun u v sh h => by
    dsimp only
    rw [if_pos ((budgetLow_iff v sh).1 h), status, asWas]

theorem budget_high : AnswersWhen (.ckpBudget a b) b (fun _ v sh => v.budgetLow sh ∧ fieldNat (v.opA sh 0) 44 20 ≠ 0) asWas
    fun _ _ _ => [statusWord 2 4] :=
  answersWhen_of (exec_ckpBudget a b) fun u v sh ⟨hlow, hhigh⟩ => by
    dsimp only
    rw [if_neg (mt (budgetLow_iff v sh).2 (not_not.2 hlow)), if_pos hhigh, asWas]

end

/-- Settles O40. -/
theorem recoveryFormsComplete : Obligations.RecoveryFormsComplete := by
  intro a b ses die word never reads
  refine ⟨?preg, ?greg, fun u t v va w h hw => State.preg_registers h hw, fun u t v va w h hw => State.greg_registers h hw,
    answersWhen_of (exec_ckpUnreg a b) fun _ _ _ _ => rfl,
    fun s n h k p h24 h20 h0 hp hphase hfree => unreg_pipeline h24 h20 h0 hp hphase hfree,
    answersWhen_of (exec_ckpGlaunch a b) fun _ _ _ _ => rfl, answersWhen_of (exec_ckpGstat a b) fun _ _ _ _ => rfl,
    ⟨?refused, take_starts a b, take_waits a b, roll_starts a b, roll_lost a b⟩,
    ⟨drain_reserved a b, drain_none a b, fun c => ⟨drain_refused a b c, drain_busy a b c, drain_starts a b c⟩⟩,
    ⟨restore_none a b, fun x => ⟨restore_refused a b x, restore_done a b x, restore_waits a b x⟩⟩,
    fun ep => epnew_made b ep, epnew_full b, fun p => deadline_set a b p, deadline_reserved a b,
    budget_set a b, budget_low a b, budget_high a b⟩
  case preg =>
    obtain ⟨hok, hbad, hwait⟩ := descriptorForm_of (exec_ckpPreg a b)
    exact ⟨hok, hbad, hwait, fun u v va h => State.preg_misplaced u v h⟩
  case greg =>
    obtain ⟨hok, hbad, hwait⟩ := descriptorForm_of (exec_ckpGreg a b)
    exact ⟨hok, hbad, hwait, fun u v va h => State.greg_misplaced u v h⟩
  case refused =>
    intro i hi
    simp only [List.mem_cons, List.not_mem_nil, or_false] at hi
    obtain rfl | rfl := hi
    · exact ⟨take_refused a b, take_free a b⟩
    · exact ⟨roll_refused a b, roll_free a b⟩

end Sys2Proof.Machine

/-! PROOFS. O41: the `modg` forms (R340, R348 to R359). -/

namespace Sys2Proof.Machine

/-! `modg.share`. -/

/-- The answer of a `modg.share`: a status with its value, and the frame that the page had. -/
def State.shareTold (u : State) (v : View) (b : Reg) (st val old : Nat) : State :=
  u.formDoneAt v .sched ((b, statusWord st val) :: List.zip [b + 2, b + 3] (wordsOf (BitVec.ofNat 64 (old * 4096)) 2))

theorem State.shareTold_eq (u : State) (v : View) (b : Reg) (st val old : Nat) :
    u.shareTold v b st val old = u.formDoneAt v .sched [(b, statusWord st val),
      (b + 2, BitVec.ofNat 32 (old * 4096)), (b + 3, BitVec.setWidth 32 (BitVec.ofNat 64 (old * 4096) >>> 32))] := by
  have hlow : (BitVec.ofNat 64 (old * 4096)).extractLsb' 0 32 = BitVec.ofNat 32 (old * 4096) := by
    apply BitVec.eq_of_toNat_eq
    simp
  have hhigh : (BitVec.ofNat 64 (old * 4096)).extractLsb' 32 32 = BitVec.setWidth 32 (BitVec.ofNat 64 (old * 4096) >>> 32) := by
    apply BitVec.eq_of_toNat_eq
    simp
  rw [State.shareTold, ← hlow, ← hhigh]
  rfl

/-- What a share named by `f` walks to, and the frame of its leaf. -/
def FormHold.pageWalk (f : FormHold) (u : State) : WalkEnd := u.walkMem (fieldNat f.sel 0 12) (f.a.toNat % 2 ^ 57)
def FormHold.pageFrame (f : FormHold) (u : State) : Nat := pteFrame (f.pageWalk u).entry / 4096

/-- The end of a share whose page has a shareable leaf at `p` in a frame that is not blocked (R349). -/
def shareEnd (b : Reg) (v : View) (f : FormHold) (u : State) (p : Nat) : State :=
  match u.sharePage (fieldNat f.sel 0 12) (f.a.toNat % 2 ^ 57 / 4096) p (f.pageWalk u).caddr (f.pageWalk u).entry (f.sel.getLsbD 24)
      (fieldNat f.sel 16 7) with
  | .fail st => u.shareTold v b st 0 0
  | .done st val _ t =>
    if st = 11 then t.shareTold v b 11 val 0
    else ((t.dropCopies (fun c => decide (c.line / 32 = f.pageFrame u) && c.bytes.isNone)).retargetPage (fieldNat f.sel 0 12)
      (f.a.toNat % 2 ^ 57 / 4096)).shareTold v b st val (f.pageFrame u)

/-- The check of `modg.share` of its own, and its turn (R349). -/
def shareTrap (v : View) (sh : Shape) : Option (BitVec 8) :=
  if decide (fieldNat (v.sel sh) 12 4 ≠ 0) || (v.sel sh).getLsbD 23 || decide (fieldNat (v.sel sh) 25 7 ≠ 0) then some 0x02 else none
def shareTurn (b : Reg) (v : View) (f : FormHold) (_ : Bool) (u : State) : State :=
  if !u.pooled v then (u.wantPool v).holdForm f .sched
  else if !v.mayName (fieldNat f.sel 0 12) ∨ (f.sel.getLsbD 24 ∧ v.core.level v.gang < 2) then u.shareTold v b 5 0 0
  else if u.sesState (fieldNat f.sel 0 12) = 0 then u.shareTold v b 4 0 0
  else
    match (f.pageWalk u).addr with
    | none => u.shareTold v b 12 0 0
    | some p =>
      if (f.pageWalk u).stop = .blocked then u.holdForm f .sched
      else if !(f.pageWalk u).valid ∨ !(f.pageWalk u).good ∨ (f.pageWalk u).level ≠ 0 ∨
          !u.shareable (fieldNat f.sel 0 12) (f.pageWalk u).entry then u.shareTold v b 12 0 0
      else if u.blocked.any (fun k => decide (k.frame = f.pageFrame u)) then u.shareTold v b 6 0 0
      else shareEnd b v f u p

theorem exec_modgShare_form (a b : Reg) (s : State) : exec (.modgShare a b) s =
    issueForm (.modgShare a b) s shareTrap (fun v => v.destAt [b, b + 2, b + 3]) (shareTurn b) := by
  rw [exec_modgShare, execModgShare]
  rfl

/-- Reserved bits of the operand of `modg.share` (R349). -/
def View.shareBad (v : View) (sh : Shape) : Prop :=
  fieldNat (v.sel sh) 12 4 ≠ 0 ∨ (v.sel sh).getLsbD 23 = true ∨ fieldNat (v.sel sh) 25 7 ≠ 0

theorem shareBad_iff (v : View) (sh : Shape) : (decide (fieldNat (v.sel sh) 12 4 ≠ 0) || (v.sel sh).getLsbD 23 ||
    decide (fieldNat (v.sel sh) 25 7 ≠ 0)) = true ↔ v.shareBad sh := by
  simp [View.shareBad, or_assoc]

theorem shareTrap_eq_none {v : View} {sh : Shape} (h : ¬ v.shareBad sh) : shareTrap v sh = none :=
  if_neg (mt (shareBad_iff v sh).1 h)

theorem shareTrap_field {v : View} {sh : Shape} (h : v.shareBad sh) : shareTrap v sh = some 0x02 := if_pos ((shareBad_iff v sh).2 h)

/-- The issuer may share the page that it names (R348, R349). -/
def View.mayShare (v : View) (f : FormHold) : Prop :=
  v.names (fieldNat f.sel 0 12) ∧ (f.sel.getLsbD 24 = true → 2 ≤ v.core.level v.gang)

theorem mayShare_iff (v : View) (f : FormHold) : ¬ v.mayShare f ↔
    ((!v.mayName (fieldNat f.sel 0 12)) = true ∨ (f.sel.getLsbD 24 = true ∧ v.core.level v.gang < 2)) := by
  rw [View.mayShare, not_and_or, Classical.not_imp, Nat.not_le, Bool.not_eq_true', ← v.mayName_iff, Bool.not_eq_true]

/-- The form has its engine and names a page of a session in use. -/
def FormHold.shareAsked (f : FormHold) (u : State) (v : View) : Prop :=
  u.pooled v = true ∧ v.mayShare f ∧ u.sesState (fieldNat f.sel 0 12) ≠ 0

/-- The page has a leaf that can be shared. -/
def FormHold.shareLeaf (f : FormHold) (u : State) : Prop :=
  (f.pageWalk u).addr ≠ none ∧ (f.pageWalk u).stop ≠ .blocked ∧ (f.pageWalk u).valid = true ∧ (f.pageWalk u).good = true ∧
    (f.pageWalk u).level = 0 ∧ u.shareable (fieldNat f.sel 0 12) (f.pageWalk u).entry = true

section
variable {b : Reg} {v : View} {f : FormHold} {again : Bool} {u : State}

theorem shareTurn_engine (h : u.pooled v = false) : shareTurn b v f again u = (u.wantPool v).holdForm f .sched := by
  rw [shareTurn, h, Bool.not_false, if_pos rfl]

theorem shareTurn_denied (hpool : u.pooled v = true) (h : ¬ v.mayShare f) : shareTurn b v f again u = u.shareTold v b 5 0 0 := by
  rw [shareTurn, hpool, Bool.not_true, if_neg Bool.false_ne_true, if_pos ((mayShare_iff v f).1 h)]

theorem shareTurn_free (hpool : u.pooled v = true) (hmay : v.mayShare f) (h : u.sesState (fieldNat f.sel 0 12) = 0) :
    shareTurn b v f again u = u.shareTold v b 4 0 0 := by
  rw [shareTurn, hpool, Bool.not_true, if_neg Bool.false_ne_true, if_neg (mt (mayShare_iff v f).2 (not_not.2 hmay)), if_pos h]

/-- A share whose page is asked for, by the place of its entry. -/
theorem shareTurn_asked (h : f.shareAsked u v) : shareTurn b v f again u =
    match (f.pageWalk u).addr with
    | none => u.shareTold v b 12 0 0
    | some p =>
      if (f.pageWalk u).stop = .blocked then u.holdForm f .sched
      else if !(f.pageWalk u).valid ∨ !(f.pageWalk u).good ∨ (f.pageWalk u).level ≠ 0 ∨
          !u.shareable (fieldNat f.sel 0 12) (f.pageWalk u).entry then u.shareTold v b 12 0 0
      else if u.blocked.any (fun k => decide (k.frame = f.pageFrame u)) then u.shareTold v b 6 0 0
      else shareEnd b v f u p := by
  obtain ⟨hpool, hmay, hused⟩ := h
  rw [shareTurn, hpool, Bool.not_true, if_neg Bool.false_ne_true, if_neg (mt (mayShare_iff v f).2 (not_not.2 hmay)), if_neg hused]

theorem shareTurn_blocked (h : f.shareAsked u v) (haddr : (f.pageWalk u).addr ≠ none) (hstop : (f.pageWalk u).stop = .blocked) :
    shareTurn b v f again u = u.holdForm f .sched := by
  obtain ⟨p, hp⟩ := Option.ne_none_iff_exists'.1 haddr
  rw [shareTurn_asked h, hp]
  dsimp only
  rw [if_pos hstop]

theorem shareTurn_badPage (h : f.shareAsked u v) (hheld : ¬ ((f.pageWalk u).addr ≠ none ∧ (f.pageWalk u).stop = .blocked))
    (hleaf : ¬ f.shareLeaf u) : shareTurn b v f again u = u.shareTold v b 12 0 0 := by
  rw [shareTurn_asked h]
  cases hp : (f.pageWalk u).addr with
  | none => rfl
  | some p =>
    have haddr : (f.pageWalk u).addr ≠ none := by rw [hp]; exact Option.some_ne_none p
    have hstop : (f.pageWalk u).stop ≠ .blocked := fun hs => hheld ⟨haddr, hs⟩
    dsimp only
    rw [if_neg hstop, if_pos]
    by_contra hgood
    simp only [Bool.not_eq_true', not_or, Bool.not_eq_false, ne_eq, not_not] at hgood
    exact hleaf ⟨haddr, hstop, hgood⟩

/-- A share whose page has a shareable leaf. -/
theorem shareTurn_leaf (h : f.shareAsked u v) (hleaf : f.shareLeaf u) : shareTurn b v f again u =
    if u.blocked.any (fun k => decide (k.frame = f.pageFrame u)) then u.shareTold v b 6 0 0
    else shareEnd b v f u ((f.pageWalk u).addr.getD 0) := by
  obtain ⟨haddr, hstop, hvalid, hgood, hlevel, hshare⟩ := hleaf
  obtain ⟨p, hp⟩ := Option.ne_none_iff_exists'.1 haddr
  rw [shareTurn_asked h, hp]
  dsimp only
  rw [if_neg hstop, if_neg (by simp [hvalid, hgood, hlevel, hshare]), Option.getD_some]

end

theorem modgShareCompletes (a b : Reg) : ModgShareCompletes a b := by
  unfold ModgShareCompletes
  intro bad dst n va walk frame mayShare asked leaf told i
  have htold : ∀ u v st val old, State.shareTold u v b st val old = told st val old u v := fun u v st val old =>
    State.shareTold_eq u v b st val old
  have e := exec_modgShare_form a b
  have hbad : ∀ v sh, ¬ bad v sh → shareTrap v sh = none := fun _ _ h => shareTrap_eq_none h
  refine ⟨formTraps_of e fun _ _ h => shareTrap_field h,
    turnActs_of e hbad fun u v f _ h => shareTurn_engine h,
    turnActs_of e hbad fun u v f _ h => (shareTurn_denied h.1 h.2).trans (htold ..),
    turnActs_of e hbad fun u v f _ h => (shareTurn_free h.1 h.2.1 h.2.2).trans (htold ..),
    turnActs_of e hbad fun u v f _ h => shareTurn_blocked h.1 h.2.1 h.2.2,
    turnActs_of e hbad fun u v f _ h => (shareTurn_badPage h.1 h.2.1 h.2.2).trans (htold ..),
    turnActs_of e hbad fun u v f _ h => ?busy, turnActs_of e hbad fun u v f _ h => ?shares⟩
  case busy =>
    obtain ⟨hasked, hleaf, k, hk, hframe⟩ := h
    rw [shareTurn_leaf hasked hleaf, if_pos (List.any_eq_true.2 ⟨k, hk, decide_eq_true hframe⟩), htold]
  case shares =>
    obtain ⟨hasked, hleaf, hfree⟩ := h
    rw [shareTurn_leaf hasked hleaf, if_neg (mt (blocked_any_iff u (f.pageFrame u)).1 (not_not.2 hfree)), shareEnd]
    simp only [htold]
    rfl

/-! `modg.unshare`. -/

/-- The check of `modg.unshare` of its own, and its turn (R350). -/
def unshareTrap (v : View) (sh : Shape) : Option (BitVec 8) := if fieldNat (v.sel sh) 12 20 ≠ 0 then some 0x02 else none
def unshareTurn (b : Reg) (v : View) (f : FormHold) (_ : Bool) (u : State) : State :=
  if !u.pooled v then (u.wantPool v).holdForm f .sched
  else if !v.mayName (fieldNat f.sel 0 12) then u.formDone v b .sched [statusWord 5 0]
  else if u.sesState (fieldNat f.sel 0 12) = 0 then u.formDone v b .sched [statusWord 4 0]
  else
    match (f.pageWalk u).addr with
    | none => u.formDone v b .sched [statusWord 12 0]
    | some p =>
      if (f.pageWalk u).stop = .blocked then u.holdForm f .sched
      else if !(f.pageWalk u).valid ∨ !(f.pageWalk u).good ∨ (f.pageWalk u).level ≠ 0 ∨ !pteShr (f.pageWalk u).entry then
        u.formDone v b .sched [statusWord 12 0]
      else if u.overlayBlocked (f.pageWalk u).companion then u.holdForm f .sched
      else
        match u.takeFrame (fieldNat f.sel 0 12) with
        | none => u.formDone v b .sched [statusWord 1 0]
        | some (nw, t) => (t.unsharePage (fieldNat f.sel 0 12) (f.a.toNat % 2 ^ 57 / 4096) p (f.pageWalk u).caddr
            (f.pageWalk u).entry (f.pageWalk u).companion nw).formDone v b .sched [statusWord 0 0]

theorem exec_modgUnshare_form (a b : Reg) (s : State) : exec (.modgUnshare a b) s =
    issueForm (.modgUnshare a b) s unshareTrap (fun v => v.dest b 1) (unshareTurn b) := by
  rw [exec_modgUnshare, execModgUnshare]
  rfl

/-- The form has its engine and names a page of a session in use. -/
def FormHold.unshareAsked (f : FormHold) (u : State) (v : View) : Prop :=
  u.pooled v = true ∧ v.names (fieldNat f.sel 0 12) ∧ u.sesState (fieldNat f.sel 0 12) ≠ 0

/-- The page has a shared leaf. -/
def FormHold.sharedLeaf (f : FormHold) (u : State) : Prop :=
  (f.pageWalk u).addr ≠ none ∧ (f.pageWalk u).stop ≠ .blocked ∧ (f.pageWalk u).valid = true ∧ (f.pageWalk u).good = true ∧
    (f.pageWalk u).level = 0 ∧ pteShr (f.pageWalk u).entry = true

section
variable {b : Reg} {v : View} {f : FormHold} {again : Bool} {u : State}

theorem not_mayName_iff (v : View) (n : Nat) : (!v.mayName n) = true ↔ ¬ v.names n := by
  rw [Bool.not_eq_true', ← v.mayName_iff, Bool.not_eq_true]

theorem unshareTurn_engine (h : u.pooled v = false) : unshareTurn b v f again u = (u.wantPool v).holdForm f .sched := by
  rw [unshareTurn, h, Bool.not_false, if_pos rfl]

theorem unshareTurn_denied (hpool : u.pooled v = true) (h : ¬ v.names (fieldNat f.sel 0 12)) :
    unshareTurn b v f again u = u.formDone v b .sched [statusWord 5 0] := by
  rw [unshareTurn, hpool, Bool.not_true, if_neg Bool.false_ne_true, if_pos ((not_mayName_iff v _).2 h)]

theorem unshareTurn_free (hpool : u.pooled v = true) (hnames : v.names (fieldNat f.sel 0 12)) (h : u.sesState (fieldNat f.sel 0 12) = 0) :
    unshareTurn b v f again u = u.formDone v b .sched [statusWord 4 0] := by
  rw [unshareTurn, hpool, Bool.not_true, if_neg Bool.false_ne_true, if_neg (mt (not_mayName_iff v _).1 (not_not.2 hnames)), if_pos h]

theorem unshareTurn_blocked (h : f.unshareAsked u v) (haddr : (f.pageWalk u).addr ≠ none) (hstop : (f.pageWalk u).stop = .blocked) :
    unshareTurn b v f again u = u.holdForm f .sched := by
  obtain ⟨hpool, hnames, hused⟩ := h
  obtain ⟨p, hp⟩ := Option.ne_none_iff_exists'.1 haddr
  rw [unshareTurn, hpool, Bool.not_true, if_neg Bool.false_ne_true, if_neg (mt (not_mayName_iff v _).1 (not_not.2 hnames)),
    if_neg hused, hp]
  dsimp only
  rw [if_pos hstop]

theorem unshareTurn_badPage (h : f.unshareAsked u v) (hheld : ¬ ((f.pageWalk u).addr ≠ none ∧ (f.pageWalk u).stop = .blocked))
    (hleaf : ¬ f.sharedLeaf u) : unshareTurn b v f again u = u.formDone v b .sched [statusWord 12 0] := by
  obtain ⟨hpool, hnames, hused⟩ := h
  rw [unshareTurn, hpool, Bool.not_true, if_neg Bool.false_ne_true, if_neg (mt (not_mayName_iff v _).1 (not_not.2 hnames)),
    if_neg hused]
  cases hp : (f.pageWalk u).addr with
  | none => rfl
  | some p =>
    have haddr : (f.pageWalk u).addr ≠ none := by rw [hp]; exact Option.some_ne_none p
    have hstop : (f.pageWalk u).stop ≠ .blocked := fun hs => hheld ⟨haddr, hs⟩
    dsimp only
    rw [if_neg hstop, if_pos]
    by_contra hgood
    simp only [Bool.not_eq_true', not_or, Bool.not_eq_false, ne_eq, not_not] at hgood
    exact hleaf ⟨haddr, hstop, hgood⟩

/-- The end of an `unshare` whose page has a shared leaf. -/
def unshareEnd (b : Reg) (v : View) (f : FormHold) (u : State) : State :=
  match u.takeFrame (fieldNat f.sel 0 12) with
  | none => u.formDone v b .sched [statusWord 1 0]
  | some (nw, t) => (t.unsharePage (fieldNat f.sel 0 12) (f.a.toNat % 2 ^ 57 / 4096) ((f.pageWalk u).addr.getD 0) (f.pageWalk u).caddr
      (f.pageWalk u).entry (f.pageWalk u).companion nw).formDone v b .sched [statusWord 0 0]

theorem unshareTurn_leaf (h : f.unshareAsked u v) (hleaf : f.sharedLeaf u) : unshareTurn b v f again u =
    if u.overlayBlocked (f.pageWalk u).companion then u.holdForm f .sched else unshareEnd b v f u := by
  obtain ⟨hpool, hnames, hused⟩ := h
  obtain ⟨haddr, hstop, hvalid, hgood, hlevel, hshare⟩ := hleaf
  obtain ⟨p, hp⟩ := Option.ne_none_iff_exists'.1 haddr
  rw [unshareTurn, hpool, Bool.not_true, if_neg Bool.false_ne_true, if_neg (mt (not_mayName_iff v _).1 (not_not.2 hnames)),
    if_neg hused, unshareEnd, hp]
  dsimp only
  rw [if_neg hstop, if_neg (by simp [hvalid, hgood, hlevel, hshare]), Option.getD_some]

theorem unshareTurn_overlay (h : f.unshareAsked u v) (hleaf : f.sharedLeaf u) (hblock : u.overlayBlocked (f.pageWalk u).companion = true) :
    unshareTurn b v f again u = u.holdForm f .sched := by
  rw [unshareTurn_leaf h hleaf, if_pos hblock]

theorem unshareTurn_noRoom (h : f.unshareAsked u v) (hleaf : f.sharedLeaf u) (hblock : u.overlayBlocked (f.pageWalk u).companion = false)
    (htake : u.takeFrame (fieldNat f.sel 0 12) = none) : unshareTurn b v f again u = u.formDone v b .sched [statusWord 1 0] := by
  rw [unshareTurn_leaf h hleaf, if_neg (Bool.eq_false_iff.1 hblock), unshareEnd, htake]

theorem unshareTurn_done {nw : Nat} {t : State} (h : f.unshareAsked u v) (hleaf : f.sharedLeaf u)
    (hblock : u.overlayBlocked (f.pageWalk u).companion = false) (htake : u.takeFrame (fieldNat f.sel 0 12) = some (nw, t)) :
    unshareTurn b v f again u = (t.unsharePage (fieldNat f.sel 0 12) (f.a.toNat % 2 ^ 57 / 4096) ((f.pageWalk u).addr.getD 0)
      (f.pageWalk u).caddr (f.pageWalk u).entry (f.pageWalk u).companion nw).formDone v b .sched [statusWord 0 0] := by
  rw [unshareTurn_leaf h hleaf, if_neg (Bool.eq_false_iff.1 hblock), unshareEnd, htake]

end

theorem unsharePage_noOverlay (s : State) (m page p q : Nat) (e c : DWord) (nw : Nat) (h : fieldNat c 16 40 = 0) :
    s.unsharePage m page p q e c nw = (((((((s.putFrame nw (s.overlaid e c)).wr p 8
      (setField (setField (setField e 12 40 nw) 8 1 0) 2 1 1).toNat).wr q 8 0).unmapShared (pteFrame e / 4096) m page).strike m
      (fun l => decide (l / 32 = page))).dropPage m page).retargetPage m page) := by
  rw [State.unsharePage, h, if_pos rfl]

theorem modgUnshareCompletes (a b : Reg) : ModgUnshareCompletes a b := by
  unfold ModgUnshareCompletes
  intro bad dst n va walk asked held leaf i
  have e := exec_modgUnshare_form a b
  have hbad : ∀ v sh, ¬ bad v sh → unshareTrap v sh = none := fun _ _ h => if_neg h
  exact ⟨formTraps_of e fun _ _ h => if_pos h,
    turnActs_of e hbad fun u v f _ h => unshareTurn_engine h,
    turnAnswers_of e hbad fun u v f _ h => unshareTurn_denied h.1 h.2,
    turnAnswers_of e hbad fun u v f _ h => unshareTurn_free h.1 h.2.1 h.2.2,
    turnActs_of e hbad fun u v f _ h => unshareTurn_blocked h.1 h.2.1 h.2.2,
    turnAnswers_of e hbad fun u v f _ h => unshareTurn_badPage h.1 h.2.1 h.2.2,
    turnActs_of e hbad fun u v f _ h => unshareTurn_overlay h.1 h.2.1 h.2.2,
    turnAnswers_of e hbad fun u v f _ h => unshareTurn_noRoom h.1 h.2.1 h.2.2.1 h.2.2.2,
    fun nw t => turnAnswers_of e hbad fun u v f _ h => unshareTurn_done h.1 h.2.1 h.2.2.1 h.2.2.2,
    unsharePage_noOverlay⟩

/-! `modg.heal`. -/

section
variable (a b : Reg) {e : AtollEntry}

/-- A poisoned shared frame that a heal names (R359). -/
def FormHold.healFrame (f : FormHold) (u : State) (v : View) (e : AtollEntry) : Prop :=
  u.pooled v = true ∧ f.a.toNat % 4096 = 0 ∧ u.atollOf (f.a.toNat / 4096) = some e ∧ e.poison = true

/-- What a heal reads (R359). -/
def FormHold.healRead (f : FormHold) (u : State) (v : View) : Span × State :=
  u.span { askOf v.core v.cur.gang.core v.gang 0 44 with engine := true } (f.b.toNat % 2 ^ 57) 4096

theorem healFrame_filter {f : FormHold} {u : State} {v : View} (h : f.healFrame u v e) :
    (u.atollOf (f.a.toNat / 4096)).filter (fun e => e.poison && decide (f.a.toNat % 4096 = 0)) = some e := by
  obtain ⟨-, halign, hatoll, hpoison⟩ := h
  rw [hatoll, Option.filter_some, hpoison, halign]
  rfl

theorem healFrame_filter_none {f : FormHold} {u : State} {v : View} (hpool : u.pooled v = true) (h : ¬ ∃ e, f.healFrame u v e) :
    (u.atollOf (f.a.toNat / 4096)).filter (fun e => e.poison && decide (f.a.toNat % 4096 = 0)) = none := by
  rw [Option.filter_eq_none_iff]
  intro e he hgood
  rw [Bool.and_eq_true, decide_eq_true_iff] at hgood
  exact h ⟨e, hpool, hgood.2, he, hgood.1⟩

/-- The frame healed under the group's title key, its poison gone (R359). -/
def State.healed (t : State) (pa : Nat) (e : AtollEntry) (ps : List (Place × Nat)) : State :=
  let t1 := t.putFrame (pa / 4096) (t.readSpan ps)
  let t2 := match t1.titleSlot (homeDie pa) e.group with
    | some (k, _) => t1.retag (pa / 4096) (k + 1)
    | none => t1
  let d := t2.die (homeDie pa)
  t2.setDie (homeDie pa)
    { d with atoll := d.atoll.map (fun x => if x.frame = pa / 4096 then { x with poison := false } else x) }

/-- A heal parks at an absent translation (R359). -/
def FormHold.healPark (f : FormHold) (v : View) (c : BitVec 8) (host : Bool) (o : Nat) (t : State) : State :=
  let j := t.joinFid (dieOf v.cur.gang.core) (v.core.sessionOf v.gang) (f.b.toNat % 2 ^ 57 + o) 0 c host
    { eng := false, unit := false, core := some v.cur.gang.core, slot := v.cur.gang.slot, detail := v.act, pc := v.cur.addr }
  (j.2.expect f.dst).park { cur := v.cur, rerun := true, saved := false, lanes := [⟨j.1, none⟩], form := some f } v.act
    (BitVec.ofNat 57 (f.b.toNat % 2 ^ 57 + o))

/-- The end of a heal, as its read comes out. -/
def healEnd (b : Reg) (v : View) (f : FormHold) (e : AtollEntry) : Span × State → State
  | (.ok ps, t) =>
    if contentKey (t.readSpan ps) ≠ e.key then t.formDone v b .sched [statusWord 13 0]
    else (t.healed f.a.toNat e ps).formDone v b .sched [statusWord 0 0]
  | (.fatal c o, t) => t.fatalFault c v.act (BitVec.ofNat 57 (f.b.toNat % 2 ^ 57 + o))
  | (.absent c host o, t) => f.healPark v c host o t
  | (.wait, t) => t.holdForm f .sched

/-- The turn of a heal (R359). -/
def healTurn (b : Reg) (v : View) (f : FormHold) (_ : Bool) (u : State) : State :=
  if !u.pooled v then (u.wantPool v).holdForm f .sched
  else
    match (u.atollOf (f.a.toNat / 4096)).filter (fun e => e.poison && decide (f.a.toNat % 4096 = 0)) with
    | none => u.formDone v b .sched [statusWord 12 0]
    | some e => healEnd b v f e (f.healRead u v)

theorem exec_modgHeal_form (s : State) : exec (.modgHeal a b) s =
    issueForm (.modgHeal a b) s (fun _ _ => none) (fun v => v.dest b 1) (healTurn b) := by
  rw [exec_modgHeal, execModgHeal]
  congr 1

variable {b} {v : View} {f : FormHold} {again : Bool} {u t : State}

theorem healTurn_engine (h : u.pooled v = false) : healTurn b v f again u = (u.wantPool v).holdForm f .sched := by
  rw [healTurn, h, Bool.not_false, if_pos rfl]

theorem healTurn_badPage (hpool : u.pooled v = true) (h : ¬ ∃ e, f.healFrame u v e) :
    healTurn b v f again u = u.formDone v b .sched [statusWord 12 0] := by
  rw [healTurn, hpool, Bool.not_true, if_neg Bool.false_ne_true, healFrame_filter_none hpool h]

theorem healTurn_reads (h : f.healFrame u v e) : healTurn b v f again u = healEnd b v f e (f.healRead u v) := by
  rw [healTurn, h.1, Bool.not_true, if_neg Bool.false_ne_true, healFrame_filter h]

theorem healTurn_badData {ps : List (Place × Nat)} (h : f.healFrame u v e) (hread : f.healRead u v = (.ok ps, t))
    (hkey : contentKey (t.readSpan ps) ≠ e.key) : healTurn b v f again u = t.formDone v b .sched [statusWord 13 0] := by
  rw [healTurn_reads h, hread, healEnd, if_pos hkey]

theorem healTurn_heals {ps : List (Place × Nat)} (h : f.healFrame u v e) (hread : f.healRead u v = (.ok ps, t))
    (hkey : contentKey (t.readSpan ps) = e.key) :
    healTurn b v f again u = (t.healed f.a.toNat e ps).formDone v b .sched [statusWord 0 0] := by
  rw [healTurn_reads h, hread, healEnd, if_neg (not_not.2 hkey)]

theorem healTurn_faults {c : BitVec 8} {o : Nat} (h : f.healFrame u v e) (hread : f.healRead u v = (.fatal c o, t)) :
    healTurn b v f again u = t.fatalFault c v.act (BitVec.ofNat 57 (f.b.toNat % 2 ^ 57 + o)) := by
  rw [healTurn_reads h, hread, healEnd]

theorem healTurn_waits (h : f.healFrame u v e) (hread : f.healRead u v = (.wait, t)) :
    healTurn b v f again u = t.holdForm f .sched := by
  rw [healTurn_reads h, hread, healEnd]

theorem healTurn_parks {c : BitVec 8} {host : Bool} {o : Nat} (h : f.healFrame u v e) (hread : f.healRead u v = (.absent c host o, t)) :
    healTurn b v f again u = f.healPark v c host o t := by
  rw [healTurn_reads h, hread, healEnd]

end

theorem modgHealCompletes (a b : Reg) : ModgHealCompletes a b := by
  unfold ModgHealCompletes
  intro never pa va read frame i
  have e := exec_modgHeal_form a b
  have hbad := noTrap never
  exact ⟨turnActs_of e hbad fun u v f _ h => healTurn_engine h,
    turnAnswers_of e hbad fun u v f _ h => healTurn_badPage h.1 h.2, fun entry =>
    ⟨fun ps t => turnAnswers_of e hbad fun u v f _ h => healTurn_badData (e := entry) h.1 h.2.1 h.2.2,
      fun ps t => turnAnswers_of e hbad fun u v f _ h => healTurn_heals (e := entry) h.1 h.2.1 h.2.2,
      fun c o t => turnActs_of e hbad fun u v f _ h => healTurn_faults (e := entry) h.1 h.2,
      fun t => turnActs_of e hbad fun u v f _ h => healTurn_waits (e := entry) h.1 h.2,
      fun c host o t => turnActs_of e hbad fun u v f _ h => healTurn_parks (e := entry) h.1 h.2⟩⟩

/-! The forms that answer at their issue, and `modg.fork`. -/

section
variable {b : Reg} {i : Instr} {reserved : Word → Word → Bool} {k : View → Word → Word → State → Nat × Nat × State}

theorem modgOp_answers (e : ∀ s, exec i s = modgOp i b s reserved k) {P : View → Shape → Prop}
    (hP : ∀ v sh, reserved (v.word sh) (v.sel sh) = true ↔ P v sh) :
    AnswersWhen i b (fun _ v sh => ¬ P v sh) (fun u v sh => (k v (v.word sh) (v.sel sh) u).2.2)
      (fun u v sh => [statusWord (k v (v.word sh) (v.sel sh) u).1 (k v (v.word sh) (v.sel sh) u).2.1]) ∧
    ActsWhen i (fun _ _ v sh => P v sh) (trapWith 0x02 0) := by
  refine ⟨answersWhen_checked e fun s go v sh h => ?_, actsWhen_checked e fun s go v sh h => ?_⟩ <;> dsimp only
  · exact if_neg (mt (hP v sh).1 h)
  · exact if_pos ((hP v sh).2 h)

end

theorem fassign_answers (a b : Reg) :
    AnswersWhen (.modgFassign a b) b (fun _ v sh => ¬ fieldNat (v.sel sh) 12 19 ≠ 0)
      (fun u v sh => (u.assignFrame (v.opA sh 0).toNat (v.sel sh)).2.2)
      (fun u v sh => [statusWord (u.assignFrame (v.opA sh 0).toNat (v.sel sh)).1 (u.assignFrame (v.opA sh 0).toNat (v.sel sh)).2.1]) ∧
    ActsWhen (.modgFassign a b) (fun _ _ v sh => fieldNat (v.sel sh) 12 19 ≠ 0) (trapWith 0x02 0) := by
  refine ⟨answersWhen_checked (exec_modgFassign a b) fun s go v sh h => ?_,
    actsWhen_checked (exec_modgFassign a b) fun s go v sh h => ?_⟩ <;> dsimp only
  · exact if_neg h
  · exact if_pos h

/-- The check of `modg.fork` of its own, and its turn (R351). -/
def forkTrap (v : View) (sh : Shape) : Option (BitVec 8) :=
  if fieldNat (v.word sh) 12 4 ≠ 0 ∨ fieldNat (v.word sh) 28 4 ≠ 0 then some 0x02 else none
def forkTurn (b : Reg) (v : View) (f : FormHold) (_ : Bool) (u : State) : State :=
  if !u.pooled v then (u.wantPool v).holdForm f .sched
  else (u.fork (fieldNat f.word 0 12) (fieldNat f.word 16 12)).2.2.formDone v b .sched
    [statusWord (u.fork (fieldNat f.word 0 12) (fieldNat f.word 16 12)).1 (u.fork (fieldNat f.word 0 12) (fieldNat f.word 16 12)).2.1]

theorem exec_modgFork_form (a b : Reg) (s : State) : exec (.modgFork a b) s =
    issueForm (.modgFork a b) s forkTrap (fun v => v.dest b 1) (forkTurn b) := by
  rw [exec_modgFork, execModgFork]
  rfl

theorem forkTurn_engine {b : Reg} {v : View} {f : FormHold} {again : Bool} {u : State} (h : u.pooled v = false) :
    forkTurn b v f again u = (u.wantPool v).holdForm f .sched := by
  rw [forkTurn, h, Bool.not_false, if_pos rfl]

theorem forkTurn_done {b : Reg} {v : View} {f : FormHold} {again : Bool} {u : State} (h : u.pooled v = true) :
    forkTurn b v f again u = (u.fork (fieldNat f.word 0 12) (fieldNat f.word 16 12)).2.2.formDone v b .sched
      [statusWord (u.fork (fieldNat f.word 0 12) (fieldNat f.word 16 12)).1 (u.fork (fieldNat f.word 0 12) (fieldNat f.word 16 12)).2.1] := by
  rw [forkTurn, h, Bool.not_true, if_neg Bool.false_ne_true]

/-! A failing status comes with nothing changed. -/

/-- The answer of a form changes nothing unless its status is 0. -/
def FailsUnchanged (s : State) (r : Nat × Nat × State) : Prop := r.1 ≠ 0 → r.2.2 = s

section
variable (s : State) (k d : Nat) (w : Word)

theorem failsUnchanged_zero {n : Nat} {t : State} : FailsUnchanged s (0, n, t) := fun h => absurd rfl h

theorem failsUnchanged_same {m n : Nat} : FailsUnchanged s (m, n, s) := fun _ => rfl

theorem fork_failsUnchanged : FailsUnchanged s (s.fork k d) := by
  unfold State.fork
  dsimp only
  split_ifs
  · exact failsUnchanged_same s
  · exact failsUnchanged_same s
  · exact failsUnchanged_same s
  · exact failsUnchanged_same s
  · split
    · exact failsUnchanged_same s
    · exact failsUnchanged_zero s

theorem keyForm_failsUnchanged : FailsUnchanged s (s.keyForm w k d) := by
  unfold State.keyForm
  dsimp only
  split_ifs
  · exact failsUnchanged_zero s
  · exact failsUnchanged_same s
  · split
    · exact failsUnchanged_zero s
    · exact failsUnchanged_same s
  · split
    · exact failsUnchanged_same s
    · exact failsUnchanged_same s
  · exact failsUnchanged_same s
  · exact failsUnchanged_zero s
  · exact failsUnchanged_same s
  · split
    · exact failsUnchanged_zero s
    · exact failsUnchanged_same s

theorem assignFrame_failsUnchanged : FailsUnchanged s (s.assignFrame k w) := by
  unfold State.assignFrame
  dsimp only
  split_ifs
  · exact failsUnchanged_zero s
  · exact failsUnchanged_same s
  · exact failsUnchanged_same s
  · exact failsUnchanged_same s
  · split
    · exact failsUnchanged_same s
    · exact failsUnchanged_zero s
  · split
    · exact failsUnchanged_same s
    · exact failsUnchanged_same s

theorem migrate_failsUnchanged : FailsUnchanged s (s.migrate k d) := by
  unfold State.migrate
  dsimp only
  split_ifs
  · exact failsUnchanged_same s
  · exact failsUnchanged_same s
  · split
    · exact failsUnchanged_zero s
    · exact failsUnchanged_same s

theorem migrated_failsUnchanged : FailsUnchanged s (s.migrated k) := by
  unfold State.migrated
  dsimp only
  split_ifs
  · exact failsUnchanged_same s
  · exact failsUnchanged_same s
  · exact failsUnchanged_zero s

theorem openSession_failsUnchanged : FailsUnchanged s (s.openSession k) := by
  unfold State.openSession
  dsimp only
  split_ifs
  · exact failsUnchanged_same s
  · exact failsUnchanged_same s
  · exact failsUnchanged_same s
  · exact failsUnchanged_zero s

theorem closeSession_failsUnchanged : FailsUnchanged s (s.closeSession k) := by
  unfold State.closeSession
  dsimp only
  split_ifs
  · exact failsUnchanged_same s
  · exact failsUnchanged_same s
  · exact failsUnchanged_zero s

end

theorem migrate_of_free {s : State} {k : Nat} (h : s.sesState k = 0) (d : Nat) : s.migrate k d = (4, 0, s) := by
  rw [State.migrate, if_pos h]

theorem fork_of_free {s : State} {k : Nat} (h : s.sesState k = 0) (d : Nat) : s.fork k d = (4, 0, s) := by
  rw [State.fork, if_pos h]

theorem migrated_of_free {s : State} {k : Nat} (h : s.sesState k = 0) : s.migrated k = (4, 0, s) := by
  rw [State.migrated, if_pos h]

theorem closeSession_of_free {s : State} {k : Nat} (h : s.sesState k = 0) : s.closeSession k = (4, 0, s) := by
  rw [State.closeSession, if_pos h]

theorem openSession_of_used {s : State} {k : Nat} (h : s.sesState k ≠ 0) : s.openSession k = (6, 0, s) := by
  rw [State.openSession, if_pos h]

theorem migrated_of_still {s : State} {k : Nat} (h : s.sesState k ≠ 0) (hstill : s.sesMoving k = false) : s.migrated k = (6, 0, s) := by
  rw [State.migrated, if_neg h, hstill, Bool.not_false, if_pos rfl]

theorem keyForm_of_keyed {s : State} {w : Word} (d p : Nat) (h31 : w.getLsbD 31 = false) (h30 : w.getLsbD 30 = false)
    (hkey : s.sesKeyV (fieldNat w 0 12) = true) : s.keyForm w d p = (6, 0, s) := by
  rw [State.keyForm, h31, h30, hkey]
  rw [Bool.not_false, if_pos rfl, if_neg Bool.false_ne_true, if_pos rfl]

theorem assignFrame_of_free {s : State} {w : Word} (pa : Nat) (h31 : w.getLsbD 31 = false) (h : s.sesState (fieldNat w 0 12) = 0) :
    s.assignFrame pa w = (4, 0, s) := by
  rw [State.assignFrame, h31]
  dsimp only
  rw [if_neg Bool.false_ne_true, if_pos h]

theorem sessionFormsComplete (a b : Reg) : SessionFormsComplete a b := by
  unfold SessionFormsComplete
  intro answers high n gaps forked
  have hfork : ∀ v sh, ¬ gaps v sh → forkTrap v sh = none := fun _ _ h => if_neg h
  have eFork := exec_modgFork_form a b
  refine ⟨turnAnswers_of eFork hfork fun u v f _ h => forkTurn_done h, turnActs_of eFork hfork fun u v f _ h => forkTurn_engine h,
    formTraps_of eFork fun _ _ h => if_pos h, modgOp_answers (exec_modgKey a b) fun v sh => decide_eq_true_iff,
    fassign_answers a b, modgOp_answers (exec_modgMigr a b) fun v sh => decide_eq_true_iff,
    modgOp_answers (exec_modgMdone a b) fun v sh => decide_eq_true_iff,
    modgOp_answers (exec_modgSopen a b) fun v sh => decide_eq_true_iff,
    modgOp_answers (exec_modgSclose a b) fun v sh => decide_eq_true_iff, ?unchanged,
    fun s k h => ⟨migrated_of_free h, closeSession_of_free h, fun d => ⟨migrate_of_free h d, fork_of_free h d⟩⟩,
    fun s k h => ⟨openSession_of_used h, migrated_of_still h⟩,
    fun s w d p h31 h30 hkey => keyForm_of_keyed d p h31 h30 hkey, fun s pa w h31 h => assignFrame_of_free pa h31 h⟩
  intro s k d w x r hr
  simp only [List.mem_cons, List.not_mem_nil, or_false] at hr
  obtain rfl | rfl | rfl | rfl | rfl | rfl | rfl := hr
  · exact fork_failsUnchanged s k d
  · exact keyForm_failsUnchanged s d x w
  · exact assignFrame_failsUnchanged s x w
  · exact migrate_failsUnchanged s k d
  · exact migrated_failsUnchanged s k
  · exact openSession_failsUnchanged s k
  · exact closeSession_failsUnchanged s k

/-- Settles O41. -/
theorem sharingFormsComplete : Obligations.SharingFormsComplete := fun a b =>
  ⟨sessionFormsComplete a b, modgShareCompletes a b, modgUnshareCompletes a b, modgHealCompletes a b⟩

end Sys2Proof.Machine

/-! PROOFS. O43: traps, fatal ends and parked gangs (R97, R98, R210, R318 to R320, R326). -/

namespace Sys2Proof.Machine

/-! What settling barriers leaves: the reports of ended gangs, and no gang where there was none. -/

/-- Every gang resident in `t` stands at a slot that is occupied in `s`, and no report of an ended gang is lost or new. -/
structure State.NoNewGang (s t : State) : Prop where
  ends : t.ends = s.ends
  slots : ∀ core, ∀ k ∈ (t.core core).slots, k ∈ (s.core core).slots

theorem State.NoNewGang.refl (s : State) : s.NoNewGang s := ⟨rfl, fun _ _ h => h⟩

theorem State.NoNewGang.trans {s t u : State} (h : s.NoNewGang t) (k : t.NoNewGang u) : s.NoNewGang u :=
  ⟨k.ends.trans h.ends, fun c n hn => h.slots c n (k.slots c n hn)⟩

theorem keys_insert_subset {α : Type} (c : Cells α) (n : Nat) (x : α) : ∀ k ∈ (Cells.insert c n x).map (·.1), k = n ∨ k ∈ c.map (·.1) := by
  induction c with
  | nil => simp [Cells.insert]
  | cons e r ih =>
    intro k hk
    simp only [Cells.insert] at hk
    split at hk
    · simpa using hk
    · split at hk
      · rw [List.map_cons, List.mem_cons] at hk
        exact hk.imp_right fun h => List.mem_map.2 ((List.mem_map.1 h).imp fun _ h => ⟨List.mem_cons_of_mem _ h.1, h.2⟩)
      · rw [List.map_cons, List.mem_cons] at hk
        rw [List.map_cons, List.mem_cons]
        obtain hk | hk := hk
        · exact Or.inr (Or.inl hk)
        · exact (ih k hk).imp_right Or.inr

/-- A gang written at an occupied slot is no new gang. -/
theorem State.NoNewGang.setGang {s t : State} (h : s.NoNewGang t) {g : GangRef} (hg : g.slot ∈ (s.core g.core).slots) (x : Gang) :
    s.NoNewGang (t.setGang g x) := by
  refine ⟨h.ends, fun c k hk => ?_⟩
  by_cases hc : c = g.core
  · subst hc
    rw [State.setGang, State.core_setCore_same] at hk
    obtain rfl | hk := keys_insert_subset _ _ _ k hk
    · exact hg
    · exact h.slots _ k hk
  · rw [State.setGang, State.core_setCore_other _ _ _ _ hc] at hk
    exact h.slots _ k hk

theorem State.NoNewGang.arriveAll {core id : Nat} {s : State} (l : List (Nat × Gang)) {t : State} (b : TeamBar) (h : s.NoNewGang t)
    (hl : ∀ e ∈ l, e.1 ∈ (s.core core).slots) : s.NoNewGang (arriveAll core id l t b).1 := by
  induction l generalizing t b with
  | nil => exact h
  | cons e r ih =>
    exact ih _ (h.setGang (hl e (List.mem_cons_self ..)) _) fun e' he => hl e' (List.mem_cons_of_mem _ he)

theorem State.NoNewGang.releaseBar {core id gen : Nat} {s : State} (l : List (Nat × Gang)) {t : State} (h : s.NoNewGang t)
    (hl : ∀ e ∈ l, e.1 ∈ (s.core core).slots) : s.NoNewGang (releaseBar core id gen l t) := by
  induction l generalizing t with
  | nil => exact h
  | cons e r ih =>
    exact ih (h.setGang (hl e (List.mem_cons_self ..)) _) fun e' he => hl e' (List.mem_cons_of_mem _ he)

theorem State.NoNewGang.arriveCrew {id : Nat} {s : State} (l : List (GangRef × Gang)) {t : State} (b : CrewBar) (h : s.NoNewGang t)
    (hl : ∀ e ∈ l, e.1.slot ∈ (s.core e.1.core).slots) : s.NoNewGang (arriveCrew id l t b).1 := by
  induction l generalizing t b with
  | nil => exact h
  | cons e r ih =>
    exact ih _ (h.setGang (hl e (List.mem_cons_self ..)) _) fun e' he => hl e' (List.mem_cons_of_mem _ he)

theorem State.NoNewGang.releaseCbar {id gen : Nat} {s : State} (l : List (GangRef × Gang)) {t : State} (h : s.NoNewGang t)
    (hl : ∀ e ∈ l, e.1.slot ∈ (s.core e.1.core).slots) : s.NoNewGang (releaseCbar id gen l t) := by
  induction l generalizing t with
  | nil => exact h
  | cons e r ih =>
    exact ih (h.setGang (hl e (List.mem_cons_self ..)) _) fun e' he => hl e' (List.mem_cons_of_mem _ he)

theorem CoreSt.teamGangs_slots (c : CoreSt) (t : Nat) : ∀ e ∈ c.teamGangs t, e.1 ∈ c.slots := fun _ he =>
  List.mem_map_of_mem (List.mem_of_mem_filter he)

theorem State.crewGangs_slots (s : State) (c : Crew) : ∀ e ∈ s.crewGangs c, e.1.slot ∈ (s.core e.1.core).slots := by
  intro e he
  obtain ⟨r, -, he⟩ := List.mem_flatMap.1 he
  obtain ⟨y, hy, rfl⟩ := List.mem_map.1 he
  exact CoreSt.teamGangs_slots _ _ y hy

/-- Cores that keep their gangs, and reports that stay. -/
theorem State.NoNewGang.of_gangs {s t u : State} (h : s.NoNewGang t) (hends : u.ends = t.ends)
    (hgangs : ∀ c, (u.core c).gangs = (t.core c).gangs) : s.NoNewGang u :=
  ⟨hends.trans h.ends, fun c k hk => h.slots c k (by rwa [CoreSt.slots, ← hgangs])⟩

theorem State.updTeam_gangs (t : State) (core n : Nat) (f : Team → Team) (c : Nat) :
    ((t.updTeam core n f).core c).gangs = (t.core c).gangs := by
  unfold State.updTeam
  split
  · unfold State.setTeam
    by_cases hc : c = core
    · rw [hc, State.core_setCore_same]
      rfl
    · rw [State.core_setCore_other _ _ _ _ hc]
  · rfl

/-- A team barrier that settles. -/
theorem State.NoNewGang.settleBar {s t : State} (h : s.NoNewGang t) (core n id fuel : Nat) : s.NoNewGang (t.settleBar core n id fuel) := by
  induction fuel generalizing t with
  | zero => exact h
  | succ fuel ih =>
    unfold State.settleBar
    split
    · exact h
    · rename_i tm _
      dsimp only
      have harrive : t.NoNewGang (Machine.arriveAll core id ((t.core core).teamGangs n) t (tm.bar id)).1 :=
        State.NoNewGang.arriveAll _ _ (.refl t) (CoreSt.teamGangs_slots _ n)
      have hrelease : ∀ gen, t.NoNewGang (Machine.releaseBar core id gen
          (((Machine.arriveAll core id ((t.core core).teamGangs n) t (tm.bar id)).1.core core).teamGangs n)
          (Machine.arriveAll core id ((t.core core).teamGangs n) t (tm.bar id)).1) := fun gen =>
        State.NoNewGang.releaseBar _ harrive fun e he => harrive.slots _ _ (CoreSt.teamGangs_slots _ n e he)
      have hupd : ∀ u f, t.NoNewGang u → s.NoNewGang (u.updTeam core n f) := fun u f hu =>
        (h.trans hu).of_gangs (u.updTeam_ends core n f) (u.updTeam_gangs core n f)
      have hstep : ∀ (p : Bool) gen f, s.NoNewGang ((if p then Machine.releaseBar core id gen
          (((Machine.arriveAll core id ((t.core core).teamGangs n) t (tm.bar id)).1.core core).teamGangs n)
          (Machine.arriveAll core id ((t.core core).teamGangs n) t (tm.bar id)).1
          else (Machine.arriveAll core id ((t.core core).teamGangs n) t (tm.bar id)).1).updTeam core n f) := fun p gen f => by
        cases p
        · exact hupd _ f harrive
        · exact hupd _ f (hrelease gen)
      split
      · exact ih (hstep _ _ _)
      · exact hstep _ _ _

theorem State.NoNewGang.dropL1S {s t : State} (h : s.NoNewGang t) (l : List Nat) (p : Nat → Nat → Bool) :
    s.NoNewGang (l.foldl (fun u core => u.dropL1S core (p core)) t) := by
  induction l generalizing t with
  | nil => exact h
  | cons c r ih => exact ih (h.of_gangs rfl fun _ => rfl)

/-- A crew barrier that settles. -/
theorem State.NoNewGang.settleCbar {s t : State} (h : s.NoNewGang t) (crew id fuel : Nat) : s.NoNewGang (t.settleCbar crew id fuel) := by
  induction fuel generalizing t with
  | zero => exact h
  | succ fuel ih =>
    unfold State.settleCbar
    split
    · exact h
    · rename_i c _
      dsimp only
      have harrive : t.NoNewGang (Machine.arriveCrew id (t.crewGangs c) t (c.bar id)).1 :=
        State.NoNewGang.arriveCrew _ _ (.refl t) (t.crewGangs_slots c)
      generalize (Machine.arriveCrew id (t.crewGangs c) t (c.bar id)) = a at harrive ⊢
      have hslots : ∀ e ∈ a.1.crewGangs c, e.1.slot ∈ (t.core e.1.core).slots := fun e he =>
        harrive.slots _ _ (a.1.crewGangs_slots c e he)
      have hdrop : ∀ q : Bool, t.NoNewGang (if q then c.cores.foldl (fun u core => u.dropL1S core fun _ => true) a.1 else a.1) := fun q => by
        cases q
        · exact harrive
        · exact harrive.dropL1S c.cores fun _ _ => true
      have hstep : ∀ (p q : Bool) gen f, s.NoNewGang ((if p then Machine.releaseCbar id gen (a.1.crewGangs c)
          (if q then c.cores.foldl (fun u core => u.dropL1S core fun _ => true) a.1 else a.1)
          else if q then c.cores.foldl (fun u core => u.dropL1S core fun _ => true) a.1 else a.1).updCrew crew f) := fun p q gen f => by
        cases p
        · exact (h.trans (hdrop q)).of_gangs rfl fun _ => rfl
        · exact (h.trans (State.NoNewGang.releaseCbar _ (hdrop q) hslots)).of_gangs rfl fun _ => rfl
      split
      · exact ih (hstep _ _ _ _)
      · exact hstep _ _ _ _

theorem State.NoNewGang.settleBars {s t : State} (h : s.NoNewGang t) (core n : Nat) : s.NoNewGang (t.settleBars core n) := by
  have hteam : ∀ (l : List Nat) (u : State), s.NoNewGang u → s.NoNewGang (l.foldl (fun u id => u.settleBar core n id 20) u) := fun l => by
    induction l with
    | nil => exact fun _ h => h
    | cons id r ih => exact fun u hu => ih _ (hu.settleBar core n id 20)
  have hcrew : ∀ (k : Nat) (l : List Nat) (u : State), s.NoNewGang u → s.NoNewGang (l.foldl (fun u id => u.settleCbar k id 4) u) :=
    fun k l => by
      induction l with
      | nil => exact fun _ h => h
      | cons id r ih => exact fun u hu => ih _ (hu.settleCbar k id 4)
  unfold State.settleBars
  dsimp only
  split
  · exact hcrew _ _ _ (hteam _ _ h)
  · exact hteam _ _ h

/-! A gang that leaves its core. -/

theorem State.NoNewGang.post {s t : State} (h : s.NoNewGang t) (e : Event) : s.NoNewGang (t.post e) := h.of_gangs rfl fun _ => rfl

theorem State.NoNewGang.drop {s t : State} (h : s.NoNewGang t) (p : Event → Bool) : s.NoNewGang (t.drop p) := h.of_gangs rfl fun _ => rfl

theorem keys_erase_rising {α : Type} {c : Cells α} (n : Nat) (h : (c.map (·.1)).Pairwise (· < ·)) : n ∉ (Cells.erase c n).map (·.1) := by
  induction c with
  | nil => simp [Cells.erase]
  | cons e r ih =>
    obtain ⟨k, v⟩ := e
    rw [List.map_cons, List.pairwise_cons] at h
    simp only [Cells.erase]
    split
    · rename_i hlt
      rw [List.map_cons, List.mem_cons, not_or]
      exact ⟨by omega, fun hn => absurd (h.1 n hn) (by omega)⟩
    · split
      · rename_i heq
        exact fun hn => absurd (h.1 n hn) (by omega)
      · rename_i hne
        rw [List.map_cons, List.mem_cons, not_or]
        exact ⟨hne, ih h.2⟩

theorem CoreSt.removeGang_slots {c : CoreSt} {g : GangRef} {x : Gang} (hx : c.gang? g = some x) (hs : c.slots.Pairwise (· < ·)) :
    g.slot ∉ (c.removeGang g).slots := by
  unfold CoreSt.removeGang
  rw [hx]
  exact keys_erase_rising _ (by
    rw [show ((c.unshareGang g.slot x).freeWindow x).gangs.map (·.1) = c.slots from c.unshareGang_slots g.slot x]
    exact hs)

theorem CoreSt.lose_slots (c : CoreSt) (l : List Nat) : (c.lose l).slots = c.slots := by
  induction l generalizing c with
  | nil => rfl
  | cons off r ih =>
    unfold CoreSt.lose
    dsimp only
    split
    · refine (ih _).trans ?_
      unfold CoreSt.slots
      dsimp only
      rw [List.map_map]
      refine List.map_congr_left fun e _ => ?_
      dsimp only [Function.comp]
      split <;> rfl
    · exact ih _

theorem CoreSt.endSlices_slots {c : CoreSt} {g : GangRef} {x : Gang} (hx : c.gang? g = some x) (dead : SliceSet) :
    (c.endSlices g dead).slots = c.slots := by
  unfold CoreSt.endSlices
  rw [hx]
  dsimp only
  rw [CoreSt.lose_slots]
  exact keys_insert_of_find? (CoreSt.find?_of_gang? hx)

theorem find?_of_not_mem_keys {α : Type} {c : Cells α} {n : Nat} (h : n ∉ c.map (·.1)) : Cells.find? c n = none := by
  induction c with
  | nil => rfl
  | cons e r ih =>
    rw [List.map_cons, List.mem_cons, not_or] at h
    simp only [Cells.find?]
    split
    · rfl
    · rw [if_neg h.1]
      exact ih h.2

theorem CoreSt.gang?_of_not_slots {c : CoreSt} {g : GangRef} (h : g.slot ∉ c.slots) : c.gang? g = none := by
  unfold CoreSt.gang?
  rw [find?_of_not_mem_keys h]

theorem State.postOnce_ends (s : State) (e : Event) : (s.postOnce e).ends = s.ends := by
  unfold State.postOnce
  split <;> rfl

theorem State.postOnce_core (s : State) (e : Event) (c : Nat) : (s.postOnce e).core c = s.core c := by
  unfold State.postOnce
  split <;> rfl

/-- What leaves its core leaves no more than the barriers that it settles. -/
theorem State.removeGang_noNewGang (s : State) (g : GangRef) (n : Nat) :
    (s.setCore g.core ((s.core g.core).removeGang g)).NoNewGang (s.removeGang g n) := by
  unfold State.removeGang
  dsimp only
  have h := ((State.NoNewGang.refl (s.setCore g.core ((s.core g.core).removeGang g))).drop (appendEvent g)).settleBars g.core n
  split
  · exact h.post _
  · exact h

section
variable {s : State} {g : GangRef} {x : Gang} (c : BitVec 8) (tc : Word) (tp : PC) (ta : VAddr)

/-- The state before an ended gang leaves its core: its slices have ended, and its end is reported. -/
def State.ending (s : State) (g : GangRef) (x : Gang) (tc : Word) (tp : PC) (ta : VAddr) : State :=
  { s.setCore g.core ((s.core g.core).endSlices g x.liveSet) with
    ends := s.ends ++ [⟨g.core, (s.core g.core).sessionOf x, tc, tp, ta⟩] }

theorem State.fatal_eq (hx : s.gang? g = some x) : s.fatal g c tc tp ta =
    if noRollback c then (s.ending g x tc tp ta).removeGang g x.team
    else ((s.ending g x tc tp ta).removeGang g x.team).postOnce (.rollback ((s.core g.core).sessionOf x)) := by
  rw [State.fatal, hx]
  rfl

theorem State.fatal_ends (hx : s.gang? g = some x) :
    (s.fatal g c tc tp ta).ends = s.ends ++ [⟨g.core, (s.core g.core).sessionOf x, tc, tp, ta⟩] := by
  have h : ((s.ending g x tc tp ta).removeGang g x.team).ends = _ := (State.removeGang_noNewGang _ g x.team).ends
  rw [State.fatal_eq c tc tp ta hx]
  split
  · exact h
  · rw [State.postOnce_ends]
    exact h

/-- A fatal end leaves no gang at the reference. -/
theorem State.fatal_gang? (hx : s.gang? g = some x) (hs : (s.core g.core).slots.Pairwise (· < ·)) :
    (s.fatal g c tc tp ta).gang? g = none := by
  obtain ⟨y, hy, -⟩ := CoreSt.endSlices_live hx x.liveSet
  have hcore : (s.ending g x tc tp ta).core g.core = (s.core g.core).endSlices g x.liveSet := State.core_setCore_same ..
  have hgone : g.slot ∉ (((s.ending g x tc tp ta).removeGang g x.team).core g.core).slots := fun hmem => by
    have h := (State.removeGang_noNewGang (s.ending g x tc tp ta) g x.team).slots g.core g.slot hmem
    rw [State.core_setCore_same, hcore] at h
    exact CoreSt.removeGang_slots hy (by rwa [CoreSt.endSlices_slots hx]) h
  rw [State.fatal_eq c tc tp ta hx, State.gang?]
  split
  · exact CoreSt.gang?_of_not_slots hgone
  · rw [State.postOnce_core]
    exact CoreSt.gang?_of_not_slots hgone

end

/-! Trap entry. -/

theorem extract_tcauseWord (c : BitVec 8) (n : BitVec 16) (k : Nat) (bu : Bool) :
    (tcauseWord c n k bu true).extractLsb' 0 8 = c ∧ (tcauseWord c n k bu true).getLsbD 8 = bu ∧
      (tcauseWord c n k bu true).getLsbD 15 = true ∧ (tcauseWord c n k bu true).extractLsb' 16 16 = n := by
  have hbit : ∀ i, (tcauseWord c n k bu true).getLsbD i = if i < 8 then c.getLsbD i else if i - 8 < 1 then (BitVec.ofBool bu).getLsbD (i - 8)
      else if i - 8 - 1 < 3 then (BitVec.ofNat 3 k).getLsbD (i - 8 - 1) else if i - 8 - 1 - 3 < 3 then (0#3).getLsbD (i - 8 - 1 - 3)
      else if i - 8 - 1 - 3 - 3 < 1 then (BitVec.ofBool true).getLsbD (i - 8 - 1 - 3 - 3) else n.getLsbD (i - 8 - 1 - 3 - 3 - 1) := fun i => by
    rw [← BitVec.getLsbD_append, ← BitVec.getLsbD_append, ← BitVec.getLsbD_append, ← BitVec.getLsbD_append, ← BitVec.getLsbD_append]
    rfl
  refine ⟨BitVec.eq_of_getLsbD_eq fun i hi => ?_, ?_, ?_, BitVec.eq_of_getLsbD_eq fun i hi => ?_⟩
  · rw [BitVec.getLsbD_extractLsb', Nat.zero_add, hbit, if_pos hi, decide_eq_true hi, Bool.true_and]
  · rw [hbit]
    cases bu <;> rfl
  · rw [hbit]
    rfl
  · rw [BitVec.getLsbD_extractLsb', hbit, decide_eq_true hi, Bool.true_and, if_neg (by omega), if_neg (by omega), if_neg (by omega),
      if_neg (by omega), if_neg (by omega), show 16 + i - 8 - 1 - 3 - 3 - 1 = i by omega]

theorem State.enterTrap_mem {s : State} {g : GangRef} {x : Gang} {r : Raised} (hx : s.gang? g = some x)
    (hr : x.raised = some r) (hact : x.trap.tcause.getLsbD 15 = false) (hh : ((s.core g.core).recordOf x).handler ≠ 0)
    (hf : fatalOnly r.cause = false) : (s.enterTrap g).mem = s.mem := by
  unfold State.enterTrap
  simp only [hx, hr, hact, hh, hf, Bool.false_eq_true, or_self, if_false]
  split <;> rfl

/-- A live slice as the handler finds it (R97). -/
theorem Gang.entered_slice_live {x : Gang} (r : Raised) (h : PC) {n : Nat} (hl : x.live n = true) :
    (x.entered r h).slice n = (x.slice n).entered h := by
  have hslices : (x.entered r h).slices = x.slices.map (fun sl => if sl.live then sl.entered h else sl) := rfl
  unfold Gang.live Gang.slice at hl
  unfold Gang.slice
  rw [hslices, List.getD_eq_getElem?_getD, List.getElem?_map]
  rw [List.getD_eq_getElem?_getD] at hl ⊢
  cases hn : x.slices[n]? with
  | none =>
    rw [hn] at hl
    cases hl
  | some sl =>
    rw [hn] at hl
    exact if_pos hl

theorem Gang.entered_slice_dead {x : Gang} (r : Raised) (h : PC) {n : Nat} (hl : x.live n = false) :
    (x.entered r h).slice n = x.slice n := by
  have hslices : (x.entered r h).slices = x.slices.map (fun sl => if sl.live then sl.entered h else sl) := rfl
  unfold Gang.live Gang.slice at hl
  unfold Gang.slice
  rw [hslices, List.getD_eq_getElem?_getD, List.getElem?_map]
  rw [List.getD_eq_getElem?_getD] at hl ⊢
  cases hn : x.slices[n]? with
  | none => rfl
  | some sl =>
    rw [hn] at hl
    exact if_neg (Bool.eq_false_iff.1 hl)

theorem exec_trapEntry_of {s : State} {g : GangRef} (hev : s.ev = .trapEntry g) : exec .trapEntry s = .next (s.enterTrap g) := by
  rw [exec_trapEntry, execTrapEntry, hev]

theorem State.enterTrap_twice {s : State} {g : GangRef} {x : Gang} {r : Raised} (hx : s.gang? g = some x) (hr : x.raised = some r)
    (hact : x.trap.tcause.getLsbD 15 = true) :
    s.enterTrap g = s.fatal g 0x09 (setField x.trap.tcause 16 16 r.cause.toNat) x.trap.tpc x.trap.taddr := by
  rw [State.enterTrap, hx]
  dsimp only
  rw [hr]
  dsimp only
  rw [if_pos hact]

theorem State.enterTrap_fatal {s : State} {g : GangRef} {x : Gang} {r : Raised} (hx : s.gang? g = some x) (hr : x.raised = some r)
    (hact : x.trap.tcause.getLsbD 15 = false) (hh : ((s.core g.core).recordOf x).handler = 0 ∨ fatalOnly r.cause = true) :
    s.enterTrap g = s.fatal g r.cause (tcauseWord r.cause r.info (x.lead r.slices) r.bu false) r.addr r.taddr := by
  rw [State.enterTrap, hx]
  dsimp only
  rw [hr]
  dsimp only
  rw [hact, if_neg Bool.false_ne_true, if_pos hh]

/-! Unit faults, parked gangs and the watchdog. -/

section
variable {s : State} {g : GangRef} {x : Gang}

theorem exec_unitFaultTrap_owed {e : Nat} (hx : s.gang? g = some x) (hev : s.ev = .unitFaultTrap g)
    (hact : x.trap.tcause.getLsbD 15 = false) (hr : x.raised = none) (howes : x.owesTrap = true) (hgroup : x.unitTrapGroup = some e) :
    exec .unitFaultTrap s = .next (if ((s.owedTrap g x e).gang? g).any Gang.owesTrap then
      (s.owedTrap g x e).postOnce (.unitFaultTrap g) else s.owedTrap g x e) := by
  rw [exec_unitFaultTrap, execUnitFaultTrap, hev]
  dsimp only
  rw [hx]
  dsimp only
  rw [hact, hr, howes, if_neg (by decide), hgroup]

theorem State.postOnce_mem (s : State) (e : Event) : (s.postOnce e).mem = s.mem := by
  unfold State.postOnce
  split <;> rfl

theorem exec_gangUnpark_eq {ps : List Parked} {t : State} (hx : s.gang? g = some x) (hev : s.ev = .gangUnpark g)
    (hunpark : State.unparkAll g x.parked s = (ps, t)) : exec .gangUnpark s = .next (t.updGang g fun y =>
      if ps.any (fun p => !p.saved) then ({ y with parked := ps } : Gang).faulted else ({ y with parked := ps } : Gang).resumed) := by
  rw [exec_gangUnpark, execGangUnpark, hev]
  dsimp only
  rw [hx]
  dsimp only
  rw [hunpark]

theorem exec_hang_eq {e : Nat} (hx : s.gang? g = some x) (hev : s.ev = .hang g e) : exec .hang s = .next
    (if Config.watchdogLimit ≤ (x.group e).dog then s.fatalBy g 0x96 (BitVec.ofNat 16 (s.reason g x e).code) else s) := by
  rw [exec_hang, execHang, hev]
  dsimp only
  rw [hx]
  dsimp only
  split <;> rfl

end

/-- Settles O43. -/
theorem trapsAreTaken : Obligations.TrapsAreTaken := by
  intro s g x hx
  refine ⟨fun r h hev hr hact hh hne hf hnext => ?enters, fun r hev hr hact => ?twice, fun r hev hr hact hh => ?fatal,
    fun c tc tp ta => State.fatal_ends c tc tp ta hx, fun c tc tp ta hs => State.fatal_gang? c tc tp ta hx hs, rfl,
    fun e hev hact hr howes hgroup => ?owed, fun ps t hev hunpark hdone => ?resumes, fun ps t hev hunpark hmore => ?faulted,
    fun e hev hdog => ?hangs, fun e hev hdog => ?runs⟩
  case enters =>
    subst hh
    obtain ⟨hcause, hbu, hactive, hinfo⟩ := extract_tcauseWord r.cause r.info (x.lead r.slices) r.bu
    refine ⟨_, _, exec_trapEntry_of hev, State.gang?_enterTrap hx hr hact hne hf hnext, State.enterTrap_mem hx hr hact hne hf,
      hcause, hbu, hactive, hinfo, rfl, rfl, rfl, rfl, rfl, rfl, rfl, rfl, rfl, rfl, rfl, rfl, rfl, fun n _ hl => ?_,
      fun n _ hl => Gang.entered_slice_dead _ _ hl⟩
    rw [Gang.entered_slice_live _ _ hl]
    exact ⟨hl, rfl, rfl, rfl, rfl, rfl⟩
  case twice => rw [exec_trapEntry_of hev, State.enterTrap_twice hx hr hact]
  case fatal => rw [exec_trapEntry_of hev, State.enterTrap_fatal hx hr hact hh]
  case owed =>
    refine ⟨_, exec_unitFaultTrap_owed hx hev hact hr howes hgroup, fun hdone => ?_, ?_⟩
    · rw [hdone, if_neg Bool.false_ne_true]
    · split
      · exact State.postOnce_mem ..
      · rfl
  case resumes => rw [exec_gangUnpark_eq hx hev hunpark, hdone]; rfl
  case faulted => rw [exec_gangUnpark_eq hx hev hunpark, hmore]; rfl
  case hangs => rw [exec_hang_eq hx hev, if_pos hdog]
  case runs => rw [exec_hang_eq hx hev, if_neg (Nat.not_le.2 hdog)]

end Sys2Proof.Machine

/-! PROOFS. O54: the checks of R72 come before any effect. -/

namespace Sys2Proof.Machine

/-- An instruction word, at a group that is inside no form, goes by the checks of R72. -/
def GoesByChecks (i : Instr) : Prop :=
  ∀ s : State, (∀ v, s.view? = some v → v.gang.form? v.cur.entry = none) → ∃ k, exec i s = issueChecked i s k

theorem issueForm_fresh {i : Instr} {s : State} {trap : View → Shape → Option (BitVec 8)} {dst : View → Dest}
    {k : View → FormHold → Bool → State → State} (h : ∀ v, s.view? = some v → v.gang.form? v.cur.entry = none) :
    ∃ c, issueForm i s trap dst k = issueChecked i s c := by
  refine ⟨?effect, ?checked⟩
  case checked =>
    unfold issueForm
    cases hv : s.view? with
    | none => exact rfl
    | some v => rw [Option.bind_some, h v hv, Option.map_none]

theorem waitingForms_goByChecks (a b : Reg) :
    ∀ i ∈ [Instr.xltInv a b, .xltProbe a b, .xltFmove a b, .xltFunblk a b, .ckpPreg a b, .ckpGreg a b, .modgShare a b,
      .modgUnshare a b, .modgFork a b, .modgHeal a b], GoesByChecks i := by
  simp only [List.forall_mem_cons, List.not_mem_nil, false_imp_iff, implies_true, and_true, GoesByChecks]
  simp only [exec_xltInv, execXltInv, exec_xltProbe, execXltProbe, exec_xltFmove, execXltFmove, exec_xltFunblk,
    execXltFunblk, exec_ckpPreg, execCkpPreg, exec_ckpGreg, execCkpGreg, exec_modgShare, execModgShare,
    exec_modgUnshare, execModgUnshare, exec_modgFork, execModgFork, exec_modgHeal, execModgHeal]
  refine ⟨?_, ?_, ?_, ?_, ?_, ?_, ?_, ?_, ?_, ?_⟩
  all_goals exact fun _ h => issueForm_fresh h

theorem goesByChecks_of_encode {i : Instr} {w : Word} (h : encode i = some w) : GoesByChecks i := by
  cases i
  case xltInv a b | xltProbe a b | xltFmove a b | xltFunblk a b | ckpPreg a b | ckpGreg a b | modgShare a b |
    modgUnshare a b | modgFork a b | modgHeal a b =>
    exact waitingForms_goByChecks a b _ (by simp)
  case qcallAppend | sendAppend | returnRecord | unitFaultTrap | teamExit | drainSave | drainDeadline | timeSliceEnd | budgetWindow |
    dieTemperature | thermtrip | cutAttempt | cut | cutWaitExpiry | cutRetry | accessAtHome | leaseRenewal | confirmationRequest |
    watchConfirm | watchStrike | watchTimeout | versionReport | hostPostedWrite | stopRecords | stepWindowClose | dbgcmdFreeze |
    dbgcmdThaw | vrOpen | vrPrim | vrDone | vrWaitf | vrSlotFinal | buOpenf | buBin | buClose | bluOpen | bluFrag | bluDone | bluWaitf |
    bluCommit | faultRecordWrite | gangUnpark | uncorrectableError | correctableError | priResponse | atsTranslationResponse |
    atsInvalidation | flitCheckFail | portDown | collectiveAllreduce | collectiveBroadcast | collectiveResult | moduleLeavesArmada |
    portRetrained | routesRecomputed | pauseExpiry | resultWrite | producerDelivery | trapEntry | teamLaunch | crewLaunch | hang |
    sequenceFetch | commandFire | commandRetire | copyDelivery | followOnPush | mcastFillLand | mxReset | recordReserve | recordCommit |
    instanceStart | phaseComplete | rollback | tfuSample | ryuTrace | bvoStart | bvoStop | bvoSubtreeReplace | fenOpens | fenFrame |
    fenRelease | fenCloses | unitReset | pcmdCommit | pcmdRelease | doorbell | attcmdGo | attestationDone | dbgdataRead | dbgdataWrite |
    errCounterWrite | mgmtRegisterWrite | moduleResetRelease | illegalOpcode | moduleReset => nomatch h
  all_goals exact fun _ _ => ⟨_, rfl⟩

section
variable {i : Instr} {s : State} {v : View} {k : View → Shape → State → (State → State) → State}

theorem issueChecked_absent (hv : s.view? = none) : issueChecked i s k = .next s := by
  rw [issueChecked, State.issueWith, hv]

theorem issueChecked_trap {c : BitVec 8} {lanes : LaneSet} (hv : s.view? = some v)
    (h : checkSeq v i (shape i v.mode v.cur.lit.isSome) = .trap c lanes) : issueChecked i s k = .next (s.trapNow c 0 lanes 0) := by
  rw [issueChecked, State.issueWith, hv]
  dsimp only
  rw [h]

theorem issueChecked_wait {r : WaitReason} (hv : s.view? = some v) (h : checkSeq v i (shape i v.mode v.cur.lit.isSome) = .wait r) :
    issueChecked i s k = .next (if r = .cklfull then s.logFull (v.core.sessionOf v.gang) else s.hold r) := by
  rw [issueChecked, State.issueWith, hv]
  dsimp only
  rw [h]

end

/-- The instruction words, at a group that is inside no form. -/
theorem exec_checked {i : Instr} {w : Word} {s : State} {v : View} (hw : encode i = some w) (hv : s.view? = some v)
    (hform : v.gang.form? v.cur.entry = none) : ∃ k, exec i s = issueChecked i s k :=
  goesByChecks_of_encode hw s fun u hu => by
    obtain rfl := Option.some.inj (hv.symm.trans hu)
    exact hform

section
variable {v : View} {i : Instr} {sh : Shape}

theorem checkSeq_of_cause {c : BitVec 8} (h : staticCause v i sh = some c) : checkSeq v i sh = .trap c (v.tlanes sh) := by
  rw [checkSeq, h]

theorem staticCause_level (h : v.core.level v.gang < sh.level) : staticCause v i sh = some 0x05 := if_pos h

theorem staticCause_prefix (hl : sh.level ≤ v.core.level v.gang) (h : sh.prefixOk v.cur = false) : staticCause v i sh = some 0x03 := by
  rw [staticCause, if_neg (Nat.not_lt.2 hl), h, Bool.not_false, if_pos rfl]

theorem staticCause_fields (hl : sh.level ≤ v.core.level v.gang) (hp : sh.prefixOk v.cur = true)
    (h : (i.wellFormed && sh.fields && sh.prefixFields v.cur) = false) : staticCause v i sh = some 0x02 := by
  rw [staticCause, if_neg (Nat.not_lt.2 hl), hp, Bool.not_true, if_neg Bool.false_ne_true, h, Bool.not_false, if_pos rfl]

theorem staticCause_type (hl : sh.level ≤ v.core.level v.gang) (hp : sh.prefixOk v.cur = true)
    (hf : (i.wellFormed && sh.fields && sh.prefixFields v.cur) = true) (h : sh.typeOk v.mode = false) :
    staticCause v i sh = some 0x04 := by
  rw [staticCause, if_neg (Nat.not_lt.2 hl), hp, Bool.not_true, if_neg Bool.false_ne_true, hf, Bool.not_true,
    if_neg Bool.false_ne_true, h, Bool.not_false, if_pos rfl]

theorem staticCause_ranges (hl : sh.level ≤ v.core.level v.gang) (hp : sh.prefixOk v.cur = true)
    (hf : (i.wellFormed && sh.fields && sh.prefixFields v.cur) = true) (ht : sh.typeOk v.mode = true)
    (h : sh.rangesOk v.gang.vcount v.cur = false) : staticCause v i sh = some 0x12 := by
  rw [staticCause, if_neg (Nat.not_lt.2 hl), hp, Bool.not_true, if_neg Bool.false_ne_true, hf, Bool.not_true,
    if_neg Bool.false_ne_true, ht, Bool.not_true, if_neg Bool.false_ne_true, h, Bool.not_false, if_pos rfl]

end

/-- Settles O54. -/
theorem checksComeFirst : Obligations.ChecksComeFirst := by
  refine ⟨fun i w s v c lanes hw hv hform h => ?trap, fun i w s v r hw hv hform h hr => ?wait, fun i w s v hw hv hform h => ?full,
    fun i w s hw hv => ?absent, fun v i => ?order⟩
  case trap =>
    obtain ⟨k, hk⟩ := exec_checked hw hv hform
    rw [hk, issueChecked_trap hv h]
  case wait =>
    obtain ⟨k, hk⟩ := exec_checked hw hv hform
    rw [hk, issueChecked_wait hv h, if_neg hr]
  case full =>
    obtain ⟨k, hk⟩ := exec_checked hw hv hform
    rw [hk, issueChecked_wait hv h, if_pos rfl]
  case absent =>
    obtain ⟨k, hk⟩ := goesByChecks_of_encode hw s fun v h => by rw [hv] at h; cases h
    rw [hk, issueChecked_absent hv]
  case order =>
    refine ⟨fun h => checkSeq_of_cause (staticCause_level h), fun hl h => checkSeq_of_cause (staticCause_prefix hl h),
      fun hl hp h => checkSeq_of_cause (staticCause_fields hl hp (by rw [h]; rfl)), fun hl hp hw hf hpf h =>
      checkSeq_of_cause (staticCause_type hl hp (by rw [hw, hf, hpf]; rfl) h), fun hl hp hw hf hpf ht h =>
      checkSeq_of_cause (staticCause_ranges hl hp (by rw [hw, hf, hpf]; rfl) ht h)⟩

end Sys2Proof.Machine

/-! PROOFS. O44: a reservation, where two pipelines share a number. -/

namespace Sys2Proof.Machine

/-! The model's RESERVE enters the records that it answers with, numbered from the queue that the call named. The
statement numbers them from each queue that it changes, and it changes those of every pipeline of that number: the two
part where a session holds two pipelines of one number, which no registration makes. -/

/-- Pipeline 0 in a phase, with one queue of two slots at endpoint `ep` and next sequence number `next`. -/
def twinPipe (ep next : Nat) : Pipeline :=
  { num := 0, die := 0, stages := [], queues := [⟨ep, 0, 2, 16, next, []⟩], phase := some (0, 0), nextRid := 0 }

/-- A call of endpoint 5 in session 1 that reserves one record. -/
def twinCall : Call :=
  { ep := 5, gang := default, team := 2, lane := 0, tag := 0, cap := 0, session := 1, level := 0, die := 0,
    words := [0, 0x0101], dst := [] }

/-- Session 1 holds two pipelines of number 0, and the call reserves in the first. -/
def twinState : State :=
  { State.reset with
    ev := .recordReserve twinCall
    sess := [(1, { SessDev.init with pipes := [twinPipe 5 0, twinPipe 6 100] })] }

/-- The records of the queues of session 1, once an instruction has been executed. -/
def recordsAfter (r : Host.Outcome State Fault Refusal) : List (Nat × RecState) :=
  match r with
  | .next t => (t.ses 1).pipes.flatMap fun p => p.queues.flatMap (·.records)
  | _ => []

theorem recordsAfter_reserve_twin :
    recordsAfter (exec .recordReserve twinState) = [(0, .reserved 0 2), (0, .reserved 0 2)] := by decide

/-- Refutes O44: with two pipelines of number 0, of which the second has the next sequence number 100, the model enters
record 0 in both, and the statement record 100 in the second. -/
theorem not_launchesAndRecords : ¬ Obligations.LaunchesAndRecords := by
  unfold Obligations.LaunchesAndRecords
  intro h
  obtain ⟨-, -, -, -, -, -, -, -, reserve, -⟩ := h twinState
  obtain ⟨-, enters⟩ := reserve twinCall (twinPipe 5 0) 0 ⟨5, 0, 2, 16, 0, []⟩ rfl (by decide) (by decide)
  have stated := congrArg recordsAfter (enters (by decide))
  rw [recordsAfter_reserve_twin] at stated
  exact absurd stated (by decide)

end Sys2Proof.Machine

/-! PROOFS. O45: the engines' commands fire, move their bytes and retire. -/

namespace Sys2Proof.Machine

section
variable {s : State} {core q id : Nat} {k : Cmd} {t : Team} (hk : (s.core core).cmd? q id = some k)
  (ht : s.team? core k.team = some t)
include hk ht

theorem exec_commandFire_waits (hev : s.ev = .commandFire core q id) (hr : s.fireReady core q id = false) :
    exec .commandFire s = .next (s.post (.commandFire core q id)) := by
  rw [exec_commandFire, execCommandFire, hev]
  dsimp only
  rw [hk]; dsimp only
  rw [ht]; dsimp only
  rw [hr, Bool.not_false, if_pos rfl]

theorem exec_commandFire_noRing (hev : s.ev = .commandFire core q id) (hr : s.fireReady core q id = true)
    (hin : k.op.ringIn = none) (hout : k.op.ringOut = none) :
    let k1 := { k with fired := true, inSlot := none, outSlot := none }
    exec .commandFire s = .next (((s.updCmd core id (fun _ => k1)).updTeam core k.team (fun t => t)).post
      (if q = 1 ∨ k1.total t = 0 then .commandRetire core q id else .copyDelivery core id)) := by
  dsimp only
  rw [exec_commandFire, execCommandFire, hev]
  dsimp only
  rw [hk]; dsimp only
  rw [ht]; dsimp only
  rw [hr, Bool.not_true, if_neg Bool.false_ne_true, hin, hout]
  rfl

theorem exec_commandRetire_matrix {m : MxOp} (hev : s.ev = .commandRetire core q id) (hm : k.op = .matrix m)
    (hf : k.fired = true) : exec .commandRetire s = .next (s.retireMx core k t m) := by
  rw [exec_commandRetire, execCommandRetire, hev]
  dsimp only
  rw [hk]; dsimp only
  rw [hm, ht]; dsimp only
  rw [if_pos hf]

/-- A command that is not a matrix command, has fired and is not complete retires, or waits for older ones. -/
theorem exec_commandRetire_engine (hev : s.ev = .commandRetire core q id) (hm : ∀ m, k.op ≠ .matrix m)
    (hd : k.done = false) (hf : k.fired = true) :
    exec .commandRetire s =
      if (s.core core).behindOlder q t k then .next (s.post (.commandRetire core q id))
      else
        let u := (s.updTeam core k.team (fun t => t.release k true)).finishCmd core q id
        .next (if (u.core core).follow.any (fun j => decide (j.id = id + 1)) then u.post (.followOnPush core (id + 1))
          else u) := by
  rw [exec_commandRetire, execCommandRetire, hev]
  dsimp only
  rw [hk]; dsimp only
  rw [ht, hd, hf]
  cases hop : k.op
  case matrix m => exact absurd hop (hm m)
  all_goals exact if_neg (by decide)

theorem exec_copyDelivery_over (hev : s.ev = .copyDelivery core id) (hq : (s.core core).queueOf id = q)
    (ho : k.stall.isSome = true ∨ k.done = true) : exec .copyDelivery s = .next s := by
  rw [exec_copyDelivery, execCopyDelivery, hev]
  dsimp only
  rw [hq, hk]; dsimp only
  rw [ht]; dsimp only
  rw [if_pos ho]

theorem exec_copyDelivery_piece (hev : s.ev = .copyDelivery core id) (hq : (s.core core).queueOf id = q)
    (hs : k.stall = none) (hd : k.done = false) (hb : (s.core core).behindOlder q t k = false) :
    exec .copyDelivery s = .next (s.deliverPiece core q t k) := by
  rw [exec_copyDelivery, execCopyDelivery, hev]
  dsimp only
  rw [hq, hk]; dsimp only
  rw [ht]; dsimp only
  rw [hs, hd, if_neg (by decide), hb, if_neg Bool.false_ne_true]

end

theorem exec_followOnPush_room {s : State} {core : Nat} {j : Cmd} (hev : s.ev = .followOnPush core j.id)
    (hj : (s.core core).follow.find? (fun i => decide (i.id = j.id)) = some j)
    (hroom : (s.core core).queued 1 < Config.queueDepth.getD 1 0) :
    exec .followOnPush s = .next ((s.setCore core
      { s.core core with
        queues := (s.core core).queues.modify 1 (· ++ [j])
        follow := (s.core core).follow.filter (fun i => decide (i.id ≠ j.id)) }).post (.commandFire core 1 j.id)) := by
  rw [exec_followOnPush, execFollowOnPush, hev]
  dsimp only
  rw [hj]; dsimp only
  rw [if_neg (Nat.not_le.mpr hroom)]

/-! The array of a core is reset. -/

theorem CoreSt.lose_engines (c : CoreSt) (ps : List Nat) :
    (c.lose ps).queues = c.queues ∧ (c.lose ps).follow = c.follow ∧ (c.lose ps).mxIdle = c.mxIdle ∧
      (c.lose ps).accs = c.accs := by
  induction ps generalizing c with
  | nil => exact ⟨rfl, rfl, rfl, rfl⟩
  | cons off r ih =>
    rw [CoreSt.lose]
    obtain ⟨hq, hf, hi, ha⟩ := ih _
    rw [hq, hf, hi, ha]
    split <;> exact ⟨rfl, rfl, rfl, rfl⟩

theorem exec_mxReset_early {s : State} {core : Nat} (hev : s.ev = .mxReset core)
    (h : (s.core core).mxIdle < Config.arrayLimit) : exec .mxReset s = .next s := by
  rw [exec_mxReset, execMxReset, hev]
  dsimp only
  rw [if_pos h]

/-- The core once its matrix queue, its follow-on commands and its accumulators are given up. -/
def CoreSt.arrayReset (c : CoreSt) : CoreSt :=
  { c with
    queues := c.queues.set 1 [], follow := [], mxIdle := 0
    accs := c.accs.map (fun a => { a with valid := false, lost := true }) }

theorem exec_mxReset_late {s : State} {core : Nat} (hev : s.ev = .mxReset core)
    (h : Config.arrayLimit ≤ (s.core core).mxIdle) :
    ∃ lost, exec .mxReset s = .next ((s.core core).teams.foldl (fun w e => w.postOnce (.rollback e.2.session))
      (((s.core core).refs core).foldl (fun w g => w.fatalBy g 0x42 0)
        (s.setCore core ((s.core core).arrayReset.lose lost)))) := by
  refine ⟨?lost, ?runs⟩
  case runs =>
    rw [exec_mxReset, execMxReset, hev]
    dsimp only
    rw [if_neg (Nat.not_lt.mpr h)]
    rfl

theorem CoreSt.arrayReset_leaves (c : CoreSt) (lost : List Nat) :
    (c.arrayReset.lose lost).queues.getD 1 [] = [] ∧ (c.arrayReset.lose lost).follow = [] ∧
      (c.arrayReset.lose lost).mxIdle = 0 ∧
      ∀ a ∈ (c.arrayReset.lose lost).accs, a.valid = false ∧ a.lost = true := by
  obtain ⟨hq, hf, hi, ha⟩ := c.arrayReset.lose_engines lost
  rw [hq, hf, hi, ha]
  refine ⟨?_, rfl, rfl, fun a ha => ?_⟩
  · change (c.queues.set 1 []).getD 1 [] = []
    rw [List.getD_eq_getElem?_getD, List.getElem?_set]
    split
    · split <;> rfl
    · contradiction
  · obtain ⟨b, -, rfl⟩ := List.mem_map.mp (show a ∈ c.accs.map _ from ha)
    exact ⟨rfl, rfl⟩

theorem exec_mcastFillLand_part {s : State} {core id rank off len bar : Nat} {src : VAddr} {k : Cmd} {t : Team} {c : Crew}
    (hk : (s.core core).cmd? 3 id = some k) (ht : s.team? core k.team = some t)
    (hev : s.ev = .mcastFillLand core id rank) (hop : k.op = .mcast off src len bar) (hc : s.crew? t.crew = some c) :
    let done := k.landed.getD rank 0
    let o := Config.clusterShare + c.cmbase.getD rank 0 + off + done
    let p := Place.store (c.cores.getD rank 0) o
    let n := min (k.pos - done) (min (1 + Config.chunk s.tick % 128) (128 - o % 128))
    let landed := (fitList 0 c.cores.length k.landed).set rank (done + n)
    n ≠ 0 → s.engineFollows k p n true = false → done + n = k.pos → (landed.all fun x => decide (x = len)) = false →
    exec .mcastFillLand s = .next
      ((((s.devWrite (some core) true k.session p ((k.buf.drop done).take n)).updCmd core id
        (fun j => { j with landed := landed })).watchHome t.crew k.gang k.pc k.seq 3 p n).lowerPbc t.crew bar
          (fun r => if r = rank then n else 0)) := by
  intro done o p n landed hn hf hpos hl
  rw [exec_mcastFillLand, execMcastFillLand, hev]
  dsimp only
  rw [hk]; dsimp only
  rw [hop, ht]; dsimp only
  rw [hc]; dsimp only
  rw [if_neg hn, hf, if_neg Bool.false_ne_true, hl, if_neg Bool.false_ne_true, if_neg (Nat.not_lt.mpr hpos.ge)]

/-- Settles O45. -/
theorem enginesAdvance : Obligations.EnginesAdvance := by
  unfold Obligations.EnginesAdvance
  intro s core q id k t hk ht
  refine ⟨exec_commandFire_waits hk ht, exec_commandFire_noRing hk ht, fun m => exec_commandRetire_matrix hk ht, ?retires,
    ?behind, exec_copyDelivery_piece hk ht, exec_copyDelivery_over hk ht, fun j => exec_followOnPush_room, ?resets,
    exec_mxReset_early, ?lands⟩
  case retires =>
    intro hev hm hd hf hb _
    dsimp only
    intro hu
    rw [exec_commandRetire_engine hk ht hev hm hd hf, hb, if_neg Bool.false_ne_true]
    dsimp only
    rw [hu, List.any_nil,
      if_neg Bool.false_ne_true]
  case behind =>
    intro hev hm hd hf hb
    rw [exec_commandRetire_engine hk ht hev hm hd hf, if_pos hb]
  case resets =>
    intro hev hl
    obtain ⟨lost, runs⟩ := exec_mxReset_late hev hl
    refine ⟨_, runs, ?_, rfl⟩
    rw [State.core_setCore_same]
    exact CoreSt.arrayReset_leaves _ lost
  case lands =>
    rintro rank off src len bar c rfl hev hop hc
    exact exec_mcastFillLand_part hk ht hev hop hc

end Sys2Proof.Machine

/-! PROOFS. O46: drains, time slices, cuts and rollbacks. -/

namespace Sys2Proof.Machine

/-! A drain. -/

section
variable {s : State} {n : Nat} {c : Crew} (hc : s.crew? n = some c)
include hc

/-- A draining crew waits to be quiet, then for a copy engine, and is then saved. -/
theorem exec_drainSave_of (hd : c.drain = .draining) (hev : s.ev = .drainSave n) :
    exec .drainSave s =
      if !s.drainReady c then .next (s.post (.drainSave n))
      else if !s.engineHeld c.die c.session 0 then .next ((s.wantEngine c.die c.session 0).post (.drainSave n))
      else .next (s.drainNow c) := by
  rw [exec_drainSave, execDrainSave, hev]
  dsimp only
  rw [hc]; dsimp only
  rw [hd, if_neg (by decide)]

theorem exec_drainDeadline_missed (hd : c.drain = .draining) (hev : s.ev = .drainDeadline n)
    (hl : c.drainSince + s.deadline c.session ≤ (s.die c.die).cyc) :
    exec .drainDeadline s = .next
      (((s.answerAll (fun w => decide (w = .drain n)) [statusWord 7 0]).crewGangs c).foldl
        (fun t p => t.fatalBy p.1 0x72 0) (s.answerAll (fun w => decide (w = .drain n)) [statusWord 7 0])) := by
  rw [exec_drainDeadline, execDrainDeadline, hev]
  dsimp only
  rw [hc]; dsimp only
  rw [if_pos ⟨hd, hl⟩]

theorem exec_drainDeadline_early (hev : s.ev = .drainDeadline n)
    (hl : (s.die c.die).cyc < c.drainSince + s.deadline c.session) : exec .drainDeadline s = .next s := by
  rw [exec_drainDeadline, execDrainDeadline, hev]
  dsimp only
  rw [hc]; dsimp only
  rw [if_neg fun h => absurd h.2 (Nat.not_le.mpr hl)]

end

theorem State.drainNow_saved {s u : State} {c : Crew}
    (h : (if s.crewMatrix c then s.writeFreeze c.die c.session else .done () s) = .done () u) :
    let t := (unused (Config.newNumber u.tick) 0x100000 1 (u.saved.map (·.ticket))).headD 0
    let w : State := { u.freeCrew c with
      saved := (u.freeCrew c).saved ++ [u.savedCrew t { c with drain := .drained }] }
    s.drainNow c =
      ((w.shelve c.session).answerAll (fun x => decide (x = .drain c.id)) [statusWord 0 (0x400000 + t)]).serveRestores := by
  dsimp only
  rw [State.drainNow]
  dsimp only
  rw [h]

/-! The end of a time slice. -/

section
variable {s : State} {die p : Nat} (hev : s.ev = .timeSliceEnd die) (hp : (s.die die).sliceOf = some p)
  (hend : (s.die die).sliceEnd ≤ (s.die die).winStart)
include hev hp hend

theorem exec_timeSliceEnd_passes {q : Nat} (hq : s.nextSliced die p = some q) (hne : q ≠ p) :
    let mine := s.crews.filter (fun c => decide (c.die = die) && decide (s.sesPart c.session = p))
    exec .timeSliceEnd s =
      if mine = [] then .next (s.giveSlice die q) else .next (mine.foldl (fun t c => t.startDrain c) s) := by
  dsimp only
  rw [exec_timeSliceEnd, execTimeSliceEnd, hev]
  dsimp only
  rw [hp]; dsimp only
  rw [if_neg (Nat.not_lt.mpr hend), hq]; dsimp only
  rw [if_neg hne]

theorem exec_timeSliceEnd_keeps (hq : s.nextSliced die p = none ∨ s.nextSliced die p = some p) :
    exec .timeSliceEnd s =
      .next (s.setDie die { s.die die with sliceEnd := (s.die die).sliceEnd + s.sliceLen p }) := by
  rw [exec_timeSliceEnd, execTimeSliceEnd, hev]
  dsimp only
  rw [hp]; dsimp only
  rw [if_neg (Nat.not_lt.mpr hend)]
  obtain hq | hq := hq
  · rw [hq]
  · rw [hq]; dsimp only; rw [if_pos rfl]

end

/-! Cuts. -/

section
variable {s : State} {n : Nat}

theorem State.startAttempt_begins (ha : (s.ses n).attempt = none) (hs : s.sesState n ≠ 0) :
    s.startAttempt n true =
      (s.setSes n { s.ses n with
        attempt := some (s.die (s.sesHome n)).cyc, retryAt := none, lastCut := (s.die (s.sesHome n)).cyc }).postOnce
        (.cut n) := by
  rw [State.startAttempt]
  dsimp only
  rw [if_neg (by rw [ha]; exact fun h => h.elim (Bool.noConfusion ·) hs), if_pos rfl]

theorem exec_cut_of (hev : s.ev = .cut n) (ha : (s.ses n).attempt ≠ none) :
    exec .cut s =
      if !s.cutReady n then .next (s.post (.cut n))
      else if s.unstruck n then
        .next (((s.makeCut n).answerAll (fun w => decide (w = .take n)) [statusWord 0 0]).graphSteps n)
      else .next (s.failAttempt n) := by
  rw [exec_cut, execCut, hev]
  dsimp only
  rw [if_neg ha]

theorem exec_cutWaitExpiry_of {t : Nat} (hev : s.ev = .cutWaitExpiry n) (ha : (s.ses n).attempt = some t) :
    exec .cutWaitExpiry s =
      .next (if t + Config.cutWait ≤ (s.die (s.sesHome n)).cyc then s.failAttempt n else s) := by
  rw [exec_cutWaitExpiry, execCutWaitExpiry, hev]
  dsimp only
  rw [ha]

theorem exec_cutRetry_of {t : Nat} (hev : s.ev = .cutRetry n) (ha : (s.ses n).retryAt = some t) :
    exec .cutRetry s = .next (if t ≤ (s.die (s.sesHome n)).cyc then s.startAttempt n false else s) := by
  rw [exec_cutRetry, execCutRetry, hev]
  dsimp only
  rw [ha]

end

/-- Settles O46. -/
theorem recoverySteps : Obligations.RecoverySteps := by
  unfold Obligations.RecoverySteps
  intro s n
  refine ⟨?drains, ?passes, fun die p => exec_timeSliceEnd_keeps, ?attempts, ?cuts, ?expires, ?fails, ?retries, ?rolls⟩
  case drains =>
    intro c hc hd
    refine ⟨fun hev hr => ?_, fun hev hr he => ?_, fun u hev hr he hu => ?_, exec_drainDeadline_missed hc hd,
      exec_drainDeadline_early hc⟩
    · rw [exec_drainSave_of hc hd hev, hr, Bool.not_false, if_pos rfl]
    · rw [exec_drainSave_of hc hd hev, hr, he, Bool.not_true, if_neg Bool.false_ne_true, Bool.not_false, if_pos rfl]
    · rw [exec_drainSave_of hc hd hev, hr, he, Bool.not_true, if_neg Bool.false_ne_true, if_neg Bool.false_ne_true]
      exact congrArg _ (State.drainNow_saved hu)
  case passes =>
    intro die p q hev hp hend hq hne
    dsimp only
    refine ⟨fun hm => ?_, fun hm => ?_⟩
    · exact (exec_timeSliceEnd_passes hev hp hend hq hne).trans (if_pos hm)
    · exact (exec_timeSliceEnd_passes hev hp hend hq hne).trans (if_neg hm)
  case attempts =>
    intro hev ha hs
    rw [exec_cutAttempt, execCutAttempt, hev]
    exact congrArg _ (State.startAttempt_begins ha hs)
  case cuts =>
    intro hev ha
    refine ⟨fun hr => ?_, fun hr hu => ?_, fun hr hu => ?_⟩
    · rw [exec_cut_of hev ha, hr, Bool.not_false, if_pos rfl]
    · rw [exec_cut_of hev ha, hr, Bool.not_true, if_neg Bool.false_ne_true, if_pos hu]
    · rw [exec_cut_of hev ha, hr, hu, Bool.not_true, if_neg Bool.false_ne_true, if_neg Bool.false_ne_true]
  case expires =>
    intro t hev ha
    rw [exec_cutWaitExpiry_of hev ha]
    exact ⟨fun h => by rw [if_pos h], fun h => by rw [if_neg (Nat.not_le.mpr h)]⟩
  case fails =>
    dsimp only
    rw [State.failAttempt]
    exact ⟨fun h => by rw [if_neg (Nat.not_le.mpr h)], fun h => by rw [if_pos h]⟩
  case retries =>
    intro t hev ha
    rw [exec_cutRetry_of hev ha]
    exact ⟨fun h => by rw [if_pos h], fun h => by rw [if_neg (Nat.not_le.mpr h)]⟩
  case rolls =>
    intro hev
    exact ⟨by rw [exec_rollback, execRollback, hev], fun h => by rw [State.rollBack, if_pos h]⟩

end Sys2Proof.Machine

/-! PROOFS. O47: the homes confirm, strike and renew. -/

namespace Sys2Proof.Machine

section
variable {s : State} {g : GangRef} {stamp : Nat} {x : Gang} (hg : s.gang? g = some x)
include hg

/-- Replacing the watch table of a gang, and waking the groups that wait on it, leaves the rest of the machine. -/
theorem State.updGang_watch (w : List WatchEntry) :
    ∃ y, (s.updGang g fun z => ({ z with watch := w } : Gang).wake wokenByWatch).gang? g = some y ∧
      y.watch = w ∧ y.slices = x.slices ∧ y.preds = x.preds := by
  refine ⟨({ x with watch := w } : Gang).wake wokenByWatch, ?_, rfl, rfl, rfl⟩
  rw [State.updGang_some hg]
  exact s.gang?_setGang_same g _ (show x.gid = g.gid from State.gang?_gid hg)

theorem exec_confirmationRequest_of {l : Nat} {ver : Word} (hev : s.ev = .confirmationRequest g l ver stamp)
    (hb : s.blockOf (l * 128) = none) :
    exec .confirmationRequest s = .next (s.post
      (if ((x.watchOf stamp).map (·.ver)).getD ver = s.version (lineOf (s.now (l * 128))) then .watchConfirm g stamp
        else .watchStrike g stamp)) := by
  rw [exec_confirmationRequest, execConfirmationRequest, hev]
  dsimp only
  rw [hg]; dsimp only
  rw [hb]

theorem exec_confirmationRequest_blocked {l fr : Nat} {ver : Word}
    (hev : s.ev = .confirmationRequest g l ver stamp) (hb : s.blockOf (l * 128) = some fr) :
    exec .confirmationRequest s = .next (s.joinQueue fr) := by
  rw [exec_confirmationRequest, execConfirmationRequest, hev]
  dsimp only
  rw [hg]; dsimp only
  rw [hb]

theorem exec_watchTimeout_of {e : WatchEntry} (hev : s.ev = .watchTimeout g stamp) (he : x.watchOf stamp = some e) :
    exec .watchTimeout s =
      .next (if e.since + Config.watchLimit ≤ (s.die (dieOf g.core)).cyc then s.strikeEntry g stamp else s) := by
  rw [exec_watchTimeout, execWatchTimeout, hev]
  dsimp only
  rw [hg]; dsimp only
  rw [he]

theorem exec_versionReport_acq {e : Nat} (hev : s.ev = .versionReport g e) (hw : (x.group e).wait = .acq) :
    exec .versionReport s = .next (s.setGang g (x.setGroup e (x.group e).test)) := by
  rw [exec_versionReport, execVersionReport, hev]
  dsimp only
  rw [State.updGang_some hg, if_pos hw]

end

/-! A lease is renewed. -/

section
variable {s : State} {core l : Nat} {c : Copy} (hev : s.ev = .leaseRenewal core l)
  (hc : s.copy? (.l1 core) l = some c) (hs : c.bytes.isNone = false)
include hev hc hs

theorem exec_leaseRenewal_blocked {fr : Nat} (hb : s.blockOf (l * 128) = some fr) :
    exec .leaseRenewal s = .next (s.joinQueue fr) := by
  rw [exec_leaseRenewal, execLeaseRenewal, hev]
  dsimp only
  rw [hc]; dsimp only
  rw [hs, if_neg Bool.false_ne_true, hb]

theorem exec_leaseRenewal_open (hb : s.blockOf (l * 128) = none) :
    exec .leaseRenewal s =
      let h := lineOf (s.now (l * 128))
      if s.byVersion (dieOf core) (c.vlines.headD (0, 0)).1 ∧ c.ver = s.version h then
        let e := (s.die (dieOf core)).cyc + s.leaseLen h - 64
        let t := s.fill (.l1 core) l c.vlines c.ver c.bytes e
        .next ((if homeDie (l * 128) = dieOf core then t
          else t.fill (.l2 (dieOf core)) l c.vlines c.ver c.bytes e).growLease h)
      else .next (s.fillHome core 1 l c.vlines) := by
  rw [exec_leaseRenewal, execLeaseRenewal, hev]
  dsimp only
  rw [hc]; dsimp only
  rw [hs, if_neg Bool.false_ne_true, hb]

end

/-! A write posted by the host. -/

theorem exec_hostPostedWrite_homes {s : State} {fn pa : Nat} {bs : List Byte} (hev : s.ev = .hostPostedWrite fn pa bs)
    (hst : s.started = true) (hfn : s.fnEnabled fn = true)
    (hp : ∀ p ∈ linePieces (bs.length + 1) pa bs,
      inModule p.1 = true ∧ inAtoll p.1 = false ∧ (s.forward p.1).isSome = true) :
    exec .hostPostedWrite s = .next ((linePieces (bs.length + 1) pa bs).foldl
      (fun t p => t.writeHome none none 0 2 ((t.forward p.1).getD p.1) p.2) s) := by
  have hin : ((linePieces (bs.length + 1) pa bs).any fun p => !inModule p.1 || inAtoll p.1) = false :=
    List.any_eq_false.mpr fun p h => by
      obtain ⟨hm, ha, -⟩ := hp p h
      rw [hm, ha]
      decide
  have hopen : ((linePieces (bs.length + 1) pa bs).any fun p => (s.forward p.1).isNone) = false :=
    List.any_eq_false.mpr fun p h => by
      obtain ⟨-, -, hf⟩ := hp p h
      rw [← Option.not_isSome, hf]
      decide
  rw [exec_hostPostedWrite, execHostPostedWrite, hev]
  dsimp only
  rw [hst, hfn, hin, if_neg (by decide), hopen, if_neg Bool.false_ne_true]

theorem exec_hostPostedWrite_refused {s : State} {fn pa : Nat} {bs : List Byte} (hev : s.ev = .hostPostedWrite fn pa bs)
    (h : s.started = false ∨ s.fnEnabled fn = false) : exec .hostPostedWrite s = .next s := by
  rw [exec_hostPostedWrite, execHostPostedWrite, hev]
  dsimp only
  refine if_pos ?_
  obtain h | h := h
  · exact .inl (by rw [h]; rfl)
  · exact .inr (.inl (by rw [h]; rfl))

/-- Settles O47. -/
theorem homesAnswer : Obligations.HomesAnswer := by
  unfold Obligations.HomesAnswer
  intro s g stamp x hg
  refine ⟨?confirmation, ?confirms, ?strikes, ?times, fun e => exec_versionReport_acq hg, ?renews,
    fun fn pa bs => exec_hostPostedWrite_homes, fun fn pa bs => exec_hostPostedWrite_refused⟩
  case confirmation =>
    intro l ver hev
    dsimp only
    refine ⟨fun hb hv => ?_, fun hb hv => ?_, fun fr => exec_confirmationRequest_blocked hg hev⟩
    · rw [exec_confirmationRequest_of hg hev hb, if_pos hv]
    · rw [exec_confirmationRequest_of hg hev hb, if_neg hv]
  case confirms =>
    intro hev
    obtain ⟨y, hy, hw, hsl, hpr⟩ := State.updGang_watch hg (x.watch.filter fun e => decide (e.stamp ≠ stamp) || e.struck)
    refine ⟨_, y, by rw [exec_watchConfirm, execWatchConfirm, hev], ?_, hw, hsl, hpr, ?_, ?_⟩
    · rw [State.updGang_some hg] at hy ⊢
      exact hy
    · exact State.updGang_mem ..
    · exact State.updGang_agenda ..
  case strikes =>
    intro hev
    obtain ⟨y, hy, hw, hsl, hpr⟩ := State.updGang_watch hg
      (x.watch.map fun e => if e.stamp = stamp then { e with struck := true } else e)
    refine ⟨_, y, by rw [exec_watchStrike, execWatchStrike, hev], ?_, hw, hsl, hpr, ?_, ?_⟩
    · rw [State.strikeEntry, State.updGang_some hg]
      rw [State.updGang_some hg] at hy
      exact hy
    · exact State.updGang_mem ..
    · exact State.updGang_agenda ..
  case times =>
    intro e hev he
    rw [exec_watchTimeout_of hg hev he]
    exact ⟨fun h => by rw [if_pos h], fun h => by rw [if_neg (Nat.not_le.mpr h)]⟩
  case renews =>
    intro core l c hev hc hs
    dsimp only
    refine ⟨fun fr => exec_leaseRenewal_blocked hev hc hs, fun hb hv => ?_, fun hb hv hver hh => ?_⟩
    · rw [exec_leaseRenewal_open hev hc hs hb]
      dsimp only
      rw [if_neg]
      rintro ⟨hby, hver⟩
      exact hv.elim (fun h => by rw [h] at hby; exact Bool.noConfusion hby) fun h => h hver
    · rw [exec_leaseRenewal_open hev hc hs hb]
      dsimp only
      rw [if_pos ⟨hv, hver⟩, if_pos hh]

end Sys2Proof.Machine

/-! PROOFS. O48: a die within 16 of its limit, whose budget is spent. -/

namespace Sys2Proof.Machine

/-- Die 0, not throttled, with its limit at 10 and a budget of 0 that is spent, as its temperature becomes 5. -/
def spentState : State :=
  { State.reset with
    ev := .dieTemperature 0 5
    dies := [{ DieSt.init with tlim := 10, budget := 0, energy := 0, throttled := false }] }

/-- Whether die 0 is throttled, once an instruction has been executed. -/
def throttledAfter (r : Host.Outcome State Fault Refusal) : Option Bool :=
  match r with
  | .next t => some (t.die 0).throttled
  | _ => none

theorem throttledAfter_dieTemperature_spent : throttledAfter (exec .dieTemperature spentState) = some true := by decide

/-- Refutes O48: at a temperature below the limit and not 16 below it the statement leaves the die throttled or not, as it
was; the model throttles it there if it has spent its budget (`DieSt.heated`, R273). -/
theorem not_powerAndReset : ¬ Obligations.PowerAndReset := by
  unfold Obligations.PowerAndReset
  intro h
  obtain ⟨-, -, temperature, -⟩ := h spentState 0
  obtain ⟨-, within, -⟩ := temperature 5 rfl (by decide)
  have stated := congrArg throttledAfter (within (by decide) (by decide))
  rw [throttledAfter_dieTemperature_spent] at stated
  exact absurd stated (by decide)

end Sys2Proof.Machine

/-! PROOFS. O49: calls of the visibility, binning and blending units. -/

namespace Sys2Proof.Machine

section
variable {s : State} {x : Call}

/-! The visibility resolver. -/

/-- A call of VR OPEN is well formed (R288). -/
def vrOpenOk (x : Call) : Bool :=
  callOk x 1 6 16 (decide (callField x 8 2 = 3) || decide (callField x 12 4 = 0) || decide (callAddr x 4 % 64 ≠ 0))

theorem exec_vrOpen_bad (hev : s.ev = .vrOpen x) (hok : vrOpenOk x = false) :
    exec .vrOpen s = .next (s.unitBad x) := by
  rw [exec_vrOpen, execVrOpen, hev]
  exact if_pos ((Bool.not_eq_true' _).mpr hok)

theorem exec_vrOpen_of (hev : s.ev = .vrOpen x) (hok : vrOpenOk x = true) :
    exec .vrOpen s =
      if (Cells.find? (s.die x.die).vr (vrKey x)).any (fun v => !v.final) || s.buHolds x.die (vrKey x) then
        .next (s.unitReturn x [1])
      else
        .next (((s.openVbuf x (callAddr x 4) (8192 * sampleCount (callField x 8 2))).setVr x.die (vrKey x)
          { final := false, session := x.session, samp := callField x 8 2, dfunc := callField x 10 2,
            nsrc := callField x 12 4, dones := 0, tx := fieldNat (callWord x 2) 0 16, ty := fieldNat (callWord x 2) 16 16,
            clear := callWord x 3, vbuf := BitVec.ofNat 57 (callAddr x 4), gang := x.gang, team := x.team,
            level := x.level, samples := [] }).unitReturn x [0]) := by
  rw [exec_vrOpen, execVrOpen, hev]
  exact if_neg (by rw [Bool.not_eq_true']; exact fun h => Bool.noConfusion (h.symm.trans hok))

section
variable {v : VrSlot} (hv : s.vrSlot? x = some v)
include hv

theorem exec_vrPrim_open (hev : s.ev = .vrPrim x) (hok : callOk x 2 12 8 (triBad (x.words.drop 3)) = true)
    (hd : v.dones < v.nsrc) :
    exec .vrPrim s = .next ((s.setVr x.die (vrKey x) { v with
      samples := drawPrim v.samp v.dfunc v.tx v.ty v.clear v.samples (callWord x 2) (callWord x 0)
        (x.words.drop 3) }).unitReturn x [0]) := by
  rw [exec_vrPrim, execVrPrim, hev]
  dsimp only
  rw [hok, Bool.not_true, if_neg Bool.false_ne_true, hv]; dsimp only
  rw [if_neg (Nat.not_le.mpr hd)]

theorem exec_vrDone_open (hev : s.ev = .vrDone x) (hok : callOk x 3 2 8 false = true) (hd : v.dones < v.nsrc) :
    exec .vrDone s =
      let t := (s.setVr x.die (vrKey x) { v with dones := v.dones + 1 }).unitReturn x [0]
      .next (if v.dones + 1 = v.nsrc then t.postOnce (.vrSlotFinal x.die (x.ep % 256) (callField x 4 4)) else t) := by
  rw [exec_vrDone, execVrDone, hev]
  dsimp only
  rw [hok, Bool.not_true, if_neg Bool.false_ne_true, hv]; dsimp only
  rw [if_neg (Nat.not_le.mpr hd)]

theorem exec_vrWaitf_of (hev : s.ev = .vrWaitf x) (hok : callOk x 4 2 8 false = true) :
    exec .vrWaitf s = .next (if v.final then s.unitReturn x [0] else s.holdWaitf x) := by
  rw [exec_vrWaitf, execVrWaitf, hev]
  dsimp only
  rw [hok, Bool.not_true, if_neg Bool.false_ne_true, hv]

end

theorem exec_vrSlotFinal_written {die cluster n : Nat} {v : VrSlot} {o : Unit} {u : State}
    (hev : s.ev = .vrSlotFinal die cluster n) (hv : Cells.find? (s.die die).vr (cluster * 16 + n) = some v)
    (hf : v.final = false) (hd : v.nsrc ≤ v.dones) :
    let bs := visBytes v.samp v.clear v.samples
    let y := slotCall die v.session v.level v.team 2 cluster n v.gang
    s.slotPut y 2 cluster n (.vrSlotFinal die cluster n) v.vbuf.toNat v.vbuf.toNat bs.length (fun _ => bs) = .ok o u →
      exec .vrSlotFinal s = .next
        (((u.setVr die (cluster * 16 + n) { v with final := true }).progressSlot y).giveFinal die 2 cluster n) := by
  dsimp only
  intro hw
  rw [exec_vrSlotFinal, execVrSlotFinal, hev]
  dsimp only
  rw [hv]; dsimp only
  rw [if_neg (by rw [hf]; exact fun h => h.elim Bool.noConfusion (Nat.not_lt.mpr hd)), hw]

/-! The binning unit. -/

section
variable (hev : s.ev = .buOpenf x) (hok : callOk x 1 4 4 false = true)
include hev hok

theorem exec_buOpenf_misaligned (ha : callAddr x 2 % 64 ≠ 0) :
    exec .buOpenf s = .next (s.unitCause x 0xA1) := by
  rw [exec_buOpenf, execBuOpenf, hev]
  dsimp only
  rw [hok, Bool.not_true, if_neg Bool.false_ne_true, if_pos ha]

section
variable {bs : List Byte} {u : State} (ha : callAddr x 2 % 64 = 0) (hr : s.unitRead x (callAddr x 2) 64 = .ok bs u)
include ha hr

theorem exec_buOpenf_badFrame
    (hbad : frameBad (wordsOfBytes bs)
      (((u.stageQueue? x.session ((wordsOfBytes bs).getD 10 0).toNat).map (fun q => q.2.2.rsz)).getD 0) = true) :
    exec .buOpenf s = .next (u.unitCause x 0xA1) := by
  rw [exec_buOpenf, execBuOpenf, hev]
  dsimp only
  rw [hok, Bool.not_true, if_neg Bool.false_ne_true, if_neg (not_not_intro ha), hr]; dsimp only
  rw [if_pos hbad]

variable (hgood : frameBad (wordsOfBytes bs)
  (((u.stageQueue? x.session ((wordsOfBytes bs).getD 10 0).toNat).map (fun q => q.2.2.rsz)).getD 0) = false)
include hgood

theorem exec_buOpenf_full (hfree : (List.range 8).filter (fun k => (Cells.find? (u.die x.die).bu k).isNone) = []) :
    exec .buOpenf s = .next (u.unitReturn x [1]) := by
  rw [exec_buOpenf, execBuOpenf, hev]
  dsimp only
  rw [hok, Bool.not_true, if_neg Bool.false_ne_true, if_neg (not_not_intro ha), hr]; dsimp only
  rw [hgood, if_neg Bool.false_ne_true, hfree, List.getElem?_nil]

/-- A frame that has just been opened holds nothing. -/
def BuFrame.Fresh (f : BuFrame) : Prop := f.entries = [] ∧ f.cursor = 0 ∧ f.bovf = 0 ∧ f.slot = none

theorem exec_buOpenf_opens {k : Nat}
    (hk : ((List.range 8).filter (fun k => (Cells.find? (u.die x.die).bu k).isNone))[Config.newNumber u.tick %
      ((List.range 8).filter (fun k => (Cells.find? (u.die x.die).bu k).isNone)).length]? = some k) :
    ∃ f : BuFrame, exec .buOpenf s = .next ((u.setBu x.die k f).unitReturn x [0, BitVec.ofNat 32 k]) ∧ f.Fresh := by
  refine ⟨?frame, ?runs, ?fresh⟩
  case runs =>
    rw [exec_buOpenf, execBuOpenf, hev]
    dsimp only
    rw [hok, Bool.not_true, if_neg Bool.false_ne_true, if_neg (not_not_intro ha), hr]; dsimp only
    rw [hgood, if_neg Bool.false_ne_true, hk]
  case fresh => exact ⟨rfl, rfl, rfl, rfl⟩

end
end

theorem State.find?_setBu (u : State) {die : Nat} (k : Nat) (f : BuFrame) (h : die < u.dies.length) :
    Cells.find? ((u.setBu die k f).die die).bu k = some f := by
  rw [State.setBu, State.die_setDie_same u die _ h]
  exact Cells.find?_insert_same _ k f

theorem exec_buBin_room {f : BuFrame} {u : State} {o : Unit} (hev : s.ev = .buBin x)
    (hok : callOk x 2 12 7 (triBad (x.words.drop 3)) = true) (hf : s.buFrame? x = some f) (hres : f.resolving = false)
    (hroom : 48 * (f.entries.length + (f.tilesOf (x.words.drop 3)).length) ≤ f.asize)
    (hw : s.writeArena x f (f.tilesOf (x.words.drop 3)).length = .ok o u) :
    exec .buBin s = .next ((u.setBu x.die (callField x 4 3) { f with
      entries := f.entries ++ (f.tilesOf (x.words.drop 3)).map
        (fun t => (t, callWord x 0, callWord x 2, (x.words.drop 3).take 9)) }).unitReturn x [0]) := by
  have hfits : ¬ f.asize < 48 * (f.tilesOf (x.words.drop 3)).length := by omega
  have hgoes : ¬ (f.resolving = true ∨ f.asize < 48 * (f.entries.length + (f.tilesOf (x.words.drop 3)).length)) := by
    rw [hres]
    exact fun h => h.elim Bool.noConfusion (Nat.not_lt.mpr hroom)
  rw [exec_buBin, execBuBin, hev]
  dsimp only
  rw [hok, Bool.not_true, if_neg Bool.false_ne_true, hf]; dsimp only
  rw [if_neg hfits, if_neg hgoes, hw]

theorem exec_buClose_last {f : BuFrame} (hev : s.ev = .buClose x) (hok : callOk x 3 2 7 false = true)
    (hf : s.buFrame? x = some f) (hc : f.wtiles * f.htiles ≤ f.cursor) :
    exec .buClose s =
      .next ((s.setDie x.die { s.die x.die with bu := Cells.erase (s.die x.die).bu (callField x 4 3) }).unitReturn x
        [0, BitVec.ofNat 32 f.bovf, BitVec.ofNat 32 (f.wtiles * f.htiles)]) := by
  rw [exec_buClose, execBuClose, hev]
  dsimp only
  rw [hok, Bool.not_true, if_neg Bool.false_ne_true, hf]; dsimp only
  rw [if_pos hc]

/-! The blend unit. -/

theorem exec_bluOpen_free (hev : s.ev = .bluOpen x)
    (hok : callOk x 1 5 16 (decide (2 ≤ callField x 8 2) || decide (2 ≤ callField x 10 2) ||
      decide (callField x 12 4 = 0) || decide ((callWord x 4).toNat % 16 ≠ 0)) = true)
    (hfree : (Cells.find? (s.die x.die).blu (callField x 4 4)).any (fun v => !v.final) = false) :
    exec .bluOpen s = .next ((s.setBlu x.die (callField x 4 4)
      { final := false, session := x.session, fp16 := decide (callField x 8 2 = 1), overOp := decide (callField x 10 2 = 1),
        nsrc := callField x 12 4, dones := 0, base := BitVec.ofNat 57 (callAddr x 2), pitch := (callWord x 4).toNat,
        gang := x.gang, team := x.team, level := x.level, frags := [] }).unitReturn x [0]) := by
  rw [exec_bluOpen, execBluOpen, hev]
  dsimp only
  rw [hok, Bool.not_true, if_neg Bool.false_ne_true, hfree, if_neg Bool.false_ne_true]

section
variable {v : BluSlot} (hv : s.bluSlot? x = some v)
include hv

theorem exec_bluFrag_open (hev : s.ev = .bluFrag x) (hok : callOk x 2 6 26 (decide (callField x 8 8 ≠ 0)) = true)
    (hd : v.dones < v.nsrc) :
    exec .bluFrag s =
      if 4096 ≤ v.frags.length then .next (s.unitCause x 0xA3)
      else .next ((s.setBlu x.die (callField x 4 4) { v with
        frags := v.frags ++ [⟨callField x 16 10, callWord x 0, (x.words.drop 2).take 4⟩] }).unitReturn x [0]) := by
  rw [exec_bluFrag, execBluFrag, hev]
  dsimp only
  rw [hok, Bool.not_true, if_neg Bool.false_ne_true, hv]; dsimp only
  rw [if_neg (Nat.not_le.mpr hd)]

theorem exec_bluDone_notLast (hev : s.ev = .bluDone x) (hok : callOk x 3 2 8 false = true) (hd : v.dones + 1 < v.nsrc) :
    exec .bluDone s = .next ((s.setBlu x.die (callField x 4 4) { v with dones := v.dones + 1 }).unitReturn x [0]) := by
  rw [exec_bluDone, execBluDone, hev]
  dsimp only
  rw [hok, Bool.not_true, if_neg Bool.false_ne_true, hv]; dsimp only
  rw [if_neg (by omega), if_neg hd.ne]

theorem exec_bluWaitf_of (hev : s.ev = .bluWaitf x) (hok : callOk x 4 2 8 false = true) :
    exec .bluWaitf s = .next (if v.final then s.unitReturn x [0] else s.holdWaitf x) := by
  rw [exec_bluWaitf, execBluWaitf, hev]
  dsimp only
  rw [hok, Bool.not_true, if_neg Bool.false_ne_true, hv]

end

theorem exec_bluCommit_written {die n : Nat} {v : BluSlot} {o : Unit} {u : State} (hev : s.ev = .bluCommit die n)
    (hv : Cells.find? (s.die die).blu n = some v) (hf : v.final = false) (hd : v.nsrc ≤ v.dones) :
    let y := slotCall die v.session v.level v.team 3 0 n v.gang
    State.putPixels y v n (.bluCommit die n) (v.pixels s.tick) s = .ok o u →
    exec .bluCommit s = .next (((u.setBlu die n { v with final := true }).progressSlot y).giveFinal die 3 0 n) := by
  dsimp only
  intro hw
  rw [exec_bluCommit, execBluCommit, hev]
  dsimp only
  rw [hv]; dsimp only
  rw [if_neg (by rw [hf]; exact fun h => h.elim Bool.noConfusion (Nat.not_lt.mpr hd)), hw]

end

/-- Settles O49. -/
theorem visibilityAndBlendingServed : Obligations.VisibilityAndBlendingServed := by
  unfold Obligations.VisibilityAndBlendingServed
  intro s x
  refine ⟨?opens, fun hev hok => exec_vrOpen_bad hev hok, ?slot, fun die cluster n v o u => exec_vrSlotFinal_written,
    exec_buOpenf_misaligned, ?openf, ?bins, fun f => exec_buClose_last, exec_bluOpen_free, ?blends,
    fun die n v o u => exec_bluCommit_written⟩
  case opens =>
    intro hev hok
    dsimp only
    refine ⟨fun hb => ?_, fun hb => ?_⟩
    · exact (exec_vrOpen_of hev hok).trans (if_pos hb)
    · exact (exec_vrOpen_of hev hok).trans (if_neg (by rw [hb]; exact Bool.false_ne_true))
  case slot =>
    intro v hv
    refine ⟨exec_vrPrim_open hv, fun hev hok hd => ?_, fun hev hok hd => ?_, fun hev hok hf => ?_, fun hev hok hf => ?_⟩
    · rw [exec_vrDone_open hv hev hok (by omega)]; dsimp only; rw [if_neg hd.ne]
    · rw [exec_vrDone_open hv hev hok (by omega)]; dsimp only; rw [if_pos hd]
    · rw [exec_vrWaitf_of hv hev hok, if_pos hf]
    · rw [exec_vrWaitf_of hv hev hok, hf, if_neg Bool.false_ne_true]
  case openf =>
    intro bs u k hev hok ha hr
    dsimp only
    refine ⟨exec_buOpenf_badFrame hev hok ha hr, exec_buOpenf_full hev hok ha hr, fun hgood hk hd => ?_⟩
    obtain ⟨f, runs, he, hcur, hb, hs⟩ := exec_buOpenf_opens hev hok ha hr hgood hk
    exact ⟨_, f, runs, u.find?_setBu k f hd, he, hcur, hb, hs⟩
  case bins => exact fun f u o => exec_buBin_room
  case blends =>
    intro v hv
    refine ⟨fun hev hok hd hl => ?_, fun hev hok hd hl => ?_, exec_bluDone_notLast hv, fun hev hok hf => ?_,
      fun hev hok hf => ?_⟩
    · rw [exec_bluFrag_open hv hev hok hd, if_neg (Nat.not_le.mpr hl)]
    · rw [exec_bluFrag_open hv hev hok hd, if_pos hl]
    · rw [exec_bluWaitf_of hv hev hok, if_pos hf]
    · rw [exec_bluWaitf_of hv hev hok, hf, if_neg Bool.false_ne_true]

end Sys2Proof.Machine

/-! PROOFS. O50: calls of the texture, ray and encoder units. -/

namespace Sys2Proof.Machine

section
variable {s : State} {x : Call}

/-! The texture filter unit. -/

section
variable {bs : List Byte} {u : State} (hev : s.ev = .tfuSample x)
  (hok : callOk x 1 (if callField x 4 2 = 3 then 10 else 7) 12
    (decide (callField x 6 2 = 3) || decide (callAddr x 2 % 32 ≠ 0)) = true)
  (hr : s.unitRead x (callAddr x 2) 32 = .ok bs u)
include hev hok hr

theorem exec_tfuSample_filters {t : Texture} {ts : List (Nat × List FVal)} {w : State}
    (ht : texture? (wordsOfBytes bs) = some t) (hw : State.readTexels x t (t.taps x).1 u = .ok ts w) :
    exec .tfuSample s = .next (w.unitReturn x ((List.range 4).map (filtered ts (t.den * (t.taps x).2)))) := by
  rw [exec_tfuSample, execTfuSample, hev]
  dsimp only
  rw [hok, Bool.not_true, if_neg Bool.false_ne_true, hr]; dsimp only
  rw [ht]; dsimp only
  rw [hw]

theorem exec_tfuSample_noTexture (ht : texture? (wordsOfBytes bs) = none) :
    exec .tfuSample s = .next (u.unitCause x 0xA1) := by
  rw [exec_tfuSample, execTfuSample, hev]
  dsimp only
  rw [hok, Bool.not_true, if_neg Bool.false_ne_true, hr]; dsimp only
  rw [ht]

end

/-! The ray unit. -/

/-- The words that a TRACE returns for a hit, or for a miss. -/
def hitWords (tick : Nat) : Option RayHit → List Word
  | none => missWords tick
  | some h => h.words

theorem exec_ryuTrace_found {bs : List Byte} {u w : State} {h : Option RayHit} (hev : s.ev = .ryuTrace x)
    (hok : callOk x 1 12 6 (decide (callAddr x 2 % 128 ≠ 0)) = true) (hi : (rayOf x).idle = false)
    (hr : s.unitRead x (callAddr x 2) 8 = .ok bs u) (hw : u.bvhWritten x (callAddr x 2) = false)
    (ht : State.traverse x (rayOf x) (callAddr x 2) ((wordsOfBytes bs).getD 1 0).toNat 64
      ((wordsOfBytes bs).getD 0 0).toNat none u = .found h w) :
    exec .ryuTrace s = .next (w.unitReturn x (hitWords w.tick h)) := by
  rw [exec_ryuTrace, execRyuTrace, hev]
  dsimp only
  rw [hok, Bool.not_true, if_neg Bool.false_ne_true, hi, if_neg Bool.false_ne_true, hr]; dsimp only
  rw [hw, if_neg Bool.false_ne_true, ht]
  cases h with
  | none => rfl
  | some h => rfl

/-! The BVH optimiser. -/

/-- What BVO START enters of a BVH that is not under optimisation yet. -/
def Bvh.Entered (x : Call) (b : Bvh) : Prop :=
  b.session = x.session ∧ b.level = x.level ∧ b.gang = x.gang ∧ b.team = x.team

section
variable {bs : List Byte} {u : State} (hev : s.ev = .bvoStart x)
  (hok : callOk x 1 4 4 (decide (callAddr x 2 % 128 ≠ 0)) = true) (hr : s.unitRead x (callAddr x 2) 8 = .ok bs u)
  (hnew : ∀ b ∈ (u.die x.die).bvo, ¬ (b.session = x.session ∧ b.base.toNat = callAddr x 2))
include hnew

theorem bvo_any_false :
    (u.die x.die).bvo.any (fun b => decide (b.session = x.session) && decide (b.base.toNat = callAddr x 2)) = false :=
  List.any_eq_false.mpr fun b hb h => hnew b hb (by simpa using h)

include hev hok hr

theorem exec_bvoStart_enters (hl : (u.die x.die).bvo.length < 16) :
    ∃ b, exec .bvoStart s =
      .next ((u.setDie x.die { u.die x.die with bvo := (u.die x.die).bvo ++ [b] }).unitReturn x [0]) ∧ b.Entered x := by
  refine ⟨?b, ?runs, ?entered⟩
  case runs =>
    rw [exec_bvoStart, execBvoStart, hev]
    dsimp only
    rw [hok, Bool.not_true, if_neg Bool.false_ne_true, hr]; dsimp only
    rw [bvo_any_false hnew, if_neg Bool.false_ne_true, if_neg (Nat.not_le.mpr hl)]
  case entered => exact ⟨rfl, rfl, rfl, rfl⟩

theorem exec_bvoStart_full (hl : 16 ≤ (u.die x.die).bvo.length) : exec .bvoStart s = .next (u.unitReturn x [1]) := by
  rw [exec_bvoStart, execBvoStart, hev]
  dsimp only
  rw [hok, Bool.not_true, if_neg Bool.false_ne_true, hr]; dsimp only
  rw [bvo_any_false hnew, if_neg Bool.false_ne_true, if_pos hl]

end

/-- The BVH that a call of the BVO names. -/
def bvoMine (x : Call) (b : Bvh) : Bool := decide (b.session = x.session) && decide (b.base.toNat = callAddr x 2)

section
variable (hev : s.ev = .bvoStop x) (hok : callOk x 2 4 4 (decide (callAddr x 2 % 128 ≠ 0)) = true)
include hev hok

theorem exec_bvoStop_unknown (hb : (s.die x.die).bvo.find? (bvoMine x) = none) :
    exec .bvoStop s = .next (s.unitReturn x [2]) := by
  unfold bvoMine at hb
  rw [exec_bvoStop, execBvoStop, hev]
  dsimp only
  rw [hok, Bool.not_true, if_neg Bool.false_ne_true, hb]

theorem exec_bvoStop_waits {b : Bvh} (hb : (s.die x.die).bvo.find? (bvoMine x) = some b)
    (hf : s.freeLimbo x.die b = none) : exec .bvoStop s = .next (s.post (.bvoStop x)) := by
  unfold bvoMine at hb
  rw [exec_bvoStop, execBvoStop, hev]
  dsimp only
  rw [hok, Bool.not_true, if_neg Bool.false_ne_true, hb]; dsimp only
  rw [hf]

theorem exec_bvoStop_stops {b : Bvh} {u : State} (hb : (s.die x.die).bvo.find? (bvoMine x) = some b)
    (hf : s.freeLimbo x.die b = some u) :
    exec .bvoStop s = .next ((u.setDie x.die
      { u.die x.die with bvo := (u.die x.die).bvo.filter (fun b => !bvoMine x b) }).unitReturn x [0]) := by
  unfold bvoMine at hb ⊢
  rw [exec_bvoStop, execBvoStop, hev]
  dsimp only
  rw [hok, Bool.not_true, if_neg Bool.false_ne_true, hb]; dsimp only
  rw [hf]

end

section
variable {die : Nat} {base : VAddr} {parent child : Nat} {new : List (Nat × List Word)}
  (hev : s.ev = .bvoSubtreeReplace die base parent child new)
include hev

theorem exec_bvoSubtreeReplace_unknown (hb : (s.die die).bvo.find? (fun b => decide (b.base = base)) = none) :
    exec .bvoSubtreeReplace s = .next s := by
  rw [exec_bvoSubtreeReplace, execBvoSubtreeReplace, hev]
  dsimp only
  rw [hb]

theorem exec_bvoSubtreeReplace_frees {b : Bvh}
    (hb : (s.die die).bvo.find? (fun b => decide (b.base = base)) = some b) (hl : b.limbo ≠ []) :
    exec .bvoSubtreeReplace s = .next ((s.freeLimbo die b).getD s) := by
  rw [exec_bvoSubtreeReplace, execBvoSubtreeReplace, hev]
  dsimp only
  rw [hb]; dsimp only
  rw [if_pos hl]

end

/-! A replacement at ROOT. -/

/-- The words of a pool with the nodes of a replacement in place. -/
def poolWith (m : List Word) (new : List (Nat × List Word)) : List Word :=
  new.foldl (fun m e => poolSet m (128 * e.1) (fitList 0 32 e.2)) m

/-- The node that a replacement puts under the word it replaces. -/
def topOf (new : List (Nat × List Word)) : Nat := (new.map (·.1)).headD 0

/-- A replacement at ROOT is a tree of the same triangles in free nodes, with boxes that hold them (R302): `us` and `ks`
are its triangles and nodes, `ts` and `all` those of the BVH as it stands. -/
structure RootReplacement (b : Bvh) (m : List Word) (new : List (Nat × List Word)) (vers : Nat)
    (ts us : List (List Word)) (all ks : List Nat) : Prop where
  versions : b.vers = vers
  some_nodes : new.map (·.1) ≠ []
  free_nodes : (freeNodes m b.nodes (m.getD 2 0).toNat).take (new.map (·.1)).length = new.map (·.1)
  own_nodes : ∀ k ∈ ks, k ∈ new.map (·.1)
  triangles : sameBag ts us = true
  boxes : boxesHold (poolWith m new) b.nodes ks = true
  proper : all.Nodup

theorem RootReplacement.notRefused {b : Bvh} {m : List Word} {new : List (Nat × List Word)} {vers : Nat}
    {ts us : List (List Word)} {all ks : List Nat} (h : RootReplacement b m new vers ts us all ks) (far : Prop) :
    ¬ (b.vers ≠ vers ∨ new.map (·.1) = [] ∨
      (freeNodes m b.nodes (m.getD 2 0).toNat).take (new.map (·.1)).length ≠ new.map (·.1) ∨
      (ks.any (fun k => !decide (k ∈ new.map (·.1)))) = true ∨ (!sameBag ts us) = true ∨
      (!boxesHold (poolWith m new) b.nodes ks) = true ∨ (!decide all.Nodup) = true ∨ ((0 : Nat) = 0 ∧ (0 : Nat) ≠ 0) ∨
      ((0 : Nat) ≠ 0 ∧ far)) := by
  have hks : ks.any (fun k => !decide (k ∈ new.map (·.1))) = false :=
    List.any_eq_false.mpr fun k hk => by simp [h.own_nodes k hk]
  rw [hks, h.triangles, h.boxes, decide_eq_true h.proper]
  simp only [h.versions, h.some_nodes, h.free_nodes, ne_eq, not_true_eq_false, Bool.false_eq_true, Bool.not_true, and_false,
    false_and, or_false, not_false_eq_true]

theorem exec_bvoSubtreeReplace_root {die : Nat} {base : VAddr} {new : List (Nat × List Word)} {b : Bvh}
    {m : List Word} {u w : State} {all ks : List Nat} {ts us : List (List Word)}
    (hev : s.ev = .bvoSubtreeReplace die base 0 0 new)
    (hb : (s.die die).bvo.find? (fun b => decide (b.base = base)) = some b) (hl : b.limbo = [])
    (hm : s.bvhBytes (slotCall die b.session b.level b.team 6 0 0 b.gang) b.base.toNat b.nodes = some (m, u))
    (hall : subtree m b.nodes 64 (m.getD 0 0).toNat = some (ts, all))
    (hnew : subtree (poolWith m new) b.nodes 64 (topOf new) = some (us, ks))
    (hafter : (subtree (poolSet (poolWith m new) 0 [BitVec.ofNat 32 (topOf new)]) b.nodes 64
      ((poolSet (poolWith m new) 0 [BitVec.ofNat 32 (topOf new)]).getD 0 0).toNat).isSome = true)
    (h : RootReplacement b m new (u.bvhVersions b.session b.base.toNat b.nodes) ts us all ks)
    (hw : State.bvoWrites (slotCall die b.session b.level b.team 6 0 0 b.gang) b
      ([(8, [BitVec.ofNat 32 (((freeNodes m b.nodes (m.getD 2 0).toNat).drop (new.map (·.1)).length).headD 0)])] ++
        new.map (fun e => (128 * e.1, fitList 0 32 e.2)) ++ [(0, [BitVec.ofNat 32 (topOf new)])]) u = some w) :
    exec .bvoSubtreeReplace s = .next (w.setDie die { w.die die with
      bvo := (w.die die).bvo.map (fun c => if c = b then
        { b with vers := w.bvhVersions b.session b.base.toNat b.nodes, limbo := all, rays := w.tracing b } else c) }) := by
  obtain ⟨after, hafter⟩ := Option.isSome_iff_exists.mp hafter
  have hgo := h.notRefused
  unfold poolWith topOf at *
  rw [exec_bvoSubtreeReplace, execBvoSubtreeReplace, hev]
  dsimp only
  rw [hb]; dsimp only
  rw [if_neg (not_not_intro hl), hm]; dsimp only
  rw [if_pos rfl, hall, hnew, hafter]; dsimp only
  rw [if_neg (hgo _), hw]

/-! The frame encoder. -/

/-- A call of FEN OPENS names a stream that can be opened (R303). -/
structure FenOpensOk (x : Call) : Prop where
  form : callOk x 1 7 11 false = true
  width_units : fieldNat (callWord x 2) 0 16 % 8 = 0
  height_units : fieldNat (callWord x 2) 16 16 % 8 = 0
  width_pos : fieldNat (callWord x 2) 0 16 ≠ 0
  height_pos : fieldNat (callWord x 2) 16 16 ≠ 0
  width_le : fieldNat (callWord x 2) 0 16 ≤ 4096
  height_le : fieldNat (callWord x 2) 16 16 ≤ 2304
  codec : ¬ (callField x 9 1 = 1 ∧ callField x 10 1 = 0)
  base : callAddr x 4 % 4096 = 0
  size : (callWord x 6).toNat % 4096 = 0

theorem FenOpensOk.callOk {x : Call} (h : FenOpensOk x) :
    callOk x 1 7 11 (decide (fieldNat (callWord x 2) 0 16 % 8 ≠ 0) || decide (fieldNat (callWord x 2) 16 16 % 8 ≠ 0) ||
      decide (fieldNat (callWord x 2) 0 16 = 0) || decide (fieldNat (callWord x 2) 16 16 = 0) ||
      decide (4096 < fieldNat (callWord x 2) 0 16) || decide (2304 < fieldNat (callWord x 2) 16 16) ||
      (decide (callField x 9 1 = 1) && decide (callField x 10 1 = 0)) || decide (callAddr x 4 % 4096 ≠ 0) ||
      decide ((callWord x 6).toNat % 4096 ≠ 0)) = true := by
  have hcodec : (decide (callField x 9 1 = 1) && decide (callField x 10 1 = 0)) = false := by
    rw [← Bool.decide_and, decide_eq_false h.codec]
  rw [hcodec, h.width_units, h.height_units, h.base, h.size, decide_eq_false h.width_pos, decide_eq_false h.height_pos,
    decide_eq_false (Nat.not_lt.mpr h.width_le), decide_eq_false (Nat.not_lt.mpr h.height_le)]
  exact h.form

/-- A stream of a call that has just been opened. -/
def FenStream.Opened (x : Call) (v : FenStream) : Prop :=
  v.session = x.session ∧ v.width = fieldNat (callWord x 2) 0 16 ∧ v.height = fieldNat (callWord x 2) 16 16 ∧
    v.frames = 0 ∧ v.written = 0 ∧ v.free = (callWord x 6).toNat ∧ v.forceKey = false

theorem exec_fenOpens_taken (hev : s.ev = .fenOpens x) (h : FenOpensOk x)
    (ht : (Cells.find? (s.die x.die).fen (callField x 4 5)).isSome = true) :
    exec .fenOpens s = .next (s.unitReturn x [1]) := by
  rw [exec_fenOpens, execFenOpens, hev]
  dsimp only
  rw [h.callOk, Bool.not_true, if_neg Bool.false_ne_true, if_pos ht]

theorem exec_fenOpens_free (hev : s.ev = .fenOpens x) (h : FenOpensOk x)
    (ht : (Cells.find? (s.die x.die).fen (callField x 4 5)).isNone = true) :
    ∃ v : FenStream, exec .fenOpens s = .next ((s.setStream x.die (callField x 4 5) v).unitReturn x [0]) ∧ v.Opened x := by
  have hn : (Cells.find? (s.die x.die).fen (callField x 4 5)).isSome = false := by
    rw [← Option.not_isNone, ht]; rfl
  refine ⟨?v, ?runs, ?opened⟩
  case runs =>
    rw [exec_fenOpens, execFenOpens, hev]
    dsimp only
    rw [h.callOk, Bool.not_true, if_neg Bool.false_ne_true, hn, if_neg Bool.false_ne_true]
  case opened => exact ⟨rfl, rfl, rfl, rfl, rfl, rfl, rfl⟩

theorem State.find?_setStream (u : State) {die : Nat} (k : Nat) (v : FenStream) (h : die < u.dies.length) :
    Cells.find? ((u.setStream die k v).die die).fen k = some v := by
  rw [State.setStream, State.die_setDie_same u die _ h]
  exact Cells.find?_insert_same _ k v

/-- The unit that the encoder makes of a frame of a stream (log 21). -/
def FenStream.unit (v : FenStream) (x : Call) (luma chroma : List Byte) : List Byte :=
  Config.encodedUnit v.born v.served (v.forceKey || decide (callField x 9 1 = 1)) v.params (luma ++ chroma)

/-- The bytes of a row of a stream's frames. -/
def FenStream.row (v : FenStream) : Nat := if v.depth10 then 2 * v.width else v.width

section
variable {v : FenStream} {luma chroma : List Byte} {u1 u2 : State} (hev : s.ev = .fenFrame x)
  (hok : callOk x 2 7 10 false = true) (hv : s.stream? x = some v)
  (hl : State.readRows x (callAddr x 2) (callWord x 6).toNat v.row v.height s = .ok luma u1)
  (hc : State.readRows x (callAddr x 4) (callWord x 6).toNat v.row (v.height / 2) u1 = .ok chroma u2)
include hev hok hv hl hc

theorem exec_fenFrame_dropped (hroom : v.free < (v.unit x luma chroma).length) :
    exec .fenFrame s =
      .next ((u2.setStream x.die (callField x 4 5) { v with forceKey := true, served := v.served + 1 }).unitReturn x
        [5, Config.openWord u2.tick 0, Config.openWord u2.tick 1, Config.openWord u2.tick 2]) := by
  unfold FenStream.unit FenStream.row at *
  rw [exec_fenFrame, execFenFrame, hev]
  dsimp only
  rw [hok, Bool.not_true, if_neg Bool.false_ne_true, hv]; dsimp only
  rw [hl]; dsimp only
  rw [hc]; dsimp only
  rw [if_pos hroom]

theorem exec_fenFrame_written {o p : Unit} {u3 u4 : State} {bs : List Byte} (hbs : v.unit x luma chroma = bs)
    (hroom : bs.length ≤ v.free)
    (hfirst : u2.unitPut x (v.base.toNat + v.written % v.bytes) (bs.take (min bs.length (v.bytes - v.written % v.bytes))) =
      .ok o u3)
    (hrest : (if min bs.length (v.bytes - v.written % v.bytes) < bs.length then
      u3.unitPut x v.base.toNat (bs.drop (min bs.length (v.bytes - v.written % v.bytes))) else .ok () u3) = .ok p u4) :
    exec .fenFrame s = .next ((u4.setStream x.die (callField x 4 5)
      { v with
        written := v.written + bs.length
        free := v.free - bs.length
        frames := v.frames + 1
        forceKey := false
        served := v.served + 1 }).unitReturn x
          [0, BitVec.ofNat 32 (v.written % v.bytes), BitVec.ofNat 32 bs.length, BitVec.ofNat 32 (Config.frameBase + v.frames)]) := by
  unfold FenStream.unit FenStream.row at *
  rw [exec_fenFrame, execFenFrame, hev]
  dsimp only
  rw [hok, Bool.not_true, if_neg Bool.false_ne_true, hv]; dsimp only
  rw [hl]; dsimp only
  rw [hc]; dsimp only
  rw [hbs, if_neg (Nat.not_lt.mpr hroom), hfirst]; dsimp only
  rw [hrest]

end

section
variable {v : FenStream} (hv : s.stream? x = some v)
include hv

theorem exec_fenRelease_of (hev : s.ev = .fenRelease x) (hok : callOk x 3 3 9 false = true) :
    exec .fenRelease s = .next ((s.setStream x.die (callField x 4 5)
      { v with free := min v.bytes (v.free + (callWord x 2).toNat) }).unitReturn x [0]) := by
  rw [exec_fenRelease, execFenRelease, hev]
  dsimp only
  rw [hok, Bool.not_true, if_neg Bool.false_ne_true, hv]

theorem exec_fenCloses_of (hev : s.ev = .fenCloses x) (hok : callOk x 4 2 9 false = true) :
    exec .fenCloses s = .next ((s.setDie x.die
      { s.die x.die with fen := Cells.erase (s.die x.die).fen (callField x 4 5) }).unitReturn x [0]) := by
  rw [exec_fenCloses, execFenCloses, hev]
  dsimp only
  rw [hok, Bool.not_true, if_neg Bool.false_ne_true, hv]

end

theorem exec_unitReset_of {die typ inst : Nat} (hev : s.ev = .unitReset die typ inst) :
    exec .unitReset s = .next (if Config.unitLimit ≤ Cells.get 0 (s.die die).unitIdle (typ * 65536 + inst) then
      s.resetUnit die typ inst else s) := by
  rw [exec_unitReset, execUnitReset, hev]

end

/-- Settles O50. -/
theorem samplingTracingEncodingServed : Obligations.SamplingTracingEncodingServed := by
  unfold Obligations.SamplingTracingEncodingServed
  intro s x
  refine ⟨fun bs u t ts w hev hok hr => exec_tfuSample_filters hev hok hr, fun bs u => exec_tfuSample_noTexture, ?traces, fun _ => rfl, ?starts,
    ?stops, fun die base parent child new => exec_bvoSubtreeReplace_unknown,
    fun die base parent child new b hev => exec_bvoSubtreeReplace_frees hev, ?replaces, ?opens, ?frames, ?streams, ?resets⟩
  case traces =>
    intro bs u h w hev hok hi hr hw ht
    rw [exec_ryuTrace_found hev hok hi hr hw ht]
    cases h with
    | none => rfl
    | some h => rfl
  case starts =>
    intro bs u hev hok hr hnew
    refine ⟨fun hl hd => ?_, exec_bvoStart_full hev hok hr hnew⟩
    obtain ⟨b, runs, hs, hlv, hg, ht⟩ := exec_bvoStart_enters hev hok hr hnew hl
    refine ⟨_, b, runs, ?_, hs, hlv, hg, ht⟩
    rw [State.die_setDie_same u x.die _ hd]
  case stops =>
    intro hev hok
    exact ⟨exec_bvoStop_unknown hev hok, fun b => exec_bvoStop_waits hev hok, fun b u => exec_bvoStop_stops hev hok⟩
  case replaces =>
    intro die base new b m u all ts gone us ks z w hev hb hl
    dsimp only
    intro hm hall hold hnew hafter hv hne hfree hown hbag hbox hnd hw
    obtain ⟨rfl, rfl⟩ := Prod.mk.inj (Option.some.inj (hall.symm.trans hold))
    exact exec_bvoSubtreeReplace_root hev hb hl hm hall hnew hafter ⟨hv, hne, hfree, hown, hbag, hbox, hnd⟩ hw
  case opens =>
    intro hev
    dsimp only
    intro hok hw hh hw0 hh0 hwl hhl hcodec hbase hsize
    have hopens : FenOpensOk x := ⟨hok, hw, hh, hw0, hh0, hwl, hhl, hcodec, hbase, hsize⟩
    refine ⟨exec_fenOpens_taken hev hopens, fun hfree hd => ?_⟩
    obtain ⟨v, runs, hs, hvw, hvh, hfr, hwr, hfree', hkey⟩ := exec_fenOpens_free hev hopens hfree
    exact ⟨_, v, runs, s.find?_setStream _ v hd, hs, hvw, hvh, hfr, hwr, hfree', hkey⟩
  case frames =>
    intro v luma chroma u1 u2 hev hok hv
    dsimp only
    intro hl hc
    exact ⟨exec_fenFrame_dropped hev hok hv hl hc,
      fun o p u3 u4 hroom hfirst hrest => exec_fenFrame_written hev hok hv hl hc rfl hroom hfirst hrest⟩
  case streams => exact fun v hv => ⟨exec_fenRelease_of hv, exec_fenCloses_of hv⟩
  case resets =>
    intro die typ inst hev
    rw [exec_unitReset_of hev]
    exact ⟨fun h => by rw [if_pos h], fun h => by rw [if_neg (Nat.not_le.mpr h)]⟩

end Sys2Proof.Machine

/-! PROOFS. O51: fault records, reports, errors, and requests of the host. -/

namespace Sys2Proof.Machine

section
variable {s : State}

theorem exec_faultRecordWrite_record {r : FaultRec} {done : Bool} {t : State} (hev : s.ev = .faultRecordWrite r)
    (hp : s.putRing (s.sesPart r.session) 20 (faultWords r) = (done, t)) :
    exec .faultRecordWrite s = .next (if done then t else t.again (.faultRecordWrite r)) := by
  rw [exec_faultRecordWrite, execFaultRecordWrite, hev]
  dsimp only
  rw [hp]

theorem exec_faultRecordWrite_report {p : Nat} {ws : List Word} {done : Bool} {t : State}
    (hev : s.ev = .reportWrite p ws) (hp : s.putRing p 22 ws = (done, t)) :
    exec .faultRecordWrite s = .next (if done then t else t.again (.reportWrite p ws)) := by
  rw [exec_faultRecordWrite, execFaultRecordWrite, hev]
  dsimp only
  rw [hp]

/-! Errors. -/

theorem exec_uncorrectableError_completion {pa : Nat} {g : GangRef} {va : VAddr}
    (hev : s.ev = .uncorrectableError pa (.completion g va)) :
    exec .uncorrectableError s = .next ((s.countErr (dieOf g.core) 1).dataError g va) := by
  rw [exec_uncorrectableError, execUncorrectableError, hev]

/-- An error that no completion of the host link brought is of module memory, or is none. -/
theorem exec_uncorrectableError_memory {pa : Nat} {who : Finder} (hev : s.ev = .uncorrectableError pa who)
    (hw : ∀ g va, who ≠ .completion g va) :
    exec .uncorrectableError s =
      if !inModule pa then .next s
      else .next (if ((s.countErr (homeDie pa) 1).atollOf (pa / 4096)).isSome then
          (s.countErr (homeDie pa) 1).poisonFrame (pa / 4096)
        else (s.countErr (homeDie pa) 1).privateError (pa / 4096) who) := by
  rw [exec_uncorrectableError, execUncorrectableError, hev]
  cases who with
  | completion g va => exact absurd rfl (hw g va)
  | access _ _ => rfl
  | unit _ _ => rfl
  | scrubber => rfl

theorem exec_correctableError_counts {die : Nat} (hev : s.ev = .correctableError die) (hd : die < 4) :
    exec .correctableError s = .next (s.countErr die 0) := by
  rw [exec_correctableError, execCorrectableError, hev]
  dsimp only
  rw [if_pos hd]

/-! Answers of the host. -/

theorem exec_priResponse_known {die code : Nat} {f : Word} {x : Fid} (hev : s.ev = .priResponse die f code)
    (hx : (s.die die).fids.find? (fun y => decide (y.fid = f) && y.host) = some x) :
    exec .priResponse s = .next (if code = 0 then s.replay die x
      else if code = 1 ∨ code = 15 then s.cancel die x else s) := by
  rw [exec_priResponse, execPriResponse, hev]
  dsimp only
  rw [hx]

theorem exec_priResponse_gone {die code : Nat} {f : Word} (hev : s.ev = .priResponse die f code)
    (hx : ∀ y ∈ (s.die die).fids, y.fid = f → y.host = false) : exec .priResponse s = .next s := by
  have hnone : (s.die die).fids.find? (fun y => decide (y.fid = f) && y.host) = none :=
    List.find?_eq_none.mpr fun y hy h => by
      obtain ⟨hf, hh⟩ := (Bool.and_eq_true_iff).mp h
      rw [hx y hy (of_decide_eq_true hf)] at hh
      exact Bool.false_ne_true hh
  rw [exec_priResponse, execPriResponse, hev]
  dsimp only
  rw [hnone]

/-- An event is an access on its way to a page of the window of function `n`. -/
def usesHostPage (n a : Nat) (e : Event) : Bool :=
  match e with
  | .accessAtHome q => match q.place with
    | .host m h => decide (m = n) && decide (h / 4096 = a / 4096)
    | _ => false
  | _ => false

theorem usesHostPage_iff (n a : Nat) (e : Event) :
    usesHostPage n a e = true ↔ ∃ q h, e = .accessAtHome q ∧ q.place = .host n h ∧ h / 4096 = a / 4096 := by
  constructor
  · intro he
    unfold usesHostPage at he
    split at he
    next q =>
      split at he
      next m h hq =>
        obtain ⟨hm, hh⟩ := Bool.and_eq_true_iff.mp he
        obtain rfl := of_decide_eq_true hm
        exact ⟨q, h, rfl, hq, of_decide_eq_true hh⟩
      · exact absurd he Bool.false_ne_true
    · exact absurd he Bool.false_ne_true
  · rintro ⟨q, h, rfl, hq, hh⟩
    simp only [usesHostPage, hq, hh, decide_true, Bool.and_self]

theorem exec_atsInvalidation_of {n a : Nat} (hev : s.ev = .atsInvalidation n a) :
    exec .atsInvalidation s =
      if s.agenda.any (usesHostPage n a) then .next (s.postOnce (.atsInvalidation n a))
      else .next { s with ats := s.ats.filter (fun e => !(decide (e.1 = n) && decide (e.2.1 = a / 4096))) } := by
  rw [exec_atsInvalidation, execAtsInvalidation, hev]
  rfl

end

/-- Settles O51. -/
theorem faultsAreReported : Obligations.FaultsAreReported := by
  unfold Obligations.FaultsAreReported
  intro s
  refine ⟨fun r done t => exec_faultRecordWrite_record, fun p ws done t => exec_faultRecordWrite_report,
    fun pa g va => exec_uncorrectableError_completion, ?inMemory, ?elsewhere, ?counted, ?answered,
    fun die f code => exec_priResponse_gone, ?granted, ?dropped, ?waits⟩
  case inMemory =>
    intro pa who hev hw hm
    refine ⟨_, ?_, rfl⟩
    rw [exec_uncorrectableError_memory hev hw, hm, Bool.not_true, if_neg Bool.false_ne_true]
  case elsewhere =>
    intro pa who hev hw hm
    rw [exec_uncorrectableError_memory hev hw, hm, Bool.not_false, if_pos rfl]
  case counted =>
    intro die hev hd
    rw [exec_correctableError_counts hev hd, State.countErr]
  case answered =>
    intro die f x hx
    refine ⟨fun hev => ?_, fun hev => ?_, fun hev => ?_⟩
    · rw [exec_priResponse_known hev hx, if_pos rfl]
    · rw [exec_priResponse_known hev hx, if_neg (by decide), if_pos (by decide)]
    · rw [exec_priResponse_known hev hx, if_neg (by decide), if_pos (by decide)]
  case granted =>
    intro n a perm hev
    rw [exec_atsTranslationResponse, execAtsTranslationResponse, hev]
  case dropped =>
    intro n a hev hnone
    have hunused : s.agenda.any (usesHostPage n a) = false := List.any_eq_false.mpr fun e he hu => by
      obtain ⟨q, h, rfl, hq, hh⟩ := (usesHostPage_iff n a e).mp hu
      exact hnone q h he hq hh
    refine ⟨_, (exec_atsInvalidation_of hev).trans (if_neg (by rw [hunused]; exact Bool.false_ne_true)), fun e => ?_, rfl⟩
    rw [List.mem_filter, Bool.not_eq_true', ← Bool.decide_and, decide_eq_false_iff_not]
  case waits =>
    intro n a q h hev hq hp hh
    have hused : s.agenda.any (usesHostPage n a) = true :=
      List.any_eq_true.mpr ⟨_, hq, (usesHostPage_iff n a _).mpr ⟨q, h, rfl, hp, hh⟩⟩
    exact (exec_atsInvalidation_of hev).trans (if_pos hused)

end Sys2Proof.Machine

/-! PROOFS. O52: partitions, doorbells, attestation, freezes and debug access. -/

namespace Sys2Proof.Machine

section
variable {s : State} {r : Requester}

/-! Commands of the management space. -/

theorem exec_pcmdCommit_of {p : Nat} (hev : s.ev = .pcmdCommit p r) :
    exec .pcmdCommit s = .next (if s.started ∧ p < 32 then s.commitPart p (manages r) else s) := by
  rw [exec_pcmdCommit, execPcmdCommit, hev]

theorem exec_pcmdRelease_of {p : Nat} (hev : s.ev = .pcmdRelease p r) :
    exec .pcmdRelease s = .next (if s.started ∧ p < 32 ∧ manages r then s.releasePart p else s) := by
  rw [exec_pcmdRelease, execPcmdRelease, hev]

theorem exec_doorbell_of {n : Nat} {w : Word} (hev : s.ev = .doorbell n w r) :
    exec .doorbell s = .next (if s.started ∧ n < 4096 ∧ s.fnEnabled r.fn then s.ring r n w else s) := by
  rw [exec_doorbell, execDoorbell, hev]

theorem exec_attcmdGo_of {fn : Nat} {w : Word} (hev : s.ev = .attcmdGo fn w) :
    exec .attcmdGo s = .next (if s.started ∧ s.fnEnabled fn then s.attCommand fn w else s) := by
  rw [exec_attcmdGo, execAttcmdGo, hev]

theorem exec_attestationDone_busy {fn : Nat} (hev : s.ev = .attestationDone fn) (hb : (s.att fn).busy = true) :
    exec .attestationDone s = .next (s.setAtt fn
      { s.att fn with buf := Cells.write (s.att fn).buf 0 (s.report fn (s.att fn)), busy := false }) := by
  rw [exec_attestationDone, execAttestationDone, hev]
  dsimp only
  rw [if_pos hb]

theorem exec_dbgcmdFreeze_of {scope die cluster : Nat} (hev : s.ev = .dbgcmdFreeze scope die cluster) :
    exec .dbgcmdFreeze s = .next (if scopeOk scope die cluster then s.freezeOn scope die cluster else s) := by
  rw [exec_dbgcmdFreeze, execDbgcmdFreeze, hev]

theorem exec_dbgcmdThaw_of {scope die cluster : Nat} (hev : s.ev = .dbgcmdThaw scope die cluster) :
    exec .dbgcmdThaw s = .next (if scopeOk scope die cluster then s.thawStep scope die cluster else s) := by
  rw [exec_dbgcmdThaw, execDbgcmdThaw, hev]

theorem exec_dbgdataRead_of {fn off : Nat} (hev : s.ev = .dbgdataRead fn off) :
    exec .dbgdataRead s =
      .next (if s.fnEnabled fn ∧ off % 4 = 0 then { s with hostData := s.bar0 fn off } else s) := by
  rw [exec_dbgdataRead, execDbgdataRead, hev]

/-! A write to BAR0. -/

section
variable {off : Nat} {w : Word} (hev : s.ev = .mgmtRegisterWrite off w r)
include hev

theorem exec_mgmtRegisterWrite_ignored (h : s.fnEnabled r.fn = false ∨ off % 4 ≠ 0) :
    exec .mgmtRegisterWrite s = .next s := by
  rw [exec_mgmtRegisterWrite, execMgmtRegisterWrite, hev]
  exact if_pos (h.imp (fun h => by rw [h]; rfl) id)

variable (he : s.fnEnabled r.fn = true) (ho : off % 4 = 0)
include he ho

omit hev in
theorem mgmtWrite_served : ¬ ((!s.fnEnabled r.fn) = true ∨ off % 4 ≠ 0) := by
  rw [he]
  exact fun h => h.elim Bool.noConfusion fun h => h ho

theorem exec_mgmtRegisterWrite_physical (hf : r.fn = 0) (hoff : off ≠ 0x200000) :
    exec .mgmtRegisterWrite s = .next (s.mgmtWrite { r with host := true, level := 2, part := r.fn } off w) := by
  rw [exec_mgmtRegisterWrite, execMgmtRegisterWrite, hev]
  dsimp only
  rw [if_neg (mgmtWrite_served he ho), if_pos hf, if_neg fun h => hoff h.1]

theorem exec_mgmtRegisterWrite_freeze {done : Bool} {t : State} (hf : r.fn = 0) (hoff : off = 0x200000)
    (hop : fieldNat w 0 2 = 1) (hsc : scopeOk (fieldNat w 2 2) (fieldNat w 4 2) (fieldNat w 8 4) = true)
    (hst : s.started = true) (hs : s.freezeStep (fieldNat w 2 2) (fieldNat w 4 2) (fieldNat w 8 4) = (done, t)) :
    exec .mgmtRegisterWrite s = .next (if done then t else t.again (.mgmtRegisterWrite off w r)) := by
  rw [exec_mgmtRegisterWrite, execMgmtRegisterWrite, hev]
  dsimp only
  rw [if_neg (mgmtWrite_served he ho), if_pos hf, if_pos ⟨hoff, hop, hsc, hst⟩, hs]
  cases done with
  | false => rfl
  | true => rfl

theorem exec_mgmtRegisterWrite_virtual (hf : r.fn ≠ 0) :
    exec .mgmtRegisterWrite s =
      .next (((vfOffset off).map fun o => s.mgmtWrite { r with host := true, level := 2, part := r.fn } o w).getD s) := by
  rw [exec_mgmtRegisterWrite, execMgmtRegisterWrite, hev]
  dsimp only
  rw [if_neg (mgmtWrite_served he ho), if_neg hf]
  cases vfOffset off with
  | none => rfl
  | some o => rfl

end

/-! A stop and a step window. -/

section
variable {id : Nat} {c : Crew} (hc : s.crew? id = some c)
include hc

theorem exec_stopRecords_of {t : Trigger} (ht : c.trig = some t) (hs : c.stopped = false) (hev : s.ev = .stopRecords id) :
    exec .stopRecords s =
      if (s.die c.die).cyc < t.cycle + 4 ∨ !s.quiet c then .next (s.post (.stopRecords id))
      else .next (((State.putRecords c t (s.crewGangs c) s).map fun u =>
        ((u.showWaiters c (.stop id)).updCrew id (fun k => { k with stopped := true })).answerAll
          (fun w => decide (w = .stop id)) []).getD (s.post (.stopRecords id))) := by
  rw [exec_stopRecords, execStopRecords, hev]
  dsimp only
  rw [hc]; dsimp only
  rw [ht]; dsimp only
  rw [hs, if_neg Bool.false_ne_true]
  cases State.putRecords c t (s.crewGangs c) s with
  | none => rfl
  | some u => rfl

/-- The step window of a crew is over, and the form that waits for it is answered (R233). -/
def State.windowShut (s : State) (id : Nat) (c : Crew) : State :=
  ((s.showWaiters c (.step id)).updCrew id (fun k => { k with window := none })).answerAll
    (fun u => decide (u = .step id)) []

/-- A step window is due to close: by time, by a trap, or because every live group has issued (R233). -/
def StepWindow.due (w : StepWindow) (cyc : Nat) (x : Gang) : Bool :=
  decide (w.since + 64 ≤ cyc) || w.trapped ||
    x.groupList.all (fun e => w.issued.any (fun m => decide (m &&& x.groupSlices e ≠ 0)))

section
variable {w : StepWindow} (hw : c.window = some w) (hev : s.ev = .stepWindowClose id)
include hw hev

theorem exec_stepWindowClose_ended (hg : s.gang? w.gang = none) :
    exec .stepWindowClose s = .next (s.windowShut id c) := by
  rw [exec_stepWindowClose, execStepWindowClose, hev]
  dsimp only
  rw [hc]; dsimp only
  rw [hw]; dsimp only
  rw [hg]
  rfl

variable {x : Gang} (hg : s.gang? w.gang = some x)
include hg

theorem exec_stepWindowClose_waits
    (h : w.due (s.die c.die).cyc x = false ∨ x.raised.isSome = true ∨ s.settled w.gang x 0xFF = false) :
    exec .stepWindowClose s = .next (s.post (.stepWindowClose id)) := by
  rw [exec_stepWindowClose, execStepWindowClose, hev]
  dsimp only
  rw [hc]; dsimp only
  rw [hw]; dsimp only
  rw [hg]; dsimp only
  exact if_pos (h.imp (fun h => by rw [StepWindow.due] at h; rw [h]; rfl) (Or.imp_right fun h => by rw [h]; rfl))

theorem exec_stepWindowClose_closes {u1 u2 u3 : State} (hd : w.due (s.die c.die).cyc x = true) (hr : x.raised = none)
    (hs : s.settled w.gang x 0xFF = true)
    (h1 : s.putRecord c w.rank w.gnum 0 [dstatWord (x.groupList.any (s.groupWaits w.gang x)) (min 8 w.issued.length) 3 0
      (c.trig.any (fun t => decide (t.gang = some w.gang)))] = some u1)
    (h2 : u1.putRecord c w.rank w.gnum 16 [x.gstat, x.splitWord] = some u2)
    (h3 : u2.putRecord c w.rank w.gnum 32 x.recordTail = some u3) :
    exec .stepWindowClose s = .next (u3.windowShut id c) := by
  rw [StepWindow.due] at hd
  rw [exec_stepWindowClose, execStepWindowClose, hev]
  dsimp only
  rw [hc]; dsimp only
  rw [hw]; dsimp only
  rw [hg]; dsimp only
  rw [hd, hr, hs, if_neg (by decide), h1]; dsimp only
  rw [h2]; dsimp only
  rw [h3]
  rfl

end
end
end

/-- Settles O52. -/
theorem managementServed : Obligations.ManagementServed := by
  unfold Obligations.ManagementServed
  intro s r p
  refine ⟨?commits, ?commitsNot, ?releases, ?releasesNot, ?rings, ?ringsNot, ?attests, fun fn => exec_attestationDone_busy,
    ?freezes, ?thaws, ?reads, ?writes, ?noWrite, ?word, ?gang, ?special, ?errors, ?management,
    fun off w => exec_mgmtRegisterWrite_ignored, ?stops, ?windows⟩
  case commits =>
    intro hev hst hp
    rw [exec_pcmdCommit_of hev, if_pos ⟨hst, hp⟩]
  case commitsNot =>
    intro hev h
    rw [exec_pcmdCommit_of hev, if_neg]
    rintro ⟨hst, hp⟩
    exact h.elim (fun h => Bool.noConfusion (h.symm.trans hst)) (Nat.not_le.mpr hp)
  case releases =>
    intro hev hst hp hm
    rw [exec_pcmdRelease_of hev, if_pos ⟨hst, hp, hm⟩]
  case releasesNot =>
    intro hev hm
    rw [exec_pcmdRelease_of hev, if_neg]
    rintro ⟨-, -, h⟩
    exact Bool.noConfusion (hm.symm.trans h)
  case rings =>
    intro n w hev hst hn he
    rw [exec_doorbell_of hev, if_pos ⟨hst, hn, he⟩]
  case ringsNot =>
    intro n w hev he
    rw [exec_doorbell_of hev, if_neg]
    rintro ⟨-, -, h⟩
    exact Bool.noConfusion (he.symm.trans h)
  case attests =>
    intro fn w hev hst he
    rw [exec_attcmdGo_of hev, if_pos ⟨hst, he⟩]
  case freezes =>
    intro scope die cluster hev
    rw [exec_dbgcmdFreeze_of hev]
    exact ⟨fun h => by rw [if_pos h], fun h => by rw [h, if_neg Bool.false_ne_true]⟩
  case thaws =>
    intro scope die cluster hev
    rw [exec_dbgcmdThaw_of hev]
    exact ⟨fun h => by rw [if_pos h], fun h => by rw [h, if_neg Bool.false_ne_true]⟩
  case reads =>
    intro fn off hev
    rw [exec_dbgdataRead_of hev]
    refine ⟨fun he ho => by rw [if_pos ⟨he, ho⟩], fun h => ?_⟩
    rw [if_neg]
    rintro ⟨he, ho⟩
    exact h.elim (fun h => Bool.noConfusion (h.symm.trans he)) fun h => h ho
  case writes => exact fun w hev => by rw [exec_dbgdataWrite, execDbgdataWrite, hev]
  case noWrite => exact fun w h => by rw [State.dbgWrite, h]
  case word => exact fun w core o h => by rw [State.dbgWrite, h]
  case gang => exact fun w g x k h => by rw [State.dbgWrite, h]
  case special => exact fun w g x k n h => by rw [State.dbgWrite, h]
  case errors =>
    intro die i w hev hd hi
    rw [exec_errCounterWrite, execErrCounterWrite, hev]
    dsimp only
    rw [if_pos ⟨hd, hi⟩]
  case management =>
    intro off w hev he ho
    dsimp only
    refine ⟨exec_mgmtRegisterWrite_physical hev he ho, fun hf hoff hop hsc hst done t =>
      exec_mgmtRegisterWrite_freeze hev he ho hf hoff hop hsc hst, fun hf => ?_⟩
    rw [exec_mgmtRegisterWrite_virtual hev he ho hf]
    cases vfOffset off with
    | none => rfl
    | some o => rfl
  case stops =>
    intro id c t hc ht hs hev
    refine ⟨fun h => ?_, fun u hcyc hq hu => ?_⟩
    · rw [exec_stopRecords_of hc ht hs hev, if_pos (h.imp_right fun h => by rw [h]; rfl)]
    · rw [exec_stopRecords_of hc ht hs hev, hq, hu, if_neg fun h => h.elim (Nat.not_lt.mpr hcyc) Bool.noConfusion]
      rfl
  case windows =>
    intro id c w hc hw hev
    dsimp only
    exact ⟨exec_stepWindowClose_ended hc hw hev, fun x hg => ⟨exec_stepWindowClose_waits hc hw hev hg,
      fun u1 u2 u3 => exec_stepWindowClose_closes hc hw hev hg⟩⟩

end Sys2Proof.Machine

/-! PROOFS. O53: ports, routes and collectives of the fabric. -/

namespace Sys2Proof.Machine

section
variable {s : State}

/-! Ports and routes. -/

theorem exec_flitCheckFail_of {port : Nat} (hev : s.ev = .flitCheckFail port) :
    exec .flitCheckFail s = .next (if s.ports.getD port .down = .up then s.setPort port .retraining else s) := by
  rw [exec_flitCheckFail, execFlitCheckFail, hev]

theorem exec_portRetrained_of {port : Nat} (hev : s.ev = .portRetrained port) :
    exec .portRetrained s = .next (if s.ports.getD port .down = .retraining then s.setPort port .up else s) := by
  rw [exec_portRetrained, execPortRetrained, hev]

theorem exec_portDown_of {port : Nat} (hev : s.ev = .portDown port) :
    exec .portDown s =
      .next (if s.ports.getD port .down = .retraining then { s.setPort port .down with rerouting := true } else s) := by
  rw [exec_portDown, execPortDown, hev]

theorem exec_routesRecomputed_of {reach : BitVec 16} (hev : s.ev = .routesRecomputed reach) :
    exec .routesRecomputed s =
      if s.rerouting then .next ({ s with routed := reach, rerouting := false }.loseModules
        (fun k => decide (k ≠ s.mid % 16) && s.routed.getLsbD k && !reach.getLsbD k))
      else .next s := by
  rw [exec_routesRecomputed, execRoutesRecomputed, hev]

/-- The modules that are lost when module `k` leaves: itself, or every other one when it is this module (R388). -/
def State.losesWith (s : State) (k j : Nat) : Bool :=
  decide (j ≠ s.mid % 16) && (decide (j = k) || decide (k = s.mid % 16))

theorem State.losesWith_other {k : Nat} (h : k ≠ s.mid % 16) (j : Nat) : s.losesWith k j = decide (j = k) := by
  rw [State.losesWith, decide_eq_false h, Bool.or_false, ← Bool.decide_and]
  exact decide_eq_decide.mpr ⟨And.right, fun hj => ⟨hj ▸ h, hj⟩⟩

theorem exec_moduleLeavesArmada_of {k : Nat} (hev : s.ev = .moduleLeavesArmada k) :
    exec .moduleLeavesArmada s = .next
      ({ s with joined := BitVec.ofNat 16 (bitsNat (fun j => s.joined.getLsbD j && !s.losesWith k j) 16) }.loseModules
        (s.losesWith k)) := by
  rw [exec_moduleLeavesArmada, execModuleLeavesArmada, hev]
  rfl

/-! A complete collective. -/

section
variable {key : DWord} {seq : Word} {k : Collective} (hev : s.ev = .collectiveResult key seq)
include hev

theorem exec_collectiveResult_waits
    (hk : s.collectives.find? (fun k => decide (k.key = key) && decide (k.seq = seq) && k.complete && !k.returned) = some k)
    (hw : k.own.filter (fun z => k.crossDie && !s.engineHeld z.die z.session 2) ≠ []) :
    exec .collectiveResult s =
      .next (((k.own.filter (fun z => k.crossDie && !s.engineHeld z.die z.session 2)).foldl
        (fun t z => t.wantEngine z.die z.session 2) s).post (.collectiveResult key seq)) := by
  rw [exec_collectiveResult, execCollectiveResult, hev]
  dsimp only
  rw [hk]; dsimp only
  rw [if_pos hw]

theorem exec_collectiveResult_none (h : ∀ k ∈ s.collectives, k.complete = false ∨ k.returned = true) :
    exec .collectiveResult s = .next s := by
  have hnone : s.collectives.find? (fun k => decide (k.key = key) && decide (k.seq = seq) && k.complete && !k.returned) =
      none := List.find?_eq_none.mpr fun k hk hp => by
    obtain ⟨hc, hr⟩ := Bool.and_eq_true_iff.mp hp
    obtain ⟨-, hc⟩ := Bool.and_eq_true_iff.mp hc
    obtain h | h := h k hk
    · exact Bool.noConfusion (h.symm.trans hc)
    · rw [h] at hr
      exact Bool.noConfusion hr
  rw [exec_collectiveResult, execCollectiveResult, hev]
  dsimp only
  rw [hnone]

theorem exec_collectiveResult_written {src : List (Nat × List DWord)} {ds : List (Call × List (Place × Nat))} {u w : State}
    (hk : s.collectives.find? (fun k => decide (k.key = key) && decide (k.seq = seq) && k.complete && !k.returned) = some k)
    (hw : k.own.filter (fun z => k.crossDie && !s.engineHeld z.die z.session 2) = []) :
    let y := (k.calls.map (·.1)).headD default
    let n := (callWord y 5).toNat
    let size := elemBytes (callField y 8 3)
    State.readSources k n size k.calls s = .ok src u → State.reachDests k (n * size) k.own u = .ok ds w →
    let bs := (k.result (callField y 4 4) (callField y 8 3) (callField y 16 10) n src).flatMap
      (fun e => bytesOf e.toNat size)
    let t := ds.foldl (fun t d => t.unitWrite d.1 d.2 bs) w
    exec .collectiveResult s = .next (k.own.foldl (fun t z => t.unitReturn z [0])
      { t with collectives := t.collectives.map (fun j => if j = k then { k with returned := true } else j) }) := by
  dsimp only
  intro hs hd
  rw [exec_collectiveResult, execCollectiveResult, hev]
  dsimp only
  rw [hk]; dsimp only
  rw [if_neg (not_not_intro hw), hs]; dsimp only
  rw [hd]

end
end

/-- Settles O53. -/
theorem fabricServed : Obligations.FabricServed := by
  unfold Obligations.FabricServed
  intro s port x m
  refine ⟨?fails, ?failsNot, ?up, ?down, ?routes, ?routesNot, ?leaves, ?allreduce, ?broadcast, ?result,
    fun key seq k hev hk hw => exec_collectiveResult_waits hev hk hw, fun key seq => exec_collectiveResult_none⟩
  case fails => exact fun hev h => by rw [exec_flitCheckFail_of hev, if_pos h, State.setPort]
  case failsNot => exact fun hev h => by rw [exec_flitCheckFail_of hev, if_neg h]
  case up => exact fun hev h => by rw [exec_portRetrained_of hev, if_pos h, State.setPort]
  case down =>
    intro hev h
    rw [exec_portDown_of hev, if_pos h]
    rfl
  case routes => exact fun reach hev h => by rw [exec_routesRecomputed_of hev, if_pos h]
  case routesNot => exact fun reach hev h => by rw [exec_routesRecomputed_of hev, h, if_neg Bool.false_ne_true]
  case leaves =>
    intro k hev
    refine ⟨_, exec_moduleLeavesArmada_of hev, fun hk j hj => ?_⟩
    rw [getLsbD_ofNat_bitsNat _ hj, State.losesWith_other hk]
  case allreduce => exact fun hev => by rw [exec_collectiveAllreduce, execCollectiveAllreduce, hev]
  case broadcast => exact fun hev => by rw [exec_collectiveBroadcast, execCollectiveBroadcast, hev]
  case result =>
    intro key seq k src u ds w
    dsimp only
    intro hev hk hw hs hd
    exact exec_collectiveResult_written hev hk hw hs hd

end Sys2Proof.Machine

/-! PROOFS. O55: a step runs the decoded instruction, an event or an input. -/

namespace Sys2Proof.Machine

/-! What a turn comes to. -/

/-- What the issue choice of a core comes to. -/
def Chosen.run (c : Chosen) : Host.Outcome State Fault Refusal := (c.instr.map fun i => exec i c.state).getD (.next c.state)

section
variable {s : State} (hp : s.powered = true)
include hp

theorem step_issue {core : Nat} (ht : s.turn = .issue core) : step s = (s.begin.choose core).run := by
  rw [step, hp, Bool.not_true, if_neg Bool.false_ne_true, ht]
  dsimp only
  cases s.begin.choose core with
  | mk i u =>
    cases i with
    | none => rfl
    | some i => rfl

theorem step_event {k : Nat} {e : Event} (ht : s.turn = .event k) (he : s.begin.agenda[k]? = some e) :
    step s = if s.begin.heldBack k e then .next s.begin
      else exec e.row { s.begin with agenda := s.begin.agenda.eraseIdx k, ev := e } := by
  rw [step, hp, Bool.not_true, if_neg Bool.false_ne_true, ht]
  dsimp only
  rw [he]
  rfl

theorem step_input {e : Event} (ht : s.turn = .input e) (ho : fromOutside e = true) :
    step s = if sameFn s.begin.agenda e then .next (s.begin.post e) else exec e.row { s.begin with ev := e } := by
  rw [step, hp, Bool.not_true, if_neg Bool.false_ne_true, ht]
  dsimp only
  rw [ho, Bool.not_true, if_neg Bool.false_ne_true]
  rfl

theorem step_retest {core slot e : Nat} (ht : s.turn = .retest core slot e) :
    step s = .next (s.begin.retest core slot e) := by
  rw [step, hp, Bool.not_true, if_neg Bool.false_ne_true, ht]

theorem step_cycles {die n : Nat} (ht : s.turn = .cycles die n) : step s = .next (s.begin.pass die n) := by
  rw [step, hp, Bool.not_true, if_neg Bool.false_ne_true, ht]

end

/-! The issue choice. -/

section
variable {b : State} {core : Nat} {r : Ready} {x : Gang}

theorem State.choose_ready (hport : (b.core core).ports.port < 4) (hr : bestReady (b.readyGroups core) = some r)
    (hx : Cells.find? (b.core core).gangs r.slot = some x) : b.choose core = b.issueGroup core r x := by
  rw [State.choose]
  dsimp only
  rw [if_neg (Nat.not_le.mpr hport), hr]
  dsimp only
  rw [hx]

theorem State.issueGroup_form {f : FormHold} (hf : x.form? r.entry = some f) :
    b.issueGroup core r x = ⟨some f.instr, { b with cur := f.cur }⟩ := by
  rw [State.issueGroup]
  dsimp only
  rw [hf]

variable (hf : b.Fetches ⟨core, r.slot, x.gid⟩ x r.entry (x.slice (x.lead (x.groupSlices r.entry))).pc)
include hf

/-- A group that fetches owes no trap. -/
theorem State.Fetches.noTrap : ¬ (x.owesTrap = true ∧ (!x.trap.tcause.getLsbD 15) = true) := by
  obtain ⟨-, h | h, -⟩ := hf
  · rw [h]; exact fun h => Bool.false_ne_true h.1
  · rw [h]; exact fun h => Bool.false_ne_true h.2

/-- No fetch watchpoint stops a group that fetches. -/
theorem State.Fetches.notWatched :
    (if (x.group r.entry).cleared then none
      else b.watchFetch ⟨core, r.slot, x.gid⟩ x (x.slice (x.lead (x.groupSlices r.entry))).pc) = none := by
  obtain ⟨-, -, h | h⟩ := hf
  · rw [if_pos h]
  · rw [h, ite_self]

theorem State.issueGroup_seq {u : State} {cur : IssueCtx} {i : Instr}
    (hs : b.fetch ⟨core, r.slot, x.gid⟩ x r.entry = (.seq cur (.ok i) true, u)) :
    b.issueGroup core r x =
      ⟨some i, ({ u with cur := cur } : State).noteIssue core r
        (some (i, (x.slice (x.lead (x.groupSlices r.entry))).mode))⟩ := by
  rw [State.issueGroup]
  dsimp only
  rw [hf.1]; dsimp only
  rw [if_neg hf.noTrap, hf.notWatched]; dsimp only
  rw [hs]; dsimp only
  rw [Bool.not_true, if_neg Bool.false_ne_true]

theorem State.issueGroup_unassigned {u : State} {cur : IssueCtx} {w : Word}
    (hs : b.fetch ⟨core, r.slot, x.gid⟩ x r.entry = (.seq cur (.unassigned w) true, u)) :
    b.issueGroup core r x = ⟨some .illegalOpcode, ({ u with cur := cur } : State).noteIssue core r none⟩ := by
  rw [State.issueGroup]
  dsimp only
  rw [hf.1]; dsimp only
  rw [if_neg hf.noTrap, hf.notWatched]; dsimp only
  rw [hs]; dsimp only
  rw [Bool.not_true, if_neg Bool.false_ne_true]

section
variable {u : State} {cur : IssueCtx} {w : Word}
  (hs : b.fetch ⟨core, r.slot, x.gid⟩ x r.entry = (.seq cur (decode w) true, u))
include hs

theorem State.issueGroup_runs {i : Instr} (hd : decode w = .ok i) :
    (b.issueGroup core r x).run = exec i (({ u with cur := cur } : State).noteIssue core r
      (some (i, (x.slice (x.lead (x.groupSlices r.entry))).mode))) := by
  rw [hd] at hs
  rw [State.issueGroup_seq hf hs]
  rfl

theorem State.issueGroup_runsIllegal (hd : decode w = .unassigned w) :
    (b.issueGroup core r x).run = exec .illegalOpcode (({ u with cur := cur } : State).noteIssue core r none) := by
  rw [hd] at hs
  rw [State.issueGroup_unassigned hf hs]
  rfl

end
end

/-! The words of a sequence. -/

theorem State.words_cons {s u : State} {a : Ask} {pc : PC} {w : Word} {ws : List Word} (h : s.Words a pc (w :: ws) u) :
    ∃ p t, s.fetchWord a pc = (.ok p, w, t) ∧ t.Words a (pc + 1) ws u := h

theorem State.words_nil {s u : State} {a : Ask} {pc : PC} (h : s.Words a pc [] u) : u = s := h

section
variable {s u : State} {a : Ask} {cur : IssueCtx} {pc : PC} {w : Word} (hw : opByte w ≠ 0xFC) (hl : opByte w ≠ 0xFD)
include hw hl

/-- The rest of a sequence that is its instruction word alone. -/
theorem State.fetchBody_word :
    s.fetchBody a cur pc w = (.seq { cur with iaddr := pc, next := pc + 1, lit := none } (decode w) true, s) := by
  rw [State.fetchBody, if_neg hl, decide_eq_true hw]

/-- The rest of a sequence that is a LIT with its literal and the instruction word. -/
theorem State.fetchBody_lit {l : Word} (h : s.Words a (pc + 1) [l, w] u) :
    s.fetchBody a cur pc 0xFD000000 =
      (.seq { cur with iaddr := pc + 2, next := pc + 3, lit := some l } (litDecoded false (decode w)) true, u) := by
  obtain ⟨p, t, hlit, h⟩ := State.words_cons h
  obtain ⟨q, t', hword, h⟩ := State.words_cons h
  obtain rfl := State.words_nil h
  rw [BitVec.add_assoc] at hword
  rw [State.fetchBody, if_pos (by decide), hlit]; dsimp only
  rw [show pc + 2 = pc + (1 + 1) from rfl, hword]; dsimp only
  rw [decide_eq_true hw, decide_eq_true hl]
  rfl

end

theorem litDecoded_false (d : Decoded) : litDecoded false d = d := by
  cases d with
  | ok i => rfl
  | reserved i => rfl
  | unassigned w => rfl

section
variable {s : State} {g : GangRef} {x : Gang} {e : Nat} {pc : PC} (hpc : (x.slice (x.lead (x.groupSlices e))).pc = pc)
include hpc

/-- The sequence of a group at an address, before its words are known. -/
def seqAt (g : GangRef) (x : Gang) (e : Nat) (pc k n : PC) (routed : Bool) (ra rb rc : BitVec 8) (l : Option Word) :
    IssueCtx := ⟨g, e, x.groupSlices e, pc, pc + k, pc + n, routed, ra, rb, rc, l⟩

theorem State.fetch_unrouted {p : Place} {w : Word} {t : State}
    (h : s.fetchWord (askOf (s.core g.core) g.core x 2 40) pc = (.ok p, w, t)) (hw : opByte w ≠ 0xFC) :
    s.fetch g x e = t.fetchBody (askOf (s.core g.core) g.core x 2 40)
      ⟨g, e, x.groupSlices e, pc, pc, pc + 1, false, 0, 0, 0, none⟩ pc w := by
  rw [State.fetch]
  dsimp only
  rw [hpc, h]; dsimp only
  rw [if_neg hw]

theorem State.fetch_routed {p q : Place} {z w : Word} {t u : State}
    (h : s.fetchWord (askOf (s.core g.core) g.core x 2 40) pc = (.ok p, z, t)) (hz : opByte z = 0xFC)
    (h' : t.fetchWord (askOf (s.core g.core) g.core x 2 40) (pc + 1) = (.ok q, w, u)) :
    s.fetch g x e = u.fetchBody (askOf (s.core g.core) g.core x 2 40)
      ⟨g, e, x.groupSlices e, pc, pc, pc + 1, true, z.extractLsb' 16 8, z.extractLsb' 8 8, z.extractLsb' 0 8, none⟩
      (pc + 1) w := by
  rw [State.fetch]
  dsimp only
  rw [hpc, h]; dsimp only
  rw [if_pos hz, h']

section
variable {w : Word} {u : State} (hw : opByte w ≠ 0xFC) (hl : opByte w ≠ 0xFD)
include hw hl

theorem State.fetch_word (h : s.Words (askOf (s.core g.core) g.core x 2 40) pc [w] u) :
    s.fetch g x e = (.seq (seqAt g x e pc 0 1 false 0 0 0 none) (decode w) true, u) := by
  obtain ⟨p, t, hword, h⟩ := State.words_cons h
  obtain rfl := State.words_nil h
  rw [State.fetch_unrouted hpc hword hw, State.fetchBody_word hw hl, seqAt, show pc + 0 = pc from BitVec.add_zero pc]

theorem State.fetch_lit {l : Word} (h : s.Words (askOf (s.core g.core) g.core x 2 40) pc [0xFD000000, l, w] u) :
    s.fetch g x e = (.seq (seqAt g x e pc 2 3 false 0 0 0 (some l)) (decode w) true, u) := by
  obtain ⟨p, t, hprefix, h⟩ := State.words_cons h
  rw [State.fetch_unrouted hpc hprefix (by decide), State.fetchBody_lit hw hl h, litDecoded_false, seqAt]

theorem State.fetch_route {z : Word} (hz : opByte z = 0xFC)
    (h : s.Words (askOf (s.core g.core) g.core x 2 40) pc [z, w] u) :
    s.fetch g x e = (.seq (seqAt g x e pc 1 2 true (z.extractLsb' 16 8) (z.extractLsb' 8 8) (z.extractLsb' 0 8) none)
      (decode w) true, u) := by
  obtain ⟨p, t, hprefix, h⟩ := State.words_cons h
  obtain ⟨q, t', hword, h⟩ := State.words_cons h
  obtain rfl := State.words_nil h
  rw [State.fetch_routed hpc hprefix hz hword, State.fetchBody_word hw hl, seqAt, BitVec.add_assoc]
  rfl

theorem State.fetch_route_lit {z l : Word} (hz : opByte z = 0xFC)
    (h : s.Words (askOf (s.core g.core) g.core x 2 40) pc [z, 0xFD000000, l, w] u) :
    s.fetch g x e =
      (.seq (seqAt g x e pc 3 4 true (z.extractLsb' 16 8) (z.extractLsb' 8 8) (z.extractLsb' 0 8) (some l)) (decode w) true,
        u) := by
  obtain ⟨p, t, hprefix, h⟩ := State.words_cons h
  obtain ⟨q, t', hlit, h⟩ := State.words_cons h
  rw [State.fetch_routed hpc hprefix hz hlit, State.fetchBody_lit hw hl h, litDecoded_false, seqAt, BitVec.add_assoc,
    BitVec.add_assoc]
  rfl

end
end

/-- Settles O55. -/
theorem stepRuns : Obligations.StepRuns := by
  unfold Obligations.StepRuns
  intro s hp
  dsimp only
  refine ⟨fun core r x ht hport hr hx hf => ?issues, fun core r x f ht hport hr hx hform => ?form,
    fun k e => step_event hp, fun e => step_input hp, fun core slot e => step_retest hp, fun die n => step_cycles hp⟩
  case issues =>
    have hstep : step s = (s.begin.issueGroup core r x).run := by
      rw [step_issue hp ht, State.choose_ready hport hr hx]
    generalize s.begin = b at hport hr hx hf hstep
    rw [hstep]
    refine ⟨fun w u i hw h1 h2 hd => ?_, fun z l w u i hw hz h1 h2 hd => ?_, fun z w u i hw hz h1 h2 hd => ?_,
      fun z y l w u i hw hz hy h1 h2 hd => ?_, fun w u hw h1 h2 hd => ?_⟩
    · exact State.issueGroup_runs hf (State.fetch_word (g := ⟨core, r.slot, x.gid⟩) rfl h1 h2 hw) hd
    · subst hz
      exact State.issueGroup_runs hf (State.fetch_lit (g := ⟨core, r.slot, x.gid⟩) rfl h1 h2 hw) hd
    · exact State.issueGroup_runs hf (State.fetch_route (g := ⟨core, r.slot, x.gid⟩) rfl h1 h2 hz hw) hd
    · subst hy
      exact State.issueGroup_runs hf (State.fetch_route_lit (g := ⟨core, r.slot, x.gid⟩) rfl h1 h2 hz hw) hd
    · exact State.issueGroup_runsIllegal hf (State.fetch_word (g := ⟨core, r.slot, x.gid⟩) rfl h1 h2 hw) hd
  case form =>
    rw [step_issue hp ht, State.choose_ready hport hr hx, State.issueGroup_form hform]
    rfl

end Sys2Proof.Machine

/-! PROOFS. O57 and O59: what reset and a launch leave, and the words that the spec writes out. -/

namespace Sys2Proof

section
variable {α β : Type} (key : β → Nat) (val : β → α)

theorem Cells.find?_foldl_insert_absent {ps : List β} {n : Nat} (h : ∀ p ∈ ps, key p ≠ n) (c : Cells α) :
    Cells.find? (ps.foldl (fun c p => Cells.insert c (key p) (val p)) c) n = Cells.find? c n := by
  induction ps generalizing c with
  | nil => rfl
  | cons p ps ih =>
    rw [List.foldl_cons, ih fun q hq => h q (List.mem_cons_of_mem p hq),
      Cells.find?_insert_other c (key p) n (val p) (h p List.mem_cons_self).symm]

/-- Insertions under different keys are all there afterwards. -/
theorem Cells.find?_foldl_insert {ps : List β} (hk : (ps.map key).Nodup) {p : β} (hp : p ∈ ps) (c : Cells α) :
    Cells.find? (ps.foldl (fun c p => Cells.insert c (key p) (val p)) c) (key p) = some (val p) := by
  induction ps generalizing c with
  | nil => exact absurd hp List.not_mem_nil
  | cons q ps ih =>
    obtain ⟨hq, hps⟩ := List.nodup_cons.mp hk
    rw [List.foldl_cons]
    obtain rfl | hp := List.mem_cons.mp hp
    · rw [Cells.find?_foldl_insert_absent key val fun r hr he => hq (List.mem_map.mpr ⟨r, hr, he⟩)]
      exact Cells.find?_insert_same c (key p) (val p)
    · exact ih hps hp _

end

theorem List.map_snd_zip_sublist {α β : Type} (l : List α) (k : List β) : ((l.zip k).map Prod.snd).Sublist k := by
  induction l generalizing k with
  | nil => exact List.nil_sublist k
  | cons a l ih =>
    cases k with
    | nil => exact List.Sublist.refl []
    | cons b k => exact (ih k).cons_cons b

end Sys2Proof

namespace Sys2Proof.Machine

/-! A gang at launch. -/

theorem launchGang_slice (r : TeamRec) (gid team num base : Nat) {n : Nat} (hn : n < 8) :
    (launchGang r gid team num base).slice n =
      { live := decide (n < r.slices), pc := r.entry, mask := 0b1111#4, mode := r.mode, rstack := [], lstack := [],
        stop := .running } := by
  rw [Gang.slice, List.getD_eq_getElem?_getD, launchGang, List.getElem?_map, List.getElem?_range hn]
  rfl

/-! A team at launch. -/

theorem CoreSt.freeSlots_nodup (c : CoreSt) : c.freeSlots.Nodup := List.nodup_range.filter _

/-- A team that fits takes a free slot and a free range of the store. -/
theorem CoreSt.fits_places {c : CoreSt} {r : TeamRec} (h : c.fits r = true) :
    (∃ t, c.freeTeam = some t) ∧ (∃ b, c.findBase (TeamBytes r) = some b) ∧ r.gangs ≤ c.freeSlots.length := by
  simp only [CoreSt.fits, Bool.and_eq_true, decide_eq_true_eq, Option.isSome_iff_exists] at h
  obtain ⟨⟨⟨ht, hg⟩, hb⟩, -⟩ := h
  exact ⟨ht, hb, hg⟩

/-- A launched team's gang takes one of the lowest free slots. -/
theorem launchGangs_find? (r : TeamRec) (c : CoreSt) (gid t b : Nat) (gs : Cells Gang) {num slot : Nat}
    (hnum : num < r.gangs) (hslot : c.freeSlots[num]? = some slot) :
    Cells.find? ((List.zip (List.range r.gangs) c.freeSlots).foldl
      (fun gs p => Cells.insert gs p.2 (launchGang r (gid + p.1) t p.1 b)) gs) slot =
      some (launchGang r (gid + num) t num b) := by
  have hmem : (num, slot) ∈ List.zip (List.range r.gangs) c.freeSlots :=
    List.mem_of_getElem? (List.getElem?_zip_eq_some.mpr ⟨List.getElem?_range hnum, hslot⟩)
  exact Cells.find?_foldl_insert Prod.snd (fun p => launchGang r (gid + p.1) t p.1 b)
    (c.freeSlots_nodup.sublist (List.map_snd_zip_sublist _ _)) hmem gs

/-- The ring and count registers of a team are 0. -/
def Team.Idle (tm : Team) : Prop :=
  tm.rdesc = List.replicate 8 0 ∧ tm.rprod = List.replicate 8 0 ∧ tm.rcons = List.replicate 8 0 ∧
    tm.cwp = List.replicate 4 0

theorem CoreSt.launch_places {c : CoreSt} {r : TeamRec} (tid session crew rank : Nat) (arg : DWord) (k2 : Word)
    (gid : Nat) {t b : Nat} (ht : c.freeTeam = some t) (hb : c.findBase (TeamBytes r) = some b) :
    (∃ tm, Cells.find? (c.launch r tid session crew rank arg k2 gid).teams t = some tm ∧ tm.session = session ∧
      tm.base = b ∧ tm.rank = rank ∧ tm.Idle) ∧
    (c.launch r tid session crew rank arg k2 gid).gangs = (List.zip (List.range r.gangs) c.freeSlots).foldl
      (fun gs p => Cells.insert gs p.2 (launchGang r (gid + p.1) t p.1 b)) c.gangs := by
  rw [CoreSt.launch, ht, hb]
  exact ⟨⟨_, Cells.find?_insert_same _ _ _, rfl, rfl, rfl, rfl, rfl, rfl, rfl⟩, rfl⟩

theorem reset_die {d : Nat} (hd : d < 4) : State.reset.die d = DieSt.init := by
  change (List.replicate 4 DieSt.init).getD d DieSt.init = DieSt.init
  rw [List.getD_eq_getElem?_getD, List.getElem?_replicate, if_pos hd]
  rfl

/-- Settles O57. -/
theorem resetAndLaunchLeave : Obligations.ResetAndLaunchLeave := by
  unfold Obligations.ResetAndLaunchLeave
  refine ⟨⟨rfl, rfl, rfl, rfl, rfl, rfl, rfl, fun _ => rfl, rfl, ⟨rfl, rfl⟩, fun d hd => ?die⟩, fun r gid team num base => ?gang,
    fun c r tid session crew rank arg k2 gid hfits => ?team⟩
  case die =>
    rw [reset_die hd]
    exact ⟨rfl, rfl, rfl, rfl, rfl, rfl⟩
  case gang =>
    refine ⟨rfl, rfl, rfl, rfl, rfl, rfl, rfl, fun n hn => ?_⟩
    rw [Gang.live, launchGang_slice r gid team num base hn]
    exact ⟨rfl, rfl, rfl, rfl, rfl, rfl⟩
  case team =>
    obtain ⟨⟨t, ht⟩, ⟨b, hb⟩, hg⟩ := CoreSt.fits_places hfits
    obtain ⟨⟨tm, htm, hs, hbase, hrank, hdesc, hprod, hcons, hcwp⟩, hgangs⟩ :=
      CoreSt.launch_places tid session crew rank arg k2 gid ht hb
    refine ⟨t, b, tm, htm, hs, hbase, hdesc, hprod, hcons, hcwp, hrank, fun num hnum => ?_⟩
    have hslot := List.getElem?_eq_getElem (Nat.lt_of_lt_of_le hnum hg)
    refine ⟨_, hslot, ?_⟩
    rw [hgangs]
    exact launchGangs_find? r c gid t b c.gangs hnum hslot

/-- Settles O59. -/
theorem specWordsDecode : Obligations.SpecWordsDecode := by
  unfold Obligations.SpecWordsDecode
  decide

end Sys2Proof.Machine

/-! PROOFS. O60: what it is for a result to hold canonical memories alone. -/
namespace Sys2Proof.Machine

/-- A device's answer holds canonical memories. -/
def Dev.Canonical {α : Type} : Dev α → Prop
  | .done _ s => s.Canonical
  | .wait s => s.Canonical
  | .fail s => s.Canonical

/-- What a form got holds canonical memories. -/
def Got.Canonical {α : Type} : Got α → Prop
  | .ok _ s => s.Canonical
  | .wait s => s.Canonical
  | .bad _ s => s.Canonical

/-- A unit's reply holds canonical memories. -/
def Reply.Canonical {α : Type} : Reply α → Prop
  | .ok _ s => s.Canonical
  | .dealt s => s.Canonical

/-- A claim, where it has changed the state, leaves canonical memories. -/
def Claim.Canonical : Claim → Prop
  | .ok s => s.Canonical
  | .failed s => s.Canonical
  | .wait s => s.Canonical
  | .foreign _ => True

/-- The checks of a matrix command leave canonical memories. -/
def MxCheck.Canonical : MxCheck → Prop
  | .go s => s.Canonical
  | .dealt s => s.Canonical
  | .trap _ _ s => s.Canonical
  | .wait s => s.Canonical

/-- A retried access leaves canonical memories. -/
def Again.Canonical : Again → Prop
  | .sent s => s.Canonical
  | .absent _ _ _ s => s.Canonical
  | .ended s => s.Canonical
  | .later s => s.Canonical

/-- A walk of the ray unit leaves canonical memories. -/
def Walk.Canonical : Walk → Prop
  | .found _ s => s.Canonical
  | .bad s => s.Canonical
  | .dealt s => s.Canonical

/-- A shared page leaves canonical memories. -/
def Shared.Canonical : Shared → Prop
  | .done _ _ _ s => s.Canonical
  | _ => True

/-- A write of a special register leaves canonical memories. -/
def SrWrite.Canonical : SrWrite → Prop
  | .done s => s.Canonical
  | _ => True

/-- The state, if there is one, has canonical memories. -/
def OptCanonical : Option State → Prop
  | some s => s.Canonical
  | none => True

/-- The state of the pair, if there is one, has canonical memories. -/
def PairCanonical {α : Type} : Option (α × State) → Prop
  | some p => p.2.Canonical
  | none => True

/-- The next state that an instruction answers has canonical memories. -/
def OutcomeCanonical (r : Host.Outcome State Fault Refusal) : Prop := ∀ t, r = .next t → t.Canonical

theorem outcomeCanonical_next {s : State} (h : s.Canonical) : OutcomeCanonical (.next s) := by
  intro t e
  cases e
  exact h

theorem State.foldl_canonical {α : Type} {f : State → α → State} (hf : ∀ t a, t.Canonical → (f t a).Canonical)
    (l : List α) {s : State} (h : s.Canonical) : (l.foldl f s).Canonical := by
  induction l generalizing s with
  | nil => exact h
  | cons a l ih => exact ih (hf s a h)

theorem optCanonical_map {α : Type} {o : Option α} {f : α → State} (hf : ∀ a, o = some a → (f a).Canonical) :
    OptCanonical (o.map f) := by
  cases o with
  | none => trivial
  | some a => exact hf a rfl

theorem pairCanonical_map {α β : Type} {o : Option α} {f : α → β × State} (hf : ∀ a, o = some a → (f a).2.Canonical) :
    PairCanonical (o.map f) := by
  cases o with
  | none => trivial
  | some a => exact hf a rfl

theorem OptCanonical.of_some {o : Option State} {t : State} (h : OptCanonical o) (e : o = some t) : t.Canonical := by
  rw [e] at h
  exact h

theorem PairCanonical.of_some {α : Type} {o : Option (α × State)} {a : α} {t : State} (h : PairCanonical o)
    (e : o = some (a, t)) : t.Canonical := by
  rw [e] at h
  exact h

theorem Reply.Canonical.of_ok {α : Type} {r : Reply α} {a : α} {t : State} (h : r.Canonical) (e : r = .ok a t) :
    t.Canonical := by
  rw [e] at h
  exact h

theorem Reply.Canonical.of_dealt {α : Type} {r : Reply α} {t : State} (h : r.Canonical) (e : r = .dealt t) :
    t.Canonical := by
  rw [e] at h
  exact h

/-- A table from which entries are taken keeps its form. -/
theorem Cells.wfFrom_filter {lo : Nat} {m : Cells Byte} (h : Cells.wfFrom 0 lo m = true) (p : Nat × Byte → Bool) :
    Cells.wfFrom 0 lo (m.filter p) = true := by
  induction m generalizing lo with
  | nil => rfl
  | cons e r ih =>
    obtain ⟨k, x⟩ := e
    simp only [Cells.wfFrom, Bool.and_eq_true, decide_eq_true_eq] at h
    obtain ⟨⟨hlo, hx⟩, hr⟩ := h
    rw [List.filter_cons]
    split
    · simp only [Cells.wfFrom, Bool.and_eq_true, decide_eq_true_eq]
      exact ⟨⟨hlo, hx⟩, ih hr⟩
    · exact Cells.wfFrom_mono (ih hr) (by omega)

theorem Memory.wf_filter {m : Cells Byte} (h : Memory.wf m = true) (p : Nat × Byte → Bool) :
    Memory.wf (m.filter p) = true := Cells.wfFrom_filter h p

end Sys2Proof.Machine

/-! PROOFS. O60: what the operations keep of the memories, part 1. -/
namespace Sys2Proof.Machine

theorem State.postAll_canonical {s : State} (h : s.Canonical) (es) : (s.postAll es).Canonical := h

theorem State.begin_canonical {s : State} (h : s.Canonical) : (s.begin).Canonical := h

theorem State.setCore_canonical {s : State} (h : s.Canonical) (c x) : (s.setCore c x).Canonical := h

theorem State.setTeam_canonical {s : State} (h : s.Canonical) (core t x) : (s.setTeam core t x).Canonical := h

theorem State.updTeam_canonical {s : State} (h : s.Canonical) (core t f) : (s.updTeam core t f).Canonical := by
  unfold State.updTeam
  grind [!State.setTeam_canonical]

theorem State.setGang_canonical {s : State} (h : s.Canonical) (g x) : (s.setGang g x).Canonical := h

theorem State.updCrew_canonical {s : State} (h : s.Canonical) (id f) : (s.updCrew id f).Canonical := by
  unfold State.updCrew
  grind [State.Canonical]

theorem State.unissueAt_canonical {s : State} (h : s.Canonical) (g entry) : (s.unissueAt g entry).Canonical := by
  unfold State.unissueAt
  grind [!State.updTeam_canonical, !State.setGang_canonical, !State.updCrew_canonical]

theorem State.drop_canonical {s : State} (h : s.Canonical) (p) : (s.drop p).Canonical := h

theorem arriveAll_canonical {s : State} (h : s.Canonical) (core id gs b) :
    (arriveAll core id gs s b).1.Canonical := by
  induction gs generalizing s b with
  | nil => exact h
  | cons x r ih =>
    unfold arriveAll
    grind [!State.setGang_canonical]

theorem releaseBar_canonical {s : State} (h : s.Canonical) (core id gen gs) :
    (releaseBar core id gen gs s).Canonical := by
  induction gs generalizing s with
  | nil => exact h
  | cons x r ih =>
    unfold releaseBar
    grind [!State.setGang_canonical]

theorem State.settleBar_canonical {s : State} (h : s.Canonical) (core t id fuel) :
    (s.settleBar core t id fuel).Canonical := by
  induction fuel generalizing s with
  | zero => exact h
  | succ fuel ih =>
    unfold State.settleBar
    grind [!arriveAll_canonical, !releaseBar_canonical, !State.updTeam_canonical]

theorem arriveCrew_canonical {s : State} (h : s.Canonical) (id gs b) : (arriveCrew id gs s b).1.Canonical := by
  induction gs generalizing s b with
  | nil => exact h
  | cons x r ih =>
    unfold arriveCrew
    grind [!State.setGang_canonical]

theorem State.dropL1S_canonical {s : State} (h : s.Canonical) (core p) : (s.dropL1S core p).Canonical := h

theorem releaseCbar_canonical {s : State} (h : s.Canonical) (id gen gs) : (releaseCbar id gen gs s).Canonical := by
  induction gs generalizing s with
  | nil => exact h
  | cons x r ih =>
    unfold releaseCbar
    grind [!State.setGang_canonical]

theorem State.settleCbar_canonical {s : State} (h : s.Canonical) (crew id fuel) :
    (s.settleCbar crew id fuel).Canonical := by
  induction fuel generalizing s with
  | zero => exact h
  | succ fuel ih =>
    unfold State.settleCbar
    grind [State.foldl_canonical, !arriveCrew_canonical, !releaseCbar_canonical, !State.updCrew_canonical,
      !State.dropL1S_canonical]

theorem State.settleBars_canonical {s : State} (h : s.Canonical) (core t) : (s.settleBars core t).Canonical := by
  unfold State.settleBars
  grind [State.Canonical, State.foldl_canonical, !State.settleBar_canonical, !State.settleCbar_canonical]

theorem State.post_canonical {s : State} (h : s.Canonical) (e) : (s.post e).Canonical := h

theorem State.removeGang_canonical {s : State} (h : s.Canonical) (g t) : (s.removeGang g t).Canonical := by
  unfold State.removeGang
  grind [!State.setCore_canonical, !State.drop_canonical, !State.settleBars_canonical, !State.post_canonical]

theorem State.postOnce_canonical {s : State} (h : s.Canonical) (e) : (s.postOnce e).Canonical := by
  unfold State.postOnce
  grind [!State.post_canonical]

theorem State.fatal_canonical {s : State} (h : s.Canonical) (g cause tcause tpc taddr) :
    (s.fatal g cause tcause tpc taddr).Canonical := by
  unfold State.fatal
  grind [State.Canonical, !State.setCore_canonical, !State.removeGang_canonical, !State.postOnce_canonical]

theorem State.enterTrap_canonical {s : State} (h : s.Canonical) (g) : (s.enterTrap g).Canonical := by
  unfold State.enterTrap
  grind [!State.fatal_canonical, !State.drop_canonical, !State.setGang_canonical, !State.updCrew_canonical]

theorem State.raise_canonical {s : State} (h : s.Canonical) (g r) : (s.raise g r).Canonical := by
  unfold State.raise
  grind [!State.unissueAt_canonical, !State.setGang_canonical, !State.enterTrap_canonical, !State.post_canonical]

theorem State.trapNow_canonical {s : State} (h : s.Canonical) (cause info lanes addr) :
    (s.trapNow cause info lanes addr).Canonical := by
  unfold State.trapNow
  grind [!State.raise_canonical]

theorem State.wantCut_canonical {s : State} (h : s.Canonical) (n) : (s.wantCut n).Canonical := by
  unfold State.wantCut
  grind [!State.postOnce_canonical]

theorem State.updGang_canonical {s : State} (h : s.Canonical) (g f) : (s.updGang g f).Canonical := by
  unfold State.updGang
  grind [!State.setGang_canonical]

theorem State.unissue_canonical {s : State} (h : s.Canonical) : (s.unissue).Canonical := by
  unfold State.unissue
  grind [!State.unissueAt_canonical, !State.setCore_canonical]

theorem State.hold_canonical {s : State} (h : s.Canonical) (r) : (s.hold r).Canonical := by
  unfold State.hold
  grind [!State.updGang_canonical, !State.unissue_canonical]

theorem State.logFull_canonical {s : State} (h : s.Canonical) (n) : (s.logFull n).Canonical := by
  unfold State.logFull
  grind [!State.wantCut_canonical, !State.hold_canonical]

theorem State.setSes_canonical {s : State} (h : s.Canonical) (n x) : (s.setSes n x).Canonical := h

theorem State.logRows_canonical {s : State} (h : s.Canonical) (n ks) : (s.logRows n ks).Canonical := by
  unfold State.logRows
  grind [!State.setSes_canonical]

theorem State.takesEffect_canonical {s : State} (h : s.Canonical) (v sh rx) : (s.takesEffect v sh rx).Canonical := by
  unfold State.takesEffect
  grind [!State.logRows_canonical, !State.updGang_canonical]

theorem State.issueWith_canonical {s : State} (h : s.Canonical) (i)
    {k : View → Shape → State → (State → State) → State}
    (hk : ∀ {t : State} {r : State → State}, t.Canonical → (∀ {u : State}, u.Canonical → (r u).Canonical) →
      ∀ v sh, (k v sh t r).Canonical) :
    (s.issueWith i k).Canonical := by
  unfold State.issueWith
  grind [!State.trapNow_canonical, !State.logFull_canonical, !State.hold_canonical, !State.takesEffect_canonical]

theorem State.moved_canonical {s : State} (h : s.Canonical) (f) : (s.moved f).Canonical := by
  unfold State.moved
  grind [!State.updGang_canonical]

theorem State.retire_canonical {s : State} (h : s.Canonical) : (s.retire).Canonical := by
  unfold State.retire
  grind [!State.moved_canonical]

theorem State.branch_canonical {s : State} (h : s.Canonical) (t taken) : (s.branch t taken).Canonical := by
  unfold State.branch
  grind [!State.moved_canonical]

theorem State.jump_canonical {s : State} (h : s.Canonical) (t) : (s.jump t).Canonical := by
  unfold State.jump
  grind [!State.moved_canonical]

theorem State.writeLink_canonical {s : State} (h : s.Canonical) (v) : (s.writeLink v).Canonical := h

theorem State.pushLoop_canonical {s : State} (h : s.Canonical) {go : State → State} (v sh i n)
    (hgo : ∀ {t : State}, t.Canonical → (go t).Canonical) :
    (s.pushLoop go v sh i n).Canonical := by
  unfold State.pushLoop
  grind [!State.trapNow_canonical, !State.moved_canonical]

theorem State.settleRegang_canonical {s : State} (h : s.Canonical) (g) : (s.settleRegang g).Canonical := by
  unfold State.settleRegang
  grind [!State.setGang_canonical, !State.raise_canonical]

theorem State.exitSlices_canonical {s : State} (h : s.Canonical) (g dead) : (s.exitSlices g dead).Canonical := by
  unfold State.exitSlices
  grind [!State.setCore_canonical, !State.removeGang_canonical, !State.settleBars_canonical,
    !State.settleRegang_canonical]

theorem State.retireWith_canonical {s : State} (h : s.Canonical) (f) : (s.retireWith f).Canonical := by
  unfold State.retireWith
  grind [!State.moved_canonical]

theorem State.result_canonical {s : State} (h : s.Canonical) (v sh writes preds) :
    (s.result v sh writes preds).Canonical := by
  unfold State.result
  grind [!State.post_canonical, !State.updGang_canonical]

theorem State.srWrite_canonical {s : State} (h : s.Canonical) (v n w) : (s.srWrite v n w).Canonical := by
  unfold State.srWrite
  grind (splits := 20) [State.Canonical, SrWrite.Canonical, !State.updTeam_canonical, !State.updGang_canonical,
    !State.setCore_canonical]

theorem State.trapAfter_canonical {s : State} (h : s.Canonical) (cause info) :
    (s.trapAfter cause info).Canonical := by
  unfold State.trapAfter
  grind [!State.raise_canonical]

theorem State.abandonDests_canonical {s : State} (h : s.Canonical) (g d) : (s.abandonDests g d).Canonical := by
  unfold State.abandonDests
  grind [!State.setCore_canonical]

theorem State.endNow_canonical {s : State} (h : s.Canonical) (cause info) : (s.endNow cause info).Canonical := by
  unfold State.endNow
  grind [!State.fatal_canonical]

theorem State.trigger_canonical {s : State} (h : s.Canonical) (c t) : (s.trigger c t).Canonical := by
  unfold State.trigger
  grind [State.Canonical, State.foldl_canonical, !State.updCrew_canonical, !State.updGang_canonical,
    !State.post_canonical]

theorem State.hold?_canonical {s : State} (h : s.Canonical) (a va es) : (s.hold? a va es).Canonical := by
  unfold State.hold?
  grind [State.Canonical]

theorem State.walk_canonical {s : State} (h : s.Canonical) (a va) : (s.walk a va).2.Canonical := by
  unfold State.walk
  grind [State.Canonical, !State.hold?_canonical]

theorem State.writeBackOne_canonical {s : State} (h : s.Canonical) (c) : (s.writeBackOne c).Canonical := by
  unfold State.writeBackOne
  grind [State.Canonical, !State.setCore_canonical]

theorem State.writeBack_canonical {s : State} (h : s.Canonical) (p) : (s.writeBack p).Canonical := by
  unfold State.writeBack
  grind [State.Canonical, State.foldl_canonical, !State.writeBackOne_canonical]

theorem State.touch_canonical {s : State} (h : s.Canonical) (l) : (s.touch l).Canonical := by
  unfold State.touch
  grind [State.Canonical, !State.writeBack_canonical]

theorem State.wr_canonical {s : State} (h : s.Canonical) (pa n v) :
    (s.wr pa n v).Canonical := ⟨Cells.write_wf h.1 _ _, (State.touch_canonical h _).2⟩

theorem State.setCtx_canonical {s : State} (h : s.Canonical) (n off bytes v) :
    (s.setCtx n off bytes v).Canonical := by
  unfold State.setCtx
  grind [!State.wr_canonical]

theorem State.dropCopies_canonical {s : State} (h : s.Canonical) (p) : (s.dropCopies p).Canonical := h

theorem State.dropFrame_canonical {s : State} (h : s.Canonical) (fr) : (s.dropFrame fr).Canonical := by
  unfold State.dropFrame
  grind [!State.dropCopies_canonical, !State.writeBack_canonical]

theorem State.retag_canonical {s : State} (h : s.Canonical) (fr tag) : (s.retag fr tag).Canonical := by
  unfold State.retag
  grind [State.Canonical, !State.dropFrame_canonical]

theorem State.takeFrame_canonical {s : State} (h : s.Canonical) (n) : PairCanonical (s.takeFrame n) := by
  unfold State.takeFrame
  grind [PairCanonical, !State.setCtx_canonical, !State.retag_canonical]

theorem State.putBytes_canonical {s : State} (h : s.Canonical) (pa bs) : (s.putBytes pa bs).Canonical := by
  have ht := State.foldl_canonical (fun t l ht => State.touch_canonical (s := t) ht l)
    (newOnes [] ((List.range bs.length).map (fun i => lineOf (pa + i)))) h
  exact ⟨Cells.write_wf ht.1 _ _, ht.2⟩

end Sys2Proof.Machine

/-! PROOFS. O60: what the operations keep of the memories, part 2. -/
namespace Sys2Proof.Machine

theorem State.dropPage_canonical {s : State} (h : s.Canonical) (n page) : (s.dropPage n page).Canonical := h

theorem State.mapGangs_canonical {s : State} (h : s.Canonical) (f) : (s.mapGangs f).Canonical := h

theorem State.strike_canonical {s : State} (h : s.Canonical) (n p) : (s.strike n p).Canonical := by
  unfold State.strike
  grind [!State.postAll_canonical, !State.mapGangs_canonical]

theorem State.shiftAccesses_canonical {s : State} (h : s.Canonical) (session granule base) :
    (s.shiftAccesses session granule base).Canonical := by
  unfold State.shiftAccesses
  grind [State.Canonical]

theorem State.givePool_canonical {s : State} (h : s.Canonical) (die fr) : (s.givePool die fr).Canonical := by
  unfold State.givePool
  grind [State.Canonical, !State.wr_canonical]

theorem State.setDie_canonical {s : State} (h : s.Canonical) (d x) : (s.setDie d x).Canonical := h

theorem State.unmapShared_canonical {s : State} (h : s.Canonical) (fr session page) :
    (s.unmapShared fr session page).Canonical := by
  unfold State.unmapShared
  grind [!State.givePool_canonical, !State.setDie_canonical]

theorem State.convertPage_canonical {s : State} (h : s.Canonical) (session va p q e c) :
    (s.convertPage session va p q e c).Canonical := by
  unfold State.convertPage
  grind [!State.wr_canonical, !State.unmapShared_canonical]

theorem State.cowBreak_canonical {s : State} (h : s.Canonical) (session va p q e c) :
    OptCanonical (s.cowBreak session va p q e c) := by
  unfold State.cowBreak
  grind [OptCanonical, PairCanonical, !State.takeFrame_canonical, !State.putBytes_canonical,
    !State.dropPage_canonical, !State.strike_canonical, !State.shiftAccesses_canonical, !State.wr_canonical,
    !State.convertPage_canonical]

theorem State.translate_canonical {s : State} (h : s.Canonical) (a va) : (s.translate a va).2.Canonical := by
  unfold State.translate
  grind [OptCanonical, !State.walk_canonical, !State.cowBreak_canonical]

theorem State.place1_canonical {s : State} (h : s.Canonical) (a t va size) : (s.place1 a t va size).2.Canonical := by
  unfold State.place1
  grind [!State.translate_canonical]

theorem State.placeRest_canonical {s : State} (h : s.Canonical) (a t vas) : (s.placeRest a t vas).2.Canonical := by
  induction vas generalizing s with
  | nil => exact h
  | cons x r ih =>
    unfold State.placeRest
    grind [!State.place1_canonical]

theorem State.resolve1_canonical {s : State} (h : s.Canonical) (a t size r) :
    (s.resolve1 a t size r).2.Canonical := by
  unfold State.resolve1
  grind [!State.place1_canonical, !State.placeRest_canonical]

theorem State.resolve_canonical {s : State} (h : s.Canonical) (v t size rs) :
    (s.resolve v t size rs).2.Canonical := by
  induction rs generalizing s with
  | nil => exact h
  | cons x r ih =>
    unfold State.resolve
    grind [!State.resolve1_canonical]

theorem State.watchVirtual_canonical {s : State} (h : s.Canonical) (g pc bit eas n) :
    (s.watchVirtual g pc bit eas n).Canonical := by
  unfold State.watchVirtual
  grind [!State.trigger_canonical]

theorem State.expect_canonical {s : State} (h : s.Canonical) (d) : (s.expect d).Canonical := by
  unfold State.expect
  grind [!State.setCore_canonical]

theorem State.fresh_canonical {s : State} (h : s.Canonical) : (s.fresh).Canonical := h

theorem State.watchLoad_canonical {s : State} (h : s.Canonical) (a dst) : (s.watchLoad a dst).Canonical := by
  unfold State.watchLoad
  grind [!State.post_canonical, !State.postAll_canonical, !State.setGang_canonical, !State.fresh_canonical]

theorem State.sendAccess_canonical {s : State} (h : s.Canonical) (a) : (s.sendAccess a).Canonical := by
  unfold State.sendAccess
  grind [!State.watchLoad_canonical, !State.post_canonical]

theorem State.fatalFault_canonical {s : State} (h : s.Canonical) (cause lanes addr) :
    (s.fatalFault cause lanes addr).Canonical := by
  unfold State.fatalFault
  grind [!State.trapNow_canonical]

theorem State.joinFid_canonical {s : State} (h : s.Canonical) (die session va kind cause host x) :
    (s.joinFid die session va kind cause host x).2.Canonical := by
  unfold State.joinFid
  grind [!State.post_canonical, !State.setDie_canonical]

theorem State.joinAll_canonical {s : State} (h : s.Canonical) (v un size rs) :
    (s.joinAll v un size rs).2.Canonical := by
  induction rs generalizing s with
  | nil => exact h
  | cons x r ih =>
    unfold State.joinAll
    grind [!State.joinFid_canonical]

theorem State.park_canonical {s : State} (h : s.Canonical) (p tl addr) : (s.park p tl addr).Canonical := by
  unfold State.park
  grind [!State.updGang_canonical]

theorem State.issueAccess_canonical {s : State} (h : s.Canonical) {go : State → State} (v size align rs)
    {after : State → State} (hgo : ∀ {t : State}, t.Canonical → (go t).Canonical)
    (hafter : ∀ {t : State}, t.Canonical → (after t).Canonical) :
    (s.issueAccess go v size align rs after).Canonical := by
  unfold State.issueAccess
  dsimp only
  generalize (if size = 16 then 8 else size) = k
  split
  · exact State.trapNow_canonical h _ _ _ _
  split
  · exact h
  next t _ =>
  split
  · exact State.trapNow_canonical h _ _ _ _
  have h1 := State.resolve_canonical h v t k (rs.flatMap (halves size))
  split
  · exact State.hold_canonical h _
  split
  · exact State.logFull_canonical h _
  have hsend : ∀ {u : State} (o : Resolved), u.Canonical → (match o.out with
      | .ok p => u.sendAccess (accessOf v o.req p k)
      | _ => u).Canonical := by
    intro u o hu
    split
    · exact State.sendAccess_canonical hu _
    · exact hu
  split
  · refine State.fatalFault_canonical (State.foldl_canonical (fun u o hu => hsend o hu) _ ?_) _ _ _
    exact State.expect_canonical (State.watchVirtual_canonical (hgo h1) _ _ _ _ _) _
  split
  · refine hafter (State.foldl_canonical (fun u o hu => hsend o hu) _ ?_)
    exact State.expect_canonical (State.watchVirtual_canonical (hgo h1) _ _ _ _ _) _
  · refine State.park_canonical (State.joinAll_canonical (State.foldl_canonical (fun u o hu => hsend o hu) _ ?_) _ _
    _ _) _ _ _
    exact State.expect_canonical (State.watchVirtual_canonical (hgo h1) _ _ _ _ _) _

theorem State.fill_canonical {s : State} (h : s.Canonical) (h1 l vls ver bytes lease) :
    (s.fill h1 l vls ver bytes lease).Canonical := h

theorem State.growLease_canonical {s : State} (h : s.Canonical) (l) : (s.growLease l).Canonical := h

theorem State.fillHome_canonical {s : State} (h : s.Canonical) (core coh l vls) :
    (s.fillHome core coh l vls).Canonical := by
  unfold State.fillHome
  grind [!State.fill_canonical, !State.growLease_canonical]

theorem State.prefetch_canonical {s : State} (h : s.Canonical) (v l1 lane va) :
    (s.prefetch v l1 lane va).Canonical := by
  unfold State.prefetch
  grind [State.Canonical, !State.translate_canonical, !State.fillHome_canonical]

theorem State.publish_canonical {s : State} (h : s.Canonical) (core session object) :
    (s.publish core session object).Canonical := by
  unfold State.publish
  grind [!State.writeBack_canonical]

theorem State.retireAwaiting_canonical {s : State} (h : s.Canonical) (r w) : (s.retireAwaiting r w).Canonical := by
  unfold State.retireAwaiting
  grind [!State.updGang_canonical, !State.retire_canonical]

theorem State.show_canonical {s : State} (h : s.Canonical) (core p) : (s.show core p).Canonical := by
  unfold State.show
  grind [!State.dropCopies_canonical]

theorem State.fenced_canonical {s : State} (h : s.Canonical) (core scope) : (s.fenced core scope).Canonical := by
  unfold State.fenced
  grind [!State.writeBack_canonical, !State.dropL1S_canonical, !State.show_canonical]

theorem State.standAt_canonical {s : State} (h : s.Canonical) (v st r) : (s.standAt v st r).Canonical := by
  unfold State.standAt
  grind [!State.updGang_canonical, !State.hold_canonical]

theorem State.acquire_canonical {s : State} (h : s.Canonical) (core session object) :
    (s.acquire core session object).Canonical := h

theorem State.push_canonical {s : State} (h : s.Canonical) (v q op ch) : (s.push v q op ch).Canonical := by
  unfold State.push
  grind [!State.setCore_canonical, !State.fresh_canonical, !State.post_canonical, !State.updGang_canonical]

theorem State.raisePbc_canonical {s : State} (h : s.Canonical) (t op) : (s.raisePbc t op).Canonical := by
  unfold State.raisePbc
  grind [!State.updCrew_canonical]

theorem State.watchRuns_canonical {s : State} (h : s.Canonical) (v t k) : (s.watchRuns v t k).Canonical := by
  unfold State.watchRuns
  grind [State.Canonical, State.foldl_canonical, !State.watchVirtual_canonical]

theorem State.joinQueue_canonical {s : State} (h : s.Canonical) (fr) : (s.joinQueue fr).Canonical := by
  unfold State.joinQueue
  grind [State.Canonical]

theorem State.waitPlace_canonical {s : State} (h : s.Canonical) (p) : (s.waitPlace p).Canonical := by
  unfold State.waitPlace
  grind [!State.joinQueue_canonical]

theorem State.spanFrom_canonical {s : State} (h : s.Canonical) (a fuel va n off) :
    (State.spanFrom a fuel s va n off).2.Canonical := by
  induction fuel generalizing s va n off with
  | zero => exact h
  | succ fuel ih =>
    unfold State.spanFrom
    grind [!State.translate_canonical, !State.waitPlace_canonical]

theorem State.span_canonical {s : State} (h : s.Canonical) (a va n) : (s.span a va n).2.Canonical := by
  unfold State.span
  grind [!State.spanFrom_canonical]

theorem State.joinDev_canonical {s : State} (h : s.Canonical) (die session va kind cause host u) :
    (s.joinDev die session va kind cause host u).Canonical := by
  unfold State.joinDev
  grind [!State.joinFid_canonical, !State.setDie_canonical]

theorem State.devRead_canonical {s : State} (h : s.Canonical) (die session va n u) :
    (s.devRead die session va n u).Canonical := by
  unfold State.devRead
  grind [Dev.Canonical, !State.span_canonical, !State.joinDev_canonical]

theorem State.patchOwn_canonical {s : State} (h : s.Canonical) (core pa bs) : (s.patchOwn core pa bs).Canonical := by
  unfold State.patchOwn
  grind [State.Canonical]

theorem State.writeCopies_canonical {s : State} (h : s.Canonical) (core coh pa bs priv vl) :
    (s.writeCopies core coh pa bs priv vl).Canonical := by
  unfold State.writeCopies
  grind [State.Canonical, !State.fillHome_canonical]

theorem State.writeHome_canonical {s : State} (h : s.Canonical) (who core session coh pa new) :
    (s.writeHome who core session coh pa new).Canonical := by
  unfold State.writeHome
  grind [State.Canonical, Cells.write_wf, !State.writeBack_canonical, !State.writeCopies_canonical,
    !State.updGang_canonical,
    !State.postAll_canonical]

theorem State.logLine_canonical {s : State} (h : s.Canonical) (n l) : (s.logLine n l).Canonical := by
  unfold State.logLine
  grind [!State.setSes_canonical]

theorem State.write_canonical {s : State} (h : s.Canonical) (who core session coh pa bs) :
    (s.write who core session coh pa bs).Canonical := by
  unfold State.write
  grind [!State.writeHome_canonical, !State.logLine_canonical]

theorem State.updStore_canonical {s : State} (h : s.Canonical) (core f) : (s.updStore core f).Canonical := h

theorem State.updCspad_canonical {s : State} (h : s.Canonical) (die f) : (s.updCspad die f).Canonical := h

theorem State.devWrite_canonical {s : State} (h : s.Canonical) (core log session p bs) :
    (s.devWrite core log session p bs).Canonical := by
  unfold State.devWrite
  grind [State.Canonical, State.foldl_canonical, !Cells.write_wf, !State.logRows_canonical, !State.patchOwn_canonical,
    !State.write_canonical, !State.writeHome_canonical, !State.updStore_canonical, !State.updCspad_canonical]

theorem State.writeSpan_canonical {s : State} (h : s.Canonical) (core log session ps bs) :
    (s.writeSpan core log session ps bs).Canonical := by
  induction ps generalizing s bs with
  | nil => exact h
  | cons x r ih =>
    unfold State.writeSpan
    grind [!State.devWrite_canonical]

theorem State.devStore_canonical {s : State} (h : s.Canonical) (die session va bs log u) :
    (s.devStore die session va bs log u).Canonical := by
  unfold State.devStore
  grind [Dev.Canonical, !State.span_canonical, !State.writeSpan_canonical, !State.joinDev_canonical]

theorem State.setImages_canonical {s : State} (h : s.Canonical) (session v) : (s.setImages session v).Canonical := by
  unfold State.setImages
  grind [!State.setCtx_canonical]

theorem State.claimed_canonical {s : State} (h : s.Canonical) (session core n) :
    (s.claimed session core n).Canonical := by
  unfold State.claimed
  grind [Dev.Canonical, !State.devRead_canonical, !State.devStore_canonical, !State.setImages_canonical]

theorem State.updAcc_canonical {s : State} (h : s.Canonical) (core k f) : (s.updAcc core k f).Canonical := h

theorem State.fatalBy_canonical {s : State} (h : s.Canonical) (g cause info addr) :
    (s.fatalBy g cause info addr).Canonical := by
  unfold State.fatalBy
  grind [!State.fatal_canonical]

theorem State.dropPrivate_canonical {s : State} (h : s.Canonical) (core t drop) :
    (s.dropPrivate core t drop).Canonical := by
  refine ⟨State.dropPrivate_wf h.1 core t drop, ?_⟩
  exact (State.writeBack_canonical h _).2

theorem State.freeTeam_canonical {s : State} (h : s.Canonical) (core t drop) :
    (s.freeTeam core t drop).Canonical := by
  unfold State.freeTeam
  grind [!State.dropPrivate_canonical, !State.setCore_canonical]

theorem State.freeCrew_canonical {s : State} (h : s.Canonical) (c) : (s.freeCrew c).Canonical := by
  unfold State.freeCrew
  grind [State.Canonical, State.foldl_canonical, !State.drop_canonical, !State.freeTeam_canonical]

end Sys2Proof.Machine

/-! PROOFS. O60: what the operations keep of the memories, part 3. -/
namespace Sys2Proof.Machine

theorem State.freeCrews_canonical {s : State} (h : s.Canonical) (n) : (s.freeCrews n).Canonical := by
  unfold State.freeCrews
  grind [State.Canonical, State.foldl_canonical, !State.freeCrew_canonical]

theorem State.releaseUnits_canonical {s : State} (h : s.Canonical) (n) : (s.releaseUnits n).Canonical := h

theorem State.discardFids_canonical {s : State} (h : s.Canonical) (n) : (s.discardFids n).Canonical := h

theorem State.losePeers_canonical {s : State} (h : s.Canonical) (p) : (s.losePeers p).Canonical := by
  unfold State.losePeers
  grind [State.Canonical]

theorem State.dropCalls_canonical {s : State} (h : s.Canonical) (n) : (s.dropCalls n).Canonical := by
  unfold State.dropCalls
  grind [State.Canonical, !State.losePeers_canonical, !State.drop_canonical]

theorem State.quell_canonical {s : State} (h : s.Canonical) (n) : (s.quell n).Canonical := by
  unfold State.quell
  grind [!State.drop_canonical, !State.releaseUnits_canonical, !State.discardFids_canonical,
    !State.dropCalls_canonical]

theorem State.setCtx0_canonical {s : State} (h : s.Canonical) (n lo w v) : (s.setCtx0 n lo w v).Canonical := by
  unfold State.setCtx0
  grind [!State.setCtx_canonical]

theorem State.setSesState_canonical {s : State} (h : s.Canonical) (n v) : (s.setSesState n v).Canonical := by
  unfold State.setSesState
  grind [!State.setCtx0_canonical]

theorem State.answer_canonical {s : State} (h : s.Canonical) (w ws) : (s.answer w ws).Canonical := by
  unfold State.answer
  grind [State.Canonical, !State.updGang_canonical, !State.post_canonical]

theorem State.answerAll_canonical {s : State} (h : s.Canonical) (p ws) : (s.answerAll p ws).Canonical := by
  unfold State.answerAll
  grind [State.Canonical, State.foldl_canonical, !State.answer_canonical]

theorem State.forceReset_canonical {s : State} (h : s.Canonical) (n) : (s.forceReset n).Canonical := by
  unfold State.forceReset
  grind [State.Canonical, State.foldl_canonical, !State.fatalBy_canonical, !State.freeCrews_canonical,
    !State.quell_canonical, !State.setSesState_canonical, !State.setSes_canonical, !State.answerAll_canonical,
    !State.drop_canonical]

theorem State.claim_canonical {s : State} (h : s.Canonical) (core k session) :
    (s.claim core k session).Canonical := by
  unfold State.claim
  grind [Claim.Canonical, Dev.Canonical, !State.claimed_canonical, !State.updAcc_canonical,
    !State.forceReset_canonical]

theorem State.checkAcc_canonical {s : State} (h : s.Canonical) (v t p) : (s.checkAcc v t p).Canonical := by
  unfold State.checkAcc
  grind [MxCheck.Canonical, Claim.Canonical, !State.claim_canonical]

theorem State.spill_canonical {s : State} (h : s.Canonical) (core n a) : (s.spill core n a).Canonical := by
  unfold State.spill
  grind [Dev.Canonical, !State.devStore_canonical, !State.setImages_canonical]

theorem State.disown_canonical {s : State} (h : s.Canonical) (core k) : (s.disown core k).Canonical := h

theorem State.pushFollow_canonical {s : State} (h : s.Canonical) (v op) : (s.pushFollow v op).Canonical := by
  unfold State.pushFollow
  grind [!State.updGang_canonical, !State.setCore_canonical, !State.fresh_canonical]

theorem State.capRead_canonical {s : State} (h : s.Canonical) (v c) : (s.capRead v c).2.Canonical := by
  unfold State.capRead
  dsimp only
  split
  · exact h
  split
  · exact h
  next t _ =>
  have h1 := State.place1_canonical h { askOf v.core v.cur.gang.core v.gang 0 41 with level := 1 } t
    ((v.core.recordOf v.gang).captab + BitVec.ofNat 57 (8 * c)) 8
  split <;> rename_i heq <;> rw [heq] at h1
  · have h2 := State.watchVirtual_canonical h1 v.cur.gang v.cur.addr 2 [(v.core.recordOf v.gang).captab +
    BitVec.ofNat 57 (8 * c)] 8
    grind [!State.hold_canonical, !State.fillHome_canonical]
  · exact State.hold_canonical h1 _
  · grind [!State.trapNow_canonical, !State.fatalFault_canonical]
  · exact State.park_canonical (State.joinFid_canonical h1 _ _ _ _ _ _ _) _ _ _

theorem State.capClaim_canonical {s : State} (h : s.Canonical) (v e va p) : (s.capClaim v e va p).2.Canonical := by
  unfold State.capClaim
  grind [!State.place1_canonical, !State.hold_canonical, !State.joinFid_canonical, !State.park_canonical]

theorem State.holdOp_canonical {s : State} (h : s.Canonical) (v op ep r e) : (s.holdOp v op ep r e).Canonical := by
  unfold State.holdOp
  grind [!State.post_canonical, !State.updGang_canonical, !State.hold_canonical]

theorem State.capSpend_canonical {s : State} (h : s.Canonical) (core session p) :
    (s.capSpend core session p).Canonical := by
  unfold State.capSpend
  grind [!State.devWrite_canonical]

theorem State.calls_canonical {s : State} (h : s.Canonical) (v sh ep die c r d w) :
    (s.calls v sh ep die c r d w).Canonical := by
  unfold State.calls
  grind [!State.updGang_canonical, !State.expect_canonical, !State.fresh_canonical, !State.capSpend_canonical,
    !State.postAll_canonical]

theorem State.appendMsg_canonical {s : State} (h : s.Canonical) (session ep m) :
    (s.appendMsg session ep m).Canonical := by
  unfold State.appendMsg
  grind [!State.setSes_canonical]

theorem State.sends_canonical {s : State} (h : s.Canonical) (core session ep m w) :
    (s.sends core session ep m w).Canonical := by
  unfold State.sends
  grind [!State.capSpend_canonical, !State.appendMsg_canonical]

theorem State.formResult_canonical {s : State} (h : s.Canonical) (v a w) : (s.formResult v a w).Canonical := by
  unfold State.formResult
  grind [!State.retire_canonical, !State.postAll_canonical, !State.expect_canonical]

theorem State.formTurn_canonical {s : State} (h : s.Canonical) : (s.formTurn).Canonical := h

theorem State.dropRange_canonical {s : State} (h : s.Canonical) (n lo len scope) :
    (s.dropRange n lo len scope).Canonical := by
  unfold State.dropRange
  grind [State.Canonical]

theorem State.holdForm_canonical {s : State} (h : s.Canonical) (f r) : (s.holdForm f r).Canonical := by
  unfold State.holdForm
  grind [!State.updGang_canonical, !State.expect_canonical]

theorem State.formDone_canonical {s : State} (h : s.Canonical) (v b r ws) : (s.formDone v b r ws).Canonical := by
  unfold State.formDone
  grind [!State.retireAwaiting_canonical, !State.postAll_canonical, !State.expect_canonical]

theorem State.removeFid_canonical {s : State} (h : s.Canonical) (die f) : (s.removeFid die f).Canonical := h

theorem State.updCmd_canonical {s : State} (h : s.Canonical) (core id f) : (s.updCmd core id f).Canonical := by
  unfold State.updCmd
  grind [!State.setCore_canonical]

theorem State.mapSaved_canonical {s : State} (h : s.Canonical) (die f) : (s.mapSaved die f).Canonical := by
  unfold State.mapSaved
  grind [State.Canonical]

theorem State.replay_canonical {s : State} (h : s.Canonical) (die f) : (s.replay die f).Canonical := by
  unfold State.replay
  grind [State.Canonical, State.foldl_canonical, !State.removeFid_canonical, !State.postOnce_canonical,
    !State.updGang_canonical, !State.updCmd_canonical, !State.mapSaved_canonical, !State.setDie_canonical]

theorem State.finishCmd_canonical {s : State} (h : s.Canonical) (core q id) : (s.finishCmd core q id).Canonical := by
  unfold State.finishCmd
  grind [!State.updGang_canonical, !State.setCore_canonical]

theorem State.lowerPbc_canonical {s : State} (h : s.Canonical) (crew bar f) : (s.lowerPbc crew bar f).Canonical := by
  unfold State.lowerPbc
  grind [!State.settleCbar_canonical, !State.updCrew_canonical]

theorem State.discardCmd_canonical {s : State} (h : s.Canonical) (core id) : (s.discardCmd core id).Canonical := by
  unfold State.discardCmd
  grind [!State.finishCmd_canonical, !State.updTeam_canonical, !State.updGang_canonical, !State.setCore_canonical,
    !State.lowerPbc_canonical, !State.drop_canonical]

theorem State.cancelCollective_canonical {s : State} (h : s.Canonical) (key seq) :
    (s.cancelCollective key seq).Canonical := h

theorem State.slotFails_canonical {s : State} (h : s.Canonical) (die typ inst n) :
    (s.slotFails die typ inst n).Canonical := by
  unfold State.slotFails
  grind [!State.postAll_canonical, !State.setDie_canonical]

theorem State.cancelUse_canonical {s : State} (h : s.Canonical) (die f u) : (s.cancelUse die f u).Canonical := by
  unfold State.cancelUse
  grind [!State.setCore_canonical, !State.forceReset_canonical, !State.updGang_canonical, !State.postOnce_canonical,
    !State.cancelCollective_canonical, !State.slotFails_canonical]

theorem State.cancel_canonical {s : State} (h : s.Canonical) (die f) : (s.cancel die f).Canonical := by
  unfold State.cancel
  grind [State.Canonical, State.foldl_canonical, !State.removeFid_canonical, !State.postAll_canonical,
    !State.setDie_canonical, !State.fatalBy_canonical, !State.discardCmd_canonical, !State.mapSaved_canonical,
    !State.cancelUse_canonical]

theorem State.wantEngine_canonical {s : State} (h : s.Canonical) (die n k) : (s.wantEngine die n k).Canonical := by
  unfold State.wantEngine
  grind [!State.setDie_canonical]

theorem State.wantPool_canonical {s : State} (h : s.Canonical) (v) : (s.wantPool v).Canonical := by
  unfold State.wantPool
  grind [!State.wantEngine_canonical]

theorem State.moveUndo_canonical {s : State} (h : s.Canonical) (old new) : (s.moveUndo old new).Canonical := by
  unfold State.moveUndo
  grind [State.Canonical]

theorem State.copyFrame_canonical {s : State} (h : s.Canonical) (src dst versions) :
    (s.copyFrame src dst versions).Canonical := by
  refine ⟨State.copyFrame_wf h.1 src dst versions, ?_⟩
  simp only [State.copyFrame]
  exact h.2

theorem State.formEnd_canonical (v f b) {r : Got Word} (hr : r.Canonical) : (State.formEnd v f b r).Canonical := by
  unfold State.formEnd
  grind [Got.Canonical, !State.formDone_canonical, !State.holdForm_canonical]

theorem State.formSpan_canonical {s : State} (h : s.Canonical) (v kind va n) :
    (s.formSpan v kind va n).Canonical := by
  unfold State.formSpan
  grind [Got.Canonical, !State.span_canonical, !State.joinDev_canonical]

theorem State.formRead_canonical {s : State} (h : s.Canonical) (v va n) : (s.formRead v va n).Canonical := by
  unfold State.formRead
  grind [Got.Canonical, !State.formSpan_canonical]

theorem State.readDescriptor_canonical {s : State} (h : s.Canonical) (v va hn bad body) :
    (s.readDescriptor v va hn bad body).Canonical := by
  unfold State.readDescriptor
  grind [Got.Canonical, !State.formRead_canonical]

theorem State.stageRecord_canonical {s : State} (h : s.Canonical) (v st va) : (s.stageRecord v st va).Canonical := by
  unfold State.stageRecord
  grind [Got.Canonical, !State.formRead_canonical]

theorem State.stageRecords_canonical {s : State} (h : s.Canonical) (v i rs) :
    (State.stageRecords v i rs s).Canonical := by
  induction rs generalizing s i with
  | nil => exact h
  | cons x r ih =>
    unfold State.stageRecords
    grind [Got.Canonical, !State.stageRecord_canonical]

theorem State.writeEndpoints_canonical {s : State} (h : s.Canonical) (v va off eps) :
    (State.writeEndpoints v va off eps s).Canonical := by
  induction eps generalizing s off with
  | nil => exact h
  | cons x r ih =>
    unfold State.writeEndpoints
    grind [Got.Canonical, !State.formSpan_canonical, !State.writeSpan_canonical]

theorem State.preg_canonical {s : State} (h : s.Canonical) (v va) : (s.preg v va).Canonical := by
  unfold State.preg
  grind [Got.Canonical, !State.readDescriptor_canonical, !State.stageRecords_canonical,
    !State.writeEndpoints_canonical, !State.setSes_canonical]

theorem State.greg_canonical {s : State} (h : s.Canonical) (v va) : (s.greg v va).Canonical := by
  unfold State.greg
  grind [Got.Canonical, !State.readDescriptor_canonical, !State.setSes_canonical]

theorem State.unreg_canonical {s : State} (h : s.Canonical) (n h1) : (s.unreg n h1).2.Canonical := by
  unfold State.unreg
  grind [!State.setSes_canonical]

theorem State.graphSteps_canonical {s : State} (h : s.Canonical) (n) : (s.graphSteps n).Canonical := by
  unfold State.graphSteps
  grind [State.Canonical, State.foldl_canonical, !State.postOnce_canonical]

theorem State.placeFleet_canonical {s : State} (h : s.Canonical) (n f own c) :
    OptCanonical (s.placeFleet n f own c) := by
  unfold State.placeFleet
  exact optCanonical_map fun b _ => State.updCspad_canonical (State.setSes_canonical h _ _) _ _

theorem State.updGraph_canonical {s : State} (h : s.Canonical) (n num f) : (s.updGraph n num f).Canonical := by
  unfold State.updGraph
  grind [!State.setSes_canonical]

theorem State.launchWord_canonical {s : State} (h : s.Canonical) (n w) : (s.launchWord n w).2.Canonical := by
  unfold State.launchWord
  grind [OptCanonical, !State.graphSteps_canonical, !State.setSesState_canonical, !State.placeFleet_canonical,
    !State.updGraph_canonical, !State.postOnce_canonical]

theorem State.await_canonical {s : State} (h : s.Canonical) (what r dst) : (s.await what r dst).Canonical := by
  unfold State.await
  grind [State.Canonical, !State.retireAwaiting_canonical, !State.expect_canonical]

theorem State.startAttempt_canonical {s : State} (h : s.Canonical) (n fresh) :
    (s.startAttempt n fresh).Canonical := by
  unfold State.startAttempt
  grind [!State.postOnce_canonical, !State.setSes_canonical]

theorem State.giveAgain_canonical {s : State} (h : s.Canonical) (c) : (s.giveAgain c).Canonical := by
  unfold State.giveAgain
  grind [State.Canonical, !State.postAll_canonical]

end Sys2Proof.Machine

/-! PROOFS. O60: what the operations keep of the memories, part 4. -/
namespace Sys2Proof.Machine

theorem State.startDrain_canonical {s : State} (h : s.Canonical) (c) : (s.startDrain c).Canonical := by
  unfold State.startDrain
  grind [!State.postOnce_canonical, !State.giveAgain_canonical, !State.updCrew_canonical]

theorem State.readFreeze_canonical {s : State} (h : s.Canonical) (die session) :
    (s.readFreeze die session).Canonical := by
  unfold State.readFreeze
  grind [Dev.Canonical, !State.devRead_canonical]

theorem State.placeFleets_canonical {s : State} (h : s.Canonical) (n fs) : OptCanonical (s.placeFleets n fs) := by
  induction fs generalizing s with
  | nil => exact h
  | cons x r ih =>
    unfold State.placeFleets
    grind [OptCanonical, !State.placeFleet_canonical]

theorem State.unshelve_canonical {s : State} (h : s.Canonical) (n) : OptCanonical (s.unshelve n) := by
  unfold State.unshelve
  grind [OptCanonical, !State.placeFleets_canonical, !State.setSes_canonical]

theorem State.cleanL1_canonical {s : State} (h : s.Canonical) (core) : (s.cleanL1 core).Canonical := by
  unfold State.cleanL1
  grind [!State.dropCopies_canonical, !State.writeBack_canonical]

theorem State.placeTeam_canonical {s : State} (h : s.Canonical) (v core) : (s.placeTeam v core).2.Canonical := by
  unfold State.placeTeam
  grind [State.Canonical, !State.show_canonical, !State.cleanL1_canonical, !State.setCore_canonical,
    !State.postAll_canonical]

theorem State.placeRanks_canonical {s : State} (h : s.Canonical) (v r ks) :
    (State.placeRanks v r ks s).2.Canonical := by
  induction ks generalizing s r with
  | nil => exact h
  | cons x r ih =>
    unfold State.placeRanks
    grind [!State.placeTeam_canonical]

theorem State.resumeGang_canonical {s : State} (h : s.Canonical) (g) : (s.resumeGang g).Canonical := by
  unfold State.resumeGang
  grind [!State.fatalBy_canonical, !State.setGang_canonical, !State.postOnce_canonical]

theorem State.placeCrew_canonical {s : State} (h : s.Canonical) (v die cores) :
    (s.placeCrew v die cores).Canonical := by
  unfold State.placeCrew
  grind [State.Canonical, State.foldl_canonical, !State.updStore_canonical, !State.placeRanks_canonical,
    !State.updCrew_canonical, !State.resumeGang_canonical, !State.postAll_canonical]

theorem State.placeSaved_canonical {s : State} (h : s.Canonical) (v die) : OptCanonical (s.placeSaved v die) := by
  unfold State.placeSaved
  grind [OptCanonical, !State.placeCrew_canonical]

theorem State.recheck_canonical {s : State} (h : s.Canonical) (core k m) : (s.recheck core k m).Canonical := by
  unfold State.recheck
  grind [Claim.Canonical, !State.claim_canonical, !State.postOnce_canonical, !State.updGang_canonical,
    !State.setCore_canonical]

theorem State.recheckAll_canonical {s : State} (h : s.Canonical) (c) : (s.recheckAll c).Canonical := by
  unfold State.recheckAll
  grind [State.Canonical, State.foldl_canonical, Claim.Canonical, !State.recheck_canonical]

theorem State.restoreCrew_canonical {s : State} (h : s.Canonical) (v) : (s.restoreCrew v).2.Canonical := by
  unfold State.restoreCrew
  dsimp only
  split
  · exact h
  split
  · exact State.wantEngine_canonical h _ _ _
  have hi : (if v.hasMatrix then s.readFreeze v.crew.die v.crew.session else .done true s : Dev Bool).Canonical := by
    split
    · exact State.readFreeze_canonical h _ _
    · exact h
  split <;> rename_i heq <;> rw [heq] at hi
  · exact hi
  · exact State.forceReset_canonical hi _
  split
  · exact hi
  next s2 h2 =>
  have hs2 : s2.Canonical := by
    obtain ⟨u, hu, hp⟩ := Option.bind_eq_some_iff.1 h2
    exact (State.placeSaved_canonical ((State.unshelve_canonical hi _).of_some hu) _ _).of_some hp
  have hs3 : State.Canonical { s2 with saved := s2.saved.filter (fun u => decide (u.ticket ≠ v.ticket)) } := hs2
  grind [!State.graphSteps_canonical, !State.recheckAll_canonical, !State.fatalBy_canonical,
    !State.forceReset_canonical,
    State.foldl_canonical]

theorem State.badOperand_canonical {s : State} (h : s.Canonical) (v sh) : (s.badOperand v sh).Canonical := by
  unfold State.badOperand
  grind [!State.trapNow_canonical]

theorem State.resume_canonical {s : State} (h : s.Canonical) (c) : (s.resume c).Canonical := by
  unfold State.resume
  grind [!State.updCrew_canonical, !State.updGang_canonical, !State.answerAll_canonical]

theorem State.setWatch_canonical {s : State} (h : s.Canonical) (c w p) : (s.setWatch c w p).Canonical := h

theorem State.showRecords_canonical {s : State} (h : s.Canonical) (c core) : (s.showRecords c core).Canonical := h

theorem State.mapDies_canonical {s : State} (h : s.Canonical) (l f) : (s.mapDies l f).Canonical := by
  unfold State.mapDies
  grind [State.Canonical, State.foldl_canonical, !State.setDie_canonical]

theorem State.thawAll_canonical {s : State} (h : s.Canonical) (ns) : OptCanonical (State.thawAll ns s) := by
  induction ns generalizing s with
  | nil => exact h
  | cons x r ih =>
    unfold State.thawAll
    grind [OptCanonical, Dev.Canonical, State.foldl_canonical, !State.readFreeze_canonical,
      !State.forceReset_canonical, !State.fatalBy_canonical]

theorem State.thawStep_canonical {s : State} (h : s.Canonical) (scope die cluster) :
    (s.thawStep scope die cluster).Canonical := by
  unfold State.thawStep
  grind [OptCanonical, !State.thawAll_canonical, !State.postOnce_canonical, !State.mapDies_canonical]

theorem State.fetchWord_canonical {s : State} (h : s.Canonical) (a pc) : (s.fetchWord a pc).2.2.Canonical := by
  unfold State.fetchWord
  grind [!State.translate_canonical]

theorem State.fetchBody_canonical {s : State} (h : s.Canonical) (a cur pc w) :
    (s.fetchBody a cur pc w).2.Canonical := by
  unfold State.fetchBody
  grind [!State.fetchWord_canonical]

theorem State.fetch_canonical {s : State} (h : s.Canonical) (g x e) : (s.fetch g x e).2.Canonical := by
  unfold State.fetch
  grind [!State.fetchWord_canonical, !State.fetchBody_canonical]

theorem State.formDoneAt_canonical {s : State} (h : s.Canonical) (v r ws) : (s.formDoneAt v r ws).Canonical := by
  unfold State.formDoneAt
  grind [!State.retireAwaiting_canonical, !State.post_canonical, !State.expect_canonical]

theorem State.unmapUndo_canonical {s : State} (h : s.Canonical) (n fr page) : (s.unmapUndo n fr page).Canonical := h

theorem State.mapShared_canonical {s : State} (h : s.Canonical) (fr session page) :
    OptCanonical (s.mapShared fr session page) := by
  unfold State.mapShared
  grind [OptCanonical, !State.setDie_canonical]

theorem State.takePool_canonical {s : State} (h : s.Canonical) (die) : PairCanonical (s.takePool die) := by
  unfold State.takePool
  grind [State.Canonical, PairCanonical]

theorem State.putFrame_canonical {s : State} (h : s.Canonical) (fr bs) : (s.putFrame fr bs).Canonical := by
  refine ⟨State.putFrame_wf h.1 fr bs, ?_⟩
  have hd := State.dropFrame_canonical h fr
  simp only [State.putFrame]
  exact hd.2

theorem State.newEntry_canonical {s : State} (h : s.Canonical) (die group bs slot) :
    PairCanonical (s.newEntry die group bs slot) := by
  unfold State.newEntry
  grind [PairCanonical, !State.takePool_canonical, !State.retag_canonical, !State.putFrame_canonical,
    !State.setDie_canonical]

theorem State.sendReport_canonical {s : State} (h : s.Canonical) (kind frame die ms) :
    (s.sendReport kind frame die ms).Canonical := by
  unfold State.sendReport
  grind [State.Canonical, !State.postAll_canonical]

theorem State.countErr_canonical {s : State} (h : s.Canonical) (die i) : (s.countErr die i).Canonical := by
  unfold State.countErr
  grind [!State.setDie_canonical]

/-- The state in which a page is mapped to a shared frame (R351). -/
theorem State.remapped_canonical {s : State} (h : s.Canonical) (n page fr nw p q x : Nat) :
    OptCanonical (((s.strike n (fun l => decide (l / 32 = page))).mapShared nw n page).map fun s1 =>
      (((s1.wr p 8 x).wr q 8 0).dropPage n page).unmapUndo n fr page) := by
  have hm := State.mapShared_canonical (State.strike_canonical h n (fun l => decide (l / 32 = page))) nw n page
  refine optCanonical_map fun t ht => ?_
  exact State.unmapUndo_canonical (State.dropPage_canonical (State.wr_canonical (State.wr_canonical (hm.of_some ht) _
    _ _) _ _ _) _ _) _ _ _

theorem State.sharePage_canonical {s : State} (h : s.Canonical) (n page p q e t k) :
    (s.sharePage n page p q e t k).Canonical := by
  unfold State.sharePage
  dsimp only
  split
  · split
    · exact (State.remapped_canonical h _ _ _ _ _ _ _).of_some ‹_›
    · trivial
  · split
    · trivial
    split
    · trivial
    next hn =>
    have h1 := (State.newEntry_canonical h _ _ _ _).of_some hn
    split
    · exact (State.remapped_canonical h1 _ _ _ _ _ _ _).of_some ‹_›
    · trivial
  · exact State.sendReport_canonical (State.countErr_canonical h _ _) _ _ _ _

theorem State.retarget_canonical {s : State} (h : s.Canonical) (p) : (s.retarget p).Canonical := by
  unfold State.retarget
  grind [State.Canonical, !State.postAll_canonical]

theorem State.retargetPage_canonical {s : State} (h : s.Canonical) (n page) : (s.retargetPage n page).Canonical := h

theorem State.giveFrame_canonical {s : State} (h : s.Canonical) (n fr) : (s.giveFrame n fr).Canonical := by
  unfold State.giveFrame
  grind [!State.setCtx_canonical, !State.wr_canonical]

theorem State.unsharePage_canonical {s : State} (h : s.Canonical) (n page p q e c nw) :
    (s.unsharePage n page p q e c nw).Canonical := by
  unfold State.unsharePage
  grind [!State.wr_canonical, !State.putFrame_canonical, !State.giveFrame_canonical, !State.unmapUndo_canonical,
    !State.strike_canonical, !State.unmapShared_canonical, !State.retargetPage_canonical, !State.dropPage_canonical]

theorem State.takePair_canonical {s : State} (h : s.Canonical) (n) : PairCanonical (s.takePair n) := by
  unfold State.takePair
  refine pairCanonical_map fun p _ => ?_
  have hw := State.foldl_canonical (fun t e ht => State.wr_canonical ht
      (s.stackBase n + 8 * ((s.stackFrames n).length - 1 - p.2 + e.1)) 8 (e.2 * 4096))
    (List.zip (List.range ((s.stackFrames n).take p.1 ++ ((s.stackFrames n).take p.2).drop (p.1 + 1)).reverse.length)
      ((s.stackFrames n).take p.1 ++ ((s.stackFrames n).take p.2).drop (p.1 + 1)).reverse) h
  grind [!State.setCtx_canonical, !State.retag_canonical]

theorem State.forkLeaf_canonical {s : State} (h : s.Canonical) (tpl child page p) :
    ∀ lo hi t, s.forkLeaf tpl child page p = some (lo, hi, t) → t.Canonical := by
  intro lo hi t ht
  unfold State.forkLeaf at ht
  dsimp only at ht
  have hsh := State.sharePage_canonical h tpl page (s.now p) (s.now (p + 4096)) (BitVec.ofNat 64 (s.rd (s.now p) 8))
    false 0
  grind [OptCanonical, PairCanonical, Shared.Canonical, !State.mapShared_canonical, !State.takeFrame_canonical,
    !State.putFrame_canonical, !State.dropCopies_canonical]

theorem State.forkLeaves_canonical {s : State} (h : s.Canonical) (tpl child key old new is) :
    OptCanonical (State.forkLeaves tpl child key old new is s) := by
  induction is generalizing s with
  | nil => exact h
  | cons x r ih =>
    unfold State.forkLeaves
    grind [OptCanonical, State.forkLeaf_canonical, !State.wr_canonical]

theorem State.forkEntries_canonical {s : State} (h : s.Canonical) (level key old new)
    {below : ℕ → ℕ → State → Option (ℕ × State)} (is)
    (hbelow : ∀ {t : State}, t.Canonical → ∀ m n, PairCanonical (below m n t)) :
    OptCanonical (State.forkEntries level key old new below is s) := by
  induction is generalizing s with
  | nil => exact h
  | cons x r ih =>
    unfold State.forkEntries
    grind [OptCanonical, PairCanonical, !State.wr_canonical]

theorem State.forkTable_canonical {s : State} (h : s.Canonical) (tpl child level key old) :
    PairCanonical (State.forkTable tpl child level key old s) := by
  induction level generalizing s key old with
  | zero =>
    unfold State.forkTable
    split
    · trivial
    next fr s1 ht =>
    have h1 := (State.takePair_canonical h child).of_some ht
    generalize List.range 512 = is
    have h2 := State.forkLeaves_canonical (State.putFrame_canonical (State.putFrame_canonical h1 fr []) (fr + 1) [])
      tpl child key old (fr * 4096) is
    generalize State.forkLeaves tpl child key old (fr * 4096) is _ = o at h2 ⊢
    exact pairCanonical_map fun s2 e => h2.of_some e
  | succ level ih =>
    unfold State.forkTable
    split
    · trivial
    next fr s1 ht =>
    have h1 := (State.takeFrame_canonical h child).of_some ht
    generalize List.range 512 = is
    have h2 := State.forkEntries_canonical (State.putFrame_canonical h1 fr []) (level + 1) key old (fr * 4096) is
      (fun hu m n => ih hu m n)
    generalize State.forkEntries (level + 1) key old (fr * 4096) _ is _ = o at h2 ⊢
    exact pairCanonical_map fun s2 e => h2.of_some e

theorem State.makeCut_canonical {s : State} (h : s.Canonical) (n) : (s.makeCut n).Canonical := h

theorem State.fork_canonical {s : State} (h : s.Canonical) (tpl child) : (s.fork tpl child).2.2.Canonical := by
  unfold State.fork
  grind [PairCanonical, !State.forkTable_canonical, !State.setImages_canonical, !State.setCtx_canonical,
    !State.setSes_canonical, !State.setSesState_canonical, !State.makeCut_canonical]

theorem State.dropKeys_canonical {s : State} (h : s.Canonical) (p) : (s.dropKeys p).Canonical := h

theorem State.releaseKeys_canonical {s : State} (h : s.Canonical) (n) : (s.releaseKeys n).Canonical := by
  unfold State.releaseKeys
  grind [!State.setCtx0_canonical, !State.dropKeys_canonical]

theorem State.putKey_canonical {s : State} (h : s.Canonical) (die slot k) : (s.putKey die slot k).Canonical := by
  unfold State.putKey
  grind [State.Canonical, State.foldl_canonical, !State.putFrame_canonical, !State.setDie_canonical]

theorem State.genKey_canonical {s : State} (h : s.Canonical) (die slot title owner part) :
    (s.genKey die slot title owner part).Canonical := by
  unfold State.genKey
  grind [!State.putKey_canonical, !State.setDie_canonical]

set_option maxRecDepth 8000 in
theorem State.titleKeys_canonical {s : State} (h : s.Canonical) (group part ds) :
    OptCanonical (State.titleKeys group part ds s) := by
  induction ds generalizing s with
  | nil => exact h
  | cons d r ih =>
    have e : State.titleKeys group part (d :: r) s = match s.freeSlot d with
      | some i => if s.keyRoom part d then State.titleKeys group part r (s.genKey d i true group part) else none
      | none => none := rfl
    rw [e]
    split
    · split
      · exact ih (State.genKey_canonical h _ _ _ _ _)
      · trivial
    · trivial

theorem State.keyForm_canonical {s : State} (h : s.Canonical) (w die part) :
    (s.keyForm w die part).2.2.Canonical := by
  unfold State.keyForm
  grind [OptCanonical, !State.releaseKeys_canonical, !State.setCtx0_canonical, !State.genKey_canonical,
    !State.dropKeys_canonical, !State.titleKeys_canonical]

theorem State.assignFrame_canonical {s : State} (h : s.Canonical) (pa w) : (s.assignFrame pa w).2.2.Canonical := by
  unfold State.assignFrame
  grind [!State.retag_canonical, !State.putFrame_canonical]

theorem State.migrate_canonical {s : State} (h : s.Canonical) (n target) : (s.migrate n target).2.2.Canonical := by
  unfold State.migrate
  dsimp only
  split
  · exact h
  split
  · exact h
  split
  · next i k _ _ =>
    exact State.setSes_canonical (State.setCtx0_canonical (State.setCtx0_canonical (State.setCtx0_canonical
      (State.setCtx0_canonical (State.putKey_canonical h _ _ _) _ _ _ _) _ _ _ _) _ _ _ _) _ _ _ _) _ _
  · exact h

theorem State.migrated_canonical {s : State} (h : s.Canonical) (n) : (s.migrated n).2.2.Canonical := by
  unfold State.migrated
  grind [!State.setCtx0_canonical, !State.dropKeys_canonical]

theorem State.openSession_canonical {s : State} (h : s.Canonical) (n) : (s.openSession n).2.2.Canonical := by
  unfold State.openSession
  grind [!State.setImages_canonical, !State.setCtx_canonical, !State.setCtx0_canonical, !State.setSes_canonical,
    !State.setSesState_canonical, !State.makeCut_canonical]

theorem State.unmapAll_canonical {s : State} (h : s.Canonical) (n) : (s.unmapAll n).Canonical := by
  unfold State.unmapAll
  grind [State.Canonical, State.foldl_canonical, !State.unmapShared_canonical]

theorem State.closeSession_canonical {s : State} (h : s.Canonical) (n) : (s.closeSession n).2.2.Canonical := by
  unfold State.closeSession
  grind [!State.setSesState_canonical, !State.setImages_canonical, !State.releaseKeys_canonical,
    !State.unmapAll_canonical, !State.setSes_canonical]

theorem State.unhold_canonical {s : State} (h : s.Canonical) (g e) : PairCanonical (s.unhold g e) := by
  unfold State.unhold
  grind [State.Canonical, PairCanonical, !State.setGang_canonical]

theorem State.deliver_canonical {s : State} (h : s.Canonical) (g lane ws) : (s.deliver g lane ws).Canonical := by
  unfold State.deliver
  grind [!State.updGang_canonical, !State.setCore_canonical]

theorem State.takeMsg_canonical {s : State} (h : s.Canonical) (n ep) : PairCanonical (s.takeMsg n ep) := by
  unfold State.takeMsg
  grind [PairCanonical, !State.setSes_canonical]

theorem State.unitTrap_canonical {s : State} (h : s.Canonical) (g x e) : (s.unitTrap g x e).Canonical := by
  unfold State.unitTrap
  grind [!State.raise_canonical, !State.setGang_canonical]

theorem State.foreignTrap_canonical {s : State} (h : s.Canonical) (g x e) : (s.foreignTrap g x e).Canonical := by
  unfold State.foreignTrap
  grind [!State.raise_canonical, !State.setGang_canonical]

end Sys2Proof.Machine

/-! PROOFS. O60: what the operations keep of the memories, part 5. -/
namespace Sys2Proof.Machine

theorem State.owedTrap_canonical {s : State} (h : s.Canonical) (g x e) : (s.owedTrap g x e).Canonical := by
  unfold State.owedTrap
  grind [!State.unitTrap_canonical, !State.foreignTrap_canonical]

theorem State.placeMember_canonical {s : State} (h : s.Canonical) (x crew rank core cmb) :
    (s.placeMember x crew rank core cmb).Canonical := by
  unfold State.placeMember
  grind [State.Canonical, !State.cleanL1_canonical, !State.setCore_canonical]

theorem State.placeMembers_canonical {s : State} (h : s.Canonical) (x crew rank ks bs) :
    (s.placeMembers x crew rank ks bs).Canonical := by
  induction ks generalizing s rank bs with
  | nil => unfold State.placeMembers; exact h
  | cons x r ih =>
    unfold State.placeMembers
    grind [!State.placeMember_canonical]

theorem State.launchNow_canonical {s : State} (h : s.Canonical) (x) : (s.launchNow x).Canonical := by
  unfold State.launchNow
  grind [State.Canonical, !State.fresh_canonical, !State.placeMembers_canonical]

theorem State.updPipe_canonical {s : State} (h : s.Canonical) (n num f) : (s.updPipe n num f).Canonical := by
  unfold State.updPipe
  grind [!State.setSes_canonical]

theorem State.commitRecs_canonical {s : State} (h : s.Canonical) (n num qi stage void seqs) :
    (State.commitRecs n num qi stage void seqs s).Canonical := by
  induction seqs generalizing s with
  | nil => exact h
  | cons x r ih =>
    unfold State.commitRecs
    grind [Dev.Canonical, !State.devStore_canonical, !State.updPipe_canonical]

theorem State.voidAll_canonical {s : State} (h : s.Canonical) (tid rs) : (State.voidAll tid rs s).Canonical := by
  induction rs generalizing s with
  | nil => exact h
  | cons x r ih =>
    unfold State.voidAll
    grind [Dev.Canonical, !State.commitRecs_canonical, !State.postOnce_canonical]

theorem State.endInstance_canonical {s : State} (h : s.Canonical) (c) : (s.endInstance c).Canonical := by
  unfold State.endInstance
  grind [!State.updPipe_canonical]

theorem State.endFleets_canonical {s : State} (h : s.Canonical) (n) : (s.endFleets n).Canonical := by
  unfold State.endFleets
  grind [!State.setSes_canonical, !State.setSesState_canonical]

theorem State.endCrew_canonical {s : State} (h : s.Canonical) (c) : (s.endCrew c).Canonical := by
  unfold State.endCrew
  grind [State.Canonical, !State.answerAll_canonical, !State.endInstance_canonical, !State.endFleets_canonical,
    !State.graphSteps_canonical]

theorem State.tryRestore_canonical {s : State} (h : s.Canonical) (w) : (s.tryRestore w).Canonical := by
  unfold State.tryRestore
  grind [!State.answer_canonical, !State.restoreCrew_canonical]

theorem State.serveRestores_canonical {s : State} (h : s.Canonical) : (s.serveRestores).Canonical := by
  unfold State.serveRestores
  grind [State.Canonical, State.foldl_canonical, !State.tryRestore_canonical]

theorem State.exitTeam_canonical {s : State} (h : s.Canonical) (core t e) : (s.exitTeam core t e).Canonical := by
  unfold State.exitTeam
  grind [State.Canonical, State.foldl_canonical, Dev.Canonical, !State.post_canonical, !State.voidAll_canonical,
    !State.freeTeam_canonical, !State.logRows_canonical, !State.updCrew_canonical, !State.endCrew_canonical,
    !State.settleCbar_canonical, !State.graphSteps_canonical, !State.serveRestores_canonical]

theorem State.logAcc_canonical {s : State} (h : s.Canonical) (session core k) :
    (s.logAcc session core k).Canonical := by
  unfold State.logAcc
  grind [!State.setSes_canonical]

theorem State.putTile_canonical {s : State} (h : s.Canonical) (core session t T r w x) :
    (s.putTile core session t T r w x).Canonical := by
  unfold State.putTile
  grind [!State.updStore_canonical, !State.logRows_canonical]

theorem State.runMx_canonical {s : State} (h : s.Canonical) (core k t m) : (s.runMx core k t m).Canonical := by
  unfold State.runMx
  grind [State.Canonical, State.foldl_canonical, !State.logAcc_canonical, !State.updAcc_canonical,
    !State.deliver_canonical, !State.putTile_canonical]

theorem State.retireMx_canonical {s : State} (h : s.Canonical) (core k t m) : (s.retireMx core k t m).Canonical := by
  unfold State.retireMx
  grind [Claim.Canonical, !State.post_canonical, !State.recheck_canonical, !State.runMx_canonical,
    !State.updCmd_canonical, !State.finishCmd_canonical, !State.setCore_canonical]

theorem State.endPlace_canonical {s : State} (h : s.Canonical) (core k t e n write) :
    (s.endPlace core k t e n write).2.Canonical := by
  unfold State.endPlace
  grind [!State.translate_canonical]

theorem State.watchHome_canonical {s : State} (h : s.Canonical) (crew g pc seq bit p n) :
    (s.watchHome crew g pc seq bit p n).Canonical := by
  unfold State.watchHome
  grind [!State.trigger_canonical]

theorem State.landAll_canonical {s : State} (h : s.Canonical) (core id n) : (s.landAll core id n).Canonical := by
  unfold State.landAll
  grind [State.Canonical, State.foldl_canonical, !State.postOnce_canonical]

theorem State.endCmdGang_canonical {s : State} (h : s.Canonical) (k cause info addr) :
    (s.endCmdGang k cause info addr).Canonical := by
  unfold State.endCmdGang
  grind [!State.fatalBy_canonical, !State.postOnce_canonical]

theorem State.cmdFault_canonical {s : State} (h : s.Canonical) (core k e write r) :
    (s.cmdFault core k e write r).Canonical := by
  unfold State.cmdFault
  grind [!State.joinFid_canonical, !State.updCmd_canonical, !State.endCmdGang_canonical, !State.discardCmd_canonical,
    !State.post_canonical]

theorem State.deliverPiece_canonical {s : State} (h : s.Canonical) (core q t k) :
    (s.deliverPiece core q t k).Canonical := by
  unfold State.deliverPiece
  grind [!State.post_canonical, !State.endPlace_canonical, !State.wantEngine_canonical, !State.waitPlace_canonical,
    !State.watchHome_canonical, !State.landAll_canonical, !State.updCmd_canonical, !State.updTeam_canonical,
    !State.devWrite_canonical, !State.cmdFault_canonical]

theorem State.writeFreeze_canonical {s : State} (h : s.Canonical) (die session) :
    (s.writeFreeze die session).Canonical := by
  unfold State.writeFreeze
  grind [Dev.Canonical, !State.devStore_canonical]

theorem State.shelve_canonical {s : State} (h : s.Canonical) (n) : (s.shelve n).Canonical := by
  unfold State.shelve
  grind [!State.setSes_canonical]

theorem State.drainNow_canonical {s : State} (h : s.Canonical) (c) : (s.drainNow c).Canonical := by
  unfold State.drainNow
  grind [State.Canonical, Dev.Canonical, !State.writeFreeze_canonical, !State.post_canonical,
    !State.forceReset_canonical, !State.freeCrew_canonical, !State.shelve_canonical, !State.serveRestores_canonical,
    !State.answerAll_canonical]

theorem State.giveSlice_canonical {s : State} (h : s.Canonical) (die p) : (s.giveSlice die p).Canonical := by
  unfold State.giveSlice
  grind [State.Canonical, !State.setDie_canonical, !State.serveRestores_canonical]

theorem State.served?_canonical {s : State} (h : s.Canonical) (core coh pa n vl) :
    PairCanonical (s.served? core coh pa n vl) := by
  unfold State.served?
  grind [PairCanonical, !State.fill_canonical]

theorem State.servedLoad?_canonical {s : State} (h : s.Canonical) (a) : OptCanonical (s.servedLoad? a) := by
  unfold State.servedLoad?
  split
  · next pa coh _ _ =>
    refine optCanonical_map fun r hr => ?_
    exact State.postAll_canonical ((State.served?_canonical h _ _ _ _ _).of_some (t := r.2) hr) _
  · trivial

theorem State.endAccess_canonical {s : State} (h : s.Canonical) (a cause info addr) :
    (s.endAccess a cause info addr).Canonical := by
  unfold State.endAccess
  grind [!State.fatalBy_canonical, !State.postOnce_canonical]

theorem State.retry_canonical {s : State} (h : s.Canonical) (a) : (s.retry a).Canonical := by
  unfold State.retry
  grind [Again.Canonical, !State.resolve1_canonical, !State.wantCut_canonical, !State.sendAccess_canonical,
    !State.endAccess_canonical]

theorem State.again_canonical {s : State} (h : s.Canonical) (e) : (s.again e).Canonical := h

theorem State.joinAccess_canonical {s : State} (h : s.Canonical) (a k host at_ lanes) :
    (s.joinAccess a k host at_ lanes).2.Canonical := by
  unfold State.joinAccess
  grind [!State.joinFid_canonical]

theorem State.parkLate_canonical {s : State} (h : s.Canonical) (a fid) : (s.parkLate a fid).Canonical := by
  unfold State.parkLate
  grind [!State.updGang_canonical]

theorem State.restart_canonical {s : State} (h : s.Canonical) (a) : (s.restart a).Canonical := by
  unfold State.restart
  grind [Again.Canonical, !State.retry_canonical, !State.again_canonical, !State.joinAccess_canonical,
    !State.parkLate_canonical]

theorem State.watchAccess_canonical {s : State} (h : s.Canonical) (a p) : (s.watchAccess a p).Canonical := by
  unfold State.watchAccess
  grind [!State.watchHome_canonical]

theorem State.evictSome_canonical {s : State} (h : s.Canonical) (l) : (s.evictSome l).Canonical := by
  unfold State.evictSome
  grind [State.Canonical, !State.dropCopies_canonical, !State.writeBack_canonical]

theorem State.settleAfter_canonical {s : State} (h : s.Canonical) (g) : (s.settleAfter g).Canonical := by
  unfold State.settleAfter
  grind [!State.settleBars_canonical]

theorem State.finish_canonical {s : State} (h : s.Canonical) (a p) : (s.finish a p).Canonical := by
  unfold State.finish
  grind [!State.watchAccess_canonical, !State.evictSome_canonical, !State.settleAfter_canonical]

theorem State.load_canonical {s : State} (h : s.Canonical) (core coh pa n vl) :
    (s.load core coh pa n vl).2.Canonical := by
  unfold State.load
  grind [PairCanonical, !State.served?_canonical, !State.show_canonical, !State.fillHome_canonical]

theorem State.loadAt_canonical {s : State} (h : s.Canonical) (a p n) : (s.loadAt a p n).2.Canonical := by
  unfold State.loadAt
  grind [!State.load_canonical]

theorem State.freezeAll_canonical {s : State} (h : s.Canonical) (ns) : OptCanonical (State.freezeAll ns s) := by
  induction ns generalizing s with
  | nil => exact h
  | cons x r ih =>
    unfold State.freezeAll
    grind [OptCanonical, Dev.Canonical, !State.writeFreeze_canonical, !State.forceReset_canonical]

theorem State.freezeStep_canonical {s : State} (h : s.Canonical) (scope die cluster) :
    (s.freezeStep scope die cluster).2.Canonical := by
  unfold State.freezeStep
  grind [OptCanonical, !State.mapDies_canonical, !State.answerAll_canonical, !State.freezeAll_canonical,
    !State.dropCopies_canonical, !State.writeBack_canonical]

theorem State.acted_canonical {s : State} (h : s.Canonical) (p op r) : (s.acted p op r).Canonical := h

theorem State.setActive_canonical {s : State} (h : s.Canonical) (p on) : (s.setActive p on).Canonical := by
  unfold State.setActive
  grind [State.Canonical]

theorem State.commitPart_canonical {s : State} (h : s.Canonical) (p allowed) :
    (s.commitPart p allowed).Canonical := by
  unfold State.commitPart
  grind [!State.acted_canonical, !State.setActive_canonical]

theorem State.releasePart_canonical {s : State} (h : s.Canonical) (p) : (s.releasePart p).Canonical := by
  unfold State.releasePart
  grind [!State.acted_canonical, !State.setActive_canonical]

theorem State.partCommand_canonical {s : State} (h : s.Canonical) (r w) : (s.partCommand r w).Canonical := by
  unfold State.partCommand
  grind [!State.commitPart_canonical, !State.releasePart_canonical]

theorem State.writeRecord_canonical {s : State} (h : s.Canonical) (r p i w) : (s.writeRecord r p i w).Canonical := by
  unfold State.writeRecord
  grind [State.Canonical]

theorem State.clearErr_canonical {s : State} (h : s.Canonical) (die i w) : (s.clearErr die i w).Canonical := by
  unfold State.clearErr
  grind [!State.setDie_canonical]

theorem State.setAtt_canonical {s : State} (h : s.Canonical) (fn a) : (s.setAtt fn a).Canonical := h

theorem State.attCommand_canonical {s : State} (h : s.Canonical) (fn w) : (s.attCommand fn w).Canonical := by
  unfold State.attCommand
  grind [!State.setAtt_canonical, !State.post_canonical]

theorem State.ring_canonical {s : State} (h : s.Canonical) (r n w) : (s.ring r n w).Canonical := by
  unfold State.ring
  grind [!State.launchWord_canonical]

theorem State.setRecord_canonical {s : State} (h : s.Canonical) (g x i w) : (s.setRecord g x i w).Canonical := by
  unfold State.setRecord
  grind [!State.setGang_canonical, !State.updCrew_canonical]

theorem State.srPoke_canonical {s : State} (h : s.Canonical) (g x k n w) : (s.srPoke g x k n w).Canonical := by
  have hg : ∀ y, (s.setGang g y).Canonical := fun y => State.setGang_canonical h g y
  have ht : ∀ f, (s.updTeam g.core x.team f).Canonical := fun f => State.updTeam_canonical h _ _ f
  have hc : ∀ y, (s.setCore g.core y).Canonical := fun y => State.setCore_canonical h _ y
  have hd : ∀ y, (s.setDie (dieOf g.core) y).Canonical := fun y => State.setDie_canonical h _ y
  unfold State.srPoke
  simp only [apply_ite State.Canonical, hg, ht, hc, hd, h, ite_self]

theorem State.dbgWrite_canonical {s : State} (h : s.Canonical) (w) : (s.dbgWrite w).Canonical := by
  unfold State.dbgWrite
  grind [!State.updStore_canonical, !State.setRecord_canonical, !State.srPoke_canonical]

theorem State.mgmtWrite_canonical {s : State} (h : s.Canonical) (r off w) : (s.mgmtWrite r off w).Canonical := by
  unfold State.mgmtWrite
  grind (splits := 20) [State.Canonical, !State.partCommand_canonical, !State.writeRecord_canonical,
    !State.clearErr_canonical, !State.attCommand_canonical, !State.setAtt_canonical, !State.ring_canonical,
    !State.thawStep_canonical, !State.dbgWrite_canonical]

theorem State.mgmtStore_canonical {s : State} (h : s.Canonical) (r ws) : (s.mgmtStore r ws).2.Canonical := by
  induction ws generalizing s with
  | nil => exact h
  | cons w r ih =>
    unfold State.mgmtStore
    grind [!State.freezeStep_canonical, !State.mgmtWrite_canonical]

theorem State.storeAt_canonical {s : State} (h : s.Canonical) (a p bs) : (s.storeAt a p bs).2.Canonical := by
  unfold State.storeAt
  grind [!State.write_canonical, !State.mgmtStore_canonical, !State.devWrite_canonical]

theorem State.updateAt_canonical {s : State} (h : s.Canonical) (a p bs) : (s.updateAt a p bs).Canonical := by
  unfold State.updateAt
  grind [!State.write_canonical, !State.patchOwn_canonical, !State.storeAt_canonical]

end Sys2Proof.Machine

/-! PROOFS. O60: what the operations keep of the memories, part 6. -/
namespace Sys2Proof.Machine

theorem State.maintain_canonical {s : State} (h : s.Canonical) (core pa coh drop) :
    (s.maintain core pa coh drop).Canonical := by
  unfold State.maintain
  grind [!State.writeBack_canonical, !State.dropCopies_canonical]

theorem State.rebind_canonical {s : State} (h : s.Canonical) (undo session die object shape) :
    (s.rebind undo session die object shape).2.Canonical := by
  unfold State.rebind
  grind [!State.setSes_canonical]

theorem State.perform_canonical {s : State} (h : s.Canonical) (a p) : (s.perform a p).2.Canonical := by
  unfold State.perform
  grind [!State.loadAt_canonical, !State.postAll_canonical, !State.fillHome_canonical, !State.storeAt_canonical,
    !State.updateAt_canonical, !State.maintain_canonical, !State.acquire_canonical, !State.rebind_canonical]

theorem State.strikeEntry_canonical {s : State} (h : s.Canonical) (g stamp) : (s.strikeEntry g stamp).Canonical := by
  unfold State.strikeEntry
  grind [!State.updGang_canonical]

theorem State.putRecord_canonical {s : State} (h : s.Canonical) (c rank num off ws) :
    OptCanonical (s.putRecord c rank num off ws) := by
  unfold State.putRecord
  grind [OptCanonical, !State.span_canonical, !State.writeSpan_canonical]

theorem State.putRecords_canonical {s : State} (h : s.Canonical) (c t gs) :
    OptCanonical (State.putRecords c t gs s) := by
  induction gs generalizing s with
  | nil => exact h
  | cons x r ih =>
    unfold State.putRecords
    grind [OptCanonical, !State.putRecord_canonical]

theorem State.showWaiters_canonical {s : State} (h : s.Canonical) (c what) : (s.showWaiters c what).Canonical := by
  unfold State.showWaiters
  grind [State.Canonical, State.foldl_canonical, !State.showRecords_canonical]

theorem State.instanceArg_canonical {s : State} (h : s.Canonical) (n c g) : (s.instanceArg n c g).Canonical := by
  unfold State.instanceArg
  grind [Dev.Canonical, !State.devRead_canonical, !State.devStore_canonical]

theorem State.startInstance_canonical {s : State} (h : s.Canonical) (n c cluster cores) :
    (s.startInstance n c cluster cores).Canonical := by
  unfold State.startInstance
  grind [Dev.Canonical, !State.instanceArg_canonical, !State.postOnce_canonical, !State.updPipe_canonical,
    !State.post_canonical, !State.updGraph_canonical]

theorem State.startNode_canonical {s : State} (h : s.Canonical) (n g e) : (s.startNode n g e).Canonical := by
  unfold State.startNode
  grind [Dev.Canonical, !State.devStore_canonical, !State.post_canonical, !State.postOnce_canonical,
    !State.updGraph_canonical, !State.updPipe_canonical]

theorem State.leaveNode_canonical {s : State} (h : s.Canonical) (n g num r) : (s.leaveNode n g num r).Canonical := by
  unfold State.leaveNode
  grind [!State.updPipe_canonical, !State.updGraph_canonical, !State.endFleets_canonical, !State.graphSteps_canonical]

theorem State.graphStep_canonical {s : State} (h : s.Canonical) (n num e) : (s.graphStep n num e).Canonical := by
  unfold State.graphStep
  grind [State.Canonical, Dev.Canonical, !State.startNode_canonical, !State.post_canonical, !State.devRead_canonical,
    !State.postOnce_canonical, !State.leaveNode_canonical, !State.updGraph_canonical]

theorem State.newWindow_canonical {s : State} (h : s.Canonical) (die) : (s.newWindow die).Canonical := by
  unfold State.newWindow
  grind [State.Canonical, !State.setDie_canonical, !State.postOnce_canonical, !State.giveSlice_canonical]

theorem State.failAttempt_canonical {s : State} (h : s.Canonical) (n) : (s.failAttempt n).Canonical := by
  unfold State.failAttempt
  grind [!State.drop_canonical, !State.answerAll_canonical, !State.setSes_canonical]

theorem State.undoAccs_canonical {s : State} (h : s.Canonical) (n as) : (s.undoAccs n as).Canonical := by
  induction as generalizing s with
  | nil => exact h
  | cons x r ih =>
    unfold State.undoAccs
    grind [Dev.Canonical, !State.setSes_canonical, !State.setCore_canonical, !State.spill_canonical]

theorem State.undoVirtual_canonical {s : State} (h : s.Canonical) (n ls) : (s.undoVirtual n ls).Canonical := by
  induction ls generalizing s with
  | nil => exact h
  | cons x r ih =>
    unfold State.undoVirtual
    grind [Dev.Canonical, !State.setSes_canonical, !State.devStore_canonical]

theorem State.applyUndo_canonical {s : State} (h : s.Canonical) (n) : (s.applyUndo n).Canonical := by
  unfold State.applyUndo
  grind [State.Canonical, State.foldl_canonical, !State.writeHome_canonical, !State.setSes_canonical]

theorem State.restoreCp_canonical {s : State} (h : s.Canonical) (n c) : OptCanonical (s.restoreCp n c) := by
  unfold State.restoreCp
  dsimp only
  refine optCanonical_map fun t ht => ?_
  exact State.postAll_canonical ((State.placeFleets_canonical (State.setSes_canonical h _ _) _ _).of_some ht) _

theorem State.placeAll_canonical {s : State} (h : s.Canonical) (vs) : OptCanonical (s.placeAll vs) := by
  induction vs generalizing s with
  | nil => exact h
  | cons x r ih =>
    unfold State.placeAll
    grind [OptCanonical, !State.placeSaved_canonical]

theorem State.rolledBack_canonical {s : State} (h : s.Canonical) (n) : OptCanonical (s.rolledBack n) := by
  unfold State.rolledBack
  dsimp only
  have h1 := State.freeCrews_canonical (State.quell_canonical h n) n
  generalize (s.quell n).freeCrews n = s1 at h1 ⊢
  split
  · trivial
  next s3 e3 =>
  have h3 := (State.restoreCp_canonical (State.applyUndo_canonical (by exact h1) _) _ _).of_some e3
  refine optCanonical_map fun s4 e4 => ?_
  have h4 := (State.placeAll_canonical h3 _).of_some e4
  exact State.answerAll_canonical (State.answerAll_canonical (State.answerAll_canonical (State.shelve_canonical
    (State.setSesState_canonical (State.setSes_canonical h4 _ _) _ _) _) _ _) _ _) _ _

theorem State.rollBack_canonical {s : State} (h : s.Canonical) (n) : (s.rollBack n).Canonical := by
  have hlater : ∀ {t : State}, t.Canonical → ((t.setSesState n 3).postOnce (.rollback n)).Canonical := fun ht =>
    State.postOnce_canonical (State.setSesState_canonical ht _ _) _
  unfold State.rollBack
  dsimp only
  split
  · exact h
  split
  · exact hlater h
  split
  · exact hlater (State.wantEngine_canonical h _ _ _)
  have hf : (if (s.sesCmds n).any Cmd.isMatrix then s.writeFreeze (s.sesHome n) n else .done () s : Dev
    Unit).Canonical := by
    split
    · exact State.writeFreeze_canonical h _ _
    · exact h
  split <;> rename_i e <;> rw [e] at hf
  · exact hlater hf
  · exact State.forceReset_canonical hf _
  next s1 =>
  have ha := State.undoAccs_canonical (show s1.Canonical from hf) n (s1.ses n).accUndo
  split <;> rename_i e <;> rw [e] at ha
  · exact hlater ha
  · exact State.forceReset_canonical ha _
  next s2 =>
  have hv := State.undoVirtual_canonical (State.applyUndo_canonical (show s2.Canonical from ha) n) n (s2.ses n).undoVa
  split <;> rename_i e <;> rw [e] at hv
  · exact hlater hv
  · exact State.forceReset_canonical hv _
  next s3 =>
  have hr := State.rolledBack_canonical (show s3.Canonical from hv) n
  cases e4 : s3.rolledBack n with
  | none => exact hlater hv
  | some s4 => exact hr.of_some e4

theorem State.progress_canonical {s : State} (h : s.Canonical) (x) : (s.progress x).Canonical := h

theorem State.unitBad_canonical {s : State} (h : s.Canonical) (x) : (s.unitBad x).Canonical := h

theorem State.unitReturn_canonical {s : State} (h : s.Canonical) (x ws) : (s.unitReturn x ws).Canonical := h

theorem State.setVr_canonical {s : State} (h : s.Canonical) (die k v) : (s.setVr die k v).Canonical := h

theorem State.unitSpanFrom_canonical {s : State} (h : s.Canonical) (x kind fuel va n off) :
    (State.unitSpanFrom x kind fuel s va n off).2.Canonical := by
  induction fuel generalizing s va n off with
  | zero => exact h
  | succ fuel ih =>
    unfold State.unitSpanFrom
    grind [!State.translate_canonical, !State.waitPlace_canonical]

theorem State.unitSpan_canonical {s : State} (h : s.Canonical) (x kind va n) :
    (s.unitSpan x kind va n).2.Canonical := by
  unfold State.unitSpan
  grind [!State.unitSpanFrom_canonical]

theorem State.unitWrite_canonical {s : State} (h : s.Canonical) (x ps bs) : (s.unitWrite x ps bs).Canonical := by
  unfold State.unitWrite
  grind [!State.writeSpan_canonical]

theorem State.openVbuf_canonical {s : State} (h : s.Canonical) (x va n) : (s.openVbuf x va n).Canonical := by
  unfold State.openVbuf
  have hs := State.unitSpan_canonical h x 1 va n
  split <;> rename_i e
  · rw [e] at hs
    refine State.foldl_canonical (fun t p ht => ?_) _ hs
    grind [State.Canonical, !Cells.write_wf, !State.logLine_canonical, !State.unitWrite_canonical]
  · exact h

theorem State.holdWaitf_canonical {s : State} (h : s.Canonical) (x) : (s.holdWaitf x).Canonical := by
  unfold State.holdWaitf
  grind [!State.unitReturn_canonical, !State.setDie_canonical]

theorem State.noteMoved_canonical {s : State} (h : s.Canonical) (x kind va bs) :
    (s.noteMoved x kind va bs).Canonical := h

theorem State.afterLoss_canonical {s : State} (h : s.Canonical) (session cause) :
    (s.afterLoss session cause).Canonical := by
  unfold State.afterLoss
  grind [!State.postOnce_canonical]

theorem State.writeNow_canonical {s : State} (h : s.Canonical) (x va bs) : (s.writeNow x va bs).Canonical := by
  unfold State.writeNow
  grind [!State.unitSpan_canonical, !State.unitWrite_canonical]

theorem State.unitFid_canonical {s : State} (h : s.Canonical) (x va kind off cause host) :
    (s.unitFid x va kind off cause host).2.Canonical := by
  unfold State.unitFid
  grind [!State.joinFid_canonical]

theorem State.slotPut_canonical {s : State} (h : s.Canonical) (x typ inst n e key va len k) :
    (s.slotPut x typ inst n e key va len k).Canonical := by
  unfold State.slotPut
  grind [Reply.Canonical, !State.unitSpan_canonical, !State.noteMoved_canonical, !State.unitWrite_canonical,
    !State.afterLoss_canonical, !State.slotFails_canonical, !State.writeNow_canonical, !State.unitFid_canonical,
    !State.postOnce_canonical, !State.setDie_canonical]

theorem State.giveFinal_canonical {s : State} (h : s.Canonical) (die typ inst n) :
    (s.giveFinal die typ inst n).Canonical := by
  unfold State.giveFinal
  grind [State.Canonical, State.foldl_canonical, !State.unitReturn_canonical, !State.setDie_canonical]

theorem State.progressSlot_canonical {s : State} (h : s.Canonical) (x) : (s.progressSlot x).Canonical := h

theorem State.unitCause_canonical {s : State} (h : s.Canonical) (x cause) : (s.unitCause x cause).Canonical := h

theorem State.unitFails_canonical {s : State} (h : s.Canonical) (x cause) : (s.unitFails x cause).Canonical := by
  unfold State.unitFails
  grind [!State.afterLoss_canonical, !State.unitCause_canonical]

theorem State.unitStall_canonical {s : State} (h : s.Canonical) (x va kind off cause host) :
    (s.unitStall x va kind off cause host).Canonical := by
  unfold State.unitStall
  grind [!State.unitFid_canonical, !State.setDie_canonical]

theorem State.unitRead_canonical {s : State} (h : s.Canonical) (x va n) : (s.unitRead x va n).Canonical := by
  unfold State.unitRead
  grind [Reply.Canonical, !State.unitSpan_canonical, !State.noteMoved_canonical, !State.unitFails_canonical,
    !State.unitStall_canonical, !State.again_canonical]

theorem State.setBu_canonical {s : State} (h : s.Canonical) (die k f) : (s.setBu die k f).Canonical := h

theorem State.unitPut_canonical {s : State} (h : s.Canonical) (x va bs) : (s.unitPut x va bs).Canonical := by
  unfold State.unitPut
  grind [Reply.Canonical, !State.unitSpan_canonical, !State.noteMoved_canonical, !State.unitWrite_canonical,
    !State.unitFails_canonical, !State.unitStall_canonical, !State.writeNow_canonical, !State.again_canonical]

theorem State.resolveTile_canonical {s : State} (h : s.Canonical) (x f t) {more : BuFrame → State → State}
    (hmore : ∀ {t : State}, t.Canonical → ∀ f, (more f t).Canonical) :
    (s.resolveTile x f t more).Canonical := by
  unfold State.resolveTile
  dsimp only
  split
  · split
    · exact State.again_canonical h _
    · exact State.again_canonical (State.setBu_canonical (State.setDie_canonical h _ _) _ _ _) _
  · have hread : ∀ {u : State} (va n : Nat), u.Canonical →
        (if f.resolved.any (fun r => decide (r.1 = t)) then u.unitRead x va n else .ok [] u : Reply (List
          Byte)).Canonical := by
      intro u va n hu
      split
      · exact State.unitRead_canonical hu _ _ _
      · exact hu
    have h1 := hread (f.tileAt f.vis 8 t) (f.tileLen 8) h
    split <;> rename_i e1
    · exact h1.of_dealt e1
    have h2 := hread (f.tileAt f.tok 4 t) (f.tileLen 4) (h1.of_ok e1)
    split <;> rename_i e2
    · exact h2.of_dealt e2
    split <;> rename_i e3
    · exact (State.unitPut_canonical (h2.of_ok e2) _ _ _).of_dealt e3
    have h3 := (State.unitPut_canonical (h2.of_ok e2) _ _ _).of_ok e3
    split <;> rename_i e4
    · exact (State.unitPut_canonical h3 _ _ _).of_dealt e4
    exact hmore (State.progress_canonical ((State.unitPut_canonical h3 _ _ _).of_ok e4) _) _

theorem State.writeArena_canonical {s : State} (h : s.Canonical) (x f n) : (s.writeArena x f n).Canonical := by
  induction n generalizing s with
  | zero => exact h
  | succ n ih =>
    unfold State.writeArena
    grind [Reply.Canonical, !State.unitPut_canonical]

theorem State.tileRecord_canonical {s : State} (h : s.Canonical) (x f t) {more : State → State}
    (hmore : ∀ {t : State}, t.Canonical → (more t).Canonical) :
    (s.tileRecord x f t more).Canonical := by
  unfold State.tileRecord
  grind [Reply.Canonical, Dev.Canonical, !State.again_canonical, !State.unitPut_canonical, !State.devStore_canonical,
    !State.postOnce_canonical, !State.updPipe_canonical, !State.graphSteps_canonical]

theorem State.setBlu_canonical {s : State} (h : s.Canonical) (die k v) : (s.setBlu die k v).Canonical := h

theorem State.putPixels_canonical {s : State} (h : s.Canonical) (x v n e ps) :
    (State.putPixels x v n e ps s).Canonical := by
  induction ps generalizing s with
  | nil => exact h
  | cons x r ih =>
    unfold State.putPixels
    grind [Reply.Canonical, !State.slotPut_canonical]

theorem State.readTexels_canonical {s : State} (h : s.Canonical) (x t taps) :
    (State.readTexels x t taps s).Canonical := by
  induction taps generalizing s with
  | nil => exact h
  | cons x r ih =>
    unfold State.readTexels
    grind [Reply.Canonical, !State.unitRead_canonical]

theorem State.bvhBytes_canonical {s : State} (h : s.Canonical) (x base nodes) :
    PairCanonical (s.bvhBytes x base nodes) := by
  unfold State.bvhBytes
  grind [PairCanonical, !State.unitSpan_canonical]

/-- A walk that visits its nodes one after another, each from a canonical state, ends in one. -/
theorem Walk.foldl_canonical {f : Walk → Nat → Walk} (hf : ∀ w n, w.Canonical → (f w n).Canonical) (l : List Nat)
    {w : Walk}
    (h : w.Canonical) : (l.foldl f w).Canonical := by
  induction l generalizing w with
  | nil => exact h
  | cons n l ih => exact ih (hf w n h)

theorem State.traverse_canonical {s : State} (h : s.Canonical) (x r base nodes depth i best) :
    (State.traverse x r base nodes depth i best s).Canonical := by
  induction depth generalizing s i best with
  | zero => exact h
  | succ depth ih =>
    unfold State.traverse
    split
    · exact h
    have h1 := State.unitRead_canonical h x (base + 128 * i) 128
    split <;> rename_i e <;> rw [e] at h1
    · exact h1
    dsimp only
    split
    · split
      · exact h1
      · refine Walk.foldl_canonical (fun w n hw => ?_) _ h1
        split
        · split
          · exact hw
          · exact ih hw _ _
        · exact hw
    · split
      · exact h1
      · exact h1
    · exact h1

theorem State.bvoWrites_canonical {s : State} (h : s.Canonical) (x b ws) :
    OptCanonical (State.bvoWrites x b ws s) := by
  induction ws generalizing s with
  | nil => exact h
  | cons x r ih =>
    unfold State.bvoWrites
    grind [OptCanonical, !State.unitSpan_canonical, !State.unitWrite_canonical]

theorem State.freeLimbo_canonical {s : State} (h : s.Canonical) (die b) : OptCanonical (s.freeLimbo die b) := by
  unfold State.freeLimbo
  dsimp only
  split
  · exact h
  split
  · trivial
  split
  · trivial
  next m s1 e1 =>
  have h1 := (State.bvhBytes_canonical h _ _ _).of_some e1
  refine optCanonical_map fun s2 e2 => ?_
  exact State.setDie_canonical ((State.bvoWrites_canonical h1 _ _ _).of_some e2) _ _

theorem State.setStream_canonical {s : State} (h : s.Canonical) (die k v) : (s.setStream die k v).Canonical := h

theorem State.noStream_canonical {s : State} (h : s.Canonical) (x) : (s.noStream x).Canonical := h

theorem State.readRows_canonical {s : State} (h : s.Canonical) (x base pitch n k) :
    (State.readRows x base pitch n k s).Canonical := by
  induction k generalizing s with
  | zero => exact h
  | succ k ih =>
    unfold State.readRows
    grind [Reply.Canonical, !State.unitRead_canonical]

theorem State.resetUnit_canonical {s : State} (h : s.Canonical) (die typ inst) :
    (s.resetUnit die typ inst).Canonical := by
  unfold State.resetUnit
  grind [!State.setDie_canonical, !State.drop_canonical, !State.postAll_canonical]

theorem State.putRing_canonical {s : State} (h : s.Canonical) (part w ws) : (s.putRing part w ws).2.Canonical := by
  unfold State.putRing
  grind [!State.span_canonical, !State.writeSpan_canonical]

theorem State.retryLanes_canonical {s : State} (h : s.Canonical) (g ls) : (s.retryLanes g ls).2.Canonical := by
  induction ls generalizing s with
  | nil => exact h
  | cons x r ih =>
    unfold State.retryLanes
    grind [Again.Canonical, !State.retry_canonical, !State.postOnce_canonical]

theorem State.rejoin_canonical {s : State} (h : s.Canonical) (g un ls) : (s.rejoin g un ls).2.Canonical := by
  induction ls generalizing s with
  | nil => exact h
  | cons x r ih =>
    unfold State.rejoin
    grind [!State.joinAccess_canonical]

end Sys2Proof.Machine

/-! PROOFS. O60: what the operations keep of the memories, part 7. -/
namespace Sys2Proof.Machine

theorem State.retryAll_canonical {s : State} (h : s.Canonical) (g ls) : (s.retryAll g ls).2.Canonical := by
  unfold State.retryAll
  grind [!State.retryLanes_canonical, !State.rejoin_canonical]

theorem State.unparkOne_canonical {s : State} (h : s.Canonical) (p last) : (s.unparkOne p last).Canonical := by
  unfold State.unparkOne
  grind [State.Canonical, !State.updGang_canonical, !State.retireAwaiting_canonical, !State.retire_canonical]

theorem State.unparkAll_canonical {s : State} (h : s.Canonical) (g ps) : (State.unparkAll g ps s).2.Canonical := by
  induction ps generalizing s with
  | nil => exact h
  | cons x r ih =>
    unfold State.unparkAll
    grind [!State.retryAll_canonical, !State.unparkOne_canonical]

theorem State.dataError_canonical {s : State} (h : s.Canonical) (g va) : (s.dataError g va).Canonical := by
  unfold State.dataError
  grind [!State.fatalBy_canonical, !State.postOnce_canonical]

theorem State.poisonFrame_canonical {s : State} (h : s.Canonical) (fr) : (s.poisonFrame fr).Canonical := by
  unfold State.poisonFrame
  grind [!State.setDie_canonical, !State.sendReport_canonical, !State.countErr_canonical, !State.dropFrame_canonical,
    !State.retarget_canonical]

theorem State.privateError_canonical {s : State} (h : s.Canonical) (fr who) : (s.privateError fr who).Canonical := by
  unfold State.privateError
  grind [!State.sendReport_canonical, !State.dataError_canonical, !State.postOnce_canonical, !State.post_canonical,
    !State.drop_canonical, !State.forceReset_canonical]

theorem State.freezeOn_canonical {s : State} (h : s.Canonical) (scope die cluster) :
    (s.freezeOn scope die cluster).Canonical := by
  unfold State.freezeOn
  grind [!State.freezeStep_canonical, !State.postOnce_canonical]

theorem State.boot_canonical {s : State} (h : s.Canonical) (x) : (s.boot x).Canonical := h

theorem State.testMemory_canonical {s : State} (h : s.Canonical) :
    (s.testMemory).Canonical := ⟨Memory.wf_filter h.1 _, h.2⟩

theorem State.startManager_canonical {s : State} (h : s.Canonical) (x) : (s.startManager x).Canonical := by
  unfold State.startManager
  grind [State.Canonical, State.foldl_canonical, !State.writeHome_canonical, !State.openSession_canonical,
    !State.launchNow_canonical]

theorem State.setUp_canonical {s : State} (h : s.Canonical) (x) : (s.setUp x).Canonical := by
  unfold State.setUp
  grind [State.Canonical, !State.setActive_canonical, !State.acted_canonical]

theorem State.startUp_canonical {s : State} (h : s.Canonical) (x) : (s.startUp x).Canonical := by
  unfold State.startUp
  grind [State.Canonical, !State.again_canonical, !State.boot_canonical, !State.testMemory_canonical,
    !State.startManager_canonical, !State.setUp_canonical]

theorem State.setPort_canonical {s : State} (h : s.Canonical) (port p) : (s.setPort port p).Canonical := h

theorem State.joinCollective_canonical {s : State} (h : s.Canonical) (op c) : (s.joinCollective op c).Canonical := by
  unfold State.joinCollective
  grind [State.Canonical, State.foldl_canonical, !State.unitReturn_canonical, !State.postOnce_canonical]

theorem State.serveCollective_canonical {s : State} (h : s.Canonical) (op x m) :
    (s.serveCollective op x m).Canonical := by
  unfold State.serveCollective
  grind [Reply.Canonical, !State.unitBad_canonical, !State.joinCollective_canonical, !State.unitRead_canonical]

theorem State.collectiveReach_canonical {s : State} (h : s.Canonical) (k x kind va n) :
    (s.collectiveReach k x kind va n).Canonical := by
  unfold State.collectiveReach
  grind [Reply.Canonical, !State.unitSpan_canonical, !State.afterLoss_canonical, !State.cancelCollective_canonical,
    !State.unitFid_canonical, !State.postOnce_canonical, !State.setDie_canonical]

theorem State.readSources_canonical {s : State} (h : s.Canonical) (k n size cs) :
    (State.readSources k n size cs s).Canonical := by
  induction cs generalizing s with
  | nil => exact h
  | cons x r ih =>
    unfold State.readSources
    grind [Reply.Canonical, !State.collectiveReach_canonical]

theorem State.reachDests_canonical {s : State} (h : s.Canonical) (k n xs) :
    (State.reachDests k n xs s).Canonical := by
  induction xs generalizing s with
  | nil => exact h
  | cons x r ih =>
    unfold State.reachDests
    grind [Reply.Canonical, !State.collectiveReach_canonical]

theorem State.holdGroup_canonical {s : State} (h : s.Canonical) (g e r) : (s.holdGroup g e r).Canonical := by
  unfold State.holdGroup
  grind [!State.updGang_canonical]

theorem State.fetchFails_canonical {s : State} (h : s.Canonical) (g x e f) : (s.fetchFails g x e f).Canonical := by
  unfold State.fetchFails
  grind [State.Canonical, !State.joinFid_canonical, !State.park_canonical, !State.fatalFault_canonical,
    !State.holdGroup_canonical]

theorem State.loseModules_canonical {s : State} (h : s.Canonical) (p) : (s.loseModules p).Canonical := h

theorem State.noteIssue_canonical {s : State} (h : s.Canonical) (core r i) : (s.noteIssue core r i).Canonical := by
  unfold State.noteIssue
  grind [!State.setCore_canonical, !State.updGang_canonical, !State.updTeam_canonical, !State.updCrew_canonical]

theorem State.reservedTrap_canonical {s : State} (h : s.Canonical) (i) : (s.reservedTrap i).Canonical := by
  unfold State.reservedTrap
  grind [!State.trapNow_canonical]

theorem State.issueGroup_canonical {s : State} (h : s.Canonical) (core r x) :
    (s.issueGroup core r x).state.Canonical := by
  unfold State.issueGroup
  grind [State.Canonical, !State.owedTrap_canonical, !State.noteIssue_canonical, !State.trigger_canonical,
    !State.holdGroup_canonical, !State.fetch_canonical, !State.trapNow_canonical, !State.reservedTrap_canonical,
    !State.fetchFails_canonical]

theorem State.choose_canonical {s : State} (h : s.Canonical) (core) : (s.choose core).state.Canonical := by
  unfold State.choose
  grind [!State.setCore_canonical, !State.issueGroup_canonical]

theorem State.retest_canonical {s : State} (h : s.Canonical) (core slot e) : (s.retest core slot e).Canonical := by
  unfold State.retest
  grind [!State.setGang_canonical]

theorem State.pass_canonical {s : State} (h : s.Canonical) (die n) : (s.pass die n).Canonical := by
  unfold State.pass
  grind [State.Canonical, State.foldl_canonical, !State.setDie_canonical, !State.postOnce_canonical]

theorem issueChecked_canonical {s : State} (h : s.Canonical) (i) {k : View → Shape → State → (State → State) → State}
    (hk : ∀ {t : State} {r : State → State}, t.Canonical → (∀ {u : State}, u.Canonical → (r u).Canonical) →
      ∀ v sh, (k v sh t r).Canonical) :
    OutcomeCanonical (issueChecked i s k) := by
  unfold issueChecked
  grind [OutcomeCanonical, !State.issueWith_canonical]

theorem issue_canonical {s : State} (h : s.Canonical) (i) {k : View → Shape → State → State}
    (hk : ∀ {t : State}, t.Canonical → ∀ v sh, (k v sh t).Canonical) :
    OutcomeCanonical (issue i s k) := by
  unfold issue
  grind [OutcomeCanonical, !issueChecked_canonical]

theorem execNop_canonical {s : State} (h : s.Canonical) : OutcomeCanonical (execNop s) := by
  unfold execNop
  grind [OutcomeCanonical, !issue_canonical, !State.retire_canonical]

theorem execBra_canonical {s : State} (h : s.Canonical) (i) : OutcomeCanonical (execBra i s) := by
  unfold execBra
  grind [OutcomeCanonical, !issue_canonical, !State.branch_canonical]

theorem execBany_canonical {s : State} (h : s.Canonical) (n p i) : OutcomeCanonical (execBany n p i s) := by
  unfold execBany
  grind [OutcomeCanonical, !issue_canonical, !State.branch_canonical]

theorem execBall_canonical {s : State} (h : s.Canonical) (n p i) : OutcomeCanonical (execBall n p i s) := by
  unfold execBall
  grind [OutcomeCanonical, !issue_canonical, !State.branch_canonical]

theorem execCall_canonical {s : State} (h : s.Canonical) (i) : OutcomeCanonical (execCall i s) := by
  unfold execCall
  grind [OutcomeCanonical, !issue_canonical, !State.jump_canonical, !State.writeLink_canonical]

theorem execRet_canonical {s : State} (h : s.Canonical) (a) : OutcomeCanonical (execRet a s) := by
  unfold execRet
  grind [OutcomeCanonical, !issue_canonical, !State.jump_canonical]

theorem execBrr_canonical {s : State} (h : s.Canonical) (a) : OutcomeCanonical (execBrr a s) := by
  unfold execBrr
  grind [OutcomeCanonical, !issue_canonical, !State.moved_canonical]

theorem execBrrL_canonical {s : State} (h : s.Canonical) (a) : OutcomeCanonical (execBrrL a s) := by
  unfold execBrrL
  grind [OutcomeCanonical, !issue_canonical, !State.jump_canonical, !State.writeLink_canonical]

theorem execIfP_canonical {s : State} (h : s.Canonical) (n p i) : OutcomeCanonical (execIfP n p i s) := by
  unfold execIfP
  grind [OutcomeCanonical, !issueChecked_canonical, !State.trapNow_canonical, !State.moved_canonical]

theorem execElseP_canonical {s : State} (h : s.Canonical) (i) : OutcomeCanonical (execElseP i s) := by
  unfold execElseP
  grind [OutcomeCanonical, !issueChecked_canonical, !State.trapNow_canonical, !State.moved_canonical]

theorem execEndif_canonical {s : State} (h : s.Canonical) : OutcomeCanonical (execEndif s) := by
  unfold execEndif
  grind [OutcomeCanonical, !issueChecked_canonical, !State.trapNow_canonical, !State.moved_canonical]

theorem execLoop_canonical {s : State} (h : s.Canonical) (c i) : OutcomeCanonical (execLoop c i s) := by
  unfold execLoop
  grind [OutcomeCanonical, !issueChecked_canonical, !State.pushLoop_canonical]

theorem execLoopr_canonical {s : State} (h : s.Canonical) (d i) : OutcomeCanonical (execLoopr d i s) := by
  unfold execLoopr
  grind [OutcomeCanonical, !issueChecked_canonical, !State.pushLoop_canonical]

theorem execLbrk_canonical {s : State} (h : s.Canonical) : OutcomeCanonical (execLbrk s) := by
  unfold execLbrk
  grind [OutcomeCanonical, !issueChecked_canonical, !State.trapNow_canonical, !State.moved_canonical]

theorem execRegang_canonical {s : State} (h : s.Canonical) : OutcomeCanonical (execRegang s) := by
  unfold execRegang
  grind [OutcomeCanonical, !issue_canonical, !State.settleRegang_canonical, !State.updGang_canonical]

theorem execExit_canonical {s : State} (h : s.Canonical) : OutcomeCanonical (execExit s) := by
  unfold execExit
  grind [OutcomeCanonical, !issue_canonical, !State.exitSlices_canonical]

theorem execYield_canonical {s : State} (h : s.Canonical) : OutcomeCanonical (execYield s) := by
  unfold execYield
  grind [OutcomeCanonical, !issue_canonical, !State.updGang_canonical, !State.retire_canonical]

theorem execMode_canonical {s : State} (h : s.Canonical) (i) : OutcomeCanonical (execMode i s) := by
  unfold execMode
  grind [OutcomeCanonical, !issue_canonical, !State.retireWith_canonical]

theorem execMtype_canonical {s : State} (h : s.Canonical) (t) : OutcomeCanonical (execMtype t s) := by
  unfold execMtype
  grind [OutcomeCanonical, !issue_canonical, !State.retireWith_canonical]

theorem execMrnd_canonical {s : State} (h : s.Canonical) (r) : OutcomeCanonical (execMrnd r s) := by
  unfold execMrnd
  grind [OutcomeCanonical, !issue_canonical, !State.retireWith_canonical]

theorem execMguard_canonical {s : State} (h : s.Canonical) (g n p) : OutcomeCanonical (execMguard g n p s) := by
  unfold execMguard
  grind [OutcomeCanonical, !issue_canonical, !State.retireWith_canonical]

theorem execMfs_canonical {s : State} (h : s.Canonical) (d sr) : OutcomeCanonical (execMfs d sr s) := by
  unfold execMfs
  grind [OutcomeCanonical, !issueChecked_canonical, !State.trapNow_canonical, !State.retire_canonical,
    !State.result_canonical]

theorem execMts_canonical {s : State} (h : s.Canonical) (d sr) : OutcomeCanonical (execMts d sr s) := by
  unfold execMts
  grind [OutcomeCanonical, SrWrite.Canonical, !issueChecked_canonical, !State.trapNow_canonical,
    !State.retire_canonical, !State.srWrite_canonical, !State.hold_canonical]

theorem execTrap_canonical {s : State} (h : s.Canonical) (i) : OutcomeCanonical (execTrap i s) := by
  unfold execTrap
  grind [OutcomeCanonical, !issue_canonical, !State.trapAfter_canonical]

theorem execRti_canonical {s : State} (h : s.Canonical) : OutcomeCanonical (execRti s) := by
  unfold execRti
  grind [OutcomeCanonical, !issueChecked_canonical, !State.trapNow_canonical, !State.abandonDests_canonical,
    !State.setGang_canonical, !State.postOnce_canonical, !State.updGang_canonical]

theorem execSysKill_canonical {s : State} (h : s.Canonical) : OutcomeCanonical (execSysKill s) := by
  unfold execSysKill
  grind [OutcomeCanonical, !issue_canonical, !State.endNow_canonical]

theorem execSysAbort_canonical {s : State} (h : s.Canonical) (n) : OutcomeCanonical (execSysAbort n s) := by
  unfold execSysAbort
  grind [OutcomeCanonical, !issue_canonical, !State.endNow_canonical]

theorem execBrk_canonical {s : State} (h : s.Canonical) (i) : OutcomeCanonical (execBrk i s) := by
  unfold execBrk
  grind [OutcomeCanonical, !issue_canonical, !State.retire_canonical, !State.trigger_canonical,
    !State.trapAfter_canonical]

theorem execPause_canonical {s : State} (h : s.Canonical) (i) : OutcomeCanonical (execPause i s) := by
  unfold execPause
  grind [OutcomeCanonical, !issue_canonical, !State.retire_canonical, !State.updGang_canonical]

theorem lanesOp_canonical {s : State} (h : s.Canonical) (i d f) : OutcomeCanonical (lanesOp i d s f) := by
  unfold lanesOp
  grind [OutcomeCanonical, !issue_canonical, !State.retire_canonical, !State.result_canonical]

theorem predOp_canonical {s : State} (h : s.Canonical) (i p f) : OutcomeCanonical (predOp i p s f) := by
  unfold predOp
  grind [OutcomeCanonical, !issue_canonical, !State.retire_canonical, !State.result_canonical]

end Sys2Proof.Machine

/-! PROOFS. O60: what the operations keep of the memories, part 8. -/
namespace Sys2Proof.Machine

theorem execSel_canonical {s : State} (h : s.Canonical) (d a b) : OutcomeCanonical (execSel d a b s) := by
  unfold execSel
  grind [OutcomeCanonical, !issue_canonical, !State.retire_canonical, !State.result_canonical]

theorem execPmovGet_canonical {s : State} (h : s.Canonical) (d) : OutcomeCanonical (execPmovGet d s) := by
  unfold execPmovGet
  grind [OutcomeCanonical, !issue_canonical, !State.retire_canonical, !State.result_canonical]

theorem execPmovSet_canonical {s : State} (h : s.Canonical) (a) : OutcomeCanonical (execPmovSet a s) := by
  unfold execPmovSet
  grind [OutcomeCanonical, !issue_canonical, !State.retire_canonical, !State.result_canonical]

theorem execRed_canonical {s : State} (h : s.Canonical) (d a o) : OutcomeCanonical (execRed d a o s) := by
  unfold execRed
  grind [OutcomeCanonical, !issue_canonical, !State.retire_canonical, !State.result_canonical]

theorem execFred_canonical {s : State} (h : s.Canonical) (d a o) : OutcomeCanonical (execFred d a o s) := by
  unfold execFred
  grind [OutcomeCanonical, !issue_canonical, !State.retire_canonical, !State.result_canonical]

theorem execScan_canonical {s : State} (h : s.Canonical) (d a x o) : OutcomeCanonical (execScan d a x o s) := by
  unfold execScan
  grind [OutcomeCanonical, !issue_canonical, !State.retire_canonical, !State.result_canonical]

theorem execFscan_canonical {s : State} (h : s.Canonical) (d a x o) : OutcomeCanonical (execFscan d a x o s) := by
  unfold execFscan
  grind [OutcomeCanonical, !issue_canonical, !State.retire_canonical, !State.result_canonical]

theorem execVote_canonical {s : State} (h : s.Canonical) (d n p) : OutcomeCanonical (execVote d n p s) := by
  unfold execVote
  grind [OutcomeCanonical, !issue_canonical, !State.retire_canonical, !State.result_canonical]

theorem execLid_canonical {s : State} (h : s.Canonical) (d) : OutcomeCanonical (execLid d s) := by
  unfold execLid
  grind [OutcomeCanonical, !issue_canonical, !State.retire_canonical, !State.result_canonical]

theorem loadOp_canonical {s : State} (h : s.Canonical) (i d a off size n) :
    OutcomeCanonical (loadOp i d a off size n s) := by
  unfold loadOp
  grind [OutcomeCanonical, !issueChecked_canonical, !State.issueAccess_canonical, !State.retire_canonical]

theorem storeOp_canonical {s : State} (h : s.Canonical) (i d off size) :
    OutcomeCanonical (storeOp i d off size s) := by
  unfold storeOp
  grind [OutcomeCanonical, !issueChecked_canonical, !State.issueAccess_canonical, !State.retire_canonical]

theorem execLdw_canonical {s : State} (h : s.Canonical) (d a o) : OutcomeCanonical (execLdw d a o s) := by
  unfold execLdw
  grind [OutcomeCanonical, !issueChecked_canonical, !State.issueAccess_canonical, !State.retire_canonical]

theorem execChk_canonical {s : State} (h : s.Canonical) (i) : OutcomeCanonical (execChk i s) := by
  unfold execChk
  grind [OutcomeCanonical, !issueChecked_canonical, !State.hold_canonical, !State.branch_canonical,
    !State.updGang_canonical]

theorem privateOp_canonical {s : State} (h : s.Canonical) (i off k) : OutcomeCanonical (privateOp i off k s) := by
  unfold privateOp
  grind [OutcomeCanonical, !issueChecked_canonical, !State.trapNow_canonical, !State.issueAccess_canonical,
    !State.retire_canonical]

theorem prefetchOp_canonical {s : State} (h : s.Canonical) (i l1 a o) : OutcomeCanonical (prefetchOp i l1 a o s) := by
  unfold prefetchOp
  grind [State.Canonical, State.foldl_canonical, OutcomeCanonical, !issue_canonical, !State.retire_canonical,
    !State.prefetch_canonical]

theorem maintOp_canonical {s : State} (h : s.Canonical) (i drop a o) : OutcomeCanonical (maintOp i drop a o s) := by
  unfold maintOp
  grind [OutcomeCanonical, !issueChecked_canonical, !State.issueAccess_canonical, !State.retire_canonical]

theorem atomicOp_canonical {s : State} (h : s.Canonical) (i op d) : OutcomeCanonical (atomicOp i op d s) := by
  unfold atomicOp
  grind [OutcomeCanonical, !issueChecked_canonical, !State.issueAccess_canonical, !State.retire_canonical]

theorem execAcq_canonical {s : State} (h : s.Canonical) (d a) : OutcomeCanonical (execAcq d a s) := by
  unfold execAcq
  grind [OutcomeCanonical, !issueChecked_canonical, !State.retire_canonical, !State.issueAccess_canonical]

theorem execRel_canonical {s : State} (h : s.Canonical) (d a) : OutcomeCanonical (execRel d a s) := by
  unfold execRel
  grind [OutcomeCanonical, !issueChecked_canonical, !State.retire_canonical, !State.updGang_canonical,
    !State.hold_canonical, !State.trapNow_canonical, !State.issueAccess_canonical, !State.publish_canonical,
    !State.retireAwaiting_canonical]

theorem execBind_canonical {s : State} (h : s.Canonical) (d a b) : OutcomeCanonical (execBind d a b s) := by
  unfold execBind
  grind [OutcomeCanonical, !issueChecked_canonical, !State.retire_canonical, !State.issueAccess_canonical]

theorem execUnbind_canonical {s : State} (h : s.Canonical) (d a b) : OutcomeCanonical (execUnbind d a b s) := by
  unfold execUnbind
  grind [OutcomeCanonical, !issueChecked_canonical, !State.retire_canonical, !State.issueAccess_canonical]

theorem execFence_canonical {s : State} (h : s.Canonical) (scope) : OutcomeCanonical (execFence scope s) := by
  unfold execFence
  grind [OutcomeCanonical, !issueChecked_canonical, !State.hold_canonical, !State.retire_canonical,
    !State.fenced_canonical]

theorem barOp_canonical {s : State} (h : s.Canonical) (i id n split) : OutcomeCanonical (barOp i id n split s) := by
  unfold barOp
  grind [OutcomeCanonical, !issueChecked_canonical, !State.retire_canonical, !State.settleBar_canonical,
    !State.standAt_canonical]

theorem execBarvWait_canonical {s : State} (h : s.Canonical) (id) : OutcomeCanonical (execBarvWait id s) := by
  unfold execBarvWait
  grind [OutcomeCanonical, !issueChecked_canonical, !State.hold_canonical, !State.retire_canonical]

theorem execFetake_canonical {s : State} (h : s.Canonical) (a) : OutcomeCanonical (execFetake a s) := by
  unfold execFetake
  grind [OutcomeCanonical, !issueChecked_canonical, !State.hold_canonical, !State.trapNow_canonical,
    !State.retire_canonical, !State.setCore_canonical]

theorem execFeput_canonical {s : State} (h : s.Canonical) (a b) : OutcomeCanonical (execFeput a b s) := by
  unfold execFeput
  grind [OutcomeCanonical, !issueChecked_canonical, !State.hold_canonical, !State.trapNow_canonical,
    !State.retire_canonical, !State.setCore_canonical]

theorem execWshare_canonical {s : State} (h : s.Canonical) (a b) : OutcomeCanonical (execWshare a b s) := by
  unfold execWshare
  grind [OutcomeCanonical, !issueChecked_canonical, !State.trapNow_canonical, !State.hold_canonical,
    !State.retire_canonical, !State.updGang_canonical, !State.setCore_canonical]

theorem execAcqw_canonical {s : State} (h : s.Canonical) (a b) : OutcomeCanonical (execAcqw a b s) := by
  unfold execAcqw
  grind [OutcomeCanonical, !issueChecked_canonical, !State.retire_canonical, !State.trapNow_canonical,
    !State.resolve1_canonical, !State.watchVirtual_canonical, !State.updGang_canonical, !State.hold_canonical,
    !State.acquire_canonical, !State.fatalFault_canonical, !State.joinFid_canonical, !State.park_canonical]

theorem cbarOp_canonical {s : State} (h : s.Canonical) (i id split) : OutcomeCanonical (cbarOp i id split s) := by
  unfold cbarOp
  grind [OutcomeCanonical, !issueChecked_canonical, !State.retire_canonical, !State.settleCbar_canonical,
    !State.standAt_canonical]

theorem execCbarWait_canonical {s : State} (h : s.Canonical) (id) : OutcomeCanonical (execCbarWait id s) := by
  unfold execCbarWait
  grind [OutcomeCanonical, !issueChecked_canonical, !State.hold_canonical, !State.retire_canonical,
    !State.dropL1S_canonical]

theorem engineOp_canonical {s : State} (h : s.Canonical) (i q check) : OutcomeCanonical (engineOp i q check s) := by
  unfold engineOp
  grind [OutcomeCanonical, !issueChecked_canonical, !State.retire_canonical, !State.trapNow_canonical,
    !State.hold_canonical, !State.logFull_canonical, !State.push_canonical, !State.raisePbc_canonical,
    !State.watchRuns_canonical]

theorem matrixOp_canonical {s : State} (h : s.Canonical) (i dst) : OutcomeCanonical (matrixOp i dst s) := by
  unfold matrixOp
  refine issueChecked_canonical h i ?_
  intro t r ht hr v sh
  split
  · exact State.retire_canonical (hr ht)
  split
  · exact ht
  split
  · exact ht
  next p _ =>
  split
  · exact State.trapNow_canonical ht _ _ _ _
  have hc := State.checkAcc_canonical ht v ‹Team› p
  split <;> rename_i heq <;> rw [heq] at hc
  · exact State.trapNow_canonical hc _ _ _ _
  · exact State.hold_canonical hc _
  · exact hc
  split
  · exact State.hold_canonical hc _
  · exact State.retire_canonical (State.push_canonical (State.expect_canonical (hr hc) _) _ _ _ _)

theorem execAsave_canonical {s : State} (h : s.Canonical) (c) : OutcomeCanonical (execAsave c s) := by
  unfold execAsave
  grind [OutcomeCanonical, Dev.Canonical, !issueChecked_canonical, !State.retire_canonical, !State.push_canonical,
    !State.hold_canonical, !State.spill_canonical, !State.disown_canonical, !State.forceReset_canonical]

theorem execCopyf_canonical {s : State} (h : s.Canonical) (ch t a b) : OutcomeCanonical (execCopyf ch t a b s) := by
  unfold execCopyf
  refine issueChecked_canonical h _ ?_
  intro u r hu hr v sh
  dsimp only
  split
  · exact State.retire_canonical (hr hu)
  split
  · exact hu
  · exact State.trapNow_canonical hu _ _ _ _
  split
  · exact State.trapNow_canonical hu _ _ _ _
  · exact hu
  next p _ _ =>
  split
  · exact State.trapNow_canonical hu _ _ _ _
  have hc := State.checkAcc_canonical hu v ‹Team› p
  split <;> rename_i heq <;> rw [heq] at hc
  · exact State.trapNow_canonical hc _ _ _ _
  · exact State.hold_canonical hc _
  · exact hc
  split
  · exact State.hold_canonical hc _
  split
  · exact State.hold_canonical hc _
  split
  · exact State.logFull_canonical hc _
  · exact State.retire_canonical (State.pushFollow_canonical
      (State.push_canonical (State.watchRuns_canonical (hr hc) _ _ _) _ _ _ _) _ _)

theorem execWait_canonical {s : State} (h : s.Canonical) (cls n) : OutcomeCanonical (execWait cls n s) := by
  unfold execWait
  grind [OutcomeCanonical, !issueChecked_canonical, !State.retire_canonical, !State.hold_canonical]

theorem execCwp_canonical {s : State} (h : s.Canonical) (d ch) : OutcomeCanonical (execCwp d ch s) := by
  unfold execCwp
  grind [OutcomeCanonical, !issue_canonical, !State.retire_canonical, !State.result_canonical]

theorem execQcall_canonical {s : State} (h : s.Canonical) (d r n c) : OutcomeCanonical (execQcall d r n c s) := by
  unfold execQcall
  grind [OutcomeCanonical, !issueChecked_canonical, !State.retire_canonical, !State.capRead_canonical,
    !State.trapNow_canonical, !State.hold_canonical, !State.capClaim_canonical, !State.holdOp_canonical,
    !State.logFull_canonical, !State.calls_canonical]

theorem execQwait_canonical {s : State} (h : s.Canonical) (d r) : OutcomeCanonical (execQwait d r s) := by
  unfold execQwait
  grind [OutcomeCanonical, !issueChecked_canonical, !State.trapNow_canonical, !State.hold_canonical,
    !State.retire_canonical]

theorem execQpoll_canonical {s : State} (h : s.Canonical) (d c) : OutcomeCanonical (execQpoll d c s) := by
  unfold execQpoll
  grind [OutcomeCanonical, !issueChecked_canonical, !State.capRead_canonical, !State.trapNow_canonical,
    !State.retire_canonical, !State.result_canonical]

theorem execSend_canonical {s : State} (h : s.Canonical) (d c) : OutcomeCanonical (execSend d c s) := by
  unfold execSend
  grind [OutcomeCanonical, !issueChecked_canonical, !State.capRead_canonical, !State.trapNow_canonical,
    !State.capClaim_canonical, !State.holdOp_canonical, !State.logFull_canonical, !State.retire_canonical,
    !State.sends_canonical]

theorem execRecv_canonical {s : State} (h : s.Canonical) (d c) : OutcomeCanonical (execRecv d c s) := by
  unfold execRecv
  grind [OutcomeCanonical, !issueChecked_canonical, !State.capRead_canonical, !State.trapNow_canonical,
    !State.retire_canonical, !State.post_canonical, !State.expect_canonical]

theorem execChinfo_canonical {s : State} (h : s.Canonical) (d c) : OutcomeCanonical (execChinfo d c s) := by
  unfold execChinfo
  grind [OutcomeCanonical, !issueChecked_canonical, !State.capRead_canonical, !State.retire_canonical,
    !State.result_canonical]

theorem execCluPbc_canonical {s : State} (h : s.Canonical) (a id) : OutcomeCanonical (execCluPbc a id s) := by
  unfold execCluPbc
  grind [OutcomeCanonical, !issue_canonical, !State.formResult_canonical]

theorem execCluCstat_canonical {s : State} (h : s.Canonical) (a b) : OutcomeCanonical (execCluCstat a b s) := by
  unfold execCluCstat
  grind [OutcomeCanonical, !issueChecked_canonical, !State.trapNow_canonical, !State.formResult_canonical]

theorem issueForm_canonical {s : State} (h : s.Canonical) (i trap dst) {k : View → FormHold → Bool → State → State}
    (hk : ∀ {t : State}, t.Canonical → ∀ v f b, (k v f b t).Canonical) :
    OutcomeCanonical (issueForm i s trap dst k) := by
  unfold issueForm
  grind [OutcomeCanonical, !State.updGang_canonical, !State.formTurn_canonical, !issueChecked_canonical,
    !State.trapNow_canonical]

theorem execXltInv_canonical {s : State} (h : s.Canonical) (a b) : OutcomeCanonical (execXltInv a b s) := by
  unfold execXltInv
  grind [OutcomeCanonical, !issueForm_canonical, !State.dropRange_canonical, !State.strike_canonical,
    !State.holdForm_canonical, !State.retire_canonical]

theorem execXltProbe_canonical {s : State} (h : s.Canonical) (a b) : OutcomeCanonical (execXltProbe a b s) := by
  unfold execXltProbe
  grind [OutcomeCanonical, !issueForm_canonical, !State.holdForm_canonical, !State.formDone_canonical]

theorem fidOp_canonical {s : State} (h : s.Canonical) (i b) {act : State → ℕ → Fid → State}
    (hact : ∀ {t : State}, t.Canonical → ∀ n f, (act t n f).Canonical) :
    OutcomeCanonical (fidOp i b s act) := by
  unfold fidOp
  grind [OutcomeCanonical, !issue_canonical, !State.formDone_canonical]

theorem execXltReplay_canonical {s : State} (h : s.Canonical) (b) : OutcomeCanonical (execXltReplay b s) := by
  unfold execXltReplay
  grind [OutcomeCanonical, !fidOp_canonical, !State.replay_canonical]

theorem execXltCancel_canonical {s : State} (h : s.Canonical) (b) : OutcomeCanonical (execXltCancel b s) := by
  unfold execXltCancel
  grind [OutcomeCanonical, !fidOp_canonical, !State.cancel_canonical]

theorem execXltFblk_canonical {s : State} (h : s.Canonical) (a b) : OutcomeCanonical (execXltFblk a b s) := by
  unfold execXltFblk
  grind [State.Canonical, OutcomeCanonical, !issue_canonical, !State.formDone_canonical, !State.dropCopies_canonical,
    !State.writeBack_canonical]

theorem execXltFmove_canonical {s : State} (h : s.Canonical) (a b) : OutcomeCanonical (execXltFmove a b s) := by
  unfold execXltFmove
  grind [State.Canonical, OutcomeCanonical, !issueForm_canonical, !State.formDone_canonical,
    !State.holdForm_canonical, !State.wantPool_canonical, !State.moveUndo_canonical, !State.copyFrame_canonical,
    !State.dropFrame_canonical, !State.postAll_canonical]

theorem execXltFunblk_canonical {s : State} (h : s.Canonical) (a b) : OutcomeCanonical (execXltFunblk a b s) := by
  unfold execXltFunblk
  grind [State.Canonical, OutcomeCanonical, !issueForm_canonical, !State.formDone_canonical,
    !State.holdForm_canonical]

theorem execCkpPreg_canonical {s : State} (h : s.Canonical) (a b) : OutcomeCanonical (execCkpPreg a b s) := by
  unfold execCkpPreg
  grind [OutcomeCanonical, Got.Canonical, !issueForm_canonical, !State.formEnd_canonical, !State.preg_canonical]

theorem execCkpGreg_canonical {s : State} (h : s.Canonical) (a b) : OutcomeCanonical (execCkpGreg a b s) := by
  unfold execCkpGreg
  grind [OutcomeCanonical, Got.Canonical, !issueForm_canonical, !State.formEnd_canonical, !State.greg_canonical]

theorem execCkpUnreg_canonical {s : State} (h : s.Canonical) (a b) : OutcomeCanonical (execCkpUnreg a b s) := by
  unfold execCkpUnreg
  grind [OutcomeCanonical, !issue_canonical, !State.unreg_canonical, !State.formDone_canonical]

theorem execCkpGlaunch_canonical {s : State} (h : s.Canonical) (a b) : OutcomeCanonical (execCkpGlaunch a b s) := by
  unfold execCkpGlaunch
  grind [OutcomeCanonical, !issue_canonical, !State.launchWord_canonical, !State.formDone_canonical]

theorem execCkpGstat_canonical {s : State} (h : s.Canonical) (a b) : OutcomeCanonical (execCkpGstat a b s) := by
  unfold execCkpGstat
  grind [OutcomeCanonical, !issue_canonical, !State.formDone_canonical]

theorem execCkpTake_canonical {s : State} (h : s.Canonical) (a b) : OutcomeCanonical (execCkpTake a b s) := by
  unfold execCkpTake
  grind [OutcomeCanonical, !issue_canonical, !State.formDone_canonical, !State.await_canonical,
    !State.startAttempt_canonical]

theorem execCkpRoll_canonical {s : State} (h : s.Canonical) (a b) : OutcomeCanonical (execCkpRoll a b s) := by
  unfold execCkpRoll
  grind [OutcomeCanonical, !issue_canonical, !State.formDone_canonical, !State.postOnce_canonical,
    !State.await_canonical]

end Sys2Proof.Machine

/-! PROOFS. O60: what the operations keep of the memories, part 9. -/
namespace Sys2Proof.Machine

theorem execCkpDrain_canonical {s : State} (h : s.Canonical) (a b) : OutcomeCanonical (execCkpDrain a b s) := by
  unfold execCkpDrain
  grind [OutcomeCanonical, !issueChecked_canonical, !State.trapNow_canonical, !State.formDone_canonical,
    !State.await_canonical, !State.startDrain_canonical]

theorem execCkpRestore_canonical {s : State} (h : s.Canonical) (a b) : OutcomeCanonical (execCkpRestore a b s) := by
  unfold execCkpRestore
  grind [OutcomeCanonical, !issue_canonical, !State.formDone_canonical, !State.restoreCrew_canonical,
    !State.await_canonical]

theorem execCkpEpnew_canonical {s : State} (h : s.Canonical) (b) : OutcomeCanonical (execCkpEpnew b s) := by
  unfold execCkpEpnew
  grind [OutcomeCanonical, !issue_canonical, !State.formDone_canonical, !State.setSes_canonical]

theorem execCkpDeadline_canonical {s : State} (h : s.Canonical) (a b) : OutcomeCanonical (execCkpDeadline a b s) := by
  unfold execCkpDeadline
  grind [State.Canonical, OutcomeCanonical, !issue_canonical, !State.formDone_canonical]

theorem execCkpBudget_canonical {s : State} (h : s.Canonical) (a b) : OutcomeCanonical (execCkpBudget a b s) := by
  unfold execCkpBudget
  grind [OutcomeCanonical, !issue_canonical, !State.formDone_canonical, !State.setDie_canonical]

theorem dbgOp_canonical {s : State} (h : s.Canonical) (i n extra)
    {k : View → Shape → Crew → State → (State → State) → State}
    (hk : ∀ {t : State} {r : State → State}, t.Canonical → (∀ {u : State}, u.Canonical → (r u).Canonical) →
      ∀ v sh c, (k v sh c t r).Canonical) :
    OutcomeCanonical (dbgOp i n s extra k) := by
  unfold dbgOp
  grind [OutcomeCanonical, !issueChecked_canonical, !State.trapNow_canonical]

theorem execDbgAttach_canonical {s : State} (h : s.Canonical) (a b) : OutcomeCanonical (execDbgAttach a b s) := by
  unfold execDbgAttach
  grind [OutcomeCanonical, !dbgOp_canonical, !State.badOperand_canonical, !State.retire_canonical,
    !State.updCrew_canonical]

theorem execDbgDetach_canonical {s : State} (h : s.Canonical) (b) : OutcomeCanonical (execDbgDetach b s) := by
  unfold execDbgDetach
  grind [OutcomeCanonical, !dbgOp_canonical, !State.updCrew_canonical, !State.resume_canonical,
    !State.retire_canonical, !State.answerAll_canonical, !State.drop_canonical]

theorem execDbgWpset_canonical {s : State} (h : s.Canonical) (w b) : OutcomeCanonical (execDbgWpset w b s) := by
  unfold execDbgWpset
  grind [OutcomeCanonical, !dbgOp_canonical, !State.badOperand_canonical, !State.retire_canonical,
    !State.setWatch_canonical]

theorem execDbgStop_canonical {s : State} (h : s.Canonical) (b) : OutcomeCanonical (execDbgStop b s) := by
  unfold execDbgStop
  grind [OutcomeCanonical, !dbgOp_canonical, !State.retire_canonical, !State.showRecords_canonical,
    !State.trigger_canonical, !State.await_canonical]

theorem execDbgGo_canonical {s : State} (h : s.Canonical) (b) : OutcomeCanonical (execDbgGo b s) := by
  unfold execDbgGo
  grind [OutcomeCanonical, !dbgOp_canonical, !State.retire_canonical, !State.resume_canonical]

theorem execDbgStep_canonical {s : State} (h : s.Canonical) (b) : OutcomeCanonical (execDbgStep b s) := by
  unfold execDbgStep
  grind [OutcomeCanonical, !dbgOp_canonical, !State.hold_canonical, !State.retire_canonical, !State.await_canonical,
    !State.postOnce_canonical, !State.updCrew_canonical]

theorem execDbgRd_canonical {s : State} (h : s.Canonical) (a b) : OutcomeCanonical (execDbgRd a b s) := by
  unfold execDbgRd
  grind [OutcomeCanonical, !dbgOp_canonical, !State.badOperand_canonical, !State.formResult_canonical]

theorem execDbgWr_canonical {s : State} (h : s.Canonical) (a b) : OutcomeCanonical (execDbgWr a b s) := by
  unfold execDbgWr
  grind [OutcomeCanonical, !dbgOp_canonical, !State.badOperand_canonical, !State.logFull_canonical,
    !State.retire_canonical, !State.updStore_canonical, !State.logRows_canonical]

theorem execDbgWait_canonical {s : State} (h : s.Canonical) (b) : OutcomeCanonical (execDbgWait b s) := by
  unfold execDbgWait
  grind [OutcomeCanonical, !dbgOp_canonical, !State.retire_canonical, !State.showRecords_canonical,
    !State.hold_canonical]

theorem freezeOp_canonical {s : State} (h : s.Canonical) (i) {k : View → ℕ → ℕ → State → State}
    (hk : ∀ {t : State}, t.Canonical → ∀ v m n, (k v m n t).Canonical) :
    OutcomeCanonical (freezeOp i s k) := by
  unfold freezeOp
  grind [OutcomeCanonical, !issueChecked_canonical, !State.trapNow_canonical]

theorem execDbgFreeze_canonical {s : State} (h : s.Canonical) (b) : OutcomeCanonical (execDbgFreeze b s) := by
  unfold execDbgFreeze
  grind [OutcomeCanonical, !freezeOp_canonical, !State.retire_canonical, !State.mapDies_canonical,
    !State.await_canonical, !State.postOnce_canonical]

theorem execDbgThaw_canonical {s : State} (h : s.Canonical) (b) : OutcomeCanonical (execDbgThaw b s) := by
  unfold execDbgThaw
  grind [OutcomeCanonical, !freezeOp_canonical, !State.retire_canonical, !State.thawStep_canonical]

theorem execDbgWhy_canonical {s : State} (h : s.Canonical) (a b) : OutcomeCanonical (execDbgWhy a b s) := by
  unfold execDbgWhy
  grind [OutcomeCanonical, !dbgOp_canonical, !State.badOperand_canonical, !State.retire_canonical,
    !State.formResult_canonical]

theorem execDbgVwpset_canonical {s : State} (h : s.Canonical) (w b) : OutcomeCanonical (execDbgVwpset w b s) := by
  unfold execDbgVwpset
  grind [OutcomeCanonical, !dbgOp_canonical, !State.badOperand_canonical, !State.retire_canonical,
    !State.setWatch_canonical]

theorem execModgShare_canonical {s : State} (h : s.Canonical) (a b) : OutcomeCanonical (execModgShare a b s) := by
  unfold execModgShare
  grind (splits := 20) [State.Canonical, OutcomeCanonical, Shared.Canonical, !issueForm_canonical,
    !State.formDoneAt_canonical, !State.holdForm_canonical, !State.wantPool_canonical, !State.sharePage_canonical,
    !State.retargetPage_canonical, !State.dropCopies_canonical]

theorem execModgUnshare_canonical {s : State} (h : s.Canonical) (a b) : OutcomeCanonical (execModgUnshare a b s) := by
  unfold execModgUnshare
  grind [OutcomeCanonical, PairCanonical, !issueForm_canonical, !State.formDone_canonical, !State.holdForm_canonical,
    !State.wantPool_canonical, !State.takeFrame_canonical, !State.unsharePage_canonical]

theorem execModgFork_canonical {s : State} (h : s.Canonical) (a b) : OutcomeCanonical (execModgFork a b s) := by
  unfold execModgFork
  grind [OutcomeCanonical, !issueForm_canonical, !State.holdForm_canonical, !State.wantPool_canonical,
    !State.fork_canonical, !State.formDone_canonical]

theorem modgOp_canonical {s : State} (h : s.Canonical) (i b reserved)
    {k : View → Word → Word → State → ℕ × ℕ × State}
    (hk : ∀ {t : State}, t.Canonical → ∀ v m n, (k v m n t).2.2.Canonical) :
    OutcomeCanonical (modgOp i b s reserved k) := by
  unfold modgOp
  grind [OutcomeCanonical, !issueChecked_canonical, !State.trapNow_canonical, !State.formDone_canonical]

theorem execModgKey_canonical {s : State} (h : s.Canonical) (a b) : OutcomeCanonical (execModgKey a b s) := by
  unfold execModgKey
  grind [OutcomeCanonical, !modgOp_canonical, !State.keyForm_canonical]

theorem execModgFassign_canonical {s : State} (h : s.Canonical) (a b) : OutcomeCanonical (execModgFassign a b s) := by
  unfold execModgFassign
  grind [OutcomeCanonical, !issueChecked_canonical, !State.trapNow_canonical, !State.assignFrame_canonical,
    !State.formDone_canonical]

theorem execModgMigr_canonical {s : State} (h : s.Canonical) (a b) : OutcomeCanonical (execModgMigr a b s) := by
  unfold execModgMigr
  grind [OutcomeCanonical, !modgOp_canonical, !State.migrate_canonical]

theorem execModgMdone_canonical {s : State} (h : s.Canonical) (a b) : OutcomeCanonical (execModgMdone a b s) := by
  unfold execModgMdone
  grind [OutcomeCanonical, !modgOp_canonical, !State.migrated_canonical]

theorem execModgHeal_canonical {s : State} (h : s.Canonical) (a b) : OutcomeCanonical (execModgHeal a b s) := by
  unfold execModgHeal
  grind [OutcomeCanonical, !issueForm_canonical, !State.formDone_canonical, !State.holdForm_canonical,
    !State.wantPool_canonical, !State.span_canonical, !State.putFrame_canonical, !State.retag_canonical,
    !State.setDie_canonical, !State.fatalFault_canonical, !State.joinFid_canonical, !State.park_canonical,
    !State.expect_canonical]

theorem execModgSopen_canonical {s : State} (h : s.Canonical) (a b) : OutcomeCanonical (execModgSopen a b s) := by
  unfold execModgSopen
  grind [OutcomeCanonical, !modgOp_canonical, !State.openSession_canonical]

theorem execModgSclose_canonical {s : State} (h : s.Canonical) (a b) : OutcomeCanonical (execModgSclose a b s) := by
  unfold execModgSclose
  grind [OutcomeCanonical, !modgOp_canonical, !State.closeSession_canonical]

theorem execPauseExpiry_canonical {s : State} (h : s.Canonical) : OutcomeCanonical (execPauseExpiry s) := by
  unfold execPauseExpiry
  grind [OutcomeCanonical, !State.updGang_canonical]

theorem execResultWrite_canonical {s : State} (h : s.Canonical) : OutcomeCanonical (execResultWrite s) := by
  unfold execResultWrite
  grind [OutcomeCanonical, !State.updGang_canonical, !State.setCore_canonical]

theorem execQcallAppend_canonical {s : State} (h : s.Canonical) : OutcomeCanonical (execQcallAppend s) := by
  unfold execQcallAppend
  split
  · next g e _ =>
    have hu := State.unhold_canonical h g e
    grind [PairCanonical, OutcomeCanonical, !State.takesEffect_canonical, !State.retire_canonical,
      !State.calls_canonical, !State.post_canonical,
      !State.wantCut_canonical]
  · grind [OutcomeCanonical]

theorem execSendAppend_canonical {s : State} (h : s.Canonical) : OutcomeCanonical (execSendAppend s) := by
  unfold execSendAppend
  grind [OutcomeCanonical, PairCanonical, !State.unhold_canonical, !State.retire_canonical, !State.sends_canonical,
    !State.post_canonical, !State.wantCut_canonical]

theorem execProducerDelivery_canonical {s : State} (h : s.Canonical) : OutcomeCanonical (execProducerDelivery s) := by
  unfold execProducerDelivery
  grind [State.Canonical, State.foldl_canonical, OutcomeCanonical, PairCanonical, !State.deliver_canonical,
    !State.takeMsg_canonical]

theorem execReturnRecord_canonical {s : State} (h : s.Canonical) : OutcomeCanonical (execReturnRecord s) := by
  unfold execReturnRecord
  grind [State.Canonical, OutcomeCanonical, !State.deliver_canonical, !State.updGang_canonical,
    !State.postOnce_canonical]

theorem execUnitFaultTrap_canonical {s : State} (h : s.Canonical) : OutcomeCanonical (execUnitFaultTrap s) := by
  unfold execUnitFaultTrap
  grind [OutcomeCanonical, !State.owedTrap_canonical, !State.postOnce_canonical]

theorem execTrapEntry_canonical {s : State} (h : s.Canonical) : OutcomeCanonical (execTrapEntry s) := by
  unfold execTrapEntry
  grind [OutcomeCanonical, !State.enterTrap_canonical]

theorem execTeamLaunch_canonical {s : State} (h : s.Canonical) : OutcomeCanonical (execTeamLaunch s) := by
  unfold execTeamLaunch
  grind [OutcomeCanonical, !State.launchNow_canonical, !State.post_canonical]

theorem execTeamExit_canonical {s : State} (h : s.Canonical) : OutcomeCanonical (execTeamExit s) := by
  unfold execTeamExit
  grind [OutcomeCanonical, !State.exitTeam_canonical]

theorem execCommandFire_canonical {s : State} (h : s.Canonical) : OutcomeCanonical (execCommandFire s) := by
  unfold execCommandFire
  grind [OutcomeCanonical, !State.post_canonical, !State.updTeam_canonical, !State.updCmd_canonical]

theorem execCommandRetire_canonical {s : State} (h : s.Canonical) : OutcomeCanonical (execCommandRetire s) := by
  unfold execCommandRetire
  grind [OutcomeCanonical, !State.retireMx_canonical, !State.post_canonical, !State.finishCmd_canonical,
    !State.updTeam_canonical]

theorem execCopyDelivery_canonical {s : State} (h : s.Canonical) : OutcomeCanonical (execCopyDelivery s) := by
  unfold execCopyDelivery
  grind [OutcomeCanonical, !State.post_canonical, !State.deliverPiece_canonical]

theorem execFollowOnPush_canonical {s : State} (h : s.Canonical) : OutcomeCanonical (execFollowOnPush s) := by
  unfold execFollowOnPush
  grind [OutcomeCanonical, !State.post_canonical, !State.setCore_canonical]

theorem execMxReset_canonical {s : State} (h : s.Canonical) : OutcomeCanonical (execMxReset s) := by
  unfold execMxReset
  grind [State.Canonical, State.foldl_canonical, OutcomeCanonical, !State.setCore_canonical,
    !State.fatalBy_canonical, !State.postOnce_canonical]

theorem execCrewLaunch_canonical {s : State} (h : s.Canonical) : OutcomeCanonical (execCrewLaunch s) := by
  unfold execCrewLaunch
  grind [OutcomeCanonical, !State.launchNow_canonical, !State.post_canonical]

theorem execMcastFillLand_canonical {s : State} (h : s.Canonical) : OutcomeCanonical (execMcastFillLand s) := by
  unfold execMcastFillLand
  dsimp only
  split
  · next core id rank _ =>
    split
    · grind [OutcomeCanonical]
    next k _ =>
    split
    · next off _ len bar t _ _ =>
      split
      · grind [OutcomeCanonical]
      next c _ =>
      generalize Place.store _ _ = p
      generalize List.set _ _ _ = landed
      generalize min (k.pos - _) _ = n
      generalize List.take n _ = bs
      have h1 := State.lowerPbc_canonical (State.watchHome_canonical (State.updCmd_canonical
        (State.devWrite_canonical h (some core) true k.session p bs) core id
        (fun j => { j with landed := landed })) t.crew k.gang k.pc k.seq 3 p n) t.crew bar (fun r => if r = rank then
          n else 0)
      grind [OutcomeCanonical, !State.post_canonical]
    · grind [OutcomeCanonical]
  · grind [OutcomeCanonical]

theorem execDrainSave_canonical {s : State} (h : s.Canonical) : OutcomeCanonical (execDrainSave s) := by
  unfold execDrainSave
  grind [OutcomeCanonical, !State.post_canonical, !State.wantEngine_canonical, !State.drainNow_canonical]

theorem execDrainDeadline_canonical {s : State} (h : s.Canonical) : OutcomeCanonical (execDrainDeadline s) := by
  unfold execDrainDeadline
  grind [State.Canonical, State.foldl_canonical, OutcomeCanonical, !State.answerAll_canonical,
    !State.fatalBy_canonical]

theorem execTimeSliceEnd_canonical {s : State} (h : s.Canonical) : OutcomeCanonical (execTimeSliceEnd s) := by
  unfold execTimeSliceEnd
  grind [State.Canonical, State.foldl_canonical, OutcomeCanonical, !State.setDie_canonical,
    !State.giveSlice_canonical, !State.startDrain_canonical]

theorem execAccessAtHome_canonical {s : State} (h : s.Canonical) : OutcomeCanonical (execAccessAtHome s) := by
  unfold execAccessAtHome
  grind [OutcomeCanonical, OptCanonical, !State.servedLoad?_canonical, !State.restart_canonical,
    !State.finish_canonical, !State.joinQueue_canonical, !State.again_canonical, !State.endAccess_canonical,
    !State.perform_canonical]

theorem execLeaseRenewal_canonical {s : State} (h : s.Canonical) : OutcomeCanonical (execLeaseRenewal s) := by
  unfold execLeaseRenewal
  grind [OutcomeCanonical, !State.joinQueue_canonical, !State.fill_canonical, !State.growLease_canonical,
    !State.fillHome_canonical]

theorem execConfirmationRequest_canonical {s : State} (h : s.Canonical) :
    OutcomeCanonical (execConfirmationRequest s) := by
  unfold execConfirmationRequest
  grind [OutcomeCanonical, !State.joinQueue_canonical, !State.post_canonical]

theorem execWatchConfirm_canonical {s : State} (h : s.Canonical) : OutcomeCanonical (execWatchConfirm s) := by
  unfold execWatchConfirm
  grind [OutcomeCanonical, !State.updGang_canonical]

theorem execWatchStrike_canonical {s : State} (h : s.Canonical) : OutcomeCanonical (execWatchStrike s) := by
  unfold execWatchStrike
  grind [OutcomeCanonical, !State.strikeEntry_canonical]

theorem execWatchTimeout_canonical {s : State} (h : s.Canonical) : OutcomeCanonical (execWatchTimeout s) := by
  unfold execWatchTimeout
  grind [OutcomeCanonical, !State.strikeEntry_canonical]

theorem execVersionReport_canonical {s : State} (h : s.Canonical) : OutcomeCanonical (execVersionReport s) := by
  unfold execVersionReport
  grind [OutcomeCanonical, !State.updGang_canonical]

theorem execStopRecords_canonical {s : State} (h : s.Canonical) : OutcomeCanonical (execStopRecords s) := by
  unfold execStopRecords
  split
  · next id _ =>
    split
    · grind [OutcomeCanonical]
    next c _ =>
    split
    · grind [OutcomeCanonical]
    next t _ =>
    have hp := State.putRecords_canonical h c t (s.crewGangs c)
    grind [OutcomeCanonical, OptCanonical, !State.post_canonical, !State.answerAll_canonical,
      !State.updCrew_canonical,
      !State.showWaiters_canonical]
  · grind [OutcomeCanonical]

theorem execStepWindowClose_canonical {s : State} (h : s.Canonical) : OutcomeCanonical (execStepWindowClose s) := by
  unfold execStepWindowClose
  split
  · next id _ =>
    split
    · grind [OutcomeCanonical]
    next c _ =>
    split
    · grind [OutcomeCanonical]
    next w _ =>
    have hfin : ∀ {t : State}, t.Canonical → OutcomeCanonical (.next (((t.showWaiters c (.step id)).updCrew id
        (fun k => { k with window := none })).answerAll (fun u => decide (u = .step id)) [])) := fun ht =>
      outcomeCanonical_next (State.answerAll_canonical (State.updCrew_canonical (State.showWaiters_canonical ht _ _)
        _ _) _ _)
    have hpost : ∀ {t : State}, t.Canonical → OutcomeCanonical (.next (t.post (.stepWindowClose id))) := fun ht =>
      outcomeCanonical_next (State.post_canonical ht _)
    dsimp only
    split
    · exact hfin h
    split
    · exact hpost h
    split
    · exact hpost h
    next s1 e1 =>
    have h1 := (State.putRecord_canonical h _ _ _ _ _).of_some e1
    split
    · exact hpost h1
    next s2 e2 =>
    have h2 := (State.putRecord_canonical h1 _ _ _ _ _).of_some e2
    split
    · exact hpost h2
    next s3 e3 =>
    exact hfin ((State.putRecord_canonical h2 _ _ _ _ _).of_some e3)
  · grind [OutcomeCanonical]

end Sys2Proof.Machine

/-! PROOFS. O60: what the operations keep of the memories, part 10. -/
namespace Sys2Proof.Machine

theorem execRecordReserve_canonical {s : State} (h : s.Canonical) : OutcomeCanonical (execRecordReserve s) := by
  unfold execRecordReserve
  grind [OutcomeCanonical, !State.post_canonical, !State.updPipe_canonical]

theorem execRecordCommit_canonical {s : State} (h : s.Canonical) : OutcomeCanonical (execRecordCommit s) := by
  unfold execRecordCommit
  grind [OutcomeCanonical, Dev.Canonical, !State.post_canonical, !State.commitRecs_canonical,
    !State.graphSteps_canonical, !State.again_canonical, !State.postOnce_canonical]

theorem execInstanceStart_canonical {s : State} (h : s.Canonical) : OutcomeCanonical (execInstanceStart s) := by
  unfold execInstanceStart
  grind [OutcomeCanonical, !State.startInstance_canonical]

theorem execPhaseComplete_canonical {s : State} (h : s.Canonical) : OutcomeCanonical (execPhaseComplete s) := by
  unfold execPhaseComplete
  grind [OutcomeCanonical, !State.graphStep_canonical]

theorem execBudgetWindow_canonical {s : State} (h : s.Canonical) : OutcomeCanonical (execBudgetWindow s) := by
  unfold execBudgetWindow
  grind [OutcomeCanonical, !State.newWindow_canonical]

theorem execDieTemperature_canonical {s : State} (h : s.Canonical) : OutcomeCanonical (execDieTemperature s) := by
  unfold execDieTemperature
  grind [OutcomeCanonical, !State.setDie_canonical, !State.postOnce_canonical]

theorem execThermtrip_canonical {s : State} (h : s.Canonical) : OutcomeCanonical (execThermtrip s) := by
  unfold execThermtrip
  grind [State.Canonical, OutcomeCanonical]

theorem execCutAttempt_canonical {s : State} (h : s.Canonical) : OutcomeCanonical (execCutAttempt s) := by
  unfold execCutAttempt
  grind [OutcomeCanonical, !State.startAttempt_canonical]

theorem execCut_canonical {s : State} (h : s.Canonical) : OutcomeCanonical (execCut s) := by
  unfold execCut
  grind [OutcomeCanonical, !State.post_canonical, !State.graphSteps_canonical, !State.answerAll_canonical,
    !State.makeCut_canonical, !State.failAttempt_canonical]

theorem execCutWaitExpiry_canonical {s : State} (h : s.Canonical) : OutcomeCanonical (execCutWaitExpiry s) := by
  unfold execCutWaitExpiry
  grind [OutcomeCanonical, !State.failAttempt_canonical]

theorem execCutRetry_canonical {s : State} (h : s.Canonical) : OutcomeCanonical (execCutRetry s) := by
  unfold execCutRetry
  grind [OutcomeCanonical, !State.startAttempt_canonical]

theorem execRollback_canonical {s : State} (h : s.Canonical) : OutcomeCanonical (execRollback s) := by
  unfold execRollback
  grind [OutcomeCanonical, !State.rollBack_canonical]

theorem execVrOpen_canonical {s : State} (h : s.Canonical) : OutcomeCanonical (execVrOpen s) := by
  unfold execVrOpen
  grind [OutcomeCanonical, !State.unitBad_canonical, !State.unitReturn_canonical, !State.setVr_canonical,
    !State.openVbuf_canonical]

theorem execVrPrim_canonical {s : State} (h : s.Canonical) : OutcomeCanonical (execVrPrim s) := by
  unfold execVrPrim
  grind [OutcomeCanonical, !State.unitBad_canonical, !State.unitReturn_canonical, !State.setVr_canonical]

theorem execVrDone_canonical {s : State} (h : s.Canonical) : OutcomeCanonical (execVrDone s) := by
  unfold execVrDone
  grind [OutcomeCanonical, !State.unitBad_canonical, !State.unitReturn_canonical, !State.setVr_canonical,
    !State.postOnce_canonical]

theorem execVrWaitf_canonical {s : State} (h : s.Canonical) : OutcomeCanonical (execVrWaitf s) := by
  unfold execVrWaitf
  grind [OutcomeCanonical, !State.unitBad_canonical, !State.unitReturn_canonical, !State.holdWaitf_canonical]

theorem execVrSlotFinal_canonical {s : State} (h : s.Canonical) : OutcomeCanonical (execVrSlotFinal s) := by
  unfold execVrSlotFinal
  grind [OutcomeCanonical, Reply.Canonical, !State.slotPut_canonical, !State.giveFinal_canonical,
    !State.progressSlot_canonical, !State.setVr_canonical]

theorem execBuOpenf_canonical {s : State} (h : s.Canonical) : OutcomeCanonical (execBuOpenf s) := by
  unfold execBuOpenf
  grind [OutcomeCanonical, Reply.Canonical, !State.unitBad_canonical, !State.unitCause_canonical,
    !State.unitRead_canonical, !State.unitReturn_canonical, !State.setBu_canonical]

theorem execBuBin_canonical {s : State} (h : s.Canonical) : OutcomeCanonical (execBuBin s) := by
  unfold execBuBin
  grind [OutcomeCanonical, Reply.Canonical, !State.unitBad_canonical, !State.unitReturn_canonical,
    !State.unitCause_canonical, !State.again_canonical, !State.setBu_canonical, !State.resolveTile_canonical,
    !State.writeArena_canonical]

theorem execBuClose_canonical {s : State} (h : s.Canonical) : OutcomeCanonical (execBuClose s) := by
  unfold execBuClose
  grind [OutcomeCanonical, !State.unitBad_canonical, !State.unitReturn_canonical, !State.setDie_canonical,
    !State.resolveTile_canonical, !State.again_canonical, !State.setBu_canonical, !State.tileRecord_canonical,
    !State.progress_canonical]

theorem execBluOpen_canonical {s : State} (h : s.Canonical) : OutcomeCanonical (execBluOpen s) := by
  unfold execBluOpen
  grind [OutcomeCanonical, !State.unitBad_canonical, !State.unitReturn_canonical, !State.setBlu_canonical]

theorem execBluFrag_canonical {s : State} (h : s.Canonical) : OutcomeCanonical (execBluFrag s) := by
  unfold execBluFrag
  grind [OutcomeCanonical, !State.unitBad_canonical, !State.unitReturn_canonical, !State.unitCause_canonical,
    !State.setBlu_canonical]

theorem execBluDone_canonical {s : State} (h : s.Canonical) : OutcomeCanonical (execBluDone s) := by
  unfold execBluDone
  grind [OutcomeCanonical, !State.unitBad_canonical, !State.unitReturn_canonical, !State.setBlu_canonical,
    !State.postOnce_canonical]

theorem execBluWaitf_canonical {s : State} (h : s.Canonical) : OutcomeCanonical (execBluWaitf s) := by
  unfold execBluWaitf
  grind [OutcomeCanonical, !State.unitBad_canonical, !State.unitReturn_canonical, !State.holdWaitf_canonical]

theorem execBluCommit_canonical {s : State} (h : s.Canonical) : OutcomeCanonical (execBluCommit s) := by
  unfold execBluCommit
  grind [OutcomeCanonical, Reply.Canonical, !State.putPixels_canonical, !State.giveFinal_canonical,
    !State.progressSlot_canonical, !State.setBlu_canonical]

theorem execTfuSample_canonical {s : State} (h : s.Canonical) : OutcomeCanonical (execTfuSample s) := by
  unfold execTfuSample
  split
  · next x _ =>
    generalize (if callField x 4 2 = 3 then 10 else 7) = k
    split
    · exact outcomeCanonical_next (State.unitBad_canonical h _)
    have h1 := State.unitRead_canonical h x (callAddr x 2) 32
    split <;> rename_i e1
    · exact outcomeCanonical_next (h1.of_dealt e1)
    split
    · exact outcomeCanonical_next (State.unitCause_canonical (h1.of_ok e1) _ _)
    next t _ =>
    have h2 := State.readTexels_canonical (h1.of_ok e1) x t (t.taps x).1
    dsimp only
    split <;> rename_i e2
    · exact outcomeCanonical_next (h2.of_dealt e2)
    · exact outcomeCanonical_next (State.unitReturn_canonical (h2.of_ok e2) _ _)
  · exact outcomeCanonical_next h

theorem execRyuTrace_canonical {s : State} (h : s.Canonical) : OutcomeCanonical (execRyuTrace s) := by
  unfold execRyuTrace
  split
  · next x _ =>
    dsimp only
    split
    · exact outcomeCanonical_next (State.unitBad_canonical h _)
    split
    · exact outcomeCanonical_next (State.unitReturn_canonical h _ _)
    have h1 := State.unitRead_canonical h x (callAddr x 2) 8
    split <;> rename_i e1
    · exact outcomeCanonical_next (h1.of_dealt e1)
    next bs s1 =>
    have hs1 := h1.of_ok e1
    split
    · split
      · exact outcomeCanonical_next (State.unitCause_canonical hs1 _ _)
      · split
        · exact outcomeCanonical_next (State.unitReturn_canonical hs1 _ _)
        · exact outcomeCanonical_next (State.unitReturn_canonical hs1 _ _)
    have h2 := State.traverse_canonical hs1 x (rayOf x) (callAddr x 2) ((wordsOfBytes bs).getD 1 0).toNat
      64 ((wordsOfBytes bs).getD 0 0).toNat none
    split <;> rename_i e <;> rw [e] at h2
    · exact outcomeCanonical_next h2
    · exact outcomeCanonical_next (State.unitCause_canonical h2 _ _)
    · exact outcomeCanonical_next (State.unitReturn_canonical h2 _ _)
    · exact outcomeCanonical_next (State.unitReturn_canonical h2 _ _)
  · exact outcomeCanonical_next h

theorem execBvoStart_canonical {s : State} (h : s.Canonical) : OutcomeCanonical (execBvoStart s) := by
  unfold execBvoStart
  grind [OutcomeCanonical, Reply.Canonical, PairCanonical, !State.unitBad_canonical, !State.unitRead_canonical,
    !State.unitReturn_canonical, !State.bvhBytes_canonical, !State.setDie_canonical]

theorem execBvoStop_canonical {s : State} (h : s.Canonical) : OutcomeCanonical (execBvoStop s) := by
  unfold execBvoStop
  grind [OutcomeCanonical, OptCanonical, !State.unitBad_canonical, !State.unitReturn_canonical,
    !State.freeLimbo_canonical, !State.post_canonical, !State.setDie_canonical]

theorem execBvoSubtreeReplace_canonical {s : State} (h : s.Canonical) :
    OutcomeCanonical (execBvoSubtreeReplace s) := by
  unfold execBvoSubtreeReplace
  split
  · next die base parent child new _ =>
    split
    · exact outcomeCanonical_next h
    next b _ =>
    dsimp only
    split
    · cases e : s.freeLimbo die b with
      | none => exact outcomeCanonical_next h
      | some t => exact outcomeCanonical_next ((State.freeLimbo_canonical h _ _).of_some e)
    split
    · exact outcomeCanonical_next h
    next m s1 e1 =>
    have h1 := (State.bvhBytes_canonical h _ _ _).of_some e1
    split
    · split
      · exact outcomeCanonical_next h
      split
      · exact outcomeCanonical_next h
      next s2 e2 =>
      exact outcomeCanonical_next (State.setDie_canonical ((State.bvoWrites_canonical h1 _ _ _).of_some e2) _ _)
    · exact outcomeCanonical_next h
  · exact outcomeCanonical_next h

theorem execFenOpens_canonical {s : State} (h : s.Canonical) : OutcomeCanonical (execFenOpens s) := by
  unfold execFenOpens
  grind [OutcomeCanonical, !State.unitBad_canonical, !State.unitReturn_canonical, !State.setStream_canonical]

theorem execFenFrame_canonical {s : State} (h : s.Canonical) : OutcomeCanonical (execFenFrame s) := by
  unfold execFenFrame
  split
  · next x _ =>
    split
    · exact outcomeCanonical_next (State.unitBad_canonical h _)
    split
    · exact outcomeCanonical_next (State.noStream_canonical h _)
    next v _ =>
    dsimp only
    generalize (if v.depth10 then 2 * v.width else v.width) = row
    have h1 := State.readRows_canonical h x (callAddr x 2) (callWord x 6).toNat row v.height
    split <;> rename_i e1
    · exact outcomeCanonical_next (h1.of_dealt e1)
    have h2 := State.readRows_canonical (h1.of_ok e1) x (callAddr x 4) (callWord x 6).toNat row (v.height / 2)
    split <;> rename_i e2
    · exact outcomeCanonical_next (h2.of_dealt e2)
    split
    · exact outcomeCanonical_next (State.unitReturn_canonical (State.setStream_canonical (h2.of_ok e2) _ _ _) _ _)
    split <;> rename_i e3
    · exact outcomeCanonical_next ((State.unitPut_canonical (h2.of_ok e2) _ _ _).of_dealt e3)
    have h3 := (State.unitPut_canonical (h2.of_ok e2) _ _ _).of_ok e3
    split <;> rename_i e4
    · refine outcomeCanonical_next ?_
      grind [Reply.Canonical, !State.unitPut_canonical]
    · refine outcomeCanonical_next (State.unitReturn_canonical (State.setStream_canonical ?_ _ _ _) _ _)
      grind [Reply.Canonical, !State.unitPut_canonical]
  · exact outcomeCanonical_next h

theorem execFenRelease_canonical {s : State} (h : s.Canonical) : OutcomeCanonical (execFenRelease s) := by
  unfold execFenRelease
  grind [OutcomeCanonical, !State.unitBad_canonical, !State.noStream_canonical, !State.unitReturn_canonical,
    !State.setStream_canonical]

theorem execFenCloses_canonical {s : State} (h : s.Canonical) : OutcomeCanonical (execFenCloses s) := by
  unfold execFenCloses
  grind [OutcomeCanonical, !State.unitBad_canonical, !State.noStream_canonical, !State.unitReturn_canonical,
    !State.setDie_canonical]

theorem execUnitReset_canonical {s : State} (h : s.Canonical) : OutcomeCanonical (execUnitReset s) := by
  unfold execUnitReset
  grind [OutcomeCanonical, !State.resetUnit_canonical]

theorem execFaultRecordWrite_canonical {s : State} (h : s.Canonical) : OutcomeCanonical (execFaultRecordWrite s) := by
  unfold execFaultRecordWrite
  grind [OutcomeCanonical, !State.putRing_canonical, !State.again_canonical]

theorem execGangUnpark_canonical {s : State} (h : s.Canonical) : OutcomeCanonical (execGangUnpark s) := by
  unfold execGangUnpark
  grind [OutcomeCanonical, !State.unparkAll_canonical, !State.updGang_canonical]

theorem execHang_canonical {s : State} (h : s.Canonical) : OutcomeCanonical (execHang s) := by
  unfold execHang
  grind [OutcomeCanonical, !State.fatalBy_canonical]

theorem execUncorrectableError_canonical {s : State} (h : s.Canonical) :
    OutcomeCanonical (execUncorrectableError s) := by
  unfold execUncorrectableError
  grind [OutcomeCanonical, !State.dataError_canonical, !State.countErr_canonical, !State.poisonFrame_canonical,
    !State.privateError_canonical]

theorem execCorrectableError_canonical {s : State} (h : s.Canonical) : OutcomeCanonical (execCorrectableError s) := by
  unfold execCorrectableError
  grind [OutcomeCanonical, !State.countErr_canonical]

theorem execPcmdCommit_canonical {s : State} (h : s.Canonical) : OutcomeCanonical (execPcmdCommit s) := by
  unfold execPcmdCommit
  grind [OutcomeCanonical, !State.commitPart_canonical]

theorem execPcmdRelease_canonical {s : State} (h : s.Canonical) : OutcomeCanonical (execPcmdRelease s) := by
  unfold execPcmdRelease
  grind [OutcomeCanonical, !State.releasePart_canonical]

theorem execDoorbell_canonical {s : State} (h : s.Canonical) : OutcomeCanonical (execDoorbell s) := by
  unfold execDoorbell
  grind [OutcomeCanonical, !State.ring_canonical]

theorem execAttcmdGo_canonical {s : State} (h : s.Canonical) : OutcomeCanonical (execAttcmdGo s) := by
  unfold execAttcmdGo
  grind [OutcomeCanonical, !State.attCommand_canonical]

theorem execAttestationDone_canonical {s : State} (h : s.Canonical) : OutcomeCanonical (execAttestationDone s) := by
  unfold execAttestationDone
  grind [OutcomeCanonical, !State.setAtt_canonical]

theorem execDbgcmdFreeze_canonical {s : State} (h : s.Canonical) : OutcomeCanonical (execDbgcmdFreeze s) := by
  unfold execDbgcmdFreeze
  grind [OutcomeCanonical, !State.freezeOn_canonical]

theorem execDbgcmdThaw_canonical {s : State} (h : s.Canonical) : OutcomeCanonical (execDbgcmdThaw s) := by
  unfold execDbgcmdThaw
  grind [OutcomeCanonical, !State.thawStep_canonical]

theorem execDbgdataRead_canonical {s : State} (h : s.Canonical) : OutcomeCanonical (execDbgdataRead s) := by
  unfold execDbgdataRead
  grind [State.Canonical, OutcomeCanonical]

theorem execDbgdataWrite_canonical {s : State} (h : s.Canonical) : OutcomeCanonical (execDbgdataWrite s) := by
  unfold execDbgdataWrite
  grind [OutcomeCanonical, !State.dbgWrite_canonical]

theorem execErrCounterWrite_canonical {s : State} (h : s.Canonical) : OutcomeCanonical (execErrCounterWrite s) := by
  unfold execErrCounterWrite
  grind [OutcomeCanonical, !State.clearErr_canonical]

theorem execMgmtRegisterWrite_canonical {s : State} (h : s.Canonical) :
    OutcomeCanonical (execMgmtRegisterWrite s) := by
  unfold execMgmtRegisterWrite
  grind [OutcomeCanonical, !State.freezeStep_canonical, !State.again_canonical, !State.mgmtWrite_canonical]

theorem execPriResponse_canonical {s : State} (h : s.Canonical) : OutcomeCanonical (execPriResponse s) := by
  unfold execPriResponse
  grind [OutcomeCanonical, !State.replay_canonical, !State.cancel_canonical]

theorem execAtsTranslationResponse_canonical {s : State} (h : s.Canonical) :
    OutcomeCanonical (execAtsTranslationResponse s) := by
  unfold execAtsTranslationResponse
  grind [State.Canonical, OutcomeCanonical]

theorem execAtsInvalidation_canonical {s : State} (h : s.Canonical) : OutcomeCanonical (execAtsInvalidation s) := by
  unfold execAtsInvalidation
  grind [State.Canonical, OutcomeCanonical, !State.postOnce_canonical]

theorem execModuleResetRelease_canonical {s : State} (h : s.Canonical) :
    OutcomeCanonical (execModuleResetRelease s) := by
  unfold execModuleResetRelease
  grind [OutcomeCanonical, !State.startUp_canonical]

theorem execFlitCheckFail_canonical {s : State} (h : s.Canonical) : OutcomeCanonical (execFlitCheckFail s) := by
  unfold execFlitCheckFail
  grind [OutcomeCanonical, !State.setPort_canonical]

theorem execPortDown_canonical {s : State} (h : s.Canonical) : OutcomeCanonical (execPortDown s) := by
  unfold execPortDown
  grind [State.Canonical, OutcomeCanonical, !State.setPort_canonical]

theorem execCollectiveAllreduce_canonical {s : State} (h : s.Canonical) :
    OutcomeCanonical (execCollectiveAllreduce s) := by
  unfold execCollectiveAllreduce
  grind [OutcomeCanonical, !State.serveCollective_canonical]

theorem execCollectiveBroadcast_canonical {s : State} (h : s.Canonical) :
    OutcomeCanonical (execCollectiveBroadcast s) := by
  unfold execCollectiveBroadcast
  grind [OutcomeCanonical, !State.serveCollective_canonical]

theorem execCollectiveResult_canonical {s : State} (h : s.Canonical) : OutcomeCanonical (execCollectiveResult s) := by
  unfold execCollectiveResult
  split
  · next key seq _ =>
    split
    · exact outcomeCanonical_next h
    next k _ =>
    dsimp only
    split
    · exact outcomeCanonical_next (State.post_canonical
        (State.foldl_canonical (fun t y ht => State.wantEngine_canonical ht _ _ _) _ h) _)
    have h1 := State.readSources_canonical h k (callWord ((k.calls.map (·.1)).headD default) 5).toNat
      (elemBytes (callField ((k.calls.map (·.1)).headD default) 8 3)) k.calls
    split <;> rename_i e1
    · exact outcomeCanonical_next (h1.of_dealt e1)
    next s1 =>
    have h2 := State.reachDests_canonical (h1.of_ok e1) k ((callWord ((k.calls.map (·.1)).headD default) 5).toNat *
      elemBytes (callField ((k.calls.map (·.1)).headD default) 8 3)) k.own
    split <;> rename_i e2
    · exact outcomeCanonical_next (h2.of_dealt e2)
    · refine outcomeCanonical_next (State.foldl_canonical (fun t y ht => State.unitReturn_canonical ht _ _) _ ?_)
      exact State.foldl_canonical (fun t d ht => State.unitWrite_canonical ht d.1 d.2 _) _ (h2.of_ok e2)
  · exact outcomeCanonical_next h

end Sys2Proof.Machine

/-! PROOFS. O60: what the operations keep of the memories, part 11. -/
namespace Sys2Proof.Machine

theorem execIllegalOpcode_canonical {s : State} (h : s.Canonical) : OutcomeCanonical (execIllegalOpcode s) := by
  unfold execIllegalOpcode
  grind [OutcomeCanonical, !State.trapNow_canonical]

theorem execSequenceFetch_canonical {s : State} (h : s.Canonical) : OutcomeCanonical (execSequenceFetch s) := by
  unfold execSequenceFetch
  grind [OutcomeCanonical, !State.fetch_canonical, !State.fetchFails_canonical]

theorem execHostPostedWrite_canonical {s : State} (h : s.Canonical) : OutcomeCanonical (execHostPostedWrite s) := by
  unfold execHostPostedWrite
  grind [State.Canonical, State.foldl_canonical, OutcomeCanonical, !State.again_canonical, !State.writeHome_canonical]

theorem execModuleReset_canonical {s : State} (h : s.Canonical) :
    OutcomeCanonical (execModuleReset s) := outcomeCanonical_next ⟨Memory.wf_filter h.1 _, h.2⟩

theorem execModuleLeavesArmada_canonical {s : State} (h : s.Canonical) :
    OutcomeCanonical (execModuleLeavesArmada s) := by
  unfold execModuleLeavesArmada
  grind [State.Canonical, OutcomeCanonical, !State.loseModules_canonical]

theorem execPortRetrained_canonical {s : State} (h : s.Canonical) : OutcomeCanonical (execPortRetrained s) := by
  unfold execPortRetrained
  grind [OutcomeCanonical, !State.setPort_canonical]

theorem execRoutesRecomputed_canonical {s : State} (h : s.Canonical) : OutcomeCanonical (execRoutesRecomputed s) := by
  unfold execRoutesRecomputed
  grind [State.Canonical, OutcomeCanonical, !State.loseModules_canonical]

/-- No instruction and no event leaves a memory that is not canonical. -/
theorem exec_canonical {s : State} (h : s.Canonical) (i : Instr) : OutcomeCanonical (exec i s) := by
  cases i
  case add | sub | mul | mulhi | mad | div | rem | neg | abs | min | max | and | or | xor | not | andn | shl | shr |
    sar | rol | ror | popc | clz | ctz | brev | bfx | bfi | mov | movi | movhi | addi | fadd | fsub | fmul | fma |
      fms |
    fnma | fmin | fmax | fabs | fneg | fcps | fdiv | rcp | rsq | sqrt | exp2 | log2 | sinpi | cospi | tanh | frnd |
    fract | ldexp | fclass | fdot | cvt | cvtfi | cvtif | cvtii | pack | unpk | clamp | fclamp =>
    simp only [exec_add, exec_sub, exec_mul, exec_mulhi, exec_mad, exec_div, exec_rem, exec_neg, exec_abs, exec_min,
      exec_max, exec_and, exec_or, exec_xor, exec_not, exec_andn, exec_shl, exec_shr, exec_sar, exec_rol, exec_ror,
      exec_popc, exec_clz, exec_ctz, exec_brev, exec_bfx, exec_bfi, exec_mov, exec_movi, exec_movhi, exec_addi,
      exec_fadd, exec_fsub, exec_fmul, exec_fma, exec_fms, exec_fnma, exec_fmin, exec_fmax, exec_fabs, exec_fneg,
      exec_fcps, exec_fdiv, exec_rcp, exec_rsq, exec_sqrt, exec_exp2, exec_log2, exec_sinpi, exec_cospi, exec_tanh,
      exec_frnd, exec_fract, exec_ldexp, exec_fclass, exec_fdot, exec_cvt, exec_cvtfi, exec_cvtif, exec_cvtii,
      exec_pack, exec_unpk, exec_clamp, exec_fclamp]
    exact lanesOp_canonical h _ _ _
  case cmp | fcmp | tst | plog | fetest =>
    simp only [exec_cmp, exec_fcmp, exec_tst, exec_plog, exec_fetest]
    exact predOp_canonical h _ _ _
  case ld8 | ld16 | ld32 | ld64 | ld128 =>
    simp only [exec_ld8, exec_ld16, exec_ld32, exec_ld64, exec_ld128]
    exact loadOp_canonical h _ _ _ _ _ _
  case st8 | st16 | st32 | st64 | st128 =>
    simp only [exec_st8, exec_st16, exec_st32, exec_st64, exec_st128]
    exact storeOp_canonical h _ _ _ _
  case ldl | stl =>
    simp only [exec_ldl, exec_stl]
    exact privateOp_canonical h _ _ _
  case pfL1 | pfL2 =>
    simp only [exec_pfL1, exec_pfL2]
    exact prefetchOp_canonical h _ _ _ _
  case wb | inv =>
    simp only [exec_wb, exec_inv]
    exact maintOp_canonical h _ _ _ _
  case atadd | atmin | atmax | atand | ator | atxor | atxchg | atcas | atqadd =>
    simp only [exec_atadd, exec_atmin, exec_atmax, exec_atand, exec_ator, exec_atxor, exec_atxchg, exec_atcas,
      exec_atqadd]
    exact atomicOp_canonical h _ _ _
  case bar | barvArrive =>
    simp only [exec_bar, exec_barvArrive]
    exact barOp_canonical h _ _ _ _
  case cbar | cbarArrive =>
    simp only [exec_cbar, exec_cbarArrive]
    exact cbarOp_canonical h _ _ _
  case tld | tsto | copy | gath | scat | mcast | cfill =>
    simp only [exec_tld, exec_tsto, exec_copy, exec_gath, exec_scat, exec_mcast, exec_cfill]
    exact engineOp_canonical h _ _ _
  case tmma | ttr | tperm | tred | azero | amov | amovt | acvt | arest | tmvGet | tmvPut | tfill =>
    simp only [exec_tmma, exec_ttr, exec_tperm, exec_tred, exec_azero, exec_amov, exec_amovt, exec_acvt, exec_arest,
      exec_tmvGet, exec_tmvPut, exec_tfill]
    exact matrixOp_canonical h _ _
  case nop => exact execNop_canonical h
  case bra => exact execBra_canonical h _
  case bany => exact execBany_canonical h _ _ _
  case ball => exact execBall_canonical h _ _ _
  case call => exact execCall_canonical h _
  case ret => exact execRet_canonical h _
  case brr => exact execBrr_canonical h _
  case brrL => exact execBrrL_canonical h _
  case ifP => exact execIfP_canonical h _ _ _
  case elseP => exact execElseP_canonical h _
  case endif => exact execEndif_canonical h
  case loop => exact execLoop_canonical h _ _
  case loopr => exact execLoopr_canonical h _ _
  case lbrk => exact execLbrk_canonical h
  case regang => exact execRegang_canonical h
  case exit => exact execExit_canonical h
  case yield => exact execYield_canonical h
  case mode => exact execMode_canonical h _
  case mtype => exact execMtype_canonical h _
  case mrnd => exact execMrnd_canonical h _
  case mguard => exact execMguard_canonical h _ _ _
  case mfs => exact execMfs_canonical h _ _
  case mts => exact execMts_canonical h _ _
  case trap => exact execTrap_canonical h _
  case rti => exact execRti_canonical h
  case sysKill => exact execSysKill_canonical h
  case sysAbort => exact execSysAbort_canonical h _
  case brk => exact execBrk_canonical h _
  case pause => exact execPause_canonical h _
  case sel => exact execSel_canonical h _ _ _
  case pmovGet => exact execPmovGet_canonical h _
  case pmovSet => exact execPmovSet_canonical h _
  case red => exact execRed_canonical h _ _ _
  case fred => exact execFred_canonical h _ _ _
  case scan => exact execScan_canonical h _ _ _ _
  case fscan => exact execFscan_canonical h _ _ _ _
  case vote => exact execVote_canonical h _ _ _
  case lid => exact execLid_canonical h _
  case ldw => exact execLdw_canonical h _ _ _
  case chk => exact execChk_canonical h _
  case acq => exact execAcq_canonical h _ _
  case rel => exact execRel_canonical h _ _
  case bind => exact execBind_canonical h _ _ _
  case unbind => exact execUnbind_canonical h _ _ _
  case fence => exact execFence_canonical h _
  case barvWait => exact execBarvWait_canonical h _
  case fetake => exact execFetake_canonical h _
  case feput => exact execFeput_canonical h _ _
  case wshare => exact execWshare_canonical h _ _
  case acqw => exact execAcqw_canonical h _ _
  case cbarWait => exact execCbarWait_canonical h _
  case asave => exact execAsave_canonical h _
  case copyf => exact execCopyf_canonical h _ _ _ _
  case wait => exact execWait_canonical h _ _
  case cwp => exact execCwp_canonical h _ _
  case qcall => exact execQcall_canonical h _ _ _ _
  case qwait => exact execQwait_canonical h _ _
  case qpoll => exact execQpoll_canonical h _ _
  case send => exact execSend_canonical h _ _
  case recv => exact execRecv_canonical h _ _
  case chinfo => exact execChinfo_canonical h _ _
  case cluPbc => exact execCluPbc_canonical h _ _
  case cluCstat => exact execCluCstat_canonical h _ _
  case xltInv => exact execXltInv_canonical h _ _
  case xltProbe => exact execXltProbe_canonical h _ _
  case xltReplay => exact execXltReplay_canonical h _
  case xltCancel => exact execXltCancel_canonical h _
  case xltFblk => exact execXltFblk_canonical h _ _
  case xltFmove => exact execXltFmove_canonical h _ _
  case xltFunblk => exact execXltFunblk_canonical h _ _
  case ckpPreg => exact execCkpPreg_canonical h _ _
  case ckpGreg => exact execCkpGreg_canonical h _ _
  case ckpUnreg => exact execCkpUnreg_canonical h _ _
  case ckpGlaunch => exact execCkpGlaunch_canonical h _ _
  case ckpGstat => exact execCkpGstat_canonical h _ _
  case ckpTake => exact execCkpTake_canonical h _ _
  case ckpRoll => exact execCkpRoll_canonical h _ _
  case ckpDrain => exact execCkpDrain_canonical h _ _
  case ckpRestore => exact execCkpRestore_canonical h _ _
  case ckpEpnew => exact execCkpEpnew_canonical h _
  case ckpDeadline => exact execCkpDeadline_canonical h _ _
  case ckpBudget => exact execCkpBudget_canonical h _ _
  case dbgAttach => exact execDbgAttach_canonical h _ _
  case dbgDetach => exact execDbgDetach_canonical h _
  case dbgWpset => exact execDbgWpset_canonical h _ _
  case dbgStop => exact execDbgStop_canonical h _
  case dbgGo => exact execDbgGo_canonical h _
  case dbgStep => exact execDbgStep_canonical h _
  case dbgRd => exact execDbgRd_canonical h _ _
  case dbgWr => exact execDbgWr_canonical h _ _
  case dbgWait => exact execDbgWait_canonical h _
  case dbgFreeze => exact execDbgFreeze_canonical h _
  case dbgThaw => exact execDbgThaw_canonical h _
  case dbgWhy => exact execDbgWhy_canonical h _ _
  case dbgVwpset => exact execDbgVwpset_canonical h _ _
  case modgShare => exact execModgShare_canonical h _ _
  case modgUnshare => exact execModgUnshare_canonical h _ _
  case modgFork => exact execModgFork_canonical h _ _
  case modgKey => exact execModgKey_canonical h _ _
  case modgFassign => exact execModgFassign_canonical h _ _
  case modgMigr => exact execModgMigr_canonical h _ _
  case modgMdone => exact execModgMdone_canonical h _ _
  case modgHeal => exact execModgHeal_canonical h _ _
  case modgSopen => exact execModgSopen_canonical h _ _
  case modgSclose => exact execModgSclose_canonical h _ _
  case pauseExpiry => exact execPauseExpiry_canonical h
  case resultWrite => exact execResultWrite_canonical h
  case qcallAppend => exact execQcallAppend_canonical h
  case sendAppend => exact execSendAppend_canonical h
  case producerDelivery => exact execProducerDelivery_canonical h
  case returnRecord => exact execReturnRecord_canonical h
  case unitFaultTrap => exact execUnitFaultTrap_canonical h
  case trapEntry => exact execTrapEntry_canonical h
  case teamLaunch => exact execTeamLaunch_canonical h
  case teamExit => exact execTeamExit_canonical h
  case commandFire => exact execCommandFire_canonical h
  case commandRetire => exact execCommandRetire_canonical h
  case copyDelivery => exact execCopyDelivery_canonical h
  case followOnPush => exact execFollowOnPush_canonical h
  case mxReset => exact execMxReset_canonical h
  case crewLaunch => exact execCrewLaunch_canonical h
  case mcastFillLand => exact execMcastFillLand_canonical h
  case drainSave => exact execDrainSave_canonical h
  case drainDeadline => exact execDrainDeadline_canonical h
  case timeSliceEnd => exact execTimeSliceEnd_canonical h
  case accessAtHome => exact execAccessAtHome_canonical h
  case leaseRenewal => exact execLeaseRenewal_canonical h
  case confirmationRequest => exact execConfirmationRequest_canonical h
  case watchConfirm => exact execWatchConfirm_canonical h
  case watchStrike => exact execWatchStrike_canonical h
  case watchTimeout => exact execWatchTimeout_canonical h
  case versionReport => exact execVersionReport_canonical h
  case stopRecords => exact execStopRecords_canonical h
  case stepWindowClose => exact execStepWindowClose_canonical h
  case recordReserve => exact execRecordReserve_canonical h
  case recordCommit => exact execRecordCommit_canonical h
  case instanceStart => exact execInstanceStart_canonical h
  case phaseComplete => exact execPhaseComplete_canonical h
  case budgetWindow => exact execBudgetWindow_canonical h
  case dieTemperature => exact execDieTemperature_canonical h
  case thermtrip => exact execThermtrip_canonical h
  case cutAttempt => exact execCutAttempt_canonical h
  case cut => exact execCut_canonical h
  case cutWaitExpiry => exact execCutWaitExpiry_canonical h
  case cutRetry => exact execCutRetry_canonical h
  case rollback => exact execRollback_canonical h
  case vrOpen => exact execVrOpen_canonical h
  case vrPrim => exact execVrPrim_canonical h
  case vrDone => exact execVrDone_canonical h
  case vrWaitf => exact execVrWaitf_canonical h
  case vrSlotFinal => exact execVrSlotFinal_canonical h
  case buOpenf => exact execBuOpenf_canonical h
  case buBin => exact execBuBin_canonical h
  case buClose => exact execBuClose_canonical h
  case bluOpen => exact execBluOpen_canonical h
  case bluFrag => exact execBluFrag_canonical h
  case bluDone => exact execBluDone_canonical h
  case bluWaitf => exact execBluWaitf_canonical h
  case bluCommit => exact execBluCommit_canonical h
  case tfuSample => exact execTfuSample_canonical h
  case ryuTrace => exact execRyuTrace_canonical h
  case bvoStart => exact execBvoStart_canonical h
  case bvoStop => exact execBvoStop_canonical h
  case bvoSubtreeReplace => exact execBvoSubtreeReplace_canonical h
  case fenOpens => exact execFenOpens_canonical h
  case fenFrame => exact execFenFrame_canonical h
  case fenRelease => exact execFenRelease_canonical h
  case fenCloses => exact execFenCloses_canonical h
  case unitReset => exact execUnitReset_canonical h
  case faultRecordWrite => exact execFaultRecordWrite_canonical h
  case gangUnpark => exact execGangUnpark_canonical h
  case hang => exact execHang_canonical h
  case uncorrectableError => exact execUncorrectableError_canonical h
  case correctableError => exact execCorrectableError_canonical h
  case pcmdCommit => exact execPcmdCommit_canonical h
  case pcmdRelease => exact execPcmdRelease_canonical h
  case doorbell => exact execDoorbell_canonical h
  case attcmdGo => exact execAttcmdGo_canonical h
  case attestationDone => exact execAttestationDone_canonical h
  case dbgcmdFreeze => exact execDbgcmdFreeze_canonical h
  case dbgcmdThaw => exact execDbgcmdThaw_canonical h
  case dbgdataRead => exact execDbgdataRead_canonical h
  case dbgdataWrite => exact execDbgdataWrite_canonical h
  case errCounterWrite => exact execErrCounterWrite_canonical h
  case mgmtRegisterWrite => exact execMgmtRegisterWrite_canonical h
  case priResponse => exact execPriResponse_canonical h
  case atsTranslationResponse => exact execAtsTranslationResponse_canonical h
  case atsInvalidation => exact execAtsInvalidation_canonical h
  case moduleResetRelease => exact execModuleResetRelease_canonical h
  case flitCheckFail => exact execFlitCheckFail_canonical h
  case portDown => exact execPortDown_canonical h
  case collectiveAllreduce => exact execCollectiveAllreduce_canonical h
  case collectiveBroadcast => exact execCollectiveBroadcast_canonical h
  case collectiveResult => exact execCollectiveResult_canonical h
  case illegalOpcode => exact execIllegalOpcode_canonical h
  case sequenceFetch => exact execSequenceFetch_canonical h
  case hostPostedWrite => exact execHostPostedWrite_canonical h
  case moduleReset => exact execModuleReset_canonical h
  case moduleLeavesArmada => exact execModuleLeavesArmada_canonical h
  case portRetrained => exact execPortRetrained_canonical h
  case routesRecomputed => exact execRoutesRecomputed_canonical h

theorem State.happen_canonical {s : State} (h : s.Canonical) (e) :
    OutcomeCanonical (s.happen e) := exec_canonical (s := { s with ev := e }) h e.row

theorem step_canonical {s : State} (h : s.Canonical) : OutcomeCanonical (step s) := by
  unfold step
  split
  · intro t e
    cases e
  dsimp only
  have hb := State.begin_canonical h
  generalize s.begin = b at hb ⊢
  split
  · exact outcomeCanonical_next hb
  · split
    · exact outcomeCanonical_next hb
    split
    · exact outcomeCanonical_next hb
    · exact State.happen_canonical (by exact hb) _
  · next core _ =>
    have hc := State.choose_canonical hb core
    split <;> rename_i e <;> rw [e] at hc
    · exact exec_canonical hc _
    · exact outcomeCanonical_next hc
  · exact outcomeCanonical_next (State.retest_canonical hb _ _ _)
  · exact outcomeCanonical_next (State.pass_canonical hb _ _)
  · split
    · exact outcomeCanonical_next hb
    split
    · exact outcomeCanonical_next (State.post_canonical hb _)
    · exact State.happen_canonical hb _

/-- Settles O60: every write to a memory goes through `Cells.write` or takes entries out of it, and both keep the
form; no other function of the model touches a memory. -/
theorem memoriesStayCanonical : Obligations.MemoriesStayCanonical :=
  ⟨fun _ t h e => step_canonical h t e, fun i _ t h e => exec_canonical h i t e⟩

end Sys2Proof.Machine
